-- ==== Sys2Proof/Word.lean ====
section
/-! DEFINITION. The widths the manual uses and the plain shape of sparse data: fabric values of eight
contexts, control words, and finite maps written as lists of key and value. -/

namespace Sys2Proof

/-- An 8-bit fabric value: bit c belongs to context c (R2, data conventions). -/
abbrev Ctx := BitVec 8

/-- A byte of memory or of a frame. -/
abbrev Byte := BitVec 8

/-- A control register, or a 32-bit word of a word engine or of a steward (R4). -/
abbrev Word := BitVec 32

/-- Sparse data by key. A key that is not listed has the default that the reader names. -/
abbrev SMap (α : Type) := List (Nat × α)

end Sys2Proof
end

