-- ==== Sys2Proof/Machine/CellarState.lean ====
section
/-! DEFINITION. State of the cellar and its controller (chapter 14) beside its registers. -/

namespace Sys2Proof.Machine

/-- Who reaches the cellar, by the classes of R575. `steward c far` is a steward's view through FWA, W0 to W3 and GRD,
or through FAR. -/
inductive CelWho where
  | pageFill | pageWrite | spring | ckptWriter | compare
  | steward (cluster : Nat) (far : Bool)
  | loader | attic | blob | host | jtag
  | dma (channel : Nat)
deriving DecidableEq, Repr

/-- What the check of a stored line gives (R580, R581): it verifies; it fails and the second reading verifies; it
fails twice. Of an open line only an uncorrectable HBM error fails. -/
inductive Verdict where
  | pass | recovered | fails
deriving DecidableEq, Repr

/-- The key of a region: whether it still belongs to the seal epoch before the current one (R587), its generation
(R571, R584), and whether that is exhausted (R587). -/
structure RegionKey where
  old  : Bool
  gen  : Nat
  exh  : Bool
deriving DecidableEq, Repr

def RegionKey.reset : RegionKey := { old := false, gen := 0, exh := false }

/-- An area of the model window (R574): its first region, its length and its pool. -/
structure Area where
  first : Nat
  count : Nat
  pool  : Nat
deriving DecidableEq, Repr

/-- A pseudo-channel (R598). Roles: 0 to 3 the pools, 4 reserve, 5 retired. -/
structure PcState where
  role     : Nat
  entry    : Nat
  replaces : Nat
  copying  : Bool
  bistOk   : Bool
deriving DecidableEq, Repr

def PcState.reset : PcState := { role := 0, entry := 0, replaces := 0x7F, copying := false, bistOk := false }

/-- A write that waits for the re-key pointer (R586): the line, the byte offset in it and the bytes. -/
structure HeldWrite where
  who   : CelWho
  line  : Nat
  ofs   : Nat
  bytes : List Byte
deriving DecidableEq, Repr

/-- The answer to an access of the cellar. -/
structure CelResp where
  who    : CelWho
  line   : Nat
  status : Nat
  data   : List Byte
deriving DecidableEq, Repr

/-- A blob operation in progress (R589). -/
structure BlobOp where
  opens  : Bool
  src    : Nat
  dst    : Nat
  len    : Nat
  slot   : Nat
  count  : Nat
deriving DecidableEq, Repr

/-- The cellar. -/
structure Cellar where
  /-- Plaintext of the cellar by byte offset, in canonical form; a byte that is not listed reads 0 (R571). -/
  mem : List Host.Cell
  /-- Lines, by number, that are poisoned (R580). -/
  poison : SMap Bool
  /-- Lines whose stored bits an upset has altered since they were written: their check fails (R580, R715). -/
  upset : SMap Bool
  /-- Write counter W of each sealed line (R577). -/
  ctr : SMap Nat
  /-- Keys of the regions (R584). -/
  keys : SMap RegionKey
  /-- The general window is laid out (R573). -/
  laid : Bool
  /-- Areas of the model window (R574). -/
  areas : List Area
  /-- Regions queued for re-keying by pool, and the region and line pointer under way (R585). -/
  rkQueue : SMap (List Nat)
  rkNow   : SMap (Option (Nat × Nat))
  /-- The background re-key after a reseal is under way (R587). -/
  reseal : Bool
  /-- Writes held (R586), oldest first. -/
  held : List HeldWrite
  /-- Pseudo-channels (R598), by number. -/
  pcs : SMap PcState
  /-- Restore reads whose verdict is outstanding (R583). -/
  restoreOpen : Nat
  /-- Answers, newest first. -/
  resps : List CelResp
  blob : Option BlobOp
deriving DecidableEq, Repr

def Cellar.reset : Cellar :=
  { mem := [], poison := [], upset := [], ctr := [], keys := [], laid := false, areas := [], rkQueue := [], rkNow := [],
    reseal := false, held := [], pcs := [], restoreOpen := 0, resps := [], blob := none }

end Sys2Proof.Machine
end

