-- ==== Sys2Proof/Messages.lean ====
section
/-! DEFINITION. The messages that cross the edge of the device: spring messages of the tree (R185). -/

namespace Sys2Proof

/-- The request kinds of REQ and REJECT (R185, R213). -/
inductive ReqKind where
  | run | hold | resume | cen | forceRb
deriving DecidableEq, Repr

/-- The messages of the spring (R185). Times are in units of 2^-16 ns (R426). -/
inductive SpringMsg where
  | start    (ts : Nat) (first : BitVec 48)
  | decide   (value : BitVec 16) (effTick : Nat)
  | cen      (value : BitVec 8) (epoch : Nat)
  | hold     (epoch : Nat) (cause : Nat)
  | vote     (epoch : Nat) (pass stop : Bool) (cause : Nat) (dev : Nat)
  | commit   (epoch : Nat) (stop : Bool)
  | rollback (target ts cause origin : Nat) (hold : Bool)
  | rbDone
  | rbFail   (cause : Nat)
  | req      (kind : ReqKind) (value : BitVec 8) (dev : Nat)
  | reject   (dev : Nat) (kind : ReqKind)
deriving DecidableEq, Repr

/-- What every spring message carries beside its fields: the link it uses, the sequence number of that link (R187)
and the rollback generation (R186). -/
structure SpringHdr where
  link : Nat
  seq  : Nat
  gen  : BitVec 8
  /-- For an arriving message: the flit passed its CRC, and the lane that carried it (R187, R357). -/
  good : Bool := true
  lane : Nat := 0
deriving DecidableEq, Repr

/-- A training ordered set TS1 or TS2 (R347), with the result of its CRC. -/
structure TrainSet where
  lane   : Nat
  shape  : Nat
  rate   : Nat
  target : Nat
  slots  : Nat
  device : Nat
  link   : Nat
  good   : Bool
deriving DecidableEq, Repr

/-- What a scrub port or the device lane reads (R616): an entry of a BP or word-engine instruction memory by physical
cluster, unit and entry, or a table entry by its control address. -/
inductive ScrubAt where
  | bp    (cluster unit entry : Nat)
  | we    (cluster unit entry : Nat)
  | table (addr : Nat)
deriving DecidableEq, Repr

/-- The bits that a SOFT_ERROR alters (R71, R72, R91, R115, R157, R476, R514, R580, R715): data bits first, then check
bits. Units are named by physical cluster, a cellar or cache line by its number. -/
inductive Upset where
  | bp     (cluster unit entry : Nat) (bits : List Nat)
  | pond   (cluster unit entry : Nat) (bits : List Nat)
  | we     (cluster unit entry : Nat) (bits : List Nat)
  | row    (cluster room row : Nat) (bits : List Nat)
  | table  (addr : Nat) (bits : List Nat)
  | cache  (line : Nat) (bits : Nat)
  | icache (cluster line : Nat)
  | pool   (cluster flow index : Nat) (bits : Nat)
  | cellar (line : Nat) (bits : List Nat)
deriving DecidableEq, Repr

/-- A scan of the JTAG boundary register (R662, R712): the levels that Capture-DR finds at the cells, and the bits that
Shift-DR puts there, where the scan shifts all of them. -/
structure BoundScan where
  pins  : List Bool
  shift : Option (List Bool)
deriving DecidableEq, Repr

/-- What the voter over the three scrubber copies finds (R619). -/
inductive ScrubVote where
  | agree
  | odd (copy : Nat)
  | disagree
  | romBad
deriving DecidableEq, Repr

/-- What the device has sent: one entry per message, newest first in the outbox. -/
inductive OutMsg where
  /-- A spring message on a tree link (R185, R359). -/
  | spring (hdr : SpringHdr) (msg : SpringMsg)
  /-- A RESULT flit on a stream port (R364, R376). -/
  | resultFlit (link seq : Nat) (words : List (BitVec 64))
  /-- A service message on a tree link (R362). -/
  | service (link opc src dst : Nat) (body : List (BitVec 8))
  /-- Service flits sent again, by sequence number (R361). -/
  | svcResend (link : Nat) (seqs : List Nat)
  /-- A command or an answer in the MGMT flits of a link (R363). -/
  | mgmt (link cmd clane cid : Nat)
  /-- A MARK returned as MARK_ECHO (R349). -/
  | markEcho (link stamp : Nat)
  /-- A response flit delivered at a node, with its status (R531). -/
  | response (node status : Nat) (data : BitVec 32)
  /-- A PCIe memory write of the DMA engine (R551). -/
  | hostWrite (addr : Nat) (bytes : List (BitVec 8))
  /-- A trace frame: on the pins, or on a lane (R658 to R660). -/
  | traceFrame (lane : Option Nat) (bytes : List (BitVec 8))
  /-- An MSI-X message on a vector (R703). -/
  | msix (vector : Nat)
deriving DecidableEq, Repr

end Sys2Proof
end

