-- ==== Sys2Proof/Machine/ChipState.lean ====
section
/-! DEFINITION. State of the device as a whole (chapters 00 and 01): the device state, the cluster map, pins,
control accesses and their answers. -/

namespace Sys2Proof.Machine

/-- The device states of R10. -/
inductive DevState where
  | off | boot | blank | loading | ready | running | held | safe
deriving DecidableEq, Repr

/-- The roles of a physical cluster (R19). -/
inductive Role where
  | active | spare | retired
deriving DecidableEq, Repr

/-- Who issues a control access. `steward` is the write or read of a steward that a command of the table names; `core` is
the access of the instruction that a steward executes, which waits for its answer (R473). `remote` names the device
that issued an RREQ, and its TAG (R362). -/
inductive Requester where
  | host
  | steward (cluster : Nat)
  | core (cluster : Nat)
  | remote (dev tag : Nat)
  | i2c
  | jtag
  | attic
  | loader
  | mover
  | tim
  | dma (channel : Nat)
deriving DecidableEq, Repr

/-- The status of a response (R531). -/
inductive RespStatus where
  | ok | error | poison
deriving DecidableEq, Repr

/-- A completed control access: who asked, its status and the data read. -/
structure Resp where
  who    : Requester
  status : RespStatus
  data   : Word
deriving DecidableEq, Repr

/-- A remote access issued through a remote device window and not yet answered (R41, R44). `issued` is TB1 at issue
in units of 2^-16 ns. -/
structure RemoteAcc where
  who    : Requester
  tag    : Nat
  dev    : Nat
  addr   : Nat
  write  : Bool
  data   : Word
  issued : Nat
deriving DecidableEq, Repr

/-- State of the device as a whole. -/
structure Chip where
  devState   : DevState
  /-- True from the moment a shell has taken effect until Boot is entered again (R30, R229). -/
  shellUp    : Bool
  /-- Logical to physical map (R17), by logical cluster. -/
  clusterMap : SMap Nat
  /-- Role of each physical cluster (R19). -/
  role       : SMap Role
  /-- Physical clusters that the attic has opened for BIST (R38). -/
  bistOpen   : SMap Bool
  /-- LOAD_ERR_N asserted (R11). -/
  loadErr    : Bool
  /-- Captured words of multi-word quantities, by register address (R5). -/
  capture    : SMap Word
  /-- The last completed control access of each requester, newest first, until a response flit delivers it. -/
  resps      : List Resp
  /-- Remote accesses in flight (R41). -/
  remote     : List RemoteAcc
  /-- Next TAG of a remote access (R410). -/
  nextTag    : Nat
deriving DecidableEq, Repr

/-- Identity map within each shelf (R17): logical cluster 16s + i is physical cluster 17s + i. -/
def idMap (m : Nat) : Nat := 17 * (m / 16) + m % 16

/-- Role at the reset of the POR domain (R17): cluster 17s + 16 is the spare of shelf s. -/
def idRole (p : Nat) : Role := if p % 17 = 16 then .spare else .active

/-- Power-on (R17). -/
def Chip.reset : Chip :=
  { devState := .off, shellUp := false, clusterMap := [], role := [], bistOpen := [], loadErr := false,
    capture := [], resps := [], remote := [], nextTag := 0 }

end Sys2Proof.Machine
end

