-- ==== Sys2Proof/Machine/CrateState.lean ====
section
/-! DEFINITION. State of the crate and of enumeration (chapter 09) beside the HST_CRT registers. -/

namespace Sys2Proof.Machine

/-- The answer of a child to EN_PROBE (R399, R401). -/
structure ChildAns where
  busy    : Bool
  missing : Bool
  tooMany : Bool
  size    : Nat
  depth   : Nat
  tsub    : Nat
deriving DecidableEq, Repr

/-- Place of the device in its tick domain, from the CRATE shell record (R395), and the enumeration in progress. -/
structure Crate where
  /-- This device is the root of its tick domain. -/
  isRoot   : Bool
  /-- The tree link toward the head. -/
  uplink   : Option Nat
  /-- The tree links toward the children, in child order. -/
  children : List Nat
  peers    : List Nat
  /-- Devices that the domain must hold; 0 for no check. -/
  expect   : Nat
  /-- An EN_PROBE held until Blank is entered (R401). -/
  held     : Option Nat
  /-- The device waits for its children's answers. -/
  probing  : Bool
  /-- Answers of the children, by child index (R401). -/
  answers  : SMap (Option ChildAns)
  /-- Children that have sent EN_DONE (R403). -/
  done     : List Nat
  /-- Last SUBSTAT word of each child, by child index, and the children that count as missing (R413, R414). -/
  subs     : SMap Word
  gone     : List Nat
deriving DecidableEq, Repr

def Crate.reset : Crate :=
  { isRoot := false, uplink := none, children := [], peers := [], expect := 0, held := none, probing := false,
    answers := [], done := [], subs := [], gone := [] }

end Sys2Proof.Machine
end

