-- ==== Sys2Proof/Machine/LoaderState.lean ====
section
/-! DEFINITION. State of Boot, of the shell and of the image loader (chapter 06) beside the IMG registers. -/

namespace Sys2Proof.Machine

/-- An error of the loader as LD_VOTE and LD_ABORT carry it (R257, R362): code, device, IMG_ERR_SECT, IMG_ERR_LOC. -/
structure LdErr where
  code : Nat
  dev  : Nat
  sect : Word
  loc  : Word
deriving DecidableEq, Repr

/-- A shell that is being received from one source (R230 to R234): the bytes of the frames accepted, the number of the
next frame, how often it has failed, and the bytes of the feed or of a message that wait to be taken. -/
structure ShellRx where
  live  : Bool
  bytes : List Byte
  next  : Nat
  tries : Nat
  buf   : List Byte
deriving DecidableEq, Repr

def ShellRx.reset : ShellRx := { live := false, bytes := [], next := 0, tries := 0, buf := [] }

/-- A section table entry (R240). `raw` is the entry as it stands in the stream. -/
structure ImgSect where
  typ    : Nat
  flags  : Nat
  devLo  : Nat
  devHi  : Nat
  unit   : Nat
  sub    : Nat
  target : Nat
  off    : Nat
  len    : Nat
  index  : Nat
  raw    : List Byte
deriving DecidableEq, Repr

/-- A section that the device keeps, with its plaintext (R253). -/
structure Staged where
  sect : ImgSect
  text : List Byte
deriving DecidableEq, Repr

/-- The loader. -/
structure Loader where
  /-- Boot stage 1 to 5 (R227); 0 outside Boot. -/
  boot     : Nat
  /-- Shell receptions by source: 0 primary copy, 1 backup copy, 2 head, 3 host (R230). -/
  rx       : SMap ShellRx
  /-- The source whose shell is complete and being checked (R238). -/
  checking : Option Nat
  /-- Payloads of the CHILD records in force, by link (R233). -/
  serve    : List (Nat × List Byte)
  /-- The load (1) or shelf reload (2) that this device takes part in; 0 for none. -/
  kind     : Nat
  /-- The operation that the domain has in progress, kept by the root (R249, R263). -/
  domain   : Nat
  /-- The root has sent LD_COMMIT (R256). -/
  sent     : Bool
  /-- Target device of a reload, once the root knows it (R263). -/
  target   : Option Nat
  /-- Devices that have answered LD_ACK and LD_READY (R249, R256). -/
  acks     : List Nat
  readys   : List Nat
  /-- Votes of children, by link: none is PASS (R255). The device's own vote; whether the vote has been sent up. -/
  votes    : List (Nat × Option LdErr)
  mine     : Option (Option LdErr)
  voted    : Bool
  /-- Bytes of a reload stream that the root holds until it knows the target. -/
  fed      : List Byte
  /-- The stream as this device has received it. -/
  stream   : List Byte
  /-- Header and table checks made; sections that have ended (R260). -/
  hdrDone  : Bool
  tblDone  : Bool
  ended    : Nat
  staged   : List Staged
  /-- Reservations of R254 made, with the placement of each backing array: logical cluster, room, page. -/
  reserved : Bool
  arrays   : List (Nat × Nat × Nat)
  /-- The resident copy (R256, R262). -/
  resident : List Staged
  /-- LINKREC records in force, by link: granted slots and target latency (R241). -/
  lkRec    : SMap (Option (Nat × Nat))
  /-- Commit writes done; the device waits for its links (R256). -/
  waiting  : Bool
  /-- Shelf under reload, and reload sections held until epoch J_j commits (R263, R268). -/
  shelf    : Nat
  pendingRes : List Staged
deriving DecidableEq, Repr

def Loader.reset : Loader :=
  { boot := 0, rx := [], checking := none, serve := [], kind := 0, domain := 0, sent := false, target := none,
    acks := [], readys := [], votes := [], mine := none, voted := false, fed := [], stream := [], hdrDone := false,
    tblDone := false, ended := 0, staged := [], reserved := false, arrays := [], resident := [], lkRec := [],
    waiting := false, shelf := 0, pendingRes := [] }

end Sys2Proof.Machine
end

