-- ==== Sys2Proof/Syntax.lean ====
section
/-! DEFINITION. The commands of the block: one constructor per row of the table of operations. Operands: `who` is the
requester of a control access; `m` a logical and `p` a physical cluster (or a lane, where the command names lanes); `n`,
`e`, `r` a unit of the cluster; `t` a schedule step; `l` a link; `h` a shelf, or the header of a spring message; `v` a
word; `a` a control address and `o` an offset; `chk` what the check of a stored line gives. -/

namespace Sys2Proof

open Sys2Proof.Machine

inductive Instr where
  /- Resets and Boot (chapter 06, 17) -/
  /-- PORST_ASSERT (R686). -/
  | porstAssert
  /-- PORST_RELEASE (R226). -/
  | porstRelease
  /-- PERST_ASSERT (R688). -/
  | perstAssert
  /-- CONFIG_READY (R228). -/
  | configReady
  /-- BOOT_STAGE_DONE (R227). -/
  | bootStageDone (flash : Bool)
  /-- BOOT_STAGE_TIMEOUT (R227). -/
  | bootStageTimeout
  /-- SHELL_FRAME (R231). -/
  | shellFrame (src : Nat) (l : Nat) (flash : List Byte)
  /-- SHELL_VERIFIED (R238). -/
  | shellVerified
  /- Control accesses (chapter 01) -/
  /-- REG_WRITE (R6). -/
  | regWrite (who : Requester) (a : Nat) (len : Nat) (v : Word)
  /-- WIDE_READ_CAPTURE (R5). -/
  | wideReadCapture (who : Requester) (a : Nat) (len : Nat)
  /-- TIM_NOW_CAPTURE (R450). -/
  | timNowCapture (who : Requester)
  /-- MODEL_STATE_ACCESS (R30). -/
  | modelStateAccess (who : Requester) (a : Nat) (write : Bool) (v : Word)
  /-- REMOTE_ACCESS (R41). -/
  | remoteAccess (who : Requester) (w : Nat) (o : Nat) (write : Bool) (v : Word)
  /-- REMOTE_ACCESS_TIMEOUT (R41). -/
  | remoteAccessTimeout (tag : Nat)
  /-- RESPONSE_FLIT (R531). -/
  | responseFlit (dst : Nat)
  /- Ticks and Boolean processors (chapters 02, 05) -/
  /-- TICK_START (R173). -/
  | tickStart (delta : Int)
  /-- PLAIN (R51). -/
  | plain (m : Nat) (n : Nat) (t : Nat)
  /-- NOP (R46). -/
  | nop (m : Nat) (n : Nat) (t : Nat)
  /-- STATE_WRITE (R55). -/
  | stateWrite (m : Nat) (n : Nat) (t : Nat)
  /-- INJECT_POINT (R75). -/
  | injectPoint (m : Nat) (n : Nat) (t : Nat)
  /-- SEL (R58). -/
  | sel (m : Nat) (n : Nat) (t : Nat)
  /-- SWAPHINT (R58). -/
  | swaphint (m : Nat) (n : Nat) (t : Nat)
  /-- ROWCOPY (R58). -/
  | rowcopy (m : Nat) (n : Nat) (t : Nat)
  /-- PROBE (R61). -/
  | probe (m : Nat) (n : Nat) (t : Nat)
  /-- BPC_INJ_WRITE (R77). -/
  | bpcInjWrite (who : Requester) (m : Nat) (n : Nat) (r : Nat) (v : Word)
  /-- BPC_CNT_CLR (R85). -/
  | bpcCntClr (who : Requester) (m : Nat) (n : Nat)
  /- Word engines and store rooms (chapter 03) -/
  /-- WE_NOP (R94). -/
  | weNop (m : Nat) (e : Nat) (t : Nat)
  /-- WE_ADD (R94). -/
  | weAdd (m : Nat) (e : Nat) (t : Nat)
  /-- WE_SUB (R94). -/
  | weSub (m : Nat) (e : Nat) (t : Nat)
  /-- WE_MOV (R94). -/
  | weMov (m : Nat) (e : Nat) (t : Nat)
  /-- WE_AND (R94). -/
  | weAnd (m : Nat) (e : Nat) (t : Nat)
  /-- WE_OR (R94). -/
  | weOr (m : Nat) (e : Nat) (t : Nat)
  /-- WE_XOR (R94). -/
  | weXor (m : Nat) (e : Nat) (t : Nat)
  /-- WE_ANDN (R94). -/
  | weAndn (m : Nat) (e : Nat) (t : Nat)
  /-- WE_SHL (R94). -/
  | weShl (m : Nat) (e : Nat) (t : Nat)
  /-- WE_SHR (R94). -/
  | weShr (m : Nat) (e : Nat) (t : Nat)
  /-- WE_SAR (R94). -/
  | weSar (m : Nat) (e : Nat) (t : Nat)
  /-- WE_ROL (R94). -/
  | weRol (m : Nat) (e : Nat) (t : Nat)
  /-- WE_POPC (R94). -/
  | wePopc (m : Nat) (e : Nat) (t : Nat)
  /-- WE_CLZ (R94). -/
  | weClz (m : Nat) (e : Nat) (t : Nat)
  /-- WE_SEL (R94). -/
  | weSel (m : Nat) (e : Nat) (t : Nat)
  /-- WE_CEQ (R94). -/
  | weCeq (m : Nat) (e : Nat) (t : Nat)
  /-- WE_CNE (R94). -/
  | weCne (m : Nat) (e : Nat) (t : Nat)
  /-- WE_CLTU (R94). -/
  | weCltu (m : Nat) (e : Nat) (t : Nat)
  /-- WE_CGEU (R94). -/
  | weCgeu (m : Nat) (e : Nat) (t : Nat)
  /-- WE_CLTS (R94). -/
  | weClts (m : Nat) (e : Nat) (t : Nat)
  /-- WE_CGES (R94). -/
  | weCges (m : Nat) (e : Nat) (t : Nat)
  /-- WE_MUL (R103). -/
  | weMul (m : Nat) (e : Nat) (t : Nat)
  /-- WE_MAC (R103). -/
  | weMac (m : Nat) (e : Nat) (t : Nat)
  /-- WE_MACC (R105). -/
  | weMacc (m : Nat) (e : Nat) (t : Nat)
  /-- MAC_UPDATE_COMPLETE (R104). -/
  | macUpdateComplete (m : Nat) (sl : Nat) (t : Nat)
  /-- WE_SRD (R110). -/
  | weSrd (m : Nat) (e : Nat) (t : Nat)
  /-- SRD_DATA_READY (R110). -/
  | srdDataReady (m : Nat) (r : Nat) (q : Nat) (t : Nat)
  /-- WE_SWR (R110). -/
  | weSwr (m : Nat) (e : Nat) (t : Nat)
  /-- PAGE_FILL_DONE (R121). -/
  | pageFillDone (m : Nat) (r : Nat) (page : Nat)
  /-- WEN_CNT_CLR (R131). -/
  | wenCntClr (who : Requester) (m : Nat) (e : Nat)
  /-- STR_CNT_CLR (R136). -/
  | strCntClr (who : Requester) (m : Nat) (r : Nat)
  /- Epochs, the spring and rollback (chapter 05) -/
  /-- TICK_OVERHEAD (R174). -/
  | tickOverhead
  /-- STAGE_WRITE_DONE (R301). -/
  | stageWriteDone (ok : Bool)
  /-- BOUNDARY_EXTENSION (R190). -/
  | boundaryExtension
  /-- CKPT_WRITE_RESPONSE (R192). -/
  | ckptWriteResponse (part : Nat) (epoch : Nat) (n : Nat) (ok : Bool)
  /-- DRAIN_LATE (R196). -/
  | drainLate (k : Nat)
  /-- SEND_PASS_VOTE (R188). -/
  | sendPassVote (k : Nat)
  /-- VOTE_TIMEOUT (R189). -/
  | voteTimeout
  /-- START (R206). -/
  | start (h : Option SpringHdr) (ts : Nat) (first : Nat)
  /-- RUN_SEGMENT_START (R172). -/
  | runSegmentStart
  /-- DECIDE (R181). -/
  | decide (h : Option SpringHdr) (v : BitVec 16) (m : Nat)
  /-- CEN (R178). -/
  | cen (h : Option SpringHdr) (v : Ctx) (e : Nat)
  /-- HOLD (R207). -/
  | hold (h : Option SpringHdr) (epoch : Nat) (cause : Nat)
  /-- VOTE (R188). -/
  | vote (h : SpringHdr) (k : Nat) (pass : Bool) (stop : Bool) (cause : Nat) (dev : Nat)
  /-- COMMIT (R199). -/
  | commit (h : Option SpringHdr) (k : Nat) (stop : Bool)
  /-- ROLLBACK (R201). -/
  | rollback (h : Option SpringHdr) (j : Nat) (ts : Nat) (cause : Nat) (origin : Nat) (hold : Bool)
  /-- RESTORE_DONE (R201). -/
  | restoreDone
  /-- RB_DONE (R186). -/
  | rbDone (h : SpringHdr)
  /-- RB_FAIL (R203). -/
  | rbFail (h : SpringHdr) (cause : Nat)
  /-- REQ (R213). -/
  | req (h : SpringHdr) (kind : ReqKind) (value : BitVec 8) (dev : Nat)
  /-- REJECT (R213). -/
  | reject (h : Option SpringHdr) (dev : Nat) (kind : ReqKind)
  /-- SPR_CTRL_RUN (R206). -/
  | sprCtrlRun (who : Requester)
  /-- SPR_CTRL_HOLD (R207). -/
  | sprCtrlHold (who : Requester)
  /-- SPR_CTRL_RESUME (R209). -/
  | sprCtrlResume (who : Requester)
  /-- SPR_CTRL_FORCE_RB (R213). -/
  | sprCtrlForceRb (who : Requester)
  /-- SPR_CEN_WRITE (R178). -/
  | sprCenWrite (who : Requester) (v : Word)
  /- Loading (chapter 06) -/
  /-- LOAD (R249). -/
  | load (who : Requester)
  /-- RELOAD (R263). -/
  | reload (who : Requester)
  /-- ABORT (R257). -/
  | abort (who : Requester)
  /-- SHELL_FEED (R234). -/
  | shellFeed (who : Requester)
  /-- REBOOT (R226). -/
  | reboot (who : Requester)
  /-- FEED_WRITE (R250). -/
  | feedWrite (who : Requester) (ofs : Nat) (bytes : List Byte)
  /-- LD_BEGIN (R249). -/
  | ldBegin (l : Nat) (kind : Nat) (target : Nat)
  /-- LD_ACK (R249). -/
  | ldAck (l : Nat) (src : Nat)
  /-- LD_ACK_TIMEOUT (R249). -/
  | ldAckTimeout
  /-- LD_DATA (R246). -/
  | ldData (l : Nat) (off : Nat) (dst : Nat) (bytes : List Byte)
  /-- LOAD_CHECKS_DONE (R255). -/
  | loadChecksDone
  /-- LD_VOTE (R255). -/
  | ldVote (l : Nat) (src : Nat) (v : Option LdErr)
  /-- LD_COMMIT (R256). -/
  | ldCommit (l : Nat) (bad : Option Nat)
  /-- ENTER_READY (R256). -/
  | enterReady
  /-- LD_READY (R256). -/
  | ldReady (l : Nat) (src : Nat)
  /-- LD_ABORT (R257). -/
  | ldAbort (l : Nat) (dst : Nat) (e : LdErr)
  /-- LOAD_STALL_TIMEOUT (R258). -/
  | loadStallTimeout
  /-- LINK_WAIT_TIMEOUT (R258). -/
  | linkWaitTimeout
  /-- RELOAD_VERIFIED (R265). -/
  | reloadVerified
  /-- RELOAD_WRITES_DONE (R268). -/
  | reloadWritesDone
  /-- BORDER_MODE_WRITE (R280). -/
  | borderModeWrite (who : Requester) (h : Nat) (k : Nat) (v : Word)
  /- Shell delivery and remote accesses (chapters 06, 08, 09) -/
  /-- SH_FRAME (R233). -/
  | shFrame (l : Nat) (index : Nat) (frame : List Byte)
  /-- SH_REQ (R233). -/
  | shReq (l : Nat) (index : Nat)
  /-- RREQ (R410). -/
  | rreq (l : Nat) (src : Nat) (dst : Nat) (addr : Nat) (write : Bool) (tag : Nat) (v : Word)
  /-- RRSP (R412). -/
  | rrsp (l : Nat) (dst : Nat) (tag : Nat) (bad : Bool) (v : Word)
  /- Compare and acquisition (chapter 07) -/
  /-- MOVER_RECORD (R302). -/
  | moverRecord
  /-- MOVER_EPOCH_DONE (R315). -/
  | moverEpochDone
  /-- ARM (R304). -/
  | arm (who : Requester) (v : Word)
  /-- DISARM (R305). -/
  | disarm (who : Requester) (v : Word)
  /-- TRIG (R307). -/
  | trig (who : Requester) (v : Word)
  /-- ACQ_CONTROL_WRITE (R305). -/
  | acqControlWrite (who : Requester) (o : Nat) (v : Word)
  /-- CMP_STAGED_WRITE (R286). -/
  | cmpStagedWrite (who : Requester) (o : Nat) (v : Word)
  /-- SWEEP_CLR (R316). -/
  | sweepClr (who : Requester) (v : Word)
  /-- CMP_NOTIFY_WRITE (R315). -/
  | cmpNotifyWrite (who : Requester) (v : Word)
  /-- GPIO_RISING_EDGE (R711). -/
  | gpioRisingEdge (i : Nat)
  /- Hersel links (chapter 08) -/
  /-- TS1 (R347). -/
  | ts1 (l : Nat) (t : TrainSet)
  /-- TS2 (R348). -/
  | ts2 (l : Nat) (t : TrainSet)
  /-- MARK (R349). -/
  | mark (l : Nat) (stamp : Nat) (step : Nat)
  /-- MARK_RETURN (R349). -/
  | markReturn (l : Nat) (stamp : Nat) (step : Nat)
  /-- MARK_ECHO (R349). -/
  | markEcho (l : Nat) (r : Nat)
  /-- LINK_STATE_DONE (R346). -/
  | linkStateDone (l : Nat) (lam : Nat) (boot : Bool)
  /-- LINK_STAGE_TIMEOUT (R351). -/
  | linkStageTimeout (l : Nat)
  /-- RETRAIN (R351). -/
  | retrain (who : Requester) (l : Nat)
  /-- LANE_LOCK_LOST (R352). -/
  | laneLockLost (p : Nat)
  /-- SIGNAL (R353). -/
  | signal (l : Nat) (slot : Nat) (bundle : Nat) (items : List (Bool × Ctx)) (lam : Nat) (lane : Nat) (good : Bool)
  /-- SIGNAL_ITEM_RELEASE (R354). -/
  | signalItemRelease (l : Nat) (slot : Nat) (step : Nat) (t : Nat)
  /-- STREAM_START (R364). -/
  | streamStart (l : Nat) (seq : Nat) (tick : Nat) (fbytes : Nat) (control : BitVec 64) (lane : Nat) (good : Bool)
  /-- STREAM_DATA (R364). -/
  | streamData (l : Nat) (seq : Nat) (bytes : List Byte) (lane : Nat) (good : Bool)
  /-- SERVICE (R361). -/
  | service (l : Nat) (seq : Nat) (som : Bool) (eom : Bool) (body : List Byte) (lane : Nat) (good : Bool)
  /-- SERVICE_RESEND_TIMEOUT (R361). -/
  | serviceResendTimeout (l : Nat)
  /-- SAMPLE (R435). -/
  | sample (l : Nat) (seq : Nat) (t1 : Nat) (t2 : Nat) (t3 : Nat) (t4 : Nat) (lane : Nat) (good : Bool)
  /-- MGMT (R363). -/
  | mgmt (l : Nat) (ack : Nat) (nak : Bool) (dstate : Nat) (dev : Nat) (commit : Nat) (lane : Nat) (good : Bool)
  /-- IDLE (R341). -/
  | idle (l : Nat) (lane : Nat) (good : Bool)
  /-- RESERVED_FLIT (R341). -/
  | reservedFlit (l : Nat) (lane : Nat) (kind : Nat)
  /-- SWAP (R378). -/
  | swap (l : Nat) (lane : Nat) (cid : Nat) (step : Nat)
  /-- SWAP_ACK (R378). -/
  | swapAck (l : Nat) (cid : Nat) (step : Nat)
  /-- SWAP_SWITCH (R378). -/
  | swapSwitch (l : Nat)
  /-- BIST_ON (R380). -/
  | bistOn (l : Nat) (p : Nat) (cid : Nat)
  /-- BIST_OFF (R380). -/
  | bistOff (l : Nat) (p : Nat) (cid : Nat)
  /-- LANE_BIST_DONE (R380). -/
  | laneBistDone (p : Nat) (errors : Nat)
  /-- LB2_ON (R382). -/
  | lb2On (l : Nat) (lane : Nat) (cid : Nat)
  /-- LB2_OFF (R381). -/
  | lb2Off (l : Nat) (lane : Nat) (cid : Nat)
  /-- LB3_ON (R382). -/
  | lb3On (l : Nat) (lane : Nat) (cid : Nat)
  /-- LB3_OFF (R381). -/
  | lb3Off (l : Nat) (lane : Nat) (cid : Nat)
  /-- CMD_ACK (R363). -/
  | cmdAck (l : Nat) (cid : Nat)
  /-- CMD_REFUSE (R382). -/
  | cmdRefuse (l : Nat) (cid : Nat)
  /-- LANE_CTRL_WRITE (R382). -/
  | laneCtrlWrite (who : Requester) (p : Nat) (v : Word)
  /-- LANE_CNT_CLR (R384). -/
  | laneCntClr (who : Requester) (p : Nat)
  /-- LINK_LOOPBACK_WRITE (R382). -/
  | linkLoopbackWrite (who : Requester) (l : Nat) (v : Word)
  /-- SP_WM_WRITE (R393). -/
  | spWmWrite (who : Requester) (l : Nat) (v : Word)
  /- Crates (chapter 09) -/
  /-- EN_PROBE (R401). -/
  | enProbe (l : Nat) (g : Nat)
  /-- EN_COUNT (R401). -/
  | enCount (l : Nat) (g : Nat) (a : ChildAns)
  /-- ENUM_CHILD_TIMEOUT (R401). -/
  | enumChildTimeout
  /-- EN_ASSIGN (R403). -/
  | enAssign (l : Nat) (g : Nat) (depth : Nat) (base : Nat) (ndev : Nat) (arrive : Nat) (ttree : Nat)
  /-- EN_DONE (R403). -/
  | enDone (l : Nat) (g : Nat)
  /-- EN_FAIL (R402). -/
  | enFail (l : Nat) (g : Nat) (cause : Nat)
  /-- SUBSTAT (R413). -/
  | substat (l : Nat) (w : Word)
  /-- SUBSTAT_PERIOD (R414). -/
  | substatPeriod
  /-- SUBSTAT_TIMEOUT (R414). -/
  | substatTimeout (i : Nat)
  /-- ENUM (R400). -/
  | enum (who : Requester)
  /- Time (chapter 10) -/
  /-- PLL_LOCK_LOSS (R427). -/
  | pllLockLoss
  /-- LINK_FRAME (R436). -/
  | linkFrame (ppb : Int)
  /-- REVERT (R443). -/
  | revert (who : Requester)
  /-- LAW_ARM (R432). -/
  | lawArm (who : Requester) (k : Nat)
  /-- LAW_IN_FORCE (R432). -/
  | lawInForce (k : Nat)
  /-- PPS_EDGE (R434). -/
  | ppsEdge (t : Nat) (ref : Int)
  /-- PPS_LOSS (R434). -/
  | ppsLoss
  /-- PULSE_ARM (R446). -/
  | pulseArm (who : Requester) (n : Nat) (v : Word)
  /-- PULSE_DISARM (R448). -/
  | pulseDisarm (who : Requester) (n : Nat) (v : Word)
  /-- PULSE_EDGE (R445). -/
  | pulseEdge (n : Nat)
  /-- PULSE_END (R445). -/
  | pulseEnd (n : Nat)
  /- Steward instructions (chapter 11) -/
  /-- ALU_ADD (R461). -/
  | aluAdd (p : Nat)
  /-- ALU_SUB (R461). -/
  | aluSub (p : Nat)
  /-- ALU_AND (R461). -/
  | aluAnd (p : Nat)
  /-- ALU_OR (R461). -/
  | aluOr (p : Nat)
  /-- ALU_XOR (R461). -/
  | aluXor (p : Nat)
  /-- ALU_ANDN (R461). -/
  | aluAndn (p : Nat)
  /-- SLL (R461). -/
  | sll (p : Nat)
  /-- SRL (R461). -/
  | srl (p : Nat)
  /-- SRA (R461). -/
  | sra (p : Nat)
  /-- MUL (R461). -/
  | mul (p : Nat)
  /-- MULHU (R461). -/
  | mulhu (p : Nat)
  /-- MULHS (R461). -/
  | mulhs (p : Nat)
  /-- DIVU (R462). -/
  | divu (p : Nat)
  /-- DIVS (R462). -/
  | divs (p : Nat)
  /-- REMU (R462). -/
  | remu (p : Nat)
  /-- REMS (R462). -/
  | rems (p : Nat)
  /-- MIN (R461). -/
  | min (p : Nat)
  /-- MAX (R461). -/
  | max (p : Nat)
  /-- MINU (R461). -/
  | minu (p : Nat)
  /-- MAXU (R461). -/
  | maxu (p : Nat)
  /-- POPC (R461). -/
  | popc (p : Nat)
  /-- CLZ (R461). -/
  | clz (p : Nat)
  /-- ADDI (R460). -/
  | addi (p : Nat)
  /-- ANDI (R460). -/
  | andi (p : Nat)
  /-- ORI (R460). -/
  | ori (p : Nat)
  /-- XORI (R460). -/
  | xori (p : Nat)
  /-- SLLI (R460). -/
  | slli (p : Nat)
  /-- SRLI (R460). -/
  | srli (p : Nat)
  /-- SRAI (R460). -/
  | srai (p : Nat)
  /-- LUI (R460). -/
  | lui (p : Nat)
  /-- LLO (R460). -/
  | llo (p : Nat)
  /-- CMP (R463). -/
  | cmp (p : Nat)
  /-- CMPI (R463). -/
  | cmpi (p : Nat)
  /-- PLOG (R460). -/
  | plog (p : Nat)
  /-- LW (R460). -/
  | lw (p : Nat)
  /-- LH (R460). -/
  | lh (p : Nat)
  /-- LHU (R460). -/
  | lhu (p : Nat)
  /-- LB (R460). -/
  | lb (p : Nat)
  /-- LBU (R460). -/
  | lbu (p : Nat)
  /-- SW (R460). -/
  | sw (p : Nat)
  /-- SH (R460). -/
  | sh (p : Nat)
  /-- SB (R460). -/
  | sb (p : Nat)
  /-- LINE_FILL (R474). -/
  | lineFill (p : Nat) (chk : Verdict) (alarm : Bool)
  /-- AMO_SWAP (R460). -/
  | amoSwap (p : Nat)
  /-- AMO_ADD (R460). -/
  | amoAdd (p : Nat)
  /-- AMO_AND (R460). -/
  | amoAnd (p : Nat)
  /-- AMO_OR (R460). -/
  | amoOr (p : Nat)
  /-- FENCE (R477). -/
  | fence (p : Nat)
  /-- INSTRUCTION_SYNC (R460). -/
  | instructionSync (p : Nat)
  /-- CMO_CLEAN (R478). -/
  | cmoClean (p : Nat)
  /-- CMO_INVALIDATE (R478). -/
  | cmoInvalidate (p : Nat)
  /-- CMO_CLEAN_INVALIDATE (R478). -/
  | cmoCleanInvalidate (p : Nat)
  /-- CMO_INVALIDATE_ILINE (R478). -/
  | cmoInvalidateIline (p : Nat)
  /-- B (R460). -/
  | b (p : Nat)
  /-- BL (R460). -/
  | bl (p : Nat)
  /-- JR (R460). -/
  | jr (p : Nat)
  /-- SYS (R460). -/
  | sys (p : Nat)
  /-- RFE (R483). -/
  | rfe (p : Nat)
  /-- MFSR (R480). -/
  | mfsr (p : Nat)
  /-- MTSR (R480). -/
  | mtsr (p : Nat)
  /-- GCALL (R486). -/
  | gcall (p : Nat)
  /-- GRET (R486). -/
  | gret (p : Nat)
  /-- GCALL_TIMEOUT (R487). -/
  | gcallTimeout (p : Nat)
  /-- BRK (R460). -/
  | brk (p : Nat)
  /-- WFT (R467). -/
  | wft (p : Nat)
  /-- WFT_RELEASE (R467). -/
  | wftRelease (p : Nat)
  /-- POST (R468). -/
  | post (p : Nat)
  /-- FCLAIM (R469). -/
  | fclaim (p : Nat)
  /-- FREL (R469). -/
  | frel (p : Nat)
  /-- AMB (R470). -/
  | amb (p : Nat)
  /- Steward events (chapters 11, 16) -/
  /-- INTERRUPT (R484). -/
  | interrupt (p : Nat)
  /-- HALT (R490). -/
  | halt (who : Requester) (p : Nat)
  /-- HALT_CLEAR (R490). -/
  | haltClear (who : Requester) (p : Nat)
  /-- STW_RESTART (R490). -/
  | stwRestart (who : Requester) (p : Nat) (halt : Bool)
  /-- STEWARD_DOORBELL (R494). -/
  | stewardDoorbell (who : Requester) (p : Nat) (v : Word)
  /-- STW_DBG_WRITE (R668). -/
  | stwDbgWrite (who : Requester) (p : Nat) (o : Nat) (v : Word)
  /- The task scheduler (chapter 12) -/
  /-- CREATE (R512). -/
  | create (p : Nat) (slot : Nat) (deadline : Word)
  /-- FREE (R512). -/
  | free (p : Nat) (slot : Nat)
  /-- DISPATCH (R512). -/
  | dispatch (p : Nat) (slot : Nat)
  /-- YIELD (R512). -/
  | yield (p : Nat) (slot : Nat)
  /-- BLOCK (R512). -/
  | block (p : Nat) (slot : Nat)
  /-- UNBLOCK (R512). -/
  | unblock (p : Nat) (slot : Nat)
  /-- SETDL (R512). -/
  | setdl (p : Nat) (slot : Nat) (deadline : Word)
  /-- WAIT (R513). -/
  | wait (p : Nat) (slot : Nat) (arg : Word)
  /-- FLUSH (R512). -/
  | flush (p : Nat) (flow : Nat)
  /-- TSK_CLR (R517). -/
  | tskClr (who : Requester) (p : Nat)
  /-- TSK_POST (R507). -/
  | tskPost (who : Requester) (p : Nat) (f : Nat) (item : Word)
  /-- DEADLINE_MISS (R503). -/
  | deadlineMiss (p : Nat) (i : Nat)
  /-- NIGOR_TICK (R510). -/
  | nigorTick (p : Nat)
  /- Control network, shelf power and DMA (chapters 13, 17) -/
  /-- GATE_REQUEST (R544). -/
  | gateRequest (who : Requester) (a : Nat) (write : Bool) (v : Word)
  /-- SWITCH (R539). -/
  | switch (who : Requester)
  /-- ROUTE_CHECK_DONE (R539). -/
  | routeCheckDone
  /-- GENERATION_DRAINED (R540). -/
  | generationDrained
  /-- SHELF_PHASE_DONE (R542). -/
  | shelfPhaseDone (h : Nat) (ok : Bool)
  /-- SHELF_ELIGIBLE (R690). -/
  | shelfEligible (h : Nat)
  /-- SHELF_DOWN (R690). -/
  | shelfDown (who : Requester) (h : Nat)
  /-- SHELF_UP (R690). -/
  | shelfUp (who : Requester) (h : Nat)
  /-- DMA_GO (R552). -/
  | dmaGo (who : Requester) (n : Nat) (v : Word)
  /-- DMA_CHANNEL_ACTIVE (R553). -/
  | dmaChannelActive (n : Nat)
  /-- DMA_READ_RESPONSE (R553). -/
  | dmaReadResponse (n : Nat) (data : List Byte) (bad : Bool) (chk : Verdict)
  /-- DMA_WRITE_RESPONSE (R557). -/
  | dmaWriteResponse (n : Nat) (chk : Verdict)
  /-- DMA_ABORT (R558). -/
  | dmaAbort (who : Requester) (n : Nat) (v : Word)
  /-- DMA_ACK (R563). -/
  | dmaAck (who : Requester) (n : Nat)
  /- The cellar (chapter 14) -/
  /-- CELLAR_READ (R581). -/
  | cellarRead (w : CelWho) (l : Nat) (chk : Verdict)
  /-- TAG_VERDICT (R582). -/
  | tagVerdict (epoch : Option Nat) (l : Nat) (chk : Verdict)
  /-- CELLAR_WRITE (R581). -/
  | cellarWrite (w : CelWho) (l : Nat) (ofs : Nat) (bytes : List Byte) (chk : Verdict)
  /-- REKEY_DONE (R585). -/
  | rekeyDone (p : Nat)
  /-- RESEAL_DONE (R587). -/
  | resealDone
  /-- RESERVE_COPY_DONE (R594). -/
  | reserveCopyDone (pc : Nat) (bad : List Nat)
  /-- SEAL (R589). -/
  | seal (who : Requester) (slot : Nat)
  /-- UNSEAL (R591). -/
  | unseal (who : Requester) (slot : Nat)
  /-- BLOB_DONE (R591). -/
  | blobDone
  /- The attic (chapter 15) -/
  /-- MAILBOX_DOORBELL (R701). -/
  | mailboxDoorbell (len : Word)
  /-- STATUS (R614). -/
  | status
  /-- LOG_READ (R614). -/
  | logRead
  /-- LOG_CLEAR (R614). -/
  | logClear
  /-- CHALLENGE (R614). -/
  | challenge
  /-- DEBUG_AUTH (R615). -/
  | debugAuth
  /-- DEBUG_REVOKE (R614). -/
  | debugRevoke
  /-- PROVISION (R614). -/
  | provision
  /-- DEPLOY (R614). -/
  | deploy
  /-- RETURN (R614). -/
  | return
  /-- SET_MINVER (R614). -/
  | setMinver
  /-- KEY_LOAD (R614). -/
  | keyLoad
  /-- KEY_CLEAR (R614). -/
  | keyClear
  /-- RETIRE (R628). -/
  | retire
  /-- BIST (R629). -/
  | bist
  /-- RESTART (R614). -/
  | restart
  /-- LOCK_OPEN (R608). -/
  | lockOpen
  /-- LOCK_CLOSE (R608). -/
  | lockClose
  /-- LOCK_EXPIRY (R608). -/
  | lockExpiry
  /-- CHALLENGE_EXPIRY (R614). -/
  | challengeExpiry
  /-- GRANT_EXPIRY (R615). -/
  | grantExpiry
  /-- SCRUB_READ (R618). -/
  | scrubRead (a : ScrubAt)
  /-- SWEEP_END (R617). -/
  | sweepEnd (v : ScrubVote)
  /-- SCRUB_COPY_REBUILT (R619). -/
  | scrubCopyRebuilt (k : Nat)
  /-- SCRUB_WATCHDOG (R619). -/
  | scrubWatchdog
  /-- FAULT_REPORT (R621). -/
  | faultReport
  /-- FAULT_CLASSIFY (R622). -/
  | faultClassify
  /-- AUTO_BIST (R629). -/
  | autoBist (cls : Nat) (unit : Nat)
  /-- BIST_DONE (R630). -/
  | bistDone (cls : Nat) (unit : Nat) (ok : Bool)
  /- Trace and JTAG (chapter 16) -/
  /-- TRACE_FRAME (R658). -/
  | traceFrame
  /-- TRC_SRC_WRITE (R646). -/
  | trcSrcWrite (who : Requester) (k : Nat) (v : Word)
  /-- TRC_CTRL_WRITE (R661). -/
  | trcCtrlWrite (who : Requester) (v : Word)
  /-- TAP_RESET (R662). -/
  | tapReset
  /-- EXTEST (R664). -/
  | extest (scan : Option BoundScan)
  /-- SAMPLE_PRELOAD (R662). -/
  | samplePreload (scan : Option BoundScan)
  /-- IDCODE (R662). -/
  | idcode
  /-- HIGHZ (R664). -/
  | highz
  /-- CLAMP (R664). -/
  | clamp
  /-- EXTEST_PULSE (R663). -/
  | extestPulse (scan : Option BoundScan)
  /-- EXTEST_TRAIN (R663). -/
  | extestTrain (scan : Option BoundScan)
  /-- DBGACC (R665). -/
  | dbgacc (data : Word) (addr : Nat) (write : Bool) (start : Bool)
  /-- DBGMB (R666). -/
  | dbgmb (word : Word) (last : Bool) (discard : Bool)
  /-- DBGSTAT (R667). -/
  | dbgstat
  /-- BYPASS (R662). -/
  | bypass
  /- Power, the host and the management target (chapter 17) -/
  /-- THERMAL_WARNING (R684). -/
  | thermalWarning (j : Nat) (t : BitVec 16)
  /-- THERMAL_TRIP (R691). -/
  | thermalTrip (j : Nat) (t : BitVec 16)
  /-- THERMHOLD_CLEAR (R691). -/
  | thermholdClear (j : Nat) (t : BitVec 16)
  /-- HOST_DOORBELL (R702). -/
  | hostDoorbell (who : Requester) (m : Nat) (v : Word)
  /-- FWIRQ (R703). -/
  | fwirq (who : Requester) (v : Word)
  /-- MSIX_ENABLE (R703). -/
  | msixEnable (on : Bool)
  /-- FLASH_GO (R705). -/
  | flashGo (who : Requester) (v : Word)
  /-- FLASH_DONE (R705). -/
  | flashDone (data : List Byte)
  /-- SETADDR (R707). -/
  | setaddr (a : Nat)
  /-- WRITE (R708). -/
  | write (v : Word)
  /-- READ (R707). -/
  | read
  /-- STATE (R707). -/
  | state
  /-- I2C_STRETCH_TIMEOUT (R707). -/
  | i2cStretchTimeout
  /- Other events -/
  /-- PERST_RELEASE (R688). -/
  | perstRelease
  /-- LOW_POWER_ENTRY (R654). -/
  | lowPowerEntry (p : Nat)
  /-- PRBS_RECEIVE (R383). -/
  | prbsReceive (p : Nat) (bits : List Bool)
  /-- SOFT_ERROR (R715). -/
  | softError (u : Upset)
  /-- REKEY_LINE (R586). -/
  | rekeyLine (p : Nat) (chk : Verdict)
  /-- PCIE_POWER_STATE (R696). -/
  | pciePowerState (d3 : Bool)
deriving DecidableEq, Repr

end Sys2Proof
end

