-- ==== Sys2Proof/WellFormed.lean ====
section
/-! DEFINITION. Well-formed commands: every operand names something that the manual gives the device. -/

namespace Sys2Proof

open Sys2Proof.Machine

/-- The operand names a logical cluster (R15). -/
def okLogical (m : Nat) : Bool := decide (m < 256)
/-- The operand names a physical cluster (R15). -/
def okPhysical (m : Nat) : Bool := decide (m < 272)
/-- The operand names a BP of a cluster (R16). -/
def okBp (m : Nat) : Bool := decide (m < 128)
/-- The operand names a word engine of a cluster (R16). -/
def okEngine (m : Nat) : Bool := decide (m < 8)
/-- The operand names a schedule step (R68). -/
def okStep (m : Nat) : Bool := decide (m < 1024)
/-- The operand names a store room of a cluster (R16). -/
def okRoom (m : Nat) : Bool := decide (m < 4)
/-- The operand names an inject register (R77). -/
def okInject (m : Nat) : Bool := decide (m < 3)
/-- The operand names a link (R32). -/
def okLink (m : Nat) : Bool := decide (m < 64)
/-- The operand names a lane (R32). -/
def okLane (m : Nat) : Bool := decide (m < 256)
/-- The operand names a shelf (R14). -/
def okShelf (m : Nat) : Bool := decide (m < 16)
/-- The operand names a border register of a shelf (R280). -/
def okBorder (m : Nat) : Bool := decide (m < 16384)
/-- The operand names an edge slot of a link (R148). -/
def okEdge (m : Nat) : Bool := decide (m < 32)
/-- The operand names a line of the cellar (R577). -/
def okLine (m : Nat) : Bool := decide (m < 2 ^ 30)
/-- The operand names a pseudo-channel (R564). -/
def okPc (m : Nat) : Bool := decide (m < 128)
/-- The operand names a pool of pseudo-channels (R566). -/
def okPool (m : Nat) : Bool := decide (m < 4)
/-- The operand names a pulse generator (R445). -/
def okPulse (m : Nat) : Bool := decide (m < 8)
/-- The operand names a time base with a law (R432). -/
def okLaw (m : Nat) : Bool := decide (1 ≤ m) && decide (m ≤ 3)
/-- The operand names a DMA channel (R551). -/
def okChannel (m : Nat) : Bool := decide (m < 32)
/-- The operand names a thread slot (R500). -/
def okSlot (m : Nat) : Bool := decide (m < 64)
/-- The operand names a flow (R504). -/
def okFlow (m : Nat) : Bool := decide (m < 128)
/-- The operand names a GPIO ball (R711). -/
def okGpio (m : Nat) : Bool := decide (m < 16)
/-- The operand names a temperature sensor (R684). -/
def okSensor (m : Nat) : Bool := decide (m < 24)
/-- The operand names a trace source (R646). -/
def okSource (m : Nat) : Bool := decide (m < 16)
/-- The operand names a remote window (R32). -/
def okWindow (m : Nat) : Bool := decide (m < 192)
/-- The operand names a byte of a remote window (R32). -/
def okWindowOffset (m : Nat) : Bool := decide (m < 2 ^ 32)
/-- The operand names a node of the control network (R525). -/
def okNode (m : Nat) : Bool := decide (m < 1024)
/-- The operand names a control address (R32), or a BAR4 offset above 2^40. -/
def okAddress (m : Nat) : Bool := decide (m < 2 ^ 40 + 2 ^ 16)
/-- The operand names a key slot (R605). -/
def okByte (m : Nat) : Bool := decide (m < 256)
/-- The operand names an offset within a block. -/
def okOffset (m : Nat) : Bool := decide (m < 0x100000)
/-- The requester exists: a steward or a DMA channel by its number, another device by its address. -/
def okRequester (w : Requester) : Bool :=
  match w with
  | .steward p | .core p => okPhysical p
  | .dma n => okChannel n
  | .remote dev tag => decide (dev < 4096) && decide (tag < 65536)
  | _ => true
/-- The header of a spring message names a link and a lane. -/
def okHeader (h : SpringHdr) : Bool := okLink h.link && okLane h.lane
/-- An ordered set arrives on a lane and names a device and a link (R347). -/
def okTrain (t : TrainSet) : Bool := okLane t.lane && decide (t.device < 4096) && okLink t.link
/-- A scrub read names an entry (R616). -/
def okScrub (a : ScrubAt) : Bool :=
  match a with
  | .bp p n e => okPhysical p && okBp n && okStep e
  | .we p n e => okPhysical p && okEngine n && okStep e
  | .table a => okAddress a
/-- An upset names stored bits that exist (R715). -/
def okUpset (u : Upset) : Bool :=
  match u with
  | .bp p n e bits => okPhysical p && okBp n && okStep e && bits.all (fun b => decide (b < 80))
  | .pond p n e bits => okPhysical p && okBp n && decide (e < 512) && bits.all (fun b => decide (b < 9))
  | .we p n e bits => okPhysical p && okEngine n && okStep e && bits.all (fun b => decide (b < 72))
  | .row p r w bits => okPhysical p && okRoom r && decide (w < 4096) && bits.all (fun b => decide (b < 72))
  | .table a bits => okAddress a && bits.all (fun b => decide (b < 33))
  | .cache l n => okLine l && decide (n ≤ 576)
  | .icache p l => okPhysical p && okLine l
  | .pool p f i n => okPhysical p && okFlow f && decide (i < 4096) && decide (n ≤ 39)
  | .cellar l bits => okLine l && bits.all (fun b => decide (b < 512))
/-- Bytes of a feed-window write: a multiple of four (R250). -/
def okFeed (b : List Byte) : Bool := b ≠ [] && b.length % 4 = 0
/-- Bytes that a message or a line carries: some. -/
def okData (b : List Byte) : Bool := b ≠ []

/-- Well-formed. -/
def Instr.wf (i : Instr) : Bool :=
  match i with
  | .porstAssert => true
  | .porstRelease => true
  | .perstAssert => true
  | .configReady => true
  | .bootStageDone _ => true
  | .bootStageTimeout => true
  | .shellFrame _ _ _ => true
  | .shellVerified => true
  | .regWrite who a _ _ => okRequester who && okAddress a
  | .wideReadCapture who a _ => okRequester who && okAddress a
  | .timNowCapture who => okRequester who
  | .modelStateAccess who a _ _ => okRequester who && okAddress a
  | .remoteAccess who w o _ _ => okRequester who && okWindow w && okWindowOffset o
  | .remoteAccessTimeout _ => true
  | .responseFlit dst => okNode dst
  | .tickStart _ => true
  | .plain m n t => okLogical m && okBp n && okStep t
  | .nop m n t => okLogical m && okBp n && okStep t
  | .stateWrite m n t => okLogical m && okBp n && okStep t
  | .injectPoint m n t => okLogical m && okBp n && okStep t
  | .sel m n t => okLogical m && okBp n && okStep t
  | .swaphint m n t => okLogical m && okBp n && okStep t
  | .rowcopy m n t => okLogical m && okBp n && okStep t
  | .probe m n t => okLogical m && okBp n && okStep t
  | .bpcInjWrite who m n r _ => okRequester who && okLogical m && okBp n && okInject r
  | .bpcCntClr who m n => okRequester who && okLogical m && okBp n
  | .weNop m e t => okLogical m && okEngine e && okStep t
  | .weAdd m e t => okLogical m && okEngine e && okStep t
  | .weSub m e t => okLogical m && okEngine e && okStep t
  | .weMov m e t => okLogical m && okEngine e && okStep t
  | .weAnd m e t => okLogical m && okEngine e && okStep t
  | .weOr m e t => okLogical m && okEngine e && okStep t
  | .weXor m e t => okLogical m && okEngine e && okStep t
  | .weAndn m e t => okLogical m && okEngine e && okStep t
  | .weShl m e t => okLogical m && okEngine e && okStep t
  | .weShr m e t => okLogical m && okEngine e && okStep t
  | .weSar m e t => okLogical m && okEngine e && okStep t
  | .weRol m e t => okLogical m && okEngine e && okStep t
  | .wePopc m e t => okLogical m && okEngine e && okStep t
  | .weClz m e t => okLogical m && okEngine e && okStep t
  | .weSel m e t => okLogical m && okEngine e && okStep t
  | .weCeq m e t => okLogical m && okEngine e && okStep t
  | .weCne m e t => okLogical m && okEngine e && okStep t
  | .weCltu m e t => okLogical m && okEngine e && okStep t
  | .weCgeu m e t => okLogical m && okEngine e && okStep t
  | .weClts m e t => okLogical m && okEngine e && okStep t
  | .weCges m e t => okLogical m && okEngine e && okStep t
  | .weMul m e t => okLogical m && okEngine e && okStep t
  | .weMac m e t => okLogical m && okEngine e && okStep t
  | .weMacc m e t => okLogical m && okEngine e && okStep t
  | .macUpdateComplete m _ t => okLogical m && okStep t
  | .weSrd m e t => okLogical m && okEngine e && okStep t
  | .srdDataReady m r _ t => okLogical m && okRoom r && okStep t
  | .weSwr m e t => okLogical m && okEngine e && okStep t
  | .pageFillDone m r _ => okLogical m && okRoom r
  | .wenCntClr who m e => okRequester who && okLogical m && okEngine e
  | .strCntClr who m r => okRequester who && okLogical m && okRoom r
  | .tickOverhead => true
  | .stageWriteDone _ => true
  | .boundaryExtension => true
  | .ckptWriteResponse _ _ _ _ => true
  | .drainLate _ => true
  | .sendPassVote _ => true
  | .voteTimeout => true
  | .start h _ _ => h.all okHeader
  | .runSegmentStart => true
  | .decide h _ _ => h.all okHeader
  | .cen h _ _ => h.all okHeader
  | .hold h _ _ => h.all okHeader
  | .vote h _ _ _ _ _ => okHeader h
  | .commit h _ _ => h.all okHeader
  | .rollback h _ _ _ _ _ => h.all okHeader
  | .restoreDone => true
  | .rbDone h => okHeader h
  | .rbFail h _ => okHeader h
  | .req h _ _ _ => okHeader h
  | .reject h _ _ => h.all okHeader
  | .sprCtrlRun who => okRequester who
  | .sprCtrlHold who => okRequester who
  | .sprCtrlResume who => okRequester who
  | .sprCtrlForceRb who => okRequester who
  | .sprCenWrite who _ => okRequester who
  | .load who => okRequester who
  | .reload who => okRequester who
  | .abort who => okRequester who
  | .shellFeed who => okRequester who
  | .reboot who => okRequester who
  | .feedWrite who _ bytes => okRequester who && okFeed bytes
  | .ldBegin l _ _ => okLink l
  | .ldAck l _ => okLink l
  | .ldAckTimeout => true
  | .ldData l _ _ bytes => okLink l && okData bytes
  | .loadChecksDone => true
  | .ldVote l _ _ => okLink l
  | .ldCommit l _ => okLink l
  | .enterReady => true
  | .ldReady l _ => okLink l
  | .ldAbort l _ _ => okLink l
  | .loadStallTimeout => true
  | .linkWaitTimeout => true
  | .reloadVerified => true
  | .reloadWritesDone => true
  | .borderModeWrite who h k _ => okRequester who && okShelf h && okBorder k
  | .shFrame l _ _ => okLink l
  | .shReq l _ => okLink l
  | .rreq l _ _ addr _ _ _ => okLink l && okAddress addr
  | .rrsp l _ _ _ _ => okLink l
  | .moverRecord => true
  | .moverEpochDone => true
  | .arm who _ => okRequester who
  | .disarm who _ => okRequester who
  | .trig who _ => okRequester who
  | .acqControlWrite who o _ => okRequester who && okOffset o
  | .cmpStagedWrite who o _ => okRequester who && okOffset o
  | .sweepClr who _ => okRequester who
  | .cmpNotifyWrite who _ => okRequester who
  | .gpioRisingEdge i => okGpio i
  | .ts1 l t => okLink l && okTrain t
  | .ts2 l t => okLink l && okTrain t
  | .mark l _ _ => okLink l
  | .markReturn l _ _ => okLink l
  | .markEcho l _ => okLink l
  | .linkStateDone l _ _ => okLink l
  | .linkStageTimeout l => okLink l
  | .retrain who l => okRequester who && okLink l
  | .laneLockLost p => okLane p
  | .signal l slot _ _ _ lane _ => okLink l && okEdge slot && okLane lane
  | .signalItemRelease l slot _ t => okLink l && okEdge slot && okStep t
  | .streamStart l _ _ _ _ lane _ => okLink l && okLane lane
  | .streamData l _ bytes lane _ => okLink l && okData bytes && okLane lane
  | .service l _ _ _ _ lane _ => okLink l && okLane lane
  | .serviceResendTimeout l => okLink l
  | .sample l _ _ _ _ _ lane _ => okLink l && okLane lane
  | .mgmt l _ _ _ _ _ lane _ => okLink l && okLane lane
  | .idle l lane _ => okLink l && okLane lane
  | .reservedFlit l lane _ => okLink l && okLane lane
  | .swap l lane _ _ => okLink l && okLane lane
  | .swapAck l _ _ => okLink l
  | .swapSwitch l => okLink l
  | .bistOn l p _ => okLink l && okLane p
  | .bistOff l p _ => okLink l && okLane p
  | .laneBistDone p _ => okLane p
  | .lb2On l lane _ => okLink l && okLane lane
  | .lb2Off l lane _ => okLink l && okLane lane
  | .lb3On l lane _ => okLink l && okLane lane
  | .lb3Off l lane _ => okLink l && okLane lane
  | .cmdAck l _ => okLink l
  | .cmdRefuse l _ => okLink l
  | .laneCtrlWrite who p _ => okRequester who && okLane p
  | .laneCntClr who p => okRequester who && okLane p
  | .linkLoopbackWrite who l _ => okRequester who && okLink l
  | .spWmWrite who l _ => okRequester who && okLink l
  | .enProbe l _ => okLink l
  | .enCount l _ _ => okLink l
  | .enumChildTimeout => true
  | .enAssign l _ _ _ _ _ _ => okLink l
  | .enDone l _ => okLink l
  | .enFail l _ _ => okLink l
  | .substat l _ => okLink l
  | .substatPeriod => true
  | .substatTimeout _ => true
  | .enum who => okRequester who
  | .pllLockLoss => true
  | .linkFrame _ => true
  | .revert who => okRequester who
  | .lawArm who k => okRequester who && okLaw k
  | .lawInForce k => okLaw k
  | .ppsEdge _ _ => true
  | .ppsLoss => true
  | .pulseArm who n _ => okRequester who && okPulse n
  | .pulseDisarm who n _ => okRequester who && okPulse n
  | .pulseEdge n => okPulse n
  | .pulseEnd n => okPulse n
  | .aluAdd p => okPhysical p
  | .aluSub p => okPhysical p
  | .aluAnd p => okPhysical p
  | .aluOr p => okPhysical p
  | .aluXor p => okPhysical p
  | .aluAndn p => okPhysical p
  | .sll p => okPhysical p
  | .srl p => okPhysical p
  | .sra p => okPhysical p
  | .mul p => okPhysical p
  | .mulhu p => okPhysical p
  | .mulhs p => okPhysical p
  | .divu p => okPhysical p
  | .divs p => okPhysical p
  | .remu p => okPhysical p
  | .rems p => okPhysical p
  | .min p => okPhysical p
  | .max p => okPhysical p
  | .minu p => okPhysical p
  | .maxu p => okPhysical p
  | .popc p => okPhysical p
  | .clz p => okPhysical p
  | .addi p => okPhysical p
  | .andi p => okPhysical p
  | .ori p => okPhysical p
  | .xori p => okPhysical p
  | .slli p => okPhysical p
  | .srli p => okPhysical p
  | .srai p => okPhysical p
  | .lui p => okPhysical p
  | .llo p => okPhysical p
  | .cmp p => okPhysical p
  | .cmpi p => okPhysical p
  | .plog p => okPhysical p
  | .lw p => okPhysical p
  | .lh p => okPhysical p
  | .lhu p => okPhysical p
  | .lb p => okPhysical p
  | .lbu p => okPhysical p
  | .sw p => okPhysical p
  | .sh p => okPhysical p
  | .sb p => okPhysical p
  | .lineFill p _ _ => okPhysical p
  | .amoSwap p => okPhysical p
  | .amoAdd p => okPhysical p
  | .amoAnd p => okPhysical p
  | .amoOr p => okPhysical p
  | .fence p => okPhysical p
  | .instructionSync p => okPhysical p
  | .cmoClean p => okPhysical p
  | .cmoInvalidate p => okPhysical p
  | .cmoCleanInvalidate p => okPhysical p
  | .cmoInvalidateIline p => okPhysical p
  | .b p => okPhysical p
  | .bl p => okPhysical p
  | .jr p => okPhysical p
  | .sys p => okPhysical p
  | .rfe p => okPhysical p
  | .mfsr p => okPhysical p
  | .mtsr p => okPhysical p
  | .gcall p => okPhysical p
  | .gret p => okPhysical p
  | .gcallTimeout p => okPhysical p
  | .brk p => okPhysical p
  | .wft p => okPhysical p
  | .wftRelease p => okPhysical p
  | .post p => okPhysical p
  | .fclaim p => okPhysical p
  | .frel p => okPhysical p
  | .amb p => okPhysical p
  | .interrupt p => okPhysical p
  | .halt who p => okRequester who && okPhysical p
  | .haltClear who p => okRequester who && okPhysical p
  | .stwRestart who p _ => okRequester who && okPhysical p
  | .stewardDoorbell who p _ => okRequester who && okPhysical p
  | .stwDbgWrite who p o _ => okRequester who && okPhysical p && okOffset o
  | .create p slot _ => okPhysical p && okSlot slot
  | .free p slot => okPhysical p && okSlot slot
  | .dispatch p slot => okPhysical p && okSlot slot
  | .yield p slot => okPhysical p && okSlot slot
  | .block p slot => okPhysical p && okSlot slot
  | .unblock p slot => okPhysical p && okSlot slot
  | .setdl p slot _ => okPhysical p && okSlot slot
  | .wait p slot _ => okPhysical p && okSlot slot
  | .flush p flow => okPhysical p && okFlow flow
  | .tskClr who p => okRequester who && okPhysical p
  | .tskPost who p f _ => okRequester who && okPhysical p && okFlow f
  | .deadlineMiss p i => okPhysical p && okSlot i
  | .nigorTick p => okPhysical p
  | .gateRequest who a _ _ => okRequester who && okAddress a
  | .switch who => okRequester who
  | .routeCheckDone => true
  | .generationDrained => true
  | .shelfPhaseDone h _ => okShelf h
  | .shelfEligible h => okShelf h
  | .shelfDown who h => okRequester who && okShelf h
  | .shelfUp who h => okRequester who && okShelf h
  | .dmaGo who n _ => okRequester who && okChannel n
  | .dmaChannelActive n => okChannel n
  | .dmaReadResponse n _ _ _ => okChannel n
  | .dmaWriteResponse n _ => okChannel n
  | .dmaAbort who n _ => okRequester who && okChannel n
  | .dmaAck who n => okRequester who && okChannel n
  | .cellarRead _ l _ => okLine l
  | .tagVerdict _ l _ => okLine l
  | .cellarWrite _ l _ bytes _ => okLine l && okData bytes
  | .rekeyDone p => okPool p
  | .resealDone => true
  | .reserveCopyDone pc _ => okPc pc
  | .seal who slot => okRequester who && okByte slot
  | .unseal who slot => okRequester who && okByte slot
  | .blobDone => true
  | .mailboxDoorbell _ => true
  | .status => true
  | .logRead => true
  | .logClear => true
  | .challenge => true
  | .debugAuth => true
  | .debugRevoke => true
  | .provision => true
  | .deploy => true
  | .return => true
  | .setMinver => true
  | .keyLoad => true
  | .keyClear => true
  | .retire => true
  | .bist => true
  | .restart => true
  | .lockOpen => true
  | .lockClose => true
  | .lockExpiry => true
  | .challengeExpiry => true
  | .grantExpiry => true
  | .scrubRead a => okScrub a
  | .sweepEnd _ => true
  | .scrubCopyRebuilt _ => true
  | .scrubWatchdog => true
  | .faultReport => true
  | .faultClassify => true
  | .autoBist _ _ => true
  | .bistDone _ _ _ => true
  | .traceFrame => true
  | .trcSrcWrite who k _ => okRequester who && okSource k
  | .trcCtrlWrite who _ => okRequester who
  | .tapReset => true
  | .extest _ => true
  | .samplePreload _ => true
  | .idcode => true
  | .highz => true
  | .clamp => true
  | .extestPulse _ => true
  | .extestTrain _ => true
  | .dbgacc _ addr _ _ => okAddress addr
  | .dbgmb _ _ _ => true
  | .dbgstat => true
  | .bypass => true
  | .thermalWarning j _ => okSensor j
  | .thermalTrip j _ => okSensor j
  | .thermholdClear j _ => okSensor j
  | .hostDoorbell who m _ => okRequester who && okLogical m
  | .fwirq who _ => okRequester who
  | .msixEnable _ => true
  | .flashGo who _ => okRequester who
  | .flashDone _ => true
  | .setaddr a => okAddress a
  | .write _ => true
  | .read => true
  | .state => true
  | .i2cStretchTimeout => true
  | .perstRelease => true
  | .lowPowerEntry p => okPhysical p
  | .prbsReceive p _ => okLane p
  | .softError u => okUpset u
  | .rekeyLine p _ => okPool p
  | .pciePowerState _ => true

end Sys2Proof
end

