-- ==== Sys2Proof/Decode.lean ====
section
/-! DEFINITION. Commands that a word of the table of operations spells. No row of the table gives bits. -/

namespace Sys2Proof

/-- The command that an `nbits`-bit word spells: none, since the table gives no row any bits. -/
def decodeTableWord (_nbits _w : Nat) : Option Instr := none

end Sys2Proof
end

