-- ==== Sys2Proof/Config.lean ====
section
/-! DEFINITION. The values that the spec leaves open: constants without a body, so that no proof can use a value
of them. Each is named in the assumption log. -/

namespace Sys2Proof.Config

/-- A free natural number, by the number of free values taken before it. -/
opaque freeNat : Nat → Nat

/-- Which of the three outcomes of R715 an error pattern of three or more inverted bits has, and which bit a wrong
correction changes. -/
opaque eccOutcome : List Nat → Nat

/-- QMAX of a link of `n` lanes, rate code `r` and `g` granted slots (R345): the spec does not give the formula. -/
opaque qmax : Nat → Nat → Nat → Nat

/-- How a quotient that is not whole is rounded in the servo of TB0 and in TB1's law (R434, R436): 0 down, else up. -/
opaque roundUp : Int → Int → Nat

/-- AES-256 of a key and a block (NIST SP 800-38A): the spec names the cipher and does not define it. -/
opaque aes256 : BitVec 256 → BitVec 128 → BitVec 128

/-- The cellar key of a seal epoch, region and generation (R584): derived from the fused device root. -/
opaque cellarKey : Nat → Nat → Nat → BitVec 256

/-- The hash key of a seal epoch, region and generation (R584). -/
opaque cellarHashKey : Nat → Nat → Nat → BitVec 64

/-- The generation of a region that is assigned at generation 0xFFFF (R571 gives none). -/
opaque genAfterLast : Nat

/-- DEVICE_ID, fused by the vendor (R604). -/
opaque deviceId : Nat

/-- AES-256-GCM of key, IV, additional data and text: ciphertext and tag (R589). -/
opaque gcmSeal : BitVec 256 → Nat → List Byte → List Byte → List Byte × List Byte

/-- AES-256-GCM decryption of key, IV, additional data, ciphertext and tag; none where the tag does not verify. -/
opaque gcmOpen : BitVec 256 → Nat → List Byte → List Byte → List Byte → Option (List Byte)

/-- The vendor's public key (R604). -/
opaque vendorKey : List Byte

/-- Does an ECDSA P-384 signature over the SHA-384 digest of a text verify under a public key: key, text, signature. -/
opaque ecdsaGood : List Byte → List Byte → List Byte → Bool

/-- The steward session key of a seal epoch (R607). -/
opaque sessionKey : Nat → BitVec 256

/-- AES-256-CMAC of a text (R610). -/
opaque cmac : BitVec 256 → List Byte → List Byte

/-- A key unwrapped with the device key pair (R612): the wrapped bytes, none where the unwrapping fails. -/
opaque unwrapKey : List Byte → Option (BitVec 256)

/-- The public half of the device key pair (R604), 96 bytes. -/
opaque devicePublic : Nat → Byte

/-- A TRNG byte of the attic by position and count (R614). -/
opaque randomByte : Nat → Nat → Byte

/-- The fused temperature grade: grade E, else grade C (R684, R713). -/
opaque gradeE : Bool

/-- The check bits of a 72-bit instruction entry (R36): the spec does not give the code. -/
opaque ecc72 : BitVec 72 → BitVec 8

end Sys2Proof.Config
end

