-- ==== Sys2Proof/Machine/RegTable.lean ====
section
/-! DEFINITION. The register tables of the spec: for every register its offset, repetition, reset domain, reset
value and the access type of its bits (R4 to R9). One table per block or window. -/

namespace Sys2Proof.Machine

/-- Reset domains (R9). -/
inductive Dom where
  | por | host | shell | image
deriving DecidableEq, Repr

/-- Which writes a register takes beside the type of its bits: any; only those that R30 allows for instruction
memories or for model state; only the image loader (R212); only the device itself. -/
inductive WriteRule where
  | plain | instrMem | modelState | loader | device
deriving DecidableEq, Repr

/-- One row of a register table. `rw`, `rwl`, `w1c`, `w1s` and `ro` are bit masks; a bit in none of them is RSVD or WO and
reads 0 (R6). -/
structure RegRow where
  name   : String
  off    : Nat
  stride : Nat
  count  : Nat
  dom    : Dom
  reset  : Nat
  rw     : Nat
  w1c    : Nat := 0
  ro     : Nat := 0
  rwl    : Nat := 0
  w1s    : Nat := 0
  rule   : WriteRule := .plain
deriving DecidableEq, Repr

/-- SPR block (R213 to R225). -/
def sprRows : List RegRow :=
  [ { name := "SPR_CTRL", off := 0x00, stride := 4, count := 1, dom := .image, reset := 0, rw := 0 },
    { name := "SPR_STATUS", off := 0x04, stride := 4, count := 1, dom := .image, reset := 0, rw := 0,
      w1c := 0x3FF00, ro := 0xF },
    { name := "SPR_CFG", off := 0x08, stride := 4, count := 1, dom := .image, reset := 0x000800FF,
      rw := 0x03FFFFFF, rule := .loader },
    { name := "SPR_START_LEAD", off := 0x0C, stride := 4, count := 1, dom := .image, reset := 0x0001E848,
      rw := 0x00FFFFFF },
    { name := "SPR_CLASSk_PERIOD", off := 0x10, stride := 4, count := 4, dom := .image, reset := 0,
      rw := 0x07FFFFFF, rule := .loader },
    { name := "SPR_CEN", off := 0x20, stride := 4, count := 1, dom := .image, reset := 0xFFFF, rw := 0xFF,
      ro := 0xFF00 },
    { name := "SPR_DEC", off := 0x24, stride := 4, count := 1, dom := .image, reset := 0, rw := 0, ro := 0xFFFF },
    { name := "SPR_POS", off := 0x28, stride := 4, count := 1, dom := .image, reset := 0, rw := 0,
      ro := 0xFFFF007F },
    { name := "SPR_TICK_LO", off := 0x30, stride := 4, count := 1, dom := .image, reset := 0, rw := 0,
      ro := 0xFFFFFFFF },
    { name := "SPR_TICK_HI", off := 0x34, stride := 4, count := 1, dom := .image, reset := 0, rw := 0,
      ro := 0xFFFF },
    { name := "SPR_COMMIT_LO", off := 0x38, stride := 4, count := 1, dom := .image, reset := 0, rw := 0,
      ro := 0xFFFFFFFF },
    { name := "SPR_COMMIT_HI", off := 0x3C, stride := 4, count := 1, dom := .image, reset := 0, rw := 0,
      ro := 0xFFFF },
    { name := "SPR_TSTART", off := 0x40, stride := 4, count := 3, dom := .image, reset := 0, rw := 0,
      ro := 0xFFFFFFFF },
    { name := "SPR_RB_CNT", off := 0x50, stride := 4, count := 1, dom := .image, reset := 0, rw := 0,
      ro := 0xFFFFFFFF },
    { name := "SPR_RB_CAUSE", off := 0x54, stride := 4, count := 1, dom := .image, reset := 0, rw := 0,
      ro := 0x00FFFFFF },
    { name := "SPR_UNDO_FILL", off := 0x58, stride := 4, count := 1, dom := .image, reset := 0, rw := 0,
      ro := 0xFFFFF },
    { name := "SPR_UNDO_PEAK", off := 0x5C, stride := 4, count := 1, dom := .image, reset := 0, rw := 0,
      ro := 0xFFFFF },
    { name := "SPR_CKPT_BASE", off := 0x60, stride := 4, count := 1, dom := .image, reset := 0, rw := 0,
      ro := 0x03FFFFFF },
    { name := "SPR_LOGSZ", off := 0x64, stride := 4, count := 1, dom := .image, reset := 0x80, rw := 0x3FFF,
      rule := .loader },
    { name := "SPR_SCRIPT_W0", off := 0x400, stride := 8, count := 128, dom := .image, reset := 0,
      rw := 0xFFFFFFFF, rule := .loader },
    { name := "SPR_SCRIPT_W1", off := 0x404, stride := 8, count := 128, dom := .image, reset := 0,
      rw := 0xFFFFFFFF, rule := .loader } ]

/-- BPC registers of one BP (R80 to R86), offsets within 0x200. -/
def bpcRows : List RegRow :=
  [ { name := "BPC_INJ_EN", off := 0x000, stride := 4, count := 1, dom := .image, reset := 0, rw := 0xFF },
    { name := "BPC_INJ_VAL", off := 0x004, stride := 4, count := 1, dom := .image, reset := 0, rw := 0x1FF },
    { name := "BPC_INJ_STEP", off := 0x008, stride := 4, count := 1, dom := .image, reset := 0,
      rw := 0x800F03FF },
    { name := "BPC_BANK", off := 0x00C, stride := 4, count := 1, dom := .image, reset := 0, rw := 1, ro := 2,
      rule := .instrMem },
    { name := "BPC_CBASE01", off := 0x010, stride := 4, count := 1, dom := .image, reset := 0,
      rw := 0x03FF03FF, rule := .instrMem },
    { name := "BPC_CBASE23", off := 0x014, stride := 4, count := 1, dom := .image, reset := 0,
      rw := 0x03FF03FF, rule := .instrMem },
    { name := "BPC_STATUS", off := 0x018, stride := 4, count := 1, dom := .image, reset := 0, rw := 0,
      w1c := 0xF, ro := 0xFFFF0010 },
    { name := "BPC_FPTR", off := 0x100, stride := 4, count := 32, dom := .image, reset := 0, rw := 0,
      ro := 0xFFFFFFFF } ]

/-- Registers of one WEN window (R129 to R137), offsets within 0x4000; the STR registers only in engines 0 to 3. -/
def wenRows : List RegRow :=
  [ { name := "WEN_CTRL", off := 0x2200, stride := 4, count := 1, dom := .image, reset := 0, rw := 1, ro := 2,
      rule := .instrMem },
    { name := "WEN_CBASE01", off := 0x2204, stride := 4, count := 1, dom := .image, reset := 0,
      rw := 0x03FF03FF, rule := .instrMem },
    { name := "WEN_CBASE23", off := 0x2208, stride := 4, count := 1, dom := .image, reset := 0,
      rw := 0x03FF03FF, rule := .instrMem },
    { name := "WEN_STATUS", off := 0x220C, stride := 4, count := 1, dom := .image, reset := 0, rw := 0,
      w1c := 0x1F, ro := 0xFFFF0000 },
    { name := "WEN_FLAGS", off := 0x2210, stride := 4, count := 1, dom := .image, reset := 0, rw := 0,
      ro := 0xFFFF },
    { name := "WEN_DPT", off := 0x2400, stride := 4, count := 16, dom := .image, reset := 0, rw := 0x7FF7,
      rule := .instrMem } ]

/-- STR registers of one room, in the WEN window of engine r for r from 0 to 3 (R134 to R137). -/
def strRows : List RegRow :=
  [ { name := "STR_CFG", off := 0x2800, stride := 4, count := 1, dom := .image, reset := 0, rw := 0x003F037F,
      rule := .instrMem },
    { name := "STR_PBASE", off := 0x2804, stride := 4, count := 1, dom := .image, reset := 0, rw := 0,
      ro := 0x03FFFFFF },
    { name := "STR_STATUS", off := 0x2808, stride := 4, count := 1, dom := .image, reset := 0, rw := 0,
      w1c := 0x1F, ro := 0xFFFF3F00 },
    { name := "STR_MISS_CNT", off := 0x280C, stride := 4, count := 1, dom := .image, reset := 0, rw := 0,
      ro := 0xFFFFFFFF },
    { name := "STR_FILL_CNT", off := 0x2810, stride := 4, count := 1, dom := .image, reset := 0, rw := 0,
      ro := 0xFFFFFFFF } ]

/-- Registers of the FAB window (R161 to R165). -/
def fabRows : List RegRow :=
  [ { name := "FAB_XMAP_Q0", off := 0x000, stride := 16, count := 128, dom := .image, reset := 0,
      rw := 0x7F7F7F00, rule := .instrMem },
    { name := "FAB_XMAP_Q1", off := 0x004, stride := 16, count := 128, dom := .image, reset := 0,
      rw := 0x7F7F7F7F, rule := .instrMem },
    { name := "FAB_XMAP_Q2", off := 0x008, stride := 16, count := 128, dom := .image, reset := 0,
      rw := 0x7F7F7F7F, rule := .instrMem },
    { name := "FAB_XMAP_Q3", off := 0x00C, stride := 16, count := 128, dom := .image, reset := 0,
      rw := 0x7F7F7F7F, rule := .instrMem },
    { name := "FAB_SIMP", off := 0x1000, stride := 4, count := 64, dom := .image, reset := 0, rw := 0x83FF,
      rule := .instrMem },
    { name := "FAB_WIN", off := 0x1200, stride := 4, count := 64, dom := .image, reset := 0, rw := 0xFFF7,
      rule := .instrMem },
    { name := "FAB_STATUS", off := 0x1400, stride := 4, count := 1, dom := .image, reset := 0, rw := 0,
      w1c := 0x7 },
    { name := "FAB_CONFLICT", off := 0x1404, stride := 4, count := 1, dom := .image, reset := 0, rw := 0,
      ro := 0x7FFFFFFF } ]

/-- Registers of a shelf window (R166, R167, R279, R280). -/
def shfRows : List RegRow :=
  [ { name := "SHF_GIMP", off := 0x0, stride := 4, count := 256, dom := .image, reset := 0, rw := 0x8FFF,
      rule := .instrMem },
    { name := "SHF_FSTATUS", off := 0x400, stride := 4, count := 1, dom := .image, reset := 0, rw := 0,
      w1c := 1 },
    { name := "SHF_BCTRL", off := 0x500, stride := 4, count := 1, dom := .image, reset := 0, rw := 0,
      ro := 0x17FFF },
    { name := "SHF_BORDER", off := 0x10000, stride := 4, count := 16384, dom := .image, reset := 0,
      rw := 0x300000, ro := 0x800FFFFF },
    { name := "SHF_PWR_CTRL", off := 0x600, stride := 4, count := 1, dom := .shell, reset := 0x640001,
      rw := 0xFFFF0001 },
    { name := "SHF_PWR_STAT", off := 0x604, stride := 4, count := 1, dom := .shell, reset := 0, rw := 0, ro := 0x3F },
    { name := "SHF_BHELD", off := 0x20000, stride := 4, count := 16384, dom := .image, reset := 0, rw := 0,
      ro := 0xFF } ]

/-- Edge slot registers of a link window (R168, R169). -/
def edgeRows : List RegRow :=
  [ { name := "HSL_ETX", off := 0x800, stride := 4, count := 32, dom := .image, reset := 0, rw := 0x8FFF,
      rule := .instrMem },
    { name := "HSL_ERX", off := 0x900, stride := 4, count := 32, dom := .image, reset := 0, rw := 0,
      ro := 0xFF } ]

/-- CMP block (R321 to R333). -/
def cmpRows : List RegRow :=
  [ { name := "CMP_CFG", off := 0x0, stride := 4, count := 1, dom := .image, reset := 0x1, rw := 0x3, rule := .loader },
    { name := "CMP_ACQ_CAP", off := 0x4, stride := 4, count := 1, dom := .image, reset := 0x0, rw := 0xFFFFFFFF, rule := .loader },
    { name := "CMP_ACQ_BASE", off := 0x8, stride := 4, count := 1, dom := .image, reset := 0x0, rw := 0x0, ro := 0x3FFFFFF },
    { name := "CMP_NOTIFY", off := 0xC, stride := 4, count := 1, dom := .image, reset := 0x0, rw := 0xFFFF },
    { name := "CMP_ACQ_CTRL", off := 0x10, stride := 4, count := 1, dom := .image, reset := 0x0, rw := 0x78 },
    { name := "CMP_ACQ_PRE", off := 0x14, stride := 4, count := 1, dom := .image, reset := 0x0, rw := 0xFFFFFFFF },
    { name := "CMP_ACQ_POST", off := 0x18, stride := 4, count := 1, dom := .image, reset := 0x0, rw := 0xFFFFFFFF },
    { name := "CMP_ACQ_TSEL", off := 0x1C, stride := 4, count := 1, dom := .image, reset := 0x0, rw := 0x1FF },
    { name := "CMP_ACQ_TVAL_LO", off := 0x20, stride := 4, count := 1, dom := .image, reset := 0x0, rw := 0xFFFFFFFF },
    { name := "CMP_ACQ_TVAL_HI", off := 0x24, stride := 4, count := 1, dom := .image, reset := 0x0, rw := 0xFFFF },
    { name := "CMP_ACQ_STAT", off := 0x28, stride := 4, count := 1, dom := .image, reset := 0x0, rw := 0x0, w1c := 0x10, ro := 0x6F },
    { name := "CMP_ACQ_WSLOT", off := 0x2C, stride := 4, count := 1, dom := .image, reset := 0x0, rw := 0x0, ro := 0xFFFFFFFF },
    { name := "CMP_ACQ_OLDEST", off := 0x30, stride := 4, count := 1, dom := .image, reset := 0x0, rw := 0x0, ro := 0xFFFFFFFF },
    { name := "CMP_ACQ_HELD", off := 0x34, stride := 4, count := 1, dom := .image, reset := 0x0, rw := 0x0, ro := 0xFFFFFFFF },
    { name := "CMP_ACQ_EFFPOST", off := 0x38, stride := 4, count := 1, dom := .image, reset := 0x0, rw := 0x0, ro := 0xFFFFFFFF },
    { name := "CMP_ACQ_TSLOT", off := 0x3C, stride := 4, count := 1, dom := .image, reset := 0x0, rw := 0x0, ro := 0xFFFFFFFF },
    { name := "CMP_ACQ_DROP", off := 0x40, stride := 4, count := 1, dom := .image, reset := 0x0, rw := 0x0, ro := 0xFFFFFFFF },
    { name := "CMP_ACQ_TOTAL_LO", off := 0x48, stride := 4, count := 1, dom := .image, reset := 0x0, rw := 0x0, ro := 0xFFFFFFFF },
    { name := "CMP_ACQ_TOTAL_HI", off := 0x4C, stride := 4, count := 1, dom := .image, reset := 0x0, rw := 0x0, ro := 0xFFFF },
    { name := "CMP_ACQ_TTICK_LO", off := 0x50, stride := 4, count := 1, dom := .image, reset := 0x0, rw := 0x0, ro := 0xFFFFFFFF },
    { name := "CMP_ACQ_TTICK_HI", off := 0x54, stride := 4, count := 1, dom := .image, reset := 0x0, rw := 0x0, ro := 0xFFFF },
    { name := "CMP_STATUS", off := 0x58, stride := 4, count := 1, dom := .image, reset := 0x0, rw := 0x0, w1c := 0x3F, ro := 0x40 },
    { name := "CMP_STOP_THR", off := 0x5C, stride := 4, count := 1, dom := .image, reset := 0x1, rw := 0xFFFFFFFF },
    { name := "CMP_FAILTICKS_LO", off := 0x60, stride := 4, count := 1, dom := .image, reset := 0x0, rw := 0x0, ro := 0xFFFFFFFF },
    { name := "CMP_FAILTICKS_HI", off := 0x64, stride := 4, count := 1, dom := .image, reset := 0x0, rw := 0x0, ro := 0xFFFF },
    { name := "CMP_UNCMP_LO", off := 0x68, stride := 4, count := 1, dom := .image, reset := 0x0, rw := 0x0, ro := 0xFFFFFFFF },
    { name := "CMP_UNCMP_HI", off := 0x6C, stride := 4, count := 1, dom := .image, reset := 0x0, rw := 0x0, ro := 0xFFFF },
    { name := "CMP_SWEEP_CTRL", off := 0x70, stride := 4, count := 1, dom := .image, reset := 0x0, rw := 0x1 },
    { name := "CMP_SWEEP_MIS", off := 0x80, stride := 4, count := 8, dom := .image, reset := 0x0, rw := 0x0, ro := 0xFFFFFFFF },
    { name := "CMP_SWEEP_FIRST_LO", off := 0xA0, stride := 8, count := 8, dom := .image, reset := 0x0, rw := 0x0, ro := 0xFFFFFFFF },
    { name := "CMP_SWEEP_FIRST_HI", off := 0xA4, stride := 8, count := 8, dom := .image, reset := 0x0, rw := 0x0, ro := 0x8000FFFF },
    { name := "CMP_BMAP_CFG", off := 0xE0, stride := 8, count := 4, dom := .image, reset := 0x0, rw := 0x1FF, rule := .loader },
    { name := "CMP_BMAP_BASE", off := 0xE4, stride := 8, count := 4, dom := .image, reset := 0x0, rw := 0x0, ro := 0x3FFFFFF },
    { name := "CMP_PORT_W0", off := 0x1000, stride := 16, count := 256, dom := .image, reset := 0x0, rw := 0xFFFFFFFF, rule := .loader },
    { name := "CMP_PORT_W1", off := 0x1004, stride := 16, count := 256, dom := .image, reset := 0x0, rw := 0xFFFFFFFF },
    { name := "CMP_PORT_W2", off := 0x1008, stride := 16, count := 256, dom := .image, reset := 0xFF, rw := 0x1FF },
    { name := "CMP_PORT_W3", off := 0x100C, stride := 16, count := 256, dom := .image, reset := 0x0, rw := 0xFFFFFFF, rule := .loader },
    { name := "CMP_SINK", off := 0x2000, stride := 4, count := 2048, dom := .image, reset := 0x0, rw := 0x8FFF, rule := .loader },
    { name := "CMP_PFAIL", off := 0x4000, stride := 4, count := 256, dom := .image, reset := 0x0, rw := 0x0, ro := 0xFFFFFFFF },
    { name := "CMP_PGRP", off := 0x8000, stride := 4, count := 8192, dom := .image, reset := 0x0, rw := 0xBFFFBFFF, rule := .loader } ]

/-- Lane window (R384 to R386). -/
def laneRows : List RegRow :=
  [ { name := "HSL_LN_CTRL", off := 0x0, stride := 4, count := 1, dom := .shell, reset := 0x0, rw := 0x773 },
    { name := "HSL_LN_STATUS", off := 0x4, stride := 4, count := 1, dom := .shell, reset := 0x0, rw := 0x0, ro := 0x1FFFF },
    { name := "HSL_LN_CRC", off := 0x8, stride := 4, count := 1, dom := .shell, reset := 0x0, rw := 0x0, ro := 0xFFFFFFFF },
    { name := "HSL_LN_PERR", off := 0xC, stride := 4, count := 1, dom := .shell, reset := 0x0, rw := 0x0, ro := 0xFFFFFFFF },
    { name := "HSL_LN_PBITS_LO", off := 0x10, stride := 4, count := 1, dom := .shell, reset := 0x0, rw := 0x0, ro := 0xFFFFFFFF },
    { name := "HSL_LN_PBITS_HI", off := 0x14, stride := 4, count := 1, dom := .shell, reset := 0x0, rw := 0x0, ro := 0xFFFFFFFF },
    { name := "HSL_LN_EQ", off := 0x18, stride := 4, count := 1, dom := .shell, reset := 0x0, rw := 0x0, ro := 0x1F } ]

/-- Link window (R387 to R392) beside the edge slots. -/
def linkRows : List RegRow :=
  [ { name := "HSL_LK_CFG", off := 0x0, stride := 4, count := 1, dom := .shell, reset := 0x0, rw := 0x0, ro := 0x7FFFFF },
    { name := "HSL_LK_LAT", off := 0x4, stride := 4, count := 1, dom := .shell, reset := 0x0, rw := 0x0, ro := 0xFFFFFFFF },
    { name := "HSL_LK_PIN", off := 0x8, stride := 4, count := 1, dom := .shell, reset := 0xFF0000, rw := 0x0, ro := 0x3FFFFFFF },
    { name := "HSL_LK_STATE", off := 0xC, stride := 4, count := 1, dom := .shell, reset := 0x0, rw := 0x0, ro := 0x3FF },
    { name := "HSL_LK_CTRL", off := 0x10, stride := 4, count := 1, dom := .shell, reset := 0x0, rw := 0x1FE },
    { name := "HSL_LK_ERR", off := 0x14, stride := 4, count := 1, dom := .shell, reset := 0x0, rw := 0x0, w1c := 0x1FFF },
    { name := "HSL_LK_SVC", off := 0x18, stride := 4, count := 1, dom := .shell, reset := 0x0, rw := 0x0, ro := 0xFFFFFFFF },
    { name := "HSL_LK_SPARE", off := 0x1C, stride := 4, count := 1, dom := .shell, reset := 0x0, rw := 0x0, ro := 0xFFFFFFFF },
    { name := "HSL_LK_RTT", off := 0x20, stride := 4, count := 1, dom := .shell, reset := 0x0, rw := 0x0, ro := 0xFFFF },
    { name := "HSL_SP_CFG", off := 0x100, stride := 4, count := 1, dom := .image, reset := 0x0, rw := 0x0, ro := 0x7FFF3FFF },
    { name := "HSL_SP_WM", off := 0x104, stride := 4, count := 1, dom := .image, reset := 0xA0E, rw := 0xF0F },
    { name := "HSL_SP_STAT", off := 0x108, stride := 4, count := 1, dom := .image, reset := 0x0, rw := 0x0, ro := 0x1FFFF },
    { name := "HSL_SP_LIMIT_LO", off := 0x10C, stride := 4, count := 1, dom := .image, reset := 0x0, rw := 0x0, ro := 0xFFFFFFFF },
    { name := "HSL_SP_LIMIT_HI", off := 0x110, stride := 4, count := 1, dom := .image, reset := 0x0, rw := 0x0, ro := 0xFFFF },
    { name := "HSL_SP_EXCESS", off := 0x114, stride := 4, count := 1, dom := .image, reset := 0x0, rw := 0x0, ro := 0xFFFFFFFF },
    { name := "HSL_SP_LATE", off := 0x118, stride := 4, count := 1, dom := .image, reset := 0x0, rw := 0x0, ro := 0xFFFFFFFF },
    { name := "HSL_SP_DAMAGED", off := 0x11C, stride := 4, count := 1, dom := .image, reset := 0x0, rw := 0x0, ro := 0xFFFFFFFF } ]

/-- HST block (R43, R714), without the crate registers -/
def hstRows : List RegRow :=
  [ { name := "HST_STATUS", off := 0x0, stride := 4, count := 1, dom := .host, reset := 0x0, rw := 0x0, w1c := 0x600, ro := 0x9FF },
    { name := "HST_EVENT", off := 0x4, stride := 4, count := 1, dom := .host, reset := 0x0, rw := 0x0, w1c := 0x1FF },
    { name := "HST_ALERT_EN", off := 0x8, stride := 4, count := 1, dom := .shell, reset := 0x0, rw := 0x1FF },
    { name := "HST_BAR0_WIN", off := 0xC, stride := 4, count := 1, dom := .host, reset := 0x0, rw := 0x1FFF },
    { name := "HST_FWIRQ", off := 0x10, stride := 4, count := 1, dom := .shell, reset := 0x0, rw := 0x0 },
    { name := "HST_I2C", off := 0x14, stride := 4, count := 1, dom := .shell, reset := 0x4C, rw := 0x0, ro := 0x7F },
    { name := "HST_GPIO_DIR", off := 0x20, stride := 4, count := 1, dom := .shell, reset := 0x0, rw := 0xFFFF },
    { name := "HST_GPIO_OUT", off := 0x24, stride := 4, count := 1, dom := .shell, reset := 0x0, rw := 0xFFFF },
    { name := "HST_GPIO_IN", off := 0x28, stride := 4, count := 1, dom := .shell, reset := 0x0, rw := 0x0, ro := 0xFFFF },
    { name := "HST_GPIO_EDGE", off := 0x2C, stride := 4, count := 1, dom := .shell, reset := 0x0, rw := 0x0, w1c := 0xFFFF },
    { name := "HST_FL_CTRL", off := 0x30, stride := 4, count := 1, dom := .shell, reset := 0x0, rw := 0x0, rwl := 0xFF07FE },
    { name := "HST_FL_ADDR", off := 0x34, stride := 4, count := 1, dom := .shell, reset := 0x0, rw := 0x0, rwl := 0xFFFFFFFF },
    { name := "HST_FL_STATUS", off := 0x38, stride := 4, count := 1, dom := .shell, reset := 0x0, rw := 0x0, w1c := 0x2, ro := 0x1 },
    { name := "HST_FL_LEN", off := 0x3C, stride := 4, count := 1, dom := .shell, reset := 0x0, rw := 0x0, rwl := 0x1FF },
    { name := "HST_RWIN_BASE", off := 0x40, stride := 4, count := 1, dom := .host, reset := 0x0, rw := 0xFFF },
    { name := "HST_FL_BUF", off := 0x400, stride := 4, count := 64, dom := .shell, reset := 0x0, rw := 0xFFFFFFFF },
    { name := "HST_HDB", off := 0x800, stride := 4, count := 256, dom := .shell, reset := 0x0, rw := 0xFFFFFFFF } ]

/-- PWR block (R713) -/
def pwrRows : List RegRow :=
  [ { name := "PWR_STATUS", off := 0x0, stride := 4, count := 1, dom := .por, reset := 0x0, rw := 0x0, w1c := 0x80, ro := 0x7F },
    { name := "PWR_EST", off := 0x4, stride := 4, count := 1, dom := .por, reset := 0x0, rw := 0x0, ro := 0xFFFF },
    { name := "PWR_THRESH", off := 0x8, stride := 4, count := 1, dom := .por, reset := 0x0, rw := 0x0, ro := 0xFFFFFFFF },
    { name := "PWR_TEMP", off := 0x100, stride := 4, count := 24, dom := .por, reset := 0x0, rw := 0x0, ro := 0x8000FFFF } ]

/-- ATT block (R636 to R645) -/
def attRows : List RegRow :=
  [ { name := "ATT_STATUS", off := 0x0, stride := 4, count := 1, dom := .por, reset := 0x3000, rw := 0x0, ro := 0x77FFF },
    { name := "ATT_SAFE_UNIT", off := 0x4, stride := 4, count := 1, dom := .por, reset := 0x0, rw := 0x0, ro := 0xFFFFFF },
    { name := "ATT_SCRUB", off := 0x8, stride := 4, count := 1, dom := .por, reset := 0x0, rw := 0x0, ro := 0x7FFFFFF },
    { name := "ATT_SCRUB_CNT", off := 0xC, stride := 4, count := 1, dom := .por, reset := 0x0, rw := 0x0, ro := 0xFFFFFFFF },
    { name := "ATT_FAULTS", off := 0x10, stride := 4, count := 1, dom := .por, reset := 0x0, rw := 0x0, ro := 0xFFFFFFFF },
    { name := "ATT_LOG_HEAD", off := 0x14, stride := 4, count := 1, dom := .por, reset := 0x0, rw := 0x0, ro := 0xFFFFFFFF },
    { name := "ATT_MB_HOST", off := 0x18, stride := 4, count := 1, dom := .host, reset := 0x0, rw := 0x0, ro := 0x7FFFFF },
    { name := "ATT_MB_NONCE", off := 0x20, stride := 4, count := 2, dom := .por, reset := 0x0, rw := 0x0, ro := 0xFFFFFFFF },
    { name := "ATT_MINVER", off := 0x28, stride := 4, count := 1, dom := .por, reset := 0x0, rw := 0x0, ro := 0xFFFFFFFF },
    { name := "ATT_DEVICE_ID", off := 0x2C, stride := 4, count := 1, dom := .por, reset := 0x0, rw := 0x0, ro := 0xFFFFFFFF },
    { name := "ATT_KEYS", off := 0x30, stride := 4, count := 1, dom := .por, reset := 0x0, rw := 0x0, ro := 0xFFFFFFFF },
    { name := "ATT_DBG_LEFT", off := 0x34, stride := 4, count := 1, dom := .por, reset := 0x0, rw := 0x0, ro := 0xFFFF },
    { name := "ATT_BLOB_CNT", off := 0x38, stride := 4, count := 2, dom := .por, reset := 0x0, rw := 0x0, ro := 0xFFFFFFFF },
    { name := "ATT_CROLE", off := 0x100, stride := 4, count := 17, dom := .por, reset := 0x0, rw := 0x0, ro := 0xFFFFFFFF },
    { name := "ATT_MAP", off := 0x200, stride := 4, count := 64, dom := .por, reset := 0x0, rw := 0x0, ro := 0x1F1F1F1F },
    { name := "ATT_DEVPUB", off := 0x300, stride := 4, count := 24, dom := .por, reset := 0x0, rw := 0x0, ro := 0xFFFFFFFF },
    { name := "ATT_LOG", off := 0x1000, stride := 4, count := 1024, dom := .por, reset := 0x0, rw := 0x0, ro := 0xFFFFFFFF } ]

/-- Crate registers of the HST block (R418 to R425) -/
def crtRows : List RegRow :=
  [ { name := "HST_CRT_CTRL", off := 0x100, stride := 4, count := 1, dom := .shell, reset := 0x0, rw := 0x0 },
    { name := "HST_CRT_STATUS", off := 0x104, stride := 4, count := 1, dom := .shell, reset := 0x0, rw := 0x0, w1c := 0x6000000, ro := 0x1FFFFFF },
    { name := "HST_CRT_RANGE", off := 0x108, stride := 4, count := 1, dom := .shell, reset := 0x0, rw := 0x0, ro := 0x1FFF0FFF },
    { name := "HST_CRT_DOMAIN", off := 0x10C, stride := 4, count := 1, dom := .shell, reset := 0x0, rw := 0x0, ro := 0xFF0F1FFF },
    { name := "HST_CRT_TREE", off := 0x110, stride := 4, count := 1, dom := .shell, reset := 0x0, rw := 0x0, ro := 0xFFFFFFFF },
    { name := "HST_CRT_TSUB", off := 0x114, stride := 4, count := 1, dom := .shell, reset := 0x0, rw := 0x0, ro := 0xFFFF },
    { name := "HST_CRT_PRESENT", off := 0x118, stride := 4, count := 1, dom := .shell, reset := 0x0, rw := 0x0, ro := 0xFFFFFFFF },
    { name := "HST_CRT_LOST", off := 0x11C, stride := 4, count := 1, dom := .shell, reset := 0x0, rw := 0x0, w1c := 0xFFFFFFFF },
    { name := "HST_CRT_SUBSTAT", off := 0x120, stride := 4, count := 1, dom := .shell, reset := 0x0, rw := 0x0, ro := 0x1FFF01FF },
    { name := "HST_CRT_TMO", off := 0x124, stride := 4, count := 1, dom := .shell, reset := 0x7D0, rw := 0xFFFF },
    { name := "HST_CRT_CBASE", off := 0x140, stride := 4, count := 32, dom := .shell, reset := 0x0, rw := 0x0, ro := 0x9FFF0FFF } ]

/-- TIM block (R449 to R455) -/
def timRows : List RegRow :=
  [ { name := "TIM_CTRL", off := 0x0, stride := 4, count := 1, dom := .shell, reset := 0x0, rw := 0x0 },
    { name := "TIM_STATUS", off := 0x4, stride := 4, count := 1, dom := .shell, reset := 0x0, rw := 0x0, w1c := 0xFF00, ro := 0xFF },
    { name := "TIM_TB0_NOW", off := 0x10, stride := 4, count := 3, dom := .shell, reset := 0x0, rw := 0x0, ro := 0xFFFFFFFF },
    { name := "TIM_TB1_NOW", off := 0x20, stride := 4, count := 3, dom := .shell, reset := 0x0, rw := 0x0, ro := 0xFFFFFFFF },
    { name := "TIM_TB2_NOW", off := 0x30, stride := 4, count := 3, dom := .shell, reset := 0x0, rw := 0x0, ro := 0xFFFFFFFF },
    { name := "TIM_TB3_NOW", off := 0x40, stride := 4, count := 3, dom := .shell, reset := 0x0, rw := 0x0, ro := 0xFFFFFFFF },
    { name := "TIM_TB0_OFS_P", off := 0x50, stride := 4, count := 1, dom := .shell, reset := 0x0, rw := 0x0, ro := 0xFFFFFFFF },
    { name := "TIM_TB0_OFS_S", off := 0x54, stride := 4, count := 1, dom := .shell, reset := 0x0, rw := 0x0, ro := 0xFFFFFFFF },
    { name := "TIM_TB0_CS", off := 0x58, stride := 4, count := 1, dom := .shell, reset := 0x0, rw := 0x0, ro := 0xFFFFFFFF },
    { name := "TIM_TB0_RATE", off := 0x5C, stride := 4, count := 1, dom := .shell, reset := 0x0, rw := 0x0, ro := 0xFFFFFFFF },
    { name := "TIM_SERVO", off := 0x60, stride := 4, count := 1, dom := .shell, reset := 0xFAA4, rw := 0x0, ro := 0xFFFFFF },
    { name := "TIM_SLEW", off := 0x64, stride := 4, count := 1, dom := .shell, reset := 0x346DC5D, rw := 0x0, ro := 0xFFFFFFFF },
    { name := "TIM_SRC", off := 0x68, stride := 4, count := 1, dom := .shell, reset := 0x7D000FC, rw := 0x0, ro := 0xFFFF03FF },
    { name := "TIM_LAW_LEAD", off := 0x6C, stride := 4, count := 1, dom := .shell, reset := 0x2710, rw := 0x0, ro := 0xFFFF },
    { name := "TIM_TAI_NEXT_LO", off := 0x70, stride := 4, count := 1, dom := .shell, reset := 0x0, rw := 0xFFFFFFFF },
    { name := "TIM_TAI_NEXT_HI", off := 0x74, stride := 4, count := 1, dom := .shell, reset := 0x0, rw := 0x8000FFFF },
    { name := "TIM_PPS_STAMP", off := 0x80, stride := 4, count := 3, dom := .shell, reset := 0x0, rw := 0x0, ro := 0xFFFFFFFF },
    { name := "TIM_TB1_ERR", off := 0x8C, stride := 4, count := 1, dom := .shell, reset := 0x0, rw := 0x0, ro := 0xFFFFFFFF },
    { name := "TIM_LAW1", off := 0x100, stride := 4, count := 7, dom := .shell, reset := 0x0, rw := 0xFFFFFFFF },
    { name := "TIM_LAW1_CTRL", off := 0x11C, stride := 4, count := 1, dom := .shell, reset := 0x0, rw := 0x1 },
    { name := "TIM_LAW2", off := 0x120, stride := 4, count := 7, dom := .shell, reset := 0x0, rw := 0xFFFFFFFF },
    { name := "TIM_LAW2_CTRL", off := 0x13C, stride := 4, count := 1, dom := .shell, reset := 0x0, rw := 0x1 },
    { name := "TIM_LAW3", off := 0x140, stride := 4, count := 7, dom := .shell, reset := 0x0, rw := 0xFFFFFFFF },
    { name := "TIM_LAW3_CTRL", off := 0x15C, stride := 4, count := 1, dom := .shell, reset := 0x0, rw := 0x1 },
    { name := "TIM_PLS_START0", off := 0x200, stride := 32, count := 8, dom := .image, reset := 0x0, rw := 0xFFFFFFFF },
    { name := "TIM_PLS_START1", off := 0x204, stride := 32, count := 8, dom := .image, reset := 0x0, rw := 0xFFFFFFFF },
    { name := "TIM_PLS_START2", off := 0x208, stride := 32, count := 8, dom := .image, reset := 0x0, rw := 0xFFFFFFFF },
    { name := "TIM_PLS_PERIOD_LO", off := 0x20C, stride := 32, count := 8, dom := .image, reset := 0x0, rw := 0xFFFFFFFF },
    { name := "TIM_PLS_PERIOD_HI", off := 0x210, stride := 32, count := 8, dom := .image, reset := 0x0, rw := 0xFFFF },
    { name := "TIM_PLS_WIDTH", off := 0x214, stride := 32, count := 8, dom := .image, reset := 0x14, rw := 0xFFFFFFFF },
    { name := "TIM_PLS_COUNT", off := 0x218, stride := 32, count := 8, dom := .image, reset := 0x0, rw := 0xFFFFFFFF },
    { name := "TIM_PLS_CTRL", off := 0x21C, stride := 32, count := 8, dom := .image, reset := 0x0, rw := 0xF, w1c := 0x30, ro := 0xFFFF40 },
    { name := "TIM_ASYM", off := 0x400, stride := 4, count := 64, dom := .shell, reset := 0x0, rw := 0x0, ro := 0xFFFF } ]

/-- CEL block (R595 to R601). -/
def celRows : List RegRow :=
  [ { name := "CEL_STATUS", off := 0x0, stride := 4, count := 1, dom := .shell, reset := 0x0, rw := 0x0, w1c := 0x1E0, ro := 0x1F },
    { name := "CEL_EPOCH", off := 0x4, stride := 4, count := 1, dom := .por, reset := 0x0, rw := 0x0, ro := 0xFFFFFFFF },
    { name := "CEL_PLAN", off := 0x8, stride := 4, count := 1, dom := .shell, reset := 0x801, rw := 0x0, ro := 0x7FFF7FFF },
    { name := "CEL_RT_SEL", off := 0x10, stride := 4, count := 1, dom := .shell, reset := 0x0, rw := 0xFFFF },
    { name := "CEL_RT_DATA", off := 0x14, stride := 4, count := 1, dom := .shell, reset := 0x0, rw := 0x0, ro := 0xFFFF007F },
    { name := "CEL_PC_SEL", off := 0x18, stride := 4, count := 1, dom := .shell, reset := 0x0, rw := 0x7F },
    { name := "CEL_PC_DATA", off := 0x1C, stride := 4, count := 1, dom := .shell, reset := 0xFE00, rw := 0x0, ro := 0x3FFFF },
    { name := "CEL_ALARM_CNT", off := 0x20, stride := 4, count := 1, dom := .shell, reset := 0x0, rw := 0x0, ro := 0xFFFFFFFF },
    { name := "CEL_TRANS_CNT", off := 0x24, stride := 4, count := 1, dom := .shell, reset := 0x0, rw := 0x0, ro := 0xFFFFFFFF },
    { name := "CEL_POISON_CNT", off := 0x28, stride := 4, count := 1, dom := .shell, reset := 0x0, rw := 0x0, ro := 0xFFFFFFFF },
    { name := "CEL_REKEY_CNT", off := 0x2C, stride := 4, count := 1, dom := .shell, reset := 0x0, rw := 0x0, ro := 0xFFFFFFFF },
    { name := "CEL_POISON_LAST", off := 0x30, stride := 4, count := 1, dom := .shell, reset := 0x0, rw := 0x0, ro := 0xFFFFFFFF },
    { name := "CEL_RK_STATUS", off := 0x34, stride := 4, count := 1, dom := .shell, reset := 0x0, rw := 0x0, ro := 0xFFFFFFFF },
    { name := "CEL_BLOB_SRC_LO", off := 0x40, stride := 4, count := 1, dom := .shell, reset := 0x0, rw := 0xFFFFFFFF },
    { name := "CEL_BLOB_SRC_HI", off := 0x44, stride := 4, count := 1, dom := .shell, reset := 0x0, rw := 0xF },
    { name := "CEL_BLOB_DST_LO", off := 0x48, stride := 4, count := 1, dom := .shell, reset := 0x0, rw := 0xFFFFFFFF },
    { name := "CEL_BLOB_DST_HI", off := 0x4C, stride := 4, count := 1, dom := .shell, reset := 0x0, rw := 0xF },
    { name := "CEL_BLOB_LEN_LO", off := 0x50, stride := 4, count := 1, dom := .shell, reset := 0x0, rw := 0xFFFFFFFF },
    { name := "CEL_BLOB_LEN_HI", off := 0x54, stride := 4, count := 1, dom := .shell, reset := 0x0, rw := 0xF },
    { name := "CEL_BLOB_CTRL", off := 0x58, stride := 4, count := 1, dom := .shell, reset := 0x0, rw := 0xFF02 },
    { name := "CEL_BLOB_STATUS", off := 0x5C, stride := 4, count := 1, dom := .shell, reset := 0x0, rw := 0x0, ro := 0xF },
    { name := "CEL_BLOB_CNT", off := 0x60, stride := 4, count := 2, dom := .shell, reset := 0x0, rw := 0x0, ro := 0xFFFFFFFF } ]

/-- STW window (R492 to R497). -/
def stwRows : List RegRow :=
  [ { name := "STW_CTRL", off := 0x0, stride := 4, count := 1, dom := .shell, reset := 0x0, rw := 0x1 },
    { name := "STW_STATUS", off := 0x4, stride := 4, count := 1, dom := .shell, reset := 0x0, rw := 0x0, w1c := 0x3C, ro := 0x1FC3 },
    { name := "STW_PC", off := 0x8, stride := 4, count := 1, dom := .shell, reset := 0x0, rw := 0x0, ro := 0xFFFFFFFF },
    { name := "STW_DBELL", off := 0xC, stride := 4, count := 1, dom := .shell, reset := 0x0, rw := 0x0 },
    { name := "STW_RWIN_BASE", off := 0x10, stride := 4, count := 1, dom := .shell, reset := 0x0, rw := 0xFFF },
    { name := "STW_DWIN", off := 0x14, stride := 4, count := 1, dom := .shell, reset := 0x0, rw := 0x3FF },
    { name := "STW_WINn", off := 0x20, stride := 4, count := 4, dom := .shell, reset := 0x0, rw := 0x3FFFF },
    { name := "STW_FWA", off := 0x30, stride := 4, count := 1, dom := .shell, reset := 0x0, rw := 0x0, ro := 0x3FF },
    { name := "STW_DBG_GPR_i", off := 0x40100, stride := 4, count := 24, dom := .shell, reset := 0x0, rw := 0xFFFFFFFF },
    { name := "STW_DBG_PRED", off := 0x40160, stride := 4, count := 1, dom := .shell, reset := 0x0, rw := 0xF },
    { name := "STW_DBG_PC", off := 0x40164, stride := 4, count := 1, dom := .shell, reset := 0x0, rw := 0xFFFFFFFF } ]

/-- TSK window (R517 to R524). -/
def tskRows : List RegRow :=
  [ { name := "TSK_CTRL", off := 0x0, stride := 4, count := 1, dom := .shell, reset := 0x1, rw := 0x3 },
    { name := "TSK_STATUS", off := 0x4, stride := 4, count := 1, dom := .shell, reset := 0x20000000, rw := 0x0, w1c := 0x1C000, ro := 0x3FFE3FFF },
    { name := "TSK_NOW", off := 0x8, stride := 4, count := 1, dom := .shell, reset := 0x0, rw := 0x0, ro := 0xFFFFFFFF },
    { name := "TSK_NEXT", off := 0xC, stride := 4, count := 1, dom := .shell, reset := 0x0, rw := 0x0, ro := 0xFF },
    { name := "TSK_ARG", off := 0x10, stride := 4, count := 1, dom := .shell, reset := 0x0, rw := 0xFFFFFFFF },
    { name := "TSK_CMD", off := 0x14, stride := 4, count := 1, dom := .shell, reset := 0x0, rw := 0x0 },
    { name := "TSK_NTICK", off := 0x18, stride := 4, count := 1, dom := .shell, reset := 0x3E8, rw := 0xFFFFF },
    { name := "TSK_NTICK_COUNT", off := 0x1C, stride := 4, count := 1, dom := .shell, reset := 0x0, rw := 0x0, ro := 0xFFFFFFFF },
    { name := "TSK_MISS_CNT", off := 0x20, stride := 4, count := 1, dom := .shell, reset := 0x0, rw := 0x0, ro := 0xFFFFFFFF },
    { name := "TSK_SLOT", off := 0x100, stride := 4, count := 128, dom := .shell, reset := 0x0, rw := 0x0, ro := 0xFFFFFFFF },
    { name := "TSK_FLOW_W0", off := 0x400, stride := 8, count := 128, dom := .shell, reset := 0x20, rw := 0x1FFF },
    { name := "TSK_FLOW_W1", off := 0x404, stride := 8, count := 128, dom := .shell, reset := 0x0, rw := 0x0, w1c := 0x300000, ro := 0xFFFFF },
    { name := "TSK_FLOW_DROP", off := 0x800, stride := 4, count := 128, dom := .shell, reset := 0x0, rw := 0x0, ro := 0xFFFFFFFF },
    { name := "TSK_DL", off := 0xA00, stride := 4, count := 128, dom := .shell, reset := 0x0, rw := 0x0, ro := 0xFFFFFFFF },
    { name := "TSK_POST", off := 0x1000, stride := 4, count := 128, dom := .shell, reset := 0x0, rw := 0x0 },
    { name := "TSK_HEAD", off := 0x1200, stride := 4, count := 128, dom := .shell, reset := 0x0, rw := 0x0, ro := 0xFFFFFFFF } ]

/-- NOC block (R546 to R550). Routing entries are shown by a view of the banks. -/
def nocRows : List RegRow :=
  [ { name := "NOC_STATUS", off := 0x0, stride := 4, count := 1, dom := .shell, reset := 0x0, rw := 0x0, w1c := 0x1C, ro := 0x23 },
    { name := "NOC_RT_CTRL", off := 0x4, stride := 4, count := 1, dom := .shell, reset := 0x0, rw := 0x0 },
    { name := "NOC_NOROUTE", off := 0x8, stride := 4, count := 1, dom := .shell, reset := 0x0, rw := 0x0, ro := 0x7FFFFFF },
    { name := "NOC_SWITCHES", off := 0xC, stride := 4, count := 1, dom := .shell, reset := 0x0, rw := 0x0, ro := 0xFFFFFFFF },
    { name := "NOC_TDM_0", off := 0x100, stride := 64, count := 2, dom := .shell, reset := 0x82298229, rw := 0x0, ro := 0xFFFFFFFF },
    { name := "NOC_TDM_k", off := 0x100, stride := 4, count := 32, dom := .shell, reset := 0x0, rw := 0x83FF83FF },
    { name := "NOC_GATE_s", off := 0x200, stride := 4, count := 16, dom := .shell, reset := 0x0, rw := 0x0, ro := 0xFFFFFFFF },
    { name := "NOC_BANK", off := 0x1000, stride := 4, count := 6144, dom := .shell, reset := 0x0, rw := 0x1F1F1F1F },
    { name := "NOC_BANK_ACTIVE", off := 0x8000, stride := 4, count := 6144, dom := .shell, reset := 0x0, rw := 0x0, ro := 0x1F1F1F1F } ]

/-- DMA block (R560 to R563). -/
def dmaRows : List RegRow :=
  [ { name := "DMA_STATUS", off := 0x0, stride := 4, count := 1, dom := .shell, reset := 0x40, rw := 0x0, ro := 0x3F3F7F },
    { name := "DMA_IRQ", off := 0x4, stride := 4, count := 1, dom := .shell, reset := 0x0, rw := 0x0, w1c := 0xFFFFFFFF },
    { name := "DMA_CHn_SRC_LO", off := 0x100, stride := 64, count := 32, dom := .shell, reset := 0x0, rw := 0xFFFFFFFF },
    { name := "DMA_CHn_SRC_HI", off := 0x104, stride := 64, count := 32, dom := .shell, reset := 0x0, rw := 0xFFFFFFFF },
    { name := "DMA_CHn_DST_LO", off := 0x108, stride := 64, count := 32, dom := .shell, reset := 0x0, rw := 0xFFFFFFFF },
    { name := "DMA_CHn_DST_HI", off := 0x10C, stride := 64, count := 32, dom := .shell, reset := 0x0, rw := 0xFFFFFFFF },
    { name := "DMA_CHn_COUNT", off := 0x110, stride := 64, count := 32, dom := .shell, reset := 0x0, rw := 0xFFFFFFFF },
    { name := "DMA_CHn_RESID", off := 0x114, stride := 64, count := 32, dom := .shell, reset := 0x0, rw := 0x0, ro := 0xFFFFFFFF },
    { name := "DMA_CHn_CTRL", off := 0x118, stride := 64, count := 32, dom := .shell, reset := 0x100, rw := 0xFF7F7C },
    { name := "DMA_CHn_STATUS", off := 0x11C, stride := 64, count := 32, dom := .shell, reset := 0x0, rw := 0x0, ro := 0xFF },
    { name := "DMA_CHn_NOTIFY", off := 0x120, stride := 64, count := 32, dom := .shell, reset := 0x0, rw := 0x3FF } ]

/-- TRC block (R669, R670). -/
def trcRows : List RegRow :=
  [ { name := "TRC_CTRL", off := 0x0, stride := 4, count := 1, dom := .shell, reset := 0x0, rw := 0x3FF },
    { name := "TRC_STATUS", off := 0x4, stride := 4, count := 1, dom := .shell, reset := 0x0, rw := 0x0, w1c := 0xFFFF, ro := 0x10000 },
    { name := "TRC_SRCk", off := 0x100, stride := 4, count := 16, dom := .shell, reset := 0x4000000, rw := 0xFFFF03FF },
    { name := "TRC_DROPk", off := 0x140, stride := 4, count := 16, dom := .shell, reset := 0x0, rw := 0x0, ro := 0xFFFFFFFF } ]

/-- IMG block (R271 to R278); RL_JD and RL_JJ alternate. -/
def imgRows : List RegRow :=
  [ { name := "IMG_CTRL", off := 0x0, stride := 4, count := 1, dom := .shell, reset := 0x0, rw := 0x0 },
    { name := "IMG_STATUS", off := 0x4, stride := 4, count := 1, dom := .shell, reset := 0x1, rw := 0x0, w1c := 0x2C0, ro := 0x1D3F },
    { name := "IMG_ERR", off := 0x8, stride := 4, count := 1, dom := .shell, reset := 0x0, rw := 0x0, ro := 0xFFFFF },
    { name := "IMG_ERR_SECT", off := 0xC, stride := 4, count := 1, dom := .shell, reset := 0x0, rw := 0x0, ro := 0x80FFFFFF },
    { name := "IMG_ERR_LOC", off := 0x10, stride := 4, count := 1, dom := .shell, reset := 0x0, rw := 0x0, ro := 0xFFF7FFF },
    { name := "IMG_FEED_CREDIT", off := 0x14, stride := 4, count := 1, dom := .shell, reset := 0x0, rw := 0x0, ro := 0x1FFFFFFF },
    { name := "IMG_FEED_POS_LO", off := 0x18, stride := 4, count := 1, dom := .shell, reset := 0x0, rw := 0x0, ro := 0xFFFFFFFF },
    { name := "IMG_FEED_POS_HI", off := 0x1C, stride := 4, count := 1, dom := .shell, reset := 0x0, rw := 0x0, ro := 0xFFFF },
    { name := "IMG_TIMEOUT", off := 0x20, stride := 4, count := 1, dom := .shell, reset := 0x2710, rw := 0xFFFF },
    { name := "IMG_LARDER", off := 0x24, stride := 4, count := 1, dom := .shell, reset := 0x1, rw := 0x0, ro := 0x1F },
    { name := "IMG_ID", off := 0x30, stride := 4, count := 4, dom := .image, reset := 0x0, rw := 0x0, ro := 0xFFFFFFFF },
    { name := "IMG_SHELL", off := 0x40, stride := 4, count := 4, dom := .shell, reset := 0x0, rw := 0x0, ro := 0xFFFFFFFF },
    { name := "IMG_SHELL_VER", off := 0x50, stride := 4, count := 1, dom := .shell, reset := 0x0, rw := 0x0, ro := 0xFFFFFFFF },
    { name := "IMG_RL_JD_LO", off := 0x60, stride := 8, count := 2, dom := .image, reset := 0x0, rw := 0x0, ro := 0xFFFFFFFF },
    { name := "IMG_RL_JD_HI", off := 0x64, stride := 8, count := 2, dom := .image, reset := 0x0, rw := 0x0, ro := 0x8000FFFF } ]

end Sys2Proof.Machine
end

