-- ==== Sys2Proof/Machine/AtticState.lean ====
section
/-! DEFINITION. State of the attic and the scrubber (chapter 15) beside their registers. -/

namespace Sys2Proof.Machine

/-- A fault that a unit has reported and the attic has not yet decided (R620, R624). `run` names the run of the
epoch in which it arose: the epoch and the rollback generation (R621). -/
structure FaultRep where
  kind   : Nat
  cls    : Nat
  unit   : Nat
  detail : Nat
  epoch  : Nat
  gen    : Nat
deriving DecidableEq, Repr

/-- A counted fault of a unit (R621), with its time in units of 2^-16 ns. -/
structure FaultHit where
  cls   : Nat
  unit  : Nat
  epoch : Nat
  gen   : Nat
  time  : Nat
deriving DecidableEq, Repr

/-- What the attic does about a fault (R620, R621). -/
inductive Response where
  | none | replay | reload | retry | retire | safe | count | log
deriving DecidableEq, Repr

/-- A decision that the next restore carries out (R201, R623). -/
structure Decision where
  cls  : Nat
  unit : Nat
  resp : Response
  /-- Kind of the fault that led to a retirement; none for a request and for a repair. -/
  kind : Option Nat := none
deriving DecidableEq, Repr

/-- Who submitted a mailbox request (R609). -/
inductive MbWho where
  | host | steward (cluster : Nat)
deriving DecidableEq, Repr

/-- A mailbox request that waits, as copied at submission (R609). -/
structure MbReq where
  ticket : Nat
  who    : MbWho
  bytes  : List Byte
deriving DecidableEq, Repr

/-- A log entry whose OUTCOME is pending (R622): its number, its unit and the time of the fault. -/
structure PendingOutcome where
  index : Nat
  cls   : Nat
  unit  : Nat
  time  : Nat
deriving DecidableEq, Repr

/-- The attic. Times are readings of TB1, or of TB0 while no TB1 law is in force, in units of 2^-16 ns. -/
structure Attic where
  /-- Faults reported and not yet decided, oldest first (R624). -/
  reports   : List FaultRep
  hits      : List FaultHit
  decisions : List Decision
  outcomes  : List PendingOutcome
  /-- Fuses (R602, R604, R605): lifecycle now and at the next Boot, owner keys, minimum version, seed of the blob
  counter. -/
  lifecycle : Nat
  lcNext    : Nat
  ownerCmd  : List Byte
  ownerDbg  : List Byte
  custShell : List Byte
  minVer    : Nat
  raises    : Nat
  blobSeed  : Nat
  /-- Next BLOB_CNT (R605). -/
  blobCnt   : Nat
  /-- Key slots (R604, R606). -/
  imgKeys   : SMap (Option (BitVec 256))
  blobKeys  : SMap (Option (BitVec 256))
  /-- Steward session key (R607). -/
  session   : Option (BitVec 256)
  /-- Time at which the lock closes (R608). -/
  lockUntil : Option Nat
  nonce     : BitVec 64
  nextTicket : BitVec 16
  /-- The mailbox queue (R609). -/
  queue     : List MbReq
  /-- The outstanding challenge and the time it lapses (R614, R615). -/
  challenge : Option (List Byte × Nat)
  grantsUntil : Option Nat
  /-- ATTICPOL flags in force (R634). -/
  flags     : BitVec 8
  /-- Scrubber copies condemned or under rebuild, and the times of the rebuilds of each (R619). -/
  condemned : List Nat
  rebuilding : List Nat
  rebuilds  : SMap (List Nat)
  /-- BISTs that run, and retired units that passed and wait for a spare position: class and unit (R629, R630). -/
  bists     : List (Nat × Nat)
  passed    : List (Nat × Nat)
  /-- Lanes and pseudo-channels are retired in their own units; these are the retired DMA channels (R623). -/
  deadDma   : List Nat
  /-- Retired physical lanes, kept over Boot (R633). -/
  deadLanes : List Nat
  /-- Corrected entries that the scrubber writes back at the next overhead (R618): word engine or BP, and the key. -/
  scrubFix  : List (Bool × Nat)
  /-- ATT_LOG_HEAD.COUNT when the log was last emptied (R614). -/
  logFrom   : Nat
deriving DecidableEq, Repr

/-- As shipped (R602, R640): lifecycle Blank, no owner keys, 64 raises left. -/
def Attic.reset : Attic :=
  { reports := [], hits := [], decisions := [], outcomes := [], lifecycle := 0, lcNext := 0, ownerCmd := [],
    ownerDbg := [], custShell := [], minVer := 0, raises := 64, blobSeed := 0, blobCnt := 0, imgKeys := [],
    blobKeys := [], session := none, lockUntil := none, nonce := 0, nextTicket := 0, queue := [],
    challenge := none, grantsUntil := none, flags := 0x0F, condemned := [], rebuilding := [], rebuilds := [],
    bists := [], passed := [], deadDma := [], deadLanes := [], scrubFix := [], logFrom := 0 }

end Sys2Proof.Machine
end

