-- ==== Sys2Proof/Machine/ClusterState.lean ====
section
/-! DEFINITION. State of the emulation path inside the clusters: Boolean processors, word engines, MAC slices,
store rooms and the signal fabric (chapters 02, 03 and 04 of the spec). Storage is keyed by physical cluster,
wire histories of the tick by logical cluster. -/

namespace Sys2Proof.Machine

/-- The kind of a chained word-engine instruction (R100: ADD follows ADD, SUB follows SUB, a compare a compare). -/
inductive ChainKind where
  | add | sub | cmp
deriving DecidableEq, Repr

/-- What an engine with COUT = 1 drives to its successor (R94, R100): carry out and EQ_out per context. -/
structure ChainOut where
  kind  : ChainKind
  carry : Ctx
  eq    : Ctx
deriving DecidableEq, Repr

/-- One MAC operation of the current tick (R103, R104): issued at schedule step `issued` by `engine`, its result
per context, readable from step issued + 3. -/
structure MacOp where
  cluster : Nat
  slice   : Nat
  issued  : Nat
  engine  : Nat
  vals    : List (BitVec 72)
  done    : Bool
deriving DecidableEq, Repr

/-- One store-room read of the current tick (R110): issued at step `issued`, readable from step issued + 2. -/
structure SrdOp where
  cluster : Nat
  room    : Nat
  port    : Nat
  issued  : Nat
  engine  : Nat
  vals    : List (BitVec 64)
  done    : Bool
deriving DecidableEq, Repr

/-- One page frame of a paged room (R118, R120). `ctx` is 0 in shared mode. `wEpoch` is the newest epoch that
wrote the frame and has not been written back, `pinFill` the epoch of the miss that the frame was filled for. -/
structure Frame where
  idx     : Nat
  ctx     : Nat
  page    : Nat
  filling : Bool
  dirty   : Bool
  wEpoch  : Option Nat
  pinFill : Option Nat
  lru     : Nat
deriving DecidableEq, Repr

/-- An undo record (R194). For a paged room `page` and `ofs` are the page and the entry offset; otherwise `page`
holds the entry address and `ofs` is 0. -/
structure UndoRec where
  epoch   : Nat
  cluster : Nat
  room    : Nat
  paged   : Bool
  page    : Nat
  ofs     : Nat
  old     : BitVec 64
deriving DecidableEq, Repr

/-- Everything the clusters hold. -/
structure Clusters where
  /-- BP instruction memory, 1,024 entries of 72 bits per BP (R68). -/
  bpMem     : SMap (BitVec 72)
  /-- Bit positions (0 to 79, data then ECC) of a BP entry that an upset has inverted since it was written (R71, R715). -/
  bpFlips   : SMap (List Nat)
  /-- Pond entries with their parity bit as bit 8 (R62, R72). -/
  pond      : SMap (BitVec 9)
  /-- Flop pointers, bit c for context c (R62). -/
  fptr      : SMap Ctx
  /-- Written flags (R62). -/
  written   : SMap Bool
  /-- Contexts in which a SWAPHINT of the tick had A = 0 (R60): the complement of hint_ok. -/
  hintOff   : SMap Ctx
  /-- Step bus of the tick: result of each BP at each schedule step (R54). -/
  bpBus     : SMap Ctx
  /-- Probe slots (R61). -/
  probe     : SMap Ctx
  /-- Staged writes of the inject registers, by register address (R77). -/
  injStaged : SMap Word
  /-- A second set of staged writes, accepted during a boundary extension, for the epoch after the next (R77). -/
  injLater  : SMap Word
  /-- Drivers of each export slot at each step of the tick: BP number and value (R142, R156). -/
  exports   : SMap (List (Nat × Ctx))
  /-- Step of the conflict that FAB_CONFLICT captured in this tick, by logical cluster (R156). -/
  confStep  : SMap (Option Nat)
  /-- Word-engine instruction memory, 1,024 entries of 64 bits per engine (R89, R90). -/
  weMem     : SMap (BitVec 64)
  /-- Inverted bit positions (0 to 71) of a word-engine entry (R91, R715). -/
  weFlips   : SMap (List Nat)
  /-- Word-engine registers w0 to w15 per context (R93, R96). -/
  wreg      : SMap Word
  /-- Flag F per engine, bit c for context c (R95). -/
  flagF     : SMap Ctx
  /-- Flag CY per engine, bit c for context c (R95). -/
  flagCY    : SMap Ctx
  /-- Flag F before an instruction of a step of the tick changed it, by engine and step, for datapath ports (R107). -/
  flagOld   : SMap (Option Ctx)
  /-- Result of each engine at each step and context of the tick (R96). -/
  weRes     : SMap Word
  /-- Chain outputs of each engine at each step of the tick (R100). -/
  chain     : SMap (Option ChainOut)
  /-- MAC accumulators, as every completed operation leaves them (R103, R138). -/
  macAcc    : SMap (BitVec 72)
  /-- MAC accumulators as they were when the tick began. -/
  macStart  : SMap (BitVec 72)
  /-- MAC operations of the tick, newest first (R104). -/
  macOps    : List MacOp
  /-- Read data of each store-room port and context, as every completed read leaves it (R110). -/
  portData  : SMap (BitVec 64)
  /-- Read data as it was when the tick began. -/
  portStart : SMap (BitVec 64)
  /-- Store-room reads of the tick, newest first (R110). -/
  srdOps    : List SrdOp
  /-- Store-room rows, 4,096 rows of 64 bits per room (R109). -/
  rows      : SMap (BitVec 64)
  /-- Inverted bit positions (0 to 71) of a store-room row (R115, R715). -/
  rowFlips  : SMap (List Nat)
  /-- Rows that carry the check pattern which every read reports as uncorrectable (R115). -/
  rowBad    : SMap Bool
  /-- Content of a row before the first write of a step of the tick, by row and step (R111). -/
  rowOld    : SMap (Option (BitVec 64))
  /-- Entries that port 1 wrote in a step of the tick, by entry and step (R111). -/
  port1Wr   : SMap Bool
  /-- Page frames of each paged room (R118). -/
  frames    : SMap (List Frame)
  /-- A counter of accesses that orders frames by their last access (R120). -/
  lruClock  : Nat
  /-- Undo records of the epochs in flight, newest first (R116, R194). -/
  undo      : List UndoRec
  /-- Undo queue of each cluster by logical cluster: records waiting and the step at which the queue was last looked at (R195). -/
  undoQ     : SMap (Nat × Nat)
  /-- Records in the undo buffer of the spring that are not yet written (R195). -/
  undoBuf   : Nat
  /-- Configuration entries (by register address) whose parity bit does not match (R157). -/
  cfgBad    : SMap Bool
  /-- Edge receive latches, by link × 32 + slot (R149). -/
  latch     : SMap Ctx
  /-- Content of a latch before a write of the tick that has not yet reached the window, with the step from which
  the new content is readable (R149). -/
  latchOld  : SMap (List (Nat × Ctx))
  /-- Inlet bits of the current tick (R153). -/
  inlet     : SMap Ctx
  /-- Compare sinks of the current tick, once the last driven values have reached them (R154). -/
  sinks     : SMap Ctx
deriving DecidableEq, Repr

/-- Every cluster memory empty: the entry to Loading (R67, R152) and power-on leave these defaults. -/
def Clusters.reset : Clusters :=
  { bpMem := [], bpFlips := [], pond := [], fptr := [], written := [], hintOff := [], bpBus := [], probe := [],
    injStaged := [], injLater := [], exports := [], confStep := [], weMem := [], weFlips := [], wreg := [],
    flagF := [], flagCY := [], flagOld := [], weRes := [], chain := [], macAcc := [], macStart := [],
    macOps := [], portData := [], portStart := [], srdOps := [], rows := [], rowFlips := [], rowBad := [],
    rowOld := [], port1Wr := [], frames := [], lruClock := 0, undo := [], undoQ := [],
    undoBuf := 0, cfgBad := [], latch := [], latchOld := [], inlet := [], sinks := [] }

end Sys2Proof.Machine
end

