-- ==== Sys2Proof/Machine/CompareState.lean ====
section
/-! DEFINITION. State of the compare engine, the record queue, the stage, the mover and the acquisition buffer
(chapter 07) beside their registers. -/

namespace Sys2Proof.Machine

/-- Record kinds (R289). -/
inductive RecKind where
  | port | probe | status | bmap | lost
deriving DecidableEq, Repr

/-- A record (R289). `aux` is the DUT address of a BMAP record and the sequence number otherwise. `idx` is its
position in its epoch's stage segment. -/
structure CmpRec where
  kind    : RecKind
  source  : Nat
  replay  : Bool
  first   : Bool
  post    : Bool
  tb0t    : Bool
  tick    : BitVec 48
  time    : Nat
  cmpd    : Ctx
  payload : BitVec 256
  aux     : Nat
  epoch   : Nat
  idx     : Nat
deriving DecidableEq, Repr

/-- A tick result word (R300). -/
structure TickResult where
  epoch : Nat
  tick  : BitVec 48
  fail  : Ctx
  cmpd  : Ctx
deriving DecidableEq, Repr

/-- The tick-dependent state that the engine keeps three copies of (R297). -/
structure CmpLive where
  portRef   : SMap (BitVec 256)
  grpRef    : SMap (BitVec 256)
  /-- Groups recorded since the last START from Ready (R296). -/
  grpSeen   : SMap Bool
  /-- Last STATUS payload since START from Ready (R291). -/
  status    : Option (BitVec 256)
  stopCount : Nat
  failTicks : Nat
  uncmp     : Nat
  pfail     : SMap Nat
  mis       : SMap Nat
  first     : SMap (Option (BitVec 48))
deriving DecidableEq, Repr

def CmpLive.reset : CmpLive :=
  { portRef := [], grpRef := [], grpSeen := [], status := none, stopCount := 0, failTicks := 0, uncmp := 0,
    pfail := [], mis := [], first := [] }

structure Compare where
  live      : CmpLive
  /-- State at the end of the epochs that have completed and not committed, by epoch (R297). -/
  ended     : List (Nat × CmpLive)
  committed : CmpLive
  /-- Staged settings, by register address (R286), and those accepted during a boundary extension. -/
  staged    : SMap Word
  stagedLater : SMap Word
  /-- The stimulus frame of the current tick is present (R175). -/
  present   : Bool
  /-- Response bits and compare-enable bits of the current tick (R281). -/
  rsp       : SMap Ctx
  ce        : SMap Ctx
  /-- Record queue, oldest first (R288). -/
  queue     : List CmpRec
  /-- Records written to the stage, in formation order (R302). -/
  stage     : List CmpRec
  results   : List TickResult
  /-- Committed epochs that wait for the mover, and the one it moves (R302). -/
  moveQ     : List Nat
  moving    : Option Nat
  /-- Tick of the last record that the mover read without error (R303). -/
  lastGood  : BitVec 48
  /-- Contexts that gained a failing PORT record in the epoch being moved (R315). -/
  gained    : Ctx
  /-- PRE, POST and MODE as latched at ARM (R304). -/
  pre       : Nat
  post      : Nat
  compat    : Bool
  /-- Post-trigger records stored (R306). -/
  postCnt   : Nat
  /-- Pending writes of the acquisition controls, in order (R305). -/
  ctlPend   : List (Nat × Word)
  /-- Cellar byte offset and segment size of the stage (R320). -/
  stageBase : Nat
  stageSeg  : Nat
deriving DecidableEq, Repr

def Compare.reset : Compare :=
  { live := CmpLive.reset, ended := [], committed := CmpLive.reset, staged := [], stagedLater := [],
    present := false, rsp := [], ce := [], queue := [], stage := [], results := [], moveQ := [], moving := none,
    lastGood := 0, gained := 0, pre := 0, post := 0, compat := false, postCnt := 0, ctlPend := [], stageBase := 0,
    stageSeg := 0 }

end Sys2Proof.Machine
end

