-- ==== Sys2Proof/Machine/HostState.lean ====
section
/-! DEFINITION. State of the PCIe endpoint, the pins, the flash port and the management target (chapter 17) beside
their registers. -/

namespace Sys2Proof.Machine

structure HostIf where
  /-- PORST_N and PERST_N are asserted. -/
  porst    : Bool
  perst    : Bool
  /-- The endpoint completes configuration requests (R228). -/
  cfgReady : Bool
  /-- MSI-X enable, vectors that are unmasked, pending bits (R703). -/
  msixEn   : Bool
  unmasked : SMap Bool
  msixPend : SMap Bool
  /-- Attic mailbox page of BAR4 (R700). -/
  page     : SMap Byte
  /-- Words of the MSI-X table other than the mask word (R700). -/
  msixTab  : SMap Word
  /-- I²C management target: the control address and the status and data of the last access (R707). -/
  i2cAddr  : Nat
  i2cStat  : Nat
  i2cBusy  : Bool
  i2cReply : List Byte
  /-- A flash operation runs (R705). -/
  flash    : Bool
  /-- Output levels of the IOCFG record (R710, R711). -/
  gpioDefault : BitVec 16
  /-- THERM_N asserted; THERMHOLD in force (R684, R691). -/
  therm    : Bool
  thermHold : Bool
deriving DecidableEq, Repr

/-- With no supply PORST_N counts as asserted (R10). -/
def HostIf.reset : HostIf :=
  { porst := true, perst := true, cfgReady := false, msixEn := false, unmasked := [], msixPend := [], page := [],
    msixTab := [], i2cAddr := 0, i2cStat := 0, i2cBusy := false, i2cReply := [], flash := false, gpioDefault := 0, therm := false,
    thermHold := false }

end Sys2Proof.Machine
end

