-- ==== Sys2Proof/Machine/LinkState.lean ====
section
/-! DEFINITION. State of the Hersel links and stream ports (chapter 08) beside their registers. -/

namespace Sys2Proof.Machine

/-- One signal item in the elastic buffer of a link (R354): the slot, the transmit-point step, valid and value. -/
structure SigItem where
  slot  : Nat
  step  : Nat
  valid : Bool
  value : Ctx
deriving DecidableEq, Repr

/-- A complete stimulus frame held for a tick (R370). -/
structure HeldFrame where
  tick    : Nat
  bytes   : List Byte
  control : BitVec 64
deriving DecidableEq, Repr

/-- A frame that is arriving (R364, R370). -/
structure PartFrame where
  tick    : Nat
  fbytes  : Nat
  control : BitVec 64
  data    : List Byte
deriving DecidableEq, Repr

/-- One field of a stream map (R366). -/
structure StreamField where
  fbit   : Nat
  dkind  : Nat
  bcast  : Bool
  count  : Nat
  dfirst : Nat
deriving DecidableEq, Repr

/-- A service flit sent and not acknowledged (R361). -/
structure SvcFlit where
  seq  : Nat
  som  : Bool
  eom  : Bool
  body : List Byte
deriving DecidableEq, Repr

/-- A management command that is repeated until it is answered (R363). -/
structure LinkCmd where
  cmd   : Nat
  clane : Nat
  cid   : Nat
deriving DecidableEq, Repr

/-- One link. -/
structure Link where
  /-- Shapes agreed in the TS2 exchange (R348), the far end's requested slots and its address. -/
  agreed    : Bool
  farSlots  : Nat
  farDev    : Nat
  farLink   : Nat
  /-- Consecutive ordered-set blocks that failed their CRC (R348). -/
  badBlocks : Nat
  /-- MARKs received and not yet returned: STAMP and the step at which they arrived (R349). -/
  marks     : List (Nat × Nat)
  /-- The round trip has been measured and its latency estimate accepted (R349). -/
  measured  : Bool
  /-- Elastic buffer (R354). -/
  items     : List SigItem
  /-- Next STREAM sequence number expected and to send (R364). -/
  rxStream  : Nat
  txStream  : Nat
  part      : Option PartFrame
  held      : List HeldFrame
  fields    : List StreamField
  /-- Ticks whose damaged frame is pending (R374). -/
  damaged   : List Nat
  /-- Service class: next sequence numbers, flits waiting for ACK, resends without progress, NAK (R361). -/
  svcTx     : Nat
  svcRx     : Nat
  svcOut    : List SvcFlit
  svcTries  : Nat
  svcNak    : Bool
  /-- Flits that wait until fewer than 128 are unacknowledged. -/
  svcWait   : List SvcFlit
  /-- Bytes of the message that is arriving, and whether one is open; the last complete message (R362). -/
  svcPart   : List Byte
  svcOpen   : Bool
  svcLast   : List Byte
  /-- Command in progress at this end (R363) and the next command identifier. -/
  cmd       : Option LinkCmd
  nextCid   : Nat
  /-- Swap agreed: logical lane and the domain step of the switch (R378). -/
  swap      : Option (Nat × Nat)
  /-- Loopback that the far end has been granted: 2 with its lane, or 3 (R382). -/
  farLoop   : Option (Nat × Nat)
  /-- Lane under BIST (R380). -/
  bist      : Option Nat
  /-- Device state and committed epochs that the far end reports (R363). -/
  farState  : Nat
  farCommit : Nat
deriving DecidableEq, Repr

/-- A PRBS checker of a lane (R383): error-free bits seen, synchronised, and the last bits of the pattern. -/
structure Checker where
  run    : Nat
  synced : Bool
  hist   : List Bool
deriving DecidableEq, Repr

def Checker.reset : Checker := { run := 0, synced := false, hist := [] }

def Link.reset : Link :=
  { agreed := false, farSlots := 0, farDev := 0xFFF, farLink := 0, badBlocks := 0, marks := [],
    measured := false, items := [], rxStream := 0, txStream := 0, part := none, held := [], fields := [],
    damaged := [], svcTx := 0, svcRx := 0, svcOut := [], svcTries := 0, svcNak := false, svcWait := [], svcPart := [],
    svcOpen := false, svcLast := [], cmd := none, nextCid := 0, swap := none, farLoop := none, bist := none, farState := 0,
    farCommit := 0 }

end Sys2Proof.Machine
end

