-- ==== Sys2Proof/Machine/NocState.lean ====
section
/-! DEFINITION. State of the control network and the DMA engine (chapter 13), the shelf power domains (chapter 17),
trace and JTAG (chapter 16), beside their registers. -/

namespace Sys2Proof.Machine

/-- A request held at the gate of a shelf domain (R544). -/
structure GateReq where
  who   : Requester
  addr  : Nat
  /-- The address came through a logical cluster window; `addr` is that of the physical window it was accepted for
  (R37). -/
  logical : Bool := false
  write : Bool
  data  : Word
deriving DecidableEq, Repr

/-- Phases of a shelf domain (R542), coded as NOC_GATE_s.PHASE (R549). -/
inductive Phases where
  | on | quiesce | retain | falling | off | waking
deriving DecidableEq, Repr

/-- The gate and the power state of a shelf domain. `revert`: a wake condition in QUIESCE or RETAIN returns it to ON.
`wake`: a wake condition in FALLING, or in OFF under THERMHOLD, to be acted on later, by its cause (R694). `trip`: a
thermal trip takes the domain down (R691). -/
structure Gate where
  phase  : Phases
  held   : List GateReq
  revert : Bool
  wake   : Nat
  trip   : Bool
deriving DecidableEq, Repr

def Gate.reset : Gate := { phase := .on, held := [], revert := false, wake := 0, trip := false }

/-- DMA_CHn_STATUS.STATE (R563). -/
inductive DmaSt where
  | idle | queued | active | done | aborted | err | retired
deriving DecidableEq, Repr

/-- A DMA channel beside its registers. `lake` holds the bytes read and not yet written; their writes are issued.
`readOfs` and `doneOfs` count the bytes read and the bytes whose writes have been accepted. `ending` is the state and
the error code in which the channel ends once every issued write is answered. -/
structure DmaCh where
  st      : DmaSt
  lake    : List Byte
  readOfs : Nat
  doneOfs : Nat
  ending  : Option (DmaSt × Nat)
deriving DecidableEq, Repr

def DmaCh.reset : DmaCh := { st := .idle, lake := [], readOfs := 0, doneOfs := 0, ending := none }

/-- Control network and DMA. -/
structure Noc where
  gates : SMap Gate
  /-- Routing entries that differ from the default tables, by bank, router and destination (R527, R528, R550). -/
  banks : SMap Nat
  chans : SMap DmaCh
  /-- Channels QUEUED, in order of GO (R553). -/
  queue : List Nat
deriving DecidableEq, Repr

def Noc.reset : Noc := { gates := [], banks := [], chans := [], queue := [] }

/-- A trace source (R646 to R657). `ref` is the reference address A, `since` the atoms and INDs since the last sync,
`cyc` the cycle of the last CYC, SYNC, SYNCT or PWR, `excl` the cycle at which an exclusion of G began. -/
structure TrcSrc where
  fifo  : List Byte
  atoms : List Bool
  ref   : Word
  since : Nat
  cyc   : Nat
  needT : Bool
  needS : Bool
  excl  : Option Nat
  drop  : Option Nat
deriving DecidableEq, Repr

def TrcSrc.reset : TrcSrc :=
  { fifo := [], atoms := [], ref := 0, since := 0, cyc := 0, needT := false, needS := false, excl := none,
    drop := none }

/-- JTAG (R662 to R667). -/
structure Jtag where
  /-- The current instruction, and its data register as Capture-DR loads it, which TDO shifts out. -/
  ir       : Nat
  dr       : Nat
  /-- Boundary register, by cell (R712), and its update latches, which drive the pins. -/
  cells    : SMap Bool
  drive    : SMap Bool
  /-- DBGACC: data and status of the last access, and whether it is incomplete. -/
  accData  : Word
  accStat  : Nat
  accBusy  : Bool
  /-- DBGMB: the request buffer. -/
  mb       : List Byte
  ticket   : Nat
  full     : Bool
  mbErr    : Bool
deriving DecidableEq, Repr

/-- Test-Logic-Reset selects IDCODE. -/
def Jtag.reset : Jtag :=
  { ir := 0x02, dr := 0x17240C35, cells := [], drive := [], accData := 0, accStat := 0, accBusy := false, mb := [], ticket := 0,
    full := false, mbErr := false }

/-- Trace and JTAG. -/
structure Trace where
  srcs : SMap TrcSrc
  /-- Number of the next frame slot, and the source served last (R658). -/
  slot : Nat
  last : Nat
  jtag : Jtag
deriving DecidableEq, Repr

def Trace.reset : Trace := { srcs := [], slot := 0, last := 15, jtag := Jtag.reset }

end Sys2Proof.Machine
end

