-- ==== Sys2Proof/Machine/SpringState.lean ====
section
/-! DEFINITION. State of the spring (chapter 05): ticks, epochs, the tick script, votes, checkpoints, rollback. -/

namespace Sys2Proof.Machine

/-- SPR_STATUS.PHASE (R214). -/
inductive Phase where
  | notRunning | firstRun | replay | rollback | stopping | held
deriving DecidableEq, Repr

/-- Where the device is within a tick (R174): between ticks, in the schedule, or past the overhead of a tick whose
boundary extension is still to run (R190). -/
inductive TickPos where
  | idle | schedule | extension
deriving DecidableEq, Repr

/-- An epoch record (R190, X128) with the settings that a replay of the epoch takes (R78, R178, R183, R286). -/
structure EpochRec where
  epoch    : Nat
  entry    : Nat
  left     : Nat
  decision : BitVec 16
  bank     : Nat
  cen      : Ctx
  gen      : BitVec 8
  inject   : SMap Word
  cmpSet   : SMap Word
deriving DecidableEq, Repr

/-- A snapshot (R191): flops by logical cluster, BP and flop number, and the edge receive latches. -/
structure Snapshot where
  epoch   : Nat
  flops   : SMap Ctx
  latches : SMap Ctx
deriving DecidableEq, Repr

/-- One inlet-log record (R193): the frame of a tick, or its absence, and the control word. -/
structure InletRec where
  tick    : Nat
  frame   : Option (List Byte)
  control : BitVec 64
deriving DecidableEq, Repr

/-- A vote for an epoch from a child link (R188). -/
structure VoteRec where
  link  : Nat
  epoch : Nat
  pass  : Bool
  stop  : Bool
  cause : Nat
  dev   : Nat
deriving DecidableEq, Repr

/-- Checkpoint work of an epoch that is not yet written or accepted (R198): parts still outstanding. -/
structure CkptWork where
  epoch    : Nat
  snapshot : Bool
  undo     : Bool
  inlet    : Bool
deriving DecidableEq, Repr

/-- A rollback in progress (R201). `held` is the HOLD of R204. -/
structure Rollback where
  target   : Nat
  start    : Nat
  cause    : Nat
  origin   : Nat
  hold     : Bool
  restored : Bool
  done     : Bool
deriving DecidableEq, Repr

/-- Everything the spring holds beside its registers. -/
structure Spring where
  phase      : Phase
  pos        : TickPos
  /-- Number of the current tick (R176). -/
  tick       : BitVec 48
  /-- Number of committed epochs (R220). -/
  commit     : BitVec 48
  /-- A tick has been added to the inlet log since the last boundary (R175, R193). -/
  logged     : Bool
  /-- True from START until the first tick of the run segment begins (R172). -/
  armed      : Bool
  /-- T_S and n_S of the run segment (R172), in units of 2^-16 ns. -/
  segStart   : Nat
  segTick    : BitVec 48
  /-- Steps from T_S to the start of the current tick (R172). -/
  segSteps   : Nat
  /-- First epoch that is not a replay: epochs below it have begun before (R201, R202). -/
  replayEnd  : Nat
  /-- Tick number below which ticks take their frames from the inlet log although their epochs are first runs (R209). -/
  logEnd     : Nat
  /-- Number of script entries that the image loaded (R184). -/
  scriptLen  : Nat
  /-- T_F: ticks taken in first runs since START from Ready (R369). -/
  taken      : Nat
  /-- Class of the current tick (R180). -/
  cls        : Nat
  entry      : Nat
  left       : Nat
  decision   : BitVec 16
  /-- DECIDE messages held: effective tick and value (R181). -/
  decides    : SMap (BitVec 16)
  cen        : Ctx
  /-- CEN values waiting for their effective epoch (R178). -/
  cenNext    : List (Nat × Ctx)
  bank       : Nat
  bankReq    : Option Nat
  gen        : BitVec 8
  /-- Next sequence number to send and to expect on each tree link (R187). -/
  txSeq      : SMap Nat
  rxSeq      : SMap Nat
  /-- Epoch at whose end ticks stop (R207), with the cause of the hold. -/
  holdAt     : Option Nat
  epochRecs  : List EpochRec
  snapshots  : List Snapshot
  initial    : Option Snapshot
  inletLog   : List InletRec
  /-- Local checks that failed: epoch and cause (R197). -/
  fails      : List (Nat × Nat)
  /-- Epochs in which this device requests a stop at commit (R188). -/
  stops      : List Nat
  votes      : List VoteRec
  /-- Votes this device has sent: epoch and PASS (R188). -/
  sent       : List (Nat × Bool)
  ckpt       : List CkptWork
  /-- Speculative cellar reads of an epoch whose alarm window is open: epoch and count (R198, R575). -/
  alarms     : SMap Nat
  rb         : Option Rollback
  /-- Children whose RB_DONE of the current generation has arrived (R186). -/
  rbDone     : List Nat
  /-- A device other than the root waits for a ROLLBACK or COMMIT that has not arrived (R189). -/
  waiting    : Bool
  /-- Messages that this device, as root, has broadcast and has itself still to act on (R185, R189). -/
  orders     : List SpringMsg
  /-- The last ROLLBACK sent down, for a child link that returns (R416). -/
  lastRb     : Option SpringMsg
deriving DecidableEq, Repr

/-- The IMAGE reset of the spring (R212 to R225) at entry to Loading and at power-on. -/
def Spring.reset : Spring :=
  { phase := .notRunning, pos := .idle, tick := 0, commit := 0, logged := false, armed := false, segStart := 0, segTick := 0,
    segSteps := 0, replayEnd := 0, logEnd := 0, scriptLen := 128, taken := 0, cls := 0, entry := 0, left := 0, decision := 0, decides := [],
    cen := 0xFF, cenNext := [], bank := 0, bankReq := none, gen := 0, txSeq := [], rxSeq := [],
    holdAt := none, epochRecs := [], snapshots := [], initial := none, inletLog := [],
    fails := [], stops := [], votes := [], sent := [], ckpt := [], alarms := [], rb := none, rbDone := [],
    waiting := false, orders := [], lastRb := none }

end Sys2Proof.Machine
end

