-- ==== Sys2Proof/Machine/StewardState.lean ====
section
/-! DEFINITION. State of the stewards (chapter 11), their caches, and the task schedulers (chapter 12), by physical
cluster. -/

namespace Sys2Proof.Machine

/-- STW_STATUS.RUN (R493). -/
inductive Run where
  | halted | executing | waiting | stopped
deriving DecidableEq, Repr

/-- The GCALL in progress (R486): IE and EXL as they were, and the cycle at which it began (R487). -/
structure GCall where
  ie    : Bool
  exl   : Bool
  cycle : Nat
deriving DecidableEq, Repr

/-- An outstanding line fill. -/
structure Miss where
  addr  : Nat
  line  : Nat
  instr : Bool
deriving DecidableEq, Repr

/-- One steward (R456, R481). -/
structure Steward where
  gpr    : SMap Word
  preds  : BitVec 4
  pc     : Word
  run    : Run
  priv   : Nat
  ie     : Bool
  exl    : Bool
  epsr   : BitVec 8
  epc    : Word
  esr    : Word
  eva    : Word
  evec   : Word
  thread : Nat
  gLast  : Nat
  gEntry : Nat
  /-- MPU_BASE_i and MPU_CFG_i, by system register number. -/
  mpu    : SMap Word
  irqPend : Word
  irqEn  : Word
  gvec   : Word
  gepc   : Word
  gesr   : Word
  gra    : Word
  gepsr  : BitVec 8
  gcall  : Option GCall
  /-- Cycles counted up to TB0 = `cycleAt`; none while the clock is gated. -/
  cycles  : Nat
  cycleAt : Option Nat
  /-- CYCLE_HI as captured by a read of CYCLE_LO (R5). -/
  cycleHi : Word
  /-- HALT was written while the steward executed in G without authorisation (R490). -/
  haltDue : Bool
  /-- Exception code last taken (R493). -/
  cause  : Nat
  /-- The release condition of a WFT that waits: KIND, the value of RA, and RD (R467, R690). -/
  await  : Option (Nat × Word × Nat)
  /-- Clock gated in low power (R654), and since when by TB0. -/
  gated  : Bool
  gatedAt : Nat
  /-- Halted until STW_CTRL.RESTART (R489). -/
  parked : Bool
  /-- The line that an access of the current instruction waits for (R474): its local address, its cellar line, and
  whether the instruction cache asked. -/
  miss   : Option Miss
deriving DecidableEq, Repr

/-- Reset (R480, R489): K, halted. -/
def Steward.reset : Steward :=
  { gpr := [], preds := 0, pc := 0, run := .halted, priv := 1, ie := false, exl := false, epsr := 0, epc := 0, esr := 0,
    eva := 0, evec := 0, thread := 0, gLast := 0, gEntry := 0, mpu := [], irqPend := 0, irqEn := 0, gvec := 0,
    gepc := 0, gesr := 0, gra := 0, gepsr := 0, gcall := none, cycles := 0, cycleAt := none, cycleHi := 0,
    haltDue := false, cause := 0, await := none, gated := true, gatedAt := 0, parked := true,
    miss := none }

/-- A cellar line that the L2s and the data caches hold (R475). They are kept coherent (R472, R534), so one record
serves the device: the bytes in the L2s and whether they are dirty, the shelves whose L2 holds the line, the stewards
whose data cache holds it, the steward whose data cache holds it dirty with its bytes, and how many bits an upset has
inverted (R476). -/
structure CacheLine where
  data    : List Byte
  dirty   : Bool
  shelves : List Nat
  hold    : List Nat
  owner   : Option (Nat × List Byte)
  flips   : Nat
deriving DecidableEq, Repr

/-- A thread slot (R500, R521). States: 0 FREE, 1 READY, 2 RUNNING, 3 WAIT, 4 BLOCKED. -/
structure Slot where
  deadline : Word
  state    : Nat
  flowEn   : Bool
  flow     : Nat
  why      : Nat
  miss     : Bool
deriving DecidableEq, Repr

def Slot.reset : Slot := { deadline := 0, state := 0, flowEn := false, flow := 0, why := 0, miss := false }

/-- An item of a flow, with the number of its bits that an upset has inverted (R504, R514). -/
structure Item where
  value : Word
  flips : Nat
deriving DecidableEq, Repr

/-- A flow (R504 to R506): its items, head first, and its holder while in service. -/
structure Flow where
  items  : List Item
  holder : Option Nat
deriving DecidableEq, Repr

def Flow.reset : Flow := { items := [], holder := none }

/-- A task scheduler: slots, flows, the delay list (expiry and slot, sorted), and the last TB1 boundary counted
(R510). -/
structure Sched where
  slots  : SMap Slot
  flows  : SMap Flow
  delays : List (Word × Nat)
  bound  : Nat
deriving DecidableEq, Repr

def Sched.reset : Sched := { slots := [], flows := [], delays := [], bound := 0 }

/-- Stewards, caches and schedulers of the device. -/
structure Stewards where
  core   : SMap Steward
  sched  : SMap Sched
  /-- Interrupt lines that every steward latches (R484), and those that a steward has cleared since. -/
  bcast  : Word
  bcClr  : SMap Word
  /-- Instruction caches by steward × 2^30 + line; L2s and data caches by line (R475). -/
  icache : SMap (Option (List Byte))
  dcache : SMap (Option CacheLine)
  /-- START_ALL, ENTRY of the STWFW record in force (R488). -/
  entry    : Word
  startAll : Bool
deriving DecidableEq, Repr

def Stewards.reset : Stewards :=
  { core := [], sched := [], bcast := 0, bcClr := [], icache := [], dcache := [], entry := 0,
    startAll := false }

end Sys2Proof.Machine
end

