-- ==== Sys2Proof/Machine/TimeState.lean ====
section
/-! DEFINITION. State of time keeping and of the pulse generators (chapter 10) beside the TIM registers. Times are in
units of 2^-16 ns unless stated otherwise. -/

namespace Sys2Proof.Machine

/-- The law of a time base (R432). -/
structure Law where
  anchor : Nat
  offset : Nat
  rate   : Int
deriving DecidableEq, Repr

/-- Measurement of one time path over a link frame (R435, R436): estimates of the frame, the offset of the last
frame, and frames without an estimate. -/
structure TimePath where
  est    : List Int
  theta  : Option Int
  silent : Nat
deriving DecidableEq, Repr

def TimePath.reset : TimePath := { est := [], theta := none, silent := 0 }

/-- A pulse generator (R445 to R448): pulses fired or skipped so far, when the pulse in progress ends on the step
clock, and the level of the output before POL. -/
structure PulseGen where
  next   : Nat
  high   : Bool
  endAt  : Nat
deriving DecidableEq, Repr

def PulseGen.reset : PulseGen := { next := 0, high := false, endAt := 0 }

/-- Time keeping. -/
structure TimeKeep where
  /-- TB0 in units of 2^-48 ns, modulo 2^48 seconds (R426, R431). -/
  tb0     : Nat
  /-- The integral part of the servo, in units of 2^-40 (R436). -/
  integ   : Int
  /-- Laws in force, for TB1 to TB3 (R432). -/
  laws    : SMap (Option Law)
  /-- Measurements of the upstream and of the secondary path. -/
  prim    : TimePath
  sec     : TimePath
  /-- The primary has changed and the servo has not yet answered (R441). -/
  changed : Bool
  /-- REVERT takes effect at the next link frame (R443). -/
  revert  : Bool
  /-- Last 64 values of the difference of the paths, newest first (R440). -/
  diffs   : List Int
  /-- Consecutive frames within LOCK_THR; good frames that the secondary still needs, and frames in a row in which it
  disagreed (R438, R441). -/
  inLock  : Nat
  owed    : Nat
  differ  : Nat
  /-- PPS edges: TB0 time of the last two, seconds within 20 ns, TB0 time when the last edge was seen (R434). -/
  ppsLast : Option Nat
  ppsGood : Nat
  ppsSeen : Bool
  /-- PPS_DELAY in ps (R444). -/
  ppsDelay : Int
  gens    : SMap PulseGen
deriving DecidableEq, Repr

def TimeKeep.reset : TimeKeep :=
  { tb0 := 0, integ := 0, laws := [], prim := TimePath.reset, sec := TimePath.reset, changed := false,
    revert := false, diffs := [], inLock := 0, owed := 0, differ := 0, ppsLast := none, ppsGood := 0,
    ppsSeen := false, ppsDelay := 0, gens := [] }

end Sys2Proof.Machine
end

