-- ==== Sys2Proof/Machine/State.lean ====
section
/-! DEFINITION. The state of the block: the queue of waiting commands, every register by its control address, and
the state of each unit. -/

namespace Sys2Proof.Machine

/-- Why a step stops. No command of the spec stops the block: the type is kept for the interface. -/
inductive Fault where
  /-- Raised by no command. Safe: a stop proves nothing about a next state. -/
  | stuck (why : String)
deriving DecidableEq, Repr

/-- Why a command has no meaning. -/
inductive Refusal where
  /-- Raised by `exec` for a command that the model does not give a meaning. Safe. -/
  | notModelled (mnemonic : String)
deriving DecidableEq, Repr

structure State where
  /-- The commands that wait, first in, first out. -/
  pending : List Instr
  chip    : Chip
  /-- Registers that differ from their reset value, by control address of the physical window (R32). -/
  regs    : SMap Word
  /-- Messages sent, newest first. -/
  outbox  : List OutMsg
  /-- The model's own field: how many free values have been taken (see Config). -/
  freeCtr : Nat
  cl      : Clusters
  spr     : Spring
  att     : Attic
  crt     : Crate
  tim     : TimeKeep
  cel     : Cellar
  cmp     : Compare
  /-- Links 0 to 63. -/
  lnk     : SMap Link
  /-- PRBS checkers by physical lane (R383). -/
  prbs    : SMap Checker
  hst     : HostIf
  stw     : Stewards
  noc     : Noc
  trc     : Trace
  ldr     : Loader
deriving DecidableEq, Repr

def State.reset : State :=
  { pending := [], chip := Chip.reset, regs := [], outbox := [], freeCtr := 0, cl := Clusters.reset,
    spr := Spring.reset, att := Attic.reset, crt := Crate.reset, tim := TimeKeep.reset,
    cel := Cellar.reset, cmp := Compare.reset, lnk := [], prbs := [], hst := HostIf.reset,
    stw := Stewards.reset, noc := Noc.reset, trc := Trace.reset,
    ldr := Loader.reset }

end Sys2Proof.Machine
end

