-- ==== Sys2Proof/Machine/Ops.lean ====
section
/-! DEFINITION. The named operations over sparse maps, registers, local checks and fault reports that every
command uses. -/

namespace Sys2Proof.Machine

/-- The outcome of a command. -/
abbrev Out := Host.Outcome State Fault Refusal

/-- Do something to the state where a condition holds. -/
def whenDo (b : Bool) (f : State → State) (s : State) : State := if b then f s else s

/-! ### Sparse maps -/

/-- What key `k` holds; `d` where it is not listed. -/
def mapGet {α : Type} (d : α) (m : SMap α) (k : Nat) : α :=
  match m with
  | [] => d
  | (k', v) :: r => if k' = k then v else mapGet d r k

/-- The map without key `k`. -/
def mapDel {α : Type} (m : SMap α) (k : Nat) : SMap α := m.filter (fun p => p.1 ≠ k)

/-- Place a pair before the first larger key. -/
def mapIns {α : Type} (m : SMap α) (k : Nat) (v : α) : SMap α :=
  match m with
  | [] => [(k, v)]
  | (k', v') :: r => if k < k' then (k, v) :: (k', v') :: r else (k', v') :: mapIns r k v

/-- Write key `k`. Writing the default removes the key, so that equal contents are equal data. -/
def mapSet {α : Type} [DecidableEq α] (d : α) (m : SMap α) (k : Nat) (v : α) : SMap α :=
  if v = d then mapDel m k else mapIns (mapDel m k) k v

/-- Keep the keys that satisfy `p`. -/
def mapKeep {α : Type} (p : Nat → Bool) (m : SMap α) : SMap α := m.filter (fun q => p q.1)

/-- Write every pair of a list in turn. -/
def mapSetAll {α : Type} [DecidableEq α] (d : α) (m : SMap α) (l : List (Nat × α)) : SMap α :=
  l.foldl (fun acc q => mapSet d acc q.1 q.2) m

/-- The canonical form of a map with default `d`: keys strictly rising, no default listed. -/
abbrev mapWf {α : Type} (d : α) (m : SMap α) : Prop :=
  m.Pairwise (fun a b => a.1 < b.1) ∧ ∀ p ∈ m, p.2 ≠ d

/-! ### Bits of words -/

/-- Bits [lo + n - 1 : lo] of a word, as a number. -/
def fld {w : Nat} (v : BitVec w) (lo n : Nat) : Nat := (v.toNat >>> lo) % 2 ^ n

/-- Bit `i` of a word. -/
def bit {w : Nat} (v : BitVec w) (i : Nat) : Bool := v.getLsbD i

/-- The word with bits [lo + n - 1 : lo] replaced by the low n bits of `x`. -/
def setFld {w : Nat} (v : BitVec w) (lo n x : Nat) : BitVec w :=
  (v &&& ~~~ (BitVec.ofNat w ((2 ^ n - 1) <<< lo))) ||| BitVec.ofNat w ((x % 2 ^ n) <<< lo)

/-- One bit as a one- or zero-valued number. -/
def b2n (b : Bool) : Nat := if b then 1 else 0

/-- An 8-bit value built context by context. -/
def ctxOf (f : Nat → Bool) : Ctx :=
  BitVec.ofNat 8 ((List.range 8).foldl (fun acc c => acc + (if f c then 2 ^ c else 0)) 0)

/-- The bytes of a number, least significant first. -/
def leBytes (n v : Nat) : List Byte := (List.range n).map (fun i => BitVec.ofNat 8 (v >>> (8 * i)))

/-- The number that bytes spell, least significant first. -/
def leNat (l : List Byte) : Nat := l.foldr (fun b acc => b.toNat + 256 * acc) 0

/-! ### Addresses (R32, R35) -/

def attA (o : Nat) : Nat := o
def sprA (o : Nat) : Nat := 0x10000 + o
def imgA (o : Nat) : Nat := 0x20000 + o
def timA (o : Nat) : Nat := 0x30000 + o
def cmpA (o : Nat) : Nat := 0x40000 + o
def dmaA (o : Nat) : Nat := 0x50000 + o
def nocA (o : Nat) : Nat := 0x60000 + o
def celA (o : Nat) : Nat := 0x70000 + o
def trcA (o : Nat) : Nat := 0x80000 + o
def hstA (o : Nat) : Nat := 0x90000 + o
def pwrA (o : Nat) : Nat := 0xA0000 + o
def laneA (lane o : Nat) : Nat := 0x1000000 + lane * 0x1000 + o
def linkA (l o : Nat) : Nat := 0x1800000 + l * 0x1000 + o
def shfA (shelf o : Nat) : Nat := 0x2000000 + shelf * 0x100000 + o
def physA (p o : Nat) : Nat := 0x10000000 + p * 0x400000 + o
def bpcA (p n o : Nat) : Nat := physA p (0x290000 + n * 0x200 + o)
def wenA (p e o : Nat) : Nat := physA p (0x260000 + e * 0x4000 + o)
def fabA (p o : Nat) : Nat := physA p (0x2A0000 + o)
def stwA (p o : Nat) : Nat := physA p (0x300000 + o)
def tskA (p o : Nat) : Nat := physA p (0x380000 + o)

/-- The row of a table that holds the register at offset `o`. -/
def findRow (rows : List RegRow) (o : Nat) : Option RegRow :=
  rows.find? (fun r => r.off ≤ o && (o - r.off) % r.stride == 0 && (o - r.off) / r.stride < r.count)

/-- Rows of the window of a physical cluster, by offset (R35). -/
def clusterRow (o : Nat) : Option RegRow :=
  if 0x260000 ≤ o ∧ o < 0x280000 then
    (findRow wenRows ((o - 0x260000) % 0x4000)).orElse
      (fun _ => if o < 0x270000 then findRow strRows ((o - 0x260000) % 0x4000) else none)
  else if 0x290000 ≤ o ∧ o < 0x2A0000 then findRow bpcRows ((o - 0x290000) % 0x200)
  else if 0x2A0000 ≤ o ∧ o < 0x2C0000 then findRow fabRows (o - 0x2A0000)
  else if 0x300000 ≤ o ∧ o < 0x380000 then findRow stwRows (o - 0x300000)
  else if 0x380000 ≤ o ∧ o < 0x390000 then findRow tskRows (o - 0x380000)
  else none

/-- The register at a control address, none where no register is assigned (R32, R33). -/
def regRow (a : Nat) : Option RegRow :=
  if a < 0x10000 then findRow attRows a
  else if a < 0x20000 then findRow sprRows (a - 0x10000)
  else if 0x20000 ≤ a ∧ a < 0x30000 then findRow imgRows (a - 0x20000)
  else if 0x30000 ≤ a ∧ a < 0x40000 then findRow timRows (a - 0x30000)
  else if 0x40000 ≤ a ∧ a < 0x50000 then findRow cmpRows (a - 0x40000)
  else if 0x50000 ≤ a ∧ a < 0x60000 then findRow dmaRows (a - 0x50000)
  else if 0x60000 ≤ a ∧ a < 0x70000 then findRow nocRows (a - 0x60000)
  else if 0x70000 ≤ a ∧ a < 0x80000 then findRow celRows (a - 0x70000)
  else if 0x80000 ≤ a ∧ a < 0x90000 then findRow trcRows (a - 0x80000)
  else if 0x90000 ≤ a ∧ a < 0xA0000 then
    (findRow hstRows (a - 0x90000)).orElse (fun _ => findRow crtRows (a - 0x90000))
  else if 0xA0000 ≤ a ∧ a < 0xB0000 then findRow pwrRows (a - 0xA0000)
  else if 0x1800000 ≤ a ∧ a < 0x1840000 then
    (findRow linkRows ((a - 0x1800000) % 0x1000)).orElse (fun _ => findRow edgeRows ((a - 0x1800000) % 0x1000))
  else if 0x1000000 ≤ a ∧ a < 0x1100000 then findRow laneRows ((a - 0x1000000) % 0x1000)
  else if 0x2000000 ≤ a ∧ a < 0x3000000 then findRow shfRows ((a - 0x2000000) % 0x100000)
  else if 0x10000000 ≤ a ∧ a < 0x54000000 then clusterRow ((a - 0x10000000) % 0x400000)
  else none

/-- The reset value of the register at an address (R9). -/
def regReset (a : Nat) : Word :=
  match regRow a with
  | some r => BitVec.ofNat 32 r.reset
  | none => 0

/-- The value held by a register. -/
def rdReg (s : State) (a : Nat) : Word := mapGet (regReset a) s.regs a

/-- Replace the value of a register. -/
def wrReg (s : State) (a : Nat) (v : Word) : State := { s with regs := mapSet (regReset a) s.regs a v }

/-- A field of a register. -/
def rdFld (s : State) (a lo n : Nat) : Nat := fld (rdReg s a) lo n

/-- A bit of a register. -/
def rdBit (s : State) (a i : Nat) : Bool := bit (rdReg s a) i

/-- Replace a field of a register. -/
def wrFld (s : State) (a lo n x : Nat) : State := wrReg s a (setFld (rdReg s a) lo n x)

/-- Set a flag of a register. -/
def setBit (s : State) (a i : Nat) : State := wrFld s a i 1 1

/-- Clear a flag of a register. -/
def clrBit (s : State) (a i : Nat) : State := wrFld s a i 1 0

/-- Count up a field of a register, stopping at its largest value. -/
def incFld (s : State) (a lo n : Nat) : State :=
  let v := rdFld s a lo n
  if v + 1 < 2 ^ n then wrFld s a lo n (v + 1) else s

/-- Return every register of a reset domain to its reset value (R9). -/
def resetDom (d : Dom) (s : State) : State :=
  { s with regs := s.regs.filter (fun p => match regRow p.1 with
      | some r => r.dom ≠ d
      | none => true) }

/-! ### Clusters -/

/-- The physical cluster that the attic maps logical cluster `m` to (R17). -/
def physOf (s : State) (m : Nat) : Nat := mapGet (idMap m) s.chip.clusterMap m

/-- The role of a physical cluster (R19). -/
def roleOf (s : State) (p : Nat) : Role := mapGet (idRole p) s.chip.role p

/-- The logical cluster that physical cluster `p` serves, if any. -/
def logOf (s : State) (p : Nat) : Option Nat :=
  (List.range 16).findSome? (fun i =>
    let m := 16 * (p / 17) + i
    if physOf s m = p ∧ roleOf s p = .active then some m else none)

/-! ### Free values -/

/-- Take a free natural number: nothing constrains it. -/
def takeFree (s : State) : Nat × State := (Config.freeNat s.freeCtr, { s with freeCtr := s.freeCtr + 1 })

/-! ### Time -/

/-- TB0 in units of 2^-16 ns, as the device presents it (R431). -/
def tb0Now (s : State) : Nat := s.tim.tb0 / 2 ^ 32

/-- `n` steps of 0.8 ns in units of 2^-16 ns. -/
def stepsTime (n : Nat) : Nat := n * 524288 / 10

/-- Seconds per time value, in units of 2^-16 ns: TB0 and the other bases wrap at 2^48 of them (R426). -/
def secUnits : Nat := 1000000000 * 65536

/-- Wrap a time value (R426). -/
def wrapTime (t : Nat) : Nat := t % (2 ^ 48 * secUnits)

/-- The reading of time base `k` at TB0 time `t` (R432): TB0 itself for k = 0; none while no law is in force. -/
def tbAt (s : State) (k t : Nat) : Option Nat :=
  if k = 0 then some t
  else (mapGet none s.tim.laws k).map (fun l =>
    let d : Int := ((t : Int) - l.anchor) * l.rate
    wrapTime (((t : Int) + l.offset + d / 2 ^ 40) % (2 ^ 48 * secUnits : Nat)).toNat)

/-- A time value in the 96-bit format (R426): SEC, NS, FRAC. -/
def timeWord (t : Nat) : Nat :=
  let t := wrapTime t
  (t / secUnits) * 2 ^ 48 + t % secUnits

/-- The time that a 96-bit value spells. -/
def timeOf (w : Nat) : Nat := (w / 2 ^ 48) * secUnits + w % 2 ^ 48

/-- TB1, or TB0 while no TB1 law is in force (R621, R635). -/
def tb1Now (s : State) : Nat := (tbAt s 1 (tb0Now s)).getD (tb0Now s)

/-- CRC32 of R231: reflected polynomial 0x04C11DB7, initial value and final XOR all ones. -/
def crc32 (bytes : List Byte) : Nat :=
  let stepBit := fun (c : Nat) => if c % 2 = 1 then (c / 2) ^^^ 0xEDB88320 else c / 2
  (bytes.foldl (fun c b => (List.range 8).foldl (fun x _ => stepBit x) (c ^^^ b.toNat)) 0xFFFFFFFF) ^^^ 0xFFFFFFFF

/-! ### Spring messages -/

/-- Send a spring message on one tree link, with the link's next sequence number (R187). -/
def sendSpring (link : Nat) (msg : SpringMsg) (s : State) : State :=
  let q := mapGet 0 s.spr.txSeq link
  { s with
    outbox := .spring { link := link, seq := q, gen := s.spr.gen } msg :: s.outbox
    spr := { s.spr with txSeq := mapSet 0 s.spr.txSeq link ((q + 1) % 2048) } }

/-- Send a spring message to the head, if there is one (R185). -/
def sendUp (msg : SpringMsg) (s : State) : State :=
  match s.crt.uplink with
  | some l => sendSpring l msg s
  | none => s

/-- Links of the children that are present in the current enumeration (R405). -/
def presentLinks (s : State) : List Nat :=
  (s.crt.children.zipIdx.filter (fun q => rdBit s (hstA 0x118) q.2)).map (fun q => q.1)

/-- Send a spring message to every present child (R185, R405). -/
def sendDown (msg : SpringMsg) (s : State) : State := (presentLinks s).foldl (fun acc l => sendSpring l msg acc) s

/-- The 12-bit device address (R403, R419). -/
def devAddr (s : State) : Nat := rdFld s (hstA 0x104) 0 12
def assigned (s : State) : Bool := rdBit s (hstA 0x104) 12

/-- DSTATE code of a device state (R363). -/
def stateCode (d : DevState) : Nat :=
  match d with
  | .off => 0
  | .boot => 1
  | .blank => 2
  | .loading => 3
  | .ready => 4
  | .running => 5
  | .held => 6
  | .safe => 7

/-- Order of the states from the least advanced (R413), by DSTATE code. -/
def stateRank (c : Nat) : Nat := if c = 5 then 6 else if c = 6 then 5 else c

/-- FAULT_N is asserted: the device is in Safe (R632). -/
def faultN (s : State) : Bool := s.chip.devState = .safe

/-- The status word of the device alone, in the layout of HST_CRT_SUBSTAT (R413, R423). -/
def ownStatus (s : State) : Nat :=
  let miss := s.crt.gone.any (fun i => rdBit s (hstA 0x118) i)
  stateCode s.chip.devState + 2 ^ 3 + 2 ^ 4 * b2n (faultN s) + 2 ^ 5 * b2n s.chip.loadErr + 2 ^ 6 * b2n s.hst.therm +
    2 ^ 7 * b2n miss + 2 ^ 8 * b2n (rdBit s (hstA 0x104) 25) + 2 ^ 16

/-- Two status words combined (R413). -/
def joinStatus (a b : Word) : Word :=
  let sa := fld a 0 3
  let sb := fld b 0 3
  let st := if sa = 7 ∨ sb = 7 then 7 else if stateRank sa ≤ stateRank sb then sa else sb
  let uni := sa = sb && bit a 3 && bit b 3
  ((a ||| b) &&& 0x1F0) ||| BitVec.ofNat 32 (st + 8 * b2n uni + 2 ^ 16 * (fld a 16 13 + fld b 16 13))

/-- The subtree status word: the device's own and the last word of each present child that is not missing. -/
def subStatus (s : State) : Word :=
  s.crt.children.zipIdx.foldl (fun acc q =>
    if rdBit s (hstA 0x118) q.2 && !s.crt.gone.contains q.2 then joinStatus acc (mapGet 0#32 s.crt.subs q.2) else acc)
    (BitVec.ofNat 32 (ownStatus s))

/-- The root broadcasts a message: to its children, and to itself as an order to act on (R185). -/
def rootOrder (msg : SpringMsg) (s : State) : State :=
  let s1 := sendDown msg s
  { s1 with spr := { s1.spr with orders := s1.spr.orders ++ [msg] } }

/-- Epoch length E (R177). -/
def epochLen (s : State) : Nat := rdFld s (sprA 0x08) 0 16 + 1

/-- The epoch of the current tick (R177). -/
def curEpoch (s : State) : Nat := s.spr.tick.toNat / epochLen s

/-- A rollback order is under way: issued, or being carried out. -/
def rollbackPending (s : State) : Bool :=
  s.spr.phase = .rollback || s.spr.orders.any (fun m => match m with
    | .rollback .. => true
    | _ => false)

/-- The root issues a ROLLBACK to the last committed epoch: generation and replay start 50,000 steps ahead (R186,
R189, R200); `hold` is the HOLD of R204. -/
def issueRollback (cause origin : Nat) (hold : Bool) (s : State) : State :=
  if rollbackPending s then s else
  let s1 := { s with spr := { s.spr with gen := s.spr.gen + 1 } }
  let s2 := wrFld s1 (sprA 0x54) 16 8 s1.spr.gen.toNat
  let due := s2.spr.orders.countP (fun m => match m with
    | .commit .. => true
    | _ => false)
  rootOrder (.rollback (s2.spr.commit.toNat + due) (tb0Now s2 + stepsTime 50000) cause origin hold) s2

/-- Does the cause of a failed check end the rollback in Held (R204, R205, R416)? -/
def holdCause (cause : Nat) : Bool := cause = 5 || cause = 8 || cause = 9

/-- Send FAIL for an epoch, once (R188); the root answers its own FAIL with ROLLBACK (R189). `origin` is the device
that the cause names. -/
def sendFail (epoch cause origin : Nat) (s : State) : State :=
  if s.spr.sent.contains (epoch, false) then s else
  let s1 := { s with spr := { s.spr with sent := s.spr.sent ++ [(epoch, false)] } }
  if s.crt.isRoot then issueRollback cause origin (holdCause cause) s1
  else sendUp (.vote epoch false false cause origin) s1

/-- The root restarts a rollback that failed (R203): same target, new generation, new replay start. -/
def restartRollback (hold : Bool) (s : State) : State :=
  match s.spr.rb with
  | none => s
  | some r =>
    let s1 := { s with spr := { s.spr with gen := s.spr.gen + 1, orders := s.spr.orders.filter (fun m => match m with
      | .rollback .. => false
      | _ => true) } }
    let s2 := incFld (wrFld s1 (sprA 0x54) 16 8 s1.spr.gen.toNat) (sprA 0x50) 16 16
    rootOrder (.rollback r.target (tb0Now s2 + stepsTime 50000) r.cause r.origin (r.hold || hold)) s2

/-- A fault during a rollback (R203): RB_FAIL, and a restart at the root. -/
def rollbackFault (cause : Nat) (s : State) : State :=
  let s1 := setBit s (sprA 4) 14
  if s1.crt.isRoot then restartRollback (holdCause cause) s1 else sendUp (.rbFail cause) s1

/-- A local check of an epoch fails with a cause that device `origin` brought about (R197): noted, and FAIL sent at
once (R188). Cause codes are those of SPR_RB_CAUSE (R222). No epoch is open unless the device is Running. -/
def failFrom (epoch cause origin : Nat) (s : State) : State :=
  if s.chip.devState ≠ .running then s
  else if s.spr.phase = .rollback then rollbackFault cause s
  else
    let fails := if s.spr.fails.contains (epoch, cause) then s.spr.fails else s.spr.fails ++ [(epoch, cause)]
    sendFail epoch cause origin { s with spr := { s.spr with fails := fails } }

def failEpoch (epoch cause : Nat) (s : State) : State := failFrom epoch cause (devAddr s) s

/-- A local check of the current epoch fails. -/
def failNow (cause : Nat) (s : State) : State := failEpoch (curEpoch s) cause s

/-! ### Host events (R703, R709) -/

/-- Send an MSI-X message on a vector, or mark it pending while the vector is masked; nothing while MSI-X is
disabled or the function is in D3hot (R696, R703). -/
def msix (v : Nat) (s : State) : State :=
  if !s.hst.msixEn then s
  else if mapGet false s.hst.unmasked v && !rdBit s (hstA 0) 11 then { s with outbox := .msix v :: s.outbox }
  else { s with hst := { s.hst with msixPend := mapSet false s.hst.msixPend v true } }

/-! ### Shelf power domains (R542, R544, R690) -/

def gateOf (s : State) (h : Nat) : Gate := mapGet Gate.reset s.noc.gates h
def putGate (h : Nat) (g : Gate) (s : State) : State :=
  { s with noc := { s.noc with gates := mapSet Gate.reset s.noc.gates h g } }

/-- The shelf domain is ON. -/
def shelfOn (s : State) (h : Nat) : Bool := (gateOf s h).phase = .on

def thermHold (s : State) (h : Nat) : Bool := rdBit s (shfA h 0x604) 2

def gateReg (h : Nat) : Nat := nocA (0x200 + 4 * h)

/-- A wake condition of a shelf, by its cause (R694): in QUIESCE or RETAIN the power-down is reverted, in FALLING the
domain powers up after it is down, in OFF it wakes, under THERMHOLD later (R544, R690 to R692). -/
def wakeShelf (h cause : Nat) (s : State) : State :=
  let g := gateOf s h
  let note := fun (x : State) => wrFld x (shfA h 0x604) 3 3 cause
  match g.phase with
  | .on => s
  | .waking => s
  | .quiesce | .retain => if g.trip then putGate h { g with wake := cause } s
      else note (putGate h { g with revert := true } s)
  | .falling => putGate h { g with wake := cause } s
  | .off =>
    if thermHold s h then putGate h { g with wake := cause } s
    else whenDo (decide (cause = 1)) (fun x => incFld x (gateReg h) 8 8) (note (putGate h { g with phase := .waking, wake := 0 } s))

/-- A wake condition of every shelf. -/
def wakeAll (cause : Nat) (s : State) : State := (List.range 16).foldl (fun acc h => wakeShelf h cause acc) s

/-- Stewards that an event on interrupt line `i` may wake: any steward of a shelf that is not ON and enables it. -/
def wakeLine (i : Nat) (only : Nat → Bool) (s : State) : State :=
  s.noc.gates.foldl (fun acc q =>
    if q.2.phase ≠ .on && s.stw.core.any (fun c => c.1 / 17 = q.1 && only c.1 && c.2.irqEn.getLsbD i) then
      wakeShelf q.1 4 acc else acc) s

/-- An event that every steward latches as interrupt line `i` (R484). -/
def irqAll (i : Nat) (s : State) : State :=
  let m : Word := 1#32 <<< i
  wakeLine i (fun _ => true) { s with stw := { s.stw with
    bcast := s.stw.bcast ||| m
    bcClr := s.stw.bcClr.filterMap (fun q =>
      let v := q.2 &&& ~~~ m
      if v = 0 then none else some (q.1, v)) } }

/-- The steward interrupt line of a host event, for IMG, CRT, TIM, HSL and a change of PHASE (R484). -/
def eventLine (n : Nat) : Option Nat :=
  match n with
  | 1 => some 6
  | 2 => some 9
  | 3 => some 7
  | 4 => some 8
  | 7 => some 5
  | _ => none

/-- An event of HST_EVENT: the stewards' line, and where its bit goes from 0 to 1 its vector is sent (R484, R703). -/
def hostEvent (n : Nat) (s : State) : State :=
  let s1 := match eventLine n with
    | some i => irqAll i s
    | none => s
  if rdBit s1 (hstA 4) n then s1 else msix n (setBit s1 (hstA 4) n)

/-! ### Faults -/

/-- A unit reports a fault to the attic (R620, R624). -/
def report (kind cls unit detail : Nat) (s : State) : State :=
  let r : FaultRep := { kind := kind, cls := cls, unit := unit, detail := detail, epoch := curEpoch s,
                        gen := s.spr.gen.toNat }
  { s with att := { s.att with reports := s.att.reports ++ [r] } }

/-- A fault that fails the current epoch's local check: reported first, then the FAIL (R624). -/
def reportFail (kind cls unit detail : Nat) (s : State) : State :=
  failNow 1 (report kind cls unit detail s)

end Sys2Proof.Machine
end

