-- ==== Sys2Proof/Machine/Log.lean ====
section
/-! DEFINITION. The fault log of the attic (R635), which every unit can cause an entry of. -/

namespace Sys2Proof.Machine

/-- What one log entry holds beside its time (R635). -/
structure LogEntry where
  outcome : Nat
  cls     : Nat
  unit    : Nat
  kind    : Nat
  resp    : Nat
  n       : Nat
  detail  : Nat
  /-- Epoch of the fault; the current one where none is named. -/
  epoch   : Option Nat := none

/-- The response code of a log entry (R635). -/
def respCode (r : Response) : Nat :=
  match r with
  | .none => 0
  | .replay => 1
  | .reload => 2
  | .retry => 3
  | .retire => 4
  | .safe => 5
  | .count => 6
  | .log => 7

/-- The 128 bits of a log entry written now (R635). -/
def logWord (s : State) (e : LogEntry) : Nat :=
  let tb0t := (tbAt s 1 (tb0Now s)).isNone
  let t := tb1Now s
  t / secUnits % 2 ^ 32 + 2 ^ 32 * (t % secUnits / 65536) + 2 ^ 62 * e.outcome + 2 ^ 64 * e.cls + 2 ^ 68 * e.unit +
    2 ^ 80 * e.kind + 2 ^ 88 * e.resp + 2 ^ 92 * min 3 e.n + 2 ^ 94 * (e.detail / 65536 % 2) + 2 ^ 95 * b2n tb0t +
    2 ^ 96 * ((e.epoch.getD (curEpoch s)) % 65536) + 2 ^ 112 * (e.detail % 65536)

/-- Entries written since power-on (R639). -/
def logCount (s : State) : Nat := (rdReg s (attA 0x14)).toNat

/-- Write one entry to the ring and count it (R635). -/
def attLog (e : LogEntry) (s : State) : State :=
  let i := logCount s % 256
  let w := logWord s e
  let s1 := (List.range 4).foldl (fun acc k =>
    wrReg acc (attA (0x1000 + 16 * i + 4 * k)) (BitVec.ofNat 32 (w >>> (32 * k)))) s
  incFld s1 (attA 0x14) 0 32

/-- Update OUTCOME of entry `i` in place (R622, R635). -/
def setOutcome (i o : Nat) (s : State) : State := wrFld s (attA (0x1000 + 16 * (i % 256) + 4)) 30 2 o

end Sys2Proof.Machine
end

