-- ==== Sys2Proof/Machine/Operands.lean ====
section
/-! DEFINITION. Operand forms of the emulation path: what a Boolean processor and a word engine read at a schedule
step (R47 to R50, R93), the signal fabric that brings it there (chapter 04) and the datapath ports (R107). -/

namespace Sys2Proof.Machine

/-! ### Keys of the cluster storage -/

def kBp (p n : Nat) : Nat := p * 128 + n
def kEntry (p n e : Nat) : Nat := kBp p n * 1024 + e
def kPond (p n a : Nat) : Nat := kBp p n * 512 + a
def kFlop (p n f : Nat) : Nat := kBp p n * 128 + f
def kBus (m n t : Nat) : Nat := (m * 128 + n) * 1024 + t
def kExp (m slot t : Nat) : Nat := (m * 128 + slot) * 1024 + t
def kWe (p e : Nat) : Nat := p * 8 + e
def kWeEntry (p e i : Nat) : Nat := kWe p e * 1024 + i
def kWreg (p e c r : Nat) : Nat := (kWe p e * 8 + c) * 16 + r
def kWeT (m e t : Nat) : Nat := (m * 8 + e) * 1024 + t
def kWeRes (m e t c : Nat) : Nat := kWeT m e t * 8 + c
def kMac (p sl c : Nat) : Nat := (p * 2 + sl) * 8 + c
def kRoom (p r : Nat) : Nat := p * 4 + r
def kRow (p r w : Nat) : Nat := kRoom p r * 4096 + w
def kPort (p r q c : Nat) : Nat := (kRoom p r * 2 + q) * 8 + c

/-! ### The current tick -/

/-- Class period and length (R170, R217). -/
def classPeriod (s : State) (k : Nat) : Nat := rdFld s (sprA (0x10 + 4 * k)) 0 16
def classLen (s : State) (k : Nat) : Nat := rdFld s (sprA (0x10 + 4 * k)) 16 11

/-- A shelf is detached for reload (R266, R279). -/
def detached (s : State) (shelf : Nat) : Bool := rdBit s (shfA shelf 0x500) 16

/-- Schedule step `t` of the current tick exists and logical cluster `m` takes part in it (R70, R174, R266). -/
def inSchedule (s : State) (m t : Nat) : Bool :=
  s.chip.devState = .running && s.spr.pos = .schedule && m < 256 && t < classLen s s.spr.cls &&
    !detached s (m / 16)

/-- First tick of an epoch (R176). -/
def isFirstTick (s : State) : Bool := s.spr.tick.toNat % epochLen s = 0

/-! ### Ponds -/

/-- Even parity over eight data bits (R62). -/
def parity8 (v : Ctx) : Bool := ((List.range 8).countP (fun i => v.getLsbD i)) % 2 = 1

/-- A pond entry as stored with its parity bit. -/
def pondWord (v : Ctx) : BitVec 9 := (if parity8 v then 1#1 else 0#1) ++ v

/-- The eight data bits of a stored pond entry. -/
def pondData (w : BitVec 9) : Ctx := w.setWidth 8

/-- The stored parity bit does not match (R72). -/
def pondBadPar (w : BitVec 9) : Bool := w.getLsbD 8 != parity8 (pondData w)

def pondRaw (s : State) (p n a : Nat) : BitVec 9 := mapGet 0 s.cl.pond (kPond p n a)

def pondWrite (p n a : Nat) (v : Ctx) (s : State) : State :=
  { s with cl := { s.cl with pond := mapSet 0 s.cl.pond (kPond p n a) (pondWord v) } }

def fptr (s : State) (p n f : Nat) : Ctx := mapGet 0 s.cl.fptr (kFlop p n f)

def flopWritten (s : State) (p n f : Nat) : Bool := mapGet false s.cl.written (kFlop p n f)

/-- Per context, the bank-B bit where `sel` is 1, else the bank-A bit. -/
def pick (sel a b : Ctx) : Ctx := (sel &&& b) ||| (~~~ sel &&& a)

/-- The current value of a flop: the entry that each context's pointer designates (R63). -/
def flopCur (s : State) (p n f : Nat) : Ctx :=
  pick (fptr s p n f) (pondData (pondRaw s p n (256 + f))) (pondData (pondRaw s p n (384 + f)))

/-- The entry opposite to the pointer, in every context (R63, R66). -/
def flopOpp (s : State) (p n f : Nat) : Ctx :=
  pick (~~~ fptr s p n f) (pondData (pondRaw s p n (256 + f))) (pondData (pondRaw s p n (384 + f)))

/-- The next view of a flop (R63). -/
def flopNext (s : State) (p n f : Nat) : Ctx :=
  if flopWritten s p n f then flopOpp s p n f else flopCur s p n f

/-- The entries that a read through pointers `sel` touches. -/
def banksRead (sel : Ctx) : Bool × Bool := (sel ≠ 0xFF#8, sel ≠ 0#8)

/-- Does a read of a flop through `sel` meet a parity error (R72)? -/
def flopReadBad (s : State) (p n f : Nat) (sel : Ctx) : Bool :=
  let (ua, ub) := banksRead sel
  (ua && pondBadPar (pondRaw s p n (256 + f))) || (ub && pondBadPar (pondRaw s p n (384 + f)))

/-- A state write: every context goes to the bank opposite to its pointer, and the written flag is set (R63). -/
def stateWrite (p n f : Nat) (v : Ctx) (s : State) : State :=
  let ptr := fptr s p n f
  let a := pondData (pondRaw s p n (256 + f))
  let b := pondData (pondRaw s p n (384 + f))
  let s1 := if ptr = 0#8 then s else pondWrite p n (256 + f) (pick ptr a v) s
  let s2 := if ptr = 0xFF#8 then s1 else pondWrite p n (384 + f) (pick (~~~ ptr) b v) s1
  { s2 with cl := { s2.cl with written := mapSet false s2.cl.written (kFlop p n f) true } }

/-! ### The signal fabric -/

/-- The value on an export slot at a step: that of its lowest-numbered driver (R142, R156). -/
def exportVal (s : State) (m slot t : Nat) : Option Ctx :=
  match mapGet [] s.cl.exports (kExp m slot t) with
  | [] => none
  | d :: ds => some (ds.foldl (fun (b : Nat × Ctx) (x : Nat × Ctx) => if x.1 < b.1 then x else b) d).2

/-- The numbers of the border cells in use that match a wire, class and step of a shelf (R270, R280). -/
def borderCells (s : State) (shelf wire k t : Nat) : List Nat :=
  s.regs.filterMap (fun q =>
    let lo := shfA shelf 0x10000
    if lo ≤ q.1 ∧ q.1 < lo + 0x10000 ∧ bit q.2 31 ∧ fld q.2 0 8 = wire ∧ fld q.2 8 2 = k ∧ fld q.2 10 10 = t
    then some ((q.1 - lo) / 4) else none)

/-- What a detached shelf's border delivers on a wire at a step (R270); none where the wire is not driven. -/
def borderVal (s : State) (shelf wire k t : Nat) : Option Ctx :=
  match borderCells s shelf wire k t with
  | [] => none
  | j :: _ =>
    match rdFld s (shfA shelf (0x10000 + 4 * j)) 20 2 with
    | 0 => some ((rdReg s (shfA shelf (0x20000 + 4 * j))).setWidth 8)
    | 1 => some 0#8
    | 2 => some 0xFF#8
    | _ => none

/-- The value driven on global export wire `wire` of a shelf at a step (R143, R159). -/
def globalWire (s : State) (shelf wire t : Nat) : Option Ctx :=
  if detached s shelf then borderVal s shelf wire s.spr.cls t
  else exportVal s (16 * shelf + wire / 16) (64 + wire % 16) t

/-- Global delay between shelves (R147). -/
def globalDelay (a b : Nat) : Nat := if a / 8 = b / 8 then 4 else 6

/-- A value driven `d` steps before step `t`; nothing was driven before step 0. -/
def driven (d t : Nat) (f : Nat → Option Ctx) : Ctx := if d ≤ t then (f (t - d)).getD 0#8 else 0#8

/-- A configuration entry is used: a parity error disables it (R157). -/
def cfgGood (s : State) (a : Nat) : Bool := !mapGet false s.cl.cfgBad a

/-- Shelf import wire `w` of logical cluster `m` at step `t` (R144). -/
def shelfImport (s : State) (m w t : Nat) : Ctx :=
  let a := fabA (physOf s m) (0x1000 + 4 * w)
  let v := rdReg s a
  if cfgGood s a && bit v 15 then
    driven 2 t (fun u => exportVal s (16 * (m / 16) + fld v 0 4) (fld v 4 6) u)
  else 0#8

/-- What an edge receive latch shows to the window at step `t`: an arrival is readable two steps later (R149). -/
def latchAt (s : State) (i t : Nat) : Ctx :=
  match (mapGet [] s.cl.latchOld i).find? (fun q => t < q.1) with
  | some q => q.2
  | none => mapGet 0#8 s.cl.latch i

/-- Global import wire `y` of a shelf at step `t` (R145, R146). -/
def globalImport (s : State) (shelf y t : Nat) : Ctx :=
  let a := shfA shelf (4 * y)
  let v := rdReg s a
  if cfgGood s a && bit v 15 then
    driven (globalDelay (fld v 0 4) shelf) t (fun u => globalWire s (fld v 0 4) (fld v 4 8) u)
  else 0#8

/-- Window entry `e` of logical cluster `m` at step `t` (R146). -/
def windowEntry (s : State) (m e t : Nat) : Ctx :=
  let a := fabA (physOf s m) (0x1200 + 4 * e)
  let v := rdReg s a
  let i := fld v 4 12
  if cfgGood s a then
    match fld v 0 3 with
    | 1 => if i < 256 then globalImport s (m / 16) i t else 0#8
    | 2 => if i < 2048 then latchAt s i t else 0#8
    | 3 => if i < 2048 then mapGet 0#8 s.cl.inlet i else 0#8
    | _ => 0#8
  else 0#8

/-- Is a FAB_WIN value one that R155 refuses and R158 flags? -/
def winIllegal (v : Word) : Bool :=
  match fld v 0 3 with
  | 0 => false
  | 1 => 256 ≤ fld v 4 12
  | 2 => 2048 ≤ fld v 4 12
  | 3 => 2048 ≤ fld v 4 12
  | _ => true

/-! ### Datapath units -/

/-- Result of engine `e` at step `t - 1`, as read at step `t` (R96). -/
def engineResult (s : State) (m e t c : Nat) : Word :=
  if 0 < t then mapGet 0#32 s.cl.weRes (kWeRes m e (t - 1) c) else 0#32

/-- The step-bus value of a BP at step `t - 1` (R47). -/
def busAt (s : State) (m n t : Nat) : Ctx := if 0 < t then mapGet 0#8 s.cl.bpBus (kBus m n (t - 1)) else 0#8

/-- The accumulator of a MAC slice as it stood at the end of step `x` of the tick, counted from 1: `x = 0` is the
start of the tick (R104, R105). -/
def macAtEnd (s : State) (m sl c x : Nat) : BitVec 72 :=
  match s.cl.macOps.find? (fun o => o.cluster = m ∧ o.slice = sl ∧ o.issued + 3 ≤ x) with
  | some o => o.vals.getD c 0#72
  | none => mapGet 0#72 s.cl.macStart (kMac (physOf s m) sl c)

/-- The accumulator with every operation issued so far, complete or not (R104). -/
def macIssued (s : State) (m sl c : Nat) : BitVec 72 :=
  match s.cl.macOps.find? (fun o => o.cluster = m ∧ o.slice = sl) with
  | some o => o.vals.getD c 0#72
  | none => mapGet 0#72 s.cl.macStart (kMac (physOf s m) sl c)

/-- The accumulator that a source or a port reads at step `t`: as at the end of step `t - 1` (R104). -/
def macRead (s : State) (m sl c t : Nat) : BitVec 72 := macAtEnd s m sl c t

/-- Room width W (R134). -/
def roomCfg (s : State) (p r : Nat) : Word := rdReg s (wenA p r 0x2800)
def roomWidth (s : State) (p r : Nat) : Nat := fld (roomCfg s p r) 0 7

/-- Read data of a store-room port at step `t` (R110); bits at or above the room's width read 0 (R93). -/
def portRead (s : State) (m r q c t : Nat) : BitVec 64 :=
  match s.cl.srdOps.find? (fun o => o.cluster = m ∧ o.room = r ∧ o.port = q ∧ o.issued + 2 ≤ t) with
  | some o => o.vals.getD c 0#64
  | none => mapGet 0#64 s.cl.portStart (kPort (physOf s m) r q c)

/-- Flag F of an engine as at the end of step `t - 1` (R107). -/
def flagFAt (s : State) (m e t : Nat) : Ctx :=
  match mapGet none s.cl.flagOld (kWeT m e t) with
  | some v => v
  | none => mapGet 0#8 s.cl.flagF (kWe (physOf s m) e)

/-- Does a WEN_DPT entry break a rule of R108? `wd` is the width of the room it names. -/
def dptIllegal (v : Word) (wd : Nat) : Bool :=
  match fld v 0 3 with
  | 0 => false
  | 1 => 32 ≤ fld v 8 7
  | 2 => false
  | 3 => 4 ≤ fld v 4 3 || wd ≤ fld v 8 7
  | 4 => 2 ≤ fld v 4 3 || 72 ≤ fld v 8 7
  | _ => true

/-- Datapath port `q` of a cluster at step `t` (R107), and whether its entry is one that R108 refuses. -/
def datapathPort (s : State) (m q t : Nat) : Ctx × Bool :=
  let p := physOf s m
  let v := rdReg s (wenA p (q / 16) (0x2400 + 4 * (q % 16)))
  let u := fld v 4 3
  let b := fld v 8 7
  if dptIllegal v (roomWidth s p u) then (0#8, true)
  else
    (match fld v 0 3 with
     | 1 => ctxOf (fun c => (engineResult s m u t c).getLsbD b)
     | 2 => flagFAt s m u t
     | 3 => ctxOf (fun c => (portRead s m u (fld v 7 1) c t).getLsbD b)
     | 4 => ctxOf (fun c => (macRead s m u c t).getLsbD b)
     | _ => 0#8, false)

/-! ### Operands of a Boolean processor -/

/-- Tick-wide value: 0xFF or 0x00 (R49). -/
def tickWide (b : Bool) : Ctx := if b then 0xFF#8 else 0#8

/-- Constants and tick specials, codes 768 to 789 (R49). -/
def constOperand (s : State) (code : Nat) : Ctx :=
  match code with
  | 769 => 0xFF#8
  | 770 => 0xAA#8
  | 771 => 0xCC#8
  | 772 => 0xF0#8
  | 776 => 0x01#8
  | 777 => 0x02#8
  | 778 => 0x04#8
  | 779 => 0x08#8
  | 780 => 0x10#8
  | 781 => 0x20#8
  | 782 => 0x40#8
  | 783 => 0x80#8
  | 784 => tickWide (s.spr.tick.getLsbD 0)
  | 785 => tickWide (isFirstTick s)
  | 786 => s.spr.cen
  | 787 => tickWide (s.spr.cls % 2 = 1)
  | 788 => tickWide (s.spr.cls / 2 % 2 = 1)
  | _ => 0#8

/-- Is an operand code reserved (R50)? -/
def codeReserved (code : Nat) : Bool :=
  (773 ≤ code && code ≤ 775) || (789 ≤ code && code ≤ 895)

/-- What reading one operand yields: its value, and the events it meets. -/
structure OperandRead where
  value  : Ctx
  parBad : Bool
  /-- Engine that holds an illegal WEN_DPT entry (R127). -/
  dptBad : Option Nat

/-- Operand select code of BP `n` of logical cluster `m` at step `t` (R47). -/
def bpOperand (s : State) (m n t code : Nat) : OperandRead :=
  let p := physOf s m
  let plainV := fun (v : Ctx) => ({ value := v, parBad := false, dptBad := none } : OperandRead)
  if code < 256 then
    let w := pondRaw s p n code
    { value := pondData w, parBad := pondBadPar w, dptBad := none }
  else if code < 384 then
    let f := code - 256
    { value := flopCur s p n f, parBad := flopReadBad s p n f (fptr s p n f), dptBad := none }
  else if code < 512 then
    let f := code - 384
    let sel := if flopWritten s p n f then ~~~ fptr s p n f else fptr s p n f
    { value := flopNext s p n f, parBad := flopReadBad s p n f sel, dptBad := none }
  else if code < 640 then plainV (busAt s m (code - 512) t)
  else if code < 704 then plainV (shelfImport s m (code - 640) t)
  else if code < 768 then plainV (windowEntry s m (code - 704) t)
  else if code < 896 then plainV (constOperand s code)
  else
    let (v, bad) := datapathPort s m (code - 896) t
    { value := v, parBad := false, dptBad := if bad then some ((code - 896) / 16) else none }

end Sys2Proof.Machine
end

