-- ==== Sys2Proof/Machine/Boolean.lean ====
section
/-! DEFINITION. Boolean processors (chapter 02): fetch, operands, the truth table, injection, pond, step bus and
export slots. -/

namespace Sys2Proof.Machine

/-! ### The instruction word (R45) -/

def bpLut (w : BitVec 72) : Nat := fld w 56 16
def bpA (w : BitVec 72) : Nat := fld w 46 10
def bpB (w : BitVec 72) : Nat := fld w 36 10
def bpC (w : BitVec 72) : Nat := fld w 26 10
def bpD (w : BitVec 72) : Nat := fld w 16 10
def bpDst (w : BitVec 72) : Nat := fld w 7 9
def bpWe (w : BitVec 72) : Bool := w.getLsbD 6
def bpMode (w : BitVec 72) : Nat := fld w 4 2
def bpExp (w : BitVec 72) : Nat := fld w 0 4
/-- Special code SUB (R58). -/
def bpSub (w : BitVec 72) : Nat := fld w 68 4
/-- Parameters of a special (R58). -/
def bpPar (w : BitVec 72) : Nat := fld w 56 12

/-- The rows of the table of operations that a BP instruction belongs to. A special with SUB 0x4 to 0xF has no row
of its own and executes as a NOP (R59). -/
inductive BpKind where
  | nop | plain | stateWrite | inject | sel | swaphint | rowcopy | probe
deriving DecidableEq, Repr

def bpKind (w : BitVec 72) : BpKind :=
  if w = 0#72 then .nop
  else match bpMode w with
    | 0 => .plain
    | 1 => .stateWrite
    | 2 => .inject
    | _ => match bpSub w with
      | 0 => .sel
      | 1 => .swaphint
      | 2 => .rowcopy
      | 3 => .probe
      | _ => .nop

/-- Must-be-zero parameter bits or an undefined special (R58, R59). -/
def bpSpecialBad (w : BitVec 72) : Bool :=
  let par := bpPar w
  match bpSub w with
  | 0 => par / 8 ≠ 0
  | 1 => par ≠ 0
  | 2 => par / 8 % 128 ≠ 0 || par / 1024 = 3
  | 3 => par / 64 ≠ 0
  | _ => true

/-- What the destination fields do (R53). -/
inductive BpDest where
  | none | working (a : Nat) | flop (f : Nat) | illegal
deriving DecidableEq, Repr

def bpDest (w : BitVec 72) : BpDest :=
  let d := bpDst w
  match bpMode w, bpWe w with
  | 0, false => .none
  | 0, true => if d < 256 then .working d else .illegal
  | 1, true => if 256 ≤ d ∧ d < 384 then .flop (d - 256) else .illegal
  | 1, false => .illegal
  | _, false => .none
  | _, true => if d < 256 then .working d else if d < 384 then .flop (d - 256) else .illegal

/-! ### Fetch (R68, R71, R715) -/

/-- Entry address of schedule step `t` for class `k` from a control, a base-pair register pair (R68). -/
def entryAddr (split active : Bool) (base t : Nat) : Nat :=
  ((if split then (if active then 512 else 0) else 0) + base + t) % 1024

def classBase (s : State) (a01 a23 k : Nat) : Nat :=
  rdFld s (if k < 2 then a01 else a23) (16 * (k % 2)) 10

def bpEntryAddr (s : State) (p n t : Nat) : Nat :=
  entryAddr (rdBit s (bpcA p n 0xC) 0) (rdBit s (bpcA p n 0xC) 1)
    (classBase s (bpcA p n 0x10) (bpcA p n 0x14) s.spr.cls) t

/-- Invert the given bits of a word; positions at or above its width are check bits. -/
def flipBits {w : Nat} (v : BitVec w) (l : List Nat) : BitVec w :=
  l.foldl (fun acc i => if i < w then acc ^^^ BitVec.ofNat w (2 ^ i) else acc) v

/-- How a SECDED code answers for a word with inverted bits: the delivered word, whether a correction is counted,
whether the word is uncorrectable. For three or more inverted bits the outcome is a free function of the error pattern
(R715): reported as uncorrectable, one bit changed and counted, or passed. -/
def secded {w : Nat} (v : BitVec w) (flips : List Nat) : BitVec w × Bool × Bool :=
  let x := Config.eccOutcome flips
  match flips with
  | [] => (v, false, false)
  | [_] => (v, true, false)
  | [_, _] => (flipBits v flips, false, true)
  | _ => match x % 3 with
    | 0 => (flipBits v flips, false, true)
    | 1 => (flipBits (flipBits v flips) [x / 3 % (w + 8)], true, false)
    | _ => (flipBits v flips, false, false)

/-- The fetched BP entry: delivered word, corrected, uncorrectable. -/
def bpFetch (s : State) (p n e : Nat) : BitVec 72 × Bool × Bool :=
  secded (mapGet 0#72 s.cl.bpMem (kEntry p n e)) (mapGet [] s.cl.bpFlips (kEntry p n e))

/-! ### Flags -/

/-- Set a failing flag of BPC_STATUS and report it (R73, R620). -/
def bpFlag (p n flag kind detail : Nat) (s : State) : State :=
  reportFail kind 0 p detail (setBit s (bpcA p n 0x18) flag)

/-- A failing flag of WEN_STATUS, reported (R127, R128). -/
def weFlag (p e flag kind : Nat) (s : State) : State :=
  reportFail kind 0 p 0 (setBit s (wenA p e 0x220C) flag)

/-! ### Export slots (R142, R156) -/

/-- Slots of a cluster that two or more BPs drive at a step, lowest first. -/
def conflictSlots (s : State) (m t : Nat) : List Nat :=
  (List.range 80).filter (fun sl => 2 ≤ (mapGet [] s.cl.exports (kExp m sl t)).length)

/-- The two lowest numbers of a list of drivers. -/
def lowestTwo (l : List (Nat × Ctx)) : Nat × Nat :=
  let a := l.foldl (fun b x => min b x.1) 127
  (a, (l.filter (fun x => x.1 ≠ a)).foldl (fun b x => min b x.1) 127)

/-- A failing flag of FAB_STATUS, reported (R156, R158). -/
def fabFlag (p flag kind : Nat) (s : State) : State :=
  reportFail kind 0 p 0 (setBit s (fabA p 0x1400) flag)

/-- Note a conflict of export slots in a step: the flag, the captured fields and the report (R156). -/
def noteConflict (m t : Nat) (s : State) : State :=
  let p := physOf s m
  let first := !rdBit s (fabA p 0x1400) 0
  let again := mapGet none s.cl.confStep m = some t
  let s1 := match conflictSlots s m t with
    | [] => s
    | sl :: _ =>
      if first || again then
        let (w, l) := lowestTwo (mapGet [] s.cl.exports (kExp m sl t))
        let s2 := wrReg s (fabA p 0x1404) (BitVec.ofNat 32 (sl + w * 128 + l * 2 ^ 14 + t * 2 ^ 21))
        { s2 with cl := { s2.cl with confStep := mapSet none s2.cl.confStep m (some t) } }
      else s
  fabFlag p 0 0x07 s1

/-- A live border cell follows the value driven on its wire (R270). -/
def borderTrack (m slot t : Nat) (s : State) : State :=
  if slot < 64 then s else
  let shelf := m / 16
  let wire := 16 * (m % 16) + (slot - 64)
  match exportVal s m slot t with
  | none => s
  | some v => (borderCells s shelf wire s.spr.cls t).foldl
      (fun acc j => wrReg acc (shfA shelf (0x20000 + 4 * j)) (v.setWidth 32)) s

/-- BP `n` drives the export slot of its code `x` with a value at step `t` (R142). -/
def driveExport (m n t x : Nat) (v : Ctx) (s : State) : State :=
  if x = 0 then s else
  let p := physOf s m
  let a := fabA p (n * 16 + 4 * (x / 4))
  if !cfgGood s a then fabFlag p 2 0x08 s
  else
    let slot := rdFld s a (8 * (x % 4)) 7
    if 80 ≤ slot then fabFlag p 1 0x03 s
    else
      let k := kExp m slot t
      let old := mapGet [] s.cl.exports k
      let new := old.filter (fun d => d.1 ≠ n) ++ [(n, v)]
      let s1 := { s with cl := { s.cl with exports := mapSet [] s.cl.exports k new } }
      borderTrack m slot t (whenDo (old.any (fun d => d.1 ≠ n)) (noteConflict m t) s1)

/-! ### Execution -/

/-- The LUT result over eight contexts (R51). -/
def lutEval (lut : Nat) (a b c d : Ctx) : Ctx :=
  ctxOf (fun i => lut.testBit (8 * b2n (d.getLsbD i) + 4 * b2n (c.getLsbD i) + 2 * b2n (b.getLsbD i)
    + b2n (a.getLsbD i)))

/-- Armed inject: its effect on the result of a MODE 0b10 instruction (R75). -/
def injectApply (en val : Ctx) (op : Bool) (r : Ctx) : Ctx :=
  if op then r ^^^ (en &&& val) else pick en r val

/-- Does the inject of a BP match this class and step (R75)? -/
def injectHits (s : State) (p n t : Nat) : Bool :=
  let st := rdReg s (bpcA p n 0x8)
  bit st 31 && bit st (16 + s.spr.cls) && fld st 0 10 = t

/-- The raw result of an instruction from its operand values (R51, R58). -/
def bpResult (w : BitVec 72) (a b c d : Ctx) : Ctx :=
  let par := bpPar w
  match bpKind w with
  | .nop => 0#8
  | .sel =>
    let inv := fun (i : Nat) (v : Ctx) => if par.testBit i then ~~~ v else v
    pick (inv 2 c) (inv 0 a) (inv 1 b)
  | .swaphint => a
  | .probe => a
  | .rowcopy =>
    let k := par % 8
    match par / 1024 with
    | 0 => tickWide (a.getLsbD k)
    | 1 => ctxOf (fun i => a.getLsbD ((i + 8 - k) % 8))
    | _ => ctxOf (fun i => a.getLsbD (7 - i))
  | _ => lutEval (bpLut w) a b c d

/-- Which operands an instruction reads: a special reads only those that its row uses (R58). -/
def bpReads (w : BitVec 72) : List Nat :=
  match bpKind w with
  | .sel => [bpA w, bpB w, bpC w]
  | .swaphint | .rowcopy | .probe => [bpA w]
  | _ => [bpA w, bpB w, bpC w, bpD w]

/-- Place a result on the step bus (R54). -/
def busPut (m n t : Nat) (v : Ctx) (s : State) : State :=
  { s with cl := { s.cl with bpBus := mapSet 0 s.cl.bpBus (kBus m n t) v } }

/-- Pond effect of a result (R53). -/
def bpStore (p n : Nat) (d : BpDest) (v : Ctx) (s : State) : State :=
  match d with
  | .working a => pondWrite p n a v s
  | .flop f => stateWrite p n f v s
  | _ => s

/-- Further effects of the specials SWAPHINT and PROBE (R58, R60, R61). -/
def bpSpecial (p n : Nat) (w : BitVec 72) (v : Ctx) (s : State) : State :=
  match bpKind w with
  | .swaphint =>
    let off := mapGet 0#8 s.cl.hintOff (kBp p n) ||| ~~~ v
    { s with cl := { s.cl with hintOff := mapSet 0 s.cl.hintOff (kBp p n) off } }
  | .probe => { s with cl := { s.cl with probe := mapSet 0 s.cl.probe (p * 64 + bpPar w % 64) v } }
  | _ => s

/-- Events met while operands are read: parity errors (R72), reserved codes (R50), illegal ports (R127). -/
def bpReadFlags (m n t : Nat) (w : BitVec 72) (s : State) : State :=
  let p := physOf s m
  let rs := (bpReads w).map (bpOperand s m n t)
  let res := [bpA w, bpB w, bpC w, bpD w].any codeReserved
  let s1 := whenDo (rs.any (fun r => r.parBad)) (bpFlag p n 1 0x02 0) s
  let s2 := whenDo res (bpFlag p n 2 0x03 0) s1
  (rs.filterMap (fun r => r.dptBad)).foldl (fun acc e => weFlag p e 1 0x03 acc) s2

/-- A legal instruction executes: operands, result, injection, step bus, export slot, pond (R51 to R56, R74, R75). -/
def bpRun (m n t : Nat) (w : BitVec 72) (s : State) : State :=
  let p := physOf s m
  let v := fun code => (bpOperand s m n t code).value
  let r0 := bpResult w (v (bpA w)) (v (bpB w)) (v (bpC w)) (v (bpD w))
  let hit := injectHits s p n t
  let r := if hit ∧ bpMode w = 2 then
      injectApply ((rdReg s (bpcA p n 0x0)).setWidth 8) ((rdReg s (bpcA p n 0x4)).setWidth 8)
        (rdBit s (bpcA p n 0x4) 8) r0
    else r0
  let s1 := bpReadFlags m n t w s
  bpSpecial p n w r (bpStore p n (bpDest w) r (driveExport m n t (bpExp w) r (busPut m n t r s1)))

/-- An entry that executes as a NOP delivers 0x00 and does nothing else (R46, R53, R71). -/
def bpNop (m n t : Nat) (s : State) : State := busPut m n t 0 s

/-- An illegal combination or special executes as a NOP and sets ILLEGAL (R53, R59). -/
def bpIllegal (w : BitVec 72) : Bool :=
  w ≠ 0#72 && (bpDest w = .illegal || (bpMode w = 3 && bpSpecialBad w))

/-- What the fetched entry of a BP at a step counts as: the row of the table of operations it belongs to. An entry
that is not corrected executes as a NOP and belongs to the row of the word as it was written, or to NOP. -/
def bpRowIs (s : State) (m n t : Nat) (k : BpKind) : Bool :=
  let p := physOf s m
  let e := bpEntryAddr s p n t
  let (w, _, unc) := bpFetch s p n e
  if unc then k = .nop || bpKind (mapGet 0#72 s.cl.bpMem (kEntry p n e)) = k else bpKind w = k

/-- BP `n` of logical cluster `m` executes schedule step `t` (R68, R71): fetch with ECC check, then the instruction. -/
def bpStep (m n t : Nat) (s : State) : State :=
  let p := physOf s m
  let e := bpEntryAddr s p n t
  let (w, corr, unc) := bpFetch s p n e
  if unc then bpNop m n t (bpFlag p n 0 0x01 (n * 1024 + e) s)
  else
    let s1 := whenDo corr (fun x => incFld x (bpcA p n 0x18) 16 16) s
    if bpIllegal w then bpNop m n t (bpFlag p n 2 0x03 0 s1)
    else if w = 0#72 then bpNop m n t s1
    else bpRun m n t w s1

/-- A BP command: the step happens when the schedule has it and its entry is of the command's row. -/
def bpExec (k : BpKind) (m n t : Nat) (s : State) : State :=
  if inSchedule s m t && n < 128 && bpRowIs s m n t k then bpStep m n t s else s

/-- PLAIN (R51, R53). -/
def execPlain (m n t : Nat) (s : State) : Out := .next (bpExec .plain m n t s)
/-- NOP (R46). -/
def execNop (m n t : Nat) (s : State) : Out := .next (bpExec .nop m n t s)
/-- STATE_WRITE (R55, R63). -/
def execStateWrite (m n t : Nat) (s : State) : Out := .next (bpExec .stateWrite m n t s)
/-- INJECT_POINT (R75). -/
def execInjectPoint (m n t : Nat) (s : State) : Out := .next (bpExec .inject m n t s)
/-- SEL (R58). -/
def execSel (m n t : Nat) (s : State) : Out := .next (bpExec .sel m n t s)
/-- SWAPHINT (R58, R60). -/
def execSwaphint (m n t : Nat) (s : State) : Out := .next (bpExec .swaphint m n t s)
/-- ROWCOPY (R58). -/
def execRowcopy (m n t : Nat) (s : State) : Out := .next (bpExec .rowcopy m n t s)
/-- PROBE (R61). -/
def execProbe (m n t : Nat) (s : State) : Out := .next (bpExec .probe m n t s)

/-! ### Inject registers (R77) and the status register (R85) -/

/-- Offset of inject register `r`: EN, VAL, STEP (R80 to R82). -/
def injOff (r : Nat) : Nat := 4 * r

/-- The bits an inject register stores. -/
def injMask (r : Nat) : Word :=
  match r with
  | 0 => 0xFF
  | 1 => 0x1FF
  | _ => 0x800F03FF

/-- A write to BPC_INJ_EN, VAL or STEP (`r` 0 to 2) of a BP of logical cluster `m`: at once in Ready and Held, staged
for the next first-run epoch while Running (R30, R77). -/
def injWrite (p n r : Nat) (v : Word) (s : State) : State :=
  let a := bpcA p n (injOff r)
  let x := v &&& injMask r
  match s.chip.devState with
  | .ready | .held => wrReg s a x
  | .running =>
    let s1 := if s.spr.pos = .extension then
        { s with cl := { s.cl with injLater := mapIns (mapDel s.cl.injLater a) a x } }
      else { s with cl := { s.cl with injStaged := mapIns (mapDel s.cl.injStaged a) a x } }
    setBit s1 (bpcA p n 0x18) 4
  | _ => s

end Sys2Proof.Machine
end

