-- ==== Sys2Proof/Machine/CellarOps.lean ====
section
/-! DEFINITION. Lines of the cellar (chapter 14): regions and pools, write counters, poison, re-keying queues, and
the read and write of a line. -/

namespace Sys2Proof.Machine

/-! ### Registers of the block -/

def celStatus : Nat := celA 0
def celPlan : Nat := celA 8

/-! ### Regions (R569, R570, R573) -/

/-- First region of the general window and of the attic area. -/
def genBase : Nat := 37653
def atticBase : Nat := 54768

/-- What the general window holds at a region (R573): 1 firmware area, 2 guarded region, 3 open area, 4 sealed
general area, 5 larder; by the three sizes. -/
def useOf (larder fw opn r : Nat) : Nat :=
  if r < genBase ∨ atticBase ≤ r then 0
  else if atticBase - 1024 * larder ≤ r then 5
  else if r < genBase + fw then 1
  else if r = genBase + fw then 2
  else if r < genBase + fw + 1 + opn then 3
  else 4

/-- The use of a region under the layout in force. -/
def regionUse (s : State) (r : Nat) : Nat :=
  if s.cel.laid then useOf (rdFld s celPlan 0 5) (rdFld s celPlan 5 10) (rdFld s celPlan 16 15) r else 0

/-- The area of the model window that holds a region. -/
def areaOf (s : State) (r : Nat) : Option Area := s.cel.areas.find? (fun a => a.first ≤ r && r < a.first + a.count)

/-- CEL_RT_DATA.MODE: 0 unassigned, 1 sealed, 2 open, 3 attic area (R597). -/
def regionMode (s : State) (r : Nat) : Nat :=
  if atticBase ≤ r then 3
  else if regionUse s r = 3 then 2
  else if regionUse s r ≠ 0 ∨ (areaOf s r).isSome then 1
  else 0

/-- CEL_RT_DATA.POOL: 0 general, 1 checkpoint, 2 acquisition, 3 page (R597). -/
def regionPool (s : State) (r : Nat) : Nat := ((areaOf s r).map (fun a => a.pool)).getD 0

def regionKey (s : State) (r : Nat) : RegionKey := mapGet RegionKey.reset s.cel.keys r

def putKey (r : Nat) (k : RegionKey) (s : State) : State :=
  { s with cel := { s.cel with keys := mapSet RegionKey.reset s.cel.keys r k } }

/-- BASE_P and n_P of a pool (R565). -/
def poolBase (p : Nat) : Nat :=
  match p with
  | 0 => 20
  | 1 => 0
  | 2 => 10
  | _ => 16
def poolSize (p : Nat) : Nat :=
  match p with
  | 0 => 40
  | 1 => 40
  | 2 => 24
  | _ => 16

/-- Region and pool entry of a line (R570). -/
def lineRegion (l : Nat) : Nat := l / 16384
def lineEntry (s : State) (l : Nat) : Nat := l % 16384 % poolSize (regionPool s (lineRegion l))

def pcOf (s : State) (pc : Nat) : PcState := mapGet PcState.reset s.cel.pcs pc

def putPc (pc : Nat) (x : PcState) (s : State) : State :=
  { s with cel := { s.cel with pcs := mapSet PcState.reset s.cel.pcs pc x } }

/-- A pseudo-channel as Boot assigns it (R565): pool and list entry by local index; the last two are reserves. -/
def pcHome (pc : Nat) : PcState :=
  let l := pc % 32
  let mk := fun (p : Nat) => { PcState.reset with role := p, entry := 4 * (l - poolBase p) + pc / 32 }
  if l < 10 then mk 1 else if l < 16 then mk 2 else if l < 20 then mk 3 else if l < 30 then mk 0
  else { PcState.reset with role := 4 }

/-- The pseudo-channel that serves a line (R565, R570, R593). -/
def linePc (s : State) (l : Nat) : Nat :=
  let p := regionPool s (lineRegion l)
  let e := lineEntry s l
  ((List.range 128).find? (fun pc => (pcOf s pc).role = p && (pcOf s pc).entry = e)).getD
    (32 * (e % 4) + poolBase p + e / 4)

/-- Advance the generation of assigned regions and clear their counters and contents (R571). -/
def assignRegions (p : Nat → Bool) (first n : Nat) (s : State) : State :=
  let inside := fun (r : Nat) => decide (first ≤ r) && decide (r < first + n)
  let adv := fun (k : RegionKey) => { k with gen := if k.gen = 0xFFFF then Config.genAfterLast else k.gen + 1, exh := false }
  let mid := (List.range' first n).filterMap (fun r =>
    let k := if p r then adv (regionKey s r) else regionKey s r
    if k = RegionKey.reset then none else some (r, k))
  let keep := fun (r : Nat) => !(inside r && p r)
  { s with cel := { s.cel with
    keys := mapKeep (fun r => decide (r < first)) s.cel.keys ++ mid ++
      mapKeep (fun r => decide (first + n ≤ r)) s.cel.keys
    ctr := mapKeep (fun l => keep (lineRegion l)) s.cel.ctr
    poison := mapKeep (fun l => keep (lineRegion l)) s.cel.poison
    upset := mapKeep (fun l => keep (lineRegion l)) s.cel.upset
    mem := mapKeep (fun a => keep (lineRegion (a / 64))) s.cel.mem } }

/-- Lay out the general window (R573): regions whose area or mode changes are reassigned, the others keep their
contents. -/
def layoutGeneral (larder fw opn : Nat) (s : State) : State :=
  let changed := fun (r : Nat) => decide (regionUse s r ≠ useOf larder fw opn r)
  let s1 := assignRegions changed genBase (atticBase - genBase) s
  let s2 := { s1 with cel := { s1.cel with laid := true } }
  wrFld (wrFld (wrFld s2 celPlan 0 5 larder) celPlan 5 10 fw) celPlan 16 15 opn

/-- Forget the contents, re-keying and held writes of regions (R571, R588). -/
def dropRegions (p : Nat → Bool) (s : State) : State :=
  { s with cel := { s.cel with
    ctr := mapKeep (fun l => !p (lineRegion l)) s.cel.ctr
    poison := mapKeep (fun l => !p (lineRegion l)) s.cel.poison
    upset := mapKeep (fun l => !p (lineRegion l)) s.cel.upset
    mem := mapKeep (fun a => !p (lineRegion (a / 64))) s.cel.mem
    held := s.cel.held.filter (fun h => !p (lineRegion h.line))
    rkQueue := s.cel.rkQueue.map (fun q => (q.1, q.2.filter (fun r => !p r)))
    rkNow := s.cel.rkNow.filter (fun q => match q.2 with
      | some (r, _) => !p r
      | none => true) } }

/-! ### Re-keying queues (R585) -/

/-- An idle pool takes the next region of its queue. -/
def rekeyNext (p : Nat) (s : State) : State :=
  match mapGet none s.cel.rkNow p, mapGet [] s.cel.rkQueue p with
  | none, r :: rest =>
    { s with cel := { s.cel with
      rkNow := mapSet none s.cel.rkNow p (some (r, 0))
      rkQueue := mapSet [] s.cel.rkQueue p rest } }
  | _, _ => s

def rekeyQueued (s : State) (r : Nat) : Bool := (mapGet [] s.cel.rkQueue (regionPool s r)).contains r

def rekeyActive (s : State) (r : Nat) : Bool :=
  match mapGet none s.cel.rkNow (regionPool s r) with
  | some (x, _) => x = r
  | none => false

/-- Free the model window (R249, R574); a pool whose re-key this ends takes its next region. -/
def freeModelWindow (s : State) : State :=
  let s1 := dropRegions (fun r => decide (r < genBase)) s
  let s2 := { s1 with cel := { s1.cel with areas := [] } }
  (List.range 4).foldl (fun acc p => rekeyNext p acc) s2

/-- A line's counter has passed 0xFFF0_0000: its region is queued once, or its generation is exhausted (R585, R587,
R588). -/
def rekeyDue (r : Nat) (s : State) : State :=
  if rekeyQueued s r || rekeyActive s r then s
  else if (regionKey s r).gen = 0xFFFF then
    setBit (setBit (putKey r { regionKey s r with exh := true } s) celStatus 1) celStatus 7
  else
    let p := regionPool s r
    rekeyNext p { s with cel := { s.cel with rkQueue := mapSet [] s.cel.rkQueue p (mapGet [] s.cel.rkQueue p ++ [r]) } }

/-- The key that a line is stored under: below the pointer of its region's re-key the next one (R585, R587). -/
def lineKey (s : State) (l : Nat) : RegionKey :=
  let k := regionKey s (lineRegion l)
  let next : RegionKey := if k.old then RegionKey.reset else { k with gen := k.gen + 1 }
  match mapGet none s.cel.rkNow (regionPool s (lineRegion l)) with
  | some (r, i) => if r = lineRegion l && l % 16384 < i then next else k
  | none => k

/-! ### Lines (R577 to R581) -/

def lineCtr (s : State) (l : Nat) : Nat := mapGet 0 s.cel.ctr l
def linePoison (s : State) (l : Nat) : Bool := mapGet false s.cel.poison l
def lineSealed (s : State) (l : Nat) : Bool := regionMode s (lineRegion l) = 1

/-- Plaintext of a line. -/
def lineBytes (s : State) (l : Nat) : List Byte := (List.range 64).map (fun i => mapGet 0#8 s.cel.mem (64 * l + i))

def setCtr (l w : Nat) (s : State) : State := { s with cel := { s.cel with ctr := mapSet 0 s.cel.ctr l w } }
def setPoison (l : Nat) (b : Bool) (s : State) : State :=
  { s with cel := { s.cel with poison := mapSet false s.cel.poison l b } }

/-- Store plaintext bytes at a byte offset, without the line rules. -/
def memPut (off : Nat) (bytes : List Byte) (s : State) : State :=
  { s with cel := { s.cel with mem := mapSetAll 0 s.cel.mem (bytes.zipIdx.map (fun q => (off + q.2, q.1))) } }

/-- A write advances the counter of its line, and past the threshold queues the region (R577, R585). -/
def advanceCtr (l : Nat) (s : State) : State :=
  let w := lineCtr s l + 1
  whenDo (decide (0xFFF00000 < w)) (rekeyDue (lineRegion l)) (setCtr l w s)

/-- A line is poisoned (R580): counted, recorded with its cause, and reported against its pseudo-channel. -/
def poisonLine (l cause : Nat) (s : State) : State :=
  let s1 := if linePoison s l then s else
    let x := incFld (setBit (setPoison l true s) celStatus 6) (celA 0x28) 0 32
    wrReg x (celA 0x30) (BitVec.ofNat 32 (l + 2 ^ 30 * cause))
  report 0x22 3 (linePc s l) 0 s1

/-- The second reading verified (R580): counted, rewritten with its counter advanced, and reported. -/
def recoverLine (l : Nat) (s : State) : State :=
  let s1 := report 0x21 3 (linePc s l) 0 (incFld s (celA 0x24) 0 32)
  if lineSealed s l then advanceCtr l s1 else s1

/-- What a check gives of a line (R581): a line of counter 0 is not checked, a poisoned one fails. -/
def lineVerdict (s : State) (l : Nat) (chk : Verdict) : Verdict :=
  if linePoison s l then .fails
  else if lineSealed s l && lineCtr s l = 0 then .pass
  else if mapGet false s.cel.upset l then .fails
  else chk

/-- The effects of a check on the stored line. -/
def lineChecked (l cause : Nat) (chk : Verdict) (s : State) : State :=
  match lineVerdict s l chk with
  | .pass => s
  | .recovered => recoverLine l s
  | .fails => poisonLine l cause s

/-- Outcome of a write: performed, held for the re-key pointer, or refused with an error response. -/
inductive Written where
  | done | held | refused
deriving DecidableEq, Repr

/-- Perform a write of a line (R581). -/
def performWrite (l ofs : Nat) (bytes : List Byte) (s : State) : State :=
  let s1 := memPut (64 * l + ofs) bytes s
  let s2 := if lineSealed s l then advanceCtr l s1 else s1
  if ofs = 0 ∧ bytes.length = 64 then
    setPoison l false { s2 with cel := { s2.cel with upset := mapSet false s2.cel.upset l false } }
  else s2

/-- A write that the controller does not perform (R581, R587): flagged and logged. The log kinds of R635 name none
for it; it carries that of a write that is not accepted. -/
def refuseWrite (l : Nat) (s : State) : State :=
  attLog { outcome := 3, cls := 3, unit := linePc s l, kind := 0x23, resp := 0, n := 0, detail := 0 }
    (setBit s celStatus 8)

/-- A write of bytes within one line of a region that holds data (R581, R586, R587). `chk` is what the read of a
partial write finds. -/
def lineWrite (who : CelWho) (l ofs : Nat) (bytes : List Byte) (chk : Verdict) (s : State) : State × Written :=
  let full := ofs = 0 ∧ bytes.length = 64
  if ¬ full ∧ lineVerdict s l chk = .fails then (refuseWrite l (poisonLine l 1 s), .refused)
  else
    let s1 := if full then s else lineChecked l 1 chk s
    if lineSealed s1 l ∧ 0xFFFFFFFF ≤ lineCtr s1 l then
      if (regionKey s1 (lineRegion l)).exh then (refuseWrite l s1, .refused)
      else
        let h : HeldWrite := { who := who, line := l, ofs := ofs, bytes := bytes }
        ({ s1 with cel := { s1.cel with held := s1.cel.held ++ [h] } }, .held)
    else (performWrite l ofs bytes s1, .done)

/-- Bytes at a byte offset, cut into lines: line, offset in it, bytes. -/
def cutLines (off : Nat) (bytes : List Byte) : List (Nat × Nat × List Byte) :=
  let n := bytes.length
  (List.range ((off + n + 63) / 64 - off / 64)).map (fun i =>
    let l := off / 64 + i
    let lo := max off (64 * l)
    (l, lo - 64 * l, (bytes.drop (lo - off)).take (64 * l + 64 - lo)))

/-- A unit of the device writes plaintext bytes, its lines verifying. -/
def celPut (who : CelWho) (off : Nat) (bytes : List Byte) (s : State) : State :=
  (cutLines off bytes).foldl (fun acc q => (lineWrite who q.1 q.2.1 q.2.2 .pass acc).1) s

/-- Plaintext bytes at a byte offset. -/
def celGet (s : State) (off n : Nat) : List Byte := (List.range n).map (fun i => mapGet 0#8 s.cel.mem (off + i))

/-! ### The ciphertext view (R576, R577) -/

/-- The counter block of block `j` of a line. -/
def counterBlock (l w j : Nat) : BitVec 128 := BitVec.ofNat 128 (l + 2 ^ 30 * w + 2 ^ 62 * j)

/-- The stored bytes of a sealed line that has been written. -/
def lineCipher (s : State) (l : Nat) : List Byte :=
  let k := lineKey s l
  let key := Config.cellarKey ((rdReg s (celA 4)).toNat - b2n k.old) (lineRegion l) k.gen
  let pad := (List.range 4).flatMap (fun j => leBytes 16 (Config.aes256 key (counterBlock l (lineCtr s l) j)).toNat)
  List.zipWith (· ^^^ ·) (lineBytes s l) pad

/-- The seal's polynomial field GF(2^64) (R578): product modulo x^64 + x^4 + x^3 + x + 1. -/
def gfMul (a b : BitVec 64) : BitVec 64 :=
  ((List.range 64).foldl (fun (acc : BitVec 64 × BitVec 64) i =>
    let r := if a.getLsbD i then acc.1 ^^^ acc.2 else acc.1
    let x := if acc.2.getLsbD 63 then (acc.2 <<< 1) ^^^ 0x1B#64 else acc.2 <<< 1
    (r, x)) (0#64, b)).1

/-- The tag of a line (R578): 56 bits of the polynomial hash of the ciphertext words and L × 2^32 + W under the hash
key, XOR the cipher of the counter block with bit 64 set. The verdict on a stored line is an input of the commands. -/
def lineTag (s : State) (l : Nat) : BitVec 56 :=
  let k := lineKey s l
  let se := (rdReg s (celA 4)).toNat - b2n k.old
  let hk := Config.cellarHashKey se (lineRegion l) k.gen
  let bytes := lineCipher s l
  let words := (List.range 8).map (fun i => BitVec.ofNat 64 (leNat ((bytes.drop (8 * i)).take 8))) ++
    [BitVec.ofNat 64 (l * 2 ^ 32 + lineCtr s l)]
  let h := words.foldl (fun acc w => gfMul (acc ^^^ w) hk) 0#64
  let b := counterBlock l (lineCtr s l) 0 ||| (1#128 <<< 64)
  (h ^^^ (Config.aes256 (Config.cellarKey se (lineRegion l) k.gen) b).setWidth 64).setWidth 56

end Sys2Proof.Machine
end

