-- ==== Sys2Proof/Machine/Compare.lean ====
section
/-! DEFINITION. Compare engine, record stage, mover and acquisition buffer (chapter 07). -/

namespace Sys2Proof.Machine

/-! ### Settings that follow R286, and inject settings that follow R77 -/

/-- Words 1 and 2 of CMP_PORT, CMP_STOP_THR and CMP_SWEEP_CTRL (R286). -/
def isCmpSetting (a : Nat) : Bool :=
  a = cmpA 0x5C || a = cmpA 0x70 ||
    (cmpA 0x1000 ≤ a && a < cmpA 0x2000 && ((a - cmpA 0x1000) % 16 = 4 || (a - cmpA 0x1000) % 16 = 8))

/-- BPC_INJ_EN, VAL and STEP (R77). -/
def isInjectReg (a : Nat) : Bool :=
  physA 0 0 ≤ a && a < physA 272 0 && 0x290000 ≤ (a - physA 0 0) % 0x400000 && (a - physA 0 0) % 0x400000 < 0x2A0000 &&
    (a - physA 0 0) % 0x400000 % 0x200 < 0xC

/-- The settings in force, for the epoch record (R78, R286). -/
def takeSettings (f : Nat → Bool) (s : State) : SMap Word := mapKeep f s.regs

/-- Put recorded settings in force (R78, R286). -/
def putSettings (f : Nat → Bool) (l : SMap Word) (s : State) : State :=
  let s1 := { s with regs := mapKeep (fun a => !f a) s.regs }
  l.foldl (fun acc q => wrReg acc q.1 q.2) s1

/-- CLR of CMP_SWEEP_CTRL: MIS to 0 and FIRST.VALID to 0 (R316). -/
def sweepClear (s : State) : State :=
  { s with cmp := { s.cmp with live := { s.cmp.live with mis := [], first := [] } } }

/-- One setting takes effect (R286): the word is stored, and CLR of CMP_SWEEP_CTRL acts. -/
def cmpApply (a : Nat) (v : Word) (s : State) : State :=
  if a = cmpA 0x70 then
    let s1 := wrReg s a (v &&& 1)
    if bit v 1 then sweepClear s1 else s1
  else wrReg s a v

/-- Bits that a setting stores; CLR is kept while it waits. -/
def cmpMask (a : Nat) : Word :=
  if a = cmpA 0x70 then 3
  else if a = cmpA 0x5C then 0xFFFFFFFF
  else if (a - cmpA 0x1000) % 16 = 8 then 0x1FF else 0xFFFFFFFF

/-! ### Engine registers show the committed copy (R298) -/

def wr48 (lo hi n : Nat) (s : State) : State :=
  wrReg (wrReg s lo (BitVec.ofNat 32 n)) hi (BitVec.ofNat 32 (n / 2 ^ 32 % 2 ^ 16))

/-- Publish a copy of the engine's state in the registers that show it (R298, R300). -/
def cmpPublish (e : CmpLive) (s : State) : State :=
  let s1 := wr48 (cmpA 0x60) (cmpA 0x64) e.failTicks (wr48 (cmpA 0x68) (cmpA 0x6C) e.uncmp s)
  let s2 := { s1 with regs := mapKeep (fun a => !(cmpA 0x4000 ≤ a && a < cmpA 0x4400)) s1.regs }
  let s3 := e.pfail.foldl (fun acc q => wrReg acc (cmpA (0x4000 + 4 * q.1)) (BitVec.ofNat 32 q.2)) s2
  (List.range 8).foldl (fun acc c =>
    let acc := wrReg acc (cmpA (0x80 + 4 * c)) (BitVec.ofNat 32 (mapGet 0 e.mis c))
    match mapGet none e.first c with
    | none => wrReg (wrReg acc (cmpA (0xA0 + 8 * c)) 0) (cmpA (0xA4 + 8 * c)) 0
    | some t => wrReg (wrReg acc (cmpA (0xA0 + 8 * c)) (t.setWidth 32)) (cmpA (0xA4 + 8 * c))
        (BitVec.ofNat 32 (t.toNat / 2 ^ 32 + 2 ^ 31))) s3

/-! ### Sinks (R154, R281, R283) -/

def sinkReg (s : State) (k : Nat) : Word :=
  if cfgGood s (cmpA (0x2000 + 4 * k)) then rdReg s (cmpA (0x2000 + 4 * k)) else 0

/-- The value of sink `k` when the engine samples it: the last value driven in the tick on its wire (R154). -/
def sinkValue (s : State) (k : Nat) : Ctx :=
  let v := sinkReg s k
  if bit v 15 then
    let l := classLen s s.spr.cls
    ((List.range l).reverse.findSome? (fun t => globalWire s (fld v 0 4) (fld v 4 8) t)).getD 0#8
  else 0#8

/-- Is sink `k` border-masked in the tick (R283)? -/
def sinkMasked (s : State) (k : Nat) : Bool :=
  let v := sinkReg s k
  let shelf := fld v 0 4
  bit v 15 && detached s shelf && s.regs.any (fun q =>
    let lo := shfA shelf 0x10000
    lo ≤ q.1 && q.1 < lo + 0x10000 && bit q.2 31 && fld q.2 0 8 = fld v 4 8 && fld q.2 8 2 = s.spr.cls &&
      fld q.2 20 2 = 3)

/-- O2 (R174): the compare sinks as sampled, kept for the tick. -/
def sampleSinks (s : State) : State :=
  let cells := (s.regs.filterMap (fun q =>
    if cmpA 0x2000 ≤ q.1 ∧ q.1 < cmpA 0x4000 ∧ bit q.2 15 then some ((q.1 - cmpA 0x2000) / 4) else none)).map
      (fun k => (k, sinkValue s k))
  { s with cl := { s.cl with sinks := mapSetAll 0 [] cells } }

def sink (s : State) (k : Nat) : Ctx := mapGet 0#8 s.cl.sinks k

/-! ### Ports (R282 to R284) -/

def portW (s : State) (p w : Nat) : Word := rdReg s (cmpA (0x1000 + 16 * p + 4 * w))

def portGood (s : State) (p : Nat) : Bool :=
  cfgGood s (cmpA (0x1000 + 16 * p)) && cfgGood s (cmpA (0x100C + 16 * p))

def portActive (s : State) (p : Nat) : Bool := portGood s p && bit (portW s p 0) 31

/-- Active ports in increasing number. -/
def activePorts (s : State) : List Nat := (List.range 256).filter (portActive s)

def portWidth (s : State) (p : Nat) : Nat := fld (portW s p 0) 11 5 + 1

/-- Compared contexts of a port (R284). -/
def portCmpd (s : State) (p : Nat) : Ctx :=
  if s.cmp.present then (portW s p 2).setWidth 8 &&& s.spr.cen else 0#8

/-- Fail bits of port bit `i` (R283). -/
def failBits (s : State) (p i : Nat) : Ctx :=
  let w0 := portW s p 0
  let w3 := portW s p 3
  let m := sink s (fld w0 0 11 + i)
  let d := mapGet 0#8 s.cmp.rsp (fld w0 16 11 + i)
  let ce := if bit w0 27 then mapGet 0#8 s.cmp.ce (fld w0 16 11 + i) else 0xFF#8
  let ms := if bit w3 11 then sink s (fld w3 0 11 + i) else 0xFF#8
  if bit (portW s p 1) i && !sinkMasked s (fld w0 0 11 + i) then (m ^^^ d) &&& portCmpd s p &&& ce &&& ms else 0#8

/-- A 256-bit value of 32 bytes, byte i from `f i`. -/
def vec256 (n : Nat) (f : Nat → Ctx) : BitVec 256 :=
  BitVec.ofNat 256 ((List.range n).foldl (fun acc i => acc + (f i).toNat * 2 ^ (8 * i)) 0)

/-- The fail vector of a port (R284). -/
def failVector (s : State) (p : Nat) : BitVec 256 := vec256 (portWidth s p) (failBits s p)

/-- Contexts that have a bit set in a vector. -/
def vecCtx (v : BitVec 256) : Ctx := ctxOf (fun c => (List.range 32).any (fun i => v.getLsbD (8 * i + c)))

/-- Set bits of a vector in context `c`. -/
def vecCount (v : BitVec 256) (c : Nat) : Nat := (List.range 32).countP (fun i => v.getLsbD (8 * i + c))

/-! ### Probe groups (R293 to R296) -/

/-- Member `j` of group `g`: enable, cluster, slot. -/
def pgrpMember (s : State) (g j : Nat) : Bool × Nat × Nat :=
  let a := cmpA (0x8000 + g * 0x40 + j / 2 * 4)
  let v := rdReg s a
  let o := 16 * (j % 2)
  (cfgGood s a && bit v (o + 15), fld v o 8, fld v (o + 8) 6)

def probeValue (s : State) (m slot : Nat) : Ctx :=
  if detached s (m / 16) then 0#8 else mapGet 0#8 s.cl.probe (physOf s m * 64 + slot)

def groupValue (s : State) (g : Nat) : BitVec 256 :=
  vec256 32 (fun j => match pgrpMember s g j with
    | (true, m, slot) => probeValue s m slot
    | _ => 0#8)

/-- Groups with at least one enabled member (R293). -/
def activeGroups (s : State) : List Nat :=
  (List.range 512).filter (fun g => (List.range 32).any (fun j => (pgrpMember s g j).1))

/-! ### The record queue (R288, R318) -/

/-- Is the current tick a replay (R202, R209)? -/
def isReplayTick (s : State) : Bool := curEpoch s < s.spr.replayEnd || s.spr.tick.toNat < s.spr.logEnd

/-- Start of the current tick in TB0 (R172). -/
def tickStart (s : State) : Nat := s.spr.segStart + stepsTime s.spr.segSteps

/-- Time tag of the current tick and its TB0T bit (R289). -/
def tickTime (s : State) : Nat × Bool :=
  match tbAt s (rdFld s (cmpA 0) 0 2) (tickStart s) with
  | some t => (t, false)
  | none => (tickStart s, true)

/-- Place a record of the current tick in the queue; a full queue loses it (R318). -/
def putRecord (kind : RecKind) (source : Nat) (first : Bool) (cmpd : Ctx) (payload : BitVec 256) (aux : Nat)
    (s : State) : State :=
  let tt := tickTime s
  if 1024 ≤ s.cmp.queue.length then reportFail 0x31 6 1 0 (setBit s (cmpA 0x58) 0)
  else
    let e := curEpoch s
    let n := s.cmp.queue.countP (fun r => r.epoch = e) + s.cmp.stage.countP (fun r => r.epoch = e)
    let r : CmpRec := { kind := kind, source := source, replay := isReplayTick s, first := first, post := false,
                        tb0t := tt.2, tick := s.spr.tick, time := tt.1, cmpd := cmpd, payload := payload, aux := aux,
                        epoch := e, idx := n }
    { s with cmp := { s.cmp with queue := s.cmp.queue ++ [r] } }

/-- DUT address of a bitmap port and whether its compared contexts differ (R312, R313). -/
def bmapAddr (s : State) (p : Nat) : Nat × Bool :=
  let w3 := portW s p 3
  let addr := fun c => (List.range (fld w3 23 5 + 1)).foldl
    (fun acc j => acc + b2n ((sink s (fld w3 12 11 + j)).getLsbD c) * 2 ^ j) 0
  match (List.range 8).filter (fun c => (portCmpd s p).getLsbD c) with
  | [] => (0, false)
  | c :: cs => (addr c, cs.any (fun d => addr d ≠ addr c))

def withLive (f : CmpLive → CmpLive) (s : State) : State := { s with cmp := { s.cmp with live := f s.cmp.live } }

/-- One port's part of a compared tick: PORT and BMAP records, CMP_PFAIL (R290, R292). -/
def portTick (p : Nat) (s : State) : State :=
  let v := failVector s p
  let s1 := if mapGet 0#256 s.cmp.live.portRef p = v then s
    else withLive (fun l => { l with portRef := mapSet 0 l.portRef p v })
      (putRecord .port p false (portCmpd s p) v 0 s)
  let s2 := if v ≠ 0#256 ∧ bit (portW s p 0) 28 then
      let (a, div) := bmapAddr s1 p
      whenDo div (fun x => setBit x (cmpA 0x58) 5) (putRecord .bmap p false (portCmpd s p) v a s1)
    else s1
  if v ≠ 0#256 then
    withLive (fun l => { l with pfail := mapSet 0 l.pfail p (min 0xFFFFFFFF (mapGet 0 l.pfail p + 1)) }) s2
  else s2

/-- One group's part of a tick (R296). -/
def groupTick (g : Nat) (s : State) : State :=
  let v := groupValue s g
  let first := !mapGet false s.cmp.live.grpSeen g
  if first || mapGet 0#256 s.cmp.live.grpRef g ≠ v then
    withLive (fun l => { l with grpRef := mapSet 0 l.grpRef g v, grpSeen := mapSet false l.grpSeen g true })
      (putRecord .probe g first (if s.cmp.present then s.spr.cen else 0#8) v 0 s)
  else s

/-- STATUS payload of the tick (R291). -/
def statusPayload (s : State) : BitVec 256 :=
  let border := (activePorts s).any (fun p =>
    (List.range (portWidth s p)).any (fun i => sinkMasked s (fld (portW s p 0) 0 11 + i)))
  BitVec.ofNat 256 (b2n (!s.cmp.present) + 2 * b2n border + 256 * s.spr.cen.toNat)

def statusTick (s : State) : State :=
  let v := statusPayload s
  if s.cmp.live.status = some v then s
  else withLive (fun l => { l with status := some v })
    (putRecord .status 0 (s.cmp.live.status = none) (if s.cmp.present then s.spr.cen else 0#8) v 0 s)

/-- Stop count, CMP_FAILTICKS and sweep counters of a compared tick (R299, R316). -/
def countTick (s : State) : State :=
  let ps := activePorts s
  let vs := ps.map (fun p => (p, failVector s p))
  let failing := vs.any (fun q => q.2 ≠ 0#256)
  let stopping := vs.any (fun q => q.2 ≠ 0#256 && bit (portW s q.1 2) 8)
  let s1 := withLive (fun l => { l with failTicks := (l.failTicks + b2n failing) % 2 ^ 48,
                                        stopCount := l.stopCount + b2n stopping }) s
  let thr := (rdReg s (cmpA 0x5C)).toNat
  let s2 := if stopping ∧ thr ≠ 0 ∧ s1.cmp.live.stopCount = thr then
      setBit { s1 with spr := { s1.spr with stops := s1.spr.stops ++ [curEpoch s1] } } (cmpA 0x58) 6
    else s1
  if rdBit s (cmpA 0x70) 0 then
    (List.range 8).foldl (fun acc c =>
      let n := vs.foldl (fun x q => x + vecCount q.2 c) 0
      if n = 0 then acc
      else
        let first := fun (l : CmpLive) =>
          if mapGet none l.first c = none then mapSet none l.first c (some s.spr.tick) else l.first
        withLive (fun l => { l with mis := mapSet 0 l.mis c (min 0xFFFFFFFF (mapGet 0 l.mis c + n)),
                                    first := first l }) acc) s2
  else s2

/-- Parity errors met by the tables in use (R287): flagged once per tick. -/
def cmpParity (s : State) : State :=
  let bad := s.cl.cfgBad.any (fun q => q.2 && cmpA 0 ≤ q.1 && q.1 < cmpA 0x10000)
  whenDo bad (fun x => reportFail 0x30 5 0 0 (setBit x (cmpA 0x58) 2)) s

/-- The compare engine's work in O2 to O7 of a tick (R174, R283 to R300). -/
def cmpTick (s : State) : State :=
  let s1 := cmpParity (sampleSinks s)
  let fails := (activePorts s1).foldl (fun acc p => acc ||| vecCtx (failVector s1 p)) 0#8
  let cmpd := (activePorts s1).foldl (fun acc p => acc ||| portCmpd s1 p) 0#8
  let s2 := if s1.cmp.present then countTick ((activePorts s1).foldl (fun acc p => portTick p acc) s1)
    else withLive (fun l => { l with uncmp := (l.uncmp + 1) % 2 ^ 48 }) s1
  let s3 := statusTick ((activeGroups s2).foldl (fun acc g => groupTick g acc) s2)
  let fail := if s1.cmp.present then fails else 0#8
  let r : TickResult := { epoch := curEpoch s3, tick := s3.spr.tick, fail := fail, cmpd := cmpd }
  { s3 with cmp := { s3.cmp with results := s3.cmp.results ++ [r] } }

/-! ### The stage (R301, R318) -/

/-- STAGE_WRITE_DONE: the write of the oldest queued record has its response, accepted or not (R301, R318). -/
def stageWriteDone (ok : Bool) (s : State) : State :=
  match s.cmp.queue with
  | [] => s
  | r :: rest =>
    let s1 := { s with cmp := { s.cmp with queue := rest } }
    if ok then { s1 with cmp := { s1.cmp with stage := s1.cmp.stage ++ [r] } }
    else failEpoch r.epoch 1 (report 0x23 3 0 0 (setBit s1 (cmpA 0x58) 1))

def execStageWriteDone (ok : Bool) (s : State) : Out := .next (stageWriteDone ok s)

/-- At an epoch boundary the live state becomes the copy of the ending epoch (R297). -/
def cmpEpochEnd (epoch : Nat) (s : State) : State :=
  { s with cmp := { s.cmp with ended := s.cmp.ended ++ [(epoch, s.cmp.live)] } }

/-- Return to the end of the last committed epoch: live state, stage and results of later epochs (R201, R297). -/
def cmpRestore (j : Nat) (s : State) : State :=
  let s1 := { s with cmp := { s.cmp with
    live := s.cmp.committed
    ended := []
    queue := s.cmp.queue.filter (fun r => r.epoch < j)
    stage := s.cmp.stage.filter (fun r => r.epoch < j)
    results := s.cmp.results.filter (fun r => r.epoch < j) } }
  clrBit s1 (cmpA 0x58) 6

/-- START from Ready: references, first flags and the stop count (R289, R290, R299). -/
def cmpStart (s : State) : State :=
  let o := s.cmp.live
  let l := { o with portRef := [], grpRef := [], grpSeen := [], status := none, stopCount := 0 }
  { s with cmp := { s.cmp with live := l, committed := l, ended := [] } }

/-- START on resume: the stop count is set to 0 at every START (R299). -/
def cmpResume (s : State) : State :=
  let l := { s.cmp.live with stopCount := 0 }
  { s with cmp := { s.cmp with live := l, committed := l, ended := [] } }

/-! ### The acquisition buffer (R304 to R309) -/

def acqStat : Nat := cmpA 0x28
def acqState (s : State) : Nat := rdFld s acqStat 0 3
def setAcqState (n : Nat) (s : State) : State := wrFld s acqStat 0 3 n
/-- C, in records. -/
def acqCap (s : State) : Nat := (rdReg s (cmpA 0x04)).toNat
def acqTotal (s : State) : Nat := (rdReg s (cmpA 0x48)).toNat + 2 ^ 32 * (rdReg s (cmpA 0x4C)).toNat
def wrWord (o n : Nat) (s : State) : State := wrReg s (cmpA o) (BitVec.ofNat 32 n)

/-- ARM (R304). -/
def acqArm (s : State) : State :=
  let c := acqCap s
  let pre := (rdReg s (cmpA 0x14)).toNat
  let clamp := c < pre
  let p := if clamp then c else pre
  let compat := rdBit s (cmpA 0x10) 3
  let s1 := [0x2C, 0x30, 0x34, 0x38, 0x3C, 0x40, 0x48, 0x4C, 0x50, 0x54].foldl (fun acc o => wrWord o 0 acc) s
  let s2 := { s1 with cmp := { s1.cmp with pre := p, post := (rdReg s (cmpA 0x18)).toNat, compat := compat,
                                           postCnt := 0 } }
  let st := if !compat && p = 0 then 2 else 1
  let pend := rdFld s2 acqStat 6 1
  wrReg s2 acqStat (BitVec.ofNat 32 (st + 32 * b2n clamp + 64 * pend))

/-- An accepted trigger fixes H and N (R304, R306); `tick` goes to TTICK. -/
def acqAccept (tick : Nat) (s : State) : State :=
  let c := acqCap s
  let w := acqTotal s
  let h := if s.cmp.compat then min w s.cmp.pre else s.cmp.pre
  let clamp := c - h < s.cmp.post
  let n := if clamp then c - h else s.cmp.post
  let slot := if s.cmp.compat then (if c = 0 then 0 else w % c) else s.cmp.pre
  let s1 := wrWord 0x34 h (wrWord 0x38 n (wrWord 0x3C slot (wrWord 0x2C slot s)))
  let s2 := wr48 (cmpA 0x50) (cmpA 0x54) tick (wrFld s1 acqStat 3 1 (b2n clamp))
  setAcqState (if n = 0 then 4 else 3) s2

/-- A trigger event meets the acquisition state (R308). -/
def acqTrigger (tick : Nat) (s : State) : State :=
  match acqState s with
  | 1 => if s.cmp.compat then acqAccept tick s else setBit s acqStat 4
  | 2 => acqAccept tick s
  | _ => s

/-- A record as 64 bytes (R289), with its sequence number or DUT address in AUX. -/
def recKindCode (k : RecKind) : Nat :=
  match k with
  | .port => 1
  | .probe => 2
  | .status => 3
  | .bmap => 4
  | .lost => 15

def recBytes (dev : Nat) (r : CmpRec) : List Byte :=
  let w := recKindCode r.kind + 2 ^ 4 * r.source + 2 ^ 16 * dev + 2 ^ 28 * b2n r.replay + 2 ^ 29 * b2n r.first +
    2 ^ 30 * b2n r.post + 2 ^ 31 * b2n r.tb0t + 2 ^ 32 * r.tick.toNat + 2 ^ 80 * timeWord r.time +
    2 ^ 176 * r.cmpd.toNat + 2 ^ 192 * r.payload.toNat +
    2 ^ 448 * (if r.kind = .lost then 0 else if r.kind = .bmap then r.aux else r.aux % 65536)
  let body := leBytes 60 w
  body ++ leBytes 4 (crc32 body)

/-- Store a record in a slot of the acquisition buffer. -/
def acqStore (slot : Nat) (r : CmpRec) (s : State) : State :=
  celPut .compare (rdFld s (cmpA 0x08) 0 26 * 1024 + 64 * slot) (recBytes (devAddr s) r) s

/-- Count a record that has entered the buffer; note the contexts it gained (R309, R315). -/
def acqCount (r : CmpRec) (s : State) : State :=
  let n := acqTotal s + 1
  let g := if r.kind = .port then vecCtx r.payload else 0#8
  wr48 (cmpA 0x48) (cmpA 0x4C) (n % 2 ^ 48) { s with cmp := { s.cmp with gained := s.cmp.gained ||| g } }

/-- A record enters the buffer as a pre-trigger record (R304). -/
def acqPre (r : CmpRec) (s : State) : State :=
  let c := acqCap s
  let ring := if s.cmp.compat then c else s.cmp.pre
  if ring = 0 then incFld s (cmpA 0x40) 0 32
  else
    let w := acqTotal s
    let slot := w % ring
    let s1 := acqCount r (acqStore slot { r with aux := w } s)
    let s2 := wrWord 0x2C ((w + 1) % ring) (wrWord 0x30 (if w + 1 ≤ ring then 0 else (w + 1) % ring) s1)
    if !s.cmp.compat && s.cmp.pre ≤ w + 1 then setAcqState 2 s2 else s2

/-- A record enters the buffer as a post-trigger record (R306). -/
def acqPost (r : CmpRec) (s : State) : State :=
  let c := acqCap s
  let n := (rdReg s (cmpA 0x38)).toNat
  let w := acqTotal s
  let slot := (rdReg s (cmpA 0x2C)).toNat
  let s1 := acqCount r (acqStore slot { r with aux := w, post := true } s)
  let next := if s.cmp.compat then (slot + 1) % c else slot + 1
  let s2 := wrWord 0x2C next s1
  let s3 := if s.cmp.compat then wrWord 0x30 (if w + 1 ≤ c then 0 else next) s2 else s2
  let s4 := { s3 with cmp := { s3.cmp with postCnt := s3.cmp.postCnt + 1 } }
  if n ≤ s4.cmp.postCnt then setAcqState 4 s4 else s4

/-- Does a record trigger under TSRC (R307)? Its trigger tick where it does. -/
def recTrigger (s : State) (r : CmpRec) : Option Nat :=
  let tsel := (rdReg s (cmpA 0x1C)).toNat
  let tval := (rdReg s (cmpA 0x20)).toNat + 2 ^ 32 * (rdReg s (cmpA 0x24)).toNat
  match rdFld s (cmpA 0x10) 4 3 with
  | 1 => if r.kind = .port ∧ r.payload ≠ 0#256 then some r.tick.toNat else none
  | 2 => if r.kind = .port ∧ r.payload ≠ 0#256 ∧ r.source = tsel then some r.tick.toNat else none
  | 3 => if tval ≤ r.tick.toNat then some tval else none
  | 5 => if r.kind = .probe ∧ r.source = tsel ∧ r.first = false then some r.tick.toNat else none
  | _ => none

/-- The mover handles one record for the acquisition buffer (R302, R304, R306). -/
def acqRecord (r : CmpRec) (s : State) : State :=
  let s1 := match recTrigger s r with
    | some t => acqTrigger t s
    | none => s
  match acqState s1 with
  | 0 => s1
  | 1 => acqPre r s1
  | 2 => acqPre r s1
  | 3 => acqPost r s1
  | _ => incFld s1 (cmpA 0x40) 0 32

/-- A write of an acquisition control takes effect (R305). ARM, DISARM and TRIG are bits of CMP_ACQ_CTRL. -/
def acqApply (a : Nat) (v : Word) (s : State) : State :=
  if a = cmpA 0x10 then
    let s1 := wrReg s a (v &&& 0x78)
    if bit v 1 then setAcqState 0 s1
    else if bit v 0 then acqArm s1 else s1
  else if a = cmpA 0x1C then wrReg s a (v &&& 0x1FF)
  else if a = cmpA 0x24 then wrReg s a (v &&& 0xFFFF)
  else wrReg s a v

/-- Apply a pending host or GPIO trigger before the first record of an epoch (R307). -/
def acqPending (epoch : Nat) (s : State) : State :=
  if rdBit s acqStat 6 then acqTrigger (epoch * epochLen s) (clrBit s acqStat 6) else s

/-- The mover begins an epoch: pending control writes first, then a pending trigger (R302, R305). -/
def moverBegin (epoch : Nat) (s : State) : State :=
  let s1 := s.cmp.ctlPend.foldl (fun acc q => acqApply q.1 q.2 acc) s
  acqPending epoch { s1 with cmp := { s1.cmp with ctlPend := [], moving := some epoch, gained := 0 } }

/-- The mover takes the next committed epoch when it is idle (R302). -/
def moverNext (s : State) : State :=
  match s.cmp.moving, s.cmp.moveQ with
  | none, e :: rest => moverBegin e { s with cmp := { s.cmp with moveQ := rest } }
  | _, _ => s

/-- Is a cellar byte on a poisoned line (64-byte lines)? -/
def celPoisoned (s : State) (off : Nat) : Bool := linePoison s (off / 64)

/-- The bitmap builder ORs a vector into an entry (R313, R303). -/
def bmapBuild (r : CmpRec) (s : State) : State :=
  let b := fld (portW s r.source 0) 29 2
  let cfg := rdReg s (cmpA (0xE0 + 8 * b))
  let n := 2 ^ fld cfg 5 3
  let a := r.aux % 2 ^ fld cfg 0 5
  let off := rdFld s (cmpA (0xE4 + 8 * b)) 0 26 * 1024 + a * n
  if celPoisoned s off then report 0x22 3 (linePc s (off / 64)) 0 (setBit s (cmpA 0x58) 4)
  else
    let old := (List.range n).map (fun i => mapGet 0#8 s.cel.mem (off + i))
    let add := leBytes n (r.payload.toNat % 2 ^ (8 * n))
    celPut .compare off (List.zipWith (· ||| ·) old add) s

/-- Cellar byte offset of a staged record (R311). -/
def stageOffset (s : State) (r : CmpRec) : Nat := s.cmp.stageBase + (r.epoch % 3) * s.cmp.stageSeg + 64 * r.idx

/-- The mover reads and acts on the next stage record of its epoch (R302, R303). -/
def moverRecord (s : State) : State :=
  match s.cmp.moving with
  | none => s
  | some e =>
    match s.cmp.stage.find? (fun r => r.epoch = e) with
    | none => s
    | some r =>
      let s1 := { s with cmp := { s.cmp with stage := s.cmp.stage.filter (fun x => !(x.epoch = e && x.idx = r.idx)) } }
      if celPoisoned s (stageOffset s r) then
        let lost : CmpRec := { r with kind := .lost, source := 0, tick := s.cmp.lastGood, payload := 0, aux := 0 }
        acqRecord lost (report 0x22 3 (linePc s (stageOffset s r / 64)) 0 (setBit s1 (cmpA 0x58) 3))
      else
        let s2 := { s1 with cmp := { s1.cmp with lastGood := r.tick } }
        if r.kind = .bmap then bmapBuild r s2 else acqRecord r s2

def execMoverRecord (s : State) : Out := .next (moverRecord s)

/-- The mover has read every record of its epoch: a TSRC 3 trigger whose tick the epoch holds is accepted at its
end if no record took it (R307). -/
def moverFinish (e : Nat) (s : State) : State :=
  let tval := (rdReg s (cmpA 0x20)).toNat + 2 ^ 32 * (rdReg s (cmpA 0x24)).toNat
  let s1 := if rdFld s (cmpA 0x10) 4 3 = 3 ∧ tval / epochLen s = e then acqTrigger tval s else s
  { s1 with cmp := { s1.cmp with moving := none } }

/-- A tick result word (R300). -/
def resultWord (r : TickResult) : BitVec 64 :=
  BitVec.ofNat 64 (r.fail.toNat + 2 ^ 8 * r.cmpd.toNat + 2 ^ 16 * r.tick.toNat)

/-- Commit of epoch `k` at the compare engine (R300): results, published state, the mover. -/
def cmpCommit (k : Nat) (s : State) : State :=
  let live := ((s.cmp.ended.find? (fun q => q.1 = k)).map (fun q => q.2)).getD s.cmp.live
  let s1 := { s with
    cmp := { s.cmp with
      committed := live
      ended := s.cmp.ended.filter (fun q => q.1 ≠ k)
      results := s.cmp.results.filter (fun r => r.epoch ≠ k)
      moveQ := s.cmp.moveQ ++ [k] } }
  moverNext (cmpPublish live s1)

/-! ### Control writes of the compare block -/

/-- A write of an acquisition control: at once while the mover is idle and the device is not Running, else when the
mover begins its next epoch (R305). A TRIG becomes pending at once (R307, R325). -/
def acqWrite (a : Nat) (v : Word) (s : State) : State :=
  let idle := s.cmp.moving = none ∧ s.chip.devState ≠ .running
  let trig := a = cmpA 0x10 && bit v 2 && !(bit v 0 && bit v 1)
  let s1 := if idle then acqApply a v s else { s with cmp := { s.cmp with ctlPend := s.cmp.ctlPend ++ [(a, v)] } }
  whenDo trig (fun x => setBit x acqStat 6) s1

/-- May the compare block be written at all (R229)? -/
def cmpOpen (s : State) : Bool := s.chip.shellUp && s.chip.devState ≠ .off

/-- A write of a setting that R286 stages. -/
def cmpStagedWrite (a : Nat) (v : Word) (s : State) : State :=
  let x := v &&& cmpMask a
  match s.chip.devState with
  | .ready | .held => cmpApply a x s
  | .running =>
    if s.spr.pos = .extension then
      { s with cmp := { s.cmp with stagedLater := mapIns (mapDel s.cmp.stagedLater a) a x } }
    else { s with cmp := { s.cmp with staged := mapIns (mapDel s.cmp.staged a) a x } }
  | _ => if cmpOpen s then cmpApply a x s else s

/-- A write of CMP_NOTIFY; EN = 1 with FLOW above 120 is refused (R315). -/
def cmpNotifyRefused (v : Word) : Bool := bit v 15 && 120 < fld v 8 7

end Sys2Proof.Machine
end

