-- ==== Sys2Proof/Machine/Stream.lean ====
section
/-! DEFINITION. Stream ports, the inlet and the stimulus of a tick (R364 to R376, R175, R193). -/

namespace Sys2Proof.Machine

def linkOf (s : State) (l : Nat) : Link := mapGet Link.reset s.lnk l

def putLink (l : Nat) (f : Link → Link) (s : State) : State :=
  { s with lnk := mapSet Link.reset s.lnk l (f (linkOf s l)) }

/-- HSL_LK_CFG.MODE: 1 tree link, 2 stream port (R387). -/
def linkMode (s : State) (l : Nat) : Nat := rdFld s (linkA l 0) 0 2
/-- HSL_LK_STATE.STATE (R346). -/
def linkState (s : State) (l : Nat) : Nat := rdFld s (linkA l 0xC) 0 4

/-- The stream ports of the link map, in increasing number. -/
def streamPorts (s : State) : List Nat := (List.range 64).filter (fun l => linkMode s l = 2)

/-- FBYTES of a port (R366). -/
def portBytes (s : State) (l : Nat) : Nat := rdFld s (linkA l 0x100) 0 12

/-- Inlet depth Q in ticks (R369). -/
def inletDepth (s : State) : Nat := 1048576 / (64 + 64 * rdFld s (sprA 0x64) 8 6)

/-- LIMIT = T_F + Q - 1 (R371). -/
def streamLimit (s : State) : Nat := s.spr.taken + inletDepth s - 1

/-- LIMIT_V: the device is Ready, Running or Held (R371). -/
def limitValid (s : State) : Bool :=
  s.chip.devState = .ready || s.chip.devState = .running || s.chip.devState = .held

/-- Frames held for ticks T_F and above (R372). -/
def portFill (s : State) (l : Nat) : Nat := (linkOf s l).held.countP (fun h => s.spr.taken ≤ h.tick)

def ceilDiv (a b : Nat) : Nat := a / b + b2n (decide (a % b ≠ 0))

/-- PAUSE of a port after its fill has changed (R372). -/
def portPause (s : State) (l : Nat) : Bool :=
  if linkState s l ≠ 8 then false
  else match s.chip.devState with
    | .ready | .running =>
      let q := inletDepth s
      let wm := rdReg s (linkA l 0x104)
      let fill := portFill s l
      if ceilDiv (fld wm 0 4 * q) 16 ≤ fill then true
      else if fill ≤ ceilDiv (fld wm 8 4 * q) 16 then false
      else rdBit s (linkA l 0x108) 16
    | _ => true

/-- The stream registers follow the inlet (R392). -/
def portShow (l : Nat) (s : State) : State :=
  let pause := portPause s l
  let s1 := wrReg s (linkA l 0x108) (BitVec.ofNat 32 (portFill s l % 65536 + 65536 * b2n pause))
  wr48 (linkA l 0x10C) (linkA l 0x110) (streamLimit s) s1

def showPorts (s : State) : State := (streamPorts s).foldl (fun acc l => portShow l acc) s

/-! ### Arriving frames (R370) -/

/-- Count an event of a port and set its flag (R370, R390). -/
def portCount (l o flag : Nat) (s : State) : State := incFld (setBit s (linkA l 0x14) flag) (linkA l o) 0 32

/-- As `portCount`, for the events that HSL_LK_ERR.EXCESS and LATE_FRAME signal to the host (R370). -/
def portAlarm (l o flag : Nat) (s : State) : State := hostEvent 4 (portCount l o flag s)

/-- A damaged frame of a known tick: counted, and its pending bit set inside the inlet window (R370, R374). -/
def frameDamaged (l : Nat) (tick : Option Nat) (s : State) : State :=
  let s1 := portCount l 0x11C 10 s
  match tick with
  | none => s1
  | some n =>
    if s1.spr.taken ≤ n ∧ n ≤ streamLimit s1 then
      putLink l (fun k => { k with damaged := if k.damaged.contains n then k.damaged else k.damaged ++ [n] }) s1
    else s1

/-- A complete frame meets the table of R370. -/
def frameArrives (l : Nat) (f : PartFrame) (s : State) : State :=
  if f.fbytes ≠ portBytes s l then frameDamaged l (some f.tick) s
  else if !limitValid s then portAlarm l 0x114 8 s
  else if f.tick < s.spr.taken then portAlarm l 0x118 9 s
  else if streamLimit s < f.tick then portAlarm l 0x114 8 s
  else
    let h : HeldFrame := { tick := f.tick, bytes := f.data.take f.fbytes, control := f.control }
    portShow l (putLink l (fun k => { k with
      held := k.held.filter (fun x => x.tick ≠ f.tick) ++ [h]
      damaged := k.damaged.filter (fun x => x ≠ f.tick) }) s)

/-- DATA flits of a frame (R364). -/
def frameFlits (fbytes : Nat) : Nat := ceilDiv fbytes 28

/-- A START or DATA flit arrives out of sequence, or a frame is cut short: the frame in progress is damaged. -/
def dropPart (l : Nat) (s : State) : State :=
  match (linkOf s l).part with
  | some f => frameDamaged l (some f.tick) (putLink l (fun k => { k with part := none }) s)
  | none => s

/-- The lane that carried a flit reports its failure (R357, R386, R620). -/
def laneFault (lane kind : Nat) (s : State) : State :=
  report kind 2 lane (rdFld s (laneA lane 4) 10 5) s

/-- A stream flit that failed its CRC (R357). -/
def streamCrc (l lane : Nat) (tick : Option Nat) (s : State) : State :=
  let s1 := incFld (setBit s (linkA l 0x14) 1) (laneA lane 8) 0 32
  let s2 := match (linkOf s1 l).part with
    | some _ => dropPart l s1
    | none => frameDamaged l tick s1
  failNow 1 (laneFault lane 0x18 s2)

/-- A gap in the STREAM sequence (R370, R390): the frame in progress is damaged. -/
def streamSeq (l seq : Nat) (s : State) : State :=
  let k := linkOf s l
  let gap := seq ≠ k.rxStream
  let s1 := whenDo gap (fun x => dropPart l (setBit x (linkA l 0x14) 3)) s
  putLink l (fun k => { k with rxStream := (seq + 1) % 2048 }) s1

/-- A stream port receives flits only while it is UP. -/
def portUp (s : State) (l : Nat) : Bool := l < 64 && linkMode s l = 2 && linkState s l = 8

/-- STREAM_START (R364, R370): `good` is the flit's CRC, `lane` the lane that carried it. -/
def streamStart (l seq tick fbytes : Nat) (control : BitVec 64) (lane : Nat) (good : Bool) (s : State) :
    State :=
  if !portUp s l then s
  else if !good then streamCrc l lane none s
  else
    let s1 := dropPart l (streamSeq l seq s)
    let f : PartFrame := { tick := tick % 2 ^ 48, fbytes := fbytes % 4096, control := control, data := [] }
    if frameFlits f.fbytes = 0 then frameArrives l f s1
    else putLink l (fun k => { k with part := some f }) s1

def execStreamStart (l seq tick fbytes : Nat) (control : BitVec 64) (lane : Nat) (good : Bool) (s : State) : Out :=
  .next (streamStart l seq tick fbytes control lane good s)

/-- STREAM_DATA (R364, R370): the last flit completes the frame. -/
def streamData (l seq : Nat) (bytes : List Byte) (lane : Nat) (good : Bool) (s : State) : State :=
  if !portUp s l then s
  else if !good then streamCrc l lane none s
  else
    let s1 := streamSeq l seq s
    match (linkOf s1 l).part with
    | none => s1
    | some f =>
      let g := { f with data := f.data ++ (bytes ++ List.replicate 28 0#8).take 28 }
      if frameFlits f.fbytes * 28 ≤ g.data.length then
        frameArrives l g (putLink l (fun k => { k with part := none }) s1)
      else putLink l (fun k => { k with part := some g }) s1

def execStreamData (l seq : Nat) (bytes : List Byte) (lane : Nat) (good : Bool) (s : State) : Out :=
  .next (streamData l seq bytes lane good s)

/-! ### The stimulus of a tick (R153, R175, R366, R368) -/

/-- Bit `x` of a list of bytes. -/
def frameBit (bytes : List Byte) (x : Nat) : Bool := (bytes.getD (x / 8) 0#8).getLsbD (x % 8)

/-- The destination bits that one field of a frame writes (R366). -/
def fieldBits (bytes : List Byte) (f : StreamField) : List (Nat × Ctx) :=
  (List.range f.count).map (fun i =>
    (f.dfirst + i,
     if f.bcast then tickWide (frameBit bytes (f.fbit + i))
     else ctxOf (fun c => frameBit bytes (f.fbit + 8 * i + c))))

/-- Byte offset of each port's frame within the inlet record (R368). -/
def portOffset (s : State) (l : Nat) : Nat :=
  ((streamPorts s).filter (fun k => k < l)).foldl (fun acc k => acc + portBytes s k) 0

/-- All destination bits of a kind in the frame data of an inlet record. -/
def destBits (s : State) (data : List Byte) (kind : Nat) : SMap Ctx :=
  (streamPorts s).foldl (fun acc l =>
    let bytes := (data.drop (portOffset s l)).take (portBytes s l)
    ((linkOf s l).fields.filter (fun f => f.dkind = kind)).foldl
      (fun a f => mapSetAll 0 a (fieldBits bytes f)) acc) []

/-- Place the stimulus of a tick: inlet bits, response bits and compare enables; none when the tick is absent. -/
def placeStimulus (data : Option (List Byte)) (s : State) : State :=
  match data with
  | none => { s with cl := { s.cl with inlet := [] }, cmp := { s.cmp with present := false, rsp := [], ce := [] } }
  | some d =>
    { s with
      cl := { s.cl with inlet := destBits s d 0 }
      cmp := { s.cmp with present := true, rsp := destBits s d 1, ce := destBits s d 2 } }

/-- The frames of every port for tick `n`, concatenated, with the control word (R368); none if one is missing. -/
def frameFor (s : State) (n : Nat) : Option (List Byte × BitVec 64) :=
  let ports := streamPorts s
  let got := ports.map (fun l => ((linkOf s l).held.find? (fun h => h.tick = n)).map (fun h => (l, h)))
  if got.any (fun g => g.isNone) then none
  else
    let hs := got.filterMap id
    let ctl := (hs.find? (fun q => rdBit s (linkA q.1 0x100) 12)).orElse (fun _ => hs.head?)
    some (hs.flatMap (fun q => q.2.bytes), (ctl.map (fun q => q.2.control)).getD 0)

/-- Drop the frames held for ticks that have been taken (R175, R374). -/
def dropTaken (s : State) : State :=
  (streamPorts s).foldl (fun acc l => putLink l (fun k => { k with
    held := k.held.filter (fun h => acc.spr.taken ≤ h.tick)
    damaged := k.damaged.filter (fun x => acc.spr.taken ≤ x) }) acc) s

/-- The logged record of a tick (R175). -/
def loggedTick (s : State) (n : Nat) : Option InletRec := s.spr.inletLog.find? (fun r => r.tick = n)

/-- The inlet takes the stimulus of tick `n`: the held frame in a first run, which is then logged; the logged frame
or absence in a replay (R175, R202, R209). -/
def inletTake (n : Nat) (s : State) : State :=
  match loggedTick s n with
  | some r => placeStimulus r.frame s
  | none =>
    let f := frameFor s n
    let r : InletRec := { tick := n, frame := f.map (fun q => q.1), control := (f.map (fun q => q.2)).getD 0 }
    let s1 := { s with spr := { s.spr with inletLog := s.spr.inletLog ++ [r], taken := s.spr.taken + 1, logged := true } }
    showPorts (dropTaken (placeStimulus r.frame s1))

/-- The decision field of the control port in a tick's frame, at the root (R365). -/
def decisionField (s : State) (n : Nat) : Option (BitVec 16) :=
  if (streamPorts s).any (fun l => rdBit s (linkA l 0x100) 12) then
    match loggedTick s n with
    | some r => if r.frame.isSome ∧ r.control.getLsbD 16 then some (r.control.setWidth 16) else none
    | none => none
  else none

end Sys2Proof.Machine
end

