-- ==== Sys2Proof/Machine/Safe.lean ====
section
/-! DEFINITION. The entry to Safe (R632), which every unit can cause. -/

namespace Sys2Proof.Machine

/-- SPR_STATUS.PHASE code (R214). -/
def phaseCode (p : Phase) : Nat :=
  match p with
  | .notRunning => 0
  | .firstRun => 1
  | .replay => 2
  | .rollback => 3
  | .stopping => 4
  | .held => 5

/-- A change of SPR_STATUS.PHASE signals the SPR event (R703). -/
def setPhase (p : Phase) (s : State) : State :=
  if s.spr.phase = p then s
  else hostEvent 7 (wrFld { s with spr := { s.spr with phase := p } } (sprA 4) 0 3 (phaseCode p))

/-- Causes of Safe (R636). -/
inductive SafeCause where
  | scrub | rom | watchdog | noSpare | notSpared | clock | boot | thermal
deriving DecidableEq, Repr

def safeCode (c : SafeCause) : Nat :=
  match c with
  | .scrub => 1
  | .rom => 2
  | .watchdog => 3
  | .noSpare => 4
  | .notSpared => 5
  | .clock => 6
  | .boot => 7
  | .thermal => 8

/-- Every pulse output is driven low and every generator disarmed (R447). -/
def pulsesLow (s : State) : State :=
  let s1 := (List.range 8).foldl (fun acc n => clrBit (clrBit acc (timA (0x21C + 32 * n)) 0) (timA (0x21C + 32 * n)) 6) s
  { s1 with tim := { s1.tim with gens := s1.tim.gens.map (fun q => (q.1, { q.2 with high := false })) } }

/-- Entry to Safe (R632): FAULT_N, the cause and the unit, a log entry, the ATT event, and FAIL with cause Safe
(R205). Ticks stop. The device states Off and Safe do not enter it (R226). -/
def enterSafe (cause : SafeCause) (cls unit kind : Nat) (s : State) : State :=
  if s.chip.devState = .off ∨ s.chip.devState = .safe then s
  else
    let running := s.chip.devState = .running
    let s1 := wrFld (wrFld s (attA 0) 8 4 (safeCode cause)) (attA 0) 6 1 1
    let s2 := wrReg s1 (attA 4) (BitVec.ofNat 32 (cls + 16 * unit + 2 ^ 16 * kind))
    let s3 := attLog { outcome := 3, cls := cls, unit := unit, kind := 0x42, resp := 5, n := 0, detail := 0 } s2
    let s4 := if running then failNow 8 s3 else s3
    let s5 := { s4 with
      chip := { s4.chip with devState := .safe }
      att := { s4.att with lockUntil := none }
      spr := { s4.spr with pos := .idle, armed := false } }
    hostEvent 0 (pulsesLow s5)

/-- Entry to Safe by an event for which the spec states no kind, and in places no class or no unit, of ATT_SAFE_UNIT
(R637): what is not given is a free value. -/
def enterSafeOpen (cause : SafeCause) (cls unit : Option Nat) (s : State) : State :=
  if s.chip.devState = .off ∨ s.chip.devState = .safe then s
  else
    let (n, s1) := takeFree s
    enterSafe cause (cls.getD (n % 16)) (unit.getD (n / 16 % 4096)) (n / 65536 % 256) s1

end Sys2Proof.Machine
end

