-- ==== Sys2Proof/Machine/Flags.lean ====
section
/-! DEFINITION. Flag and result computations of the word engines (R94) over 32-bit operands. -/

namespace Sys2Proof.Machine

/-- A + B + cin and the carry out. -/
def addCarry (a b : Word) (cin : Bool) : Word × Bool :=
  let x := a.toNat + b.toNat + b2n cin
  (BitVec.ofNat 32 x, 2 ^ 32 ≤ x)

/-- S = A + NOT B + cin and its carry out (R94). -/
def subCarry (a b : Word) (cin : Bool) : Word × Bool := addCarry a (~~~ b) cin

/-- Signed overflow of S (R94): the operands A and NOT B agree in sign and S does not. -/
def subOverflow (a b s : Word) : Bool := a.msb == (~~~ b).msb && s.msb != a.msb

/-- N XOR V of S (R94). -/
def signedLess (a b : Word) (cin : Bool) : Bool :=
  let s := (subCarry a b cin).1
  s.msb != subOverflow a b s

/-- Rotate left by B[4:0]. -/
def rol32 (a b : Word) : Word := a.rotateLeft (b.toNat % 32)

/-- Number of 1 bits. -/
def popc32 (a : Word) : Word := BitVec.ofNat 32 ((List.range 32).countP (fun i => a.getLsbD i))

/-- Number of leading 0 bits; 32 for zero. -/
def clz32 (a : Word) : Word :=
  BitVec.ofNat 32 (((List.range 32).find? (fun i => a.getLsbD (31 - i))).getD 32)

/-- Product of two 32-bit operands in 72 bits, signed or unsigned (R103). -/
def mul72 (signed : Bool) (a b : Word) : BitVec 72 :=
  if signed then BitVec.ofInt 72 (a.toInt * b.toInt) else BitVec.ofNat 72 (a.toNat * b.toNat)

end Sys2Proof.Machine
end

