-- ==== Sys2Proof/Machine/StoreRoom.lean ====
section
/-! DEFINITION. Store rooms and the page manager (R109 to R123) and the undo log that their writes feed (R116, R194,
R195). -/

namespace Sys2Proof.Machine

/-! ### Geometry (R109, R118) -/

/-- Padded width P of a room of width W. -/
def padWidth (w : Nat) : Nat :=
  if w ≤ 1 then 1 else if w ≤ 2 then 2 else if w ≤ 4 then 4 else if w ≤ 8 then 8
  else if w ≤ 16 then 16 else if w ≤ 32 then 32 else 64

def roomShared (s : State) (p r : Nat) : Bool := bit (roomCfg s p r) 8
def roomPaged (s : State) (p r : Nat) : Bool := bit (roomCfg s p r) 9
/-- Backing array in bytes (R118). -/
def roomBytes (s : State) (p r : Nat) : Nat := 2 ^ fld (roomCfg s p r) 16 6

/-- Entries that one access addresses: the whole room or array in shared mode, one context's part otherwise. -/
def roomEntries (s : State) (p r : Nat) : Nat :=
  let pw := padWidth (roomWidth s p r)
  let bits := if roomPaged s p r then 8 * roomBytes s p r else 262144
  (if roomShared s p r then bits else bits / 8) / pw

/-- Where an entry lies: its page and offset for a paged room (page 0 otherwise), its identity for the undo log,
its context's first bit in the room. -/
structure EntryPos where
  page : Nat
  /-- Bit offset within the page, or within the room where the room is not paged. -/
  bitOfs : Nat
  /-- Address as the undo record names it (R194). -/
  addr : Nat
deriving DecidableEq, Repr

/-- Position of entry `a` (already reduced to the address bits) for context `c`. -/
def entryPos (s : State) (p r c a : Nat) : EntryPos :=
  let pw := padWidth (roomWidth s p r)
  let bits := (if roomShared s p r then 0 else c * roomEntries s p r * pw) + a * pw
  if roomPaged s p r then { page := bits / 8192, bitOfs := bits % 8192, addr := bits % 8192 / pw }
  else { page := 0, bitOfs := bits, addr := bits / pw }

/-! ### Rows and their SECDED (R115) -/

/-- A row as a read finds it: data, corrected, uncorrectable. -/
def rowRead (s : State) (k : Nat) : BitVec 64 × Bool × Bool :=
  let v := mapGet 0#64 s.cl.rows k
  let f := mapGet [] s.cl.rowFlips k
  if mapGet false s.cl.rowBad k then (flipBits v f, false, true) else secded v f

/-- Replace bits [lo + n - 1 : lo] of a row. -/
def rowMerge (v : BitVec 64) (lo n : Nat) (x : BitVec 64) : BitVec 64 :=
  let mask := BitVec.ofNat 64 ((2 ^ n - 1) <<< lo)
  (v &&& ~~~ mask) ||| ((x <<< lo) &&& mask)

/-- Write `n` bits of a row at `lo` as the table of R115 states. -/
def rowWrite (k lo n : Nat) (x : BitVec 64) (s : State) : State :=
  let (v, _, unc) := rowRead s k
  let full := n = 64
  let new := rowMerge v lo n x
  { s with cl := { s.cl with
    rows := mapSet 0 s.cl.rows k new
    rowFlips := mapDel s.cl.rowFlips k
    rowBad := mapSet false s.cl.rowBad k (unc && !full) } }

/-- Remember a row before the first write of a step, so that reads of the step see it (R111). -/
def rowKeep (k t : Nat) (s : State) : State :=
  let h := k * 1024 + t
  match mapGet none s.cl.rowOld h with
  | some _ => s
  | none =>
    let v := (rowRead s k).1
    { s with cl := { s.cl with rowOld := mapSet none s.cl.rowOld h (some v) } }

/-- The content of a row that a read at step `t` returns (R111). -/
def rowAt (s : State) (k t : Nat) : BitVec 64 × Bool × Bool :=
  match mapGet none s.cl.rowOld (k * 1024 + t) with
  | some v => (v, false, false)
  | none => rowRead s k

/-! ### Flags of STR_STATUS -/

def strA (p r : Nat) : Nat := wenA p r 0x2808

/-- A failing flag of STR_STATUS that is a fault of the cluster (R127, R620). -/
def strFlag (p r flag kind : Nat) (s : State) : State := reportFail kind 0 p 0 (setBit s (strA p r) flag)

/-- What a row access met: a correction counted in ECC_CNT, an uncorrectable error (R115). -/
def rowEvents (p r : Nat) (corr unc : Bool) (s : State) : State :=
  whenDo unc (strFlag p r 2 0x06) (whenDo corr (fun x => incFld x (strA p r) 16 16) s)

/-! ### Frames (R118 to R122) -/

def framesOf (s : State) (p r : Nat) : List Frame := mapGet [] s.cl.frames (kRoom p r)

def putFrames (p r : Nat) (l : List Frame) (s : State) : State :=
  let s1 := { s with cl := { s.cl with frames := mapSet [] s.cl.frames (kRoom p r) l } }
  wrFld s1 (strA p r) 8 6 (l.countP (fun f => !f.filling))

/-- The resident frame of a page. -/
def residentFrame (s : State) (p r page : Nat) : Option Frame :=
  (framesOf s p r).find? (fun f => f.page = page ∧ f.filling = false)

/-- An epoch that has not committed. -/
def uncommitted (s : State) (e : Option Nat) : Bool :=
  match e with
  | some k => s.spr.commit.toNat ≤ k
  | none => false

/-- A pinned frame (R120). -/
def framePinned (s : State) (f : Frame) : Bool := f.filling || uncommitted s f.wEpoch || uncommitted s f.pinFill

/-- Frame positions that context `c` of a room may use (R118). -/
def frameSlots (s : State) (p r c : Nat) : List Nat :=
  if roomShared s p r then List.range 32 else (List.range 4).map (fun i => 4 * c + i)

/-- First row of a frame in the room. -/
def frameRow (p r idx : Nat) : Nat := kRow p r (128 * idx)

/-- Cellar byte offset of a page of a room's backing array (R135). -/
def pageOffset (s : State) (p r page : Nat) : Nat := (rdFld s (wenA p r 0x2804) 0 26 + page) * 1024

/-- Write the rows of a frame back to the backing array (R120, R122). -/
def writeBack (p r : Nat) (f : Frame) (s : State) : State :=
  let base := pageOffset s p r f.page
  celPut .pageWrite base ((List.range 128).flatMap (fun i => leBytes 8 (rowRead s (frameRow p r f.idx + i)).1.toNat)) s

/-- A speculative cellar read issued in an epoch opens an alarm window (R22, R121, R575). -/
def openAlarm (epoch : Nat) (s : State) : State :=
  { s with spr := { s.spr with alarms := mapSet 0 s.spr.alarms epoch (mapGet 0 s.spr.alarms epoch + 1) } }

/-- The page manager handles a miss of a page in the current epoch (R120). -/
def pageMiss (p r c page : Nat) (s : State) : State :=
  let fs := framesOf s p r
  if fs.any (fun f => f.page = page && f.filling) then s
  else
    let slots := frameSlots s p r c
    let epoch := curEpoch s
    let new := fun (i : Nat) => ({ idx := i, ctx := c, page := page, filling := true, dirty := false, wEpoch := none,
                                   pinFill := some epoch, lru := s.cl.lruClock } : Frame)
    let fill := fun (i : Nat) (x : State) =>
      incFld (putFrames p r ((framesOf x p r).filter (fun f => f.idx ≠ i) ++ [new i]) (openAlarm epoch x))
        (wenA p r 0x2810) 0 32
    match slots.find? (fun i => !fs.any (fun f => f.idx = i)) with
    | some i => fill i s
    | none =>
      match (fs.filter (fun f => slots.contains f.idx && !framePinned s f)) with
      | [] => failNow 5 (setBit s (strA p r) 1)
      | f :: rest =>
        let v := rest.foldl (fun b x => if x.lru < b.lru then x else b) f
        fill v.idx (whenDo v.dirty (writeBack p r v) s)

/-- A paged access that misses some pages: counted once, the epoch fails, each page is handled (R119, R120). -/
def accessMiss (p r : Nat) (missing : List (Nat × Nat)) (s : State) : State :=
  if missing = [] then s else
  let s1 := incFld (setBit s (strA p r) 0) (wenA p r 0x280C) 0 32
  missing.foldl (fun acc q => pageMiss p r q.1 q.2 acc) (failNow 2 s1)

/-- Note an access to a frame for the replacement order (R120). -/
def touchFrame (p r idx : Nat) (wrote : Bool) (s : State) : State :=
  let e := curEpoch s
  let s1 := { s with cl := { s.cl with lruClock := s.cl.lruClock + 1 } }
  putFrames p r ((framesOf s p r).map (fun f => if f.idx = idx then
    { f with lru := s1.cl.lruClock, dirty := f.dirty || wrote, wEpoch := if wrote then some e else f.wEpoch }
    else f)) s1

/-- The row and bit of an entry, with the frame that holds it where the room is paged; none on a miss. -/
def locate (s : State) (p r : Nat) (e : EntryPos) : Option (Nat × Nat × Option Nat) :=
  if roomPaged s p r then
    (residentFrame s p r e.page).map (fun f => (frameRow p r f.idx + e.bitOfs / 64, e.bitOfs % 64, some f.idx))
  else some (kRow p r (e.bitOfs / 64), e.bitOfs % 64, none)

/-! ### The undo log (R116, R194, R195) -/

/-- Is this entry already recorded in the current epoch? -/
def undoHas (s : State) (m r : Nat) (e : EntryPos) : Bool :=
  s.cl.undo.any (fun u => u.epoch = curEpoch s && u.cluster = m && u.room = r && u.page =
    (if roomPaged s (physOf s m) r then e.page else e.addr) &&
    (u.ofs = if roomPaged s (physOf s m) r then e.addr else 0))

/-- Undo records of an epoch. -/
def undoCount (s : State) (epoch : Nat) : Nat := s.cl.undo.countP (fun u => u.epoch = epoch)

/-- Records waiting in a cluster's queue at step `t`: one is forwarded per step (R195). -/
def undoQueued (s : State) (m t : Nat) : Nat :=
  let q := mapGet (0, 0) s.cl.undoQ m
  q.1 - (t - q.2)

/-- Is there room for `n` more records at step `t` (R195)? -/
def undoFits (s : State) (m t n : Nat) : Bool :=
  undoQueued s m t + n ≤ 256 && s.cl.undoBuf + n ≤ 65536 && undoCount s (curEpoch s) + n ≤ 524288

/-- Make the undo record of an entry with its content before the write. -/
def undoPush (m r t : Nat) (e : EntryPos) (old : BitVec 64) (s : State) : State :=
  let paged := roomPaged s (physOf s m) r
  let u : UndoRec := { epoch := curEpoch s, cluster := m, room := r, paged := paged,
                       page := if paged then e.page else e.addr, ofs := if paged then e.addr else 0, old := old }
  let s1 := { s with cl := { s.cl with
    undo := u :: s.cl.undo
    undoQ := mapSet (0, 0) s.cl.undoQ m (undoQueued s m t + 1, t)
    undoBuf := s.cl.undoBuf + 1 } }
  let n := undoCount s1 (curEpoch s1)
  let s2 := wrFld s1 (sprA 0x58) 0 20 n
  if rdFld s2 (sprA 0x5C) 0 20 < n then wrFld s2 (sprA 0x5C) 0 20 n else s2

/-! ### Accesses from word engines (R110 to R114) -/

/-- Lowest context for which `f` holds. -/
def lowestCtx (f : Nat → Bool) : Option Nat := (List.range 8).find? f

/-- Contexts that an access uses and the one whose address each takes: every context in private mode, the selected
one in shared mode (R112, R113). -/
def readCtxs (s : State) (p r : Nat) : List Nat :=
  if roomShared s p r then (lowestCtx (fun c => s.spr.cen.getLsbD c)).toList else List.range 8

/-- Do enabled contexts of a shared room differ in what `f` gives them (R113)? -/
def diverges (s : State) (f : Nat → Nat) : Bool :=
  let en := (List.range 8).filter (fun c => s.spr.cen.getLsbD c)
  match en with
  | [] => false
  | c :: cs => cs.any (fun d => f d ≠ f c)

/-- A store-room read at step `t` (R110 to R115, R119): the values per context and the state with its flags. -/
def roomRead (m r t : Nat) (addr : Nat → Word) (s : State) : List (BitVec 64) × State :=
  let p := physOf s m
  let w := roomWidth s p r
  let n := roomEntries s p r
  let shared := roomShared s p r
  let cs := readCtxs s p r
  let one := fun (c : Nat) =>
    let e := entryPos s p r c ((addr c).toNat % n)
    (e, locate s p r e)
  let val := fun (c : Nat) =>
    match (one c).2 with
    | some (k, lo, _) =>
      let (row, corr, unc) := rowAt s k t
      (BitVec.ofNat 64 ((row.toNat >>> lo) % 2 ^ w), corr, unc)
    | none => (0#64, false, false)
  let missing := cs.filterMap (fun c => if (one c).2 = none then some (c, (one c).1.page) else none)
  let s1 := whenDo (shared && diverges s (fun c => (addr c).toNat)) (fun x => setBit x (strA p r) 3) s
  let s2 := whenDo (cs.any (fun c => n ≤ (addr c).toNat)) (fun x => setBit x (strA p r) 4) s1
  let s3 := cs.foldl (fun acc c => rowEvents p r (val c).2.1 (val c).2.2 acc) s2
  let s4 := cs.foldl (fun acc c => match (one c).2 with
    | some (_, _, some i) => touchFrame p r i false acc
    | _ => acc) s3
  let vals := if shared then
      (match cs with
       | c :: _ => List.replicate 8 (val c).1
       | [] => List.replicate 8 0#64)
    else (List.range 8).map (fun c => (val c).1)
  (vals, accessMiss p r missing s4)

/-- One context's write of an entry (R111, R115, R116): port 1 wins over port 0 in the same step. -/
def writeEntry (m r q t : Nat) (e : EntryPos) (loc : Nat × Nat × Option Nat) (x : BitVec 64) (s : State) :
    State :=
  let p := physOf s m
  let (k, lo, fr) := loc
  let key := (k * 64 + lo) * 1024 + t
  let s1 := match fr with
    | some i => touchFrame p r i true s
    | none => s
  if q = 0 ∧ mapGet false s1.cl.port1Wr key then s1
  else
    let w := roomWidth s1 p r
    let (row, corr, unc) := rowRead s1 k
    let old := BitVec.ofNat 64 ((row.toNat >>> lo) % 2 ^ w)
    let s2 := if undoHas s1 m r e then s1 else undoPush m r t e old s1
    let s3 := if padWidth w = 64 ∧ w = 64 then s2 else rowEvents p r corr unc s2
    let s4 := rowWrite k lo w x (rowKeep k t s3)
    if q = 1 then { s4 with cl := { s4.cl with port1Wr := mapSet false s4.cl.port1Wr key true } } else s4

/-- A store-room write at step `t` on port `q` (R110 to R116, R119, R195). `en` is bit 0 of the enable register. -/
def roomWrite (m r q t : Nat) (addr : Nat → Word) (data : Nat → BitVec 64) (en : Nat → Bool) (s : State) :
    State :=
  let p := physOf s m
  let n := roomEntries s p r
  let shared := roomShared s p r
  let on := fun (c : Nat) => s.spr.cen.getLsbD c && en c
  let cs := if shared then (lowestCtx on).toList else (List.range 8).filter on
  let div := shared && diverges s (fun c => ((addr c).toNat * 2 ^ 64 + (data c).toNat) * 2 + b2n (en c))
  let pos := fun (c : Nat) => entryPos s p r c ((addr c).toNat % n)
  let missing := cs.filterMap (fun c => if locate s p r (pos c) = none then some (c, (pos c).page) else none)
  let hits := cs.filterMap (fun c => (locate s p r (pos c)).map (fun l => (c, pos c, l)))
  let due := (hits.filter (fun h => !undoHas s m r h.2.1)).length
  let s1 := whenDo div (fun x => setBit x (strA p r) 3) s
  let s2 := whenDo (cs.any (fun c => n ≤ (addr c).toNat)) (fun x => setBit x (strA p r) 4) s1
  let s3 := if undoFits s m t due then
      hits.foldl (fun acc h => writeEntry m r q t h.2.1 h.2.2 (data h.1) acc) s2
    else failNow 5 (setBit s2 (sprA 0x04) 10)
  accessMiss p r missing s3

/-! ### Events of the page manager -/

/-- Rows of a frame filled from the backing array (R120, R121). -/
def fillRows (p r : Nat) (f : Frame) (s : State) : State :=
  let base := pageOffset s p r f.page
  (List.range 128).foldl (fun acc i =>
    let bytes := (List.range 8).map (fun j => mapGet 0#8 s.cel.mem (base + 8 * i + j))
    rowWrite (frameRow p r f.idx + i) 0 64 (BitVec.ofNat 64 (leNat bytes)) acc) s

/-- PAGE_FILL_DONE: a requested fill of a page completes into its frame (R121). -/
def pageFillDone (m r page : Nat) (s : State) : State :=
  let p := physOf s m
  match (framesOf s p r).find? (fun f => f.page = page ∧ f.filling = true) with
  | none => s
  | some f =>
    let s1 := fillRows p r f s
    putFrames p r ((framesOf s1 p r).map (fun g => if g.idx = f.idx then { g with filling := false } else g)) s1

def execPageFillDone (m r page : Nat) (s : State) : Out :=
  .next (if m < 256 ∧ r < 4 then pageFillDone m r page s else s)

end Sys2Proof.Machine
end

