-- ==== Sys2Proof/Machine/WordEngine.lean ====
section
/-! DEFINITION. Word engines, carry chains and MAC slices (chapter 03). -/

namespace Sys2Proof.Machine

/-- The opcodes of the word engine (R94). -/
inductive WeOp where
  | oNop | oAdd | oSub | oMov | oAnd | oOr | oXor | oAndn | oShl | oShr | oSar | oRol | oPopc
  | oClz | oSel | oCeq | oCne | oCltu | oCgeu | oClts | oCges | oMul | oMac | oMacc | oSrd | oSwr
deriving DecidableEq, Repr

/-! ### The instruction word (R92) -/

def weCode (w : BitVec 64) : Nat := fld w 58 6
def weRd (w : BitVec 64) : Nat := fld w 54 4
def weWr (w : BitVec 64) : Bool := w.getLsbD 53
def weCin (w : BitVec 64) : Nat := fld w 51 2
def weCout (w : BitVec 64) : Bool := w.getLsbD 50
def weSa (w : BitVec 64) : Nat := fld w 42 8
def weSb (w : BitVec 64) : Nat := fld w 34 8
def weImm (w : BitVec 64) : Word := w.setWidth 32

/-- The opcode that a code names; none where it is reserved (R94). -/
def weOpOf (code : Nat) : Option WeOp :=
  match code with
  | 0x00 => some .oNop
  | 0x01 => some .oAdd
  | 0x02 => some .oSub
  | 0x03 => some .oMov
  | 0x04 => some .oAnd
  | 0x05 => some .oOr
  | 0x06 => some .oXor
  | 0x07 => some .oAndn
  | 0x08 => some .oShl
  | 0x09 => some .oShr
  | 0x0A => some .oSar
  | 0x0B => some .oRol
  | 0x0C => some .oPopc
  | 0x0D => some .oClz
  | 0x0E => some .oSel
  | 0x10 => some .oCeq
  | 0x11 => some .oCne
  | 0x12 => some .oCltu
  | 0x13 => some .oCgeu
  | 0x14 => some .oClts
  | 0x15 => some .oCges
  | 0x18 => some .oMul
  | 0x19 => some .oMac
  | 0x1A => some .oMacc
  | 0x1C => some .oSrd
  | 0x1D => some .oSwr
  | _ => none

/-- Does the opcode use operands A and B (R94, R110)? -/
def weUses (o : WeOp) : Bool × Bool :=
  match o with
  | .oNop => (false, false)
  | .oMov | .oPopc | .oClz | .oSrd => (true, false)
  | _ => (true, true)

def isCompare (o : WeOp) : Bool :=
  match o with
  | .oCeq | .oCne | .oCltu | .oCgeu | .oClts | .oCges => true
  | _ => false

def isMac (o : WeOp) : Bool :=
  match o with
  | .oMul | .oMac | .oMacc => true
  | _ => false

def isRoomOp (o : WeOp) : Bool :=
  match o with
  | .oSrd | .oSwr => true
  | _ => false

/-- Kind of a chained instruction (R100). -/
def chainKind (o : WeOp) : ChainKind :=
  match o with
  | .oAdd => .add
  | .oSub => .sub
  | _ => .cmp

/-- Reserved source codes (R93). -/
def srcReserved (code : Nat) : Bool :=
  !(code < 0x19 || (0x20 ≤ code && code < 0x38) || (0x38 ≤ code && code < 0x40 && code % 4 ≠ 3) ||
    (0x40 ≤ code && code ≤ 0x42))

/-- IMM bits that an instruction may use (R92, R103, R110). -/
def immAllowed (o : WeOp) (w : BitVec 64) (width : Nat) : Word :=
  if isMac o then 3
  else if o = .oSrd then 7
  else if o = .oSwr then (if 32 < width then 0xF7 else 7)
  else if ((weUses o).1 && weSa w = 0x18) || ((weUses o).2 && weSb w = 0x18) then 0xFFFFFFFF
  else 0

/-- The encodings of a known opcode that R99 refuses, apart from reserved source codes; `width` is the width of the
room that IMM names. -/
def weRefused (o : WeOp) (w : BitVec 64) (width : Nat) : Bool :=
  let (ua, ub) := weUses o
  let arith := o = .oAdd || o = .oSub || isCompare o
  fld w 32 2 ≠ 0 || (!ua && weSa w ≠ 0) || (!ub && weSb w ≠ 0) ||
  (weWr w && (o = .oNop || isMac o || isRoomOp o)) ||
  ((weCout w || weCin w ≠ 0) && !arith) ||
  (isCompare o && (weCin w = 0 || weCin w = 3)) ||
  (weSb w = 0x18 && (isMac o || isRoomOp o)) ||
  (weImm w &&& ~~~ immAllowed o w width) ≠ 0#32

/-! ### Fetch (R89, R91) -/

def weEntryAddr (s : State) (p e t : Nat) : Nat :=
  entryAddr (rdBit s (wenA p e 0x2200) 0) (rdBit s (wenA p e 0x2200) 1)
    (classBase s (wenA p e 0x2204) (wenA p e 0x2208) s.spr.cls) t

def weFetch (s : State) (p e i : Nat) : BitVec 64 × Bool × Bool :=
  secded (mapGet 0#64 s.cl.weMem (kWeEntry p e i)) (mapGet [] s.cl.weFlips (kWeEntry p e i))

/-- What an engine executes at a step: an opcode, or a NOP with the flag that made it one. -/
inductive WeDec where
  | op (o : WeOp) (w : BitVec 64)
  | illegal
  | unc
deriving DecidableEq, Repr

def weDecode (s : State) (m e t : Nat) : WeDec :=
  let p := physOf s m
  let (w, _, unc) := weFetch s p e (weEntryAddr s p e t)
  if unc then .unc
  else match weOpOf (weCode w) with
    | none => .illegal
    | some o => if weRefused o w (roomWidth s p ((weImm w).toNat % 4)) then .illegal else .op o w

/-! ### Sources (R93) -/

/-- 32 wires as one word for context `c`. -/
def gather (c : Nat) (f : Nat → Ctx) : Word :=
  BitVec.ofNat 32 ((List.range 32).foldl (fun acc j => acc + b2n ((f j).getLsbD c) * 2 ^ j) 0)

def weSource (s : State) (m e t code c : Nat) (imm : Word) : Word :=
  let p := physOf s m
  if code < 0x10 then mapGet 0#32 s.cl.wreg (kWreg p e c code)
  else if code < 0x14 then gather c (fun j => busAt s m (32 * (code - 0x10) + j) t)
  else if code < 0x16 then gather c (fun j => shelfImport s m (32 * (code - 0x14) + j) t)
  else if code < 0x18 then gather c (fun j => windowEntry s m (32 * (code - 0x16) + j) t)
  else if code = 0x18 then imm
  else if code < 0x20 then 0#32
  else if code < 0x28 then engineResult s m (code - 0x20) t c
  else if code < 0x38 then
    let x := code - 0x28
    ((portRead s m (x / 4) (x / 2 % 2) c t) >>> (32 * (x % 2))).setWidth 32
  else if code < 0x40 then
    let x := code - 0x38
    if x % 4 = 3 then 0#32
    else
      let v := (macRead s m (x / 4) c t) >>> (32 * (x % 4))
      if x % 4 = 2 then BitVec.ofNat 32 (v.toNat % 256) else v.setWidth 32
  else if code = 0x41 then 0xFFFFFFFF#32
  else if code = 0x42 then BitVec.ofNat 32 c
  else 0#32

/-! ### Carry chains (R100 to R102) -/

/-- What the predecessor of an engine drives to it at a step (R101). -/
def chainIn (s : State) (m e t : Nat) : Option ChainOut :=
  if e = 0 then
    if m % 16 = 0 ∨ t = 0 then none else mapGet none s.cl.chain (kWeT (m - 1) 7 (t - 1))
  else mapGet none s.cl.chain (kWeT m (e - 1) t)

/-- Carry and equality in of an instruction, and whether its chain is broken (R94, R127). -/
def carryIn (s : State) (m e t : Nat) (o : WeOp) (cin : Nat) : Ctx × Ctx × Bool :=
  match cin with
  | 0 => (0#8, 0xFF#8, false)
  | 1 => (0xFF#8, 0xFF#8, false)
  | 3 => (mapGet 0#8 s.cl.flagCY (kWe (physOf s m) e), 0xFF#8, false)
  | _ =>
    match chainIn s m e t with
    | some ch => if ch.kind = chainKind o then (ch.carry, ch.eq, false) else (0#8, 0xFF#8, true)
    | none => (0#8, 0xFF#8, true)

/-! ### Results (R94) -/

/-- The result word of one context. -/
def weAlu (o : WeOp) (a b : Word) (cin f : Bool) : Word :=
  match o with
  | .oAdd => (addCarry a b cin).1
  | .oSub => (subCarry a b cin).1
  | .oMov => a
  | .oAnd => a &&& b
  | .oOr => a ||| b
  | .oXor => a ^^^ b
  | .oAndn => a &&& ~~~ b
  | .oShl => a <<< (b.toNat % 32)
  | .oShr => a >>> (b.toNat % 32)
  | .oSar => a.sshiftRight (b.toNat % 32)
  | .oRol => rol32 a b
  | .oPopc => popc32 a
  | .oClz => clz32 a
  | .oSel => if f then a else b
  | .oCeq | .oCne | .oCltu | .oCgeu | .oClts | .oCges => if f then 0xFFFFFFFF#32 else 0#32
  | .oNop | .oMul | .oMac | .oMacc | .oSrd | .oSwr => 0#32

/-- The new flag F of a compare in one context. -/
def weFlagF (o : WeOp) (a b : Word) (cin eqIn : Bool) : Bool :=
  let eq := eqIn && a == b
  let cy := (subCarry a b cin).2
  match o with
  | .oCeq => eq
  | .oCne => !eq
  | .oCltu => !cy
  | .oCgeu => cy
  | .oClts => signedLess a b cin
  | .oCges => !signedLess a b cin
  | _ => false

/-- Carry out in one context: of the sum for ADD, of S otherwise. -/
def weCarry (o : WeOp) (a b : Word) (cin : Bool) : Bool :=
  match o with
  | .oAdd => (addCarry a b cin).2
  | _ => (subCarry a b cin).2

/-! ### Issue to MAC slices and rooms (R103 to R106, R110, R127) -/

/-- The slice or room port that an engine's instruction issues to at a step: slices 0 and 1, then port `p` of room
`r` as 2 + 2r + p. -/
def issueTarget (s : State) (m e t : Nat) : Option Nat :=
  match weDecode s m e t with
  | .op o w =>
    let imm := (weImm w).toNat
    if isMac o then some (imm % 2)
    else if isRoomOp o then some (2 + 2 * (imm % 4) + imm / 4 % 2)
    else none
  | _ => none

/-- A lower-numbered engine issues to the same unit in the same step: it is the one performed (R127). -/
def issueLost (s : State) (m e t : Nat) : Bool :=
  match issueTarget s m e t with
  | none => false
  | some u => (List.range e).any (fun e' => issueTarget s m e' t = some u)

/-- Issue a MAC operation (R103 to R105). -/
def macIssue (m e t : Nat) (o : WeOp) (imm : Nat) (a b : Nat → Word) (s : State) : State :=
  let sl := imm % 2
  let base := fun (c : Nat) => match o with
    | .oMac => macIssued s m sl c
    | .oMacc => if m % 16 = 0 then 0#72 else macAtEnd s (m - 1) sl c (t - 1)
    | _ => 0#72
  let vals := (List.range 8).map (fun c => base c + mul72 (imm / 2 % 2 = 1) (a c) (b c))
  let x : MacOp := { cluster := m, slice := sl, issued := t, engine := e, vals := vals, done := false }
  { s with cl := { s.cl with macOps := x :: s.cl.macOps } }

/-- Issue a store-room read or write (R110); a room without a width is illegal (R127). -/
def roomIssue (m e t : Nat) (o : WeOp) (w : BitVec 64) (a b : Nat → Word) (s : State) : State :=
  let p := physOf s m
  let imm := (weImm w).toNat
  let r := imm % 4
  let q := imm / 4 % 2
  let put := fun (vals : List (BitVec 64)) (x : State) =>
    let op : SrdOp := { cluster := m, room := r, port := q, issued := t, engine := e, vals := vals, done := false }
    { x with cl := { x.cl with srdOps := op :: x.cl.srdOps } }
  if roomWidth s p r = 0 then
    let s1 := weFlag p e 1 0x03 s
    if o = .oSrd then put (List.replicate 8 0#64) s1 else s1
  else if o = .oSrd then
    let (vals, s1) := roomRead m r t a s
    put vals s1
  else
    let hi := fun (c : Nat) => if 32 < roomWidth s p r then mapGet 0#32 s.cl.wreg (kWreg p e c (imm / 16 % 16)) else 0#32
    roomWrite m r q t a (fun c => (hi c) ++ (b c))
      (fun c => (mapGet 0#32 s.cl.wreg (kWreg p e c (weRd w))).getLsbD 0) s

/-! ### Execution -/

/-- Set F of an engine at a step, keeping what datapath ports see in that step (R107). -/
def putFlagF (m e t : Nat) (v : Ctx) (s : State) : State :=
  let p := physOf s m
  let old := mapGet 0#8 s.cl.flagF (kWe p e)
  let h := match mapGet none s.cl.flagOld (kWeT m e t) with
    | some x => x
    | none => old
  { s with cl := { s.cl with flagF := mapSet 0 s.cl.flagF (kWe p e) v
                             flagOld := mapSet none s.cl.flagOld (kWeT m e t) (some h) } }

def putFlagCY (m e : Nat) (v : Ctx) (s : State) : State :=
  { s with cl := { s.cl with flagCY := mapSet 0 s.cl.flagCY (kWe (physOf s m) e) v } }

/-- Record an engine's results and write RD where WR = 1 (R96). -/
def weResults (m e t : Nat) (w : BitVec 64) (res : Nat → Word) (s : State) : State :=
  let p := physOf s m
  let cells := (List.range 8).map (fun c => (kWeRes m e t c, res c))
  let s1 := { s with cl := { s.cl with weRes := mapSetAll 0 s.cl.weRes cells } }
  if weWr w then
    let regs := (List.range 8).map (fun c => (kWreg p e c (weRd w), res c))
    { s1 with cl := { s1.cl with wreg := mapSetAll 0 s1.cl.wreg regs } }
  else s1

/-- Drive the chain where COUT = 1 (R94, R100). -/
def weChain (m e t : Nat) (o : WeOp) (w : BitVec 64) (cy eq : Ctx) (s : State) : State :=
  if weCout w then
    let x : ChainOut := { kind := chainKind o, carry := cy, eq := eq }
    { s with cl := { s.cl with chain := mapSet none s.cl.chain (kWeT m e t) (some x) } }
  else s

/-- A legal instruction executes in all eight contexts. -/
def weRun (m e t : Nat) (o : WeOp) (w : BitVec 64) (s : State) : State :=
  let p := physOf s m
  let imm := weImm w
  let (ua, ub) := weUses o
  let a := fun c => if ua then weSource s m e t (weSa w) c imm else 0#32
  let b := fun c => if ub then weSource s m e t (weSb w) c imm else 0#32
  let srcBad := (ua && srcReserved (weSa w)) || (ub && srcReserved (weSb w))
  let s0 := whenDo srcBad (weFlag p e 1 0x03) s
  let lost := issueLost s m e t
  if isMac o then
    if lost then weFlag p e 3 0x04 s0 else macIssue m e t o imm.toNat a b s0
  else if isRoomOp o then
    if lost then weFlag p e 4 0x04 s0 else roomIssue m e t o w a b s0
  else if o = .oAdd ∨ o = .oSub ∨ isCompare o then
    let (ci, ei, broken) := carryIn s m e t o (weCin w)
    let s1 := whenDo broken (weFlag p e 2 0x04) s0
    let cy := ctxOf (fun c => weCarry o (a c) (b c) (ci.getLsbD c))
    let eq := ctxOf (fun c => ei.getLsbD c && a c == b c)
    let f := ctxOf (fun c => weFlagF o (a c) (b c) (ci.getLsbD c) (ei.getLsbD c))
    let res := fun c => weAlu o (a c) (b c) (ci.getLsbD c) (f.getLsbD c)
    let s2 := putFlagCY m e cy (if isCompare o then putFlagF m e t f s1 else s1)
    weChain m e t o w cy eq (weResults m e t w res s2)
  else
    let fl := mapGet 0#8 s.cl.flagF (kWe p e)
    weResults m e t w (fun c => weAlu o (a c) (b c) false (fl.getLsbD c)) s0

/-- Engine `e` executes schedule step `t` (R89, R91, R127). -/
def weStep (m e t : Nat) (s : State) : State :=
  let p := physOf s m
  let (_, corr, _) := weFetch s p e (weEntryAddr s p e t)
  match weDecode s m e t with
  | .unc => weFlag p e 0 0x04 s
  | .illegal => weFlag p e 1 0x03 (whenDo corr (fun x => incFld x (wenA p e 0x220C) 16 16) s)
  | .op o w => weRun m e t o w (whenDo corr (fun x => incFld x (wenA p e 0x220C) 16 16) s)

/-- Does the entry that an engine fetches at a step belong to the row of opcode `o`? A reserved opcode and an entry
that is not corrected execute as a NOP and belong to WE_NOP; an encoding that R99 refuses belongs to its opcode. -/
def weRowIs (s : State) (m e t : Nat) (o : WeOp) : Bool :=
  let p := physOf s m
  let i := weEntryAddr s p e t
  let (w, _, unc) := weFetch s p e i
  if unc then o = .oNop || weOpOf (weCode (mapGet 0#64 s.cl.weMem (kWeEntry p e i))) = some o
  else (weOpOf (weCode w)).getD .oNop = o

/-- A word-engine command: the step happens when the schedule has it and its entry is of the command's row. -/
def weExec (o : WeOp) (m e t : Nat) (s : State) : State :=
  if inSchedule s m t && e < 8 && weRowIs s m e t o then weStep m e t s else s

/-- WE_NOP (R94). -/
def execWeNop (m e t : Nat) (s : State) : Out := .next (weExec .oNop m e t s)
/-- WE_ADD (R94). -/
def execWeAdd (m e t : Nat) (s : State) : Out := .next (weExec .oAdd m e t s)
/-- WE_SUB (R94). -/
def execWeSub (m e t : Nat) (s : State) : Out := .next (weExec .oSub m e t s)
/-- WE_MOV (R94). -/
def execWeMov (m e t : Nat) (s : State) : Out := .next (weExec .oMov m e t s)
/-- WE_AND (R94). -/
def execWeAnd (m e t : Nat) (s : State) : Out := .next (weExec .oAnd m e t s)
/-- WE_OR (R94). -/
def execWeOr (m e t : Nat) (s : State) : Out := .next (weExec .oOr m e t s)
/-- WE_XOR (R94). -/
def execWeXor (m e t : Nat) (s : State) : Out := .next (weExec .oXor m e t s)
/-- WE_ANDN (R94). -/
def execWeAndn (m e t : Nat) (s : State) : Out := .next (weExec .oAndn m e t s)
/-- WE_SHL (R94). -/
def execWeShl (m e t : Nat) (s : State) : Out := .next (weExec .oShl m e t s)
/-- WE_SHR (R94). -/
def execWeShr (m e t : Nat) (s : State) : Out := .next (weExec .oShr m e t s)
/-- WE_SAR (R94). -/
def execWeSar (m e t : Nat) (s : State) : Out := .next (weExec .oSar m e t s)
/-- WE_ROL (R94). -/
def execWeRol (m e t : Nat) (s : State) : Out := .next (weExec .oRol m e t s)
/-- WE_POPC (R94). -/
def execWePopc (m e t : Nat) (s : State) : Out := .next (weExec .oPopc m e t s)
/-- WE_CLZ (R94). -/
def execWeClz (m e t : Nat) (s : State) : Out := .next (weExec .oClz m e t s)
/-- WE_SEL (R94). -/
def execWeSel (m e t : Nat) (s : State) : Out := .next (weExec .oSel m e t s)
/-- WE_CEQ (R94). -/
def execWeCeq (m e t : Nat) (s : State) : Out := .next (weExec .oCeq m e t s)
/-- WE_CNE (R94). -/
def execWeCne (m e t : Nat) (s : State) : Out := .next (weExec .oCne m e t s)
/-- WE_CLTU (R94). -/
def execWeCltu (m e t : Nat) (s : State) : Out := .next (weExec .oCltu m e t s)
/-- WE_CGEU (R94). -/
def execWeCgeu (m e t : Nat) (s : State) : Out := .next (weExec .oCgeu m e t s)
/-- WE_CLTS (R94). -/
def execWeClts (m e t : Nat) (s : State) : Out := .next (weExec .oClts m e t s)
/-- WE_CGES (R94). -/
def execWeCges (m e t : Nat) (s : State) : Out := .next (weExec .oCges m e t s)
/-- WE_MUL (R94, R103 to R105). -/
def execWeMul (m e t : Nat) (s : State) : Out := .next (weExec .oMul m e t s)
/-- WE_MAC (R94, R103 to R105). -/
def execWeMac (m e t : Nat) (s : State) : Out := .next (weExec .oMac m e t s)
/-- WE_MACC (R94, R103 to R105). -/
def execWeMacc (m e t : Nat) (s : State) : Out := .next (weExec .oMacc m e t s)
/-- WE_SRD (R94, R110). -/
def execWeSrd (m e t : Nat) (s : State) : Out := .next (weExec .oSrd m e t s)
/-- WE_SWR (R94, R110). -/
def execWeSwr (m e t : Nat) (s : State) : Out := .next (weExec .oSwr m e t s)

/-! ### Completion events -/

/-- MAC_UPDATE_COMPLETE: the accumulator shows the operation issued at step `t` (R104). Operations on one slice take
effect in issue order, so an operation completes only after every earlier one. -/
def macComplete (m sl t : Nat) (s : State) : State :=
  match s.cl.macOps.find? (fun o => o.cluster = m ∧ o.slice = sl ∧ o.issued = t) with
  | none => s
  | some o =>
    if o.done ∨ s.cl.macOps.any (fun x => x.cluster = m ∧ x.slice = sl ∧ x.issued < t ∧ x.done = false) then s
    else
      let p := physOf s m
      let cells := (List.range 8).map (fun c => (kMac p sl c, o.vals.getD c 0#72))
      let ops := s.cl.macOps.map (fun x => if x = o then { x with done := true } else x)
      { s with cl := { s.cl with macAcc := mapSetAll 0 s.cl.macAcc cells, macOps := ops } }

def execMacUpdateComplete (m sl t : Nat) (s : State) : Out := .next (macComplete m sl t s)

/-- SRD_DATA_READY: the port shows the data of the read issued at step `t` until the data of a later read (R110). -/
def srdReady (m r q t : Nat) (s : State) : State :=
  match s.cl.srdOps.find? (fun o => o.cluster = m ∧ o.room = r ∧ o.port = q ∧ o.issued = t) with
  | none => s
  | some o =>
    if o.done ∨ s.cl.srdOps.any (fun x => x.cluster = m ∧ x.room = r ∧ x.port = q ∧ t < x.issued ∧ x.done) then s
    else
      let p := physOf s m
      let cells := (List.range 8).map (fun c => (kPort p r q c, o.vals.getD c 0#64))
      let ops := s.cl.srdOps.map (fun x => if x = o then { x with done := true } else x)
      { s with cl := { s.cl with portData := mapSetAll 0 s.cl.portData cells, srdOps := ops } }

def execSrdDataReady (m r q t : Nat) (s : State) : Out := .next (srdReady m r q t s)

end Sys2Proof.Machine
end

