-- ==== Sys2Proof/Machine/Tick.lean ====
section
/-! DEFINITION. The tick script and the tick itself (chapter 05): its start, the schedule's overhead and the advance
to the next tick. -/

namespace Sys2Proof.Machine

/-! ### The tick script (R179 to R184) -/

def scriptWord (s : State) (i w : Nat) : Word := rdReg s (sprA (0x400 + 8 * i + 4 * w))

/-- BPC_BANK of any BP. -/
def isBankReg (a : Nat) : Bool :=
  physA 0 0 ≤ a && a < physA 272 0 && 0x290000 ≤ (a - physA 0 0) % 0x400000 && (a - physA 0 0) % 0x400000 < 0x2A0000 &&
    (a - physA 0 0) % 0x200 = 0xC

/-- The image splits the instruction memories into two banks (R69). -/
def splitImage (s : State) : Bool := s.regs.any (fun q => isBankReg q.1 && bit q.2 0)

/-- A script entry that R184 refuses. -/
def scriptBad (s : State) (i : Nat) : Bool :=
  let a := scriptWord s i 0
  let b := scriptWord s i 1
  let op := fld b 0 3
  let falls := op = 0 || op = 2 || op = 3
  decide (rdFld s (sprA 8) 24 2 < fld a 0 2) || fld a 2 14 ≠ 0 || decide (4 ≤ op) || bit b 3 || bit b 15 ||
    fld b 18 14 ≠ 0 || fld b 16 2 = 3 || (fld b 16 2 ≠ 0 && !splitImage s) || (i = 127 && falls) ||
    (falls && decide (s.spr.scriptLen ≤ i + 1)) || (op = 1 || op = 2 || op = 3) && decide (s.spr.scriptLen ≤ fld b 8 7)

/-- The entry after entry `i` under decision value `dec` (R180, R184): a reserved OP or a target of 128 or more is
NEXT, and entry 0 follows entry 127. -/
def scriptNext (s : State) (i : Nat) (dec : BitVec 16) : Nat :=
  let b := scriptWord s i 1
  let d := dec.getLsbD (fld b 4 4)
  let jump := match fld b 0 3 with
    | 1 => true
    | 2 => d
    | 3 => !d
    | _ => false
  if jump && !bit b 15 then fld b 8 7 else (i + 1) % 128

/-- The class an entry's ticks run in; an undefined class runs as class 0 (R184). -/
def entryClass (s : State) (i : Nat) : Nat :=
  let k := fld (scriptWord s i 0) 0 2
  if rdFld s (sprA 8) 24 2 < k then 0 else k

def entryCount (s : State) (i : Nat) : Nat := fld (scriptWord s i 0) 16 16

/-- The bank an entry requests (R179, R183); a reserved BANK is ignored (R184). -/
def entryBank (s : State) (i : Nat) : Option Nat :=
  match fld (scriptWord s i 1) 16 2 with
  | 1 => some 0
  | 2 => some 1
  | _ => none

/-- The current tick executes the first tick of entry `i`. -/
def enterEntry (i : Nat) (s : State) : State :=
  let s1 := { s with spr := { s.spr with entry := i, left := entryCount s i, cls := entryClass s i } }
  whenDo (scriptBad s i) (fun x => failNow 5 (setBit x (sprA 4) 17)) s1

/-! ### The start of a tick (R172 to R175, R181, R182) -/

/-- Decision lead D (R215). -/
def decLead (s : State) : Nat := rdFld s (sprA 8) 16 8

/-- The tick n_R + D of R178 and R207. -/
def leadTick (s : State) : Nat := s.spr.tick.toNat + decLead s

/-- A hold is on its way already. -/
def holdPending (s : State) : Bool := s.spr.holdAt.isSome || s.spr.orders.any (fun m => match m with
  | .hold .. => true
  | _ => false)

/-- The root broadcasts HOLD (R207). -/
def rootHold (cause : Nat) (s : State) : State := rootOrder (.hold (leadTick s / epochLen s) cause) s

/-- The newest decision value known for ticks below `n`. -/
def latestDecision (s : State) (n : Nat) : BitVec 16 :=
  let known := s.spr.decides.filter (fun q => q.1 < n)
  let v := (known.getLast?.map (fun q => q.2)).getD s.spr.decision
  s.spr.orders.foldl (fun acc m => match m with
    | .decide w _ => w
    | _ => acc) v

/-- The root broadcasts a change of the decision value that the tick's frame carries (R181). -/
def rootDecide (s : State) : State :=
  let n := s.spr.tick.toNat
  match s.crt.isRoot, decisionField s n with
  | true, some v => if latestDecision s (n + decLead s) = v then s else rootOrder (.decide v (n + decLead s)) s
  | _, _ => s

/-- The device knows of a DECIDE for the tick after this one that it does not hold yet (R182). -/
def decideDue (s : State) : Bool := s.spr.orders.any (fun m => match m with
  | .decide _ e => e ≤ s.spr.tick.toNat + 1
  | _ => false)

/-- A decision that is not held in time: DEC_LATE, and the epoch of tick `e` fails (R182, R204). -/
def decideLate (e : Nat) (s : State) : State := failEpoch (e / epochLen s) 5 (setBit s (sprA 4) 9)

/-- TB0 reaches a time. -/
def timeReach (t : Nat) (s : State) : State :=
  if tb0Now s < t then { s with tim := { s.tim with tb0 := t * 2 ^ 32 } } else s

/-- Working values of the tick begin empty: the step bus, exports, engine results and flags F and CY (R54, R95,
R96, R154, R156). -/
def clearTick (s : State) : State :=
  { s with cl := { s.cl with
    bpBus := [], exports := [], confStep := [], flagF := [], flagCY := [], flagOld := [], weRes := [], chain := [],
    macOps := [], macStart := s.cl.macAcc, portStart := s.cl.portData, srdOps := [], rowOld := [], port1Wr := [],
    latchOld := [], sinks := [] } }

/-- The first tick of an entry records the entry's bank request (R183). -/
def requestBank (s : State) : State :=
  if s.spr.left = entryCount s s.spr.entry then
    match entryBank s s.spr.entry with
    | some b => { s with spr := { s.spr with bankReq := some b } }
    | none => s
  else s

/-- A tick begins: stimulus, decision, bank request, and schedule step 0. -/
def tickBegin (s : State) : State :=
  let s1 := rootDecide (inletTake s.spr.tick.toNat (clearTick s))
  let s2 := whenDo (decideDue s1) (decideLate (s1.spr.tick.toNat + 1)) s1
  let s3 := requestBank s2
  { s3 with spr := { s3.spr with pos := .schedule } }

/-- May the next tick begin? The phase runs ticks, the hold boundary is not reached, and the epoch before the last has
committed (R189, R207). -/
def tickAllowed (s : State) : Bool :=
  s.chip.devState = .running && s.spr.pos = .idle && !s.spr.armed && (s.spr.phase = .firstRun || s.spr.phase = .replay) &&
    curEpoch s ≤ s.spr.commit.toNat + 1 &&
    (match s.spr.holdAt with
     | some h => curEpoch s ≤ h
     | none => true)

/-- TICK_START: `delta` is by how many steps the count between the two tick starts differs from the length of the
tick before; a difference of two or more is an overrun (R173). -/
def tickStartEv (delta : Int) (s : State) : State :=
  if tickAllowed s then
    let s1 := timeReach (tickStart s) s
    tickBegin (whenDo (decide (2 ≤ delta.natAbs)) (fun x => reportFail 0x31 6 0 0 (setBit x (sprA 4) 8)) s1)
  else s

def execTickStart (delta : Int) (s : State) : Out := .next (tickStartEv delta s)

/-! ### The overhead of a tick (R174) -/

/-- Every MAC operation and store-room read still in flight completes (R104, R110). -/
def completeOps (s : State) : State :=
  let s1 := s.cl.macOps.reverse.foldl (fun acc o => macComplete o.cluster o.slice o.issued acc) s
  s1.cl.srdOps.reverse.foldl (fun acc o => srdReady o.cluster o.room o.port o.issued acc) s1

/-- Logical clusters that take part in the tick. -/
def liveClusters (s : State) : List Nat := (List.range 256).filter (fun m => !detached s (m / 16))

/-- A bad entry of the FAB_SIMP or FAB_WIN tables of a cluster was used in every step (R157, R158). -/
def fabTick (m : Nat) (s : State) : State :=
  let p := physOf s m
  let bad := s.cl.cfgBad.any (fun q => q.2 && fabA p 0x1000 ≤ q.1 && q.1 < fabA p 0x1300)
  let ill := s.regs.any (fun q => fabA p 0x1200 ≤ q.1 && q.1 < fabA p 0x1300 && winIllegal q.2 && cfgGood s q.1)
  whenDo ill (fabFlag p 1 0x05) (whenDo bad (fabFlag p 2 0x08) s)

/-- A bad SHF_GIMP entry of a shelf was used in every step (R157, R158). -/
def shfTick (h : Nat) (s : State) : State :=
  let bad := s.cl.cfgBad.any (fun q => q.2 && shfA h 0 ≤ q.1 && q.1 < shfA h 0x400)
  whenDo bad (fun x => reportFail 0x10 1 h 0 (setBit x (shfA h 0x400) 0)) s

/-- The inject registers of BPs that are armed for the class of the tick. -/
def armedInjects (s : State) : List (Nat × Nat) :=
  s.regs.filterMap (fun q =>
    let o := q.1 - physA 0 0
    if isInjectReg q.1 ∧ o % 0x400000 % 0x200 = 8 ∧ bit q.2 31 ∧ bit q.2 (16 + s.spr.cls) then
      some (o / 0x400000, (o % 0x400000 - 0x290000) / 0x200)
    else none)

/-- An armed inject met no MODE 0b10 instruction at STEP (R75, R76). -/
def injectMiss (s : State) (p n : Nat) : Bool :=
  let t := rdFld s (bpcA p n 8) 0 10
  let (w, _, unc) := bpFetch s p n (bpEntryAddr s p n t)
  classLen s s.spr.cls ≤ t || unc || bpIllegal w || bpKind w ≠ .inject

def injectTick (s : State) : State :=
  (armedInjects s).foldl (fun acc q => match logOf s q.1 with
    | some m => whenDo (!detached s (m / 16) && injectMiss s q.1 q.2) (fun x => setBit x (bpcA q.1 q.2 0x18) 3) acc
    | none => acc) s

/-- O8: pointers toggle where written, enabled and not hinted; written flags and hints clear (R60, R64). -/
def flopTick (s : State) : State :=
  let ptrs := s.cl.written.foldl (fun acc q =>
    if q.2 then
      let mask := s.spr.cen &&& ~~~ (mapGet 0#8 s.cl.hintOff (q.1 / 128))
      mapSet 0 acc q.1 (mapGet 0#8 acc q.1 ^^^ mask)
    else acc) s.cl.fptr
  { s with cl := { s.cl with fptr := ptrs, written := [], hintOff := [] } }

/-- Is the current tick the last of its epoch? -/
def lastTick (s : State) : Bool := s.spr.tick.toNat % epochLen s = epochLen s - 1

/-- Length of the current tick in steps (R171). -/
def tickLen (s : State) : Nat := classPeriod s s.spr.cls + (if lastTick s then 136 else 0)

/-- O9: tick number, decision value and script position of the next tick (R174, R176, R180, R181). -/
def advanceTick (s : State) : State :=
  let n := s.spr.tick + 1
  let known := s.spr.decides.find? (fun q => q.1 = n.toNat)
  let s1 := { s with spr := { s.spr with
    tick := n
    segSteps := s.spr.segSteps + tickLen s
    decision := (known.map (fun q => q.2)).getD s.spr.decision } }
  if s.spr.left = 0 then enterEntry (scriptNext s1 s.spr.entry s1.spr.decision) s1
  else { s1 with spr := { s1.spr with left := s.spr.left - 1 } }

/-- The scrubber writes a corrected entry back (R618): a BP entry, or a word-engine entry, by its key. -/
def scrubWriteBack (we : Bool) (k : Nat) (s : State) : State :=
  let c := s.cl
  if we then
    let r := secded (mapGet 0#64 c.weMem k) (mapGet [] c.weFlips k)
    if r.2.1 then { s with cl := { c with weMem := mapSet 0#64 c.weMem k r.1, weFlips := mapDel c.weFlips k } } else s
  else
    let r := secded (mapGet 0#72 c.bpMem k) (mapGet [] c.bpFlips k)
    if r.2.1 then { s with cl := { c with bpMem := mapSet 0#72 c.bpMem k r.1, bpFlips := mapDel c.bpFlips k } } else s

/-- The write-backs that wait for an overhead step. -/
def scrubFixes (s : State) : State :=
  let s1 := s.att.scrubFix.foldl (fun acc q => scrubWriteBack q.1 q.2 acc) s
  { s1 with att := { s1.att with scrubFix := [] } }

/-- TICK_OVERHEAD: the steps after the schedule (R174). The last tick of an epoch goes on to its boundary extension. -/
def tickOverhead (s : State) : State :=
  if s.chip.devState = .running ∧ s.spr.pos = .schedule then
    let last := lastTick s
    let s1 := (List.range 16).foldl (fun acc h => shfTick h acc)
      ((liveClusters s).foldl (fun acc m => fabTick m acc) (completeOps s))
    let s2 := advanceTick (flopTick (injectTick (cmpTick (scrubFixes s1))))
    { s2 with
      cl := { s2.cl with probe := [], undoQ := [] }
      spr := { s2.spr with pos := if last then .extension else .idle } }
  else s

def execTickOverhead (s : State) : Out := .next (tickOverhead s)

end Sys2Proof.Machine
end

