-- ==== Sys2Proof/Machine/Spring.lean ====
section
/-! DEFINITION. The spring: its messages, checkpoints, votes, and the start and the hold of a run segment
(chapter 05). -/

namespace Sys2Proof.Machine

/-! ### Arrival of a spring message (R185 to R187, R357) -/

/-- A TIME flit that failed its CRC, or names a reserved message (R187, R357, R359). -/
def timeCrc (h : SpringHdr) (s : State) : State :=
  let s1 := incFld (setBit s (linkA h.link 0x14) 2) (laneA h.lane 8) 0 32
  failNow 7 (laneFault h.lane 0x18 s1)

/-- The next TIME sequence number of a link (R187). -/
def timeSeq (l seq : Nat) (s : State) : State :=
  let gap := seq ≠ mapGet 0 s.spr.rxSeq l
  let s1 := whenDo gap (fun x => failNow 7 (setBit x (linkA l 0x14) 3)) s
  { s1 with spr := { s1.spr with rxSeq := mapSet 0 s1.spr.rxSeq l ((seq + 1) % 2048) } }

/-- TIME flits run on a tree link in SERVICE, PIN and UP (R346). -/
def timeOpen (s : State) (l : Nat) : Bool := l < 64 && decide (6 ≤ linkState s l) && decide (linkState s l ≤ 8)

/-- The flit of a spring message arrives on one of the given links: the state after its checks, and whether the message
is acted on. -/
def springFlit (links : List Nat) (h : SpringHdr) (s : State) : State × Bool :=
  if !(links.contains h.link && timeOpen s h.link) then (s, false)
  else if !h.good then (timeCrc h s, false)
  else (timeSeq h.link h.seq s, true)

/-- A message from a child (R185). -/
def fromChild (h : SpringHdr) (s : State) : State × Bool := springFlit (presentLinks s) h s

/-- A message that travels down: from the head, or at the root one that the root itself has broadcast (R185). -/
def fromHead (h : Option SpringHdr) (msg : SpringMsg) (s : State) : State × Bool :=
  match h with
  | some x =>
    let (s1, ok) := springFlit (s.crt.uplink.toList) x s
    if ok then (sendDown msg s1, true) else (s1, false)
  | none =>
    if s.crt.isRoot && s.spr.orders.contains msg then
      ({ s with spr := { s.spr with orders := s.spr.orders.erase msg } }, true)
    else (s, false)

/-- Act on a message when its flit was good. -/
def actOn (r : State × Bool) (f : State → State) : State := if r.2 then f r.1 else r.1

/-! ### Checkpoints (R65, R152, R191) -/

/-- F of SPR_LOGSZ (R191). -/
def flopRows (s : State) : Nat := rdFld s (sprA 0x64) 0 8

/-- Current values of flops 0 to F - 1 of the active BPs, by logical cluster, BP and flop (R65, R191). A flop that is not
listed is 0x00. -/
def takeFlops (s : State) : SMap Ctx :=
  s.cl.pond.foldl (fun acc q =>
    let a := q.1 % 512
    let n := q.1 / 512 % 128
    let p := q.1 / 512 / 128
    let f := (a - 256) % 128
    if 256 ≤ a ∧ f < flopRows s then
      match logOf s p with
      | some m => mapSet 0 acc ((m * 128 + n) * 128 + f) (flopCur s p n f)
      | none => acc
    else acc) []

def takeSnapshot (s : State) (epoch : Nat) : Snapshot :=
  { epoch := epoch, flops := takeFlops s, latches := s.cl.latch }

/-- A restore writes each flop to bank A in every context, sets the pointers to 0 and clears the written flags (R65),
in the clusters that `keep` names. -/
def restoreFlops (flops : SMap Ctx) (keep : Nat → Bool) (s : State) : State :=
  let mine := fun (p : Nat) => match logOf s p with
    | some m => keep m
    | none => false
  let f := flopRows s
  let pond1 := mapKeep (fun k => !(mine (k / 512 / 128) && 256 ≤ k % 512 && (k % 512 - 256) % 128 < f)) s.cl.pond
  let pond2 := flops.foldl (fun acc q =>
    let m := q.1 / 128 / 128
    if keep m then mapSet 0 acc (kPond (physOf s m) (q.1 / 128 % 128) (256 + q.1 % 128)) (pondWord q.2) else acc) pond1
  { s with cl := { s.cl with
    pond := pond2
    fptr := mapKeep (fun k => !(mine (k / 128 / 128))) s.cl.fptr
    written := mapKeep (fun k => !(mine (k / 128 / 128))) s.cl.written
    hintOff := mapKeep (fun k => !(mine (k / 128))) s.cl.hintOff } }

/-- The epoch record of an epoch that is about to begin (R190, X128). -/
def epochRecord (s : State) (e : Nat) : EpochRec :=
  { epoch := e, entry := s.spr.entry, left := s.spr.left, decision := s.spr.decision, bank := s.spr.bank, cen := s.spr.cen,
    gen := s.spr.gen, inject := takeSettings isInjectReg s, cmpSet := takeSettings isCmpSetting s }

/-- BPC_BANK.ACTIVE and WEN_CTRL.ACTIVE of every BP and word engine take a bank (R183). -/
def setBank (b : Nat) (s : State) : State :=
  let s1 := (List.range 256).foldl (fun acc m =>
    let p := physOf s m
    let acc1 := (List.range 128).foldl (fun x n => wrFld x (bpcA p n 0xC) 1 1 b) acc
    (List.range 8).foldl (fun x e => wrFld x (wenA p e 0x2200) 1 1 b) acc1) s
  { s1 with spr := { s1.spr with bank := b } }

/-- A change of the context enable vector in force (R178). -/
def setCen (v : Ctx) (s : State) : State := { s with spr := { s.spr with cen := v } }

/-! ### Start of a run segment (R206, R209) -/

/-- Begin from a checkpoint: no failed check, vote or record of an earlier segment is left. -/
def freshRun (s : State) : State :=
  { s with
    spr := { s.spr with
      epochRecs := [], fails := [], stops := [], votes := [], sent := [], ckpt := [], alarms := [],
      rb := none, rbDone := [], holdAt := none, bankReq := none, waiting := false, pos := .idle }
    cl := { s.cl with undo := [], undoQ := [], undoBuf := 0 } }

def setSegment (ts first : Nat) (s : State) : State :=
  { s with spr := { s.spr with armed := true, segStart := ts, segTick := BitVec.ofNat 48 first, segSteps := 0 } }

/-- START in Ready: entry 0, decision 0, tick 0, the initial checkpoint and the epoch record of epoch 0 (R180, R181,
R183, R206). -/
def startReady (ts first : Nat) (s : State) : State :=
  let s1 := setSegment ts first (freshRun s)
  let s2 := { s1 with spr := { s1.spr with
    tick := 0, commit := 0, taken := 0, decision := 0, decides := [], inletLog := [], logEnd := 0, replayEnd := 0,
    cenNext := [], snapshots := [] } }
  let s3 := cmpStart { s2 with chip := { s2.chip with devState := .running } }
  let s4 := enterEntry 0 s3
  let s5 := match entryBank s4 0 with
    | some b => if splitImage s4 then setBank b s4 else s4
    | none => s4
  showPorts { s5 with spr := { s5.spr with initial := some (takeSnapshot s5 0), epochRecs := [epochRecord s5 0] } }

/-- START in Held: a new checkpoint replaces the restore point; ticks whose frames are logged take them from the log
(R209). -/
def startHeld (ts first : Nat) (s : State) : State :=
  let s1 := setSegment ts first (freshRun s)
  let j := s1.spr.commit.toNat
  let s2 := cmpResume { s1 with chip := { s1.chip with devState := .running } }
  let snap := takeSnapshot s2 (j - 1)
  let last := s2.spr.inletLog.foldl (fun acc r => max acc (r.tick + 1)) 0
  let s3 := { s2 with spr := { s2.spr with
    snapshots := if j = 0 then [] else [snap]
    initial := if j = 0 then some snap else s2.spr.initial
    epochRecs := [epochRecord s2 j]
    replayEnd := j
    logEnd := last } }
  showPorts s3

/-- START (R185, R206, R209). -/
def startEv (h : Option SpringHdr) (ts first : Nat) (s : State) : State :=
  actOn (fromHead h (.start ts (BitVec.ofNat 48 first)) s) (fun x => match x.chip.devState with
    | .ready => startReady ts first x
    | .held => startHeld ts first x
    | _ => x)

def execStart (h : Option SpringHdr) (ts first : Nat) (s : State) : Out := .next (startEv h ts first s)

/-- A spare swap is agreed or requested and not complete: retirement work that is still open (R378, R624). -/
def swapsOpen (s : State) : Bool :=
  s.lnk.any (fun q => q.2.swap.isSome || q.2.cmd.any (fun c => c.cmd = 1))

/-- RUN_SEGMENT_START: at T_S the first tick begins, once TB0 reports lock (R21); a device whose restore is not done
sends RB_FAIL and starts no tick (R172, R201, R203). -/
def runSegmentStart (s : State) : State :=
  if s.chip.devState ≠ .running ∨ s.spr.armed = false ∨ rdBit s (timA 4) 1 = false then s
  else
    let s1 := timeReach s.spr.segStart s
    if s1.spr.rb.any (fun r => !r.done) ∨ (s1.spr.rb.isSome ∧ swapsOpen s1 = true) then rollbackFault 1 { s1 with spr := { s1.spr with armed := false } }
    else
      let ph : Phase := if curEpoch s1 < s1.spr.replayEnd then .replay else .firstRun
      tickBegin (setPhase ph { s1 with spr := { s1.spr with armed := false, rb := none, rbDone := [] } })

def execRunSegmentStart (s : State) : Out := .next (runSegmentStart s)

/-! ### DECIDE, CEN, HOLD -/

/-- Has tick `n` begun? -/
def tickBegun (s : State) (n : Nat) : Bool :=
  n < s.spr.tick.toNat || (n = s.spr.tick.toNat && s.spr.pos = .schedule)

/-- DECIDE (R181, R182): held for its tick; a late one applies from the first tick that begins after its arrival. -/
def decideEv (h : Option SpringHdr) (v : BitVec 16) (m : Nat) (s : State) : State :=
  actOn (fromHead h (.decide v m) s) (fun x =>
    let put := fun (k : Nat) (y : State) => { y with spr := { y.spr with decides := mapIns (mapDel y.spr.decides k) k v } }
    let x1 := put m x
    if x.chip.devState = .running ∧ 0 < m ∧ tickBegun x (m - 1) = true then
      let x2 := decideLate m x1
      let n := x2.spr.tick.toNat
      if m ≤ n ∧ x2.spr.pos ≠ .schedule then { x2 with spr := { x2.spr with decision := v } }
      else if m ≤ n then put (n + 1) x2 else x2
    else x1)

def execDecide (h : Option SpringHdr) (v : BitVec 16) (m : Nat) (s : State) : Out := .next (decideEv h v m s)

/-- CEN (R178): at once in Ready and Held, else at the first tick of its effective epoch. -/
def cenEv (h : Option SpringHdr) (v : Ctx) (e : Nat) (s : State) : State :=
  actOn (fromHead h (.cen v e) s) (fun x => match x.chip.devState with
    | .running => { x with spr := { x.spr with cenNext := x.spr.cenNext ++ [(e, v)] } }
    | .ready => setCen v x
    | .held => setCen v x
    | _ => x)

def execCen (h : Option SpringHdr) (v : Ctx) (e : Nat) (s : State) : Out := .next (cenEv h v e s)

/-- The device enters Held (R207). -/
def enterHeld (s : State) : State :=
  let s1 := { s with
    chip := { s.chip with devState := .held }
    spr := { s.spr with pos := .idle, armed := false, holdAt := none, rb := none, rbDone := [], waiting := false } }
  showPorts (setPhase .held s1)

/-- Ticks have stopped at the hold boundary: stopping, or Held once every epoch up to it has committed (R207). -/
def checkHold (s : State) : State :=
  match s.spr.holdAt with
  | none => s
  | some h =>
    if s.chip.devState = .running ∧ s.spr.pos = .idle ∧ s.spr.armed = false ∧ s.spr.phase ≠ .rollback ∧ h < curEpoch s then
      if h < s.spr.commit.toNat then enterHeld s else setPhase .stopping s
    else s

/-- HOLD (R207): stop at the end of the boundary epoch. -/
def holdEv (h : Option SpringHdr) (epoch cause : Nat) (s : State) : State :=
  actOn (fromHead h (.hold epoch cause) s) (fun x =>
    if x.chip.devState = .running then checkHold { x with spr := { x.spr with holdAt := some epoch } } else x)

def execHold (h : Option SpringHdr) (epoch cause : Nat) (s : State) : Out := .next (holdEv h epoch cause s)

/-! ### Votes (R188, R189, R198) -/

/-- Every present child has sent PASS for an epoch. -/
def childrenPass (s : State) (k : Nat) : Bool :=
  (presentLinks s).all (fun l => s.spr.votes.any (fun v => v.link = l && v.epoch = k && v.pass))

/-- The combined STOP flag of an epoch (R188). -/
def stopFlag (s : State) (k : Nat) : Bool :=
  s.spr.stops.contains k || s.spr.votes.any (fun v => v.epoch = k && v.stop)

/-- Has epoch `k` ended, its boundary extension included? -/
def epochEnded (s : State) (k : Nat) : Bool :=
  k + 1 < curEpoch s || (k + 1 = curEpoch s && !(s.spr.tick.toNat % epochLen s = 0 && s.spr.pos = .extension))

/-- The commit checklist of R198 for epoch `k` at this device. -/
def passReady (s : State) (k : Nat) : Bool :=
  epochEnded s k && !s.spr.fails.any (fun f => f.1 = k) && mapGet 0 s.spr.alarms k = 0 &&
    !s.spr.ckpt.any (fun w => w.epoch = k) && !s.cmp.queue.any (fun r => r.epoch = k) && childrenPass s k

/-- The root commits an epoch whose combined vote is PASS, in order (R189). -/
def rootCommit (s : State) : State :=
  let k := s.spr.commit.toNat
  let due := s.crt.isRoot && s.spr.sent.contains (k, true) && !rollbackPending s &&
    !s.spr.orders.any (fun m => match m with
      | .commit e _ => e = k
      | _ => false)
  whenDo due (fun x => rootOrder (.commit k (stopFlag x k)) x) s

/-- SEND_PASS_VOTE (R188, R198). -/
def sendPass (k : Nat) (s : State) : State :=
  if s.chip.devState = .running ∧ s.spr.phase ≠ .rollback ∧ s.spr.commit.toNat ≤ k ∧ passReady s k = true ∧
      s.spr.sent.contains (k, true) = false ∧ s.spr.sent.contains (k, false) = false then
    let s1 := { s with spr := { s.spr with sent := s.spr.sent ++ [(k, true)] } }
    rootCommit (sendUp (.vote k true (stopFlag s1 k) 0 (devAddr s1)) s1)
  else s

def execSendPassVote (k : Nat) (s : State) : Out := .next (sendPass k s)

/-- VOTE of a child (R186, R188, R189). -/
def voteEv (h : SpringHdr) (k : Nat) (pass stop : Bool) (cause dev : Nat) (s : State) : State :=
  actOn (fromChild h s) (fun x =>
    if x.chip.devState ≠ .running ∨ h.gen ≠ x.spr.gen ∨ x.spr.phase = .rollback then x
    else
      let v : VoteRec := { link := h.link, epoch := k, pass := pass, stop := stop, cause := cause, dev := dev }
      let x1 := { x with spr := { x.spr with votes := x.spr.votes ++ [v] } }
      if pass then x1 else sendFail k cause dev x1)

def execVote (h : SpringHdr) (k : Nat) (pass stop : Bool) (cause dev : Nat) (s : State) : Out :=
  .next (voteEv h k pass stop cause dev s)

/-- The longest and the shortest period of the image (R182, R207). -/
def periods (s : State) : List Nat := (List.range (rdFld s (sprA 8) 24 2 + 1)).map (classPeriod s)
def maxPeriod (s : State) : Nat := (periods s).foldl max 0
def minPeriod (s : State) : Nat := (periods s).foldl min 65535

/-- VOTE_TIMEOUT (R189, R207): the end of epoch k + 1 is reached without COMMIT of epoch k. -/
def voteTimeout (s : State) : State :=
  if s.chip.devState ≠ .running ∨ s.spr.armed ∨ s.spr.phase = .rollback then s
  else
    let c := s.spr.commit.toNat
    let ended := s.spr.pos = .idle ∧ c + 2 ≤ curEpoch s
    let atHold := s.spr.phase = .stopping ∧ c + 1 = curEpoch s
    if ended ∨ atHold then
      let s1 := if atHold then timeReach (tickStart s + stepsTime (epochLen s * maxPeriod s + 136)) s else s
      if s.crt.isRoot then
        issueRollback 3 (devAddr s1) (s.spr.phase = .stopping) (setBit s1 (sprA 4) 12)
      else { s1 with spr := { s1.spr with waiting := true } }
    else s

def execVoteTimeout (s : State) : Out := .next (voteTimeout s)

/-! ### Checkpoint writes (R192, R195, R196, R198) -/

/-- CKPT_WRITE_RESPONSE: the response to the writes of one part of the checkpoint of an epoch: 0 snapshot, 1 undo, 2 inlet.
A write that is not accepted fails the epoch (R197, R620). `n` undo records leave the undo buffer. -/
def ckptResponse (part epoch n : Nat) (ok : Bool) (s : State) : State :=
  let s1 := { s with cl := { s.cl with undoBuf := if part = 1 then s.cl.undoBuf - n else s.cl.undoBuf } }
  if !ok then failEpoch epoch 1 (report 0x23 3 0 0 s1)
  else
    let upd := fun (w : CkptWork) =>
      if w.epoch = epoch then
        { w with snapshot := w.snapshot && part ≠ 0, undo := w.undo && part ≠ 1, inlet := w.inlet && part ≠ 2 }
      else w
    let work := (s1.spr.ckpt.map upd).filter (fun w => w.snapshot || w.undo || w.inlet)
    { s1 with spr := { s1.spr with ckpt := work } }

def execCkptWriteResponse (part epoch n : Nat) (ok : Bool) (s : State) : Out :=
  .next (ckptResponse part epoch n ok s)

/-- DRAIN_LATE: the undo log of epoch k is not written by the end of epoch k + 1 (R196, R204). -/
def drainLate (k : Nat) (s : State) : State :=
  if epochEnded s (k + 1) ∧ s.spr.ckpt.any (fun w => w.epoch = k && w.undo) = true then
    failEpoch k 5 (setBit s (sprA 4) 11)
  else s

def execDrainLate (k : Nat) (s : State) : Out := .next (drainLate k s)

/-! ### The end of a rollback (R186, R201, R203) -/

/-- Every page fill requested before the rollback has completed (R121, R201). -/
def fillsDone (s : State) : Bool := s.cl.frames.all (fun q => q.2.all (fun f => !f.filling))

/-- RESTORE_DONE: the subtree has completed its restore (R201); a rollback with HOLD ends in Held (R204, R207), and a
device in Safe stays there (R205). -/
def restoreDone (s : State) : State :=
  match s.spr.rb with
  | none => s
  | some r =>
    if (s.spr.phase = .rollback ∨ s.chip.devState = .safe) ∧ r.restored = true ∧ r.done = false ∧ fillsDone s = true ∧ s.cel.restoreOpen = 0 ∧
        (presentLinks s).all (fun l => s.spr.rbDone.contains l) = true then
      let s1 := sendUp .rbDone { s with spr := { s.spr with rb := some { r with done := true } } }
      if r.hold ∧ s.chip.devState ≠ .safe then enterHeld (whenDo (r.cause = 5) (fun x => setBit x (sprA 4) 15) s1) else s1
    else s

def execRestoreDone (s : State) : Out := .next (restoreDone s)

/-- RB_DONE of a child (R186). -/
def rbDoneEv (h : SpringHdr) (s : State) : State :=
  actOn (fromChild h s) (fun x =>
    if h.gen = x.spr.gen ∧ x.spr.rb.isSome then
      { x with spr := { x.spr with rbDone := if x.spr.rbDone.contains h.link then x.spr.rbDone
        else x.spr.rbDone ++ [h.link] } }
    else x)

def execRbDone (h : SpringHdr) (s : State) : Out := .next (rbDoneEv h s)

/-- RB_FAIL of a child (R186, R203): forwarded, and answered with a restart at the root. -/
def rbFailEv (h : SpringHdr) (cause : Nat) (s : State) : State :=
  actOn (fromChild h s) (fun x =>
    if h.gen = x.spr.gen ∧ x.spr.rb.isSome then
      if x.crt.isRoot then restartRollback (holdCause cause) x else sendUp (.rbFail cause) x
    else x)

def execRbFail (h : SpringHdr) (cause : Nat) (s : State) : Out := .next (rbFailEv h cause s)

end Sys2Proof.Machine
end

