-- ==== Sys2Proof/Machine/Links.lean ====
section
/-! DEFINITION. Hersel links (chapter 08): training, signals, the service class, management commands, spare lanes,
loopbacks and pattern checkers. -/

namespace Sys2Proof.Machine

/-! ### Link registers -/

def lkErr (l : Nat) : Nat := linkA l 0x14
def setLinkState (l n : Nat) (s : State) : State := wrFld s (linkA l 0xC) 0 4 n
def linkTarget (s : State) (l : Nat) : Nat := rdFld s (linkA l 4) 0 16
def linkMargin (s : State) (l : Nat) : Nat := rdFld s (linkA l 4) 16 8
def linkQmax (s : State) (l : Nat) : Nat := rdFld s (linkA l 4) 24 8
def linkLanes (s : State) (l : Nat) : Nat := rdFld s (linkA l 0) 13 4 + 1
/-- Flits per lane and link frame (R342). -/
def rateFlits (r : Nat) : Nat := 192 * 2 ^ r
/-- G_max of R344. -/
def slotLimit (n r : Nat) : Nat := min 32 ((15 * n * rateFlits r / 16 - 48) / 325)
/-- The index of the child on a link. -/
def childIndex (s : State) (l : Nat) : Option Nat := s.crt.children.findIdx? (fun x => x = l)
/-- The link counts as UP (R226, R381). -/
def linkReady (s : State) (l : Nat) : Bool := linkState s l = 8 || rdBit s (linkA l 0x10) 1

/-- Physical lanes of a role on a link, with their logical index (R385). -/
def lanesOf (s : State) (l role : Nat) : List (Nat × Nat) :=
  (List.range 256).filterMap (fun p =>
    let v := rdReg s (laneA p 4)
    if fld v 2 2 = role ∧ fld v 4 6 = l then some (p, fld v 10 5) else none)

/-- The current step of the domain (R429): TB0 in steps of 0.8 ns. -/
def stepNow (s : State) : Nat := tb0Now s * 10 / 524288

/-! ### A link leaves UP (R352, R414, R416) -/

/-- A present child is missing: its LOST bit (R414). -/
def childGone (i : Nat) (s : State) : State :=
  setBit { s with crt := { s.crt with gone := if s.crt.gone.contains i then s.crt.gone else s.crt.gone ++ [i] } }
    (hstA 0x11C) i

/-- A link is no longer UP: a tree link fails the epoch with cause 9 and the far device's address while Running, and a
present child counts as missing. -/
def leaveUp (l : Nat) (s : State) : State :=
  if linkState s l ≠ 8 then s
  else
    let far := (linkOf s l).farDev
    let s1 := putLink l (fun k => { k with items := [], part := none, swap := none }) s
    let s2 := match childIndex s1 l with
      | some i => whenDo (rdBit s1 (hstA 0x118) i) (childGone i) s1
      | none => s1
    if linkMode s l = 1 then failFrom (curEpoch s2) 9 far s2 else s2

/-- Begin training from DETECT (R346). -/
def beginTraining (l : Nat) (s : State) : State :=
  let s1 := putLink l (fun k => { k with agreed := false, measured := false, badBlocks := 0, marks := [] }) (leaveUp l s)
  setLinkState l 1 s1

/-- A training attempt fails with a cause (R348 to R351): the third failed attempt stays in FAILED. -/
def trainFail (l cause : Nat) (s : State) : State :=
  let n := rdFld s (linkA l 0xC) 8 2 + 1
  let s1 := wrFld (wrFld s (linkA l 0xC) 4 4 cause) (linkA l 0xC) 8 2 n
  if 3 ≤ n then setLinkState l 9 (leaveUp l s1) else beginTraining l s1

/-- A link in service goes DOWN and trains again at once (R352). -/
def linkDown (l cause : Nat) (s : State) : State :=
  beginTraining l (wrFld s (linkA l 0xC) 4 4 cause)

/-- A link of the link map in one of the training states. -/
def training (s : State) (l : Nat) : Bool :=
  l < 64 && linkMode s l ≠ 0 && decide (1 ≤ linkState s l) && decide (linkState s l ≤ 7)

/-! ### Training ordered sets (R347 to R349) -/

/-- An ordered set that fails its CRC; sixteen in a row fail the attempt (R348). -/
def trainCrc (l : Nat) (s : State) : State :=
  let n := (linkOf s l).badBlocks + 1
  let s1 := putLink l (fun k => { k with badBlocks := n }) s
  if 16 ≤ n then trainFail l 4 s1 else s1

/-- A TS1 is received (R347): the far end names itself. -/
def ts1 (l : Nat) (t : TrainSet) (s : State) : State :=
  if !training s l then s
  else if !t.good then trainCrc l s
  else putLink l (fun k => { k with badBlocks := 0, farDev := t.device % 4096, farLink := t.link }) s

def execTs1 (l : Nat) (t : TrainSet) (s : State) : Out := .next (ts1 l t s)

/-- The shape byte that this end sends: N - 1, spare, stream mode (R347). -/
def ownShape (s : State) (l : Nat) : Nat :=
  rdFld s (linkA l 0) 13 4 + 16 * rdFld s (linkA l 0) 2 1 + 32 * b2n (linkMode s l = 2)

/-- A TS2 is received in ALIGN: the ends agree in N, spare, RATE, stream mode and TARGET, or the attempt fails with
CONFIG (R348); the granted slots and QMAX follow (R344, R345). -/
def ts2 (l : Nat) (t : TrainSet) (s : State) : State :=
  if !training s l || linkState s l ≠ 4 then s
  else if !t.good then trainCrc l s
  else if t.shape % 64 ≠ ownShape s l ∨ t.rate ≠ rdFld s (linkA l 0) 3 2 ∨ t.target ≠ linkTarget s l then trainFail l 4 s
  else
    let n := linkLanes s l
    let r := rdFld s (linkA l 0) 3 2
    let g := if linkMode s l = 2 then 0 else min (min t.slots (rdFld s (linkA l 0) 17 6)) (slotLimit n r)
    let s1 := putLink l (fun k => { k with badBlocks := 0, agreed := true, farSlots := t.slots,
                                           farDev := t.device % 4096, farLink := t.link }) s
    wrFld (wrFld s1 (linkA l 8) 24 6 g) (linkA l 4) 24 8 (min 48 (Config.qmax n r g))

def execTs2 (l : Nat) (t : TrainSet) (s : State) : Out := .next (ts2 l t s)

/-- A MARK reaches the receive point at domain step `step` (R349). -/
def markEv (l stamp step : Nat) (s : State) : State :=
  if training s l ∧ linkMode s l = 1 then
    putLink l (fun k => { k with marks := k.marks ++ [(stamp % 65536, step)] }) s
  else s

def execMark (l stamp step : Nat) (s : State) : Out := .next (markEv l stamp step s)

/-- Exactly 64 steps after a MARK reached the receive point it is returned (R349). -/
def markReturn (l stamp step : Nat) (s : State) : State :=
  if (linkOf s l).marks.contains (stamp, step - 64) ∧ 64 ≤ step then
    { putLink l (fun k => { k with marks := k.marks.erase (stamp, step - 64) }) s with
      outbox := .markEcho l stamp :: s.outbox }
  else s

def execMarkReturn (l stamp step : Nat) (s : State) : Out := .next (markReturn l stamp step s)

/-- The MARK_ECHO of the device's own MARK returns after `r` steps: the latency estimate is held against TARGET (R349). -/
def markEcho (l r : Nat) (s : State) : State :=
  if training s l ∧ linkMode s l = 1 ∧ linkState s l = 5 then
    let s1 := wrReg s (linkA l 0x20) (BitVec.ofNat 32 (r % 65536))
    let est := ceilDiv (r - 64) 2 + linkQmax s l + 23
    if linkTarget s l < est + linkMargin s l then trainFail l 5 s1
    else putLink l (fun k => { k with measured := true }) s1
  else s

def execMarkEcho (l r : Nat) (s : State) : Out := .next (markEcho l r s)

/-! ### The service class (R361, R362) -/

/-- The flits of a message: 28 payload bytes each. -/
def svcChunks (n : Nat) (bytes : List Byte) : List (List Byte) :=
  match n with
  | 0 => []
  | k + 1 => bytes.take 28 :: (if bytes.length ≤ 28 then [] else svcChunks k (bytes.drop 28))

/-- Move waiting flits out while fewer than 128 are unacknowledged (R361). -/
def svcPump (k : Link) : Link :=
  let room := 128 - k.svcOut.length
  { k with svcOut := k.svcOut ++ k.svcWait.take room, svcWait := k.svcWait.drop room }

/-- Send a service message of device `src` on a link (R361, R362); a message passed on keeps its SRC (R410). -/
def sendServiceFrom (src l opc dst : Nat) (body : List Byte) (s : State) : State :=
  let bytes := leBytes 2 opc ++ leBytes 2 body.length ++ leBytes 2 src ++ leBytes 2 dst ++ body
  let parts := svcChunks (bytes.length / 28 + 1) bytes
  let n := parts.length
  let q := (linkOf s l).svcTx
  let flits := parts.zipIdx.map (fun x =>
    ({ seq := (q + x.2) % 256, som := x.2 = 0, eom := x.2 + 1 = n, body := x.1 } : SvcFlit))
  let s1 := putLink l (fun k => svcPump { k with svcTx := (q + n) % 256, svcWait := k.svcWait ++ flits }) s
  { s1 with outbox := .service l opc src dst body :: s1.outbox }

/-- Send a service message of this device on a link (R361, R362); SRC is 0xFFF while it has no address (R399). -/
def sendService (l opc dst : Nat) (body : List Byte) (s : State) : State :=
  sendServiceFrom (if assigned s then devAddr s else 0xFFF) l opc dst body s

/-- Send a service message to every present child (R362, R405). -/
def sendServiceDown (opc dst : Nat) (body : List Byte) (s : State) : State :=
  (presentLinks s).foldl (fun acc l => sendService l opc dst body acc) s

/-- Send a service message to the head. -/
def sendServiceUp (opc dst : Nat) (body : List Byte) (s : State) : State :=
  match s.crt.uplink with
  | some l => sendService l opc dst body s
  | none => s

/-! ### Training states (R346, R350, R351) -/

/-- The last ROLLBACK is sent again on a child link that returns to UP (R416). -/
def resendRollback (l : Nat) (s : State) : State :=
  match s.spr.lastRb, childIndex s l with
  | some m, some i => whenDo (rdBit s (hstA 0x118) i && (s.chip.devState = .held || s.spr.phase = .rollback))
      (sendSpring l m) s
  | _, _ => s

/-- A child that comes UP without being present in the current enumeration (R405). -/
def lateChild (l : Nat) (s : State) : State :=
  match childIndex s l with
  | some i =>
    if rdBit s (hstA 0x118) i then { s with crt := { s.crt with gone := s.crt.gone.filter (fun x => x ≠ i) } }
    else whenDo (decide (2 ≤ rdFld s (hstA 0x104) 18 3)) (fun x => setBit x (hstA 0x104) 25) s
  | none => s

/-- A child link that comes UP while an enumeration waits for its child is probed then (R401). -/
def probeChild (l : Nat) (s : State) : State :=
  match childIndex s l with
  | some i =>
    if s.crt.probing ∧ (mapGet none s.crt.answers i).isNone then
      sendService l 0x30 0xFFF (leBytes 4 (rdFld s (hstA 0x10C) 24 8)) s
    else s
  | none => s

/-- A link enters UP (R350). -/
def enterUp (l : Nat) (s : State) : State :=
  let s1 := wrFld (wrFld (setLinkState l 8 s) (linkA l 0xC) 4 4 0) (linkA l 0xC) 8 2 0
  let s2 := putLink l (fun k => { k with items := [], part := none }) s1
  if linkMode s l = 2 then portShow l s2 else probeChild l (resendRollback l (lateChild l s2))

/-- PIN measures the largest latency over one link frame (R350). -/
def pinDone (l lam : Nat) (s : State) : State :=
  let t := linkTarget s l
  let s1 := wrFld s (linkA l 8) 0 16 lam
  if t < lam + linkMargin s l then trainFail l 5 s1
  else if 256 < t - lam then trainFail l 6 s1
  else enterUp l (wrFld s1 (linkA l 8) 16 8 (min 255 (t - lam)))

/-- LINK_STATE_DONE: the training state of a link completes its work (R346). `lam` is the latency that PIN measured. A
link that no shell has configured yet goes to boot service mode (R335). -/
def linkStateDone (l lam : Nat) (s : State) : State :=
  if 64 ≤ l then s
  else if linkMode s l = 0 then
    if s.chip.devState = .boot ∧ s.chip.shellUp = false ∧ l < 16 then setLinkState l 10 s else s
  else
    let stream := linkMode s l = 2
    match linkState s l with
    | 1 => setLinkState l 2 s
    | 2 => setLinkState l (if stream then 4 else 3) s
    | 3 => setLinkState l 4 s
    | 4 => if (linkOf s l).agreed then (if stream then enterUp l s else setLinkState l 5 s) else s
    | 5 => if (linkOf s l).measured then setLinkState l 6 s else s
    | 6 => if s.crt.uplink = some l ∧ rdBit s (timA 4) 1 = false then s else setLinkState l 7 s
    | 7 => pinDone l lam s
    | _ => s

/-- FAIL code of a stage that exceeds its limit (R389). -/
def stageCode (st : Nat) : Nat := if st ≤ 3 then st else 7

/-- LINK_STAGE_TIMEOUT (R351). -/
def linkStageTimeout (l : Nat) (s : State) : State :=
  if training s l then trainFail l (stageCode (linkState s l)) s else s

/-- May a stream port train? It stays in electrical idle in Boot and Blank, and in Loading until LD_COMMIT (R352). -/
def portMayTrain (s : State) : Bool :=
  s.chip.devState = .ready || s.chip.devState = .running || s.chip.devState = .held ||
    (s.chip.devState = .loading && decide (8 ≤ rdFld s (imgA 4) 0 5) && decide (rdFld s (imgA 4) 0 5 ≤ 9))

/-- RETRAIN restarts training from DETECT (R351, R389). -/
def retrain (l : Nat) (s : State) : State :=
  if 64 ≤ l ∨ linkMode s l = 0 ∨ (linkMode s l = 2 ∧ portMayTrain s = false) then s
  else beginTraining l (wrFld (wrFld s (linkA l 0xC) 4 4 0) (linkA l 0xC) 8 2 0)

/-- LANE_LOCK_LOST (R352, R620): the link goes DOWN when more active lanes have lost block lock than the spare can
replace. -/
def laneLockLost (p : Nat) (s : State) : State :=
  let v := rdReg s (laneA p 4)
  let l := fld v 4 6
  if 256 ≤ p ∨ fld v 2 2 = 0 then s
  else
    let s1 := wrFld s (laneA p 4) 0 2 0
    if fld v 2 2 ≠ 1 ∨ linkState s l ≠ 8 then s1
    else
      let bad := (lanesOf s1 l 1).countP (fun q => !rdBit s1 (laneA q.1 4) 1)
      let s2 := reportFail 0x1A 2 p (fld v 10 5) s1
      if b2n (rdBit s (linkA l 0x1C) 30) < bad then linkDown l 0 s2 else s2

/-! ### Signals (R353 to R356, R148, R149) -/

/-- No receive latch is written from the moment ticks stop for a rollback or a stop at commit until T_S (R356). -/
def latchGate (s : State) : Bool := s.spr.phase = .rollback || s.spr.phase = .held || (s.spr.armed && s.spr.rb.isSome)

/-- A flit that failed its CRC on a lane: counted (R357, R386). -/
def laneCrc (p : Nat) (s : State) : State := incFld s (laneA p 8) 0 32

/-- SIGNAL: the 24 items of a bundle and slot arrive (R353). `lam` is the measured latency of the flit. -/
def signalEv (l slot bundle : Nat) (items : List (Bool × Ctx)) (lam lane : Nat) (good : Bool) (s : State) : State :=
  if 64 ≤ l ∨ linkMode s l ≠ 1 ∨ linkState s l ≠ 8 then s
  else if !good then failNow 1 (laneFault lane 0x18 (laneCrc lane (setBit s (lkErr l) 0)))
  else
    let slack := linkTarget s l - lam
    let s1 := if slack < rdFld s (linkA l 8) 16 8 then wrFld s (linkA l 8) 16 8 slack else s
    let s2 := whenDo (slack < 2 && !rdBit s1 (lkErr l) 5) (fun x => hostEvent 4 (setBit x (lkErr l) 5)) s1
    if latchGate s2 then s2
    else
      let new := (items.take 24).zipIdx.map (fun q =>
        ({ slot := slot, step := 24 * bundle + q.2, valid := q.1.1, value := q.1.2 } : SigItem))
      putLink l (fun k => { k with items := k.items ++ new }) s2

def execSignal (l slot bundle : Nat) (items : List (Bool × Ctx)) (lam lane : Nat) (good : Bool) (s : State) : Out :=
  .next (signalEv l slot bundle items lam lane good s)

/-- A receive latch takes a value at schedule step `t`, readable two steps later (R149). -/
def latchWrite (i t : Nat) (v : Ctx) (s : State) : State :=
  let old := mapGet 0#8 s.cl.latch i
  let pend := mapGet [] s.cl.latchOld i
  let pend1 := if s.spr.pos = .schedule then pend ++ [(t + 2, old)] else pend
  { s with cl := { s.cl with latch := mapSet 0 s.cl.latch i v, latchOld := mapSet [] s.cl.latchOld i pend1 } }

/-- What edge transmit slot `j` of link `l` sends for schedule step `t`: the value of its wire and a valid bit (R148); a
parity error in the entry sends valid = 0 (R157). -/
def txItem (s : State) (l j t : Nat) : Option Ctx :=
  let v := rdReg s (linkA l (0x800 + 4 * j))
  if cfgGood s (linkA l (0x800 + 4 * j)) && bit v 15 then globalWire s (fld v 0 4) (fld v 4 8) t else none

/-- A bad HSL_ETX entry was used (R157, R158, R620). -/
def etxFault (l : Nat) (s : State) : State :=
  let s1 := report 0x30 5 (1 + l) 0 (setBit s (lkErr l) 7)
  failNow 1 s1

/-- SIGNAL_ITEM_RELEASE: the item that slot `slot` sent at transmit step `step` is due at the receive point, at schedule
step `t` of the tick (R354). With LB4 the slot's own value of schedule step `step` returns (R381). -/
def signalRelease (l slot step t : Nat) (s : State) : State :=
  if 64 ≤ l ∨ 32 ≤ slot ∨ latchGate s = true then s
  else if rdBit s (linkA l 0x10) 1 then
    let s1 := whenDo (!cfgGood s (linkA l (0x800 + 4 * slot))) (etxFault l) s
    match txItem s l slot step with
    | some v => latchWrite (32 * l + slot) t v s1
    | none => s1
  else if linkState s l ≠ 8 ∨ linkMode s l ≠ 1 ∨ rdFld s (linkA l 8) 24 6 ≤ slot then s
  else
    match (linkOf s l).items.find? (fun i => i.slot = slot ∧ i.step = step) with
    | none => failNow 1 (setBit s (lkErr l) 4)
    | some i =>
      let s1 := putLink l (fun k => { k with items := k.items.filter (fun x => !(x.slot = slot && x.step = step)) }) s
      if i.valid then latchWrite (32 * l + slot) t i.value s1 else s1

def execSignalItemRelease (l slot step t : Nat) (s : State) : Out := .next (signalRelease l slot step t s)

/-! ### Receiving service flits (R361) -/

/-- Unacknowledged flits are sent again; sixteen times without progress takes the link down (R361). -/
def svcResend (l : Nat) (s : State) : State :=
  let k := linkOf s l
  if k.svcOut = [] then s
  else if 16 ≤ k.svcTries + 1 then
    linkDown l 8 (putLink l (fun x => { x with svcTries := 0 }) (setBit s (lkErr l) 6))
  else
    let s1 := putLink l (fun x => { x with svcTries := x.svcTries + 1 }) s
    let v := (rdReg s1 (linkA l 0x18)).toNat
    let s2 := wrReg s1 (linkA l 0x18) (BitVec.ofNat 32 (min 0xFFFFFFFF (v + k.svcOut.length)))
    { s2 with outbox := .svcResend l (k.svcOut.map (fun f => f.seq)) :: s2.outbox }

/-- Links on which service flits run. -/
def serviceOpen (s : State) (l : Nat) : Bool :=
  l < 64 && linkMode s l ≠ 2 && (decide (6 ≤ linkState s l) && decide (linkState s l ≤ 8) || linkState s l = 10)

/-- SERVICE: the flit with the next expected SEQ is accepted, any other is not; a CRC failure or a gap sets NAK (R361). -/
def serviceEv (l seq : Nat) (som eom : Bool) (body : List Byte) (lane : Nat) (good : Bool) (s : State) : State :=
  if !serviceOpen s l then s
  else
    let k := linkOf s l
    if !good then putLink l (fun x => { x with svcNak := true }) (report 0x19 2 lane (rdFld s (laneA lane 4) 10 5)
      (laneCrc lane s))
    else if seq ≠ k.svcRx then putLink l (fun x => { x with svcNak := true }) s
    else
      let part := if som then body else k.svcPart ++ body
      let live := som || k.svcOpen
      let done := live && eom
      putLink l (fun x => { x with
        svcRx := (seq + 1) % 256
        svcNak := false
        svcOpen := live && !eom
        svcPart := if done || !live then [] else part
        svcLast := if done then part else x.svcLast }) s

def execService (l seq : Nat) (som eom : Bool) (body : List Byte) (lane : Nat) (good : Bool) (s : State) : Out :=
  .next (serviceEv l seq som eom body lane good s)

/-- The flits that ACK acknowledges: those up to its sequence number. -/
def svcAcked (out : List SvcFlit) (ack : Nat) : List SvcFlit :=
  match out.findIdx? (fun f => f.seq = ack) with
  | some i => out.drop (i + 1)
  | none => out

/-- The far end of the upstream link has another address: the primary path has changed (R441). -/
def farChanged (l dev : Nat) (s : State) : State :=
  let k := linkOf s l
  let jump := s.crt.uplink = some l && k.farDev ≠ 0xFFF && k.farDev ≠ dev
  let s1 := putLink l (fun x => { x with farDev := dev }) s
  whenDo jump (fun x => setBit { x with tim := { x.tim with changed := true } } (timA 4) 10) s1

/-- MGMT: ACK and NAK of the service class, and the far end's state, address and committed epochs (R361, R363). -/
def mgmtEv (l ack : Nat) (nak : Bool) (dstate dev commit lane : Nat) (good : Bool) (s : State) : State :=
  if 64 ≤ l ∨ linkState s l < 6 ∨ linkState s l = 9 then s
  else if !good then laneCrc lane s
  else if linkMode s l = 2 then s
  else
    let k := linkOf s l
    let out := svcAcked k.svcOut (ack % 256)
    let moved := out.length < k.svcOut.length
    let s1 := putLink l (fun x => svcPump { x with
      svcOut := out
      svcTries := if moved then 0 else x.svcTries
      farState := dstate % 8
      farCommit := commit }) s
    whenDo nak (svcResend l) (farChanged l (dev % 4096) s1)

def execMgmt (l ack : Nat) (nak : Bool) (dstate dev commit lane : Nat) (good : Bool) (s : State) : Out :=
  .next (mgmtEv l ack nak dstate dev commit lane good s)

/-- IDLE is ignored; a failed CRC is counted (R357). -/
def execIdle (l lane : Nat) (good : Bool) (s : State) : Out :=
  .next (if l < 64 ∧ linkMode s l ≠ 0 ∧ good = false then laneCrc lane s else s)

/-- RESERVED_FLIT: a reserved type (`kind` 0), STREAM KIND (1), or TIME KIND or message (2) counts as a flit that failed
its CRC (R341, R357, R359, R620). -/
def reservedFlit (l lane kind : Nat) (s : State) : State :=
  if 64 ≤ l ∨ linkMode s l = 0 then s
  else match kind with
    | 0 => failNow 1 (laneFault lane 0x18 (laneCrc lane s))
    | 1 => if portUp s l then streamCrc l lane none s else s
    | _ => if timeOpen s l then timeCrc { link := l, seq := 0, gen := 0, good := false, lane := lane } s else s

def execReservedFlit (l lane kind : Nat) (s : State) : Out := .next (reservedFlit l lane kind s)

/-! ### Management commands (R363, R378, R380, R382) -/

def sendMgmt (l cmd clane cid : Nat) (s : State) : State := { s with outbox := .mgmt l cmd clane cid :: s.outbox }

/-- Begin a command of this end: repeated until its answer arrives (R363). -/
def sendCmd (l cmd clane : Nat) (s : State) : State :=
  let c := (linkOf s l).nextCid
  let s1 := putLink l (fun k => { k with cmd := some { cmd := cmd, clane := clane, cid := c }, nextCid := (c + 1) % 65536 }) s
  sendMgmt l cmd clane c s1

/-- Management flits are received on a link that carries flits. -/
def mgmtOpen (s : State) (l : Nat) : Bool :=
  l < 64 && linkMode s l ≠ 0 && decide (6 ≤ linkState s l) && linkState s l ≠ 9

/-- The first step that is a multiple of 325 and at least 650 steps after the ACK (R378). -/
def switchStep (ack : Nat) : Nat := 325 * ceilDiv (ack + 650) 325

/-- SWAP from the far end: answered with SWAP_ACK at domain step `step` (R378). -/
def swapEv (l lane cid step : Nat) (s : State) : State :=
  if mgmtOpen s l ∧ rdBit s (linkA l 0x1C) 30 = true then
    sendMgmt l 2 lane cid (putLink l (fun k => { k with swap := some (lane, switchStep step) }) s)
  else s

def execSwap (l lane cid step : Nat) (s : State) : Out := .next (swapEv l lane cid step s)

/-- The command of this end with an identifier, if it waits. -/
def cmdWaiting (s : State) (l cid : Nat) : Option LinkCmd :=
  if mgmtOpen s l then (linkOf s l).cmd.filter (fun c => c.cid = cid) else none

/-- SWAP_ACK fixes the switch step (R378). -/
def swapAck (l cid step : Nat) (s : State) : State :=
  match cmdWaiting s l cid with
  | some c =>
    if c.cmd = 1 then putLink l (fun k => { k with cmd := none, swap := some (c.clane, switchStep step) }) s else s
  | none => s

def execSwapAck (l cid step : Nat) (s : State) : Out := .next (swapAck l cid step s)

/-- Physical lane `p` becomes the spare of link `l`. -/
def makeSpare (l p : Nat) (s : State) : State :=
  let s1 := wrFld (wrFld s (laneA p 4) 2 2 2) (laneA p 4) 10 5 16
  wrFld (wrFld s1 (linkA l 0x1C) 0 8 p) (linkA l 0x1C) 30 1 1

/-- Physical lane `p` of link `l` leaves service (R378, R391). -/
def retireLane (l p : Nat) (s : State) : State :=
  let s1 := wrFld (wrFld s (laneA p 4) 2 2 3) (laneA p 4) 16 1 0
  wrFld (wrFld s1 (linkA l 0x1C) 8 8 p) (linkA l 0x1C) 31 1 1

/-- The spare of link `l` takes logical lane `i` (R378). -/
def swapLanes (l i : Nat) (s : State) : State :=
  let spare := rdFld s (linkA l 0x1C) 0 8
  let s1 := match (lanesOf s l 1).find? (fun q => q.2 = i) with
    | some (p, _) => retireLane l p s
    | none => s
  let s2 := wrFld (wrFld s1 (laneA spare 4) 2 2 1) (laneA spare 4) 10 5 i
  incFld (wrFld s2 (linkA l 0x1C) 30 1 0) (linkA l 0x1C) 16 14

/-- SWAP_SWITCH: both ends move the logical lane to the spare at the agreed step (R378). -/
def swapSwitch (l : Nat) (s : State) : State :=
  match (linkOf s l).swap with
  | some (i, _) =>
    if rdBit s (linkA l 0x1C) 30 then
      setBit (swapLanes l i (putLink l (fun k => { k with swap := none }) s)) (lkErr l) 11
    else putLink l (fun k => { k with swap := none }) s
  | none => s

def execSwapSwitch (l : Nat) (s : State) : Out := .next (if l < 64 then swapSwitch l s else s)

/-- The physical lane of a link that is retired (R391). -/
def retiredLanes (s : State) (l : Nat) : List Nat := (lanesOf s l 3).map (fun q => q.1)

/-- BIST_ON from the far end, naming physical lane `p` of the link: only a retired lane is tested (R380). -/
def bistOn (l p cid : Nat) (s : State) : State :=
  if !mgmtOpen s l then s
  else if (retiredLanes s l).contains p then
    sendMgmt l 9 p cid (putLink l (fun k => { k with bist := some p }) s)
  else sendMgmt l 10 p cid s

def execBistOn (l p cid : Nat) (s : State) : Out := .next (bistOn l p cid s)

/-- BIST_OFF ends a lane BIST (R380). -/
def execBistOff (l p cid : Nat) (s : State) : Out :=
  .next (if mgmtOpen s l then sendMgmt l 9 p cid (putLink l (fun k => { k with bist := none }) s) else s)

/-- A retired lane that has passed its BIST becomes the spare of a link that has none (R379). -/
def laneReturn (l : Nat) (s : State) : State :=
  if rdBit s (linkA l 0x1C) 30 then s
  else match (retiredLanes s l).find? (fun p => rdBit s (laneA p 4) 16) with
    | some p => makeSpare l p s
    | none => s

/-- Lanes return to their links at an epoch boundary (R379). -/
def laneReturns (s : State) : State := (List.range 64).foldl (fun acc l => laneReturn l acc) s

/-- The link of a lane under BIST. -/
def bistLink (s : State) (p : Nat) : Option Nat := (List.range 64).find? (fun l => (linkOf s l).bist = some p)

/-- LANE_BIST_DONE: the test of 2^37 bits per direction ends; it passes without an error (R379, R380, R390). -/
def laneBistDone (p errors : Nat) (s : State) : State :=
  match bistLink s p with
  | none => s
  | some l =>
    let s1 := sendCmd l 4 p (putLink l (fun k => { k with bist := none }) (setBit s (lkErr l) 12))
    let s2 := wrFld s1 (laneA p 4) 16 1 (b2n (errors = 0))
    if s.chip.devState = .running then s2 else laneReturn l s2

/-- Does the link carry signal or stream traffic of a Running model (R382)? -/
def carriesModel (s : State) (l : Nat) : Bool := s.chip.devState = .running && linkState s l = 8

/-- LB2_ON or LB3_ON from the far end (R382). -/
def loopOn (depth l lane cid : Nat) (s : State) : State :=
  if !mgmtOpen s l then s
  else if carriesModel s l then sendMgmt l 10 lane cid s
  else sendMgmt l 9 lane cid (putLink l (fun k => { k with farLoop := some (depth, lane) }) s)

/-- LB2_OFF or LB3_OFF from the far end (R381). -/
def loopOff (depth l lane cid : Nat) (s : State) : State :=
  if !mgmtOpen s l then s
  else
    let off := (linkOf s l).farLoop.any (fun q => q.1 = depth)
    sendMgmt l 9 lane cid (whenDo off (putLink l (fun k => { k with farLoop := none })) s)

def execLb2On (l lane cid : Nat) (s : State) : Out := .next (loopOn 2 l lane cid s)
def execLb2Off (l lane cid : Nat) (s : State) : Out := .next (loopOff 2 l lane cid s)
def execLb3On (l lane cid : Nat) (s : State) : Out := .next (loopOn 3 l lane cid s)
def execLb3Off (l lane cid : Nat) (s : State) : Out := .next (loopOff 3 l lane cid s)

/-- CMD_ACK answers the command that waits (R363): an acknowledged BIST_ON begins the test at this end. -/
def cmdAck (l cid : Nat) (s : State) : State :=
  match cmdWaiting s l cid with
  | some c => putLink l (fun k => { k with cmd := none, bist := if c.cmd = 3 then some c.clane else k.bist }) s
  | none => s

def execCmdAck (l cid : Nat) (s : State) : Out := .next (cmdAck l cid s)

/-- CMD_REFUSE ends the command that waits (R363, R382). -/
def cmdRefuse (l cid : Nat) (s : State) : State :=
  match cmdWaiting s l cid with
  | some _ => putLink l (fun k => { k with cmd := none }) s
  | none => s

def execCmdRefuse (l cid : Nat) (s : State) : Out := .next (cmdRefuse l cid s)

/-! ### Loopbacks and patterns (R381 to R384) -/

/-- Does R382 let LB, PGEN and PCHK of a lane be set? -/
def laneFree (s : State) (p : Nat) : Bool :=
  let v := rdReg s (laneA p 4)
  fld v 2 2 = 0 || fld v 2 2 = 3 || linkState s (fld v 4 6) = 0 || linkState s (fld v 4 6) = 9

/-- CNT_CLR clears the CRC, error and bit counts of a lane (R384). -/
def laneCntClr (p : Nat) (s : State) : State :=
  [0x8, 0xC, 0x10, 0x14].foldl (fun acc o => wrReg acc (laneA p o) 0) s

/-- A write of HSL_LN_CTRL (R382, R384): refused where it would set a loopback or a pattern on a lane in service. -/
def laneCtrlRefused (s : State) (p : Nat) (v : Word) : Bool := (v &&& 0x773) ≠ 0 && !laneFree s p

def laneCtrlWrite (p : Nat) (v : Word) (s : State) : State :=
  if 256 ≤ p ∨ s.chip.shellUp = false ∨ laneCtrlRefused s p v then s
  else
    let s1 := wrReg s (laneA p 0) (v &&& 0x773)
    let s2 := whenDo (fld v 8 3 ≠ rdFld s (laneA p 0) 8 3)
      (fun x => wrFld { x with prbs := mapSet Checker.reset x.prbs p Checker.reset } (laneA p 4) 15 1 0) s1
    whenDo (bit v 11) (laneCntClr p) s2

/-- Does R382 refuse a write of HSL_LK_CTRL? -/
def loopbackRefused (s : State) (l : Nat) (v : Word) : Bool :=
  let old := rdReg s (linkA l 0x10)
  let idle := linkState s l = 0 || linkState s l = 9
  let off := linkState s l = 11
  let st := s.chip.devState
  let lb4 := bit v 1 && !bit old 1
  let far := fld v 2 2 ≠ 0 && fld v 2 2 ≠ fld old 2 2
  ((lb4 || far) && !(idle || off)) || (lb4 && !(st = .blank || st = .ready || st = .held))

/-- A write of FARLB, FARLANE or LB4 (R381, R382): a link under loopback is in state LOOP (R346). -/
def loopbackWrite (l : Nat) (v : Word) (s : State) : State :=
  if 64 ≤ l ∨ s.chip.shellUp = false ∨ loopbackRefused s l v then s
  else
    let old := rdReg s (linkA l 0x10)
    let s1 := wrReg s (linkA l 0x10) (v &&& 0x1FE)
    let far := fld v 2 2
    let was := fld old 2 2
    let s2 := if far ≠ was ∧ was = 1 then sendCmd l 6 (fld old 4 5) s1
      else if far ≠ was ∧ was = 2 then sendCmd l 8 0 s1 else s1
    let s3 := if far ≠ was ∧ far = 1 then sendCmd l 5 (fld v 4 5) s2
      else if far ≠ was ∧ far = 2 then sendCmd l 7 0 s2 else s2
    if far ≠ 0 ∨ bit v 1 = true then setLinkState l 11 s3
    else if linkState s l = 11 then setLinkState l 0 s3 else s3

/-- The two taps of a pattern (R383). -/
def prbsTaps (pchk : Nat) : Option (Nat × Nat) :=
  match pchk with
  | 1 => some (7, 6)
  | 2 => some (15, 14)
  | 3 => some (23, 18)
  | 4 => some (31, 28)
  | _ => none

/-- One received bit at a checker (R383): synchronised on 64 error-free bits, it then counts every bit that differs. The
history holds the newest bit first: received bits before synchronisation, the pattern's own bits after. -/
def prbsBit (p : Nat) (taps : Nat × Nat) (b : Bool) (s : State) : State :=
  let c := mapGet Checker.reset s.prbs p
  let want := (c.hist.getD (taps.1 - 1) false) != (c.hist.getD (taps.2 - 1) false)
  let full := taps.1 ≤ c.hist.length
  let put := fun (k : Checker) (x : State) => { x with prbs := mapSet Checker.reset x.prbs p k }
  if c.synced then
    let n := (rdReg s (laneA p 0x10)).toNat + 2 ^ 32 * (rdReg s (laneA p 0x14)).toNat + 1
    let s1 := wrReg (wrReg s (laneA p 0x10) (BitVec.ofNat 32 n)) (laneA p 0x14) (BitVec.ofNat 32 (n / 2 ^ 32))
    whenDo (b != want) (fun x => incFld x (laneA p 0xC) 0 32) (put { c with hist := (want :: c.hist).take 31 } s1)
  else
    let run := if full && b == want then c.run + 1 else 0
    let s1 := put { run := run, synced := decide (64 ≤ run), hist := (b :: c.hist).take 31 } s
    whenDo (decide (64 ≤ run)) (fun x => wrFld x (laneA p 4) 15 1 1) s1

/-- PRBS_RECEIVE: bits reach the checker of a lane (R383). -/
def prbsReceive (p : Nat) (bits : List Bool) (s : State) : State :=
  match prbsTaps (rdFld s (laneA p 0) 8 3) with
  | some t => if p < 256 then bits.foldl (fun acc b => prbsBit p t b acc) s else s
  | none => s

def execPrbsReceive (p : Nat) (bits : List Bool) (s : State) : Out := .next (prbsReceive p bits s)

end Sys2Proof.Machine
end

