-- ==== Sys2Proof/Machine/Crate.lean ====
section
/-! DEFINITION. The crate (chapter 09): enumeration, addresses, routing of service messages and the status word of the
subtree. -/

namespace Sys2Proof.Machine

/-! ### Crate registers (R418 to R425) -/

def crtStatus : Nat := hstA 0x104
def crtDomain : Nat := hstA 0x10C
def crtTree : Nat := hstA 0x110
def enumState (s : State) : Nat := rdFld s crtStatus 18 3
def setEnum (n : Nat) (s : State) : State := wrFld s crtStatus 18 3 n
def enGen (s : State) : Nat := rdFld s crtDomain 24 8
def childCell (i : Nat) : Nat := hstA (0x140 + 4 * i)
def isPresent (s : State) (i : Nat) : Bool := rdBit s (hstA 0x118) i
/-- Indices of the present children, in child order. -/
def presentIdx (s : State) : List Nat := (List.range s.crt.children.length).filter (isPresent s)
def childLink (s : State) (i : Nat) : Nat := s.crt.children.getD i 0

/-! ### Routing (R410) -/

/-- Where a service message for device `d` goes from here: to the device itself, to a link, or nowhere. -/
inductive Route where
  | self | link (l : Nat) | nowhere
deriving DecidableEq, Repr

def routeTo (s : State) (d : Nat) : Route :=
  let a := devAddr s
  if !assigned s then .nowhere
  else if d = a then .self
  else if a < d ∧ d ≤ a + rdFld s (hstA 0x108) 16 13 - 1 then
    match (presentIdx s).find? (fun i => rdFld s (childCell i) 0 12 ≤ d ∧
        d < rdFld s (childCell i) 0 12 + rdFld s (childCell i) 16 13) with
    | some i => .link (childLink s i)
    | none => .nowhere
  else match s.crt.uplink with
    | some l => .link l
    | none => .nowhere

/-! ### Remote accesses (R41, R410, R412) -/

/-- Status code of a response flit (R531). -/
def statCode (st : RespStatus) : Nat :=
  match st with
  | .ok => 0
  | .error => 1
  | .poison => 2

/-- A completed access for a requester that takes its answer from the response network. -/
def giveResp (who : Requester) (st : RespStatus) (data : Word) (s : State) : State :=
  { s with chip := { s.chip with resps := { who := who, status := st, data := data } :: s.chip.resps } }

/-- A requester learns the outcome of its access: the host through a completion or its error flags (R699), the
management target and JTAG in their own registers (R665, R707), another device by RRSP (R362), the time block and the
loader of a device that forwards a request by their flags (R249, R433). -/
def answer (who : Requester) (write : Bool) (st : RespStatus) (data : Word) (s : State) : State :=
  let bad := decide (st ≠ .ok)
  match who with
  | .host =>
    let s1 := giveResp who st data s
    if st = .error then hostEvent 8 (setBit s1 (hstA 0) (if write then 10 else 9)) else s1
  | .steward _ | .core _ | .dma _ => giveResp who st data s
  | .remote dev tag =>
    match routeTo s dev with
    | .link l =>
      sendService l 0x02 dev (leBytes 2 tag ++ leBytes 1 (b2n bad) ++ [0#8] ++ leBytes 4 data.toNat) s
    | _ => s
  | .i2c => { s with hst := { s.hst with
      i2cStat := b2n bad, i2cBusy := false
      i2cReply := leBytes 1 (b2n bad) ++ (if write then [] else leBytes 4 data.toNat) } }
  | .jtag => { s with trc := { s.trc with jtag := { s.trc.jtag with
      accData := if write then s.trc.jtag.accData else data, accStat := b2n bad, accBusy := false } } }
  | .tim => if bad then setBit s (timA 4) 14 else s
  | .loader => if bad then setBit s (imgA 4) 6 else s
  | .mover | .attic => s

/-- Issue a remote register access to another device: an RREQ on the way to it, or an error response at once where no
way leads there (R41, R362, R410). -/
def remoteIssue (who : Requester) (dev addr : Nat) (write : Bool) (data : Word) (s : State) : State :=
  match routeTo s dev with
  | .link l =>
    let tag := s.chip.nextTag
    let r : RemoteAcc := { who := who, tag := tag, dev := dev, addr := addr, write := write, data := data,
                           issued := tb1Now s }
    let body := leBytes 5 addr ++ leBytes 1 (b2n write) ++ leBytes 2 tag ++ (if write then leBytes 4 data.toNat else [])
    sendService l 0x01 dev body { s with chip := { s.chip with
      remote := s.chip.remote ++ [r], nextTag := (tag + 1) % 65536 } }
  | _ => answer who write .error 0 s

/-! ### Enumeration (R399 to R403) -/

/-- The device sends its own EN_COUNT (R399, R401). -/
def sendCount (busy missing tooMany : Bool) (size depth tsub : Nat) (s : State) : State :=
  sendServiceUp 0x31 0xFFF (leBytes 1 (enGen s) ++ leBytes 1 (b2n busy + 2 * b2n missing + 4 * b2n tooMany) ++
    leBytes 2 size ++ leBytes 1 depth ++ [0#8] ++ leBytes 2 tsub) s

/-- The root ends an enumeration as failed (R402). -/
def enumFail (cause : Nat) (s : State) : State :=
  let s1 := wrFld (setEnum 4 s) crtStatus 21 4 cause
  hostEvent 2 (sendServiceDown 0x34 0xFFF (leBytes 1 (enGen s1) ++ leBytes 1 cause) s1)

/-- The device's part of the numbering is done (R403). -/
def assignDone (s : State) : State :=
  if (presentIdx s).all (fun i => s.crt.done.contains i) then
    let s1 := setEnum 3 s
    if s.crt.isRoot then hostEvent 2 s1 else sendServiceUp 0x33 0xFFF (leBytes 1 (enGen s1)) s1
  else s

/-- The device takes an address and assigns its children (R403). -/
def assign (base ndev depth arrive ttree : Nat) (s : State) : State :=
  let s1 := wrFld (wrFld (wrFld s crtStatus 0 12 base) crtStatus 12 1 1) crtStatus 14 4 depth
  let s2 := wrFld (wrFld s1 (hstA 0x108) 0 12 base) crtDomain 0 13 ndev
  let s3 := wrFld (wrFld s2 crtTree 0 16 ttree) crtTree 16 16 arrive
  let s4 := setEnum 2 s3
  let s5 := (presentIdx s4).foldl (fun (acc : State × Nat) i =>
    let b := acc.2
    let x := wrFld acc.1 (childCell i) 0 12 b
    let l := childLink x i
    let body := leBytes 1 (enGen x) ++ leBytes 1 (depth + 1) ++ leBytes 2 b ++ leBytes 2 ndev ++
      leBytes 2 (arrive + linkTarget x l + 991) ++ leBytes 2 ttree
    (sendService l 0x32 0xFFF body x, b + rdFld x (childCell i) 16 13)) (s4, base + 1)
  assignDone s5.1

/-- The root decides when its count is complete (R402). -/
def rootDecideCount (busy tooMany : Bool) (size tsub : Nat) (s : State) : State :=
  if busy then enumFail 4 s
  else if tooMany then enumFail 1 s
  else if s.crt.expect ≠ 0 ∧ size ≠ s.crt.expect then enumFail 2 s
  else if 8500 < tsub then enumFail 3 s
  else assign 0 size 0 0 tsub s

/-- Every child has answered or is missing: the device's own count (R401). -/
def countDone (s : State) : State :=
  let kids := List.range s.crt.children.length
  let ans := fun i => mapGet none s.crt.answers i
  let here := kids.filter (fun i => (ans i).any (fun a => a.busy || linkState s (childLink s i) = 8))
  let lost := kids.filter (fun i => !here.contains i)
  let got := here.filterMap ans
  let size0 := 1 + (got.map (fun a => a.size)).sum
  let tooMany := got.any (fun a => a.tooMany) || decide (4096 < size0)
  let size := if 4096 < size0 then 4097 else size0
  let depth := if got = [] then 0 else 1 + (got.map (fun a => a.depth)).foldl max 0
  let tsub := min 65535 ((here.map (fun i =>
    linkTarget s (childLink s i) + 991 + ((ans i).map (fun a => a.tsub)).getD 0)).foldl max 0)
  let busy := got.any (fun a => a.busy)
  let missing := got.any (fun a => a.missing) || lost ≠ []
  let s1 := lost.foldl (fun acc i => setBit acc (hstA 0x11C) i) (here.foldl (fun acc i => setBit acc (hstA 0x118) i) s)
  let s2 := kids.foldl (fun acc i => wrReg acc (childCell i)
    (BitVec.ofNat 32 (if here.contains i then 2 ^ 16 * ((ans i).map (fun a => a.size)).getD 0 else 0))) s1
  let s3 := wrFld (wrFld s2 (hstA 0x108) 16 13 size) crtDomain 16 4 depth
  let s4 := wrFld s3 (hstA 0x114) 0 16 tsub
  let s5 := { s4 with crt := { s4.crt with probing := false, done := [], gone := [] } }
  if s.crt.isRoot then rootDecideCount busy tooMany size tsub s5
  else sendCount busy missing tooMany size depth tsub s5

/-- Are all children's answers in? -/
def countReady (s : State) : Bool :=
  (List.range s.crt.children.length).all (fun i => (mapGet none s.crt.answers i).isSome)

/-- An EN_PROBE is acted on (R401). -/
def probe (g : Nat) (s : State) : State :=
  let s1 := clrBit (wrFld s crtDomain 24 8 (g % 256)) crtStatus 12
  let s2 := wrReg (wrFld (wrFld s1 crtStatus 21 4 0) crtStatus 18 3 0) (hstA 0x118) 0
  match s.chip.devState with
  | .boot => { s2 with crt := { s2.crt with held := some g } }
  | .blank =>
    let s3 := setEnum 1 { s2 with crt := { s2.crt with held := none, probing := true, answers := [], done := [], subs := [] } }
    let s4 := s3.crt.children.foldl (fun acc l =>
      if linkState acc l = 8 then sendService l 0x30 0xFFF (leBytes 4 (g % 256)) acc else acc) s3
    whenDo (countReady s4) countDone s4
  | _ => sendCount true false false 1 0 0 s2

/-- The root starts an enumeration (R400). -/
def enumStart (s : State) : State := probe ((enGen s + 1) % 256) s

/-- Entry to Blank from Boot: the root enumerates, and a held probe is answered (R400, R401). -/
def blankFromBoot (s : State) : State :=
  if s.crt.isRoot then enumStart s
  else match s.crt.held with
    | some g => probe g s
    | none => s

def execEnProbe (l g : Nat) (s : State) : Out := .next (if s.crt.uplink = some l then probe g s else s)

/-- EN_COUNT of a child (R401). -/
def enCount (l g : Nat) (a : ChildAns) (s : State) : State :=
  match childIndex s l with
  | some i =>
    if g ≠ enGen s ∨ s.crt.probing = false then s
    else
      let s1 := { s with crt := { s.crt with answers := mapSet none s.crt.answers i (some a) } }
      whenDo (countReady s1) countDone s1
  | none => s

def execEnCount (l g : Nat) (a : ChildAns) (s : State) : Out := .next (enCount l g a s)

/-- ENUM_CHILD_TIMEOUT: TMO ms of TB1 have passed (R401). -/
def execEnumChildTimeout (s : State) : Out := .next (if s.crt.probing then countDone s else s)

/-- EN_ASSIGN from the head (R403). -/
def execEnAssign (l g depth base ndev arrive ttree : Nat) (s : State) : Out :=
  .next (if s.crt.uplink = some l ∧ g = enGen s then assign base ndev depth arrive ttree s else s)

/-- EN_DONE of a child (R403). -/
def enDone (l g : Nat) (s : State) : State :=
  match childIndex s l with
  | some i =>
    if g ≠ enGen s ∨ enumState s ≠ 2 ∨ isPresent s i = false ∨ s.crt.done.contains i = true then s
    else assignDone { s with crt := { s.crt with done := s.crt.done ++ [i] } }
  | none => s

def execEnDone (l g : Nat) (s : State) : Out := .next (enDone l g s)

/-- EN_FAIL from the head (R402): the device stays unassigned and passes the message on. -/
def enFail (l g cause : Nat) (s : State) : State :=
  if s.crt.uplink = some l ∧ g = enGen s then
    let s1 := wrFld (setEnum 4 (clrBit s crtStatus 12)) crtStatus 21 4 cause
    hostEvent 2 (sendServiceDown 0x34 0xFFF (leBytes 1 g ++ leBytes 1 cause) s1)
  else s

def execEnFail (l g cause : Nat) (s : State) : Out := .next (enFail l g cause s)

/-- ENUM is accepted at the root, in Blank, with no enumeration in progress (R400, R418). -/
def enumAllowed (s : State) : Bool :=
  s.crt.isRoot && s.chip.devState = .blank && enumState s ≠ 1 && enumState s ≠ 2

/-! ### The status word of the subtree (R413, R414) -/

/-- SUBSTAT of a child. -/
def substatEv (l : Nat) (w : Word) (s : State) : State :=
  match childIndex s l with
  | some i => { s with crt := { s.crt with subs := mapSet 0 s.crt.subs i w,
                                           gone := s.crt.gone.filter (fun x => x ≠ i || linkState s l ≠ 8) } }
  | none => s

def execSubstat (l : Nat) (w : Word) (s : State) : Out := .next (substatEv l w s)

/-- SUBSTAT_PERIOD: the device sends its word up, every 1 ms and on a change (R414). -/
def substatPeriod (s : State) : State :=
  if s.chip.shellUp then sendServiceUp 0x35 0xFFF (leBytes 4 (subStatus s).toNat) s else s

def execSubstatPeriod (s : State) : Out := .next (substatPeriod s)

/-- SUBSTAT_TIMEOUT: a present child has sent no SUBSTAT for 5 ms (R414). -/
def execSubstatTimeout (i : Nat) (s : State) : Out :=
  .next (if i < s.crt.children.length ∧ isPresent s i then childGone i s else s)

end Sys2Proof.Machine
end

