-- ==== Sys2Proof/Machine/Time.lean ====
section
/-! DEFINITION. Time bases and timed pulses (chapter 10). -/

namespace Sys2Proof.Machine

/-! ### Registers and units -/

def timStat : Nat := timA 4
def timSrc (s : State) : Word := rdReg s (timA 0x68)
/-- A signed 32-bit register value. -/
def sreg (s : State) (a : Nat) : Int := (rdReg s a).toInt
def ofInt32 (x : Int) : Word := BitVec.ofInt 32 x
/-- Picoseconds in units of 2^-16 ns. -/
def psTime (ps : Int) : Int := ps * 65536 / 1000
def nsUnit : Nat := 65536

/-- A quotient rounded to a whole number; the spec does not say which way. -/
def quot (n d : Int) : Int := n / d + (if n % d = 0 then 0 else ((Config.roundUp n d % 2 : Nat) : Int))

/-- A time moved by a signed amount, modulo 2^48 seconds. -/
def moveTime (t : Nat) (d : Int) : Nat := (((t : Int) + d) % (2 ^ 48 * secUnits : Nat)).toNat

/-! ### Pulse outputs (R445 to R448) -/

def plsA (n o : Nat) : Nat := timA (0x200 + 32 * n + o)
def plsCtrl (n : Nat) : Nat := plsA n 0x1C
def genOf (s : State) (n : Nat) : PulseGen := mapGet PulseGen.reset s.tim.gens n
def putGen (n : Nat) (g : PulseGen) (s : State) : State :=
  { s with tim := { s.tim with gens := mapSet PulseGen.reset s.tim.gens n g } }
def plsBase (s : State) (n : Nat) : Nat := rdFld s (plsCtrl n) 1 2
def plsStart (s : State) (n : Nat) : Nat :=
  timeOf ((rdReg s (plsA n 0)).toNat + 2 ^ 32 * (rdReg s (plsA n 4)).toNat + 2 ^ 64 * (rdReg s (plsA n 8)).toNat)
/-- 50 ps units in units of 2^-16 ns. -/
def unit50 (x : Nat) : Nat := x * 65536 / 20
def plsPeriodRaw (s : State) (n : Nat) : Nat := (rdReg s (plsA n 0xC)).toNat + 2 ^ 32 * rdFld s (plsA n 0x10) 0 16
def plsWidthRaw (s : State) (n : Nat) : Nat := (rdReg s (plsA n 0x14)).toNat
def plsCount (s : State) (n : Nat) : Nat := (rdReg s (plsA n 0x18)).toNat
/-- The time of pulse `i` on the generator's base (R445). -/
def plsTime (s : State) (n i : Nat) : Nat := plsStart s n + unit50 (i * plsPeriodRaw s n)
/-- Pulses of the train; none while it is unlimited (R445). -/
def plsTotal (s : State) (n : Nat) : Option Nat :=
  if plsPeriodRaw s n = 0 then some 1 else if plsCount s n = 0 then none else some (plsCount s n)

/-- The train ends when its pulses are used up: DONE, and ARM clears (R445). -/
def plsEndTrain (n : Nat) (s : State) : State :=
  match plsTotal s n with
  | some c => if c ≤ (genOf s n).next then clrBit (setBit s (plsCtrl n) 5) (plsCtrl n) 0 else s
  | none => s

/-- Pulses before index `i` are skipped: they count toward COUNT and MISSED (R448). -/
def plsSkip (n i : Nat) (s : State) : State :=
  let g := genOf s n
  let i1 := match plsTotal s n with
    | some c => min i c
    | none => i
  if i1 ≤ g.next then s
  else
    let m := rdFld s (plsCtrl n) 8 16 + (i1 - g.next)
    plsEndTrain n (wrFld (putGen n { g with next := i1 } s) (plsCtrl n) 8 16 (min 65535 m))

/-- The first pulse whose time is at or after `t` on its base. -/
def plsAhead (s : State) (n t : Nat) : Nat :=
  let st := plsStart s n
  let p := plsPeriodRaw s n * 65536
  if t ≤ st then 0 else if p = 0 then 1 else ((t - st) * 20 + p - 1) / p

/-- A base has stepped forward: pulses whose time has passed do not fire (R448). -/
def plsStepped (base : Nat) (s : State) : State :=
  (List.range 8).foldl (fun acc n =>
    if rdBit acc (plsCtrl n) 0 && plsBase acc n = base then
      match tbAt acc base (tb0Now acc) with
      | some t => plsSkip n (plsAhead acc n t) acc
      | none => acc
    else acc) s

/-- May generator `n` be armed with control value `v` (R446)? -/
def plsAllowed (s : State) (n : Nat) (v : Word) : Bool :=
  let st := s.chip.devState
  let w := plsWidthRaw s n
  let p := plsPeriodRaw s n
  !rdBit s (plsCtrl n) 0 && (st = .ready || st = .running || st = .held) && decide (20 ≤ w) &&
    (p = 0 || decide (w + 20 ≤ p)) && (tbAt s (fld v 1 2) (tb0Now s)).isSome

/-- PULSE_ARM: a write of TIM_PLSn_CTRL with ARM = 1 (R446, R448). An edge needs 2 µs of lead. -/
def pulseArm (n : Nat) (v : Word) (s : State) : State :=
  if 8 ≤ n ∨ plsAllowed s n v = false then s
  else
    let old := rdReg s (plsCtrl n)
    let flags := (old &&& 0x30) &&& ~~~ v
    let s1 := wrReg s (plsCtrl n) ((v &&& 0xF) ||| flags)
    let s2 := putGen n { genOf s1 n with next := 0 } s1
    let now := (tbAt s2 (fld v 1 2) (tb0Now s2)).getD 0
    let i := plsAhead s2 n (now + 2000 * nsUnit)
    if i = 0 then s2
    else
      let s3 := setBit s2 (plsCtrl n) 4
      if plsPeriodRaw s n = 0 then clrBit s3 (plsCtrl n) 0 else plsSkip n i s3

/-- A write of TIM_PLSn_CTRL with ARM = 0 while armed: TBSEL and POL are refused, so only a write that leaves them takes
effect; a pulse in progress completes (R446, R448). -/
def plsDisarmRefused (s : State) (n : Nat) (v : Word) : Bool :=
  rdBit s (plsCtrl n) 0 && fld v 1 3 ≠ rdFld s (plsCtrl n) 1 3

def pulseDisarm (n : Nat) (v : Word) (s : State) : State :=
  if 8 ≤ n ∨ s.chip.devState = .off ∨ plsDisarmRefused s n v then s
  else
    let old := rdReg s (plsCtrl n)
    wrReg s (plsCtrl n) ((v &&& 0xE) ||| (old &&& 0xFFFF40) ||| ((old &&& 0x30) &&& ~~~ v))

/-- PULSE_EDGE: the leading edge of the next pulse (R445). -/
def pulseEdge (n : Nat) (s : State) : State :=
  if 8 ≤ n ∨ rdBit s (plsCtrl n) 0 = false then s
  else
    let g := genOf s n
    let s1 := if plsBase s n = 0 then timeReach (plsTime s n g.next) s else s
    let g1 := { g with next := g.next + 1, high := true, endAt := tb0Now s1 + unit50 (plsWidthRaw s n) }
    plsEndTrain n (setBit (putGen n g1 s1) (plsCtrl n) 6)

def execPulseEdge (n : Nat) (s : State) : Out := .next (pulseEdge n s)

/-- PULSE_END: the pulse ends WIDTH after its leading edge, on the step clock (R445, R448). -/
def pulseEnd (n : Nat) (s : State) : State :=
  if 8 ≤ n ∨ (genOf s n).high = false then s
  else clrBit (putGen n { genOf s n with high := false } (timeReach (genOf s n).endAt s)) (plsCtrl n) 6

def execPulseEnd (n : Nat) (s : State) : Out := .next (pulseEnd n s)

/-- The level of a pulse output (R445, R447): low before Ready and in Safe. -/
def pulseLevel (s : State) (n : Nat) : Bool :=
  (s.chip.devState = .ready || s.chip.devState = .running || s.chip.devState = .held) &&
    ((genOf s n).high != rdBit s (plsCtrl n) 3)

/-! ### Laws (R432, R433) -/

def lawA (k o : Nat) : Nat := timA (0x100 + (k - 1) * 0x20 + o)
def rdTime (s : State) (a : Nat) : Nat :=
  timeOf ((rdReg s a).toNat + 2 ^ 32 * (rdReg s (a + 4)).toNat + 2 ^ 64 * (rdReg s (a + 8)).toNat)
def wrTime (a t : Nat) (s : State) : State :=
  let w := timeWord t
  wrReg (wrReg (wrReg s a (BitVec.ofNat 32 w)) (a + 4) (BitVec.ofNat 32 (w / 2 ^ 32))) (a + 8)
    (BitVec.ofNat 32 (w / 2 ^ 64))

/-- The staged law of TBk comes into force: ARM clears (R432). -/
def lawForce (k : Nat) (s : State) : State :=
  let l : Law := { anchor := rdTime s (lawA k 0), offset := rdTime s (lawA k 0xC), rate := sreg s (lawA k 0x18) }
  let s1 := clrBit s (lawA k 0x1C) 0
  let s2 := { s1 with tim := { s1.tim with laws := mapSet none s1.tim.laws k (some l) } }
  let s3 := if k = 1 ∧ ¬ (s.crt.isRoot ∧ bit (timSrc s) 8) then setBit s2 timStat 5 else s2
  plsStepped k s3

/-- The root sends an armed law to every other device of the domain, in register order (R433). -/
def lawSend (k : Nat) (s : State) : State :=
  let n := rdFld s crtDomain 0 13
  (List.range (n - 1)).foldl (fun acc d =>
    (List.range 8).foldl (fun x i => remoteIssue .tim (d + 1) (lawA k (4 * i)) true
      (if i = 7 then 1 else rdReg x (lawA k (4 * i))) x) acc) s

/-- LAW_ARM: ARM of a law is written to 1; past its ANCHOR it comes into force at once (R432, R433). -/
def lawArm (k : Nat) (s : State) : State :=
  if k = 0 ∨ 4 ≤ k ∨ s.chip.devState = .off ∨ rdBit s (lawA k 0x1C) 0 then s
  else
    let s1 := setBit s (lawA k 0x1C) 0
    let s2 := if s.crt.isRoot ∧ assigned s then lawSend k s1 else s1
    if rdTime s (lawA k 0) < tb0Now s then lawForce k (setBit s2 timStat 13) else s2

/-- LAW_IN_FORCE: TB0 reaches the ANCHOR of an armed law (R432). -/
def lawInForce (k : Nat) (s : State) : State :=
  if k = 0 ∨ 4 ≤ k ∨ rdBit s (lawA k 0x1C) 0 = false then s
  else lawForce k (timeReach (rdTime s (lawA k 0)) s)

def execLawInForce (k : Nat) (s : State) : Out := .next (lawInForce k s)

/-! ### Samples (R435) -/

/-- The link of the secondary path, when it is a peer link (R440). -/
def secLink (s : State) : Option Nat := if fld (timSrc s) 0 2 = 1 then some (fld (timSrc s) 2 6) else none

/-- The offset that a pair of samples gives on link `l` (R435). -/
def sampleTheta (s : State) (l t1 t2 t3 t4 : Nat) : Int :=
  let asym := psTime ((BitVec.ofNat 16 (rdFld s (timA (0x400 + 4 * l)) 0 16)).toInt)
  quot (((t4 : Int) - t3) - ((t2 : Int) - t1) - asym) 2

/-- SAMPLE: t1 is the T_TX of the device's own sample that the far end names, t2 the far end's T_RX of it, t3 the far end's
T_TX and t4 the local arrival time (R435). -/
def sampleEv (l seq t1 t2 t3 t4 lane : Nat) (good : Bool) (s : State) : State :=
  if linkMode s l ≠ 1 ∨ timeOpen s l = false then s
  else if !good then timeCrc { link := l, seq := seq, gen := 0, good := false, lane := lane } s
  else
    let s1 := timeSeq l seq s
    let th := sampleTheta s1 l t1 t2 t3 t4
    let put := fun (p : TimePath) => { p with est := p.est ++ [th] }
    if s1.crt.uplink = some l then { s1 with tim := { s1.tim with prim := put s1.tim.prim } }
    else if secLink s1 = some l then { s1 with tim := { s1.tim with sec := put s1.tim.sec } }
    else s1

def execSample (l seq t1 t2 t3 t4 lane : Nat) (good : Bool) (s : State) : Out :=
  .next (sampleEv l seq t1 t2 t3 t4 lane good s)

/-! ### The servo (R436 to R443) -/

def meanOf (l : List Int) : Int := quot l.sum l.length

/-- A path at the end of a link frame: the mean of its estimates, or one more silent frame (R436, R441). -/
def pathFrame (p : TimePath) : TimePath :=
  if p.est = [] then { p with theta := none, silent := p.silent + 1 }
  else { est := [], theta := some (meanOf p.est), silent := 0 }

/-- A path over a link is lost when the link is not UP or three frames brought no sample (R441). -/
def pathLost (s : State) (l : Option Nat) (p : TimePath) : Bool :=
  match l with
  | some x => linkState s x ≠ 8 || decide (3 ≤ p.silent)
  | none => true

/-- The secondary path is lost (R441): a PPS path 1.5 s after its last edge. -/
def secLost (s : State) : Bool :=
  match fld (timSrc s) 0 2 with
  | 1 => pathLost s (secLink s) s.tim.sec
  | 2 => !s.tim.ppsSeen
  | _ => true

/-- Entry to holdover (R443, R210): RATE frozen, lock cleared, TIME_LOSS; while Running a hold is requested. -/
def holdover (s : State) : State :=
  if rdFld s timStat 2 2 = 2 then s
  else
    let s1 := clrBit (setBit (wrFld s timStat 2 2 2) timStat 9) timStat 1
    let s2 := { s1 with tim := { s1.tim with inLock := 0 } }
    if s.chip.devState = .running then
      let s3 := setBit s2 (sprA 4) 13
      if s.crt.isRoot then whenDo (!holdPending s) (rootHold 0) s3 else sendUp (.req .hold 0 (devAddr s3)) s3
    else s2

/-- The servo follows an offset for one frame (R436, R437, R438). -/
def servo (th : Int) (s : State) : State :=
  let tf : Int := 6240 * 65536
  let ki := rdFld s (timA 0x60) 4 4
  let kp := rdFld s (timA 0x60) 0 4
  let lim : Int := (rdReg s (timA 0x64)).toNat
  let i := s.tim.integ - quot (th * 2 ^ (40 - ki)) tf
  let r := max (-lim) (min lim (i - quot (th * 2 ^ (40 - kp)) tf))
  let s1 := wrReg { s with tim := { s.tim with integ := i } } (timA 0x5C) (ofInt32 r)
  let s2 := if s.chip.devState ≠ .running ∧ 10 * nsUnit < th.natAbs then
      plsStepped 0 (setBit { s1 with tim := { s1.tim with
        tb0 := (((s1.tim.tb0 : Int) - th * 2 ^ 32) % (2 ^ 48 * secUnits * 2 ^ 32 : Nat)).toNat, integ := 0 } } timStat 15)
    else s1
  let ok := th.natAbs ≤ (psTime (rdFld s (timA 0x60) 8 16)).toNat
  let n := if ok then s2.tim.inLock + 1 else 0
  let s3 := { s2 with tim := { s2.tim with inLock := n } }
  if 16 ≤ n ∧ rdBit s3 timStat 12 = false then setBit s3 timStat 1 else s3

/-- The secondary against the primary: C_S, DISAGREE and SEC_VALID (R440, R441). -/
def comparePaths (s : State) : State :=
  match s.tim.prim.theta, s.tim.sec.theta with
  | some p, some q =>
    let cs := sreg s (timA 0x58)
    let bad := s.tim.diffs ≠ [] ∧ nsUnit < (q - cs - p).natAbs
    let differ := if bad then s.tim.differ + 1 else 0
    let owed := if bad then s.tim.owed else s.tim.owed - 1
    let diffs := ((q - p) :: s.tim.diffs).take 64
    let s1 := { s with tim := { s.tim with differ := differ, owed := owed, diffs := diffs } }
    let s2 := wrReg s1 (timA 0x58) (ofInt32 (meanOf diffs))
    if 4 ≤ differ then setBit { s2 with tim := { s2.tim with owed := 64, differ := 0 } } timStat 11 else s2
  | _, _ => s

def secValid (s : State) : Bool := fld (timSrc s) 0 2 ≠ 0 && !secLost s && s.tim.owed = 0

/-- The mean offsets of a frame, one per path that is measured (R436), and the rate check of the upstream link (R428). -/
def frameMeans (ppb : Int) (s : State) : State :=
  let sec0 := if fld (timSrc s) 0 2 = 2 then s.tim.sec else pathFrame s.tim.sec
  whenDo (decide (2000 < ppb.natAbs)) (fun x => clrBit (setBit x timStat 12) timStat 1)
    { s with tim := { s.tim with prim := pathFrame s.tim.prim, sec := sec0 } }

/-- The primary mean moved by more than the jump threshold since the last frame (R441). -/
def frameJumped (old : Option Int) (s : State) : Bool :=
  match old, s.tim.prim.theta with
  | some a, some b => decide (psTime (rdFld s (timA 0x68) 16 16) < ((b - a).natAbs : Int))
  | _, _ => false

/-- The means of both paths, as TIM shows them. -/
def showMeans (s : State) : State :=
  wrReg (wrReg s (timA 0x50) (ofInt32 (s.tim.prim.theta.getD 0))) (timA 0x54) (ofInt32 (s.tim.sec.theta.getD 0))

/-- The servo follows the primary path. -/
def usePrim (s : State) : State :=
  match s.tim.prim.theta with
  | some th => servo th s
  | none => s

/-- The servo follows the secondary path, less the offset that the two had when last compared (R442). -/
def useSec (s : State) : State :=
  match s.tim.sec.theta with
  | some th => servo (th - sreg s (timA 0x58)) s
  | none => s

/-- The path that the frame uses: `path` is the one in use, 1 the secondary, 2 holdover, else the primary (R441 to R443). -/
def framePath (path : Nat) (lostP changed valid : Bool) (csOld : Word) (s : State) : State :=
  match path with
  | 1 => if secLost s then holdover s else useSec (wrReg s (timA 0x58) csOld)
  | 2 =>
    if !lostP then usePrim (wrFld s timStat 2 2 0)
    else if valid then useSec (wrFld s timStat 2 2 1) else s
  | _ =>
    if lostP || changed then
      (if valid then useSec (hostEvent 3 (setBit (wrFld s timStat 2 2 1) timStat 8)) else holdover s)
    else usePrim s

/-- The paths are judged after the means of a frame are known; `changed` is that the primary jumped or was swapped. -/
def judgePaths (path : Nat) (changed : Bool) (s : State) : State :=
  if path = 0 ∧ (pathLost s s.crt.uplink s.tim.prim ∨ changed) then s else comparePaths s

/-- LINK_FRAME: the device forms the mean offset of each path, judges the paths and updates RATE (R436 to R443). `ppb` is
the rate offset that the upstream link measures, in parts per 10^9 (R428). -/
def linkFrame (ppb : Int) (s0 : State) : State :=
  let frame := stepsTime 7800
  let s := timeReach ((tb0Now s0 / frame + 1) * frame) s0
  if s.chip.devState = .off then s0
  else if s.crt.isRoot then
    (if rdBit s timStat 0 then setBit (wrFld s timStat 2 2 3) timStat 1 else s)
  else
    let s2 := frameMeans ppb s
    let jumped := frameJumped s.tim.prim.theta s2
    let s3 := whenDo jumped (fun x => setBit x timStat 10) s2
    let changed := jumped || s.tim.changed
    let lostP := pathLost s3 s3.crt.uplink s3.tim.prim
    let path := rdFld s3 timStat 2 2
    let s4 := judgePaths path changed s3
    let valid := secValid s4
    let s5 := wrFld { s4 with tim := { s4.tim with changed := false } } timStat 4 1 (b2n valid)
    let back := s.tim.revert && s.chip.devState ≠ .running && !lostP
    let s6 := showMeans { s5 with tim := { s5.tim with revert := s.tim.revert && !back } }
    if back then usePrim (wrFld s6 timStat 2 2 0)
    else framePath path lostP changed valid (rdReg s (timA 0x58)) s6

def execLinkFrame (ppb : Int) (s : State) : Out := .next (linkFrame ppb s)

/-- REVERT: the upstream link becomes the primary again at the next frame (R443); nothing while Running. -/
def revertWrite (s : State) : State :=
  if s.chip.devState = .running ∨ s.chip.devState = .off then s else { s with tim := { s.tim with revert := true } }

/-! ### PPS (R434, R440) -/

def taiValid (s : State) : Bool := rdBit s (timA 0x74) 31
def taiNext (s : State) : Nat := ((rdReg s (timA 0x70)).toNat + 2 ^ 32 * rdFld s (timA 0x74) 0 16) * secUnits

/-- The signed difference of two times, the shorter way round. -/
def timeDiff (a b : Nat) : Int :=
  let m : Int := (2 ^ 48 * secUnits : Nat)
  let d := ((a : Int) - b) % m
  if m ≤ 2 * d then d - m else d

/-- e_m: the reading minus the whole second nearest to it, or minus the intended second (R434). -/
def ppsError (s : State) (t : Nat) : Int :=
  if taiValid s then timeDiff t (taiNext s)
  else
    let f := t % secUnits
    if secUnits < 2 * f then (f : Int) - secUnits else f

/-- The new law of TB1 that the root forms at a PPS edge (R434): `ref` is R_REF. -/
def ppsLaw (p : Nat) (e ref : Int) (s : State) : State :=
  let anchor := p + rdFld s (timA 0x6C) 0 16 * 1000 * nsUnit
  let lim : Int := (rdReg s (timA 0x64)).toNat
  let rate := max (-lim) (min lim (ref - quot (e * 2 ^ 37) secUnits))
  let offset := if taiValid s then
      let edge := p + secUnits
      moveTime (taiNext s) (-((edge : Int) + quot (((edge : Int) - anchor) * rate) (2 ^ 40)))
    else moveTime ((tbAt s 1 anchor).getD 0) (-(anchor : Int))
  let s1 := wrReg (wrTime (lawA 1 0xC) offset (wrTime (lawA 1 0) anchor s)) (lawA 1 0x18) (ofInt32 rate)
  let s2 := lawArm 1 (clrBit s1 (lawA 1 0x1C) 0)
  if taiValid s then clrBit s2 (timA 0x74) 31 else s2

/-- PPS_EDGE at TB0 time `t`; `ref` is the rate of REF10_IN against the step clock (R434). -/
def ppsEdge (t : Nat) (ref : Int) (s0 : State) : State :=
  let s := timeReach t s0
  if s.chip.devState = .off ∨ s.chip.shellUp = false then s0
  else
    let p := moveTime t (-(psTime s.tim.ppsDelay))
    let s1 := setBit { s with tim := { s.tim with ppsSeen := true, ppsLast := some p } } timStat 6
    if s.crt.isRoot ∧ bit (timSrc s) 8 then
      let e := ppsError s1 ((tbAt s1 1 p).getD 0)
      let ps := quot (e * 1000) 65536
      let lim : Int := 2 ^ 31
      let s2 := wrReg (wrTime (timA 0x80) p s1) (timA 0x8C) (ofInt32 (max (-lim) (min (lim - 1) ps)))
      let n := if e.natAbs ≤ 20 * nsUnit then s2.tim.ppsGood + 1 else 0
      let s3 := { s2 with tim := { s2.tim with ppsGood := n } }
      ppsLaw p e ref (whenDo (decide (8 ≤ n)) (fun x => setBit x timStat 5) s3)
    else if fld (timSrc s) 0 2 = 2 then
      let f := p % secUnits
      let th : Int := if secUnits < 2 * f then (f : Int) - secUnits else f
      { s1 with tim := { s1.tim with sec := { est := [], theta := some th, silent := 0 } } }
    else s1

def execPpsEdge (t : Nat) (ref : Int) (s : State) : Out := .next (ppsEdge t ref s)

/-- PPS_LOSS: no edge for 1.5 s (R434, R441, R449). -/
def ppsLoss (s : State) : State :=
  if s.tim.ppsSeen then
    let s1 := clrBit { s with tim := { s.tim with ppsSeen := false, ppsLast := none, ppsGood := 0 } } timStat 6
    if s.crt.isRoot ∧ bit (timSrc s) 8 then clrBit s1 timStat 5 else s1
  else s

def execPpsLoss (s : State) : Out := .next (ppsLoss s)

/-! ### The step clock (R427) and the captured reading (R450) -/

/-- PLL_LOCK_LOSS after Boot: a permanent fault of the device (R427, R636). -/
def pllLockLoss (s : State) : State :=
  match s.chip.devState with
  | .off => s
  | .boot => clrBit (if s.crt.isRoot then clrBit s timStat 1 else s) timStat 0
  | _ => enterSafeOpen .clock none none (clrBit (clrBit s timStat 0) timStat 1)

def execPllLockLoss (s : State) : Out := .next (pllLockLoss s)

/-- All four bases at one step (R450): the three words of each. -/
def timCapture (s : State) : State :=
  let words := (List.range 4).flatMap (fun k =>
    let w := timeWord ((tbAt s k (tb0Now s)).getD 0)
    (List.range 3).map (fun i => (timA (0x10 + 16 * k + 4 * i), BitVec.ofNat 32 (w >>> (32 * i)))))
  { s with chip := { s.chip with capture := mapSetAll 0 s.chip.capture words } }

end Sys2Proof.Machine
end

