-- ==== Sys2Proof/Machine/Cellar.lean ====
section
/-! DEFINITION. Accesses of the cellar, the late alarm, re-keying, retired pseudo-channels and sealed blobs
(chapter 14). -/

namespace Sys2Proof.Machine

/-! ### Who sees what (R575) -/

/-- A requester that sees the ciphertext of sealed regions. -/
def cipherView (w : CelWho) : Bool :=
  match w with
  | .host | .jtag | .dma _ => true
  | .steward _ far => far
  | _ => false

/-- A requester that receives data before the verdict. -/
def speculative (w : CelWho) : Bool :=
  match w with
  | .pageFill | .spring => true
  | _ => false

/-- May the requester reach the region at all (R570)? -/
def reaches (s : State) (w : CelWho) (r : Nat) : Bool :=
  r < 65536 && (match regionMode s r with
    | 0 => false
    | 3 => w = .attic
    | _ => true)

/-- Answer an access of the cellar: 0 done, 1 error, 2 poison. -/
def celAnswer (w : CelWho) (l status : Nat) (data : List Byte) (s : State) : State :=
  { s with cel := { s.cel with resps := { who := w, line := l, status := status, data := data } :: s.cel.resps } }

/-- Bytes stored in a line that has not been written under the current generation: nothing fixes them. -/
def freeBytes (n : Nat) (s : State) : List Byte × State :=
  let (v, s1) := takeFree s
  (leBytes n v, s1)

/-! ### Reads (R580 to R583) -/

/-- The epoch that a speculative read issued now belongs to (R582, R583): none for a restore read. -/
def issueEpoch (s : State) : Option Nat :=
  if s.spr.phase = .rollback then none
  else if s.spr.pos = .extension then some (curEpoch s - 1)
  else some (curEpoch s)

/-- A spring read opens its window; the window of a page fill opens with its request. -/
def openWindow (w : CelWho) (s : State) : State :=
  match w, issueEpoch s with
  | .spring, some e => openAlarm e s
  | .spring, none => { s with cel := { s.cel with restoreOpen := s.cel.restoreOpen + 1 } }
  | _, _ => s

/-- A read of a line: its status (0 done, 1 error, 2 poison) and the bytes delivered. `chk` is what the check of the
stored line gives; a speculative reader learns of it with the verdict. -/
def readLine (w : CelWho) (l : Nat) (chk : Verdict) (s : State) : Nat × List Byte × State :=
  let r := lineRegion l
  if !reaches s w r then (1, [], s)
  else if lineSealed s l && cipherView w then
    if linePoison s l then (2, [], s)
    else if lineCtr s l = 0 then
      let (b, s1) := freeBytes 64 s
      (0, b, s1)
    else (0, lineCipher s l, s)
  else if lineSealed s l && speculative w then
    let s1 := openWindow w s
    if linePoison s l then (2, [], s1) else (0, lineBytes s l, s1)
  else
    let s1 := lineChecked l (if lineSealed s l then 0 else 3) chk s
    if lineVerdict s l chk = .fails then (2, [], s1) else (0, lineBytes s l, s1)

/-- CELLAR_READ: a read of a line is delivered. -/
def cellarRead (w : CelWho) (l : Nat) (chk : Verdict) (s : State) : State :=
  let (st, b, s1) := readLine w l chk s
  celAnswer w l st b s1

def execCellarRead (w : CelWho) (l : Nat) (chk : Verdict) (s : State) : Out := .next (cellarRead w l chk s)

/-- Close one window. -/
def closeWindow (epoch : Option Nat) (s : State) : State :=
  match epoch with
  | some e => { s with spr := { s.spr with alarms := mapSet 0 s.spr.alarms e (mapGet 0 s.spr.alarms e - 1) } }
  | none => { s with cel := { s.cel with restoreOpen := s.cel.restoreOpen - 1 } }

def windowOpen (epoch : Option Nat) (s : State) : Bool :=
  match epoch with
  | some e => 0 < mapGet 0 s.spr.alarms e
  | none => 0 < s.cel.restoreOpen

/-- A late alarm: counted, reported, and the epoch's local check, or the restore, fails (R582, R583). A fill that was
requested before a rollback fails the epoch of its request. -/
def lateAlarm (epoch : Option Nat) (l : Nat) (s : State) : State :=
  let s1 := report 0x20 3 (linePc s l) 0 (incFld (setBit s celStatus 5) (celA 0x20) 0 32)
  match epoch with
  | none => rollbackFault 1 s1
  | some e =>
    if s1.spr.phase = .rollback then { s1 with spr := { s1.spr with fails := s1.spr.fails ++ [(e, 1)] } }
    else failEpoch e 1 s1

/-- TAG_VERDICT: the verdict of a speculative read of a line arrives (R582). -/
def tagVerdict (epoch : Option Nat) (l : Nat) (chk : Verdict) (s : State) : State :=
  if !windowOpen epoch s then s
  else
    let s1 := closeWindow epoch s
    if lineVerdict s1 l chk = .pass then s1 else lateAlarm epoch l (lineChecked l 0 chk s1)

def execTagVerdict (epoch : Option Nat) (l : Nat) (chk : Verdict) (s : State) : Out := .next (tagVerdict epoch l chk s)

/-! ### Writes (R576, R581) -/

/-- A write of bytes within a line. -/
def writeLine (w : CelWho) (l ofs : Nat) (bytes : List Byte) (chk : Verdict) (s : State) : State × Written :=
  if !reaches s w (lineRegion l) then (s, .refused)
  else if lineSealed s l && cipherView w then (setBit s celStatus 8, .refused)
  else lineWrite w l ofs bytes chk s

/-- CELLAR_WRITE: a write of bytes within a line. -/
def cellarWrite (w : CelWho) (l ofs : Nat) (bytes : List Byte) (chk : Verdict) (s : State) : State :=
  if bytes = [] ∨ 64 < ofs + bytes.length then s
  else match writeLine w l ofs bytes chk s with
    | (s1, .done) => celAnswer w l 0 [] s1
    | (s1, .refused) => celAnswer w l 1 [] s1
    | (s1, .held) => s1

def execCellarWrite (w : CelWho) (l ofs : Nat) (bytes : List Byte) (chk : Verdict) (s : State) : Out :=
  .next (cellarWrite w l ofs bytes chk s)

/-! ### Re-keying (R585 to R588) -/

/-- The pseudo-channel of a line is the target of a reserve copy in progress: the pointer waits (R588). -/
def copyPauses (s : State) (l : Nat) : Bool := (pcOf s (linePc s l)).copying

/-- Perform the writes held for a line (R586). -/
def releaseHeld (l : Nat) (s : State) : State :=
  let mine := s.cel.held.filter (fun h => h.line = l)
  let s1 := { s with cel := { s.cel with held := s.cel.held.filter (fun h => h.line ≠ l) } }
  mine.foldl (fun acc h => celAnswer h.who l 0 [] (performWrite l h.ofs h.bytes acc)) s1

/-- A line is carried to the next key with W = 1; a line of counter 0 stays 0 (R585). -/
def rekeyLine (l : Nat) (chk : Verdict) (s : State) : State :=
  if lineCtr s l = 0 then s else setCtr l 1 (lineChecked l 0 chk s)

/-- REKEY_LINE: the pointer of a pool passes one line. -/
def rekeyStep (p : Nat) (chk : Verdict) (s : State) : State :=
  match mapGet none s.cel.rkNow p with
  | none => s
  | some (r, i) =>
    let l := 16384 * r + i
    if 16384 ≤ i ∨ copyPauses s l then s
    else
      let s1 := rekeyLine l chk s
      releaseHeld l { s1 with cel := { s1.cel with rkNow := mapSet none s1.cel.rkNow p (some (r, i + 1)) } }

def execRekeyLine (p : Nat) (chk : Verdict) (s : State) : Out := .next (if p < 4 then rekeyStep p chk s else s)

/-- REKEY_DONE: the pointer of a pool has passed every line of its region. -/
def rekeyDone (p : Nat) (s : State) : State :=
  match mapGet none s.cel.rkNow p with
  | none => s
  | some (r, i) =>
    if i < 16384 then s
    else
      let k := regionKey s r
      let k' : RegionKey := if k.old then RegionKey.reset else { old := false, gen := k.gen + 1, exh := false }
      let s1 := incFld (putKey r k' s) (celA 0x2C) 0 32
      rekeyNext p { s1 with cel := { s1.cel with rkNow := mapSet none s1.cel.rkNow p none } }

def execRekeyDone (p : Nat) (s : State) : Out := .next (if p < 4 then rekeyDone p s else s)

/-- Sealed regions of the general window, the larder first (R587). -/
def resealOrder (s : State) : List Nat :=
  let all := (List.range' genBase (atticBase - genBase)).filter (fun r => regionMode s r = 1)
  all.filter (fun r => regionUse s r = 5) ++ all.filter (fun r => regionUse s r ≠ 5)

/-- LD_BEGIN with RESEAL_DUE = 1: a new seal epoch, and the background re-key of the general window (R587). The
model window has been freed. -/
def resealStart (s : State) : State :=
  if !rdBit s celStatus 1 || s.cel.reseal then s
  else
    let order := resealOrder s
    let s1 := incFld s (celA 4) 0 32
    let keys := s1.cel.keys.filter (fun q => genBase ≤ q.1)
    let olds := (List.range' genBase (atticBase - genBase)).filterMap (fun r =>
      let k := mapGet RegionKey.reset keys r
      if regionMode s r = 1 then some (r, { k with old := true }) else if k = RegionKey.reset then none else some (r, k))
    rekeyNext 0 { s1 with cel := { s1.cel with
      reseal := true
      keys := olds
      rkNow := mapDel s1.cel.rkNow 0
      rkQueue := mapSet [] s1.cel.rkQueue 0 order } }

/-- RESEAL_DONE: every region of the general window has the new key (R587). -/
def resealDone (s : State) : State :=
  if s.cel.reseal && !s.cel.keys.any (fun q => q.2.old) then
    clrBit { s with cel := { s.cel with reseal := false } } celStatus 1
  else s

def execResealDone (s : State) : Out := .next (resealDone s)

/-- Sealing in Boot stage 3 (R584): a new seal epoch, every counter, tag and generation 0. -/
def sealCellar (s : State) : State :=
  let s1 := incFld s (celA 4) 0 32
  setBit { s1 with cel := { s1.cel with
    mem := [], poison := [], upset := [], ctr := [], keys := [], laid := false, areas := [], rkQueue := [], rkNow := [],
    reseal := false, held := [], blob := none } } celStatus 0

/-! ### Retired pseudo-channels (R593, R594) -/

/-- Boot stage 3 gives every pseudo-channel that is not retired its place (R565). -/
def placePcs (s : State) : State :=
  (List.range 128).foldl (fun acc pc => if (pcOf acc pc).role = 5 then acc else
    if (List.range 128).any (fun q => (pcOf acc q).replaces = pc) then acc
    else if (pcOf acc pc).replaces ≠ 0x7F then acc else putPc pc (pcHome pc) acc) s

/-- The lowest-numbered reserve of the stack of a pseudo-channel. -/
def reserveOf (s : State) (pc : Nat) : Option Nat :=
  (List.range' (32 * (pc / 32)) 32).find? (fun q => q ≠ pc && (pcOf s q).role = 4)

/-- Retire a pseudo-channel: its entry passes to a reserve, and the copy starts (R593). -/
def retirePc (pc : Nat) (s : State) : State :=
  let old := pcOf s pc
  let dead := fun (x : State) => putPc pc { old with role := 5, copying := false } x
  if old.role = 5 then s
  else if old.role = 4 then dead s
  else match reserveOf s pc with
    | none => dead s
    | some q =>
      let src := if old.copying then old.replaces else pc
      putPc q { pcOf s q with role := old.role, entry := old.entry, replaces := src, copying := true } (dead s)

/-- RESERVE_COPY_DONE: the copy into a reserve completes; lines that it could not read are poisoned (R594). -/
def reserveCopyDone (pc : Nat) (bad : List Nat) (s : State) : State :=
  let x := pcOf s pc
  if pc < 128 && x.copying then
    bad.foldl (fun acc l => if linePc acc l = pc then poisonLine l 2 acc else acc) (putPc pc { x with copying := false } s)
  else s

def execReserveCopyDone (pc : Nat) (bad : List Nat) (s : State) : Out := .next (reserveCopyDone pc bad s)

/-! ### Sealed blobs (R589 to R592) -/

def blobCtrl : Nat := celA 0x58
def blobStatus : Nat := celA 0x5C
def rd36 (s : State) (a : Nat) : Nat := (rdReg s a).toNat + 2 ^ 32 * rdFld s (a + 4) 0 4

/-- Regions that a byte range touches. -/
def rangeRegions (off n : Nat) : List Nat := List.range' (off / 2 ^ 20) (ceilDiv (off + n) (2 ^ 20) - off / 2 ^ 20)

/-- A range that the engine may take as its sealed side. -/
def sealSide (s : State) (off n : Nat) : Bool :=
  (rangeRegions off n).all (fun r => regionMode s r = 1 && (regionUse s r = 0 || regionUse s r = 4))

/-- A range inside the open area. -/
def openSide (s : State) (off n : Nat) : Bool := (rangeRegions off n).all (fun r => regionUse s r = 3)

/-- The blob operation that a write of CEL_BLOB_CTRL with GO asks for. -/
def blobAsked (s : State) (v : Word) : BlobOp :=
  { opens := bit v 1, src := rd36 s (celA 0x40), dst := rd36 s (celA 0x48), len := rd36 s (celA 0x50),
    slot := fld v 8 8, count := s.att.blobCnt }

/-- GO is refused (R589). -/
def blobRefused (s : State) (o : BlobOp) : Bool :=
  rdFld s blobStatus 0 2 = 1 || o.src % 64 ≠ 0 || o.dst % 64 ≠ 0 || o.len = 0 || o.len % 64 ≠ 0 ||
    (mapGet none s.att.blobKeys o.slot).isNone ||
    (if o.opens then !openSide s o.src (o.len + 128) || !sealSide s o.dst o.len
     else !sealSide s o.src o.len || !openSide s o.dst (o.len + 128))

/-- A write of CEL_BLOB_CTRL. With GO = 1 it starts the engine, and a SEAL takes the next BLOB_CNT (R590); without
GO it sets OP and KEY_SLOT, refused while BUSY (R601). -/
def blobCtrlWrite (v : Word) (s : State) : Option State :=
  let plain := fun (x : State) => wrReg x blobCtrl (v &&& 0xFF02)
  if !bit v 0 then (if rdFld s blobStatus 0 2 = 1 then none else some (plain s))
  else
    let o := blobAsked s v
    if blobRefused s o then none
    else
      let s1 := wrReg (plain s) blobStatus 1
      let s2 := { s1 with cel := { s1.cel with blob := some o } }
      if o.opens then some s2
      else
        let s3 := wrReg (wrReg s2 (celA 0x60) (BitVec.ofNat 32 o.count)) (celA 0x64) (BitVec.ofNat 32 (o.count / 2 ^ 32))
        some { s3 with att := { s3.att with blobCnt := s3.att.blobCnt + 1 } }

/-- The fused identity of the device (R604). -/
def deviceId : Nat := Config.deviceId % 2 ^ 32

/-- The 64-byte header of a blob (R590). -/
def blobHeader (s : State) (o : BlobOp) : List Byte :=
  leBytes 8 0x31424F4C425A5653 ++ leBytes 2 0x100 ++ leBytes 1 o.slot ++ [0#8] ++ leBytes 2 (devAddr s) ++ leBytes 2 0 ++
    leBytes 4 deviceId ++ leBytes 4 0 ++ leBytes 8 o.count ++ leBytes 8 o.len ++ leBytes 8 o.src ++ leBytes 16 0

/-- The IV: DEVICE_ID and BLOB_CNT (R590). -/
def blobIv (header : List Byte) : Nat :=
  leNat ((header.drop 16).take 4) + 2 ^ 32 * leNat ((header.drop 24).take 8)

/-- The engine ends. -/
def blobEnd (status err : Nat) (s : State) : State :=
  wrReg { s with cel := { s.cel with blob := none } } blobStatus (BitVec.ofNat 32 (status + 4 * err))

def rangePoison (s : State) (off n : Nat) : Bool := (List.range (n / 64)).any (fun i => linePoison s (off / 64 + i))

/-- A header that UNSEAL accepts (R591). -/
def headerGood (h : List Byte) (o : BlobOp) : Bool :=
  h.take 10 = leBytes 8 0x31424F4C425A5653 ++ leBytes 2 0x100 && leNat ((h.drop 32).take 8) = o.len

/-- BLOB_DONE: the operation ends (R589 to R592). `seedsUsed`: the attic has no seed left and refuses the SEAL (R605).
A slot that is emptied before the end has failed. -/
def blobDone (s : State) : State :=
  match s.cel.blob with
  | none => s
  | some o =>
    match mapGet none s.att.blobKeys o.slot with
    | none => blobEnd 3 3 s
    | some key =>
      if o.opens then
        let h := celGet s o.src 64
        let text := celGet s (o.src + 64) o.len
        let tag := celGet s (o.src + 64 + o.len) 16
        if rangePoison s o.src (o.len + 128) then blobEnd 3 1 s
        else match headerGood h o, Config.gcmOpen key (blobIv h) h text tag with
          | true, some plain => blobEnd 2 0 (celPut .blob o.dst plain s)
          | _, _ => blobEnd 3 2 s
      else if 2 ^ 32 ≤ s.att.blobSeed then blobEnd 3 3 s
      else if rangePoison s o.src o.len then blobEnd 3 1 s
      else
        let h := blobHeader s o
        let (text, tag) := Config.gcmSeal key (blobIv h) h (celGet s o.src o.len)
        blobEnd 2 0 (celPut .blob o.dst (h ++ text.take o.len ++ tag.take 16 ++ leBytes 48 0) s)

def execBlobDone (s : State) : Out := .next (blobDone s)

/-! ### Computed views of the block (R595 to R600) -/

/-- The lowest-numbered pool that re-keys. -/
def busyPool (s : State) : Option (Nat × Nat × Nat) :=
  (List.range 4).findSome? (fun p => (mapGet none s.cel.rkNow p).map (fun q => (p, q.1, q.2)))

/-- CEL_STATUS, CEL_RT_DATA, CEL_PC_DATA and CEL_RK_STATUS as a read returns them; none for another offset. -/
def celView (s : State) (o : Nat) : Option Word :=
  if o = 0 then
    let st := rdReg s celStatus
    let st := setFld st 2 1 (b2n !s.cel.held.isEmpty)
    let st := setFld st 3 1 (b2n (busyPool s).isSome)
    some (setFld st 4 1 (b2n ((List.range 128).any (fun pc => (pcOf s pc).copying))))
  else if o = 0x14 then
    let r := rdFld s (celA 0x10) 0 16
    let k := regionKey s r
    some (BitVec.ofNat 32 (regionMode s r + 4 * regionPool s r + 16 * b2n (rekeyQueued s r) + 32 * b2n (rekeyActive s r) +
      64 * b2n k.exh + 2 ^ 16 * k.gen))
  else if o = 0x1C then
    let x := pcOf s (rdFld s (celA 0x18) 0 7)
    some (BitVec.ofNat 32 (x.role + 8 * x.entry + 2 ^ 9 * x.replaces + 2 ^ 16 * b2n x.copying + 2 ^ 17 * b2n x.bistOk))
  else if o = 0x34 then
    some (match busyPool s with
      | some (p, r, i) => BitVec.ofNat 32 (r + 2 ^ 16 * (i % 16384) + 2 ^ 30 * p)
      | none => 0)
  else none

end Sys2Proof.Machine
end

