-- ==== Sys2Proof/Machine/Tasks.lean ====
section
/-! DEFINITION. Task schedulers (chapter 12): slots, flows, posts, the delay list and the commands. A scheduler is named
by its physical cluster. -/

namespace Sys2Proof.Machine

/-! ### Access to a scheduler and to a steward -/

def schedOf (s : State) (p : Nat) : Sched := mapGet Sched.reset s.stw.sched p
def putSched (p : Nat) (x : Sched) (s : State) : State :=
  { s with stw := { s.stw with sched := mapSet Sched.reset s.stw.sched p x } }

def coreOf (s : State) (p : Nat) : Steward := mapGet Steward.reset s.stw.core p
def putCore (p : Nat) (x : Steward) (s : State) : State :=
  { s with stw := { s.stw with core := mapSet Steward.reset s.stw.core p x } }

/-- Latch an interrupt line of one steward (R484). -/
def raiseLine (p line : Nat) (s : State) : State :=
  wakeLine line (fun q => q = p)
    (putCore p { coreOf s p with irqPend := (coreOf s p).irqPend ||| (1#32 <<< line) } s)

def slotOf (x : Sched) (i : Nat) : Slot := mapGet Slot.reset x.slots i
def putSlot (i : Nat) (v : Slot) (x : Sched) : Sched := { x with slots := mapSet Slot.reset x.slots i v }
def flowOf (x : Sched) (f : Nat) : Flow := mapGet Flow.reset x.flows f
def putFlow (f : Nat) (v : Flow) (x : Sched) : Sched := { x with flows := mapSet Flow.reset x.flows f v }

/-! ### Deadlines (R498, R499) -/

/-- TSK_NOW. -/
def tskNow (s : State) : Word := BitVec.ofNat 32 (stepNow s / 64)

/-- Deadline `a` is earlier than `b`. -/
def earlier (a b : Word) : Bool := (a - b).msb

/-- Slots in a state. -/
def slotsIn (x : Sched) (st : Nat) : List Nat := (List.range 64).filter (fun i => (slotOf x i).state = st)

/-- The slot with the earliest deadline of a list in slot order; the lower-numbered of equals (R499). -/
def earliestOf (x : Sched) (l : List Nat) : Option Nat :=
  l.foldl (fun acc i => match acc with
    | none => some i
    | some j => if earlier (slotOf x i).deadline (slotOf x j).deadline then some i else some j) none

/-- The earliest READY slot and the RUNNING slot (R500, R501). -/
def nextSlot (x : Sched) : Option Nat := earliestOf x (slotsIn x 1)
def runSlot (x : Sched) : Option Nat := (slotsIn x 2).head?

def preempt (x : Sched) : Bool :=
  match nextSlot x, runSlot x with
  | some i, some j => earlier (slotOf x i).deadline (slotOf x j).deadline
  | _, _ => false

/-- No slot runs and one is READY. -/
def idleReady (x : Sched) : Bool := (runSlot x).isNone && (nextSlot x).isSome

/-- A change from `a` to `b` raises a dispatch request (R502). -/
def dispatchDue (a b : Sched) : Bool :=
  (idleReady b && !idleReady a) || (preempt b && !preempt a) || ((idleReady b || preempt b) && nextSlot a ≠ nextSlot b)

/-! ### Flows and wake-ups (R504 to R506) -/

def claimable (v : Flow) : Bool := !v.items.isEmpty && v.holder.isNone

/-- Wake a waiting slot: 1 its flow, 2 its delay entry (R505, R510). -/
def wakeSlot (i why : Nat) (x : Sched) : Sched :=
  let v := slotOf x i
  { putSlot i { v with state := 1, why := why, flowEn := false } x with
    delays := x.delays.filter (fun d => d.2 ≠ i) }

/-- Slots that wait on a flow. -/
def waiters (x : Sched) (f : Nat) : List Nat :=
  (slotsIn x 3).filter (fun i => (slotOf x i).flowEn && (slotOf x i).flow = f)

/-- A flow that has become claimable wakes its earliest waiter. -/
def wakeFlow (f : Nat) (x : Sched) : Sched :=
  match earliestOf x (waiters x f) with
  | some i => wakeSlot i 1 x
  | none => x

/-- Change one flow; where that makes it claimable, a waiter wakes. -/
def changeFlow (f : Nat) (g : Flow → Flow) (x : Sched) : Sched :=
  let before := flowOf x f
  let y := putFlow f (g before) x
  if !claimable before && claimable (g before) then wakeFlow f y else y

/-- Items in the pool. -/
def poolCount (x : Sched) : Nat := x.flows.foldl (fun acc q => acc + q.2.items.length) 0

def flowLimit (s : State) (p f : Nat) : Nat := rdFld s (tskA p (0x400 + 8 * f)) 0 13

/-- Put a changed scheduler back and raise line 0 where a dispatch request is due. -/
def commitSched (p : Nat) (x : Sched) (s : State) : State :=
  whenDo (dispatchDue (schedOf s p) x) (raiseLine p 0) (putSched p x s)

/-- The scheduler counts a refused post (R508). -/
def postRefused (p f : Nat) (s : State) : State :=
  incFld (setBit (setBit s (tskA p (0x404 + 8 * f)) 20) (tskA p 4) 15) (tskA p (0x800 + 4 * f)) 0 32

/-- Post an item to a flow (R504, R507, R508): the status 0 accepted, 1 full, 2 not active. -/
def schedPost (p f : Nat) (item : Word) (s : State) : Nat × State :=
  let x := schedOf s p
  let v := flowOf x f
  if !rdBit s (tskA p 0) 0 then (2, postRefused p f s)
  else if flowLimit s p f ≤ v.items.length ∨ 4096 ≤ poolCount x then (1, postRefused p f s)
  else
    let y := changeFlow f (fun w => { w with items := w.items ++ [{ value := item, flips := 0 }] }) x
    (0, commitSched p y s)

/-- An item is lost to an uncorrectable error (R514). -/
def itemLost (p f : Nat) (s : State) : State :=
  report 0x0A 0 p 0 (setBit (setBit s (tskA p (0x404 + 8 * f)) 21) (tskA p 4) 16)

/-- Read the head item of a flow: one bit in error is corrected and rewritten, more lose the item, by `n` items at
most (R514). -/
def readHead (p f : Nat) (n : Nat) (s : State) : Option Word × State :=
  match n with
  | 0 => (none, s)
  | n + 1 =>
    let x := schedOf s p
    let v := flowOf x f
    match v.items with
    | [] => (none, s)
    | it :: rest =>
      if it.flips < 2 then
        (some it.value, putSched p (putFlow f { v with items := { it with flips := 0 } :: rest } x) s)
      else readHead p f n (itemLost p f (putSched p (putFlow f { items := rest, holder := none } x) s))

/-- FCLAIM of a flow for a thread slot (R469, R506): the item, or none. -/
def schedClaim (p slot f : Nat) (s : State) : Option Word × State :=
  let x := schedOf s p
  if (slotOf x slot).state = 0 ∨ (flowOf x f).holder.isSome then (none, s)
  else
    let (item, s1) := readHead p f (flowOf x f).items.length s
    match item with
    | none => (none, s1)
    | some v =>
      let y := schedOf s1 p
      (some v, putSched p (putFlow f { flowOf y f with holder := some slot } y) s1)

/-- FREL by a slot (R469, R506): none where it does not hold the flow. -/
def schedRelease (p slot f : Nat) (s : State) : Option State :=
  let x := schedOf s p
  if (flowOf x f).holder = some slot then
    some (commitSched p (changeFlow f (fun v => { items := v.items.drop 1, holder := none }) x) s)
  else none

/-! ### Commands (R512, R513) -/

/-- End the service of every flow that a slot holds; head items stay. -/
def endService (i : Nat) (x : Sched) : Sched :=
  (List.range 128).foldl (fun acc f =>
    if (flowOf acc f).holder = some i then changeFlow f (fun v => { v with holder := none }) acc else acc) x

/-- Cancel the delay entry and the flow wait of a slot. -/
def cancelWaits (i : Nat) (x : Sched) : Sched :=
  let v := slotOf x i
  { putSlot i { v with flowEn := false } x with delays := x.delays.filter (fun d => d.2 ≠ i) }

/-- Insert an entry in the delay list behind the entries that do not expire later (R511). -/
def insertDelay (e : Word) (i : Nat) (l : List (Word × Nat)) : List (Word × Nat) :=
  let before := l.takeWhile (fun d => !earlier e d.1)
  before ++ (e, i) :: l.drop before.length

def tickCount (s : State) (p : Nat) : Word := rdReg s (tskA p 0x1C)

/-- WAIT of a slot (R513). -/
def schedWait (s : State) (p i : Nat) (arg : Word) (x : Sched) : Sched :=
  let f := fld arg 0 7
  let en := bit arg 7
  let ticks := fld arg 8 24
  let y := cancelWaits i x
  let v := slotOf y i
  if en && claimable (flowOf y f) then putSlot i { v with state := 1, why := 1 } y
  else
    let z := putSlot i { v with state := 3, why := 0, flowEn := en, flow := f } y
    if ticks = 0 then z else { z with delays := insertDelay (tickCount s p + BitVec.ofNat 32 ticks) i z.delays }

/-- The effect of a command on the scheduler; none where it is refused. -/
def schedEffect (s : State) (p op target : Nat) (arg : Word) (x : Sched) : Option Sched :=
  let i := target % 64
  let v := slotOf x i
  let slotOk := target < 64
  match op with
  | 1 => if slotOk && v.state = 0 then some (putSlot i { Slot.reset with deadline := arg, state := 1 } x) else none
  | 2 => if slotOk && v.state ≠ 0 then some (endService i (putSlot i { v with state := 0, flowEn := false } (cancelWaits i x)))
         else none
  | 3 => if slotOk && v.state = 1 then
           let y := match runSlot x with
             | some j => putSlot j { slotOf x j with state := 1 } x
             | none => x
           some (putSlot i { v with state := 2 } y)
         else none
  | 4 => (runSlot x).map (fun j => putSlot j { slotOf x j with state := 1 } x)
  | 5 => if slotOk && v.state ≠ 0 && v.state ≠ 4 then some (putSlot i { v with state := 4, flowEn := false } (cancelWaits i x))
         else none
  | 6 => if slotOk && v.state = 4 then some (putSlot i { v with state := 1 } x) else none
  | 7 => if slotOk && v.state ≠ 0 then some (putSlot i { v with deadline := arg, miss := false } x) else none
  | 8 => if slotOk && (v.state = 1 || v.state = 2) && !(!bit arg 7 && fld arg 8 24 = 0) then some (schedWait s p i arg x)
         else none
  | 9 => some (putFlow (target % 128) Flow.reset x)
  | _ => none

/-- A write of TSK_CMD by the scheduler's own steward (R512). -/
def tskCmd (p : Nat) (v : Word) (s : State) : Option State :=
  (schedEffect s p (fld v 0 4) (fld v 4 7) (rdReg s (tskA p 0x10)) (schedOf s p)).map (fun x => commitSched p x s)

/-- TSK_CTRL.CLR (R517): slots, delay list, flows and counters. LIMITs, flags and the tick period stay. -/
def tskClear (p : Nat) (s : State) : State :=
  let s1 := putSched p { Sched.reset with bound := (schedOf s p).bound } s
  wrReg (wrReg ((List.range 128).foldl (fun acc f => wrReg acc (tskA p (0x800 + 4 * f)) 0) s1) (tskA p 0x20) 0)
    (tskA p 0x1C) 0

/-- A write of TSK_CTRL. -/
def tskCtrlWrite (p : Nat) (v : Word) (s : State) : State :=
  whenDo (bit v 2) (tskClear p) (wrReg s (tskA p 0) (v &&& 3))

/-- A steward restart (R515): slots, delay list and services; items, limits and counters stay. -/
def schedRestart (p : Nat) (s : State) : State :=
  let x := schedOf s p
  putSched p { x with slots := [], delays := [], flows := x.flows.map (fun q => (q.1, { q.2 with holder := none })) } s

/-- The copy of a retired cluster's scheduler into its spare (R516): items that cannot be read are lost. -/
def schedMove (p q : Nat) (s : State) : State :=
  let x := schedOf s p
  let s1 := x.flows.foldl (fun acc f => if f.2.items.any (fun it => 2 ≤ it.flips) then
      report 0x0A 0 p 0 (setBit acc (tskA q (0x404 + 8 * f.1)) 21) else acc) s
  let flows := x.flows.filterMap (fun f =>
    let l := f.2.items.filterMap (fun it => if it.flips < 2 then some { it with flips := 0 } else none)
    if l.isEmpty then none else some (f.1, { items := l, holder := none }))
  let s2 := putSched q { Sched.reset with flows := flows, bound := x.bound } s1
  (0 :: 0x18 :: 0x1C :: (List.range 128).map (fun f => 0x400 + 8 * f)).foldl (fun acc o =>
    wrReg acc (tskA q o) (rdReg acc (tskA p o))) s2

/-! ### Time (R503, R510) -/

/-- DEADLINE_MISS: TSK_NOW passes the deadline of a READY or RUNNING slot, once per deadline. -/
def deadlineMiss (p i : Nat) (s : State) : State :=
  let x := schedOf s p
  let v := slotOf x i
  let late := tskNow s - v.deadline
  if shelfOn s (p / 17) ∧ (v.state = 1 ∨ v.state = 2) ∧ v.miss = false ∧ late ≠ 0 ∧ late.msb = false then
    incFld (setBit (putSched p (putSlot i { v with miss := true } x) s) (tskA p 4) 14) (tskA p 0x20) 0 32
  else s

def execDeadlineMiss (p i : Nat) (s : State) : Out := .next (if p < 272 ∧ i < 64 then deadlineMiss p i s else s)

/-- The Nigor period in units of 2^-16 ns. -/
def nigorPeriod (s : State) (p : Nat) : Nat := rdFld s (tskA p 0x18) 0 20 * 65536

/-- NIGOR_TICK: the count advances by the boundaries of the period that TB1 has passed (R510). While the shelf is not
ON, an entry that expires, or TICK_IE, wakes it, and the count advances when it is ON again (R690). -/
def nigorTick (p : Nat) (s : State) : State :=
  let x := schedOf s p
  let b := tb1Now s / nigorPeriod s p
  let due := tickCount s p + BitVec.ofNat 32 (b - x.bound)
  if b ≤ x.bound then s
  else if !shelfOn s (p / 17) then
    whenDo (rdBit s (tskA p 0) 1 || x.delays.any (fun d => d.1 = due || earlier d.1 due)) (wakeShelf (p / 17) 3) s
  else
    let c := tickCount s p + BitVec.ofNat 32 (b - x.bound)
    let out := x.delays.filter (fun d => d.1 = c || earlier d.1 c)
    let y := out.foldl (fun acc d => wakeSlot d.2 2 acc) { x with bound := b }
    whenDo (!out.isEmpty || rdBit s (tskA p 0) 1) (raiseLine p 1) (wrReg (commitSched p y s) (tskA p 0x1C) c)

def execNigorTick (p : Nat) (s : State) : Out := .next (if p < 272 then nigorTick p s else s)

/-- A write of TSK_NTICK (R520): a period outside 100 to 1,000,000 is refused; a valid one counts from the next
boundary of the new period. -/
def tskNtickWrite (p : Nat) (v : Word) (s : State) : Option State :=
  let n := fld v 0 20
  if n < 100 ∨ 1000000 < n then none
  else
    let s1 := wrReg s (tskA p 0x18) (BitVec.ofNat 32 n)
    some (putSched p { schedOf s1 p with bound := tb1Now s1 / nigorPeriod s1 p } s1)

/-- A write of TSK_FLOW_f word 0 (R522). -/
def tskLimitWrite (p f : Nat) (v : Word) (s : State) : Option State :=
  let n := fld v 0 13
  if n = 0 ∨ 4096 < n then none else some (wrReg s (tskA p (0x400 + 8 * f)) (BitVec.ofNat 32 n))

/-! ### Views of the window (R518 to R524) -/

/-- What a read of the window returns, for the registers that show the scheduler itself. -/
def tskView (s : State) (p o : Nat) : Option Word :=
  let x := schedOf s p
  if o = 4 then
    some (BitVec.ofNat 32 ((runSlot x).getD 0 + 2 ^ 6 * b2n (runSlot x).isSome + 2 ^ 7 * (slotsIn x 1).length +
      2 ^ 14 * rdFld s (tskA p 4) 14 3 + 2 ^ 17 * (4096 - poolCount x)))
  else if o = 8 then some (tskNow s)
  else if o = 0xC then
    some (BitVec.ofNat 32 ((nextSlot x).getD 0 + 2 ^ 6 * b2n (nextSlot x).isSome + 2 ^ 7 * b2n (preempt x)))
  else if 0x100 ≤ o ∧ o < 0x300 then
    let i := (o - 0x100) / 8
    let v := slotOf x i
    if o % 8 = 0 then some v.deadline
    else some (BitVec.ofNat 32 (v.state + 8 * b2n v.flowEn + 16 * v.flow + 2 ^ 11 * b2n (x.delays.any (fun d => d.2 = i)) +
      2 ^ 12 * v.why + 2 ^ 14 * b2n v.miss + 2 ^ 15 * b2n (x.flows.any (fun q => q.2.holder = some i))))
  else if 0x400 ≤ o ∧ o < 0x800 ∧ o % 8 = 4 then
    let v := flowOf x ((o - 0x400) / 8)
    some (BitVec.ofNat 32 (v.items.length + 2 ^ 13 * b2n v.holder.isSome + 2 ^ 14 * v.holder.getD 0 +
      2 ^ 20 * rdFld s (tskA p o) 20 2))
  else if 0xA00 ≤ o ∧ o < 0xC00 then
    match x.delays[(o - 0xA00) / 8]? with
    | some d => some (if o % 8 = 0 then d.1 else BitVec.ofNat 32 (d.2 + 2 ^ 31))
    | none => some 0
  else if 0x1200 ≤ o ∧ o < 0x1400 then
    some (((flowOf x ((o - 0x1200) / 4)).items.head?.map (fun it => it.value)).getD 0)
  else none

/-! ### Notification by the mover (R315) -/

/-- A post of the mover (R507, R508): to a sleeping shelf it waits at the gate and wakes the shelf. -/
def moverPost (p f : Nat) (item : Word) (s : State) : State :=
  let h := p / 17
  if shelfOn s h then (schedPost p f item s).2
  else
    let g := gateOf s h
    wakeShelf h 1 (putGate h { g with held := g.held ++
      [{ who := .mover, addr := tskA p (0x1000 + 4 * f), write := true, data := item }] } s)

/-- MOVER_EPOCH_DONE: the mover has read every record of its epoch; it posts one item per context that gained, and
takes the next epoch. -/
def moverEpochDone (s : State) : State :=
  match s.cmp.moving with
  | none => s
  | some e =>
    if s.cmp.stage.any (fun r => r.epoch = e) then s
    else
      let s1 := moverFinish e s
      let cfg := rdReg s1 (cmpA 0x0C)
      let p := physOf s1 (fld cfg 0 8)
      let item := rdReg s1 (cmpA 0x48)
      let post := fun (acc : State) (c : Nat) =>
        if bit cfg 15 && s.cmp.gained.getLsbD c then moverPost p (fld cfg 8 7 + c) item acc else acc
      moverNext ((List.range 8).foldl post s1)

def execMoverEpochDone (s : State) : Out := .next (moverEpochDone s)

end Sys2Proof.Machine
end

