-- ==== Sys2Proof/Machine/Trace.lean ====
section
/-! DEFINITION. Trace of the stewards (chapter 16): packets, sources, the funnel and its port. Stewards are named by
their physical cluster, sources by their number. -/

namespace Sys2Proof.Machine

/-! ### Cycles and grants -/

/-- Steward cycles of 1 ns counted so far (R481, R654): none are counted while the clock is gated. -/
def cyclesNow (s : State) (p : Nat) : Nat :=
  let c := coreOf s p
  c.cycles + (match c.cycleAt with
    | some t => (tb0Now s - t) / 65536
    | none => 0)

/-- A grant is in force (R636): 0 GTRACE, 1 GHALT, 2 JTAG; every grant in lifecycle Blank. -/
def granted (s : State) (i : Nat) : Bool := s.att.lifecycle = 0 || rdBit s (attA 0) (16 + i)

/-! ### Sources -/

def trcCfg (s : State) (k : Nat) : Word := rdReg s (trcA (0x100 + 4 * k))
def srcOf (s : State) (k : Nat) : TrcSrc := mapGet TrcSrc.reset s.trc.srcs k
def putSrc (k : Nat) (x : TrcSrc) (s : State) : State :=
  { s with trc := { s.trc with srcs := mapSet TrcSrc.reset s.trc.srcs k x } }

/-- The enabled source that traces the steward of a physical cluster (R646). -/
def sourceFor (s : State) (p : Nat) : Option Nat :=
  match logOf s p with
  | none => none
  | some m => (List.range 16).find? (fun k => bit (trcCfg s k) 8 && fld (trcCfg s k) 0 8 = m)

/-- The steward is in G and G is excluded (R655). -/
def excluded (s : State) (p k : Nat) : Bool := (srcOf s k).excl.isSome || ((coreOf s p).priv = 2 && !granted s 0)

/-! ### Packets (R648 to R653, R657) -/

/-- A source puts a packet into its FIFO of 1 KB, or drops it (R657). -/
def emit (k : Nat) (bytes : List Byte) (s : State) : State :=
  let x := srcOf s k
  match x.drop with
  | some n => putSrc k { x with drop := some (n + bytes.length) } s
  | none =>
    if x.fifo.length + bytes.length ≤ 1024 then putSrc k { x with fifo := x.fifo ++ bytes } s
    else putSrc k { x with drop := some bytes.length } s

/-- A number in groups of 7 bits, least significant first (R648). -/
def varint (fuel n : Nat) : List Byte :=
  match fuel with
  | 0 => []
  | fuel + 1 => if n < 128 then [BitVec.ofNat 8 n] else BitVec.ofNat 8 (n % 128 + 128) :: varint fuel (n / 128)

/-- With CYC = 1 a CYC packet precedes IND, EXC and ATOMS (R653). -/
def emitCyc (p k : Nat) (s : State) : State :=
  if bit (trcCfg s k) 9 then
    let c := cyclesNow s p
    let x := srcOf s k
    emit k (0x50#8 :: varint 10 ((c - x.cyc) % 2 ^ 64)) (putSrc k { x with cyc := c } s)
  else s

/-- The ATOMS byte of a list of atoms, the oldest in bit 0 (R649). -/
def atomsByte (l : List Bool) : Byte :=
  BitVec.ofNat 8 (0x80 + 2 ^ l.length + (l.zipIdx.foldl (fun acc q => acc + b2n q.1 * 2 ^ q.2) 0))

/-- Close the atoms held (R649). -/
def closeAtoms (p k : Nat) (s : State) : State :=
  let x := srcOf s k
  if x.atoms.isEmpty then s
  else emit k [atomsByte x.atoms] (emitCyc p k (putSrc k { x with atoms := [] } s))

/-- The bytes of an address beside the reference address (R650). -/
def addrBytes (a x : Word) : List Byte :=
  let v := leBytes 4 (x.toNat / 4)
  let r := leBytes 4 (a.toNat / 4)
  let n := ((List.range' 1 3).find? (fun n => v.drop n = r.drop n)).getD 4
  v.take n

/-- An atom of a branch. -/
def emitAtom (p k : Nat) (b : Bool) (s : State) : State :=
  let x := srcOf s k
  let s1 := putSrc k { x with atoms := x.atoms ++ [b], since := x.since + 1 } s
  if 6 ≤ x.atoms.length + 1 then closeAtoms p k s1 else s1

/-- IND with a target. -/
def emitInd (p k : Nat) (t : Word) (s : State) : State :=
  let s1 := emitCyc p k (closeAtoms p k s)
  let x := srcOf s1 k
  let b := addrBytes x.ref t
  emit k (BitVec.ofNat 8 (0x40 + b.length) :: b) (putSrc k { x with ref := t, since := x.since + 1 } s1)

/-- EXC of an exception or interrupt. -/
def emitExc (p k : Nat) (epc : Word) (cause line : Nat) (s : State) : State :=
  let s1 := emitCyc p k (closeAtoms p k s)
  let x := srcOf s1 k
  let b := addrBytes x.ref epc
  emit k (BitVec.ofNat 8 (0x60 + b.length) :: b ++ [BitVec.ofNat 8 cause, BitVec.ofNat 8 line])
    (putSrc k { x with ref := epc } s1)

/-- SYNC, or SYNCT with the time of TB1 (R651). -/
def emitSync (timed : Bool) (p k : Nat) (s : State) : State :=
  let c := coreOf s p
  let cyc := cyclesNow s p
  let x := srcOf s k
  let body := leBytes 4 c.pc.toNat ++ leBytes 1 (c.priv + 4 * c.thread) ++ leBytes 2 p ++ leBytes 8 cyc
  let s1 := putSrc k { x with ref := c.pc, since := 0, cyc := cyc, needS := false, needT := x.needT && !timed } s
  if timed then emit k (0x71#8 :: body ++ leBytes 12 (timeWord (tb1Now s))) s1 else emit k (0x70#8 :: body) s1

/-- PWR: the clock stops (R654). Reasons: 0 WFT, 1 halt, 2 shelf power-down, 3 double fault. -/
def emitPwr (reason p k : Nat) (s : State) : State :=
  let cyc := cyclesNow s p
  let s1 := closeAtoms p k s
  emit k (0x72#8 :: BitVec.ofNat 8 reason :: leBytes 8 cyc) (putSrc k { srcOf s1 k with cyc := cyc, needT := true } s1)

/-- Do something at the source of a steward, unless G is excluded (R655). -/
def traced (p : Nat) (f : Nat → State → State) (s : State) : State :=
  match sourceFor s p with
  | some k => if excluded s p k then s else f k s
  | none => s

/-- G becomes excluded: atoms closed, GIN (R655, R656). -/
def emitGin (p k : Nat) (s : State) : State :=
  let s1 := closeAtoms p k s
  emit k [0x73#8] (putSrc k { srcOf s1 k with excl := some (cyclesNow s1 p) } s1)

/-- The return from an excluded G: GOUT, and a SYNC at the next instruction boundary (R652, R655). -/
def emitGout (p k : Nat) (s : State) : State :=
  match (srcOf s k).excl with
  | none => s
  | some c =>
    let n := min 65535 ((cyclesNow s p - c) / 1024)
    emit k (0x74#8 :: leBytes 2 n) (putSrc k { srcOf s k with excl := none, needS := true } s)

/-- GTRACE ends while stewards execute traced G code (R656). -/
def traceGrantEnds (s : State) : State :=
  (List.range 16).foldl (fun acc k =>
    let p := physOf acc (fld (trcCfg acc k) 0 8)
    if bit (trcCfg acc k) 8 && (coreOf acc p).priv = 2 && (srcOf acc k).excl.isNone then emitGin p k acc else acc) s

/-- A dropping source whose FIFO has 64 bytes free emits OVF and then SYNCT (R657). -/
def recoverDrop (k : Nat) (s : State) : State :=
  let x := srcOf s k
  match x.drop with
  | some n =>
    if x.fifo.length + 64 ≤ 1024 then
      let s1 := putSrc k { x with drop := none, atoms := [], needT := true } s
      let s2 := setBit (emit k (0x75#8 :: leBytes 2 (min 65535 n)) s1) (trcA 4) k
      let d := (rdReg s2 (trcA (0x140 + 4 * k))).toNat + n
      wrReg s2 (trcA (0x140 + 4 * k)) (BitVec.ofNat 32 (min 0xFFFFFFFF d))
    else s
  | none => s

/-- An instruction boundary of a traced steward: the syncs that are due (R652). -/
def traceBoundary (p : Nat) (s : State) : State :=
  traced p (fun k s =>
    let s1 := recoverDrop k s
    let x := srcOf s1 k
    let n := max 16 (fld (trcCfg s1 k) 16 16)
    if x.drop.isSome then s1
    else if x.needT then emitSync true p k (closeAtoms p k s1)
    else if x.needS || n ≤ x.since then emitSync false p k (closeAtoms p k s1)
    else s1) s

/-! ### Registers (R646, R656, R661) -/

/-- A write of TRC_SRCk; none where another enabled source names the cluster. -/
def trcSrcWrite (k : Nat) (v : Word) (s : State) : Option State :=
  let m := fld v 0 8
  if (List.range 16).any (fun j => j ≠ k && bit (trcCfg s j) 8 && fld (trcCfg s j) 0 8 = m) then none
  else
    let was := trcCfg s k
    let same := bit was 8 && bit v 8 && fld was 0 8 = m
    let s1 := if bit was 8 && !same then closeAtoms (physOf s (fld was 0 8)) k s else s
    let s2 := wrReg s1 (trcA (0x100 + 4 * k)) (v &&& 0xFFFF03FF)
    if same then some s2
    else some (putSrc k { TrcSrc.reset with fifo := (srcOf s2 k).fifo, needT := bit v 8 } s2)

/-- Every lane of a quad is unused (R661). -/
def quadFree (s : State) (q : Nat) : Bool := (List.range 4).all (fun i => rdFld s (laneA (4 * q + i) 4) 2 2 = 0)

/-- A write of TRC_CTRL; none where R661 refuses it. -/
def trcCtrlWrite (v : Word) (s : State) : Option State :=
  let was := rdReg s (trcA 0)
  let v := v &&& 0x3FF
  let moves := fld v 0 2 = 2 && (fld was 0 2 ≠ 2 || fld v 2 8 ≠ fld was 2 8)
  if moves && !quadFree s (fld v 2 6) then none else some (wrReg s (trcA 0) v)

/-! ### The funnel (R658 to R660) -/

/-- The next source, round-robin after the last one served, whose FIFO satisfies a condition. -/
def nextSrc (s : State) (f : Nat → Bool) : Option Nat :=
  ((List.range 16).map (fun i => (s.trc.last + 1 + i) % 16)).find? (fun k => f (srcOf s k).fifo.length)

/-- TRACE_FRAME: the funnel sends the frame of the next slot. -/
def traceFrame (s : State) : State :=
  let port := rdFld s (trcA 0) 0 2
  if port ≠ 1 ∧ port ≠ 2 then s
  else
    let i := s.trc.slot
    let take := fun (k n : Nat) =>
      let x := srcOf s k
      let pay := x.fifo.take n ++ List.replicate (15 - n) 0#8
      (BitVec.ofNat 8 (k + 0x80) :: pay, { putSrc k { x with fifo := x.fifo.drop n } s with
        trc := { (putSrc k { x with fifo := x.fifo.drop n } s).trc with last := k } })
    let (frame, s1) :=
      if i % 256 < 4 then (0x70#8 :: List.replicate 15 0xFF#8, s)
      else match nextSrc s (fun n => 15 ≤ n), nextSrc s (fun n => 0 < n) with
        | some k, _ => take k 15
        | none, some k => take k (srcOf s k).fifo.length
        | none, none => (List.replicate 16 0#8, s)
    let lane := if port = 2 then some (4 * rdFld s (trcA 0) 2 6 + i % 4) else none
    { s1 with
      outbox := .traceFrame lane frame :: s1.outbox
      trc := { s1.trc with slot := i + 1 } }

def execTraceFrame (s : State) : Out := .next (traceFrame s)

/-- TRC_STATUS.ACTIVE as a read shows it. -/
def trcView (s : State) (o : Nat) : Option Word :=
  if o = 4 then
    some (setFld (rdReg s (trcA 4)) 16 1 (b2n (rdFld s (trcA 0) 0 2 = 1 || rdFld s (trcA 0) 0 2 = 2)))
  else none

end Sys2Proof.Machine
end

