-- ==== Sys2Proof/Machine/Steward.lean ====
section
/-! DEFINITION. Stewards (chapter 11): caches, exceptions, guarded code, start, halt and retirement, and the registers
of the STW window. A steward is named by its physical cluster. -/

namespace Sys2Proof.Machine

/-! ### Registers -/

def stwStatus (p : Nat) : Nat := stwA p 4

/-- Register code 24 reads 0 (R456). -/
def gRead (c : Steward) (r : Nat) : Word := if r < 24 then mapGet 0#32 c.gpr r else 0

/-- A write of a general register; one of register code 24 is discarded. -/
def gWrite (r : Nat) (v : Word) (c : Steward) : Steward :=
  if r < 24 then { c with gpr := mapSet 0#32 c.gpr r v } else c

def pRead (c : Steward) (i : Nat) : Bool := c.preds.getLsbD i
def pWrite (i : Nat) (b : Bool) (c : Steward) : Steward := { c with preds := setFld c.preds i 1 (b2n b) }

/-- PSR (R481). -/
def psrOf (c : Steward) : BitVec 8 :=
  BitVec.ofNat 8 (c.priv + 4 * b2n c.ie + 8 * b2n c.exl + 16 * c.preds.toNat)

/-- Take every field of a saved PSR. -/
def setPsr (v : BitVec 8) (c : Steward) : Steward :=
  { c with priv := fld v 0 2, ie := v.getLsbD 2, exl := v.getLsbD 3, preds := BitVec.ofNat 4 (fld v 4 4) }

/-- IRQ_PEND: lines latched by this steward alone and by all of them (R484). -/
def irqPendOf (s : State) (p : Nat) : Word :=
  (coreOf s p).irqPend ||| (s.stw.bcast &&& ~~~ mapGet 0#32 s.stw.bcClr p)

/-- A write of IRQ_PEND clears the lines written 1. -/
def irqClear (p : Nat) (v : Word) (s : State) : State :=
  let s1 := putCore p { coreOf s p with irqPend := (coreOf s p).irqPend &&& ~~~ v } s
  { s1 with stw := { s1.stw with
    bcClr := mapSet 0#32 s1.stw.bcClr p (mapGet 0#32 s1.stw.bcClr p ||| (v &&& s1.stw.bcast)) } }

/-! ### Clock gating (R654) -/

/-- The clock stops; the trace shows why. -/
def stopClock (reason p : Nat) (s : State) : State :=
  if (coreOf s p).gated then s
  else
    let s1 := traced p (emitPwr reason p) s
    putCore p { coreOf s1 p with cycles := cyclesNow s1 p, cycleAt := none, gated := true, gatedAt := tb0Now s1 } s1

/-- The clock runs again. -/
def startClock (p : Nat) (s : State) : State :=
  if (coreOf s p).gated then putCore p { coreOf s p with cycleAt := some (tb0Now s), gated := false } s else s

/-! ### Caches (R475 to R478) -/

def cacheLine (s : State) (l : Nat) : Option CacheLine := mapGet none s.stw.dcache l
def putCache (l : Nat) (x : Option CacheLine) (s : State) : State :=
  { s with stw := { s.stw with dcache := mapSet none s.stw.dcache l x } }

/-- The newest bytes of a cached line. -/
def lineNow (x : CacheLine) : List Byte := ((x.owner).map (fun q => q.2)).getD x.data

/-- The line is dirty somewhere. -/
def lineDirty (x : CacheLine) : Bool := x.dirty || x.owner.isSome

/-- A dirty line is lost (R476): the flag, and the event at the attic. -/
def dirtyLost (p : Nat) (s : State) : State := report 0x0A 0 p 0 (setBit s (stwStatus p) 4)

/-- Write a line back to the cellar on behalf of a steward; a line with an uncorrectable error is lost, and line 3 is
set. -/
def writeBackLine (p l : Nat) (x : CacheLine) (s : State) : State :=
  if 2 ≤ x.flips then raiseLine p 3 (dirtyLost p s)
  else (lineWrite (.steward p false) l 0 (lineNow x) .pass s).1

/-- The owner's dirty bytes pass to the L2. -/
def pullOwner (x : CacheLine) : CacheLine :=
  match x.owner with
  | some (q, d) => { x with data := d, dirty := true, owner := none, hold := if x.hold.contains q then x.hold else q :: x.hold }
  | none => x

/-- A data cache gives up a line; a dirty one passes to the L2. -/
def evictData (p l : Nat) (s : State) : State :=
  match cacheLine s l with
  | none => s
  | some x =>
    let x := if (x.owner.map (fun q => q.1)) = some p then pullOwner x else x
    putCache l (some { x with hold := x.hold.filter (fun q => q ≠ p) }) s

/-- The L2 of a shelf gives up a line, and with it the shelf's data caches; the last L2 writes a dirty line back. -/
def evictL2 (h l : Nat) (s : State) : State :=
  match cacheLine s l with
  | none => s
  | some x =>
    let p := ((x.owner.map (fun q => q.1)).getD ((x.hold.filter (fun q => q / 17 = h)).headD (17 * h)))
    let mine : Bool := match x.owner with
      | some (q, _) => decide (q / 17 = h)
      | none => false
    let y := if mine then pullOwner x else x
    let y := { y with hold := y.hold.filter (fun q => q / 17 ≠ h), shelves := y.shelves.filter (fun q => q ≠ h) }
    if y.shelves.isEmpty then putCache l none (if y.dirty then writeBackLine p l y s else s)
    else putCache l (some y) s

/-- Lines of a data cache in the set of a line, and of an L2. -/
def dataSet (s : State) (p l : Nat) : List Nat :=
  (s.stw.dcache.filter (fun q => q.1 % 128 = l % 128 && q.1 ≠ l && (match q.2 with
    | some x => x.hold.contains p || (x.owner.map (fun o => o.1)) = some p
    | none => false))).map (fun q => q.1)
def l2Set (s : State) (h l : Nat) : List Nat :=
  (s.stw.dcache.filter (fun q => q.1 % 1024 = l % 1024 && q.1 ≠ l && (match q.2 with
    | some x => x.shelves.contains h
    | none => false))).map (fun q => q.1)

/-- Make room for a line: a full set gives up a line that the manual does not name. -/
def makeRoom (p l : Nat) (s : State) : State :=
  let ds := dataSet s p l
  let s1 := if ds.length < 4 then s else
    let (v, x) := takeFree s
    evictData p (ds.getD (v % ds.length) 0) x
  let ls := l2Set s1 (p / 17) l
  if ls.length < 16 then s1 else
    let (v, x) := takeFree s1
    evictL2 (p / 17) (ls.getD (v % ls.length) 0) x

/-- A line enters the data cache of a steward and the L2 of its shelf. -/
def allocLine (p l : Nat) (data : List Byte) (s : State) : State :=
  let s1 := makeRoom p l s
  putCache l (some { data := data, dirty := false, shelves := [p / 17], hold := [p], owner := none, flips := 0 }) s1

/-- What an access of a steward finds: the line, a miss, or a dirty line lost to an uncorrectable error. -/
inductive Found where
  | hit (data : List Byte) | miss | lost
deriving DecidableEq, Repr

/-- A steward reaches for a line (R475, R476): where any cache holds it, it comes into the steward's data cache, a single
error corrected; a clean line with two errors is filled again. -/
def reachLine (p l : Nat) (s : State) : Found × State :=
  match cacheLine s l with
  | none => (.miss, s)
  | some x =>
    if 2 ≤ x.flips then
      if lineDirty x then (.lost, dirtyLost p (putCache l none s)) else (.miss, putCache l none s)
    else
      let own := (x.owner.map (fun q => q.1)) = some p
      let y := { (if own then x else pullOwner x) with flips := 0 }
      let y := { y with
        hold := if own || y.hold.contains p then y.hold else p :: y.hold
        shelves := if y.shelves.contains (p / 17) then y.shelves else p / 17 :: y.shelves }
      (.hit (lineNow y), putCache l (some y) (if x.hold.contains p || own then s else makeRoom p l s))

/-- A steward writes bytes into a line that it has reached: it is the only holder now (R477, R534). -/
def storeLine (p l ofs : Nat) (bytes : List Byte) (s : State) : State :=
  match cacheLine s l with
  | none => s
  | some x =>
    let d := lineNow x
    let d := d.take ofs ++ bytes ++ d.drop (ofs + bytes.length)
    putCache l (some { x with owner := some (p, d), hold := [], shelves := [p / 17] }) s

/-- CMO FN 0: a dirty line of the steward's data cache or of its L2 reaches the cellar (R478). -/
def cleanLine (p l : Nat) (s : State) : State :=
  match cacheLine s l with
  | none => s
  | some x =>
    let mine := (x.owner.map (fun q => q.1)) = some p
    let y := if mine then pullOwner x else x
    if y.dirty && (y.shelves.contains (p / 17) || mine) then
      let s1 := writeBackLine p l y s
      putCache l (if 2 ≤ x.flips then none else some { y with dirty := false, flips := 0 }) s1
    else putCache l (some y) s

/-- Invalidate a line in the steward's data cache and in its L2 without writing it back (R478, R479). -/
def dropLine (p l : Nat) (s : State) : State :=
  match cacheLine s l with
  | none => s
  | some x =>
    let mine : Bool := match x.owner with
      | some (q, _) => decide (q / 17 = p / 17)
      | none => false
    let y := { x with
      owner := if mine then none else x.owner
      hold := x.hold.filter (fun q => q / 17 ≠ p / 17)
      shelves := x.shelves.filter (fun q => q ≠ p / 17) }
    putCache l (if y.shelves.isEmpty then none else some y) s

/-- Lines that a steward holds dirty. -/
def ownedLines (s : State) (p : Nat) : List Nat :=
  (s.stw.dcache.filter (fun q => match q.2 with
    | some x => (x.owner.map (fun o => o.1)) = some p
    | none => false)).map (fun q => q.1)

/-- Clean and invalidate the data cache of a steward, and invalidate its instruction cache (R490, R491). -/
def flushCore (p : Nat) (s : State) : State :=
  let s1 := (ownedLines s p).foldl (fun acc l => cleanLine p l acc) s
  let s2 := s1.stw.dcache.foldl (fun acc q => match q.2 with
    | some x => if x.hold.contains p then evictData p q.1 acc else acc
    | none => acc) s1
  { s2 with stw := { s2.stw with icache := mapKeep (fun k => k / 2 ^ 30 ≠ p) s2.stw.icache } }

/-- The L2 of a shelf is cleaned and invalidated (R542). -/
def flushShelf (h : Nat) (s : State) : State :=
  (s.stw.dcache.map (fun q => q.1)).foldl (fun acc l => evictL2 h l acc) s

/-- Every cache of every steward is invalidated (R489). -/
def dropCaches (s : State) : State := { s with stw := { s.stw with icache := [], dcache := [] } }

/-! ### Exceptions (R482 to R485) -/

/-- Exception causes (R482). -/
inductive Cause where
  | ifetch | illegal | priv | align | access | flow | bus | ecc | sys | brk | int
deriving DecidableEq, Repr

def Cause.code (c : Cause) : Nat :=
  match c with
  | .ifetch => 1
  | .illegal => 2
  | .priv => 3
  | .align => 4
  | .access => 5
  | .flow => 6
  | .bus => 7
  | .ecc => 8
  | .sys => 9
  | .brk => 10
  | .int => 16

/-- Causes that set EVA (R481). -/
def Cause.setsEva (c : Cause) : Bool :=
  match c with
  | .align | .access | .bus | .ecc => true
  | _ => false

/-- First cellar byte of the guarded region (R573). -/
def guardedBase (s : State) : Nat := (genBase + rdFld s celPlan 5 10) * 2 ^ 20

/-- The steward abandons the access that its instruction waits for (R490): its answer reaches nobody. -/
def dropAccess (p : Nat) (s : State) : State :=
  let other := fun (w : Requester) => decide (w ≠ .core p)
  { s with
    chip := { s.chip with
      resps := s.chip.resps.filter (fun r => other r.who)
      remote := s.chip.remote.filter (fun r => other r.who) }
    noc := { s.noc with gates := s.noc.gates.map (fun q => (q.1, { q.2 with held := q.2.held.map (fun r =>
      if other r.who then r else { r with who := .mover }) })) } }

/-- A GCALL is aborted (R487): registers cleared, the guarded region's dirty data lines discarded, and K continues at
GRA. IE and EXL are those of the GCALL. -/
def gcallAbort (p last : Nat) (s : State) : State :=
  let s0 := whenDo ((sourceFor s p).isSome) (fun x => match sourceFor x p with
    | some k => emitGout p k x
    | none => x) s
  let g := guardedBase s0 / 64
  let s1 := s0.stw.dcache.foldl (fun acc q => match q.2 with
    | some x => if g ≤ q.1 ∧ q.1 < g + 16384 ∧ (x.owner.map (fun o => o.1)) = some p then
        putCache q.1 (some { x with owner := none }) acc else acc
    | none => acc) s0
  let c := coreOf s1 p
  let call := c.gcall.getD { ie := false, exl := false, cycle := 0 }
  let c1 := { c with
    gpr := [], preds := 0, pc := c.gra, priv := 1, ie := call.ie, exl := call.exl, gLast := last, gcall := none,
    miss := none, await := none, run := .executing }
  let s2 := report 0x38 7 p 0 (setBit (putCore p c1 (dropAccess p s1)) (stwStatus p) 5)
  if c.haltDue then stopClock 1 p (traceBoundary p <| putCore p { coreOf s2 p with run := .halted, haltDue := false } s2) else s2

/-- A double fault outside G (R485): the steward stops; the host and the attic learn of it. -/
def doubleFault (p : Nat) (s : State) : State :=
  let s1 := setBit (putCore p { coreOf s p with run := .stopped, miss := none } s) (stwStatus p) 2
  stopClock 3 p (report 0x38 7 p 0 (hostEvent 5 s1))

/-- Take an exception or an interrupt (R483): save PSR, the return address and ESR, enter K (or stay in G), and go on
at the vector. `info` is ESR.INFO and `line` ESR.LINE. -/
def takeException (p : Nat) (k : Cause) (info line : Nat) (addr : Nat) (s : State) : State :=
  let c := coreOf s p
  if c.exl then (if c.priv = 2 then gcallAbort p 3 s else doubleFault p s)
  else
    let esr : Word := BitVec.ofNat 32 (k.code + 2 ^ 8 * line + 2 ^ 16 * info)
    let vec := if c.priv = 2 then c.gvec else c.evec
    let target := if k = .int then vec + 0x80 else vec
    let c1 := { c with
      ie := false, exl := true, pc := target, cause := k.code, miss := none, await := none, run := .executing,
      eva := if k.setsEva then BitVec.ofNat 32 addr else c.eva }
    let c2 := if c.priv = 2 then { c1 with gepsr := psrOf c, gepc := c.pc, gesr := esr }
      else { c1 with epsr := psrOf c, epc := c.pc, esr := esr, priv := 1 }
    let s1 := traced p (emitExc p · c.pc k.code line) s
    traced p (emitInd p · target) (putCore p c2 s1)

/-! ### Start, halt and retirement (R489 to R491) -/

/-- A steward starts at ENTRY in K with its registers at reset (R489). -/
def startCore (p : Nat) (s : State) : State :=
  let c : Steward := { Steward.reset with pc := s.stw.entry, run := .executing, parked := false, gated := false,
                                          cycleAt := some (tb0Now s) }
  let s1 := putCore p c (dropAccess p s)
  let s2 := { s1 with stw := { s1.stw with bcClr := mapSet 0#32 s1.stw.bcClr p s1.stw.bcast } }
  match sourceFor s2 p with
  | some k => putSrc k { srcOf s2 k with needT := true, excl := none, cyc := 0 } s2
  | none => s2

/-- STW_CTRL.RESTART: stop, clean and start again (R490, R515). Only an active cluster's steward starts. -/
def restartCore (p : Nat) (s : State) : State :=
  if roleOf s p ≠ .active then s
  else startCore p (schedRestart p (flushCore p (stopClock 1 p s)))

/-- HALT written 1 (R490). -/
def haltCore (p : Nat) (s : State) : State :=
  let c := coreOf s p
  match c.run with
  | .halted | .stopped => s
  | .waiting => stopClock 1 p (putCore p { c with run := .halted, await := none } s)
  | .executing =>
    if c.priv = 2 && !granted s 1 then putCore p { c with haltDue := true } s
    else stopClock 1 p (putCore p { c with run := .halted } s)

/-- HALT written 0 (R490). -/
def resumeCore (p : Nat) (s : State) : State :=
  let c := coreOf s p
  if c.run = .halted ∧ c.parked = false then startClock p (putCore p { c with run := .executing } s)
  else putCore p { c with haltDue := false } s

/-- A write of STW_CTRL. -/
def stwCtrlWrite (p : Nat) (v : Word) (s : State) : State :=
  let was := rdBit s (stwA p 0) 0
  let s1 := wrReg s (stwA p 0) (v &&& 1)
  let s2 := whenDo (bit v 1) (restartCore p) s1
  if bit v 0 then haltCore p s2 else if was then resumeCore p s2 else s2

/-- The steward of a retired cluster stops; its dirty lines are written back, or lost and logged (R491). -/
def retireCore (p : Nat) (s : State) : State :=
  let s1 := whenDo (decide ((coreOf s p).run = .executing) || decide ((coreOf s p).run = .waiting)) (stopClock 1 p) s
  let s2 := dropAccess p (flushCore p s1)
  putCore p { coreOf s2 p with run := .halted, parked := true, gated := true, miss := none, await := none } s2

/-- The spare's steward takes over a logical cluster (R491). -/
def takeOverCore (q : Nat) (s : State) : State := setBit (startCore q s) (stwStatus q) 3

/-! ### Registers of the window (R492 to R497, R668) -/

/-- STW_DBELL: lines 16 to 31 (R494). -/
def doorbellWrite (p : Nat) (v : Word) (s : State) : State :=
  (List.range 16).foldl (fun acc i => if v.getLsbD i then raiseLine p (16 + i) acc else acc) s

/-- The debug registers are exposed (R668). -/
def dbgOpen (s : State) (p : Nat) : Bool :=
  let c := coreOf s p
  (c.run = .halted || c.run = .stopped) && (c.priv ≠ 2 || granted s 1)

/-- A write of a debug register at STW offset `o`; none with an error response. A write while the registers are not
exposed has no effect (R668). -/
def stwDbgWrite (p o : Nat) (v : Word) (s : State) : Option State :=
  let c := coreOf s p
  if !dbgOpen s p then some s
  else if 0x40100 ≤ o ∧ o < 0x40160 then some (putCore p (gWrite ((o - 0x40100) / 4) v c) s)
  else if o = 0x40160 then some (putCore p { c with preds := BitVec.ofNat 4 (fld v 0 4) } s)
  else if o = 0x40164 ∧ v.toNat % 4 = 0 then some (putCore p { c with pc := v } s)
  else none

/-- STW_STATUS.RUN code. -/
def runCode (r : Run) : Nat :=
  match r with
  | .halted => 0
  | .executing => 1
  | .waiting => 2
  | .stopped => 3

/-- What a read of the window returns for registers that show the steward itself; `none` with an error response. -/
def stwView (s : State) (p o : Nat) : Option (Option Word) :=
  let c := coreOf s p
  if o = 4 then
    some (some (BitVec.ofNat 32 (runCode c.run + 4 * rdFld s (stwStatus p) 2 4 + 2 ^ 6 * c.priv + 2 ^ 8 * c.cause)))
  else if o = 8 then some (some (if c.run = .halted ∨ c.run = .stopped then c.pc else 0))
  else if 0x40100 ≤ o ∧ o < 0x40168 then
    if !dbgOpen s p then some none
    else if o = 0x40160 then some (some (c.preds.setWidth 32))
    else if o = 0x40164 then some (some c.pc)
    else some (some (gRead c ((o - 0x40100) / 4)))
  else none

end Sys2Proof.Machine
end

