-- ==== Sys2Proof/Machine/Noc.lean ====
section
/-! DEFINITION. The control network (chapter 13): nodes, routing banks and their check, the generation switch; the
phases of the shelf power domains (R542 to R544, R689 to R692). -/

namespace Sys2Proof.Machine

def nocStatus : Nat := nocA 0

/-! ### Nodes and routers (R525 to R528) -/

/-- Column and row of a shelf router (R526). -/
def meshX (s : Nat) : Nat := 2 * (s / 8) + s % 2
def meshY (s : Nat) : Nat := s % 8 / 2
def meshAt (x y : Nat) : Nat := 8 * (x / 2) + 2 * y + x % 2

/-- The shelf router that an edge router is attached to (R526). -/
def edgeShelf (e : Nat) : Nat := [2, 1, 13, 14, 5, 10, 3, 12].getD e 0

/-- The edge router of a shelf router, if any. -/
def shelfEdge (s : Nat) : Option Nat := (List.range 8).find? (fun e => edgeShelf e = s)

/-- Edge router and local port of an edge node (R525, R527). -/
def edgeNode (d : Nat) : Option (Nat × Nat) :=
  if 544 ≤ d ∧ d ≤ 547 then some (d - 544, 1)
  else match d with
    | 548 => some (4, 1)
    | 549 => some (5, 1)
    | 550 => some (5, 2)
    | 551 => some (6, 1)
    | 552 => some (7, 1)
    | 553 => some (6, 2)
    | 554 => some (6, 3)
    | 555 => some (6, 4)
    | _ => none

/-- Shelf router of a shelf node, and its port there; a logical node's port is its map (R527). -/
def shelfNode (d : Nat) : Option (Nat × Option Nat) :=
  if d < 256 then some (d / 16, none)
  else if d < 528 then some ((d - 256) / 17, some ((d - 256) % 17))
  else if d < 544 then some (d - 528, some 17)
  else none

/-- Router at which a node is attached: 0 to 15 shelf routers, 16 to 23 edge routers. -/
def homeRouter (d : Nat) : Nat :=
  match shelfNode d, edgeNode d with
  | some (s, _), _ => s
  | none, some (e, _) => 16 + e
  | none, none => 24

/-- The default table (R528); 31 for an unassigned node. -/
def defaultPort (r d : Nat) : Nat :=
  let home := homeRouter d
  if 24 ≤ home then 31
  else if 16 ≤ r then
    (match edgeNode d with
     | some (e, p) => if 16 + e = r then p else 0
     | none => 0)
  else
    let goal := if home < 16 then home else edgeShelf (home - 16)
    if meshX r < meshX goal then 21 else if meshX goal < meshX r then 20
    else if meshY r < meshY goal then 19 else if meshY goal < meshY r then 18
    else match shelfNode d with
      | some (_, some p) => p
      | some (_, none) => d % 16
      | none => 22

def bankKey (b r d : Nat) : Nat := (b * 24 + r) * 1024 + d

/-- A routing entry of a bank. -/
def routePort (s : State) (b r d : Nat) : Nat := mapGet (defaultPort r d) s.noc.banks (bankKey b r d)

/-- The router behind a port of a router, with the direction moved: 0 none, 1 west, 2 another. -/
def nextRouter (r port : Nat) : Option (Nat × Nat) :=
  if 16 ≤ r then (if port = 0 then some (edgeShelf (r - 16), 0) else none)
  else
    let x := meshX r
    let y := meshY r
    match port with
    | 18 => if 0 < y then some (meshAt x (y - 1), 2) else none
    | 19 => if y < 3 then some (meshAt x (y + 1), 2) else none
    | 20 => if 0 < x then some (meshAt (x - 1) y, 1) else none
    | 21 => if x < 3 then some (meshAt (x + 1) y, 2) else none
    | 22 => (shelfEdge r).map (fun e => (16 + e, 0))
    | _ => none

/-- The port delivers the node at its router. -/
def delivers (r d port : Nat) : Bool :=
  match shelfNode d, edgeNode d with
  | some (s, some p), _ => r = s && port = p
  | none, some (e, p) => r = 16 + e && port = p
  | _, _ => false

/-- A route of a bank from a router to a node is acceptable (R539): it arrives through at most 12 routers, meets none
twice, and never moves west after another direction. -/
def routeOk (s : State) (b d : Nat) : Nat → Nat → List Nat → Bool → Bool
  | 0, _, _, _ => false
  | fuel + 1, r, seen, turned =>
    if seen.contains r then false
    else if d < 256 && r = d / 16 then true
    else
      let port := routePort s b r d
      if delivers r d port then true
      else match nextRouter r port with
        | some (q, 1) => if turned then false else routeOk s b d fuel q (r :: seen) turned
        | some (q, 2) => routeOk s b d fuel q (r :: seen) true
        | some (q, _) => routeOk s b d fuel q (r :: seen) turned
        | none => false

/-- The inactive bank passes its check (R539). -/
def bankOk (s : State) (b : Nat) : Bool :=
  (List.range 556).all (fun d => (List.range 24).all (fun r => routeOk s b d 12 r [] false))

/-! ### Generation switch (R539 to R541) -/

def nocGen (s : State) : Nat := rdFld s nocStatus 0 1

/-- A write of NOC_RT_CTRL; refused while DRAINING (R541). A check under way goes on. -/
def switchWrite (v : Word) (s : State) : Option State :=
  if !bit v 0 then some s else if rdBit s nocStatus 1 then none else some (setBit s nocStatus 5)

/-- ROUTE_CHECK_DONE: the inactive bank is refused, or the switch begins. -/
def routeCheckDone (s : State) : State :=
  if !rdBit s nocStatus 5 then s
  else
    let s1 := clrBit s nocStatus 5
    if bankOk s1 (1 - nocGen s1) then setBit s1 nocStatus 1 else setBit s1 nocStatus 2

def execRouteCheckDone (s : State) : Out := .next (routeCheckDone s)

/-- GENERATION_DRAINED: no packet of the old generation remains. -/
def generationDrained (s : State) : State :=
  if rdBit s nocStatus 1 then incFld (wrFld (clrBit s nocStatus 1) nocStatus 0 1 (1 - nocGen s)) (nocA 0xC) 0 32 else s

def execGenerationDrained (s : State) : Out := .next (generationDrained s)

/-- Router and first destination of a word of a bank window. -/
def bankWord (o : Nat) : Nat × Nat := (o / 0x400, o % 0x400)

/-- A write of a word of the inactive bank; refused while DRAINING (R541, R550). -/
def bankWrite (o : Nat) (v : Word) (s : State) : Option State :=
  if rdBit s nocStatus 1 then none
  else
    let b := 1 - nocGen s
    let (r, d) := bankWord o
    some { s with noc := { s.noc with banks := (List.range 4).foldl (fun acc i =>
      mapSet (defaultPort r (d + i)) acc (bankKey b r (d + i)) (fld v (8 * i) 5)) s.noc.banks } }

/-- A word of a bank. -/
def bankRead (s : State) (b o : Nat) : Word :=
  let (r, d) := bankWord o
  BitVec.ofNat 32 ((List.range 4).foldl (fun acc i => acc + 2 ^ (8 * i) * routePort s b r (d + i)) 0)

/-- A packet that meets no route is discarded: the first one is captured (R528, R547). -/
def noRoute (src dst net router : Nat) (s : State) : State :=
  if rdBit s nocStatus 3 then s
  else wrReg (setBit s nocStatus 3) (nocA 8)
    (BitVec.ofNat 32 (src % 1024 + 2 ^ 10 * (dst % 1024) + 2 ^ 20 * net + 2 ^ 22 * router))

/-- The node of a requester (R525). -/
def nodeOf (s : State) (who : Requester) : Nat :=
  match who with
  | .host | .i2c | .jtag => 548
  | .steward p | .core p => (logOf s p).getD (256 + p)
  | .remote _ _ => 552
  | .attic => 553
  | .loader => 554
  | .mover => 555
  | .tim => 551
  | .dma _ => 549

/-- A steward's instruction and a DMA channel wait for their own answers, which their own commands take. -/
def waitsForIt (who : Requester) : Bool :=
  match who with
  | .core _ | .dma _ => true
  | _ => false

/-- RESPONSE_FLIT: a response of the network reaches the node `dst` (R531): the oldest answer for a requester of that
node is delivered. An unassigned node has no route. -/
def responseFlit (dst : Nat) (s : State) : State :=
  if 556 ≤ dst then noRoute 551 dst 1 22 s
  else match s.chip.resps.reverse.find? (fun r => nodeOf s r.who = dst && !waitsForIt r.who) with
    | none => s
    | some r =>
      { s with
        outbox := .response dst (statCode r.status) r.data :: s.outbox
        chip := { s.chip with resps := (s.chip.resps.reverse.erase r).reverse } }

def execResponseFlit (dst : Nat) (s : State) : Out := .next (responseFlit dst s)

/-! ### Shelf power (R542, R689 to R692) -/

def pwrCtrl (h : Nat) : Nat := shfA h 0x600
def pwrStat (h : Nat) : Nat := shfA h 0x604

/-- The stewards of active clusters of a shelf. -/
def shelfCores (s : State) (h : Nat) : List Nat := (List.range' (17 * h) 17).filter (fun p => roleOf s p = .active)

/-- A load or a reload of the shelf is in progress: kept by the loader in IMG_STATUS and SHF_BCTRL. -/
def shelfLoading (s : State) (h : Nat) : Bool := s.chip.devState = .loading || rdBit s (shfA h 0x500) 16

/-- A steward has been in low power for IDLE_US µs of TB0 without a break, and no line that it enables is latched. -/
def coreIdle (s : State) (h p : Nat) : Bool :=
  let c := coreOf s p
  c.gated && c.gatedAt + rdFld s (pwrCtrl h) 16 16 * 1000 * 65536 ≤ tb0Now s && irqPendOf s p &&& c.irqEn = 0

/-- A shelf domain is eligible for power-down (R689). -/
def shelfEligible (s : State) (h : Nat) : Bool :=
  !rdBit s (pwrStat h) 0 &&
    (match s.chip.devState with
     | .blank | .ready | .running | .held => true
     | _ => false) && !shelfLoading s h && (shelfCores s h).all (coreIdle s h) &&
    !(List.range' (17 * h) 17).any (fun p => mapGet false s.chip.bistOpen p)

/-- A shelf begins its power-down. -/
def shelfQuiesce (h : Nat) (trip : Bool) (s : State) : State :=
  let g := gateOf s h
  match g.phase with
  | .on => putGate h { g with phase := .quiesce, revert := false, trip := trip } s
  | _ => if trip then putGate h { g with trip := true, revert := false } s else s

/-- SHELF_ELIGIBLE: with AUTO = 1 an eligible shelf enters QUIESCE (R690). -/
def shelfAuto (h : Nat) (s : State) : State :=
  if h < 16 ∧ shelfOn s h ∧ shelfEligible s h then
    whenDo (rdBit s (pwrCtrl h) 0) (shelfQuiesce h false) (setBit s (pwrStat h) 1)
  else s

def execShelfEligible (h : Nat) (s : State) : Out := .next (shelfAuto h s)

/-- A write of SHF_PWR_CTRL: DOWN of a shelf that is not eligible is refused, UP is a wake condition and takes
precedence (R690, R692). -/
def pwrCtrlWrite (h : Nat) (v : Word) (s : State) : Option State :=
  let s1 := wrReg s (pwrCtrl h) (v &&& 0xFFFF0001)
  if bit v 2 then some (wakeShelf h 6 s1)
  else if bit v 1 then
    if shelfOn s h && shelfEligible s h then some (shelfQuiesce h false s1)
    else if shelfOn s h then none else some s1
  else some s1

/-- Clocks of a shelf's stewards stop at RETAIN and run again at ON (R654). -/
def shelfClocks (run : Bool) (h : Nat) (s : State) : State :=
  (List.range' (17 * h) 17).foldl (fun acc p =>
    if run then (if (coreOf acc p).run = .executing then startClock p acc else acc) else stopClock 2 p acc) s

/-- SHELF_PHASE_DONE: the next phase of a shelf domain, with the requests to deliver where it reaches ON, and those to
answer with an error where its power-up fails (R542, R544). -/
def shelfPhase (h : Nat) (ok : Bool) (s : State) : State × List GateReq × List GateReq :=
  let g := gateOf s h
  let on := fun (x : State) => clrBit (shelfClocks true h (putGate h { Gate.reset with trip := g.trip } x)) (pwrStat h) 1
  match g.phase with
  | .on => (s, [], [])
  | .quiesce =>
    if g.revert then (incFld (on s) (gateReg h) 16 8, g.held, [])
    else
      let x := flushShelf h s
      (shelfClocks false h (putGate h { gateOf x h with phase := .retain } x), [], [])
  | .retain =>
    if g.revert then (incFld (on s) (gateReg h) 16 8, g.held, []) else (putGate h { g with phase := .falling } s, [], [])
  | .falling =>
    let s1 := putGate h { g with phase := .off, trip := false } s
    if g.wake ≠ 0 ∧ thermHold s h = false then
      (incFld (wrFld (putGate h { g with phase := .waking, wake := 0 } s1) (pwrStat h) 3 3 g.wake) (gateReg h) 24 8, [], [])
    else (s1, [], [])
  | .off => (s, [], [])
  | .waking =>
    if !ok then (report 0x11 1 h 0 (setBit (putGate h { g with phase := .off, held := [] } s) nocStatus 4), [], g.held)
    else if g.trip then (putGate h { g with phase := .quiesce, held := [] } s, [], g.held)
    else (on s, g.held, [])

/-- A thermal trip takes every shelf domain down (R691). -/
def tripShelves (s : State) : State :=
  (List.range 16).foldl (fun acc h => shelfQuiesce h true (setBit acc (pwrStat h) 2)) s

/-- THERMHOLD clears: pending wakes act (R691, R692). -/
def clearThermHold (s : State) : State :=
  (List.range 16).foldl (fun acc h =>
    let x := clrBit acc (pwrStat h) 2
    let g := gateOf x h
    let x1 := putGate h { g with trip := false } x
    if g.wake ≠ 0 then wakeShelf h g.wake x1 else x1) s

/-- NOC_GATE_s as a read shows it (R549). -/
def gateView (s : State) (h : Nat) : Word :=
  let g := gateOf s h
  let code := match g.phase with
    | .on => 0
    | .quiesce => 1
    | .retain => 2
    | .falling => 3
    | .off => 4
    | .waking => 5
  setFld (setFld (rdReg s (gateReg h)) 0 3 code) 3 5 (min 31 g.held.length)

/-- Views of the NOC block. -/
def nocView (s : State) (o : Nat) : Option Word :=
  if 0x200 ≤ o ∧ o < 0x240 then some (gateView s ((o - 0x200) / 4))
  else if 0x1000 ≤ o ∧ o < 0x7000 then some (bankRead s (1 - nocGen s) (o - 0x1000))
  else if 0x8000 ≤ o ∧ o < 0xE000 then some (bankRead s (nocGen s) (o - 0x8000))
  else none

end Sys2Proof.Machine
end

