-- ==== Sys2Proof/Machine/Dma.lean ====
section
/-! DEFINITION. The DMA engine (R551 to R563): the channel registers, starting, aborting and ending a channel. -/

namespace Sys2Proof.Machine

def dmaReg (n o : Nat) : Nat := dmaA (0x100 + 0x40 * n + o)
def chanOf (s : State) (n : Nat) : DmaCh := mapGet DmaCh.reset s.noc.chans n
def putChan (n : Nat) (x : DmaCh) (s : State) : State :=
  { s with noc := { s.noc with chans := mapSet DmaCh.reset s.noc.chans n x } }

/-- STATE codes (R563). -/
def dmaCode (st : DmaSt) : Nat :=
  match st with
  | .idle => 0
  | .queued => 1
  | .active => 2
  | .done => 3
  | .aborted => 4
  | .err => 5
  | .retired => 6

def dmaBusy (s : State) (n : Nat) : Bool := (chanOf s n).st = .queued || (chanOf s n).st = .active

/-- Settings of a channel. -/
def dmaCtrl (s : State) (n : Nat) : Word := rdReg s (dmaReg n 0x18)
def dmaCount (s : State) (n : Nat) : Nat := (rdReg s (dmaReg n 0x10)).toNat
def dmaAddr (s : State) (n o : Nat) : Nat := (rdReg s (dmaReg n o)).toNat + 2 ^ 32 * (rdReg s (dmaReg n (o + 4))).toNat
def dmaLake (s : State) (n : Nat) : Nat := fld (dmaCtrl s n) 8 7

/-- A side's address lies in the cellar as the engine knows it (R551). -/
def inCellar (a : Nat) : Bool := 0x1000000000 ≤ a && a < 0x1100000000

/-- A side (host space, FIX, first address) that R552 accepts for a number of bytes. -/
def sideOk (host fix : Bool) (a count : Nat) : Bool :=
  a % 4 = 0 && (!fix || (!host && !inCellar a)) &&
    (host || (a + (if fix then 4 else count) ≤ 2 ^ 40 && (!inCellar a || a + count ≤ 0x1100000000)))

/-- The settings of a channel under a word of CTRL allow GO (R552). -/
def goAllowed (s : State) (n : Nat) (v : Word) : Bool :=
  let c := dmaCount s n
  c ≠ 0 && c % 4 = 0 && 1 ≤ fld v 8 7 && fld v 8 7 ≤ 64 && sideOk (bit v 2) (bit v 4) (dmaAddr s n 0) c &&
    sideOk (bit v 3) (bit v 5) (dmaAddr s n 8) c

/-- RESID (R557). -/
def setResid (n r : Nat) (s : State) : State := wrReg s (dmaReg n 0x14) (BitVec.ofNat 32 r)

/-- A channel ends (R557 to R559): its state and error code, DMA_IRQ, and the notifications. -/
def dmaEnd (n : Nat) (st : DmaSt) (err : Nat) (s : State) : State :=
  let s1 := putChan n { chanOf s n with st := st, lake := [], ending := none } s
  let s2 := { s1 with noc := { s1.noc with queue := s1.noc.queue.filter (fun q => q ≠ n) } }
  let s3 := wrFld s2 (dmaReg n 0x1C) 4 4 err
  let cfg := rdReg s3 (dmaReg n 0x20)
  let was := rdBit s3 (dmaA 4) n
  let s4 := setBit s3 (dmaA 4) n
  let s5 := whenDo (bit cfg 8) (raiseLine (physOf s4 (fld cfg 0 8)) 10) s4
  whenDo (bit cfg 9 && !was) (msix (32 + n)) s5

/-- GO (R552). -/
def dmaGo (n : Nat) (s : State) : State :=
  let s1 := setResid n (dmaCount s n) (wrReg s (dmaReg n 0x1C) 0)
  let s2 := putChan n { DmaCh.reset with st := .queued } s1
  { s2 with noc := { s2.noc with queue := s2.noc.queue ++ [n] } }

/-- The channel ends once every issued write is answered; at once where none is outstanding. -/
def dmaStop (n : Nat) (st : DmaSt) (err : Nat) (s : State) : State :=
  let x := chanOf s n
  if x.lake.isEmpty then dmaEnd n st err s
  else putChan n { x with ending := some (match x.ending with
    | some (.err, e) => (.err, e)
    | _ => (st, err)) } s

/-- ABORT (R558). -/
def dmaAbort (n : Nat) (s : State) : State :=
  match (chanOf s n).st with
  | .queued => dmaEnd n .aborted 0 s
  | .active => dmaStop n .aborted 0 s
  | .done => setBit s (dmaReg n 0x1C) 3
  | _ => s

/-- A write of DMA_CHn_CTRL (R552, R558, R561, R562); none with an error response. -/
def dmaCtrlWrite (n : Nat) (v : Word) (s : State) : Option State :=
  let keep := v &&& 0xFF7F7C
  if bit v 1 then
    let s1 := if dmaBusy s n then s else wrReg s (dmaReg n 0x18) keep
    some (dmaAbort n s1)
  else if dmaBusy s n then none
  else if bit v 0 then
    if (chanOf s n).st ≠ .retired && goAllowed s n v then some (dmaGo n (wrReg s (dmaReg n 0x18) keep)) else none
  else some (wrReg s (dmaReg n 0x18) keep)

/-- ACK (R563). -/
def dmaAck (n : Nat) (v : Word) (s : State) : State :=
  match bit v 8, (chanOf s n).st with
  | true, .done | true, .aborted | true, .err => putChan n DmaCh.reset s
  | _, _ => s

/-- A write of SRC, DST or COUNT (R561). -/
def dmaSideWrite (n o : Nat) (v : Word) (s : State) : Option State :=
  if dmaBusy s n then none else some (wrReg s (dmaReg n o) v)

/-- PERST_N ends the channels with a side in host space (R558, R688). No write to the host is issued any more. -/
def dmaPerst (s : State) : State :=
  (List.range 32).foldl (fun acc n =>
    if dmaBusy acc n && (bit (dmaCtrl acc n) 2 || bit (dmaCtrl acc n) 3) then
      (if (chanOf acc n).st = .queued || bit (dmaCtrl acc n) 3 then dmaEnd n .err 4 acc else dmaStop n .err 4 acc)
    else acc) s

/-- The attic retires a channel (R558). -/
def dmaRetire (n : Nat) (s : State) : State :=
  match (chanOf s n).st with
  | .active => dmaStop n .retired 5 s
  | _ => dmaEnd n .retired 5 s

/-- Free lake units. -/
def lakeFree (s : State) : Nat :=
  64 - (List.range 32).foldl (fun acc n => if (chanOf s n).st = .active then acc + dmaLake s n else acc) 0

/-- DMA_CHANNEL_ACTIVE: the channel whose GO is oldest gets its lake units (R553). -/
def dmaActive (n : Nat) (s : State) : State :=
  if s.noc.queue.head? = some n ∧ dmaLake s n ≤ lakeFree s then
    let s1 := putChan n { chanOf s n with st := .active } s
    { s1 with noc := { s1.noc with queue := s1.noc.queue.drop 1 } }
  else s

def execDmaChannelActive (n : Nat) (s : State) : Out := .next (dmaActive n s)

/-- Views of the block (R560, R563). -/
def dmaView (s : State) (o : Nat) : Option Word :=
  if o = 0 then
    let cnt := fun (st : DmaSt) => (List.range 32).countP (fun n => (chanOf s n).st = st)
    some (BitVec.ofNat 32 (lakeFree s + 2 ^ 8 * cnt .active + 2 ^ 16 * cnt .queued))
  else if 0x100 ≤ o ∧ o < 0x900 ∧ (o - 0x100) % 0x40 = 0x1C then
    let n := (o - 0x100) / 0x40
    some (setFld (rdReg s (dmaReg n 0x1C)) 0 3 (dmaCode (chanOf s n).st))
  else none

end Sys2Proof.Machine
end

