-- ==== Sys2Proof/Machine/Image.lean ====
section
/-! DEFINITION. Ungisum images (chapter 06): the header, the section table, and what the contents of each section
write (R239 to R242). -/

namespace Sys2Proof.Machine

/-- `n` bytes at an offset, as a little-endian number. -/
def leAt (l : List Byte) (off n : Nat) : Nat := leNat ((l.drop off).take n)

def allZero (l : List Byte) : Bool := l.all (fun b => b = 0#8)

/-- The header (R239). -/
structure ImgHdr where
  magicOk  : Bool
  kind     : Nat
  part     : Nat
  len      : Nat
  nsect    : Nat
  ndev     : Nat
  target   : Nat
  imageId  : List Byte
  baseId   : List Byte
  nonce    : List Byte
  slot     : Nat
  larder   : Nat
  reserved : Bool
  tag      : List Byte

def imgHdr (b : List Byte) : ImgHdr :=
  { magicOk := leAt b 0 8 = 0x314D555349474E55 && leAt b 8 2 = 0x100
    kind := leAt b 0xA 2, part := leAt b 0xC 4, len := leAt b 0x10 8, nsect := leAt b 0x18 4, ndev := leAt b 0x1C 2
    target := leAt b 0x1E 2, imageId := (b.drop 0x20).take 16, baseId := (b.drop 0x30).take 16
    nonce := (b.drop 0x40).take 8, slot := leAt b 0x48 1, larder := leAt b 0x50 8
    reserved := allZero ((b.drop 0x49).take 7) && allZero ((b.drop 0x60).take 144)
    tag := (b.drop 0xF0).take 16 }

/-- Entry `i` of the section table (R240). -/
def imgSect (b : List Byte) (i : Nat) : ImgSect :=
  let e := (b.drop (256 + 64 * i)).take 64
  { typ := leAt e 0 2, flags := leAt e 2 2, devLo := leAt e 4 2, devHi := leAt e 6 2, unit := leAt e 8 2,
    sub := leAt e 0xA 2, target := leAt e 0xC 4, off := leAt e 0x10 8, len := leAt e 0x18 8, index := leAt e 0x20 4,
    raw := e }

/-- Length of header and table. -/
def tableEnd (h : ImgHdr) : Nat := 256 + 64 * h.nsect

/-- Does a device keep a section (R253)? -/
def keeps (dev : Nat) (e : ImgSect) : Bool := e.flags % 2 = 1 || (e.devLo ≤ dev && dev ≤ e.devHi)

/-! ### What sections write (R241, R242) -/

/-- The loader writes a register: the bits the register stores. -/
def ldReg (a : Nat) (v : Nat) (s : State) : State :=
  match regRow a with
  | some r =>
    let s1 := wrReg s a (BitVec.ofNat 32 v &&& BitVec.ofNat 32 (r.rw ||| r.ro))
    { s1 with cl := { s1.cl with cfgBad := mapDel s1.cl.cfgBad a } }
  | none => s

/-- Consecutive words of a section to registers `stride` apart. -/
def ldWords (t : List Byte) (at0 n : Nat) (addr : Nat → Nat) (s : State) : State :=
  (List.range n).foldl (fun acc i => ldReg (addr i) (leAt t (at0 + 4 * i) 4) acc) s

/-- Write a BP instruction entry with its check bits. -/
def putBpEntry (k : Nat) (w : BitVec 72) (s : State) : State :=
  { s with cl := { s.cl with bpMem := mapSet 0#72 s.cl.bpMem k w, bpFlips := mapDel s.cl.bpFlips k } }

/-- Write a word-engine instruction entry with its check bits. -/
def putWeEntry (k : Nat) (w : BitVec 64) (s : State) : State :=
  { s with cl := { s.cl with weMem := mapSet 0#64 s.cl.weMem k w, weFlips := mapDel s.cl.weFlips k } }

/-- BPI: BP-major entries of 9 bytes. -/
def ldBpi (p : Nat) (e : ImgSect) (t : List Byte) (s : State) : State :=
  (List.range (128 * e.sub)).foldl (fun acc i =>
    putBpEntry (kEntry p (i / e.sub) (e.target + i % e.sub)) (BitVec.ofNat 72 (leAt t (9 * i) 9)) acc) s

/-- WEN: entries of 8 bytes of one engine. -/
def ldWen (p : Nat) (e : ImgSect) (t : List Byte) (s : State) : State :=
  (List.range (e.len / 8)).foldl (fun acc i =>
    putWeEntry (kWeEntry p e.sub (e.target + i)) (BitVec.ofNat 64 (leAt t (8 * i) 8)) acc) s

/-- BPC: BANK, CBASE01, CBASE23 of each BP. -/
def ldBpc (p : Nat) (t : List Byte) (s : State) : State :=
  (List.range 128).foldl (fun acc n =>
    ldWords t (12 * n) 3 (fun i => match i with
      | 0 => bpcA p n 0xC
      | 1 => bpcA p n 0x10
      | _ => bpcA p n 0x14) acc) s

/-- WENCFG: CTRL, CBASE01, CBASE23 and the 16 DPT entries of each engine. -/
def ldWenCfg (p : Nat) (t : List Byte) (s : State) : State :=
  (List.range 8).foldl (fun acc e =>
    ldWords t (76 * e) 19 (fun i => if i < 3 then wenA p e (0x2200 + 4 * i) else wenA p e (0x2400 + 4 * (i - 3))) acc) s

/-- FABTBL: FAB_XMAP, FAB_SIMP, FAB_WIN. -/
def ldFab (p : Nat) (t : List Byte) (s : State) : State :=
  ldWords t 0 640 (fun i => if i < 512 then fabA p (4 * i)
    else if i < 576 then fabA p (0x1000 + 4 * (i - 512)) else fabA p (0x1200 + 4 * (i - 576))) s

/-- FLOPRST: a reset value goes to both entries of its flop (R67). -/
def ldFlops (p : Nat) (t : List Byte) (s : State) : State :=
  (List.range 16384).foldl (fun acc i =>
    let v := t.getD i 0#8
    pondWrite p (i / 128) (256 + i % 128) v (pondWrite p (i / 128) (384 + i % 128) v acc)) s

/-- Bytes to the rows of a store room (R117). -/
def ldRows (p r ofs : Nat) (t : List Byte) (s : State) : State :=
  t.zipIdx.foldl (fun acc q =>
    let o := ofs + q.2
    rowWrite (kRow p r (o / 8)) (8 * (o % 8)) 8 (q.1.setWidth 64) acc) s

/-- The declaration of room `r` in a STRDECL section (R242): STR_CFG, NRES, and the list of 32 pages. -/
def declOf (t : List Byte) (r : Nat) : Word × Nat × List Nat :=
  let d := (t.drop (144 * r)).take 144
  (BitVec.ofNat 32 (leAt d 0 4), leAt d 4 4, (List.range 32).map (fun i => leAt d (8 + 4 * i) 4))

/-- Width, paging and backing array of a STR_CFG value. -/
def declWidth (v : Word) : Nat := fld v 0 7
def declShared (v : Word) : Bool := bit v 8
def declPaged (v : Word) : Bool := bit v 9
def declBytes (v : Word) : Nat := 2 ^ fld v 16 6

/-- STRDECL: STR_CFG of the four rooms (R124). -/
def ldDecl (p : Nat) (t : List Byte) (s : State) : State :=
  (List.range 4).foldl (fun acc r => ldReg (wenA p r 0x2800) (declOf t r).1.toNat acc) s

/-- SCRIPT: the loaded script has as many entries as the section. -/
def ldScript (t : List Byte) (s : State) : State :=
  let n := t.length / 8
  let s1 := ldWords t 0 (2 * n) (fun i => sprA (0x400 + 4 * i)) s
  { s1 with spr := { s1.spr with scriptLen := n } }

/-- LINKREC: per link its granted slots, its target latency and HSL_ETX. -/
def ldLinkRec (t : List Byte) (s : State) : State :=
  (List.range (t.length / 136)).foldl (fun acc i =>
    let l := leAt t (136 * i) 1
    let s1 := { acc with ldr := { acc.ldr with
      lkRec := mapSet none acc.ldr.lkRec l (some (leAt t (136 * i + 1) 1, leAt t (136 * i + 2) 2)) } }
    ldWords t (136 * i + 8) 32 (fun j => linkA l (0x800 + 4 * j)) s1) s

/-- One field entry of a STREAMMAP (R366). -/
def streamField (v : Nat) : StreamField :=
  { fbit := v % 2 ^ 14, dkind := v / 2 ^ 14 % 4, bcast := v.testBit 16, count := v / 2 ^ 17 % 2 ^ 12,
    dfirst := v / 2 ^ 32 % 2 ^ 11 }

/-- STREAMMAP of a stream port (R366). -/
def ldStreamMap (l : Nat) (t : List Byte) (s : State) : State :=
  let fl := leAt t 2 1
  let s1 := wrReg s (linkA l 0x100) (BitVec.ofNat 32 (leAt t 0 2 % 4096 + 4096 * (fl % 4)))
  putLink l (fun k => { k with fields := (List.range (leAt t 4 2)).map (fun i => streamField (leAt t (16 + 8 * i) 8)) }) s1

/-- CMPMAP (R319). -/
def ldCmpMap (t : List Byte) (s : State) : State :=
  let s1 := ldWords t 0 2048 (fun i => cmpA (0x2000 + 4 * i)) s
  let s2 := ldWords t 8192 1024 (fun i => cmpA (0x1000 + 4 * i)) s1
  let s3 := ldWords t 12288 4 (fun i => cmpA (0xE0 + 8 * i)) s2
  ldWords t 12304 2 (fun i => cmpA (4 * i)) s3

/-- BORDER: the cells, and how many (R279, R280). HELD starts at 0. -/
def ldBorder (h : Nat) (t : List Byte) (s : State) : State :=
  let n := t.length / 4
  let gone := { s with regs := s.regs.filter (fun q => q.1 < shfA h 0x10000 || shfA h 0x30000 ≤ q.1) }
  let s1 := ldWords t 0 n (fun i => shfA h (0x10000 + 4 * i)) gone
  wrFld s1 (shfA h 0x500) 0 15 n

/-- First page of the backing array of a room (R125, R135). -/
def pageBase (s : State) (p r : Nat) : Nat := (rdReg s (wenA p r 0x2804)).toNat

/-- PAGEINIT: bytes to the backing array, from a page of it. -/
def ldPages (p r page : Nat) (t : List Byte) (s : State) : State :=
  celPut .loader (1024 * (pageBase s p r + page)) t s

/-- What a kept section other than PAGEINIT writes. -/
def ldSection (q : Staged) (s : State) : State :=
  let e := q.sect
  let p := physOf s e.unit
  match e.typ with
  | 0x01 => ldReg (sprA 0x64) (leAt q.text 20 4)
      (ldWords q.text 0 5 (fun i => if i = 0 then sprA 8 else sprA (0xC + 4 * i)) s)
  | 0x02 => ldScript q.text s
  | 0x03 => ldLinkRec q.text s
  | 0x04 => ldStreamMap e.unit q.text s
  | 0x05 => ldCmpMap q.text s
  | 0x06 => ldWords q.text 0 (e.len / 4) (fun i => cmpA (0x8000 + 64 * e.target + 4 * i)) s
  | 0x10 => ldBpi p e q.text s
  | 0x11 => ldBpc p q.text s
  | 0x12 => ldFlops p q.text s
  | 0x13 => ldWen p e q.text s
  | 0x14 => ldWenCfg p q.text s
  | 0x15 => ldDecl p q.text s
  | 0x16 => ldRows p e.sub e.target q.text s
  | 0x18 => ldFab p q.text s
  | 0x20 => ldWords q.text 0 256 (fun i => shfA e.unit (4 * i)) s
  | 0x21 => ldBorder e.unit q.text s
  | _ => s

/-- The initial frames of a room, in declared order (R123); in private mode a page lies in the part of one context. -/
def initialFrames (v : Word) (n : Nat) (pages : List Nat) : List Frame :=
  let part := declBytes v / 8192
  (pages.take n).zipIdx.map (fun q =>
    { idx := if declShared v then q.2 else 4 * (q.1 / part) + (pages.take q.2).countP (fun x => x / part = q.1 / part)
      ctx := if declShared v then 0 else q.1 / part
      page := q.1, filling := false, dirty := false, wEpoch := none, pinFill := none, lru := 0 })

/-- Fill the rows of a frame from the backing array (R118, R120). -/
def loadFrame (p r : Nat) (f : Frame) (s : State) : State :=
  ldRows p r (1024 * f.idx) (celGet s (1024 * (pageBase s p r + f.page)) 1024) s

/-- Fill the initial resident frames that a STRDECL section declares (R123). -/
def fillInitial (q : Staged) (s : State) : State :=
  if q.sect.typ ≠ 0x15 then s else
  let p := physOf s q.sect.unit
  (List.range 4).foldl (fun acc r =>
    let (v, n, pages) := declOf q.text r
    if declPaged v then
      let fs := initialFrames v n pages
      fs.foldl (fun a f => loadFrame p r f a) (putFrames p r fs acc)
    else acc) s

end Sys2Proof.Machine
end

