-- ==== Sys2Proof/Machine/ImageChecks.lean ====
section
/-! DEFINITION. The refusals of the image loader (R243, R259, R260): the checks of the section table, and the checks of
the kept sections after the last byte. The latter look at a trial state, in which the kept sections stand as the commit
would write them. -/

namespace Sys2Proof.Machine

/-- A failed check: section (none: no section is named), code, location (R260, R273). -/
structure Finding where
  sect    : Option Nat
  code    : Nat
  cluster : Nat
  unit    : Nat
  entry   : Nat
  cls     : Nat

/-- The place of a finding in the order of R260: section, code, location by cluster, unit, entry, class. -/
def findKey (f : Finding) : List Nat := [f.sect.getD 0, f.code, f.cluster, f.unit, f.entry, f.cls]

/-- Lexicographic order of keys. -/
def keyLess (a b : List Nat) : Bool :=
  match a, b with
  | x :: xs, y :: ys => x < y || (x = y && keyLess xs ys)
  | _, _ => false

/-- The finding that R260 reports. -/
def firstFinding (l : List Finding) : Option Finding :=
  match l with
  | [] => none
  | f :: r => some (r.foldl (fun b x => if keyLess (findKey x) (findKey b) then x else b) f)

/-- A finding as the error registers carry it (R273). -/
def findErr (dev : Nat) (f : Finding) : LdErr :=
  { code := f.code, dev := dev
    sect := match f.sect with
      | some i => BitVec.ofNat 32 (i % 2 ^ 24 + 2 ^ 31)
      | none => 0
    loc := BitVec.ofNat 32 (f.cluster % 256 + 2 ^ 8 * (f.unit % 128) + 2 ^ 16 * (f.entry % 1024) + 2 ^ 26 * (f.cls % 4)) }

/-- A finding without a location, and one at a place. -/
def findAt (sect code : Nat) : Finding := { sect := some sect, code := code, cluster := 0, unit := 0, entry := 0, cls := 0 }
def findIn (sect code m u e k : Nat) : Finding :=
  { sect := some sect, code := code, cluster := m, unit := u, entry := e, cls := k }

/-- A list of findings where a condition holds. -/
def onlyIf (b : Bool) (f : Finding) : List Finding := if b then [f] else []

/-! ### The section table (R240, R241, R243) -/

/-- Is LENGTH, UNIT, SUB or TARGET outside the limits of the type (R241)? -/
def sectLenBad (e : ImgSect) : Bool :=
  let no3 := e.unit ≠ 0 || e.sub ≠ 0 || e.target ≠ 0
  let no2 := e.sub ≠ 0 || e.target ≠ 0
  2 ^ 32 < e.len ||
  match e.typ with
  | 0x01 => no3 || e.len ≠ 32
  | 0x02 => no3 || e.len % 8 ≠ 0 || e.len = 0 || 1024 < e.len
  | 0x03 => no2 || e.len ≠ 136 * e.unit
  | 0x04 => no2 || 64 ≤ e.unit || e.len < 16 || e.len % 8 ≠ 0
  | 0x05 => no3 || e.len ≠ 12320
  | 0x06 => e.unit ≠ 0 || e.sub ≠ 0 || e.len % 64 ≠ 0
  | 0x10 => 256 ≤ e.unit || e.sub = 0 || 1024 < e.target + e.sub || e.len ≠ 1152 * e.sub
  | 0x11 => 256 ≤ e.unit || no2 || e.len ≠ 1536
  | 0x12 => 256 ≤ e.unit || no2 || e.len ≠ 16384
  | 0x13 => 256 ≤ e.unit || 8 ≤ e.sub || e.len % 8 ≠ 0 || e.len = 0 || 1024 < e.target + e.len / 8
  | 0x14 => 256 ≤ e.unit || no2 || e.len ≠ 608
  | 0x15 => 256 ≤ e.unit || no2 || e.len ≠ 576
  | 0x16 => 256 ≤ e.unit || 4 ≤ e.sub || e.len = 0 || 32768 < e.target + e.len
  | 0x17 => 256 ≤ e.unit || 4 ≤ e.sub || e.len % 1024 ≠ 0
  | 0x18 => 256 ≤ e.unit || no2 || e.len ≠ 2560
  | 0x20 => 16 ≤ e.unit || no2 || e.len ≠ 1024
  | 0x21 => 16 ≤ e.unit || no2 || e.len % 4 ≠ 0 || 65536 < e.len
  | 0xFF => no3
  | _ => false

/-- A type of R241. -/
def sectKnown (t : Nat) : Bool := [1, 2, 3, 4, 5, 6, 0x10, 0x11, 0x12, 0x13, 0x14, 0x15, 0x16, 0x17, 0x18, 0x20, 0x21, 0xFF].contains t

/-- What a section writes within its type and unit: a first and a length in the type's own grain. -/
def sectSpan (e : ImgSect) : Nat × Nat :=
  match e.typ with
  | 0x06 => (e.target, e.len / 64)
  | 0x10 => (e.target, e.sub)
  | 0x13 => (e.target, e.len / 8)
  | 0x16 => (e.target, e.len)
  | 0x17 => (e.target, e.len / 1024)
  | _ => (0, 1)

/-- Do two sections write a common entry, register or byte (R243)? LINKREC names its links in its content. -/
def sectOverlap (a b : ImgSect) : Bool :=
  let bySub := a.typ = 0x13 || a.typ = 0x16 || a.typ = 0x17
  let (x, n) := sectSpan a
  let (y, m) := sectSpan b
  a.typ = b.typ && a.typ ≠ 0xFF && a.typ ≠ 3 && a.unit = b.unit && (!bySub || a.sub = b.sub) && x < y + m && y < x + n

/-- Is there a device that keeps both sections? -/
def keptTogether (a b : ImgSect) : Bool :=
  a.flags % 2 = 1 || b.flags % 2 = 1 || (a.devLo ≤ b.devHi && b.devLo ≤ a.devHi)

/-- Does entry `i` break R243 or R240, given the entries before it? -/
def orderBad (h : ImgHdr) (es : List ImgSect) (i : Nat) (e : ImgSect) : Bool :=
  let before := es.take i
  let start := match before.getLast? with
    | some p => p.off + p.len
    | none => tableEnd h
  let order := match before.getLast? with
    | some p => e.typ < p.typ
    | none => false
  let devs := if e.flags % 2 = 1 then e.devLo ≠ 0 || e.devHi ≠ 0 else e.devHi < e.devLo || h.ndev ≤ e.devHi
  let single := h.kind = 1 && (e.typ = 1 || e.typ = 2) && (e.flags % 2 = 0 || before.any (fun p => p.typ = e.typ))
  e.index ≠ i || order || e.off ≠ start || devs || single || 2 ≤ e.flags || !allZero ((e.raw.drop 0x24).take 12) ||
    (i + 1 = h.nsect && e.off + e.len ≠ h.len) || before.any (fun p => sectOverlap p e && keptTogether p e)

/-- The first failure of the table, in order of entry: E_ORDER, E_TYPE, E_SECTLEN (R260). -/
def tableFinding (h : ImgHdr) (es : List ImgSect) : Option Finding :=
  match es.zipIdx.findSome? (fun q =>
      if orderBad h es q.2 q.1 then some (findAt q.2 0x0A)
      else if !sectKnown q.1.typ then some (findAt q.2 0x09)
      else if sectLenBad q.1 then some (findAt q.2 0x0B)
      else none) with
  | some f => some f
  | none =>
    if h.kind = 1 && !(es.any (fun e => e.typ = 1) && es.any (fun e => e.typ = 2)) then
      some { sect := none, code := 0x0A, cluster := 0, unit := 0, entry := 0, cls := 0 }
    else none

/-! ### The trial state -/

/-- A device state whose model holds the given sections only. -/
def trialState (st : List Staged) (s : State) : State :=
  let clean := (resetDom .image { s with cl := Clusters.reset, spr := Spring.reset,
                                         ldr := { s.ldr with lkRec := [] } })
  st.foldl (fun acc q => ldSection q acc) clean

/-- Number of the lowest kept section that satisfies `p`; 0 if there is none. -/
def sectNo (st : List Staged) (p : ImgSect → Bool) : Nat :=
  ((st.find? (fun q => p q.sect)).map (fun q => q.sect.index)).getD 0

def cfgNo (st : List Staged) : Nat := sectNo st (fun e => e.typ = 1)

/-- The section of a type and cluster or shelf. -/
def unitNo (st : List Staged) (t u : Nat) : Nat := sectNo st (fun e => e.typ = t && e.unit = u)

/-- The BPI or WEN section that gives an instruction entry. -/
def bpiNo (st : List Staged) (m a : Nat) : Nat :=
  sectNo st (fun e => e.typ = 0x10 && e.unit = m && e.target ≤ a && a < e.target + e.sub)
def wenNo (st : List Staged) (m e a : Nat) : Nat :=
  sectNo st (fun x => x.typ = 0x13 && x.unit = m && x.sub = e && x.target ≤ a && a < x.target + x.len / 8)

/-- Units of the kept sections of a type. -/
def unitsOf (st : List Staged) (t : Nat) : List Nat := ((st.filter (fun q => q.sect.typ = t)).map (fun q => q.sect.unit)).dedup

/-- Defined classes, and the banks that a tick may run from. -/
def classesOf (t : State) : List Nat := List.range (rdFld t (sprA 8) 24 2 + 1)
def banksOf (t : State) : List Nat := if splitImage t then [0, 1] else [0]

/-- Entry of step `u` of class `k` in bank `b`, from the base registers (R68); none beyond the memory. -/
def schedEntry (t : State) (a01 a23 k b u : Nat) : Option Nat :=
  let a := (if splitImage t then 512 * b else 0) + classBase t a01 a23 k + u
  if a < 1024 then some a else none

/-- The schedule of a BP: step, entry, instruction, leaving out NOPs. -/
def bpSched (t : State) (m n k b : Nat) : List (Nat × Nat × BitVec 72) :=
  let p := physOf t m
  (List.range (classLen t k)).filterMap (fun u =>
    (schedEntry t (bpcA p n 0x10) (bpcA p n 0x14) k b u).bind (fun a =>
      let w := mapGet 0#72 t.cl.bpMem (kEntry p n a)
      if w = 0#72 then none else some (u, a, w)))

/-- The schedule of a word engine: step, entry, opcode, instruction, leaving out reserved opcodes. -/
def weSched (t : State) (m e k b : Nat) : List (Nat × Nat × WeOp × BitVec 64) :=
  let p := physOf t m
  (List.range (classLen t k)).filterMap (fun u =>
    (schedEntry t (wenA p e 0x2204) (wenA p e 0x2208) k b u).bind (fun a =>
      let w := mapGet 0#64 t.cl.weMem (kWeEntry p e a)
      (weOpOf (weCode w)).map (fun o => (u, a, o, w))))

/-- Every class and bank. -/
def runsOf (t : State) : List (Nat × Nat) := (classesOf t).flatMap (fun k => (banksOf t).map (fun b => (k, b)))

/-! ### Classes, script, space (R170, R177, R184, R68, R196) -/

def pMin (t : State) : Nat := (classesOf t).foldl (fun b k => min b (classPeriod t k)) 65535

def checkClasses (st : List Staged) (t : State) : List Finding :=
  let c := cfgNo st
  (classesOf t).flatMap (fun k =>
    let l := classLen t k
    onlyIf (l < 16 || 1024 < l || classPeriod t k < l + 12) (findIn c 0x10 0 0 0 k)) ++
  onlyIf (epochLen t < 16 || rdFld t (sprA 8) 16 8 < 2) (findAt c 0x10) ++
  onlyIf (128 < rdFld t (sprA 0x64) 0 8) (findAt c 0x16)

/-- Does a class's schedule pass the end of the memory or of a bank (R68, R89)? -/
def baseBad (t : State) (a01 a23 k : Nat) : Bool :=
  (if splitImage t then 512 else 1024) < classBase t a01 a23 k + classLen t k

/-- BASE_k + L_k of every configured BP and engine. -/
def checkBases (st : List Staged) (t : State) : List Finding :=
  (unitsOf st 0x11).flatMap (fun m => (List.range 128).flatMap (fun n => (classesOf t).flatMap (fun k =>
    let p := physOf t m
    onlyIf (baseBad t (bpcA p n 0x10) (bpcA p n 0x14) k) (findIn (unitNo st 0x11 m) 0x10 m n 0 k)))) ++
  (unitsOf st 0x14).flatMap (fun m => (List.range 8).flatMap (fun e => (classesOf t).flatMap (fun k =>
    let p := physOf t m
    onlyIf (baseBad t (wenA p e 0x2204) (wenA p e 0x2208) k) (findIn (unitNo st 0x14 m) 0x10 m e 0 k))))

/-- SPLIT of every BP and engine that the kept BPC and WENCFG sections configure. -/
def splits (st : List Staged) (t : State) : List Bool :=
  (unitsOf st 0x11).flatMap (fun m => (List.range 128).map (fun n => rdBit t (bpcA (physOf t m) n 0xC) 0)) ++
  (unitsOf st 0x14).flatMap (fun m => (List.range 8).map (fun e => rdBit t (wenA (physOf t m) e 0x2200) 0))

def checkSplit (st : List Staged) (t : State) : List Finding :=
  let l := splits st t
  onlyIf (l.contains true && l.contains false)
    (findAt (sectNo st (fun e => e.typ = 0x11 || e.typ = 0x14)) 0x10)

def checkScript (st : List Staged) (t : State) : List Finding :=
  (List.range t.spr.scriptLen).flatMap (fun i =>
    onlyIf (scriptBad t i) (findIn (sectNo st (fun e => e.typ = 2)) 0x11 0 0 i 0))

/-- Bytes of an inlet segment and of a snapshot slot (R193). -/
def inletBytes (t : State) : Nat := epochLen t * (64 + 64 * rdFld t (sprA 0x64) 8 6)
def snapBytes (t : State) : Nat := 32768 * rdFld t (sprA 0x64) 0 8 + 4096

def checkDrain (st : List Staged) (t : State) : List Finding :=
  onlyIf (512 * (epochLen t * pMin t + 136) < inletBytes t + snapBytes t) (findAt (cfgNo st) 0x0F)

/-! ### Boolean processors (R50, R53, R57 to R61, R87, R155) -/

/-- Entries that BPI sections give: cluster, BP, entry, instruction. -/
def bpEntries (st : List Staged) (t : State) : List (Nat × Nat × Nat × BitVec 72) :=
  (st.filter (fun q => q.sect.typ = 0x10)).flatMap (fun q => (List.range 128).flatMap (fun n =>
    (List.range q.sect.sub).map (fun j =>
      let m := q.sect.unit
      let a := q.sect.target + j
      (m, n, a, mapGet 0#72 t.cl.bpMem (kEntry (physOf t m) n a)))))

/-- Flops that an instruction uses (R87). -/
def flopsUsed (w : BitVec 72) : List Nat :=
  if w = 0#72 then [] else
  ((bpReads w).filter (fun c => 256 ≤ c && c < 512)).map (fun c => (c - 256) % 128) ++
    (match bpDest w with
     | .flop f => [f]
     | _ => [])

/-- The export slot that an instruction drives (R142). -/
def exportSlot (t : State) (m n : Nat) (w : BitVec 72) : Option Nat :=
  if bpExp w = 0 ∨ w = 0#72 then none
  else some (rdFld t (fabA (physOf t m) (n * 16 + 4 * (bpExp w / 4))) (8 * (bpExp w % 4)) 7)

def checkEntries (st : List Staged) (t : State) : List Finding :=
  (bpEntries st t).flatMap (fun (m, n, a, w) =>
    let x := bpiNo st m a
    onlyIf ([bpA w, bpB w, bpC w, bpD w].any codeReserved) (findIn x 0x12 m n a 0) ++
    onlyIf (bpIllegal w) (findIn x 0x13 m n a 0) ++
    onlyIf ((flopsUsed w).any (fun f => rdFld t (sprA 0x64) 0 8 ≤ f)) (findIn x 0x16 m n a 0) ++
    onlyIf (match exportSlot t m n w with
      | some sl => 80 ≤ sl
      | none => false) (findIn (min x (unitNo st 0x18 m)) 0x1D m n a 0))

/-- Reset values of flops beyond FLOP_ROWS (R87). -/
def checkFlopRst (st : List Staged) (t : State) : List Finding :=
  (st.filter (fun q => q.sect.typ = 0x12)).flatMap (fun q => (List.range 128).flatMap (fun n =>
    let f := rdFld t (sprA 0x64) 0 8
    onlyIf (!allZero ((q.text.drop (128 * n + f)).take (128 - f))) (findIn q.sect.index 0x16 q.sect.unit n 0 0)))

/-- Steps at which a BP of a schedule writes working entry `a`. -/
def workWrites (l : List (Nat × Nat × BitVec 72)) (a : Nat) : List Nat :=
  (l.filter (fun q => bpDest q.2.2 = .working a)).map (fun q => q.1)

/-- R57: every read of a working entry comes after the first write. -/
def checkUndef (st : List Staged) (t : State) : List Finding :=
  (unitsOf st 0x10).flatMap (fun m => (List.range 128).flatMap (fun n => (runsOf t).flatMap (fun (k, b) =>
    let l := bpSched t m n k b
    l.flatMap (fun (u, a, w) =>
      onlyIf ((bpReads w).any (fun c => c < 256 && !(workWrites l c).any (fun v => v < u)))
        (findIn (bpiNo st m a) 0x14 m n a k)))))

/-- All instructions of a cluster in one class and bank: BP, step, entry, instruction. -/
def clusterSched (t : State) (m k b : Nat) : List (Nat × Nat × Nat × BitVec 72) :=
  (List.range 128).flatMap (fun n => (bpSched t m n k b).map (fun q => (n, q.1, q.2.1, q.2.2)))

/-- R61: two PROBE instructions of a cluster name one slot in a schedule. -/
def checkProbes (st : List Staged) (t : State) : List Finding :=
  (unitsOf st 0x10).flatMap (fun m => (runsOf t).flatMap (fun (k, b) =>
    let l := (clusterSched t m k b).filter (fun q => bpKind q.2.2.2 = .probe)
    l.flatMap (fun (n, u, a, w) =>
      onlyIf (l.any (fun x => (x.1 ≠ n || x.2.1 ≠ u) && bpPar x.2.2.2 % 64 = bpPar w % 64))
        (findIn (bpiNo st m a) 0x15 m n a k))))

/-- R155: two BPs of a cluster drive one slot at one step. The location names the slot and the step. -/
def checkConflicts (st : List Staged) (t : State) : List Finding :=
  (unitsOf st 0x10).flatMap (fun m => (runsOf t).flatMap (fun (k, b) =>
    let l := (clusterSched t m k b).filterMap (fun q => (exportSlot t m q.1 q.2.2.2).map (fun sl => (q.1, q.2.1, q.2.2.1, sl)))
    l.flatMap (fun (n, u, a, sl) =>
      onlyIf (l.any (fun x => x.1 ≠ n && x.2.1 = u && x.2.2.2 = sl))
        (findIn (min (bpiNo st m a) (unitNo st 0x18 m)) 0x1C m sl u k))))

/-- FAB_WIN entries of a reserved KIND or an INDEX out of range (R155). -/
def checkWindows (st : List Staged) (t : State) : List Finding :=
  (unitsOf st 0x18).flatMap (fun m => (List.range 64).flatMap (fun e =>
    onlyIf (winIllegal (rdReg t (fabA (physOf t m) (0x1200 + 4 * e)))) (findIn (unitNo st 0x18 m) 0x1D m e 0 0)))

/-! ### Word engines (R97, R99, R100, R105, R106, R108, R110, R111) -/

/-- Entries that WEN sections give: cluster, engine, entry, instruction. -/
def weEntries (st : List Staged) (t : State) : List (Nat × Nat × Nat × BitVec 64) :=
  (st.filter (fun q => q.sect.typ = 0x13)).flatMap (fun q => (List.range (q.sect.len / 8)).map (fun j =>
    let a := q.sect.target + j
    (q.sect.unit, q.sect.sub, a, mapGet 0#64 t.cl.weMem (kWeEntry (physOf t q.sect.unit) q.sect.sub a))))

/-- R99. -/
def weEntryBad (t : State) (m : Nat) (w : BitVec 64) : Bool :=
  match weOpOf (weCode w) with
  | none => true
  | some o => weRefused o w (roomWidth t (physOf t m) ((weImm w).toNat % 4)) ||
      ((weUses o).1 && srcReserved (weSa w)) || ((weUses o).2 && srcReserved (weSb w))

def checkWen (st : List Staged) (t : State) : List Finding :=
  (weEntries st t).flatMap (fun (m, e, a, w) => onlyIf (weEntryBad t m w) (findIn (wenNo st m e a) 0x17 m e a 0))

/-- All instructions of a cluster's engines in one class and bank: engine, step, entry, opcode, instruction. -/
def enginesSched (t : State) (m k b : Nat) : List (Nat × Nat × Nat × WeOp × BitVec 64) :=
  (List.range 8).flatMap (fun e => (weSched t m e k b).map (fun q => (e, q.1, q.2.1, q.2.2.1, q.2.2.2)))

/-- Registers that an instruction reads (R93, R110). -/
def weRegReads (t : State) (m : Nat) (o : WeOp) (w : BitVec 64) : List Nat :=
  (if (weUses o).1 && weSa w < 16 then [weSa w] else []) ++ (if (weUses o).2 && weSb w < 16 then [weSb w] else []) ++
  (if o = .oSwr then
    weRd w :: (if 32 < roomWidth t (physOf t m) ((weImm w).toNat % 4) then [fld (weImm w) 4 4] else [])
   else [])

/-- Room ports that an instruction reads: room × 2 + port. -/
def wePortReads (o : WeOp) (w : BitVec 64) : List Nat :=
  ((if (weUses o).1 then [weSa w] else []) ++ (if (weUses o).2 then [weSb w] else [])).filterMap (fun c =>
    if 0x28 ≤ c ∧ c < 0x38 then some ((c - 0x28) / 2) else none)

/-- Room ports that a BP instruction reads through datapath ports of KIND 3 (R107). -/
def bpPortReads (t : State) (m : Nat) (w : BitVec 72) : List Nat :=
  ((bpReads w).filter (fun c => 896 ≤ c)).filterMap (fun c =>
    let v := rdReg t (wenA (physOf t m) ((c - 896) / 16) (0x2400 + 4 * ((c - 896) % 16)))
    if fld v 0 3 = 3 then some (2 * fld v 4 3 + fld v 7 1) else none)

/-- Is there an SRD on room port `rp` at least two steps before step `u` (R110)? -/
def srdBefore (l : List (Nat × Nat × Nat × WeOp × BitVec 64)) (rp u : Nat) : Bool :=
  l.any (fun x => x.2.2.2.1 = .oSrd && (weImm x.2.2.2.2).toNat % 8 = rp / 2 + 4 * (rp % 2) && x.2.1 + 2 ≤ u)

/-- R97 and R110 for the instruction of engine `e` at step `u`. -/
def weUndef (t : State) (m : Nat) (l : List (Nat × Nat × Nat × WeOp × BitVec 64)) (e u : Nat) (o : WeOp) (w : BitVec 64) : Bool :=
  let mine := fun (p : WeOp → BitVec 64 → Bool) => l.any (fun x => x.1 = e && x.2.1 < u && p x.2.2.2.1 x.2.2.2.2)
  (weRegReads t m o w).any (fun r => !mine (fun _ v => weWr v && weRd v = r)) ||
  (o = .oSel && !mine (fun p _ => isCompare p)) ||
  (weCin w = 3 && !mine (fun p _ => p = .oAdd || p = .oSub || isCompare p)) ||
  (o = .oMac && !l.any (fun x => x.2.1 < u && (x.2.2.2.1 = .oMul || x.2.2.2.1 = .oMacc) &&
    (weImm x.2.2.2.2).toNat % 2 = (weImm w).toNat % 2)) ||
  (wePortReads o w).any (fun rp => !srdBefore l rp u)

/-- Predecessor of an engine at a step (R100, R101): engine and step, with its cluster. -/
def chainPrev (m e u : Nat) : Option (Nat × Nat × Nat) :=
  if e = 0 then (if m % 16 = 0 ∨ u = 0 then none else some (m - 1, 7, u - 1)) else some (m, e - 1, u)

def weAt (t : State) (k b : Nat) (x : Nat × Nat × Nat) : Option (WeOp × BitVec 64) :=
  ((weSched t x.1 x.2.1 k b).find? (fun q => q.1 = x.2.2)).map (fun q => (q.2.2.1, q.2.2.2))

/-- Engines of the chain that ends at an engine, counted backward. -/
def chainLen (t : State) (k b fuel m e u : Nat) : Nat :=
  match fuel with
  | 0 => 0
  | n + 1 => match weAt t k b (m, e, u) with
    | none => 0
    | some (_, w) => if weCin w = 2 then (match chainPrev m e u with
        | some (m', e', u') => 1 + chainLen t k b n m' e' u'
        | none => 1) else 1

/-- R100 and R105 for one instruction. -/
def weChainBad (t : State) (k b m e u : Nat) (o : WeOp) (w : BitVec 64) : Bool :=
  (weCout w && e = 7 && m % 16 = 15) ||
  (weCin w = 2 && ((match (chainPrev m e u).bind (weAt t k b) with
    | some (o', w') => !weCout w' || chainKind o' ≠ chainKind o || !(o' = .oAdd || o' = .oSub || isCompare o')
    | none => true) || 8 < chainLen t k b 9 m e u)) ||
  (o = .oMacc && m % 16 ≠ 0 && !(enginesSched t (m - 1) k b).any (fun x => x.2.1 + 4 ≤ u &&
    (x.2.2.2.1 = .oMul || x.2.2.2.1 = .oMacc) && (weImm x.2.2.2.2).toNat % 2 = (weImm w).toNat % 2))

/-- The MAC slice or room port that an instruction issues to. -/
def weIssues (o : WeOp) (w : BitVec 64) : Option Nat :=
  let imm := (weImm w).toNat
  if isMac o then some (imm % 2) else if isRoomOp o then some (2 + imm % 8) else none

/-- R97, R100, R105, R106, R110 and R111 over the schedules of a cluster's engines. -/
def checkEngines (st : List Staged) (t : State) : List Finding :=
  (unitsOf st 0x13).flatMap (fun m => (runsOf t).flatMap (fun (k, b) =>
    let l := enginesSched t m k b
    l.flatMap (fun (e, u, a, o, w) =>
      let x := wenNo st m e a
      onlyIf (weUndef t m l e u o w) (findIn x 0x14 m e a k) ++
      onlyIf (weChainBad t k b m e u o w) (findIn x 0x18 m e a k) ++
      onlyIf ((weIssues o w).isSome && l.any (fun y => y.1 ≠ e && y.2.1 = u && weIssues y.2.2.2.1 y.2.2.2.2 = weIssues o w))
        (findIn x 0x19 m e a k))))

/-- R110 for BP instructions that read a room through a datapath port. -/
def checkBpPorts (st : List Staged) (t : State) : List Finding :=
  (unitsOf st 0x10).flatMap (fun m => (runsOf t).flatMap (fun (k, b) =>
    let l := enginesSched t m k b
    (clusterSched t m k b).flatMap (fun (n, u, a, w) =>
      onlyIf ((bpPortReads t m w).any (fun rp => !srdBefore l rp u)) (findIn (bpiNo st m a) 0x14 m n a k))))

/-- R108. -/
def checkDpt (st : List Staged) (t : State) : List Finding :=
  (unitsOf st 0x14).flatMap (fun m => (List.range 8).flatMap (fun e => (List.range 16).flatMap (fun i =>
    let v := rdReg t (wenA (physOf t m) e (0x2400 + 4 * i))
    onlyIf (dptIllegal v (roomWidth t (physOf t m) (fld v 4 3))) (findIn (unitNo st 0x14 m) 0x1A m e i 0))))

/-! ### Store rooms (R118, R123, R241, R242) -/

/-- A declaration that R118, R123, R242 or R259 refuses. -/
def declBad (d : List Byte) : Bool :=
  let (v, n, pages) := declOf d 0
  let b := declBytes v
  let part := b / 8192
  32 < n || (pages.drop n).any (fun x => x ≠ 0) || !allZero (d.drop 136) || 64 < declWidth v ||
  (!declPaged v && n ≠ 0) ||
  (declPaged v && (fld v 16 6 < 20 || 32 < fld v 16 6 ||
    2 ^ 32 < (if declShared v then 8 * b else b) / padWidth (declWidth v) ||
    (pages.take n).any (fun x => b / 1024 ≤ x) ||
    (!declShared v && (List.range 8).any (fun c => 4 < (pages.take n).countP (fun x => x / part = c)))))

def checkRooms (st : List Staged) (t : State) : List Finding :=
  (st.filter (fun q => q.sect.typ = 0x15)).flatMap (fun q => (List.range 4).flatMap (fun r =>
    onlyIf (declBad ((q.text.drop (144 * r)).take 144)) (findIn q.sect.index 0x1B q.sect.unit r 0 0))) ++
  (st.filter (fun q => q.sect.typ = 0x17)).flatMap (fun q =>
    let v := roomCfg t (physOf t q.sect.unit) q.sect.sub
    let n := q.sect.len / 1024
    let part := if declShared v then declBytes v / 1024 else declBytes v / 8192
    if !declPaged v then [findIn q.sect.index 0x1B q.sect.unit q.sect.sub 0 0]
    else onlyIf (part * (q.sect.target / part + 1) < q.sect.target + n || declBytes v / 1024 < q.sect.target + n)
      (findIn q.sect.index 0x0B q.sect.unit q.sect.sub 0 0))

/-! ### Edges (R150, R151, R415) -/

/-- Bound edge transmit slots: link, slot, shelf, wire. -/
def etxBound (t : State) : List (Nat × Nat × Nat × Nat) :=
  (List.range 64).flatMap (fun l => (List.range 32).filterMap (fun j =>
    let v := rdReg t (linkA l (0x800 + 4 * j))
    if bit v 15 then some (l, j, fld v 0 4, fld v 4 8) else none))

def lkSlots (t : State) (l : Nat) : Nat := ((mapGet none t.ldr.lkRec l).map (fun q => q.1)).getD 0

/-- Links whose receive latches an instruction reads through window entries. -/
def latchReads (t : State) (m : Nat) (w : BitVec 72) : List Nat :=
  ((bpReads w).filter (fun c => 704 ≤ c && c < 768)).filterMap (fun c =>
    let v := rdReg t (fabA (physOf t m) (0x1200 + 4 * (c - 704)))
    if fld v 0 3 = 2 then some (fld v 4 12 / 32) else none)

/-- R150 and R415 for instructions that drive bound global wires. -/
def checkDrivers (st : List Staged) (t : State) : List Finding :=
  let bound := etxBound t
  let lr := sectNo st (fun e => e.typ = 3)
  (unitsOf st 0x10).flatMap (fun m => (runsOf t).flatMap (fun (k, b) =>
    (clusterSched t m k b).flatMap (fun (n, u, a, w) =>
      match exportSlot t m n w with
      | none => []
      | some sl =>
        let links := (bound.filter (fun x => 64 ≤ sl && x.2.2.1 = m / 16 && x.2.2.2 = 16 * (m % 16) + (sl - 64))).map (fun x => x.1)
        onlyIf (links.any (fun l => classPeriod t k < u + rdFld t (linkA l 4) 0 16 + 4 ||
            ((latchReads t m w).any (fun r => rdFld t (linkA r 0xC) 0 4 ≠ 8 || rdFld t (linkA l 0xC) 0 4 ≠ 8))))
          (findIn (min lr (bpiNo st m a)) 0x1E m n a k))))

/-- R151: recorded latencies and slot counts. -/
def checkLinks (st : List Staged) (t : State) : List Finding :=
  let lr := sectNo st (fun e => e.typ = 3)
  (t.ldr.lkRec.filterMap (fun q => q.2.map (fun r => (q.1, r)))).flatMap (fun (l, g, tg) =>
    onlyIf (tg ≠ rdFld t (linkA l 4) 0 16 || (rdFld t (linkA l 0xC) 0 4 = 8 && g ≠ rdFld t (linkA l 8) 24 6))
      (findIn lr 0x1E 0 l 0 0)) ++
  (etxBound t).flatMap (fun (l, j, _, _) => onlyIf (lkSlots t l ≤ j) (findIn lr 0x1E 0 l j 0)) ++
  (unitsOf st 0x18).flatMap (fun m => (List.range 64).flatMap (fun e =>
    let v := rdReg t (fabA (physOf t m) (0x1200 + 4 * e))
    let i := fld v 4 12
    onlyIf (fld v 0 3 = 2 && lkSlots t (i / 32) ≤ i % 32) (findIn (min (if lr = 0 then unitNo st 0x18 m else lr) (unitNo st 0x18 m)) 0x1E m e 0 0)))

/-- Links that two LINKREC sections name (R243). -/
def checkLinkRecs (st : List Staged) : List Finding :=
  let recs := (st.filter (fun q => q.sect.typ = 3)).flatMap (fun q =>
    (List.range (q.text.length / 136)).map (fun i => (q.sect.index, leAt q.text (136 * i) 1)))
  recs.flatMap (fun q => onlyIf (recs.any (fun r => r.1 < q.1 && r.2 = q.2)) (findIn q.1 0x0A 0 q.2 0 0)) ++
  recs.flatMap (fun q => onlyIf (64 ≤ q.2) (findIn q.1 0x1E 0 q.2 0 0))

/-! ### Border tables (R270) -/

/-- Is a global wire of a shelf consumed outside it? -/
def wireUsed (t : State) (h wire : Nat) : Bool :=
  (List.range 16).any (fun g => g ≠ h && (List.range 256).any (fun i =>
    let v := rdReg t (shfA g (4 * i))
    bit v 15 && fld v 0 4 = h && fld v 4 8 = wire)) ||
  (etxBound t).any (fun x => x.2.2.1 = h && x.2.2.2 = wire) ||
  (List.range 2048).any (fun k =>
    let v := rdReg t (cmpA (0x2000 + 4 * k))
    bit v 15 && fld v 0 4 = h && fld v 4 8 = wire)

/-- Does a shelf's border table break R270? Location: shelf, then cell or wire, step, class. -/
def borderBad (t : State) (x h : Nat) : List Finding :=
  let cells := (List.range (rdFld t (shfA h 0x500) 0 15)).filterMap (fun j =>
    let v := rdReg t (shfA h (0x10000 + 4 * j))
    if bit v 31 then some (j, fld v 0 8, fld v 8 2, fld v 10 10) else none)
  cells.flatMap (fun (j, wire, k, u) =>
    onlyIf (rdFld t (sprA 8) 24 2 < k || classLen t k ≤ u || cells.any (fun y => y.1 < j && y.2 = (wire, k, u)))
      (findIn x 0x1F h 0 u k)) ++
  (List.range 16).flatMap (fun i => (runsOf t).flatMap (fun (k, b) =>
    (clusterSched t (16 * h + i) k b).flatMap (fun (n, u, _, w) =>
      match exportSlot t (16 * h + i) n w with
      | none => []
      | some sl =>
        let wire := 16 * i + (sl - 64)
        onlyIf (64 ≤ sl && sl < 80 && wireUsed t h wire && !cells.any (fun y => y.2 = (wire, k, u))) (findIn x 0x1F h 0 u k))))

def checkBorders (st : List Staged) (t : State) : List Finding :=
  (unitsOf st 0x21).flatMap (fun h => borderBad t (unitNo st 0x21 h) h)

/-! ### Compare, probe and stream maps (R310, R319, R320, R367) -/

/-- log2 of a width rounded up to a power of two. -/
def logUp (w : Nat) : Nat := Nat.clog 2 w

/-- Destination bits of the stream maps: kind and bit. -/
def streamDests (t : State) : List (Nat × Nat) :=
  (streamPorts t).flatMap (fun l => (linkOf t l).fields.flatMap (fun f => (List.range f.count).map (fun i => (f.dkind, f.dfirst + i))))

/-- Does active port `p` break R320? -/
def cmpPortBad (t : State) (p : Nat) : Bool :=
  let w0 := portW t p 0
  let w3 := portW t p 3
  let w := portWidth t p
  let b := fld w0 29 2
  let cfg := rdReg t (cmpA (0xE0 + 8 * b))
  2048 < fld w0 0 11 + w || 2048 < fld w0 16 11 + w || (bit w3 11 && 2048 < fld w3 0 11 + w) ||
  (bit w0 27 && !(streamDests t).any (fun q => q.1 = 2)) ||
  (bit w0 28 && (2048 < fld w3 12 11 + fld w3 23 5 + 1 || !bit cfg 8 || fld cfg 5 3 ≠ logUp w ||
    (activePorts t).any (fun q => q ≠ p && bit (portW t q 0) 28 && fld (portW t q 0) 29 2 = b)))

/-- Number of records per tick at most, S (R310). -/
def cmpS (t : State) : Nat :=
  let ports := activePorts t
  ports.length + ((List.range 512).countP (fun g => (List.range 16).any (fun i =>
    let v := rdReg t (cmpA (0x8000 + 64 * g + 4 * i))
    bit v 15 || bit v 31))) + ports.countP (fun p => bit (portW t p 0) 28) + 1

def kb (n : Nat) : Nat := ceilDiv n 1024 * 1024

/-- Bytes of the parts of the acquisition area, in order: stage, buffer, bitmaps 0 to 3 (R320). -/
def acqParts (st : List Staged) (t : State) : List Nat :=
  if !st.any (fun q => q.sect.typ = 5) then [] else
  [kb (3 * epochLen t * cmpS t * 64), kb (64 * (rdReg t (cmpA 4)).toNat)] ++
    (List.range 4).map (fun b =>
      let v := rdReg t (cmpA (0xE0 + 8 * b))
      if bit v 8 then kb (2 ^ (fld v 0 5 + fld v 5 3)) else 0)

/-- Regions of the acquisition area (R574). -/
def acqRegions (st : List Staged) (t : State) : Nat := ceilDiv (acqParts st t).sum (2 ^ 20)

def checkCompare (st : List Staged) (t : State) : List Finding :=
  let x := sectNo st (fun e => e.typ = 5)
  if !st.any (fun q => q.sect.typ = 5) then
    onlyIf (pMin t < 2 * cmpS t) (findAt (sectNo st (fun e => e.typ = 6)) 0x20)
  else
    (activePorts t).flatMap (fun p => onlyIf (cmpPortBad t p) (findIn x 0x20 0 (p % 128) p 0)) ++
    (List.range 4).flatMap (fun b =>
      let v := rdReg t (cmpA (0xE0 + 8 * b))
      onlyIf (bit v 8 && (fld v 0 5 = 0 || 30 < fld v 0 5 ||
        !(activePorts t).any (fun p => bit (portW t p 0) 28 && fld (portW t p 0) 29 2 = b))) (findIn x 0x20 0 b 0 0)) ++
    onlyIf (pMin t < 2 * cmpS t || (rdReg t (cmpA 4)).toNat < 1024 || 10269 < acqRegions st t) (findAt x 0x20)

def checkProbeMaps (st : List Staged) : List Finding :=
  (st.filter (fun q => q.sect.typ = 6)).flatMap (fun q =>
    onlyIf (512 < q.sect.target + q.sect.len / 64) (findAt q.sect.index 0x20))

def streamMapBad (t : State) (q : Staged) : Bool :=
  let l := q.sect.unit
  let fb := leAt q.text 0 2
  let nf := leAt q.text 4 2
  let fs := (List.range nf).map (fun i => leAt q.text (16 + 8 * i) 8)
  let one := fun (v : Nat) =>
    let f := streamField v
    8 * fb < f.fbit + (if f.bcast then f.count else 8 * f.count) || 2048 < f.dfirst + f.count || f.dkind = 3 ||
      f.count = 0 || 2048 < f.count || v / 2 ^ 29 % 8 ≠ 0 || v / 2 ^ 43 ≠ 0
  rdFld t (linkA l 0) 0 2 ≠ 2 || q.sect.len ≠ 16 + 8 * nf || 2048 < fb || 4 ≤ leAt q.text 2 1 ||
    !allZero ((q.text.drop 3).take 1) || !allZero ((q.text.drop 6).take 10) || fs.any one ||
    (rdFld t (linkA l 0) 13 4 + 1) * rateFlits (rdFld t (linkA l 0) 3 2) < 24 + 1 ||
    ((rdFld t (linkA l 0) 13 4 + 1) * rateFlits (rdFld t (linkA l 0) 3 2) - 24) * pMin t < (1 + frameFlits fb) * 7800

def checkStreams (st : List Staged) (t : State) : List Finding :=
  let maps := st.filter (fun q => q.sect.typ = 4)
  let d := streamDests t
  maps.flatMap (fun q => onlyIf (streamMapBad t q) (findIn q.sect.index 0x20 0 q.sect.unit 0 0)) ++
  (match maps with
   | [] => []
   | q :: _ =>
     onlyIf (!decide d.Nodup || 1 < (maps.countP (fun x => leAt x.text 2 1 % 2 = 1)) ||
       64 * rdFld t (sprA 0x64) 8 6 < (maps.map (fun x => leAt x.text 0 2)).sum) (findAt q.sect.index 0x20))

/-! ### All checks after the last byte (R255) -/

/-- Every refusal that the kept sections of a device meet. -/
def imageFindings (st : List Staged) (s : State) : List Finding :=
  let t := trialState st s
  checkClasses st t ++ checkBases st t ++ checkSplit st t ++ checkScript st t ++ checkDrain st t ++
  checkEntries st t ++ checkFlopRst st t ++ checkUndef st t ++ checkProbes st t ++ checkConflicts st t ++
  checkWindows st t ++ checkWen st t ++ checkEngines st t ++ checkBpPorts st t ++ checkDpt st t ++
  checkRooms st t ++ checkDrivers st t ++ checkLinks st t ++ checkLinkRecs st ++ checkBorders st t ++
  checkCompare st t ++ checkProbeMaps st ++ checkStreams st t

/-! ### Shelf reload (R126, R160, R264) -/

/-- Trial state of a reload: the model in force with the shelf's sections in place of the shelf's own. -/
def reloadTrial (st : List Staged) (s : State) : State := st.foldl (fun acc q => ldSection q acc) s

def reloadTypes : List Nat := [0x10, 0x11, 0x12, 0x13, 0x14, 0x15, 0x16, 0x17, 0x18, 0x20, 0x21]

/-- Is a type needed for each of the 16 clusters missing? -/
def reloadLacks (st : List Staged) (h : Nat) : Bool :=
  (List.range 16).any (fun i => [0x10, 0x11, 0x12, 0x14, 0x15, 0x18].any (fun ty =>
      !st.any (fun q => q.sect.typ = ty && q.sect.unit = 16 * h + i)) ||
    (List.range 8).any (fun e => !st.any (fun q => q.sect.typ = 0x13 && q.sect.unit = 16 * h + i && q.sect.sub = e))) ||
  !st.any (fun q => q.sect.typ = 0x20) || !st.any (fun q => q.sect.typ = 0x21)

/-- R264: findings of E_RELOAD; `hdr` is the header of the reload image. -/
def reloadFindings (hdr : ImgHdr) (st : List Staged) (s : State) : List Finding :=
  let h := hdr.target / 4096
  let t := reloadTrial st s
  let own := (List.range 4).flatMap (fun i => leBytes 4 (rdReg s (imgA (0x30 + 4 * i))).toNat)
  let split := splitImage s
  onlyIf (hdr.baseId ≠ own || reloadLacks st h) { sect := none, code := 0x21, cluster := h, unit := 0, entry := 0, cls := 0 } ++
  st.flatMap (fun q =>
    let e := q.sect
    onlyIf (!reloadTypes.contains e.typ || (if 0x20 ≤ e.typ then e.unit ≠ h else e.unit / 16 ≠ h)) (findAt e.index 0x21)) ++
  onlyIf ((splits st t).any (fun b => b ≠ split)) (findAt (sectNo st (fun e => e.typ = 0x11 || e.typ = 0x14)) 0x21) ++
  (st.filter (fun q => q.sect.typ = 0x15)).flatMap (fun q => (List.range 4).flatMap (fun r =>
    let old := roomCfg s (physOf s q.sect.unit) r
    let new := (declOf q.text r).1
    onlyIf (declPaged old ≠ declPaged new || (declPaged new && fld old 16 6 ≠ fld new 16 6))
      (findIn q.sect.index 0x21 q.sect.unit r 0 0)))

/-- Every refusal of a reload image at its target: R264 and the checks of R259 on its sections. -/
def reloadAll (hdr : ImgHdr) (st : List Staged) (s : State) : List Finding :=
  let t := reloadTrial st s
  reloadFindings hdr st s ++ checkBases st t ++ checkSplit st t ++ checkEntries st t ++ checkFlopRst st t ++
  checkUndef st t ++ checkProbes st t ++ checkConflicts st t ++ checkWindows st t ++ checkWen st t ++
  checkEngines st t ++ checkBpPorts st t ++ checkDpt st t ++ checkRooms st t ++ checkDrivers st t ++
  checkBorders st t

end Sys2Proof.Machine
end

