-- ==== Sys2Proof/Machine/Loader.lean ====
section
/-! DEFINITION. The image loader (chapter 06): loading a tick domain, the feed, votes, commit, and shelf reload. -/

namespace Sys2Proof.Machine

/-! ### Registers and small operations -/

def imgStat : Nat := imgA 4
def imgState (s : State) : Nat := rdFld s imgStat 0 5
def setImg (n : Nat) (s : State) : State := wrFld s imgStat 0 5 n
def feedIsOpen (s : State) : Bool := rdBit s imgStat 5

/-- Replace the loader's state. -/
def onLdr (f : Loader → Loader) (s : State) : State := { s with ldr := f s.ldr }

/-- The feed window opens: FEED_OPEN, and IMG_FEED_POS is set to 0 (R274). -/
def openFeed (s : State) : State := setBit (wr48 (imgA 0x18) (imgA 0x1C) 0 s) imgStat 5
def closeFeed (s : State) : State := clrBit s imgStat 5

def feedPos (s : State) : Nat := (rdReg s (imgA 0x18)).toNat + 2 ^ 32 * rdFld s (imgA 0x1C) 0 16

/-- Devices of the tick domain (R403, R421). -/
def domainSize (s : State) : Nat := rdFld s crtDomain 0 13

/-- The load's error registers (R257, R273). -/
def captureErr (e : LdErr) (s : State) : State :=
  wrReg (wrReg (wrReg s (imgA 8) (BitVec.ofNat 32 (e.code % 256 + 256 * (e.dev % 4096)))) (imgA 0xC) e.sect)
    (imgA 0x10) e.loc

def clearErr (s : State) : State := wrReg (wrReg (wrReg s (imgA 8) 0) (imgA 0xC) 0) (imgA 0x10) 0

/-- The body of LD_VOTE and LD_ABORT (R362). -/
def errBody (e : Option LdErr) (withDev : Bool) : List Byte :=
  match e with
  | none => leBytes 12 0
  | some x => leBytes 1 1 ++ leBytes 1 x.code ++ leBytes 2 0 ++ leBytes 4 x.sect.toNat ++ leBytes 4 x.loc.toNat ++
      (if withDev then leBytes 2 x.dev else [])

/-- An error without a section, found by this device. -/
def plainErr (s : State) (code : Nat) : LdErr := { code := code, dev := devAddr s, sect := 0, loc := 0 }

/-! ### Entry to Loading (R9, R67, R152, R249) -/

/-- The IMAGE reset domain and the model state return to their reset values. The sequence numbers of the tree links
are not registers of the domain and go on. -/
def imageReset (s : State) : State :=
  let s1 := resetDom .image s
  { s1 with
    cl := Clusters.reset
    spr := { Spring.reset with txSeq := s.spr.txSeq, rxSeq := s.spr.rxSeq }
    cmp := Compare.reset
    lnk := s1.lnk.map (fun q => (q.1, { q.2 with held := [], part := none, fields := [], damaged := [] })) }

/-- The loader forgets the load in progress; the shells it serves stay. -/
def ldrFresh (l : Loader) : Loader := { Loader.reset with boot := l.boot, rx := l.rx, checking := l.checking, serve := l.serve }

/-- Stream ports leave UP for electrical idle (R352). -/
def idlePorts (s : State) : State := (streamPorts s).foldl (fun acc l => setLinkState l 0 (leaveUp l acc)) s

/-- LD_BEGIN of a load at a device (R249). -/
def enterLoading (s : State) : State :=
  let s1 := wakeAll 5 (imageReset (idlePorts s))
  let s2 := { s1 with chip := { s1.chip with devState := .loading }, ldr := { ldrFresh s1.ldr with kind := 1, domain := s1.ldr.domain } }
  setImg 4 (resealStart (freeModelWindow s2))

def mayLoad (s : State) : Bool := s.chip.devState = .blank || s.chip.devState = .ready || s.chip.devState = .held

/-! ### Failure (R257) -/

/-- A load ends as failed at this device. -/
def ldAbort (e : LdErr) (s : State) : State :=
  if s.ldr.kind ≠ 1 then s else
  let s1 := hostEvent 1 (captureErr e (setImg 11 (onLdr ldrFresh (closeFeed s))))
  let s2 := setBit { s1 with chip := { s1.chip with loadErr := true } } imgStat 8
  if s.chip.devState = .loading then
    let s3 := idlePorts s2
    { s3 with chip := { s3.chip with devState := .blank } }
  else s2

/-- A reload ends as refused or aborted at this device (R264): nothing else changes. -/
def rlAbort (e : LdErr) (s : State) : State :=
  hostEvent 1 (captureErr e (setBit (setImg 11 (onLdr (fun l =>
    { ldrFresh l with resident := l.resident, lkRec := l.lkRec }) (closeFeed s))) imgStat 9))

/-- The root ends the operation of the domain with an error and sends LD_ABORT (R257, R264). -/
def rootAbort (e : LdErr) (s : State) : State :=
  if s.ldr.domain = 1 then ldAbort e (sendServiceDown 0x16 0xFFF (errBody (some e) true) s)
  else if s.ldr.domain = 2 then
    let s1 := match s.ldr.target.map (routeTo s) with
      | some (.link l) => sendService l 0x16 (s.ldr.target.getD 0) (errBody (some e) true) s
      | _ => s
    rlAbort e s1
  else s

/-- A device's vote goes to its head, or to the root over the head (R255). -/
def sendVote (v : Option LdErr) (s : State) : State :=
  sendServiceUp 0x13 0 (errBody v false) (onLdr (fun l => { l with voted := true }) s)

/-- This device finds an error (R257): the root aborts, another device sends FAIL, once. -/
def ldFail (e : LdErr) (s : State) : State :=
  if s.ldr.kind = 0 ∨ s.ldr.mine.isSome then s else
  let s1 := onLdr (fun l => { l with mine := some (some e) }) s
  if s1.crt.isRoot then rootAbort e s1
  else if s1.ldr.kind = 2 then rlAbort e (sendVote (some e) s1)
  else sendVote (some e) s1

def ldFailCode (code : Nat) (s : State) : State := ldFail (plainErr s code) s

/-! ### The checks of header, table and sections (R245, R246, R253, R254, R260) -/

/-- Bytes of the larder that a device stages into (R253). -/
def stageArea (s : State) : Nat := rdFld s (imgA 0x24) 0 5 * 2 ^ 30 - (if s.crt.isRoot then 2 ^ 28 else 0)

/-- The image key of the header's slot, while the lifecycle permits its use (R606). -/
def imageKey (s : State) (slot : Nat) : Option (BitVec 256) :=
  if s.att.lifecycle = 3 then none else mapGet none s.att.imgKeys slot

/-- The first failure of the header (R259, R260). -/
def headerCode (h : ImgHdr) (s : State) : Option Nat :=
  if !h.magicOk then some 0x01
  else if h.part ≠ 0x7240 then some 0x02
  else if h.kind ≠ s.ldr.kind then some 0x03
  else if h.nsect = 0 ∨ 16777216 < h.nsect ∨ h.ndev = 0 ∨ 4096 < h.ndev ∨ h.len < tableEnd h ∨ h.reserved = false ∨
      (h.kind = 1 ∧ (h.target ≠ 0 ∨ allZero h.baseId = false)) then some 0x04
  else if (imageKey s h.slot).isNone then some 0x05
  else if h.ndev ≠ domainSize s then some 0x08
  else if stageArea s < h.larder then some 0x0C
  else none

/-- The IV of a section or of the manifest (R244, R245). -/
def imageIv (h : ImgHdr) (index : Nat) : Nat := leNat (h.nonce ++ leBytes 4 index)

/-- Does the manifest tag verify (R245)? -/
def manifestGood (h : ImgHdr) (b : List Byte) (s : State) : Bool :=
  match imageKey s h.slot with
  | some key => (Config.gcmOpen key (imageIv h 0xFFFFFFFF) (b.take 0xF0 ++ (b.drop 0x100).take (64 * h.nsect)) [] h.tag).isSome
  | none => false

/-- Plaintext of a section whose tag verifies (R244). -/
def sectText (h : ImgHdr) (e : ImgSect) (b : List Byte) (s : State) : Option (List Byte) :=
  (imageKey s h.slot).bind (fun key =>
    Config.gcmOpen key (imageIv h e.index) (e.raw.take 0x30) ((b.drop e.off).take e.len) ((e.raw.drop 0x30).take 16))

/-! ### Reservation of the model window (R125, R193, R254, R574) -/

def roundUpTo (a n : Nat) : Nat := ceilDiv a n * n

/-- The lowest address from `base` that is aligned to `size` and free of the blocks taken (R125). -/
def placeArray (taken : List (Nat × Nat)) (base size : Nat) : Nat :=
  let spots := (roundUpTo base size) :: taken.map (fun q => roundUpTo (q.1 + q.2) size)
  let free := spots.filter (fun a => base ≤ a && !taken.any (fun q => a < q.1 + q.2 && q.1 < a + size))
  free.foldl min (2 ^ 40)

/-- Declared backing arrays: size, logical cluster, room; in the order of allocation (R125). -/
def declaredArrays (st : List Staged) : List (Nat × Nat × Nat) :=
  let l := (st.filter (fun q => q.sect.typ = 0x15)).flatMap (fun q => (List.range 4).filterMap (fun r =>
    let v := (declOf q.text r).1
    if declPaged v then some (declBytes v, q.sect.unit, r) else none))
  l.mergeSort (fun a b => decide (b.1 < a.1) || (a.1 = b.1 && (decide (a.2.1 < b.2.1) || (a.2.1 = b.2.1 && decide (a.2.2 ≤ b.2.2)))))

/-- Place the arrays one after another above the acquisition area: address, size, cluster, room. -/
def placeArrays (base : Nat) (l : List (Nat × Nat × Nat)) : List (Nat × Nat × Nat × Nat) :=
  l.foldl (fun acc q => acc ++ [(placeArray (acc.map (fun x => (x.1, x.2.1))) base q.1, q.1, q.2.1, q.2.2)]) []

/-- The areas of the model window are placed: their regions assigned, and the registers that name where they begin. -/
def placeReserved (areas : List Area) (seg top : Nat) (parts : List Nat) (arrays : List (Nat × Nat × Nat × Nat)) (s : State) :
    State :=
  let s1 := { s with cel := { s.cel with areas := areas } }
  let s2 := assignRegions (fun r => (areaOf s1 r).isSome) 0 genBase
    { s1 with cmp := { s1.cmp with stageBase := 0, stageSeg := seg } }
  let page := fun (n : Nat) => BitVec.ofNat 32 ((parts.take n).sum / 1024)
  let s3 := if parts = [] then s2 else
    (List.range 4).foldl (fun acc b => wrReg acc (cmpA (0xE4 + 8 * b)) (page (2 + b))) (wrReg s2 (cmpA 8) (page 1))
  let s4 := arrays.foldl (fun acc q =>
    wrReg acc (wenA (physOf acc q.2.2.1) q.2.2.2 0x2804) (BitVec.ofNat 32 (q.1 / 1024))) s3
  onLdr (fun l => { l with reserved := true, arrays := arrays.map (fun q => (q.2.2.1, q.2.2.2, q.1 / 1024)) })
    (wrReg s4 (sprA 0x60) (BitVec.ofNat 32 (top * 1024)))

/-- Regions of the acquisition area, of the backing arrays where they are placed, and of the checkpoint area (R254). -/
def reserveParts (s : State) : Nat × List (Nat × Nat × Nat × Nat) × Nat :=
  let st := s.ldr.staged
  let t := trialState st s
  let acq := acqRegions st t
  (acq, placeArrays (acq * 2 ^ 20) (declaredArrays st), ceilDiv (3 * (8388608 + (snapBytes t + inletBytes t))) (2 ^ 20))

/-- The region above all that `reserveParts` places below the checkpoint area. -/
def reserveTop (acq : Nat) (arrays : List (Nat × Nat × Nat × Nat)) : Nat :=
  arrays.foldl (fun b q => max b (ceilDiv (q.1 + q.2.1) (2 ^ 20))) acq

/-- The code of a reservation that cannot be made, the first in the order of R254. -/
def reserveCode (s : State) : Option Nat :=
  let (acq, arrays, ckpt) := reserveParts s
  let top := reserveTop acq arrays
  let pages := (arrays.map (fun q => ceilDiv q.2.1 (2 ^ 20))).sum
  if 10269 < acq then some 0x20
  else if 6846 < pages || genBase < top then some 0x0D
  else if 17115 < ckpt || genBase < top + ckpt then some 0x0E
  else none

/-- The areas that the reservations take, each with its pool. -/
def reserveAreas (s : State) : List Area :=
  let (acq, arrays, ckpt) := reserveParts s
  (if acq = 0 then [] else [{ first := 0, count := acq, pool := 2 }]) ++
    arrays.map (fun q => { first := q.1 / 2 ^ 20, count := ceilDiv q.2.1 (2 ^ 20), pool := 3 }) ++
    [{ first := reserveTop acq arrays, count := ckpt, pool := 1 }]

/-- Every reservation is made. -/
def reservePlace (s : State) : State :=
  placeReserved (reserveAreas s) (epochLen (trialState s.ldr.staged s) * cmpS (trialState s.ldr.staged s) * 64)
    (reserveTop (reserveParts s).1 (reserveParts s).2.1) (acqParts s.ldr.staged (trialState s.ldr.staged s)) (reserveParts s).2.1 s

/-- The reservation step of a full load. -/
def reserveStep (s : State) : State :=
  match reserveCode s with
  | some code => ldFailCode code s
  | none => reservePlace s

/-! ### Progress of the stream (R246, R253, R254, R260) -/

/-- A section has ended: its tag, the staging area, and its plaintext where the device keeps it. In a full load
PAGEINIT goes straight to its backing array. -/
def sectionEnd (h : ImgHdr) (e : ImgSect) (s : State) : State :=
  let next := onLdr (fun l => { l with ended := l.ended + 1 })
  match sectText h e s.ldr.stream s with
  | none => ldFail (findErr (devAddr s) (findAt e.index 0x07)) s
  | some text =>
    if !keeps (devAddr s) e ∨ e.typ = 0xFF then next s
    else if s.ldr.kind = 1 ∧ e.typ = 0x17 then
      match s.ldr.arrays.find? (fun q => q.1 = e.unit ∧ q.2.1 = e.sub) with
      | some q => next (onLdr (fun l => { l with staged := l.staged ++ [{ sect := e, text := [] }] })
          (celPut .loader (1024 * (q.2.2 + e.target)) text s))
      | none => next (onLdr (fun l => { l with staged := l.staged ++ [{ sect := e, text := [] }] }) s)
    else if stageArea s < (s.ldr.staged.map (fun q => q.text.length)).sum + e.len then
      ldFail (findErr (devAddr s) (findAt e.index 0x0C)) s
    else next (onLdr (fun l => { l with staged := l.staged ++ [{ sect := e, text := text.take e.len }] }) s)

/-- One act of the loader on the stream it has received: header, table, reservation, or the end of a section. -/
def ldStep (s : State) : State :=
  let b := s.ldr.stream
  let h := imgHdr b
  if s.ldr.kind = 0 ∨ s.ldr.mine.isSome ∨ b.length < 256 then s
  else if s.ldr.hdrDone = false then
    match headerCode h s with
    | some c => ldFailCode c s
    | none => whenDo (decide (s.ldr.kind = 2)) (wakeShelf (h.target / 4096) 5)
        (onLdr (fun l => { l with hdrDone := true, shelf := h.target / 4096 }) s)
  else if s.ldr.tblDone = false then
    if b.length < tableEnd h then s
    else if manifestGood h b s = false then ldFailCode 0x06 s
    else match tableFinding h ((List.range h.nsect).map (imgSect b)) with
      | some f => ldFail (findErr (devAddr s) f) s
      | none => onLdr (fun l => { l with tblDone := true }) s
  else if s.ldr.ended < h.nsect then
    let e := imgSect b s.ldr.ended
    let begun := e.off < b.length || e.len = 0
    if s.ldr.kind = 1 ∧ s.ldr.reserved = false ∧ keeps (devAddr s) e ∧ 0x15 < e.typ ∧ e.typ ≠ 0xFF ∧ begun then reserveStep s
    else if e.off + e.len ≤ b.length then sectionEnd h e s
    else s
  else if s.ldr.kind = 1 ∧ s.ldr.reserved = false then reserveStep s
  else if imgState s = 5 ∨ imgState s = 4 then setImg 6 s
  else s

/-- Act as far as the stream allows. -/
def ldRun (s : State) : State :=
  (List.range (s.ldr.stream.length / 32 + 8)).foldl (fun acc _ => ldStep acc) s

/-- Bytes of the stream arrive at this device (R246). -/
def streamIn (bytes : List Byte) (s : State) : State :=
  let s1 := onLdr (fun l => { l with stream := l.stream ++ bytes }) s
  ldRun (whenDo (decide (imgState s1 = 4)) (setImg 5) s1)

/-! ### LD_BEGIN, LD_ACK, LD_DATA -/

/-- Pass a message of another device on, with its source and destination unchanged (R362, R410). -/
def relayService (l opc src dst : Nat) (body : List Byte) (s : State) : State :=
  sendServiceFrom src l opc dst body s

/-- Pass a message of a device below on toward the root. -/
def relayUp (opc src dst : Nat) (body : List Byte) (s : State) : State :=
  match s.crt.uplink with
  | some l => relayService l opc src dst body s
  | none => s

/-- The service message arrived on the upstream link of a device that is not the root. -/
def fromUp (s : State) (l : Nat) : Bool := s.crt.uplink = some l && serviceOpen s l
/-- The service message arrived on the link of a present child. -/
def fromDown (s : State) (l : Nat) : Bool := (presentLinks s).contains l && serviceOpen s l

/-- LD_BEGIN (R249, R263): of a load on every device, of a reload on its target. -/
def ldBegin (l kind target : Nat) (s : State) : State :=
  if !fromUp s l then s
  else if kind = 1 then
    let s1 := sendServiceDown 0x10 0xFFF (leBytes 4 1) s
    if mayLoad s1 then sendServiceUp 0x11 0 [] (enterLoading s1) else s1
  else if kind = 2 then
    match routeTo s target with
    | .link k => relayService k 0x10 0 target (leBytes 2 2 ++ leBytes 2 target) s
    | .self => if s.ldr.kind = 0 then
        setImg 12 (onLdr (fun x => { ldrFresh x with resident := x.resident, lkRec := x.lkRec, kind := 2 }) s) else s
    | .nowhere => s
  else s

def execLdBegin (l kind target : Nat) (s : State) : Out := .next (ldBegin l kind target s)

/-- LD_ACK (R249): heads pass it on; once every device has answered, the root opens the feed window. -/
def ldAck (l src : Nat) (s : State) : State :=
  if !fromDown s l then s
  else if !s.crt.isRoot then relayUp 0x11 src 0 [] s
  else if s.ldr.domain ≠ 1 ∨ s.ldr.acks.contains src then s
  else
    let s1 := onLdr (fun x => { x with acks := x.acks ++ [src] }) s
    if s1.ldr.acks.length = domainSize s1 then openFeed s1 else s1

def execLdAck (l src : Nat) (s : State) : Out := .next (ldAck l src s)

/-- LD_ACK_TIMEOUT (R249): a device has not answered within 10 ms of TB1. -/
def execLdAckTimeout (s : State) : Out :=
  .next (if s.crt.isRoot ∧ s.ldr.domain = 1 ∧ s.ldr.acks.length < domainSize s then rootAbort (plainErr s 0x26) s else s)

/-- LD_DATA from the head (R246, R252): passed on to every child in a load, to the target in a reload. -/
def ldData (l off dst : Nat) (bytes : List Byte) (s : State) : State :=
  let body := leBytes 6 off ++ bytes
  if !fromUp s l then s
  else if dst = 0xFFF then
    let s1 := sendServiceDown 0x12 0xFFF body s
    if s1.ldr.kind = 1 ∧ off = s1.ldr.stream.length ∧ s1.chip.devState = .loading then streamIn bytes s1 else s1
  else match routeTo s dst with
    | .link k => relayService k 0x12 0 dst body s
    | .self => if s.ldr.kind = 2 ∧ off = s.ldr.stream.length then streamIn bytes s else s
    | .nowhere => s

def execLdData (l off dst : Nat) (bytes : List Byte) (s : State) : Out := .next (ldData l off dst bytes s)

/-! ### Requests at the root (R249, R263, R404) -/

/-- Is the state of every device of the domain one that a load may begin in (R249)? The root sees the status word of
its subtree. -/
def domainLoadable (s : State) : Bool :=
  let w := subStatus s
  mayLoad s && (fld w 0 3 = 2 || fld w 0 3 = 4 || (fld w 0 3 = 6 && bit w 3))

/-- The root accepts or refuses LOAD. -/
def rootLoad (s : State) : Option State :=
  if s.crt.isRoot ∧ s.ldr.domain = 0 ∧ enumState s = 3 ∧ domainLoadable s then
    let s1 := sendServiceDown 0x10 0xFFF (leBytes 4 1) (onLdr (fun l => { l with domain := 1 }) s)
    let s2 := onLdr (fun l => { l with acks := [0] }) (enterLoading s1)
    some (whenDo (decide (domainSize s2 = 1)) openFeed s2)
  else none

/-- The root accepts or refuses RELOAD (R263): it opens the feed window. -/
def rootReload (s : State) : Option State :=
  if s.crt.isRoot ∧ s.ldr.domain = 0 ∧ enumState s = 3 then
    some (openFeed (onLdr (fun l => { ldrFresh l with resident := l.resident, lkRec := l.lkRec, domain := 2 }) s))
  else none

/-- ABORT at the root (R257, R269): after LD_COMMIT it comes too late. A reload is aborted by its target. -/
def rootAbortReq (abandon : State → State) (s : State) : State :=
  if s.ldr.domain = 1 then
    if s.ldr.sent then setBit s imgStat 7 else rootAbort (plainErr s 0x27) s
  else if s.ldr.domain = 2 then
    match s.ldr.target.map (routeTo s) with
    | some (.link l) => sendService l 0x16 (s.ldr.target.getD 0) (errBody (some (plainErr s 0x27)) true) s
    | some .self => abandon s
    | _ => rootAbort (plainErr s 0x27) s
  else s

/-! ### The feed (R250 to R252, R263) -/

/-- Stream bytes of LD_DATA flits of a link that are not acknowledged. -/
def svcUnacked (s : State) (l : Nat) : Nat :=
  let k := linkOf s l
  ((k.svcOut ++ k.svcWait).map (fun f =>
    if f.som then (if f.body.take 1 = [0x12#8] then f.body.length - 14 else 0) else f.body.length)).sum

/-- Bytes in the feed ring: those that some child link has not acknowledged (R252), and those that wait for the target
of a reload to be known. -/
def ringUsed (s : State) : Nat :=
  (presentLinks s).foldl (fun b l => max b (svcUnacked s l)) 0 + s.ldr.fed.length

/-- IMG_FEED_CREDIT (R251, R274). -/
def feedCredit (s : State) : Nat :=
  if feedIsOpen s ∧ s.ldr.domain ≠ 0 then 2 ^ 28 - min (2 ^ 28) (ringUsed s) else 0

/-- The root passes stream bytes on, and takes part in the operation itself where it is concerned. -/
def rootForward (off : Nat) (bytes : List Byte) (s : State) : State :=
  if s.ldr.domain = 1 then streamIn bytes (sendServiceDown 0x12 0xFFF (leBytes 6 off ++ bytes) s)
  else
    let fed := s.ldr.fed ++ bytes
    let send := fun (d : Nat) (o : Nat) (x : List Byte) (y : State) => match routeTo y d with
      | .link l => sendService l 0x12 d (leBytes 6 o ++ x) y
      | .self => streamIn x y
      | .nowhere => rootAbort (plainErr y 0x26) y
    match s.ldr.target with
    | some d => send d off bytes s
    | none =>
      if fed.length < 256 then onLdr (fun l => { l with fed := fed }) s
      else
        let d := (imgHdr fed).target % 4096
        let s1 := onLdr (fun l => { l with fed := [], target := some d }) s
        match routeTo s1 d with
        | .link l => send d 0 fed (sendService l 0x10 d (leBytes 2 2 ++ leBytes 2 d) s1)
        | .self => send d 0 fed (setImg 12 (onLdr (fun l => { l with kind := 2 }) s1))
        | .nowhere => rootAbort (plainErr s1 0x26) s1

/-- Length of the image whose header the root has seen. -/
def feedLimit (s : State) : Option Nat :=
  let b := if s.ldr.domain = 1 ∨ s.ldr.kind = 2 then s.ldr.stream else s.ldr.fed
  if 256 ≤ b.length then some (imgHdr b).len else none

/-- A write to the feed window; none is an error response. In Boot the bytes belong to a shell of the host. -/
def feedWrite (ofs : Nat) (bytes : List Byte) (s : State) : Option State :=
  let n := bytes.length
  let pos := feedPos s
  if !feedIsOpen s ∨ n % 4 ≠ 0 ∨ ofs % 4 ≠ 0 then none
  else if s.chip.devState = .boot then
    let r := mapGet ShellRx.reset s.ldr.rx 3
    some (onLdr (fun l => { l with rx := mapSet ShellRx.reset l.rx 3 { r with buf := r.buf ++ bytes } })
      (wr48 (imgA 0x18) (imgA 0x1C) (pos + n) s))
  else if feedCredit s < n ∨ (feedLimit s).any (fun len => decide (len < pos + n)) then some (rootAbort (plainErr s 0x22) s)
  else some (rootForward pos bytes (wr48 (imgA 0x18) (imgA 0x1C) (pos + n) s))

/-! ### Checks, votes and commit (R255, R256) -/

/-- The root sends LD_COMMIT and acts on it; `commit` is what a device does on LD_COMMIT. -/
def rootLdCommit (commit : State → State) (s : State) : State :=
  commit (sendServiceDown 0x14 0xFFF [] (closeFeed (onLdr (fun l => { l with sent := true }) s)))

/-- A device whose own checks and children's votes all pass sends PASS up; the root commits. -/
def voteIfDone (commit : State → State) (s : State) : State :=
  let all := (presentLinks s).all (fun l => s.ldr.votes.contains (l, none))
  if s.ldr.kind = 1 ∧ s.ldr.mine = some none ∧ all ∧ s.ldr.voted = false then
    if s.crt.isRoot then rootLdCommit commit (onLdr (fun l => { l with voted := true }) s)
    else sendVote none s
  else s

/-- A list of sections in force as the commit writes them (R256). -/
def writeSections (l : List Staged) (s : State) : State := l.foldl (fun acc q => ldSection q acc) s

/-- LD_COMMIT at a device (R256): model state and IMAGE registers from the staging area, initial frames, the resident
copy; the stream ports train. `bad` is a line of the staging area that fails its check. -/
def ldCommit (bad : Option Nat) (s : State) : State :=
  if s.ldr.kind ≠ 1 ∨ s.chip.devState ≠ .loading ∨ s.ldr.mine ≠ some none ∨ s.ldr.waiting = true then s
  else match bad with
    | some line =>
      let s1 := poisonLine line 1 s
      if s1.crt.isRoot then rootAbort (plainErr s1 0x28) s1 else sendVote (some (plainErr s1 0x28)) s1
    | none =>
      let st := s.ldr.staged
      let s1 := st.foldl (fun acc q => fillInitial q acc) (writeSections st s)
      let id := (imgHdr s.ldr.stream).imageId
      let s2 := (List.range 4).foldl (fun acc i => wrReg acc (imgA (0x30 + 4 * i)) (BitVec.ofNat 32 (leAt id (4 * i) 4))) s1
      let s3 := onLdr (fun l => { l with
        resident := st.filter (fun q => q.sect.typ ≠ 0x17), staged := [], stream := [], waiting := true }) s2
      (streamPorts s3).foldl (fun acc l => beginTraining l acc) (setImg 9 s3)

def ldCommitMsg (l : Nat) (bad : Option Nat) (s : State) : State :=
  if fromUp s l then ldCommit bad (sendServiceDown 0x14 0xFFF [] s)
  else if s.crt.isRoot ∧ s.ldr.sent then ldCommit bad s else s

def execLdCommit (l : Nat) (bad : Option Nat) (s : State) : Out := .next (ldCommitMsg l bad s)

/-- LOAD_CHECKS_DONE (R255). The root's own commit follows as LD_COMMIT on its link. -/
def loadChecksDone (s : State) : State :=
  if s.ldr.kind ≠ 1 ∨ imgState s ≠ 6 ∨ s.ldr.mine.isSome then s
  else match firstFinding (imageFindings s.ldr.staged s) with
    | some f => ldFail (findErr (devAddr s) f) s
    | none => voteIfDone id (setImg 7 (onLdr (fun l => { l with mine := some none }) s))

def execLoadChecksDone (s : State) : Out := .next (loadChecksDone s)

/-- LD_VOTE from a child (R255, R257). A reload's vote goes on to the root. -/
def ldVote (l src : Nat) (v : Option LdErr) (s : State) : State :=
  if !fromDown s l then s
  else if s.ldr.kind = 1 ∧ (s.ldr.waiting = false ∨ v.isSome) then
    match v with
    | some e => if s.crt.isRoot then rootAbort e s
        else if s.ldr.voted ∧ s.ldr.waiting = false then s else sendVote (some e) s
    | none => voteIfDone id (onLdr (fun x => { x with votes := (x.votes.filter (fun q => q.1 ≠ l)) ++ [(l, none)] }) s)
  else if !s.crt.isRoot then relayUp 0x13 src 0 (errBody v false) s
  else match v with
    | some e => if s.ldr.domain = 2 then rootAbort e s else s
    | none => s

def execLdVote (l src : Nat) (v : Option LdErr) (s : State) : Out := .next (ldVote l src v s)

/-- Every device of the domain is Ready: the root's load is DONE (R256). -/
def loadDone (s : State) : State :=
  hostEvent 1 (clrBit (clearErr (setImg 10 { s with
    chip := { s.chip with loadErr := false }
    ldr := { s.ldr with kind := 0, domain := 0, waiting := false, sent := false } })) imgStat 8)

/-- LD_READY has come from a device. -/
def noteReady (src : Nat) (s : State) : State :=
  let s1 := onLdr (fun x => { x with readys := if x.readys.contains src then x.readys else x.readys ++ [src] }) s
  if s1.ldr.readys.length = domainSize s1 then loadDone s1 else s1

/-- LD_READY (R256); of a reload, it ends the reload at the root. -/
def ldReady (l src : Nat) (s : State) : State :=
  if !fromDown s l then s
  else if !s.crt.isRoot then relayUp 0x15 src 0 [] s
  else if s.ldr.domain = 1 then noteReady src s
  else if s.ldr.domain = 2 ∧ s.ldr.target = some src then
    closeFeed (onLdr (fun x => { x with domain := 0, target := none }) s)
  else s

def execLdReady (l src : Nat) (s : State) : Out := .next (ldReady l src s)

/-- A link whose granted slots differ from its LINKREC record (R151). -/
def grantMismatch (s : State) : Option Nat :=
  (s.ldr.lkRec.filterMap (fun q => q.2.map (fun r => (q.1, r.1)))).findSome? (fun q =>
    if linkMode s q.1 = 1 ∧ linkState s q.1 = 8 ∧ rdFld s (linkA q.1 8) 24 6 ≠ q.2 then some q.1 else none)

/-- ENTER_READY (R226, R256): the commit writes are done and every link of the link map has trained. -/
def enterReady (s : State) : State :=
  if s.ldr.waiting = false ∨ s.chip.devState ≠ .loading then s
  else if (List.range 64).any (fun l => linkMode s l ≠ 0 && !linkReady s l) then s
  else match grantMismatch s with
    | some l => let e := { plainErr s 0x1E with loc := BitVec.ofNat 32 (256 * l) }
      if s.crt.isRoot then rootAbort e s else sendVote (some e) s
    | none =>
      let s1 := showPorts { s with chip := { s.chip with devState := .ready } }
      if s1.crt.isRoot then noteReady 0 s1
      else sendServiceUp 0x15 0 [] (loadDone s1)

def execEnterReady (s : State) : Out := .next (enterReady s)

/-- LOAD_STALL_TIMEOUT (R258). -/
def execLoadStallTimeout (s : State) : Out :=
  .next (if s.crt.isRoot ∧ s.ldr.domain ≠ 0 ∧ feedIsOpen s then rootAbort (plainErr s 0x23) s else s)

/-- LINK_WAIT_TIMEOUT (R258). -/
def execLinkWaitTimeout (s : State) : Out :=
  .next (if s.ldr.waiting ∧ s.chip.devState = .loading then
      (if s.crt.isRoot then rootAbort (plainErr s 0x25) s else sendVote (some (plainErr s 0x25)) s)
    else s)

/-- A tree link of the domain fails during the broadcast (R258). -/
def watchTree (before after : State) : State :=
  let tree := after.crt.uplink.toList ++ presentLinks after
  if after.ldr.kind = 1 ∧ after.ldr.waiting = false ∧
      tree.any (fun l => linkState before l = 8 && linkState after l ≠ 8) then
    ldFailCode 0x25 after
  else after

/-- PERST_N while the feed window is open at the root (R258). -/
def feedReset (s : State) : State :=
  whenDo (s.crt.isRoot && decide (s.ldr.domain ≠ 0) && feedIsOpen s) (rootAbort (plainErr s 0x24)) s

/-! ### Shelf reload (R263 to R269) -/

/-- Forget what a shelf's clusters hold that the image defines: instruction memories, configuration, tables, rooms
and flops (R267). The inject registers and BPC_STATUS stay (R79). -/
def clearShelf (h : Nat) (s : State) : State :=
  let ps := (List.range 16).map (fun i => physOf s (16 * h + i))
  let at' := fun (n k : Nat) => ps.contains (k / n)
  let cfg := fun (a : Nat) => physA 0 0 ≤ a && ps.contains ((a - physA 0 0) / 0x400000) &&
    (let o := (a - physA 0 0) % 0x400000
     (0x260000 ≤ o && o < 0x280000 && (o % 0x4000 < 0x220C || (0x2400 ≤ o % 0x4000 && o % 0x4000 < 0x2804))) ||
     (0x290000 ≤ o && o < 0x2A0000 && 0xC ≤ o % 0x200 && o % 0x200 < 0x18) ||
     (0x2A0000 ≤ o && o < 0x2A1400))
  { s with
    regs := s.regs.filter (fun q => !cfg q.1)
    cl := { s.cl with
      bpMem := mapKeep (fun k => !at' 131072 k) s.cl.bpMem, bpFlips := mapKeep (fun k => !at' 131072 k) s.cl.bpFlips
      pond := mapKeep (fun k => !at' 65536 k) s.cl.pond, fptr := mapKeep (fun k => !at' 16384 k) s.cl.fptr
      written := mapKeep (fun k => !at' 16384 k) s.cl.written
      weMem := mapKeep (fun k => !at' 8192 k) s.cl.weMem, weFlips := mapKeep (fun k => !at' 8192 k) s.cl.weFlips
      rows := mapKeep (fun k => !at' 16384 k) s.cl.rows, rowFlips := mapKeep (fun k => !at' 16384 k) s.cl.rowFlips
      rowBad := mapKeep (fun k => !at' 16384 k) s.cl.rowBad
      frames := mapKeep (fun k => !at' 4 k) s.cl.frames } }

/-- Reinitialise the backing arrays of the rooms that a reload declares: zeros, then its PAGEINIT (R126, R267). -/
def reinitArrays (st : List Staged) (s : State) : State :=
  let spans := (st.filter (fun q => q.sect.typ = 0x15)).flatMap (fun q => (List.range 4).filterMap (fun r =>
    let v := (declOf q.text r).1
    if declPaged v then some (1024 * pageBase s (physOf s q.sect.unit) r, declBytes v) else none))
  let s1 := { s with cel := { s.cel with mem := mapKeep (fun a => !spans.any (fun x => x.1 ≤ a && a < x.1 + x.2)) s.cel.mem } }
  (st.filter (fun q => q.sect.typ = 0x17)).foldl (fun acc q =>
    ldPages (physOf acc q.sect.unit) q.sect.sub q.sect.target q.text acc) s1

/-- The loader writes the shelf; its border table stays staged (R267). -/
def reloadWrite (s : State) : State :=
  let st := s.ldr.staged
  let s1 := clearShelf s.ldr.shelf s
  let s2 := writeSections (st.filter (fun q => q.sect.typ ≠ 0x21 && q.sect.typ ≠ 0x17)) s1
  setImg 14 (st.foldl (fun acc q => fillInitial q acc) (reinitArrays st s2))

/-- The border table of the reload takes effect, and the shelf is evaluated again (R268). -/
def rejoinShelf (s : State) : State :=
  let h := s.ldr.shelf
  clrBit (writeSections (s.ldr.staged.filter (fun q => q.sect.typ = 0x21)) s) (shfA h 0x500) 16

/-- Sections of the resident copy that a reload replaces. -/
def replaces (st : List Staged) (q : Staged) : Bool :=
  st.any (fun x => x.sect.typ = q.sect.typ && x.sect.unit = q.sect.unit &&
    (x.sect.typ ≠ 0x13 || x.sect.sub = q.sect.sub)) ||
  (q.sect.typ = 0x16 && st.any (fun x => x.sect.typ = 0x15 && x.sect.unit = q.sect.unit))

/-- The resident copy takes the sections of a reload (R268). -/
def takeResident (st : List Staged) (s : State) : State :=
  onLdr (fun l => { l with
    resident := l.resident.filter (fun q => !replaces st q) ++ st.filter (fun q => q.sect.typ ≠ 0x17)
    pendingRes := [] }) s

/-- A reload completes at its target: STATE, and LD_READY to the root. -/
def reloadEnd (s : State) : State :=
  let s1 := hostEvent 1 (clearErr (setImg 10 (onLdr (fun l => { l with
    kind := 0, staged := [], stream := [], mine := none, hdrDone := false, tblDone := false, ended := 0, voted := false }) s)))
  if s1.crt.isRoot then closeFeed (onLdr (fun l => { l with domain := 0, target := none }) s1)
  else sendServiceUp 0x15 0 [] s1

def rlJd (s : State) : Option Nat :=
  if rdBit s (imgA 0x64) 31 then some ((rdReg s (imgA 0x60)).toNat + 2 ^ 32 * rdFld s (imgA 0x64) 0 16) else none
def rlJj (s : State) : Option Nat :=
  if rdBit s (imgA 0x6C) 31 then some ((rdReg s (imgA 0x68)).toNat + 2 ^ 32 * rdFld s (imgA 0x6C) 0 16) else none

/-- The epoch after the first one whose step X129 is still to come (R266, R268). -/
def afterNextX129 (s : State) : Nat := if s.spr.pos = .extension then curEpoch s else curEpoch s + 1

/-- RELOAD_VERIFIED (R264 to R266): the last byte has come and every check of the reload image is made. -/
def reloadVerified (s : State) : State :=
  let h := imgHdr s.ldr.stream
  if s.ldr.kind ≠ 2 ∨ imgState s ≠ 12 ∨ s.ldr.mine.isSome ∨ s.ldr.tblDone = false ∨ s.ldr.ended < h.nsect then s
  else match firstFinding (reloadAll h s.ldr.staged s) with
    | some f => ldFail (findErr (devAddr s) f) s
    | none =>
      let s0 := onLdr (fun l => { l with mine := some none }) s
      let s1 := if s0.crt.isRoot then closeFeed s0 else sendVote none s0
      let clear := wrReg (wrReg s1 (imgA 0x6C) 0) (imgA 0x68) 0
      match s.chip.devState with
      | .ready | .held => reloadWrite clear
      | .running =>
        let jd := afterNextX129 s
        setImg 13 (setBit (wr48 (imgA 0x60) (imgA 0x64) jd clear) (imgA 0x64) 31)
      | _ => ldFail (plainErr s 0x21) s

def execReloadVerified (s : State) : Out := .next (reloadVerified s)

/-- RELOAD_WRITES_DONE (R265, R268): in Ready or Held the reload is complete, in Running J_j is fixed. -/
def reloadWritesDone (s : State) : State :=
  if s.ldr.kind ≠ 2 ∨ imgState s ≠ 14 then s
  else if s.chip.devState = .running then
    setImg 15 (setBit (wr48 (imgA 0x68) (imgA 0x6C) (afterNextX129 s) s) (imgA 0x6C) 31)
  else reloadEnd (takeResident s.ldr.staged (rejoinShelf s))

def execReloadWritesDone (s : State) : Out := .next (reloadWritesDone s)

/-- The target abandons its reload on an abort that comes in time (R269). -/
def reloadAbandon (s : State) : State :=
  let open' := imgState s = 12 || (imgState s = 13 && (match rlJd s with
    | some j => s.chip.devState = .running && (curEpoch s < j && !(s.spr.pos = .extension && curEpoch s = j))
    | none => true))
  if s.ldr.kind ≠ 2 then s
  else if open' then
    let e := plainErr s 0x27
    let s1 := wrFld s (imgA 0x64) 31 1 0
    if s1.crt.isRoot then rlAbort e s1 else rlAbort e (sendVote (some e) s1)
  else setBit s imgStat 7

/-- LD_ABORT (R257, R269). -/
def ldAbortMsg (l dst : Nat) (e : LdErr) (s : State) : State :=
  if !fromUp s l then s
  else if dst = 0xFFF then ldAbort e (sendServiceDown 0x16 0xFFF (errBody (some e) true) s)
  else match routeTo s dst with
    | .link k => relayService k 0x16 0 dst (errBody (some e) true) s
    | .self => if e.code = 0x27 then reloadAbandon s else if s.ldr.kind = 2 then rlAbort e s else s
    | .nowhere => s

def execLdAbort (l dst : Nat) (e : LdErr) (s : State) : Out := .next (ldAbortMsg l dst e s)

/-- Epoch `e` runs with the shelf detached (R266, R269). -/
def shelfDetachedIn (s : State) (e : Nat) : Bool :=
  match rlJd s, rlJj s with
  | some jd, some jj => jd ≤ e && e < jj
  | some jd, none => jd ≤ e && s.ldr.kind = 2
  | none, _ => false

/-- The boundary before epoch `e` (R266, R268): the shelf detaches at J_d and rejoins at J_j; a first run of J_j ends
the reload. -/
def reloadBoundary (e : Nat) (s : State) : State :=
  let h := s.ldr.shelf
  let det := shelfDetachedIn s e
  if det then wrFld s (shfA h 0x500) 16 1 1
  else if rlJj s = some e ∧ s.ldr.kind = 2 then
    reloadEnd (onLdr (fun l => { l with pendingRes := l.staged }) (rejoinShelf s))
  else if detached s h then clrBit s (shfA h 0x500) 16 else s

/-- Epoch `k` commits (R267, R268): the loader begins writing after J_d - 1, and the resident copy follows J_j. -/
def reloadCommit (k : Nat) (s : State) : State :=
  let s1 := if s.ldr.kind = 2 ∧ imgState s = 13 ∧ rlJd s = some (k + 1) then reloadWrite s else s
  if rlJj s1 = some k ∧ s1.ldr.pendingRes ≠ [] then takeResident s1.ldr.pendingRes s1 else s1

/-! ### Repair from the resident copy (R262) -/

/-- Rewrite logical cluster `m` from the resident copy: instruction memories, BPC and WEN configuration, FAB tables,
and its shelf's SHF_GIMP. -/
def repairCluster (m : Nat) (s : State) : State :=
  (s.ldr.resident.filter (fun q =>
    ([0x10, 0x11, 0x13, 0x14, 0x18].contains q.sect.typ && q.sect.unit = m) || (q.sect.typ = 0x20 && q.sect.unit = m / 16))).foldl
    (fun acc q => ldSection q acc) s

end Sys2Proof.Machine
end

