-- ==== Sys2Proof/Machine/Retire.lean ====
section
/-! DEFINITION. Retirement of units to spares, and spares that return (R16 to R19, R623, R627, R630). -/

namespace Sys2Proof.Machine

/-! ### Roles of units -/

/-- What a unit of a class is now. -/
inductive UnitRole where
  | active | spare | retired | absent
deriving DecidableEq, Repr

def unitRole (s : State) (cls unit : Nat) : UnitRole :=
  match cls with
  | 0 => if 272 ≤ unit then .absent else match roleOf s unit with
      | .active => .active
      | .spare => .spare
      | .retired => .retired
  | 2 => if 256 ≤ unit then .absent else match rdFld s (laneA unit 4) 2 2 with
      | 1 => .active
      | 2 => .spare
      | 3 => .retired
      | _ => .absent
  | 3 => if 128 ≤ unit then .absent else match (pcOf s unit).role with
      | 4 => .spare
      | 5 => .retired
      | _ => .active
  | 4 => if 32 ≤ unit then .absent else if (chanOf s unit).st = .retired then .retired else .active
  | _ => .absent

/-- The spare cluster of a shelf (R19). -/
def spareOf (s : State) (h : Nat) : Option Nat := (List.range' (17 * h) 17).find? (fun p => roleOf s p = .spare)

def laneLink (s : State) (p : Nat) : Nat := rdFld s (laneA p 4) 4 6

/-- Can another unit take the place of an active one (R623)? -/
def hasSpare (s : State) (cls unit : Nat) : Bool :=
  match cls with
  | 0 => (spareOf s (unit / 17)).isSome
  | 2 => rdBit s (linkA (laneLink s unit) 0x1C) 30
  | 3 => (reserveOf s unit).isSome
  | 4 => true
  | _ => false

def setRole (p : Nat) (r : Role) (s : State) : State :=
  { s with chip := { s.chip with role := mapSet (idRole p) s.chip.role p r } }

/-! ### A cluster (R16, R201, R491, R516, R627) -/

/-- The keys of storage of cluster `p` moved to cluster `q`, in blocks of `n` per cluster. -/
def moveKeys {α : Type} [DecidableEq α] (d : α) (n p q : Nat) (f : Nat → α → α) (m : SMap α) : SMap α :=
  mapSetAll d (mapKeep (fun k => k / n ≠ p && k / n ≠ q) m)
    ((m.filter (fun x => x.1 / n = p)).map (fun x => (x.1 - n * p + n * q, f x.1 x.2)))

/-- An address in the window of cluster `p` moved to the window of cluster `q`. -/
def moveAddr (p q a : Nat) : Nat := if physA p 0 ≤ a ∧ a < physA (p + 1) 0 then a - physA p 0 + physA q 0 else a

/-- Settings kept by register address follow the cluster. -/
def moveRegs (p q : Nat) (m : SMap Word) : SMap Word :=
  m.foldl (fun acc x => mapIns (mapDel acc (moveAddr p q x.1)) (moveAddr p q x.1) x.2) []

/-- The image's registers of cluster `p`, taken from its window and written in that of `q` in place of what `q` held. -/
def copyRegs (p q : Nat) (regs : SMap Word) : SMap Word :=
  let img := fun (a : Nat) => match regRow a with
    | some r => r.dom = .image
    | none => false
  let mine := fun (x : Nat × Word) => physA p 0 ≤ x.1 && x.1 < physA (p + 1) 0 && img x.1
  (regs.filter mine).foldl (fun acc x => mapSet (regReset (moveAddr p q x.1)) acc (moveAddr p q x.1) x.2)
    (regs.filter (fun x => !mine x && !(physA q 0 ≤ x.1 && x.1 < physA (q + 1) 0 && img x.1)))

/-- Model state and settings of cluster `p` go to its spare `q`; an entry that cannot be read is written as zero, and
STATE_LOSS is set (R627). -/
def copyCluster (p q : Nat) (s : State) : State :=
  let c := s.cl
  let badPond := c.pond.any (fun x => x.1 / 65536 = p && pondBadPar x.2)
  let badRow := (c.rowFlips.any (fun x => x.1 / 16384 = p && (rowRead s x.1).2.2)) || c.rowBad.any (fun x => x.1 / 16384 = p && x.2)
  let s1 := { s with
    regs := copyRegs p q s.regs
    cl := { c with
      pond := moveKeys 0 65536 p q (fun _ v => if pondBadPar v then pondWord 0 else v) c.pond
      fptr := moveKeys 0 16384 p q (fun _ v => v) c.fptr
      written := moveKeys false 16384 p q (fun _ v => v) c.written
      wreg := moveKeys 0 1024 p q (fun _ v => v) c.wreg
      flagF := moveKeys 0 8 p q (fun _ v => v) c.flagF
      flagCY := moveKeys 0 8 p q (fun _ v => v) c.flagCY
      macAcc := moveKeys 0 16 p q (fun _ v => v) c.macAcc
      portData := moveKeys 0 64 p q (fun _ v => v) c.portData
      bpMem := moveKeys 0 131072 p q (fun _ v => v) c.bpMem
      bpFlips := mapKeep (fun k => k / 131072 ≠ p && k / 131072 ≠ q) c.bpFlips
      weMem := moveKeys 0 8192 p q (fun _ v => v) c.weMem
      weFlips := mapKeep (fun k => k / 8192 ≠ p && k / 8192 ≠ q) c.weFlips
      rows := moveKeys 0 16384 p q (fun k v => if (rowRead s k).2.2 then 0 else v) c.rows
      rowFlips := mapKeep (fun k => k / 16384 ≠ p && k / 16384 ≠ q) c.rowFlips
      rowBad := mapKeep (fun k => k / 16384 ≠ p && k / 16384 ≠ q) c.rowBad
      frames := moveKeys [] 4 p q (fun _ v => v) c.frames
      cfgBad := c.cfgBad.filter (fun x => !(physA p 0 ≤ x.1 && x.1 < physA (p + 1) 0))
      injStaged := moveRegs p q c.injStaged
      injLater := moveRegs p q c.injLater }
    spr := { s.spr with epochRecs := s.spr.epochRecs.map (fun e => { e with inject := moveRegs p q e.inject }) } }
  whenDo (badPond || badRow) (fun x => setBit x (attA 0) 14) s1

/-- The log entry of a retirement, of a return, of a Safe entry and of what the attic refuses (R635). -/
def unitLog (kind resp cls unit : Nat) (s : State) : State :=
  attLog { outcome := 3, cls := cls, unit := unit, kind := kind, resp := resp, n := 0, detail := 0 } s

/-- An active cluster passes to its shelf's spare: copy, resident copy, scheduler, steward, and the map last (R18,
R623). -/
def moveCluster (p q m : Nat) (s : State) : State :=
  let s1 := schedMove p q (copyCluster p q s)
  let s2 := setRole q .active (setRole p .retired (retireCore p s1))
  let s3 := { s2 with chip := { s2.chip with clusterMap := mapSet (idMap m) s2.chip.clusterMap m q } }
  let s4 := repairCluster m s3
  takeOverCore q (whenDo (splitImage s4) (setBank s4.spr.bank) s4)

def retireCluster (p : Nat) (s : State) : State :=
  match roleOf s p with
  | .retired => s
  | .spare => setRole p .retired s
  | .active =>
    match spareOf s (p / 17), logOf s p with
    | some q, some m => moveCluster p q m s
    | _, _ => s

/-! ### A lane (R378, R379) -/

/-- An active lane is swapped with the far end where the link carries management flits, else at once; a spare leaves. -/
def retireLaneUnit (p : Nat) (s : State) : State :=
  let l := laneLink s p
  match rdFld s (laneA p 4) 2 2 with
  | 1 => if mgmtOpen s l then sendCmd l 1 (rdFld s (laneA p 4) 10 5) s else swapLanes l (rdFld s (laneA p 4) 10 5) s
  | 2 => clrBit (retireLane l p s) (linkA l 0x1C) 30
  | _ => s

/-- Retire a unit: the work and the log entry (R623, R635). -/
def retireUnit (cls unit : Nat) (s : State) : State :=
  let s1 := match cls with
    | 0 => retireCluster unit s
    | 2 => retireLaneUnit unit s
    | 3 => retirePc unit s
    | 4 => dmaRetire unit { s with att := { s.att with deadDma := (s.att.deadDma.filter (fun n => n ≠ unit)) ++ [unit] } }
    | _ => s
  unitLog 0x40 4 cls unit s1

/-! ### Spares that return (R630) -/

/-- Is a spare position of the unit's shelf, link or stack free? -/
def positionFree (s : State) (cls unit : Nat) : Bool :=
  match cls with
  | 0 => (spareOf s (unit / 17)).isNone
  | 2 => !rdBit s (linkA (laneLink s unit) 0x1C) 30
  | 3 => ((List.range' (32 * (unit / 32)) 32).countP (fun q => (pcOf s q).role = 4)) < 2
  | _ => true

/-- A unit takes a spare position: its fault history is cleared and the return is logged (R630, R635). -/
def takePosition (cls unit : Nat) (s : State) : State :=
  let s1 := match cls with
    | 0 => setRole unit .spare s
    | 2 => makeSpare (laneLink s unit) unit s
    | 3 => putPc unit { PcState.reset with role := 4, bistOk := true } s
    | 4 => putChan unit DmaCh.reset { s with att := { s.att with deadDma := s.att.deadDma.filter (fun n => n ≠ unit) } }
    | _ => s
  unitLog 0x41 0 cls unit { s1 with att := { s1.att with
    hits := s1.att.hits.filter (fun h => !(h.cls = cls && h.unit = unit))
    passed := s1.att.passed.filter (fun x => x ≠ (cls, unit)) } }

/-- Units that have passed and wait take the positions that are free, the lowest-numbered first. -/
def fillPositions (s : State) : State :=
  (s.att.passed.mergeSort (fun a b => decide (a.2 ≤ b.2))).foldl (fun acc q =>
    if positionFree acc q.1 q.2 then takePosition q.1 q.2 acc else acc) s

end Sys2Proof.Machine
end

