-- ==== Sys2Proof/Machine/Boot.lean ====
section
/-! DEFINITION. Resets and Boot (R9, R226 to R238): the reset pins, the start-up sequence, the shell and its records,
and the writes of IMG_CTRL. -/

namespace Sys2Proof.Machine

/-! ### Reset pins (R9, R226, R228, R686 to R688) -/

/-- The HOST reset domain: registers, MSI-X, the mailbox page and the endpoint (R9, R688). -/
def hostReset (s : State) : State :=
  let s1 := resetDom .host s
  { s1 with hst := { s1.hst with cfgReady := false, msixEn := false, unmasked := [], msixPend := [], msixTab := [], page := [] } }

/-- PORST_N asserted: Off, and every reset domain (R9, R686). Fuses keep their contents (R602 to R605, R640). -/
def porstAssert (s : State) : State :=
  let a := s.att
  { State.reset with
    pending := s.pending, outbox := s.outbox, freeCtr := s.freeCtr
    hst := { HostIf.reset with perst := s.hst.perst }
    att := { Attic.reset with
      lifecycle := a.lifecycle, lcNext := a.lcNext, ownerCmd := a.ownerCmd, ownerDbg := a.ownerDbg
      custShell := a.custShell, minVer := a.minVer, raises := a.raises, blobSeed := a.blobSeed } }

def execPorstAssert (s : State) : Out := .next (porstAssert s)

/-- Entry to Boot (R9, R226, R602, R605, R606): the SHELL and IMAGE domains, a new blob counter, the lifecycle that was
pending, and stage 1. -/
def enterBoot (s : State) : State :=
  let keepErr := s.chip.loadErr && decide (s.chip.devState ≠ .blank)
  let s1 := imageReset (resetDom .shell s)
  let a := s1.att
  let seed := min (a.blobSeed + 1) (2 ^ 32 - 1)
  let returned := a.lcNext = 3 && a.lifecycle ≠ 3
  let dead := (List.range 256).filter (fun p => rdFld s (laneA p 4) 2 2 = 3)
  let s2 := { s1 with
    chip := { s1.chip with
      devState := .boot, shellUp := false, bistOpen := [], loadErr := keepErr, capture := [], remote := [], nextTag := 0 }
    att := { a with
      lifecycle := a.lcNext, blobSeed := seed, blobCnt := seed * 2 ^ 32, flags := 0x0F, session := none
      imgKeys := if returned then [] else a.imgKeys, blobKeys := if returned then [] else a.blobKeys
      lockUntil := none, grantsUntil := none, challenge := none, reports := [], hits := [], decisions := [], bists := []
      scrubFix := []
      deadLanes := dead ++ a.deadLanes.filter (fun p => !dead.contains p && rdFld s (laneA p 4) 2 2 = 0) }
    crt := Crate.reset, tim := TimeKeep.reset, lnk := [], prbs := [], stw := Stewards.reset
    noc := { Noc.reset with
      gates := s1.noc.gates
      chans := mapSetAll DmaCh.reset [] (a.deadDma.map (fun n => (n, { DmaCh.reset with st := .retired }))) }
    trc := { Trace.reset with jtag := s1.trc.jtag }
    hst := { s1.hst with flash := false, gpioDefault := 0 }
    cel := { s1.cel with blob := none }
    ldr := { Loader.reset with boot := 1 } }
  let s3 := a.deadDma.foldl (fun acc n => wrFld acc (dmaReg n 0x1C) 0 4 (dmaCode .retired)) s2
  let s4 := wrFld (wrFld s3 (attA 0) 5 3 0) (attA 0) 16 3 0
  let s5 := whenDo s4.hst.thermHold (fun x => (List.range 16).foldl (fun acc h => setBit acc (pwrStat h) 2) x) s4
  wakeAll 5 s5

/-- PORST_N released (R226): from Off to Boot, with a random mailbox nonce (R639). -/
def porstRelease (s : State) : State :=
  if s.chip.devState = .off then
    let (n, s1) := takeFree s
    enterBoot { s1 with
      hst := { s1.hst with porst := false }
      att := { s1.att with nonce := BitVec.ofNat 64 n } }
  else s

def execPorstRelease (s : State) : Out := .next (porstRelease s)

/-- PERST_N asserted (R688). While PORST_N is asserted the device stays Off. -/
def perstAssert (s : State) : State :=
  let down := fun (x : State) => { x with hst := { x.hst with perst := true } }
  if s.chip.devState = .off then down s else down (hostReset (feedReset (dmaPerst s)))

def execPerstAssert (s : State) : Out := .next (perstAssert s)

/-- PERST_N released (R687, R688). -/
def execPerstRelease (s : State) : Out := .next { s with hst := { s.hst with perst := false } }

/-- CONFIG_READY: 100 ms after the later of the two releases (R228). -/
def configReady (s : State) : State :=
  if s.hst.porst ∨ s.hst.perst ∨ s.chip.devState = .off then s else { s with hst := { s.hst with cfgReady := true } }

def execConfigReady (s : State) : Out := .next (configReady s)

/-! ### Stages of Boot (R227) -/

def setBoot (n : Nat) (s : State) : State := onLdr (fun l => { l with boot := n }) s

/-- Keep the state of a shell reception. -/
def putRx (src : Nat) (r : ShellRx) (s : State) : State :=
  onLdr (fun l => { l with rx := mapSet ShellRx.reset l.rx src r }) s
def rxOf (s : State) (src : Nat) : ShellRx := mapGet ShellRx.reset s.ldr.rx src

/-- The shell stage begins (R230): with flash at the primary copy, else it waits for the head or the host. -/
def shellStage (flash : Bool) (s : State) : State :=
  let s1 := setBoot 4 s
  if flash then putRx 0 { ShellRx.reset with live := true } s1 else setImg 2 s1

/-- Every tree link of the link map has trained or failed (R227). -/
def treeSettled (s : State) : Bool :=
  (List.range 64).all (fun l => linkMode s l ≠ 1 || linkState s l = 8 || linkState s l = 9 || linkState s l = 10)

/-- Boot ends in Blank (R226, R400, R401). -/
def enterBlank (s : State) : State :=
  blankFromBoot (setBoot 0 { s with chip := { s.chip with devState := .blank } })

/-- TB0 starts at 0 at the step-clock edge at which PLL_LOCK is set (R431); the root's TB0 is in phase lock. -/
def clockLocked (s : State) : State := setBit { s with tim := { s.tim with tb0 := 0 } } timStat 0

/-- Work of stage 3: a new seal epoch, and the general window at its Boot layout (R565, R573, R584). -/
def cellarStage (s : State) : State := layoutGeneral 1 64 0 (placePcs (sealCellar s))

/-- BOOT_STAGE_DONE. `flash`: a flash device answers the identification read. -/
def bootStageDone (flash : Bool) (s : State) : State :=
  if s.chip.devState ≠ .boot then s
  else match s.ldr.boot with
    | 1 => setBoot 2 (setBit s (attA 0) 7)
    | 2 => setBoot 3 (clockLocked s)
    | 3 => shellStage flash (cellarStage s)
    | 5 => if treeSettled s then enterBlank s else s
    | _ => s

def execBootStageDone (flash : Bool) (s : State) : Out := .next (bootStageDone flash s)

/-- BOOT_STAGE_TIMEOUT: stages 1 and 3 lead to Safe, stage 2 leaves the lock missing (R227). Stages 4 and 5 have no
limit. -/
def bootStageTimeout (s : State) : State :=
  if s.chip.devState ≠ .boot then s
  else match s.ldr.boot with
    | 1 | 3 => enterSafeOpen .boot none none s
    | 2 => setBoot 3 s
    | _ => s

def execBootStageTimeout (s : State) : Out := .next (bootStageTimeout s)

/-! ### The shell as bytes (R231, R235, R236) -/

structure ShellRec where
  typ  : Nat
  body : List Byte
deriving DecidableEq, Repr

def shellMagic : List Byte := [0x53, 0x56, 0x5A, 0x53, 0x48, 0x45, 0x4C, 0x4C]
def shellLen (b : List Byte) : Nat := leAt b 0x0C 4
def shellFlags (b : List Byte) : Nat := leAt b 0x14 4
def shellVersion (b : List Byte) : Nat := leAt b 0x10 4

/-- The 64-byte header is as R235 gives it. -/
def shellHdrGood (b : List Byte) : Bool :=
  b.take 8 = shellMagic && leAt b 8 2 = 0x0100 && decide (64 ≤ shellLen b) && decide (shellLen b ≤ 8388608) &&
    decide (shellFlags b < 2) && allZero ((b.drop 0x28).take 24)

/-- Signature bytes that follow the shell (R237). -/
def sigBytes (b : List Byte) : Nat := 96 + 96 * (shellFlags b % 2)

/-- Frames of the shell whose first frame has come (R231). -/
def shellFrames (b : List Byte) : Nat := ceilDiv (shellLen b + sigBytes b) 4096

/-- `n` records back to back (R236); none where the layout is wrong. -/
def shellRecs : Nat → List Byte → Option (List ShellRec)
  | 0, b => if b = [] then some [] else none
  | n + 1, b =>
    let len := leAt b 4 4
    let pad := roundUpTo len 8
    let body := b.drop 8
    let t := leAt b 0 2
    if b.length < 8 ∨ leAt b 2 2 ≠ 0 ∨ body.length < pad ∨ allZero ((body.take pad).drop len) = false ∨ t = 0 ∨ 8 < t then none
    else (shellRecs n (body.drop pad)).map (fun r => { typ := t, body := body.take len } :: r)

/-- The payload of the first record of a type. -/
def recOf (rs : List ShellRec) (t : Nat) : Option (List Byte) := (rs.find? (fun r => r.typ = t)).map (fun r => r.body)

/-! ### LINKMAP (R336, R337) -/

structure MapLink where
  link   : Nat
  first  : Nat
  lanes  : Nat
  spare  : Bool
  stream : Bool
  rate   : Nat
  txpre  : Nat
  target : Nat
  margin : Nat
  slots  : Nat
deriving DecidableEq, Repr

def mapLink (e : List Byte) : MapLink :=
  { link := leAt e 0 1, first := leAt e 1 1, lanes := leAt e 2 1, spare := leAt e 3 1 % 2 = 1,
    stream := leAt e 3 1 / 2 % 2 = 1, rate := leAt e 4 1, txpre := leAt e 5 1, target := leAt e 6 2,
    margin := leAt e 8 1, slots := leAt e 9 1 }

def linkEntries (t : List Byte) : List (List Byte) := (List.range (leAt t 0 2)).map (fun i => (t.drop (8 + 16 * i)).take 16)
def linkMap (rs : List ShellRec) : List MapLink := (((recOf rs 1).map linkEntries).getD []).map mapLink

/-- Physical lanes of a link, its spare last. -/
def mapLanes (k : MapLink) : List Nat := List.range' k.first (k.lanes + b2n k.spare)

def mapLinkGood (e : List Byte) : Bool :=
  let k := mapLink e
  decide (k.link < 64) && decide (1 ≤ k.lanes) && decide (k.lanes ≤ 16) && decide (k.first + k.lanes + b2n k.spare ≤ 256) &&
    decide (leAt e 3 1 < 4) && decide (k.rate ≤ 2) && decide (k.txpre ≤ 10) && allZero (e.drop 10) &&
    (if k.stream then k.target = 0 && k.margin = 0 && k.slots = 0
     else decide (16 ≤ k.target) && decide (k.target ≤ 4095) && (k.margin = 0 || (decide (4 ≤ k.margin) && decide (k.margin ≤ 64))) &&
       decide (k.slots ≤ 32))

def linkMapGood (t : List Byte) : Bool :=
  let es := linkEntries t
  let ks := es.map mapLink
  let lanes := ks.flatMap (fun k => (mapLanes k).map (fun p => (p, k.rate)))
  t.length = 8 + 16 * leAt t 0 2 && decide (leAt t 0 2 ≤ 64) && allZero ((t.drop 2).take 6) && es.all mapLinkGood &&
    decide (ks.map (fun k => k.link)).Nodup && decide (lanes.map (fun q => q.1)).Nodup &&
    ks.all (fun k => (mapLanes k).all (fun p => p / 128 = k.first / 128)) &&
    lanes.all (fun a => lanes.all (fun b => a.1 / 4 ≠ b.1 / 4 || a.2 = b.2))

/-! ### CRATE (R395, R396) -/

structure CrateRec where
  root   : Bool
  up     : Option Nat
  kids   : List Nat
  peers  : List Nat
  expect : Nat
deriving DecidableEq, Repr

def noCrate : CrateRec := { root := false, up := none, kids := [], peers := [], expect := 0 }

def crateRec (t : List Byte) : CrateRec :=
  let cell := fun (o n : Nat) => (List.range n).map (fun i => leAt t (o + i) 1)
  let up := leAt t 1 1
  { root := leAt t 0 1 % 2 = 1, up := if up = 0xFF then none else some up, kids := cell 8 (leAt t 2 1),
    peers := cell 40 (leAt t 3 1), expect := leAt t 4 2 }

def crateGood (t : List Byte) : Bool :=
  let c := crateRec t
  t.length = 104 && decide (leAt t 0 1 < 2) && decide (leAt t 2 1 ≤ 32) && decide (leAt t 3 1 ≤ 63) && leAt t 6 2 = 0 &&
    leAt t 103 1 = 0 && (c.root == c.up.isNone) && (List.range' c.kids.length (32 - c.kids.length)).all (fun i => leAt t (8 + i) 1 = 0xFF) &&
    (List.range' c.peers.length (63 - c.peers.length)).all (fun i => leAt t (40 + i) 1 = 0xFF) &&
    decide (c.expect ≤ 4096) && (c.root || c.expect = 0)

/-- Every tree link has exactly one role, and no other link is named (R396). -/
def rolesGood (c : CrateRec) (ks : List MapLink) : Bool :=
  let named := c.up.toList ++ c.kids ++ c.peers
  let tree := (ks.filter (fun k => !k.stream)).map (fun k => k.link)
  decide named.Nodup && named.all (fun l => tree.contains l) && tree.all (fun l => named.contains l)

/-! ### TIME, STWFW, ATTICPOL, CELLPLAN, IOCFG (R444, R488, R634, R572, R710) -/

/-- Entries of a TIME record: link and asymmetry. -/
def asymEntries (t : List Byte) : List (Nat × Nat) :=
  (List.range (leAt t 18 1)).map (fun i => (leAt t (24 + 4 * i) 1, leAt t (26 + 4 * i) 2))

def timeGood (t : List Byte) (c : CrateRec) (ks : List MapLink) : Bool :=
  let n := leAt t 18 1
  let kind := leAt t 0 1
  let tree := (ks.filter (fun k => !k.stream)).map (fun k => k.link)
  t.length = 24 + 4 * n && decide (n ≤ 64) && decide (kind ≤ 2) && decide (leAt t 2 1 ≤ 1) && decide (leAt t 3 1 ≤ 1) &&
    decide (leAt t 4 1 ≤ 15) && decide (leAt t 5 1 ≤ 15) && decide (leAt t 12 4 ≤ 0x20000000) &&
    (leAt t 16 2 = 0 || decide (1000 ≤ leAt t 16 2)) && allZero ((t.drop 19).take 5) &&
    (!c.root || kind = 0) && (c.root || leAt t 2 1 = 0) &&
    (if kind = 1 then c.peers.contains (leAt t 1 1) else leAt t 1 1 = 0xFF) &&
    decide ((asymEntries t).map (fun q => q.1)).Nodup && (asymEntries t).all (fun q => tree.contains q.1) &&
    (List.range n).all (fun i => leAt t (25 + 4 * i) 1 = 0)

/-- Size of the firmware area in MB of the CELLPLAN in force (R572). -/
def planOf (rs : List ShellRec) : Nat × Nat × Nat :=
  match recOf rs 6 with
  | some t => (leAt t 0 1, leAt t 2 2, leAt t 4 2)
  | none => (1, 64, 0)

def planGood (t : List Byte) : Bool :=
  let gb := leAt t 0 1
  let fw := leAt t 2 2
  let op := leAt t 4 2
  t.length = 8 && decide (1 ≤ gb) && decide (gb ≤ 16) && leAt t 1 1 = 0 && decide (1 ≤ fw) && decide (fw ≤ 512) &&
    decide (op ≤ 16384) && leAt t 6 2 = 0 && decide (fw + 1 + op + 1024 * gb ≤ 17115)

/-- A segment of the steward firmware (R488): destination, length, source, guarded, zero. -/
structure FwSeg where
  dest    : Nat
  len     : Nat
  src     : Nat
  guarded : Bool
  zero    : Bool
deriving DecidableEq, Repr

def fwSegs (t : List Byte) : List FwSeg :=
  (List.range (leAt t 8 2)).map (fun i =>
    let o := 16 + 24 * i
    { dest := leAt t o 4, len := leAt t (o + 4) 4, src := leAt t (o + 8) 4, guarded := leAt t (o + 12) 1 % 2 = 1,
      zero := leAt t (o + 12) 1 / 2 % 2 = 1 })

/-- First local address of GRD, and its length (R471). -/
def grdLocal : Nat := 0xF0000000
def grdSize : Nat := 0x100000

def inGrd (g : FwSeg) : Bool := decide (grdLocal ≤ g.dest) && decide (g.dest + g.len ≤ grdLocal + grdSize)

def fwGood (t : List Byte) (fwMb : Nat) : Bool :=
  let size := leAt t 4 4
  let n := leAt t 8 2
  let entry := leAt t 0 4
  let gs := fwSegs t
  decide (16 + 24 * n ≤ t.length) && decide (1 ≤ n) && decide (n ≤ 64) && decide (leAt t 10 2 < 2) && leAt t 12 4 = 0 &&
    size % 2 ^ 20 = 0 && decide (size ≤ fwMb * 2 ^ 20) &&
    (List.range n).all (fun i => decide (leAt t (16 + 24 * i + 12) 4 < 4) && allZero ((t.drop (16 + 24 * i + 16)).take 8)) &&
    gs.all (fun g => (decide (g.dest + g.len ≤ size) || inGrd g) && (g.guarded == decide (grdLocal ≤ g.dest)) &&
      (if g.zero then g.src = 0 else decide (g.src + g.len ≤ t.length)) &&
      (!g.guarded || decide (g.dest + g.len ≤ grdLocal + grdSize - 32))) &&
    gs.zipIdx.all (fun a => gs.zipIdx.all (fun b => a.2 = b.2 || decide (a.1.dest + a.1.len ≤ b.1.dest) ||
      decide (b.1.dest + b.1.len ≤ a.1.dest))) &&
    entry % 4 = 0 && gs.any (fun g => !g.guarded && decide (g.dest ≤ entry) && decide (entry < g.dest + g.len))

/-- Units that ATTICPOL retires when the shell takes effect: class and unit. -/
def preUnits (t : List Byte) : List (Nat × Nat) :=
  (List.range (leAt t 2 2)).map (fun i => (leAt t (8 + 4 * i) 1, leAt t (10 + 4 * i) 2))

def policyGood (t : List Byte) (ks : List MapLink) : Bool :=
  let us := preUnits t
  let lim := fun (c : Nat) => if c = 0 then 272 else if c = 2 then 256 else if c = 3 then 128 else if c = 4 then 32 else 0
  let of' := fun (c : Nat) => (us.filter (fun u => u.1 = c)).map (fun u => u.2)
  t.length = 8 + 4 * leAt t 2 2 && decide (leAt t 0 1 < 128) && leAt t 1 1 = 0 && decide (leAt t 2 2 ≤ 64) && leAt t 4 4 = 0 &&
    us.all (fun u => decide (u.2 < lim u.1)) && (List.range us.length).all (fun i => leAt t (9 + 4 * i) 1 = 0) &&
    (List.range 16).all (fun h => decide ((of' 0).countP (fun p => p / 17 = h) ≤ 1)) &&
    ks.all (fun k => decide ((of' 2).countP (fun p => (mapLanes k).contains p) ≤ b2n k.spare)) &&
    (List.range 4).all (fun st => decide ((of' 3).countP (fun p => p / 32 = st) ≤ 2))

def ioGood (t : List Byte) : Bool :=
  t.length = 8 && decide (0x08 ≤ leAt t 4 1) && decide (leAt t 4 1 ≤ 0x77) && allZero (t.drop 5)

/-- Every record obeys its home rule (R236). -/
def recordsGood (rs : List ShellRec) : Bool :=
  let ks := linkMap rs
  let c := ((recOf rs 2).map crateRec).getD noCrate
  rs.all (fun r => match r.typ with
    | 1 => linkMapGood r.body
    | 2 => crateGood r.body
    | 3 => timeGood r.body c ks
    | 4 => fwGood r.body (planOf rs).2.1
    | 5 => policyGood r.body ks
    | 6 => planGood r.body
    | 7 => ioGood r.body
    | _ => decide (8 ≤ r.body.length) && c.kids.contains (leAt r.body 0 1)) && rolesGood c ks

/-- The first failure of a complete shell, by code (R235 to R237, R259). -/
def shellCode (b : List Byte) (s : State) : Option Nat :=
  let len := shellLen b
  let text := b.take len
  let cust := shellFlags b % 2 = 1
  let sig := fun (i : Nat) => (b.drop (len + 96 * i)).take 96
  let custGood := if s.att.custShell = [] then !cust else cust && Config.ecdsaGood s.att.custShell text (sig 1)
  if !shellHdrGood b then some 0x2A
  else if !Config.ecdsaGood Config.vendorKey text (sig 0) || !custGood then some 0x2B
  else if shellVersion b < s.att.minVer then some 0x2C
  else match shellRecs (leAt b 0x0A 2) (text.drop 64) with
    | none => some 0x2A
    | some rs => if recordsGood rs then none else some 0x2A

/-! ### The shell takes effect (R238) -/

/-- Lanes of a link: active, spare, and those that are retired (R385, R391). A dead lane's place goes to the spare. -/
def placeLanes (k : MapLink) (s : State) : State :=
  let dead := fun (p : Nat) => s.att.deadLanes.contains p
  let set := fun (p role index : Nat) (x : State) =>
    wrReg (wrReg x (laneA p 4) (BitVec.ofNat 32 (4 * role + 16 * k.link + 1024 * index))) (laneA p 0x18) (BitVec.ofNat 32 k.txpre)
  let lanes := List.range' k.first k.lanes
  let spare := k.first + k.lanes
  let lost := lanes.find? dead
  let free := k.spare && !dead spare
  let s1 := lanes.foldl (fun acc p => set p 1 (p - k.first) acc) s
  let s2 := if k.spare then set spare (if dead spare then 3 else 2) 16 s1 else s1
  let s3 := wrReg s2 (linkA k.link 0x1C) (BitVec.ofNat 32 (if free then spare + 2 ^ 30 else 0))
  match lost with
  | some p => if free then
      wrFld (wrFld (retireLane k.link p (set p 3 (p - k.first) (set spare 1 (p - k.first) s3))) (linkA k.link 0x1C) 30 1 0)
        (linkA k.link 0x1C) 0 8 0
    else s3
  | none => s3

/-- Registers of one link of the map (R387, R388), and its lanes. -/
def placeLink (k : MapLink) (s : State) : State :=
  let cfg := (if k.stream then 2 else 1) + 4 * b2n k.spare + 8 * k.rate + 32 * k.first + 2 ^ 13 * (k.lanes - 1) + 2 ^ 17 * k.slots
  let margin := if k.stream then 0 else if k.margin = 0 then 8 else k.margin
  let q := if k.stream then 0 else Config.qmax k.lanes k.rate (min k.slots (slotLimit k.lanes k.rate)) % 256
  placeLanes k (wrReg (wrReg s (linkA k.link 0) (BitVec.ofNat 32 cfg)) (linkA k.link 4)
    (BitVec.ofNat 32 (k.target + 2 ^ 16 * margin + 2 ^ 24 * q)))

/-- The link map takes effect: links leave boot service mode, and tree links train. -/
def takeLinkMap (ks : List MapLink) (s : State) : State :=
  let s1 := (List.range 16).foldl (fun acc l => setLinkState l 0 acc) { s with lnk := [] }
  let s2 := ks.foldl (fun acc k => placeLink k acc) s1
  (ks.filter (fun k => !k.stream)).foldl (fun acc k => beginTraining k.link acc) s2

def takeCrate (c : CrateRec) (s : State) : State :=
  wrFld { s with crt := { Crate.reset with isRoot := c.root, uplink := c.up, children := c.kids, peers := c.peers,
                                           expect := c.expect } } crtStatus 13 1 (b2n c.root)

/-- The TIME record (R444): a field of 0 that has a default takes it. -/
def takeTime (t : List Byte) (s : State) : State :=
  let dflt := fun (o n d : Nat) => if leAt t o n = 0 then d else leAt t o n
  let kind := leAt t 0 1
  let s1 := wrReg s (timA 0x60) (BitVec.ofNat 32 (leAt t 4 1 + 16 * leAt t 5 1 + 256 * dflt 6 2 250))
  let s2 := wrReg s1 (timA 0x64) (BitVec.ofNat 32 (dflt 12 4 0x0346DC5D))
  let s3 := wrReg s2 (timA 0x68) (BitVec.ofNat 32 (kind + 4 * (if kind = 1 then leAt t 1 1 else 0x3F) + 256 * leAt t 2 1 +
    512 * leAt t 3 1 + 2 ^ 16 * dflt 8 2 2000))
  let s4 := wrReg s3 (timA 0x6C) (BitVec.ofNat 32 (dflt 16 2 10000))
  let s5 := (asymEntries t).foldl (fun acc q => wrReg acc (timA (0x400 + 4 * q.1)) ((BitVec.ofNat 16 q.2).signExtend 32)) s4
  { s5 with tim := { s5.tim with ppsDelay := (BitVec.ofNat 16 (leAt t 10 2)).toInt } }

/-- Byte of the cellar at which a local address of FWA or GRD lies (R471, R573). -/
def fwByte (s : State) (a : Nat) : Nat := if grdLocal ≤ a then guardedBase s + (a - grdLocal) else 2 ^ 20 * genBase + a

/-- The firmware segments are copied; the rest of FWA and GRD is zero; the session key comes last (R488, R607). -/
def takeFirmware (t : Option (List Byte)) (s : State) : State :=
  let fw := rdFld s celPlan 5 10
  let lo := 2 ^ 20 * genBase
  let s1 := { s with cel := { s.cel with mem := mapKeep (fun a => decide (a < lo) || decide (lo + (fw + 1) * 2 ^ 20 ≤ a)) s.cel.mem } }
  let s2 := match t with
    | none => s1
    | some t =>
      let put := (fwSegs t).foldl (fun acc g => if g.zero then acc else celPut .attic (fwByte acc g.dest) ((t.drop g.src).take g.len) acc) s1
      (List.range 272).foldl (fun acc p => wrReg acc (stwA p 0x30) (BitVec.ofNat 32 (leAt t 4 4 / 2 ^ 20)))
        { put with stw := { put.stw with entry := BitVec.ofNat 32 (leAt t 0 4), startAll := leAt t 10 2 % 2 = 1 } }
  let key := Config.sessionKey (rdReg s2 (celA 4)).toNat
  let s3 := { s2 with att := { s2.att with session := some key } }
  celPut .attic (fwByte s3 (grdLocal + grdSize - 32)) ((leBytes 32 key.toNat).reverse) s3

/-- Stewards start as START_ALL names them; without firmware none starts (R489). -/
def startStewards (fw : Bool) (s : State) : State :=
  let s1 := dropCaches s
  if !fw then s1
  else if s1.stw.startAll then
    (List.range 256).foldl (fun acc m => startCore (physOf acc m) acc) s1
  else startCore (physOf s1 0) s1

/-- One NPRE entry of ATTICPOL (R634). -/
def preRetire (u : Nat × Nat) (s : State) : State :=
  match unitRole s u.1 u.2 with
  | .retired | .absent => s
  | .spare => retireUnit u.1 u.2 s
  | .active => if hasSpare s u.1 u.2 then retireUnit u.1 u.2 s else unitLog 0x40 0 u.1 u.2 s

def takePolicy (t : Option (List Byte)) (s : State) : State :=
  match t with
  | none => { s with att := { s.att with flags := 0x0F } }
  | some t => (preUnits t).foldl (fun acc u => preRetire u acc) { s with att := { s.att with flags := BitVec.ofNat 8 (leAt t 0 1) } }

/-- IOCFG (R710). -/
def takeIo (t : Option (List Byte)) (s : State) : State :=
  match t with
  | none => s
  | some t => wrReg (wrReg (wrReg { s with hst := { s.hst with gpioDefault := BitVec.ofNat 16 (leAt t 2 2) } } (hstA 0x20) (BitVec.ofNat 32 (leAt t 0 2))) (hstA 0x24) (BitVec.ofNat 32 (leAt t 2 2)))
      (hstA 0x14) (BitVec.ofNat 32 (leAt t 4 1))

/-- All records of a verified shell take effect together (R238). -/
def takeShell (src : Nat) (b : List Byte) (rs : List ShellRec) (s : State) : State :=
  let ks := linkMap rs
  let c := ((recOf rs 2).map crateRec).getD noCrate
  let (gb, fw, op) := planOf rs
  let s1 := takeCrate c (takeLinkMap ks s)
  let s2 := match recOf rs 3 with
    | some t => takeTime t s1
    | none => s1
  let s3 := whenDo (c.root && rdBit s2 timStat 0) (fun x => setBit x timStat 1) s2
  let s4 := wrFld (layoutGeneral gb fw op s3) (imgA 0x24) 0 5 gb
  let s5 := takeIo (recOf rs 7) (startStewards (recOf rs 4).isSome (takeFirmware (recOf rs 4) s4))
  let s6 := (List.range 4).foldl (fun acc i => wrReg acc (imgA (0x40 + 4 * i)) (BitVec.ofNat 32 (leAt b (0x18 + 4 * i) 4))) s5
  let s7 := wrReg s6 (imgA 0x50) (BitVec.ofNat 32 (shellVersion b))
  let s8 := wrFld (wrFld (setImg 0 s7) imgStat 10 2 src) imgStat 12 1 (shellFlags b % 2)
  let s9 := closeFeed (onLdr (fun l => { l with
    boot := 5, rx := [], checking := none
    serve := (rs.filter (fun r => r.typ = 8)).map (fun r => (leAt r.body 0 1, r.body.drop 8)) }) s8)
  takePolicy (recOf rs 5) { s9 with chip := { s9.chip with shellUp := true, loadErr := false } }

/-! ### Receiving the shell (R230 to R234) -/

/-- The attempt on a source ends with an error: the backup copy follows the primary one, and after flash the device
waits with LOAD_ERR_N asserted (R226, R230, R238). -/
def shellFail (src code : Nat) (s : State) : State :=
  let s1 := captureErr (plainErr s code) (putRx src ShellRx.reset (onLdr (fun l => { l with checking := none }) s))
  if src = 0 then setImg 1 (putRx 1 { ShellRx.reset with live := true } s1)
  else
    let s2 := whenDo (decide (src = 3)) closeFeed (setImg 2 s1)
    { s2 with chip := { s2.chip with loadErr := true } }

/-- The device reads flash copy `src`, or waits and takes frames from the head or the host. -/
def shellOpen (src : Nat) (s : State) : Bool :=
  s.chip.devState = .boot && s.ldr.boot = 4 && s.ldr.checking.isNone &&
    (if src < 2 then imgState s = 1 && (rxOf s src).live else decide (src < 4) && imgState s = 2)

/-- A frame whose CRC holds (R231). -/
def frameGood (f : List Byte) : Bool := f.length = 4100 && crc32 (f.take 4096) = leAt f 4096 4

/-- A good frame is taken; with the last one the check of the shell begins (R238). A header that cannot be read ends
the attempt. -/
def shellTake (src : Nat) (f : List Byte) (s : State) : State :=
  let r := rxOf s src
  let b := r.bytes ++ f.take 4096
  let s1 := putRx src { r with bytes := b, next := r.next + 1, tries := 0 } s
  if !shellHdrGood b then shellFail src 0x2A s1
  else if r.next + 1 = shellFrames b then setImg 3 (onLdr (fun l => { l with checking := some src }) s1)
  else s1

/-- SHELL_FRAME: a frame of flash (`flash` is what was read), or the next frame that the head (on link `l`) or the host
has delivered. -/
def shellFrame (src l : Nat) (flash : List Byte) (s : State) : State :=
  let r := rxOf s src
  if !shellOpen src s then s
  else if src < 2 then
    (if frameGood flash then shellTake src flash s
     else if r.tries = 3 then shellFail src 0x29 s else putRx src { r with tries := r.tries + 1 } s)
  else if r.buf.length < 4100 then s
  else
    let f := r.buf.take 4100
    let s1 := putRx src { r with buf := r.buf.drop 4100 } s
    if frameGood f then shellTake src f s1
    else if src = 3 then shellFail 3 0x29 s1
    else if r.tries = 3 then putRx 2 ShellRx.reset s1
    else sendService l 0x21 0 (leBytes 2 r.next) (putRx 2 { r with buf := [], tries := r.tries + 1 } s1)

def execShellFrame (src l : Nat) (flash : List Byte) (s : State) : Out := .next (shellFrame src l flash s)

/-- SH_FRAME: the head delivers a frame in boot service mode (R233). The first frame opens a new delivery. -/
def shFrame (l index : Nat) (frame : List Byte) (s : State) : State :=
  let r := rxOf s 2
  if s.chip.devState ≠ .boot ∨ s.chip.shellUp ∨ linkState s l ≠ 10 ∨ 64 ≤ l ∨ s.ldr.checking = some 2 then s
  else
    let waiting := r.next + r.buf.length / 4100
    if index = waiting then putRx 2 { r with live := true, buf := r.buf ++ frame } s
    else if index = 0 ∧ r.tries = 0 then putRx 2 { ShellRx.reset with live := true, buf := frame } s
    else s

def execShFrame (l index : Nat) (frame : List Byte) (s : State) : Out := .next (shFrame l index frame s)

/-- Frame `i` of a shell (R231): 4,096 bytes, the last one padded, and their CRC. -/
def frameOf (b : List Byte) (i : Nat) : List Byte :=
  let d := (b.drop (4096 * i)).take 4096
  let d := d ++ List.replicate (4096 - d.length) 0#8
  d ++ leBytes 4 (crc32 d)

/-- The head sends one frame of the shell of a child link. -/
def sendFrame (l i : Nat) (b : List Byte) (s : State) : State :=
  sendService l 0x20 0xFFF (leBytes 2 i ++ frameOf b i) s

/-- The head sends a child's shell once the link has trained in boot service mode (R233). -/
def serveChild (l : Nat) (s : State) : State :=
  match s.ldr.serve.find? (fun q => q.1 = l) with
  | some (_, b) => (List.range (ceilDiv b.length 4096)).foldl (fun acc i => sendFrame l i b acc) s
  | none => s

/-- SH_REQ: the child asks for a frame again (R233). -/
def shReq (l index : Nat) (s : State) : State :=
  match s.ldr.serve.find? (fun q => q.1 = l) with
  | some (_, b) => if s.chip.shellUp ∧ linkState s l = 10 ∧ index < ceilDiv b.length 4096 then sendFrame l index b s else s
  | none => s

def execShReq (l index : Nat) (s : State) : Out := .next (shReq l index s)

/-- SHELL_VERIFIED: the complete shell is checked, and takes effect or is refused (R237, R238). -/
def shellVerified (s : State) : State :=
  match s.ldr.checking with
  | none => s
  | some src =>
    if s.chip.devState ≠ .boot ∨ s.ldr.boot ≠ 4 then s
    else
      let b := (rxOf s src).bytes
      match shellCode b s with
      | some code => shellFail src code s
      | none => takeShell src b ((shellRecs (leAt b 0x0A 2) ((b.take (shellLen b)).drop 64)).getD []) s

def execShellVerified (s : State) : Out := .next (shellVerified s)

/-! ### LINK_STATE_DONE (R151, R233, R335, R346) -/

/-- The training state of a link completes. `boot`: the far end of a child link is in boot service mode. A child link
that has trained there receives its shell, and leaves it when the child's shell has taken effect. -/
def linkTrained (l lam : Nat) (boot : Bool) (s : State) : State :=
  let child := s.chip.shellUp && decide (l < 64) && s.crt.children.contains l
  if child && boot && linkState s l = 1 then serveChild l (setLinkState l 10 (putLink l (fun _ => Link.reset) s))
  else if child && linkState s l = 10 then
    (if boot then s else beginTraining l (putLink l (fun _ => Link.reset) s))
  else watchTree s (linkStateDone l lam s)

def execLinkStateDone (l lam : Nat) (boot : Bool) (s : State) : Out := .next (linkTrained l lam boot s)

/-! ### IMG_CTRL (R226, R234, R249, R257, R263, R269, R271) -/

/-- REBOOT is accepted in these states (R226). -/
def rebootAllowed (s : State) : Bool :=
  match s.chip.devState with
  | .boot | .blank | .ready | .held => true
  | .running => s.spr.waiting
  | _ => false

/-- A root refuses LOAD or RELOAD (R249, R263). -/
def reqRejected (s : State) : State := setBit s imgStat 6

/-- LOAD or RELOAD at this device: the root decides, another device forwards the request to it. Bit 31, which is
reserved, marks a forwarded request; a refusal answers it with an error. -/
def loadRequest (bitNo : Nat) (root : State → Option State) (s : State) : State :=
  if s.chip.shellUp = false then reqRejected s
  else if s.crt.isRoot then (root s).getD (reqRejected s)
  else remoteIssue .loader 0 (imgA 0) true (BitVec.ofNat 32 (2 ^ bitNo + 2 ^ 31)) s

def imgLoad (s : State) : State := loadRequest 0 rootLoad s
def imgReload (s : State) : State := loadRequest 1 rootReload s

/-- ABORT (R257, R269): the target of a reload acts itself, another device forwards it to the root. -/
def imgAbort (s : State) : State :=
  if s.crt.isRoot then rootAbortReq reloadAbandon s
  else if s.ldr.kind = 2 then reloadAbandon s
  else if s.ldr.kind = 1 ∧ s.ldr.waiting then setBit s imgStat 7
  else if s.chip.shellUp then remoteIssue .mover 0 (imgA 0) true 0x80000004 s else s

/-- SHELL_FEED: in Boot, until a shell takes effect, the feed window opens for a shell of the host (R234). -/
def imgShellFeed (s : State) : State :=
  if s.chip.devState = .boot ∧ s.chip.shellUp = false ∧ s.ldr.checking ≠ some 3 then
    openFeed (putRx 3 { ShellRx.reset with live := true } s)
  else s

def imgReboot (s : State) : State := if rebootAllowed s then enterBoot s else s

/-- A write of IMG_CTRL: each bit that is 1 makes its request. -/
def imgCtrlWrite (v : Word) (s : State) : State :=
  let s1 := whenDo (bit v 0) imgLoad s
  let s2 := whenDo (bit v 1) imgReload s1
  let s3 := whenDo (bit v 2) imgAbort s2
  let s4 := whenDo (bit v 3) imgShellFeed s3
  whenDo (bit v 4) imgReboot s4

end Sys2Proof.Machine
end

