-- ==== Sys2Proof/Machine/Attic.lean ====
section
/-! DEFINITION. The attic (chapter 15): faults and their ladder, retirement and BIST, the scrubber, and the
mailbox. -/

namespace Sys2Proof.Machine

/-- Replace the attic's state. -/
def onAtt (f : Attic → Attic) (s : State) : State := { s with att := f s.att }

/-! ### Registers that the attic computes (R608, R636 to R645) -/

/-- The lock is open (R608). -/
def lockOpen (s : State) : Bool := s.att.lifecycle = 0 || s.att.lockUntil.isSome

/-- Minutes left of the grants (R641). -/
def minutesLeft (s : State) : Nat :=
  match s.att.grantsUntil with
  | some t => min 65535 (ceilDiv (t - tb1Now s) (60 * secUnits))
  | none => 0

/-- ATT_STATUS as a read shows it (R636). -/
def attStatus (s : State) : Word :=
  let a := s.att
  let v := setFld (setFld (rdReg s (attA 0)) 0 2 a.lifecycle) 2 2 a.lcNext
  let v := setFld (setFld v 4 1 (b2n (a.lifecycle ≠ a.lcNext))) 5 1 (b2n (lockOpen s))
  if a.lifecycle = 0 then setFld v 16 3 7 else v

/-- Keys held, by slot (R640). -/
def keyMask (m : SMap (Option (BitVec 256))) : Nat :=
  (List.range 16).foldl (fun acc i => acc + 2 ^ i * b2n (mapGet none m i).isSome) 0

/-- Role code of a physical cluster (R642). -/
def roleCode (s : State) (p : Nat) : Nat :=
  match roleOf s p with
  | .active => 0
  | .spare => 1
  | .retired => if mapGet false s.chip.bistOpen p then 3 else 2

/-- Views of the ATT block. -/
def attView (s : State) (o : Nat) : Option Word :=
  let w := fun (n : Nat) => some (BitVec.ofNat 32 n)
  if o = 0 then some (attStatus s)
  else if o = 0x18 then some (setFld (rdReg s (attA 0x18)) 18 5 s.att.queue.length)
  else if o = 0x20 then w s.att.nonce.toNat
  else if o = 0x24 then w (s.att.nonce.toNat / 2 ^ 32)
  else if o = 0x28 then w (s.att.minVer + 2 ^ 24 * s.att.raises)
  else if o = 0x2C then w deviceId
  else if o = 0x30 then w (keyMask s.att.imgKeys + 2 ^ 16 * keyMask s.att.blobKeys)
  else if o = 0x34 then w (minutesLeft s)
  else if o = 0x38 then w s.att.blobCnt
  else if o = 0x3C then w (s.att.blobCnt / 2 ^ 32)
  else if 0x100 ≤ o ∧ o < 0x144 then
    let j := (o - 0x100) / 4
    w ((List.range 16).foldl (fun acc i => acc + 4 ^ i * (if 16 * j + i < 272 then roleCode s (16 * j + i) else 0)) 0)
  else if 0x200 ≤ o ∧ o < 0x300 then
    let j := (o - 0x200) / 4
    w ((List.range 4).foldl (fun acc b => acc + 2 ^ (8 * b) * (physOf s (4 * j + b) % 17)) 0)
  else if 0x300 ≤ o ∧ o < 0x360 then
    let k := (o - 0x300) / 4
    w (leNat ((List.range 4).map (fun i => Config.devicePublic (4 * k + i))))
  else none

/-! ### Repair (R262, R620) -/

/-- Sections of the resident copy that hold a unit's content. -/
def repairUnit (cls unit : Nat) (s : State) : State :=
  let redo := fun (p : Staged → Bool) (x : State) => (x.ldr.resident.filter p).foldl (fun acc q => ldSection q acc) x
  match cls with
  | 0 => match logOf s unit with
    | some m => repairCluster m s
    | none => s
  | 1 => redo (fun q => q.sect.typ = 0x20 && q.sect.unit = unit) s
  | 5 =>
    if unit = 0 then redo (fun q => q.sect.typ = 5 || q.sect.typ = 6) s
    else (s.ldr.resident.filter (fun q => q.sect.typ = 3)).foldl (fun acc q =>
      (List.range (q.text.length / 136)).foldl (fun x i =>
        if leAt q.text (136 * i) 1 + 1 = unit then
          ldWords q.text (136 * i + 8) 32 (fun j => linkA (unit - 1) (0x800 + 4 * j)) x else x) acc) s
  | _ => s

/-! ### Faults (R620 to R627) -/

/-- Base response of a kind (R620). -/
def baseResponse (kind : Nat) : Response :=
  if [0x03, 0x08, 0x09, 0x10, 0x30].contains kind then .reload
  else if [0x0A, 0x11, 0x22].contains kind then .count
  else if [0x19, 0x21, 0x28].contains kind then .retry
  else if [0x38, 0x3A].contains kind then .log
  else .replay

/-- Does the ATTICPOL flag of a class permit its retirement (R634)? -/
def mayRetire (s : State) (cls : Nat) : Bool :=
  match cls with
  | 0 => s.att.flags.getLsbD 0
  | 2 => s.att.flags.getLsbD 1
  | 3 => s.att.flags.getLsbD 2
  | 4 => s.att.flags.getLsbD 3
  | _ => false

/-- Request a rollback to the last committed epoch with a cause, as SPR_CTRL.FORCE_RB does (R213, R626). -/
def requestRollback (cause : Nat) (s : State) : State :=
  if s.crt.isRoot then issueRollback cause (devAddr s) false s
  else sendUp (.req .forceRb (BitVec.ofNat 8 cause) (devAddr s)) s

/-- A decision that the restore of the next rollback carries out (R201, R624). -/
def decideLater (d : Decision) (s : State) : State :=
  if s.att.decisions.contains d then s else onAtt (fun a => { a with decisions := a.decisions ++ [d] }) s

/-- The pending log entries of a unit become permanent or transient, and are counted (R622, R638). -/
def classifyUnit (permanent : Bool) (p : PendingOutcome → Bool) (s : State) : State :=
  let due := s.att.outcomes.filter p
  let s1 := due.foldl (fun acc q =>
    incFld (setOutcome q.index (if permanent then 2 else 1) acc) (attA 0x10) (if permanent then 16 else 0) 16) s
  onAtt (fun a => { a with outcomes := a.outcomes.filter (fun q => !p q) }) s1

/-- Retire an active unit that has a spare (R623, R626, R627): in the restore of a rollback while Running, else at once.
`kind`: of the fault, none for a request. `coming`: the fault itself brings the rollback. -/
def retireActive (cls unit : Nat) (kind : Option Nat) (coming : Bool) (s : State) : State :=
  if cls = 4 ∨ s.chip.devState ≠ .running then retireUnit cls unit s
  else
    let s1 := decideLater { cls := cls, unit := unit, resp := .retire, kind := kind } s
    whenDo (!coming && !rollbackPending s1) (requestRollback 1) s1

/-- A permanent unit (R621, R623, R625). -/
def permanentUnit (cls unit kind : Nat) (coming : Bool) (s : State) : State :=
  let s1 := classifyUnit true (fun q => q.cls = cls && q.unit = unit) s
  if !mayRetire s1 cls then enterSafe .notSpared cls unit kind s1
  else match unitRole s1 cls unit with
    | .spare => retireUnit cls unit s1
    | .active => if hasSpare s1 cls unit then retireActive cls unit (some kind) coming s1 else enterSafe .noSpare cls unit kind s1
    | _ => s1

/-- The faults of a unit in the window of 1 s that ends now (R621). -/
def hitsOf (s : State) (cls unit : Nat) : List FaultHit :=
  s.att.hits.filter (fun h => h.cls = cls && h.unit = unit && decide (tb1Now s < h.time + secUnits))

/-- A log entry of a fault, with its OUTCOME pending while it is counted (R622, R635). -/
def logFault (r : FaultRep) (resp : Response) (n : Nat) (pending : Bool) (s : State) : State :=
  let i := logCount s
  let s1 := attLog { outcome := if pending then 0 else 3, cls := r.cls, unit := r.unit, kind := r.kind, resp := respCode resp, n := n,
                     detail := r.detail, epoch := some r.epoch } s
  if pending then onAtt (fun a => { a with
      outcomes := a.outcomes ++ [{ index := i, cls := r.cls, unit := r.unit, time := tb1Now s }] }) s1
  else s1

/-- The end of a unit's BIST. -/
def bistEnd (cls unit : Nat) (s : State) : State :=
  let s1 := onAtt (fun a => { a with bists := a.bists.filter (fun q => q ≠ (cls, unit)) }) s
  if cls = 0 then { s1 with chip := { s1.chip with bistOpen := mapSet false s1.chip.bistOpen unit false } } else s1

/-- FAULT_REPORT: the attic takes the oldest report and decides (R620 to R627, R631). -/
def faultDecide (r : FaultRep) (s : State) : State :=
  let base := baseResponse r.kind
  if base = .log then logFault r .log 0 false s
  else if s.att.bists.contains (r.cls, r.unit) then bistEnd r.cls r.unit (logFault r .none 0 false s)
  else
    let old := hitsOf s r.cls r.unit
    let same := old.any (fun h => h.epoch = r.epoch && h.gen = r.gen)
    let n := old.length + (if same then 0 else 1)
    let hit : FaultHit := { cls := r.cls, unit := r.unit, epoch := r.epoch, gen := r.gen, time := tb1Now s }
    let s1 := if same then s else onAtt (fun a => { a with
      hits := a.hits.filter (fun h => decide (tb1Now s < h.time + secUnits)) ++ [hit] }) s
    let coming := base = .replay || base = .reload
    let resp := if 3 ≤ n then (if mayRetire s r.cls && hasSpare s r.cls r.unit then .retire else .safe)
      else if n = 2 ∧ [0, 1, 5].contains r.cls then .reload else base
    let s2 := logFault r resp n true s1
    if 3 ≤ n then permanentUnit r.cls r.unit r.kind coming s2
    else if resp = .reload then
      (if s.chip.devState = .running then
        whenDo (!coming && !rollbackPending s2) (requestRollback 1)
          (decideLater { cls := r.cls, unit := r.unit, resp := .reload } s2)
       else repairUnit r.cls r.unit s2)
    else s2

def faultReport (s : State) : State :=
  match s.att.reports with
  | [] => s
  | r :: rest => faultDecide r (onAtt (fun a => { a with reports := rest }) s)

def execFaultReport (s : State) : Out := .next (faultReport s)

/-- FAULT_CLASSIFY: entries older than 1 s whose unit has not reached n = 3 are transient (R622). -/
def faultClassify (s : State) : State :=
  classifyUnit false (fun q => decide (q.time + secUnits ≤ tb1Now s)) s

def execFaultClassify (s : State) : Out := .next (faultClassify s)

/-- The attic's decisions are carried out in a restore: repairs first, then retirements with the map change last (R18,
R201, R623). -/
def carryOut (s : State) : State :=
  let ds := s.att.decisions
  let s1 := onAtt (fun a => { a with decisions := [] }) s
  let s2 := (ds.filter (fun d => d.resp = .reload)).foldl (fun acc d => repairUnit d.cls d.unit acc) s1
  (ds.filter (fun d => d.resp = .retire)).foldl (fun acc d =>
    if unitRole acc d.cls d.unit ≠ .active then acc
    else if hasSpare acc d.cls d.unit then retireUnit d.cls d.unit acc
    else match d.kind with
      | some k => enterSafe .noSpare d.cls d.unit k acc
      | none => enterSafeOpen .noSpare (some d.cls) (some d.unit) acc) s2

/-! ### BIST and return to service (R629, R630) -/

/-- BIST starts on a retired unit (R629). -/
def bistStart (cls unit : Nat) (s : State) : State :=
  let s1 := onAtt (fun a => { a with bists := a.bists ++ [(cls, unit)] }) s
  match cls with
  | 0 => wakeShelf (unit / 17) 7 { s1 with chip := { s1.chip with bistOpen := mapSet false s1.chip.bistOpen unit true } }
  | 2 => let l := laneLink s unit
    whenDo (mgmtOpen s1 l) (sendCmd l 3 (rdFld s (laneA unit 4) 10 5)) (putLink l (fun k => { k with bist := some unit }) s1)
  | _ => s1

/-- A unit that passed takes a free spare position: at the next epoch boundary while Running, else at once. Without
one the pass is logged and the unit waits (R630). -/
def bistPass (cls unit : Nat) (s : State) : State :=
  let s1 := onAtt (fun a => { a with passed := a.passed.filter (fun q => q ≠ (cls, unit)) ++ [(cls, unit)] }) s
  if positionFree s1 cls unit then whenDo (decide (s.chip.devState ≠ .running)) fillPositions s1
  else unitLog 0x44 0 cls unit s1

/-- BIST_DONE. -/
def bistDone (cls unit : Nat) (ok : Bool) (s : State) : State :=
  if !s.att.bists.contains (cls, unit) then s
  else
    let s1 := bistEnd cls unit s
    if !ok then s1
    else
      let s2 := if cls = 2 then setBit s1 (laneA unit 4) 16
        else if cls = 3 then putPc unit { pcOf s1 unit with bistOk := true } s1 else s1
      bistPass cls unit s2

def execBistDone (cls unit : Nat) (ok : Bool) (s : State) : Out := .next (bistDone cls unit ok s)

/-- LANE_BIST_DONE: the link's part (R379, R380), and the attic's where it ran the test. -/
def laneBistEnd (p errors : Nat) (s : State) : State :=
  if s.att.bists.contains (2, p) then
    let l := laneLink s p
    let s1 := sendCmd l 4 (rdFld s (laneA p 4) 10 5) (putLink l (fun k => { k with bist := none }) (setBit s (lkErr l) 12))
    bistDone 2 p (errors = 0) (clrBit s1 (laneA p 4) 16)
  else laneBistDone p errors s

def execLaneBistDone (p errors : Nat) (s : State) : Out := .next (laneBistEnd p errors s)

/-- AUTO_BIST: 60 s after the last BIST of a retired unit (R629). -/
def autoBist (cls unit : Nat) (s : State) : State :=
  if s.att.flags.getLsbD 4 ∧ unitRole s cls unit = .retired ∧ s.att.bists.contains (cls, unit) = false ∧
      s.chip.devState ≠ .off ∧ s.chip.devState ≠ .boot then bistStart cls unit s
  else s

def execAutoBist (cls unit : Nat) (s : State) : Out := .next (autoBist cls unit s)

/-! ### The scrubber (R616 to R619) -/

/-- An image is loaded. -/
def imageLoaded (s : State) : Bool :=
  match s.chip.devState with
  | .ready | .running | .held => true
  | .safe => decide (s.ldr.resident ≠ [])
  | _ => false

/-- What a scrub read finds: nothing, an error corrected, an error it cannot correct. -/
inductive ScrubFind where
  | clean | corrected | bad
deriving DecidableEq, Repr

/-- The scrubber covers this unit now: not that of a spare or retired cluster, of a cluster open for BIST, of a shelf
that is not ON, or of what the loader is writing (R616, R690). -/
def scrubCovers (s : State) (a : ScrubAt) : Bool :=
  let cl := fun (p : Nat) => decide (p < 272) && decide (roleOf s p = .active) && shelfOn s (p / 17) && !mapGet false s.chip.bistOpen p &&
    !(imgState s = 14 && p / 17 = s.ldr.shelf)
  match a with
  | .bp p n e => cl p && decide (n < 128) && decide (e < 1024)
  | .we p n e => cl p && decide (n < 8) && decide (e < 1024)
  | .table x => (regRow x).isSome && (if physA 0 0 ≤ x then cl ((x - physA 0 0) / 0x400000) else true)

def scrubLook (s : State) (a : ScrubAt) : ScrubFind :=
  let of' := fun (r : Bool × Bool) => if r.2 then ScrubFind.bad else if r.1 then .corrected else .clean
  match a with
  | .bp p n e => of' (bpFetch s p n e).2
  | .we p n e => of' (weFetch s p n e).2
  | .table x => if cfgGood s x then .clean else .bad

/-- Class, unit, kind and detail of a scrub finding (R620, R635). -/
def scrubUnit (a : ScrubAt) : Nat × Nat × Nat × Nat :=
  match a with
  | .bp p n e => (0, p, 0x09, n * 1024 + e)
  | .we p n e => (0, p, 0x09, n * 1024 + e)
  | .table x =>
    if physA 0 0 ≤ x then (0, (x - physA 0 0) / 0x400000, 0x09, 0)
    else if 0x2000000 ≤ x then (1, (x - 0x2000000) / 0x100000, 0x10, 0)
    else if 0x1800000 ≤ x then (5, 1 + (x - 0x1800000) / 0x1000, 0x30, 0)
    else (5, 0, 0x30, 0)

/-- SCRUB_READ (R618). -/
def scrubRead (a : ScrubAt) (s : State) : State :=
  if !scrubCovers s a || !imageLoaded s then s
  else
    let running := s.chip.devState = .running
    match scrubLook s a with
    | .clean => s
    | .corrected =>
      let fix := match a with
        | .we p n e => (true, kWeEntry p n e)
        | .bp p n e => (false, kEntry p n e)
        | .table _ => (false, 0)
      let s1 := incFld s (attA 0xC) 0 16
      if running then onAtt (fun x => { x with scrubFix := x.scrubFix.filter (fun q => q ≠ fix) ++ [fix] }) s1
      else scrubWriteBack fix.1 fix.2 s1
    | .bad =>
      let (cls, unit, kind, detail) := scrubUnit a
      let s1 := incFld s (attA 0xC) 16 16
      if running then reportFail kind cls unit detail s1
      else attLog { outcome := 1, cls := cls, unit := unit, kind := kind, resp := respCode .reload, n := 0, detail := detail }
        (repairUnit cls unit s1)

def execScrubRead (a : ScrubAt) (s : State) : Out := .next (scrubRead a s)

/-- ATT_STATUS.VOTE: copies in the vote (R619, R636). -/
def copiesIn (s : State) : List Nat :=
  (List.range 3).filter (fun k => !s.att.condemned.contains k && !s.att.rebuilding.contains k)
def showVote (s : State) : State := wrFld s (attA 0) 12 2 (copiesIn s).length

/-- SWEEP_END: the voter's finding, and its heartbeat (R617, R619). -/
def sweepEnd (v : ScrubVote) (s : State) : State :=
  if s.chip.devState = .off ∨ s.chip.devState = .safe then s
  else
    let s1 := wrFld s (attA 8) 0 16 (rdFld s (attA 8) 0 16 + 1)
    match v with
    | .agree => s1
    | .disagree => enterSafeOpen .scrub (some 8) none s
    | .romBad => enterSafeOpen .rom (some 8) none s
    | .odd k =>
      if !(copiesIn s).contains k then s1
      else if (copiesIn s).length < 3 then enterSafeOpen .scrub (some 8) (some k) s
      else showVote (report 0x3A 8 k 0 (onAtt (fun a => { a with rebuilding := [k] }) (incFld s1 (attA 8) 16 8)))

def execSweepEnd (v : ScrubVote) (s : State) : Out := .next (sweepEnd v s)

/-- SCRUB_COPY_REBUILT: the third rebuild within 1 s condemns the copy (R619). -/
def copyRebuilt (k : Nat) (s : State) : State :=
  if !s.att.rebuilding.contains k then s
  else
    let now := tb1Now s
    let ts := (mapGet [] s.att.rebuilds k).filter (fun t => decide (now < t + secUnits)) ++ [now]
    let s1 := onAtt (fun a => { a with rebuilding := a.rebuilding.filter (fun x => x ≠ k), rebuilds := mapSet [] a.rebuilds k ts }) s
    if ts.length < 3 then showVote s1
    else showVote (setBit (onAtt (fun a => { a with condemned := a.condemned ++ [k] }) s1) (attA 8) (24 + k))

def execScrubCopyRebuilt (k : Nat) (s : State) : Out := .next (copyRebuilt k s)

/-- SCRUB_WATCHDOG: no heartbeat in time (R619). -/
def execScrubWatchdog (s : State) : Out := .next (enterSafeOpen .watchdog (some 8) none s)

/-! ### The lock, grants and the challenge (R608, R614, R615) -/

def execLockExpiry (s : State) : Out :=
  .next (if s.att.lockUntil.any (fun t => decide (t ≤ tb1Now s)) then onAtt (fun a => { a with lockUntil := none }) s else s)

def execChallengeExpiry (s : State) : Out :=
  .next (if s.att.challenge.any (fun q => decide (q.2 ≤ tb1Now s)) then onAtt (fun a => { a with challenge := none }) s else s)

/-- GRANTS takes a value; where GTRACE ends with it, sources that trace guarded code exclude it (R656). -/
def setGrants (n : Nat) (s : State) : State :=
  let t := wrFld s (attA 0) 16 3 n
  whenDo (granted s 0 && !granted t 0) traceGrantEnds t

/-- Every grant ends. -/
def endGrants (s : State) : State := onAtt (fun a => { a with grantsUntil := none }) (setGrants 0 s)

def execGrantExpiry (s : State) : Out :=
  .next (if s.att.grantsUntil.any (fun t => decide (t ≤ tb1Now s)) then endGrants s else s)

/-! ### The mailbox queue (R609, R701) -/

/-- Submit a request: the new state and its ticket, none while the queue is full. -/
def submitMb (who : MbWho) (bytes : List Byte) (s : State) : State × Option Nat :=
  let t := s.att.nextTicket.toNat
  if 16 ≤ s.att.queue.length then
    ((if who = .host then setBit s (attA 0x18) 16 else s), none)
  else
    let s1 := onAtt (fun a => { a with nextTicket := a.nextTicket + 1, queue := a.queue ++ [{ ticket := t, who := who, bytes := bytes }] }) s
    ((if who = .host then clrBit (wrFld s1 (attA 0x18) 0 16 t) (attA 0x18) 16 else s1), some t)

/-! ### A request (R610, R611) -/

def mbCmd (b : List Byte) : Nat := leAt b 4 2
def mbKind (b : List Byte) : Nat := leAt b 8 1
def mbArg (b : List Byte) (o n : Nat) : Nat := leAt b (0x24 + o) n
/-- Bytes of the trailer (R610). -/
def mbTrailer (b : List Byte) : Nat := if mbKind b = 0 then 0 else if mbKind b = 3 then 64 else 128
/-- Every byte before the trailer. -/
def mbText (b : List Byte) : List Byte := b.take (b.length - mbTrailer b)
def mbBody (b : List Byte) : List Byte := (mbText b).drop 0x40

def mbCommands : List Nat :=
  [0x01, 0x02, 0x03, 0x10, 0x11, 0x12, 0x20, 0x21, 0x22, 0x23, 0x30, 0x31, 0x40, 0x41, 0x42, 0x43, 0x44]

/-- Bytes of ARGS that a command uses, as offset and length; the others are 0 (R610, R614). -/
def mbArgBytes (cmd : Nat) : List Nat :=
  match cmd with
  | 0x02 | 0x23 => [0, 1, 2, 3]
  | 0x30 | 0x31 | 0x43 => [0, 1]
  | 0x40 | 0x41 => [0, 2, 3]
  | _ => []

/-- Bytes of the body of a command; what follows up to the trailer is 0. -/
def mbBodyLen (cmd : Nat) : Nat :=
  match cmd with
  | 0x11 => 192
  | 0x20 => 288
  | 0x30 => 136
  | _ => 0

/-- Header, LEN, trailer and body have the layout of R610, and DEVICE_ID matches. -/
def mbFormat (b : List Byte) : Bool :=
  let cmd := mbCmd b
  let tr := mbTrailer b
  decide (64 ≤ b.length) && decide (b.length ≤ 4096) && b.length % 64 = 0 && b.take 4 = [0x53, 0x56, 0x5A, 0x4D] &&
    mbCommands.contains cmd && leAt b 6 2 = b.length && decide (mbKind b ≤ 3) && allZero ((b.drop 9).take 3) &&
    leAt b 0x0C 4 = deviceId && (mbKind b ≠ 0 || leAt b 0x10 8 = 0) && decide (0x40 + tr ≤ b.length) &&
    (if tr = 0 then true else allZero (b.drop (b.length - (if tr = 64 then 48 else 32)))) &&
    (List.range 28).all (fun i => (mbArgBytes cmd).contains i || mbArg b i 1 = 0) &&
    (mbBody b).length = roundUpTo (mbBodyLen cmd) 64 && allZero ((mbBody b).drop (mbBodyLen cmd))

/-- Kinds of signature that the attic accepts from a requester (R611, R614). -/
def sigAccepted (s : State) (who : MbWho) (kind : Nat) : Bool :=
  match kind with
  | 1 => decide (s.att.ownerCmd ≠ []) && decide (s.att.lifecycle ≠ 3)
  | 2 => true
  | 3 => decide (who ≠ .host) && s.att.flags.getLsbD 5
  | _ => true

/-- The trailer verifies over every byte before it. -/
def sigVerifies (s : State) (b : List Byte) : Bool :=
  let text := mbText b
  let tr := b.drop text.length
  match mbKind b with
  | 1 => Config.ecdsaGood s.att.ownerCmd text (tr.take 96)
  | 2 => Config.ecdsaGood Config.vendorKey text (tr.take 96)
  | 3 => match s.att.session with
    | some k => Config.cmac k text = tr.take 16
    | none => false
  | _ => true

/-- Does the command need a signature here (R614)? -/
def needsSig (s : State) (who : MbWho) (cmd : Nat) : Bool :=
  !(decide (s.att.lifecycle = 0) || [0x01, 0x02, 0x10, 0x11, 0x12, 0x20, 0x44].contains cmd ||
    (decide (who = .host) && s.att.flags.getLsbD 6 && decide (0x40 ≤ cmd) && decide (cmd ≤ 0x43)))

/-- Is the signer one that the command accepts? The vendor signs RETURN only. -/
def signerFits (s : State) (who : MbWho) (cmd kind : Nat) : Bool :=
  kind ≠ 2 || cmd = 0x22 || !needsSig s who cmd

/-- The first refusal of a request before its command is looked at, as a STATUS (R613). -/
def mbRefusal (s : State) (r : MbReq) : Option Nat :=
  let b := r.bytes
  let kind := mbKind b
  if !mbFormat b then some 1
  else if (kind = 0 && needsSig s r.who (mbCmd b)) || !sigAccepted s r.who kind then some 2
  else if kind ≠ 0 ∧ leAt b 0x10 8 ≠ s.att.nonce.toNat then some 3
  else if !sigVerifies s b then some 2
  else if !signerFits s r.who (mbCmd b) kind then some 4
  else none

/-! ### What the commands do (R614, R615, R628, R629): a status, an answer and the state -/

/-- The result of a command: STATUS, answer, state. -/
abbrev MbOut := Nat × List Byte × State

def mbStatus (s : State) : MbOut :=
  (0, (List.range 13).flatMap (fun i => leBytes 4 ((attView s (4 * i)).getD (rdReg s (attA (4 * i)))).toNat), s)

/-- Entries that the log holds since it was last emptied, by number, oldest first. -/
def logHeld (s : State) : List Nat :=
  let n := logCount s
  let from' := max s.att.logFrom (n - 256)
  List.range' from' (n - from')

def mbLogRead (b : List Byte) (s : State) : MbOut :=
  let n := mbArg b 2 2
  if n = 0 ∨ 256 < n then (5, [], s)
  else (0, (((logHeld s).drop (mbArg b 0 2)).take n).flatMap (fun i =>
    (List.range 4).flatMap (fun w => leBytes 4 (rdReg s (attA (0x1000 + 16 * (i % 256) + 4 * w))).toNat)), s)

def mbLogClear (s : State) : MbOut :=
  (0, [], onAtt (fun a => { a with logFrom := logCount s, outcomes := [] })
    { s with regs := s.regs.filter (fun q => !(0x1000 ≤ q.1 && q.1 < 0x2000)) })

def mbChallenge (s : State) : MbOut :=
  let (n, s1) := takeFree s
  let c := (List.range 32).map (fun i => Config.randomByte n i)
  (0, c, onAtt (fun a => { a with challenge := some (c, tb1Now s + 60 * secUnits) }) s1)

/-- The public key of a token's signer, where the lifecycle accepts it (R602, R615). -/
def tokenKey (s : State) (signer : Nat) : Option (List Byte) :=
  match s.att.lifecycle, signer with
  | 1, 1 | 2, 1 => some s.att.ownerDbg
  | 1, 2 | 3, 2 => some Config.vendorKey
  | _, _ => none

/-- DEBUG_AUTH: the token is accepted or refused, and consumes the challenge either way (R615). -/
def mbDebugAuth (b : List Byte) (s : State) : MbOut :=
  let t := mbBody b
  let s1 := onAtt (fun a => { a with challenge := none }) s
  let grants := leAt t 0x24 2
  let minutes := leAt t 0x26 2
  if allZero ((t.drop 0x29).take 23) = false ∨ allZero ((t.drop 0xA0).take 32) = false ∨ leAt t 0x20 4 ≠ deviceId then (1, [], s1)
  else if 8 ≤ grants ∨ minutes = 0 ∨ 1440 < minutes then (5, [], s1)
  else match tokenKey s (leAt t 0x28 1) with
    | none => (4, [], s1)
    | some key =>
      if s.att.challenge.any (fun q => q.1 = t.take 32) && Config.ecdsaGood key (t.take 64) ((t.drop 0x40).take 96) then
        (0, [], onAtt (fun a => { a with grantsUntil := some (tb1Now s + minutes * 60 * secUnits) }) (setGrants grants s1))
      else (7, [], s1)

def mbProvision (b : List Byte) (s : State) : MbOut :=
  let k := fun (i : Nat) => ((mbBody b).drop (96 * i)).take 96
  if s.att.lifecycle ≠ 0 ∨ s.att.lcNext ≠ 0 then (4, [], s)
  else (0, [], onAtt (fun a => { a with
    ownerCmd := k 0, ownerDbg := k 1, custShell := if allZero (k 2) then [] else k 2, lcNext := 1 }) s)

def mbDeploy (s : State) : MbOut :=
  if s.att.lifecycle = 1 ∧ s.att.lcNext = 1 then (0, [], onAtt (fun a => { a with lcNext := 2 }) s) else (4, [], s)

def mbReturn (s : State) : MbOut :=
  if (s.att.lifecycle = 1 ∨ s.att.lifecycle = 2) ∧ s.att.lcNext ≠ 3 then
    (0, [], endGrants (onAtt (fun a => { a with imgKeys := [], blobKeys := [], lcNext := 3 }) s))
  else (4, [], s)

def mbSetMinver (b : List Byte) (s : State) : MbOut :=
  let v := mbArg b 0 4
  if v ≤ s.att.minVer ∨ 2 ^ 24 ≤ v then (5, [], s)
  else if s.att.raises = 0 then (6, [], s)
  else (0, [], onAtt (fun a => { a with minVer := v, raises := a.raises - 1 }) s)

/-- Fill or empty a key slot. -/
def putKeySlot (b : List Byte) (k : Option (BitVec 256)) (s : State) : State :=
  let i := mbArg b 1 1
  onAtt (fun a => if mbArg b 0 1 = 0 then { a with imgKeys := mapSet none a.imgKeys i k }
    else { a with blobKeys := mapSet none a.blobKeys i k }) s

def mbKeyLoad (b : List Byte) (s : State) : MbOut :=
  if 1 < mbArg b 0 1 ∨ 15 < mbArg b 1 1 then (5, [], s)
  else if s.att.lifecycle = 3 ∨ s.att.lcNext = 3 then (4, [], s)
  else match Config.unwrapKey ((mbBody b).take 136) with
    | some k => (0, [], putKeySlot b (some k) s)
    | none => (7, [], s)

def mbKeyClear (b : List Byte) (s : State) : MbOut :=
  if 1 < mbArg b 0 1 ∨ 15 < mbArg b 1 1 then (5, [], s) else (0, [], putKeySlot b none s)

/-- The unit that RETIRE or BIST names is one of its class. -/
def unitInRange (cls unit : Nat) : Bool :=
  match cls with
  | 0 => decide (unit < 272)
  | 2 => decide (unit < 256)
  | 3 => decide (unit < 128)
  | 4 => decide (unit < 32)
  | _ => false

def mbRetire (b : List Byte) (s : State) : MbOut :=
  let cls := mbArg b 0 1
  let unit := mbArg b 2 2
  if !unitInRange cls unit then (5, [], s)
  else match unitRole s cls unit with
    | .spare => (0, [], retireUnit cls unit s)
    | .active => if hasSpare s cls unit then (0, [], retireActive cls unit none false s) else (6, [], s)
    | _ => (6, [], s)

def mbBist (b : List Byte) (s : State) : MbOut :=
  let cls := mbArg b 0 1
  let unit := mbArg b 2 2
  if !unitInRange cls unit then (5, [], s)
  else if unitRole s cls unit = .retired ∧ s.att.bists.contains (cls, unit) = false then (0, [], bistStart cls unit s)
  else (6, [], s)

/-- RESTART: the answer comes before the entry to Boot (R226, R632). -/
def mbRestart (s : State) : MbOut := if s.chip.devState = .safe then (0, [], s) else (6, [], s)

def mbLockOpen (b : List Byte) (s : State) : MbOut :=
  let n := mbArg b 0 2
  if n = 0 ∨ 600 < n then (5, [], s)
  else (0, [], onAtt (fun a => { a with lockUntil := some (tb1Now s + n * secUnits) }) s)

/-! ### The answer (R612, R613) -/

/-- May the response buffer of a requester be written: the open area, and for a steward the sealed general area and
the firmware area too? -/
def respBufferOk (who : MbWho) (b : List Byte) (s : State) : Bool :=
  let off := leAt b 0x18 8
  let n := leAt b 0x20 4
  off % 64 = 0 && n % 64 = 0 && decide (64 ≤ n) && decide (n ≤ 65536) && decide (off + n ≤ 2 ^ 36) &&
    (rangeRegions off n).all (fun r => match regionUse s r with
      | 3 => true
      | 1 | 4 => who ≠ .host
      | _ => false)

/-- The response as it lies in the buffer. -/
def respBytes (r : MbReq) (status : Nat) (data : List Byte) : List Byte :=
  let room := leAt r.bytes 0x20 4 - 64
  let st := if room < data.length then 8 else status
  let out := data.take room
  leBytes 2 r.ticket ++ leBytes 2 (mbCmd r.bytes) ++ leBytes 4 st ++ leBytes 4 out.length ++ List.replicate 52 0#8 ++ out

/-- The completion signal of a request (R613). -/
def mbSignal (who : MbWho) (s : State) : State :=
  match who with
  | .host => hostEvent 0 s
  | .steward p => raiseLine p 2 s

/-- Complete a request: nonce, log of a refused signed request, answer and signal (R611, R612, R613, R635). -/
def mbComplete (r : MbReq) (accepted : Bool) (o : MbOut) : State :=
  let (status, data, s) := o
  let signed := mbKind r.bytes ≠ 0
  let s1 := if signed && accepted then onAtt (fun a => { a with nonce := a.nonce + 1 }) s else s
  let s2 := whenDo (signed && decide (status ≠ 0))
    (attLog { outcome := 3, cls := 9, unit := 0, kind := 0x43, resp := 0, n := 0, detail := status }) s1
  let ok := respBufferOk r.who r.bytes s2
  let s3 := if ok then celPut .attic (leAt r.bytes 0x18 8) (respBytes r status data) s2 else s2
  let s4 := if r.who = .host then wrFld s3 (attA 0x18) 17 1 (b2n (!ok)) else s3
  mbSignal r.who s4

/-- The attic takes the oldest request and serves it with what `f` does for its command; a request for a command that
does not exist is refused by whichever row takes it. -/
def serveMb (cmd : Nat) (f : List Byte → State → MbOut) (s : State) : State :=
  match s.att.queue with
  | [] => s
  | r :: rest =>
    let known := mbCommands.contains (mbCmd r.bytes)
    if s.chip.devState = .off ∨ (known ∧ mbCmd r.bytes ≠ cmd) then s
    else
      let s1 := onAtt (fun a => { a with queue := rest }) s
      match mbRefusal s1 r with
      | some st => mbComplete r false (st, [], s1)
      | none => mbComplete r true (f r.bytes s1)

def execStatus (s : State) : Out := .next (serveMb 0x01 (fun _ => mbStatus) s)
def execLogRead (s : State) : Out := .next (serveMb 0x02 mbLogRead s)
def execLogClear (s : State) : Out := .next (serveMb 0x03 (fun _ => mbLogClear) s)
def execChallenge (s : State) : Out := .next (serveMb 0x10 (fun _ => mbChallenge) s)
def execDebugAuth (s : State) : Out := .next (serveMb 0x11 mbDebugAuth s)
def execDebugRevoke (s : State) : Out := .next (serveMb 0x12 (fun _ x => (0, [], endGrants x)) s)
def execProvision (s : State) : Out := .next (serveMb 0x20 mbProvision s)
def execDeploy (s : State) : Out := .next (serveMb 0x21 (fun _ => mbDeploy) s)
def execReturn (s : State) : Out := .next (serveMb 0x22 (fun _ => mbReturn) s)
def execSetMinver (s : State) : Out := .next (serveMb 0x23 mbSetMinver s)
def execKeyLoad (s : State) : Out := .next (serveMb 0x30 mbKeyLoad s)
def execKeyClear (s : State) : Out := .next (serveMb 0x31 mbKeyClear s)
def execRetire (s : State) : Out := .next (serveMb 0x40 mbRetire s)
def execBist (s : State) : Out := .next (serveMb 0x41 mbBist s)
def execLockOpen (s : State) : Out := .next (serveMb 0x43 mbLockOpen s)
def execLockClose (s : State) : Out :=
  .next (serveMb 0x44 (fun _ x => (0, [], onAtt (fun a => { a with lockUntil := none }) x)) s)

/-- RESTART is accepted for the request at the head of the queue, in Safe. -/
def restartTaken (s : State) : Bool :=
  match s.att.queue with
  | r :: _ => s.chip.devState = .safe && mbCmd r.bytes = 0x42 && (mbRefusal s r).isNone
  | [] => false

def execRestart (s : State) : Out :=
  .next (whenDo (restartTaken s) enterBoot (serveMb 0x42 (fun _ => mbRestart) s))

end Sys2Proof.Machine
end

