-- ==== Sys2Proof/Machine/EpochEvents.lean ====
section
/-! DEFINITION. The boundary extension, the commit and the rollback of epochs, and requests to the root (chapter 05). -/

namespace Sys2Proof.Machine

def onSpr (f : Spring → Spring) (s : State) : State := { s with spr := f s.spr }

/-! ### Settings at an epoch boundary (R77, R78, R178, R183, R286) -/

/-- A BPC_STATUS register. -/
def isBpcStatus (a : Nat) : Bool :=
  physA 0 0 ≤ a && a < physA 272 0 && 0x290000 ≤ (a - physA 0 0) % 0x400000 && (a - physA 0 0) % 0x400000 < 0x2A0000 &&
    (a - physA 0 0) % 0x200 = 0x18

/-- INJ_PEND reads 1 while a staged value of its BP waits (R77). -/
def showInjPend (s : State) : State :=
  (s.regs.filter (fun q => isBpcStatus q.1 && bit q.2 4)).foldl (fun acc q =>
    if s.cl.injStaged.any (fun x => q.1 - 0x18 ≤ x.1 && x.1 < q.1) then acc else clrBit acc q.1 4) s

/-- Later staged writes replace earlier ones of the same register (R77). -/
def mergeOver (old new : SMap Word) : SMap Word := new.foldl (fun acc q => mapIns (mapDel acc q.1) q.1 q.2) old

/-- Writes that came in the extension wait for the next boundary. -/
def nextStaged (s : State) : State :=
  showInjPend { s with
    cl := { s.cl with injStaged := mergeOver s.cl.injStaged s.cl.injLater, injLater := [] }
    cmp := { s.cmp with staged := mergeOver s.cmp.staged s.cmp.stagedLater, stagedLater := [] } }

/-- The inject, compare and CEN settings of an epoch record come into force (R78, R178, R286). -/
def recordedSettings (r : EpochRec) (s : State) : State :=
  let s1 := putSettings isInjectReg r.inject s
  let s2 := { s1 with regs := mapKeep (fun a => !isCmpSetting a) s1.regs }
  setCen r.cen (r.cmpSet.foldl (fun acc q => cmpApply q.1 q.2 acc) s2)

/-- Change the bank where it differs (R183). -/
def takeBank (b : Nat) (s : State) : State := if splitImage s ∧ s.spr.bank ≠ b then setBank b s else s

def recOfEpoch (s : State) (e : Nat) : Option EpochRec := s.spr.epochRecs.find? (fun r => r.epoch = e)

/-- The staged settings, CEN and the bank request of a first run of epoch `e` (R190). What an earlier pass took for an
epoch that then did not begin is in its record. -/
def freshSettings (e : Nat) (s : State) : State :=
  let s1 := match recOfEpoch s e with
    | some r => recordedSettings r s
    | none => s
  let s2 := s1.cl.injStaged.foldl (fun acc q => wrReg acc q.1 q.2) s1
  let s3 := s2.cmp.staged.foldl (fun acc q => cmpApply q.1 q.2 acc) s2
  let due := s3.spr.cenNext.filter (fun q => q.1 ≤ e)
  let s4 := match due.getLast? with
    | some q => setCen q.2 s3
    | none => s3
  let s5 := match s4.spr.bankReq with
    | some b => takeBank b s4
    | none => s4
  { s5 with
    cl := { s5.cl with injStaged := [] }
    cmp := { s5.cmp with staged := [] }
    spr := { s5.spr with bankReq := none, cenNext := s5.spr.cenNext.filter (fun q => e < q.1) } }

/-- A CLR of CMP_SWEEP_CTRL that waits for the next epoch is part of that epoch's record (R286, R316). -/
def clrStaged (s : State) : Bool := s.cmp.staged.any (fun q => q.1 = cmpA 0x70 && bit q.2 1)

def putRecordOf (r : EpochRec) (s : State) : State :=
  onSpr (fun x => { x with epochRecs := x.epochRecs.filter (fun q => q.epoch ≠ r.epoch) ++ [r] }) s

/-- X128 and X129: the record and the settings of the epoch that begins next (R190). -/
def nextEpoch (e : Nat) (s : State) : State :=
  if e < s.spr.replayEnd then
    match recOfEpoch s e with
    | some r =>
      let s1 := onSpr (fun x => { x with bankReq := none }) (takeBank r.bank (recordedSettings r s))
      putRecordOf { r with gen := s1.spr.gen } s1
    | none => s
  else
    let clr := clrStaged s || (recOfEpoch s e).any (fun r => r.cmpSet.any (fun q => q.1 = cmpA 0x70 && bit q.2 1))
    let s1 := freshSettings e s
    let r := epochRecord s1 e
    let word := rdReg s1 (cmpA 0x70) ||| 2#32
    putRecordOf (if clr then { r with cmpSet := mapIns (mapDel r.cmpSet (cmpA 0x70)) (cmpA 0x70) word } else r) s1

/-- BOUNDARY_EXTENSION (R190): the snapshot, the record and settings of the next epoch, and the units and settings that
change at an epoch boundary (R266, R298, R379, R630). -/
def boundaryExtension (s : State) : State :=
  if s.chip.devState = .running ∧ s.spr.pos = .extension then
    let e := curEpoch s
    let k := e - 1
    let work : CkptWork := { epoch := k, snapshot := true, undo := undoCount s k ≠ 0, inlet := s.spr.logged }
    let s1 := onSpr (fun x => { x with
      snapshots := x.snapshots.filter (fun q => q.epoch ≠ k && x.commit.toNat ≤ q.epoch + 1) ++ [takeSnapshot s k]
      epochRecs := x.epochRecs.filter (fun q => x.commit.toNat ≤ q.epoch)
      ckpt := x.ckpt ++ [work]
      logged := false
      pos := .idle }) s
    let s2 := nextStaged (nextEpoch e (cmpEpochEnd k s1))
    let s3 := wrReg (clrBit s2 (cmpA 0x58) 6) (sprA 0x58) 0
    let s4 := reloadBoundary e (laneReturns (fillPositions s3))
    let s5 := if s4.spr.phase = .replay ∧ s4.spr.replayEnd ≤ e then setPhase .firstRun s4 else s4
    checkHold s5
  else s

def execBoundaryExtension (s : State) : Out := .next (boundaryExtension s)

/-! ### Commit (R199, R300, R376) -/

/-- Three result words to a RESULT flit (R376). -/
def threes : List (BitVec 64) → List (List (BitVec 64))
  | a :: b :: c :: rest => [a, b, c] :: threes rest
  | [] => []
  | l => [l]

/-- The RESULT flits of a port (R364, R376). -/
def portResults (l : Nat) (words : List (BitVec 64)) (s : State) : State :=
  (threes words).foldl (fun acc w =>
    let q := (linkOf acc l).txStream
    putLink l (fun k => { k with txStream := (q + 1) % 2048 })
      { acc with outbox := .resultFlit l q w :: acc.outbox }) s

/-- Tick results of a committed epoch on every port with RESULTS = 1 (R300, R376). -/
def sendResults (k : Nat) (s : State) : State :=
  let words := (s.cmp.results.filter (fun r => r.epoch = k)).map resultWord
  ((streamPorts s).filter (fun l => rdBit s (linkA l 0x100) 13 && linkState s l = 8)).foldl
    (fun acc l => portResults l words acc) s

/-- Commit of the next epoch `k` at this device (R199). -/
def commitEpoch (k : Nat) (s : State) : State :=
  let s1 := cmpCommit k (sendResults k s)
  let first := (k + 1) * epochLen s
  let s2 := { s1 with
    cl := { s1.cl with undo := s1.cl.undo.filter (fun u => k < u.epoch) }
    spr := { s1.spr with
      commit := BitVec.ofNat 48 (k + 1)
      waiting := false
      snapshots := s1.spr.snapshots.filter (fun q => k ≤ q.epoch)
      epochRecs := s1.spr.epochRecs.filter (fun q => k < q.epoch)
      inletLog := s1.spr.inletLog.filter (fun r => first ≤ r.tick)
      ckpt := s1.spr.ckpt.filter (fun w => k < w.epoch)
      alarms := mapKeep (fun e => k < e) s1.spr.alarms
      fails := s1.spr.fails.filter (fun f => k < f.1)
      stops := s1.spr.stops.filter (fun e => k < e)
      votes := s1.spr.votes.filter (fun v => k < v.epoch)
      sent := s1.spr.sent.filter (fun q => k < q.1) } }
  reloadCommit k (irqAll 4 s2)

/-! ### The restore (R201, R65, R116, R152, R269) -/

/-- The old content of an undo record goes back to its entry; that of a paged room to its frame. -/
def undoOne (u : UndoRec) (s : State) : State :=
  let p := physOf s u.cluster
  let w := roomWidth s p u.room
  let put := fun (row b : Nat) => rowWrite (row + b / 64) (b % 64) w u.old s
  if u.paged then
    match residentFrame s p u.room u.page with
    | some f => put (frameRow p u.room f.idx) (u.ofs * padWidth w)
    | none => s
  else put (kRow p u.room 0) (u.page * padWidth w)

/-- Apply the undo records of epochs `j` and above, newest first. -/
def undoFrom (j : Nat) (s : State) : State :=
  let s1 := (s.cl.undo.filter (fun u => j ≤ u.epoch)).foldl (fun acc u => undoOne u acc) s
  { s1 with cl := { s1.cl with undo := s1.cl.undo.filter (fun u => u.epoch < j), undoQ := [], undoBuf := 0 } }

/-- The shelf under reload is written again in this restore (R269). -/
def shelfRewritten (s : State) (j : Nat) : Bool :=
  (imgState s = 14 || imgState s = 15) && shelfDetachedIn s j

/-- Flops and edge latches of the end of epoch `j` - 1, or of the initial checkpoint. -/
def restoreModel (j : Nat) (s : State) : State :=
  let snap := if j = 0 then s.spr.initial else s.spr.snapshots.find? (fun q => q.epoch + 1 = j)
  let again := shelfRewritten s j
  let s1 := match snap with
    | some c =>
      let x := restoreFlops c.flops (fun m => !(again && m / 16 = s.ldr.shelf)) s
      { x with cl := { x.cl with latch := c.latches, latchOld := [] } }
    | none => s
  if again then setImg (imgState s1) (reloadWrite s1) else s1

/-- Tick `jE`, with the script position and the decision of the record of epoch `j`. -/
def restorePosition (j : Nat) (s : State) : State :=
  let s1 := match recOfEpoch s j with
    | some r => onSpr (fun x => { x with entry := r.entry, left := r.left, decision := r.decision, cls := entryClass s r.entry }) s
    | none => s
  let first := j * epochLen s
  onSpr (fun x => { x with
    tick := BitVec.ofNat 48 first
    pos := .idle
    decides := mapKeep (fun n => n < first + decLead s) x.decides
    orders := x.orders.filter (fun m => match m with
      | .decide _ n => n < first + decLead s
      | .commit .. => false
      | _ => true)
    bankReq := none }) s1

/-- Ticks stop at the current step; signal items in the elastic buffers and results of the epochs are dropped. -/
def stopTicks (s : State) : State :=
  { s with
    cl := { s.cl with written := [], probe := [] }
    lnk := s.lnk.map (fun q => (q.1, { q.2 with items := [] }))
    spr := { s.spr with pos := .idle, armed := false } }

/-- The device returns to the end of epoch `j` - 1. -/
def restoreTo (j : Nat) (s : State) : State := restorePosition j (cmpRestore j (restoreModel j (undoFrom j (stopTicks s))))

/-! ### COMMIT (R186, R199, R208) -/

/-- A COMMIT with the STOP flag: ticks stop at once, the end of epoch `k` is restored, and the device is Held (R208). -/
def stopCommit (k : Nat) (s : State) : State :=
  let s1 := wrFld (wrFld (restoreTo (k + 1) s) (sprA 0x54) 0 4 6) (sprA 0x54) 4 12 0
  let s2 := carryOut s1
  if s2.chip.devState = .safe then s2 else enterHeld s2

/-- A message from the head, or the root's own, whose generation must be the current one (R186). -/
def fromHeadGen (h : Option SpringHdr) (msg : SpringMsg) (s : State) : State × Bool :=
  match h with
  | some x =>
    if x.gen = s.spr.gen then fromHead h msg s
    else ((springFlit s.crt.uplink.toList x s).1, false)
  | none => fromHead h msg s

def commitEv (h : Option SpringHdr) (k : Nat) (stop : Bool) (s : State) : State :=
  actOn (fromHeadGen h (.commit k stop) s) (fun x =>
    if x.chip.devState = .running ∧ x.spr.phase ≠ .rollback ∧ k = x.spr.commit.toNat then
      let y := commitEpoch k x
      if stop then stopCommit k y else rootCommit (checkHold y)
    else x)

def execCommit (h : Option SpringHdr) (k : Nat) (stop : Bool) (s : State) : Out := .next (commitEv h k stop s)

/-! ### ROLLBACK (R186, R199 to R205) -/

/-- The first epoch that has not begun: what ran before is a replay (R201, R202). -/
def begunEnd (s : State) : Nat :=
  let e := curEpoch s
  if s.spr.pos = .schedule ∨ s.spr.tick.toNat % epochLen s ≠ 0 then e + 1 else e

/-- The device acts on a ROLLBACK to target `j` (R201): commits below it, the restore, the attic's decisions, and the map
last. -/
def rollbackTo (j ts cause origin : Nat) (hold : Bool) (s : State) : State :=
  let s0 := (List.range' s.spr.commit.toNat (j - s.spr.commit.toNat)).foldl (fun acc k => commitEpoch k acc) s
  let again := max s0.spr.replayEnd (begunEnd s0)
  let part : List CkptWork :=
    if s0.spr.logged then [{ epoch := curEpoch s0, snapshot := false, undo := false, inlet := true }] else []
  let keep := (s0.spr.ckpt.map (fun w => { w with snapshot := false, undo := false })).filter (fun w => w.inlet)
  let s1 := incFld (wrFld (wrFld s0 (sprA 0x54) 0 4 cause) (sprA 0x54) 4 12 origin) (sprA 0x50) 0 16
  let s2 := setPhase .rollback (restoreTo j (onSpr (fun x => { x with
    fails := [], stops := [], votes := [], sent := [], rbDone := [], waiting := false, logged := false
    ckpt := keep ++ part
    replayEnd := again
    rb := some { target := j, start := ts, cause := cause, origin := origin, hold := hold, restored := true, done := false }
    }) s1))
  let s3 := match recOfEpoch s2 j with
    | some r => takeBank r.bank (recordedSettings r s2)
    | none => s2
  let s4 := onSpr (fun x => { x with
    armed := !hold
    segStart := ts
    segTick := BitVec.ofNat 48 (j * epochLen s3)
    segSteps := 0 }) s3
  showPorts (carryOut s4)

/-- A device in Safe has nothing to restore and waits for its subtree (R205). -/
def safeRollback (j ts cause origin : Nat) (hold : Bool) (s : State) : State :=
  onSpr (fun x => { x with
    rbDone := []
    rb := some { target := j, start := ts, cause := cause, origin := origin, hold := hold, restored := true, done := false }
    }) s

/-- ROLLBACK: the generation it carries becomes the current one before the order goes on to the children. -/
def rollbackEv (h : Option SpringHdr) (j ts cause origin : Nat) (hold : Bool) (s : State) : State :=
  let msg : SpringMsg := .rollback j ts cause origin hold
  let act := fun (x : State) =>
    let y := onSpr (fun z => { z with lastRb := some msg }) x
    if (y.chip.devState = .running ∨ y.chip.devState = .held) ∧ y.spr.commit.toNat ≤ j then
      rollbackTo j ts cause origin hold y
    else if y.chip.devState = .safe then safeRollback j ts cause origin hold y
    else y
  match h with
  | some q =>
    actOn (springFlit s.crt.uplink.toList q s) (fun x =>
      let y := wrFld (onSpr (fun z => { z with gen := q.gen }) x) (sprA 0x54) 16 8 q.gen.toNat
      let z := sendDown msg y
      if q.gen = s.spr.gen then z else act z)
  | none => actOn (fromHead none msg s) act

def execRollback (h : Option SpringHdr) (j ts cause origin : Nat) (hold : Bool) (s : State) : Out :=
  .next (rollbackEv h j ts cause origin hold s)

/-! ### Requests to the root (R178, R206, R207, R209, R213) -/

/-- D_w: the drain of one epoch's inlet records and snapshot in steps (R408). -/
def drainSteps (s : State) : Nat :=
  ceilDiv (epochLen s * (64 + 64 * rdFld s (sprA 0x64) 8 6) + 32768 * flopRows s + 4096) 512

/-- The shortest epoch is too short for the tree (R408). -/
def shortEpoch (s : State) : Bool :=
  decide (epochLen s * minPeriod s + 136 < 2 * rdFld s crtTree 0 16 + 1000 + drainSteps s)

/-- The root discards a request and broadcasts REJECT (R213). -/
def rootReject (kind : ReqKind) (dev : Nat) (s : State) : State := rootOrder (.reject dev kind) s

/-- The root broadcasts START: T_S is SPR_START_LEAD steps ahead, at least 16,384 (R206, R209, R216). -/
def rootStart (first : BitVec 48) (s : State) : State :=
  rootOrder (.start (tb0Now s + stepsTime (max (rdFld s (sprA 0xC) 0 24) 16384)) first) s

/-- The whole domain shows one state (R206, R417). -/
def domainUniform (s : State) (st : Nat) : Bool :=
  fld (subStatus s) 0 3 = st && bit (subStatus s) 3 && !bit (subStatus s) 7

/-- May a START be broadcast (R206, R265, R404, R408, R417)? -/
def startAllowed (kind : ReqKind) (s : State) : Bool :=
  let pending := s.spr.orders.any (fun m => match m with
    | .start .. => true
    | _ => false)
  s.ldr.domain = 0 && !pending && !shortEpoch s &&
    (match kind with
     | .run => s.chip.devState = .ready && domainUniform s 4 && rdBit s (timA 4) 1 && enumState s = 3
     | _ => s.chip.devState = .held && domainUniform s 6)

/-- A request reaches the root (R213). `value` is the vector of CEN, or the cause of FORCE_RB where it is not 0. -/
def rootRequest (kind : ReqKind) (value : BitVec 8) (dev : Nat) (s : State) : State :=
  match kind with
  | .run | .resume =>
    if startAllowed kind s then rootStart (if kind = .run then 0 else s.spr.tick) s
    else
      let st : DevState := if kind = .run then .ready else .held
      rootReject kind dev (whenDo (s.chip.devState = st && shortEpoch s) (fun x => setBit x crtStatus 26) s)
  | .hold =>
    if s.chip.devState = .running ∧ holdPending s = false then rootHold value.toNat s
    else rootReject kind dev s
  | .cen =>
    match s.chip.devState with
    | .running => rootOrder (.cen value (leadTick s / epochLen s + 1)) s
    | .ready | .held => rootOrder (.cen value 0) s
    | _ => rootReject kind dev s
  | .forceRb =>
    if s.chip.devState = .running ∧ rollbackPending s = false then
      let cause := if value = 0 then 4 else value.toNat
      issueRollback cause dev (holdCause cause) s
    else rootReject kind dev s

/-- A request made at this device goes to the root (R213). -/
def sprRequest (kind : ReqKind) (value : BitVec 8) (s : State) : State :=
  if s.crt.isRoot then rootRequest kind value (devAddr s) s else sendUp (.req kind value (devAddr s)) s

/-- REQ from a child. -/
def reqEv (h : SpringHdr) (kind : ReqKind) (value : BitVec 8) (dev : Nat) (s : State) : State :=
  actOn (fromChild h s) (fun x =>
    if x.crt.isRoot then rootRequest kind value dev x else sendUp (.req kind value dev) x)

def execReq (h : SpringHdr) (kind : ReqKind) (value : BitVec 8) (dev : Nat) (s : State) : Out :=
  .next (reqEv h kind value dev s)

/-- REJECT reaches the writing device: REQ_REJ, also of IMG_STATUS where a reload is the reason (R213, R265). -/
def rejectEv (h : Option SpringHdr) (dev : Nat) (kind : ReqKind) (s : State) : State :=
  actOn (fromHead h (.reject dev kind) s) (fun x =>
    if dev = devAddr x then
      let reload := (kind = .run || kind = .resume) && (x.ldr.kind = 2 || x.ldr.domain = 2)
      whenDo reload (fun y => setBit y imgStat 6) (setBit x (sprA 4) 16)
    else x)

def execReject (h : Option SpringHdr) (dev : Nat) (kind : ReqKind) (s : State) : Out := .next (rejectEv h dev kind s)

/-- A write of SPR_CTRL: one request bit is forwarded, more than one are discarded as a whole (R213). -/
def sprCtrlWrite (v : Word) (s : State) : State :=
  match fld v 0 4 with
  | 0 => s
  | 1 => sprRequest .run 0 s
  | 2 => sprRequest .hold 0 s
  | 4 => sprRequest .resume 0 s
  | 8 => sprRequest .forceRb 0 s
  | _ => setBit s (sprA 4) 16

/-- A write of SPR_CEN (R178, R218). -/
def sprCenWrite (v : Word) (s : State) : State := sprRequest .cen (v.setWidth 8) (wrFld s (sprA 0x20) 0 8 (fld v 0 8))

end Sys2Proof.Machine
end

