-- ==== Sys2Proof/Machine/Power.lean ====
section
/-! DEFINITION. Temperature (R684, R691), the PCIe endpoint, MSI-X, the mailbox page, the boot flash and the GPIO
(R696 to R711). -/

namespace Sys2Proof.Machine

def onHst (f : HostIf → HostIf) (s : State) : State := { s with hst := f s.hst }

/-! ### Temperature (R684, R691, R713) -/

/-- The thresholds of the grade in °C (R684): die T_WARN, die T_TRIP, stack T_WARN, stack T_TRIP. -/
def thresholds : List Nat := if Config.gradeE then [105, 120, 100, 115] else [95, 110, 90, 105]

/-- T_WARN and T_TRIP of sensor `j`, in units of 0.25 °C. -/
def warnAt (j : Nat) : Int := 4 * (thresholds.getD (if j < 20 then 0 else 2) 0 : Nat)
def tripAt (j : Nat) : Int := 4 * (thresholds.getD (if j < 20 then 1 else 3) 0 : Nat)

def tempReg (j : Nat) : Nat := pwrA (0x100 + 4 * j)

/-- The reading of sensor `j` in units of 0.25 °C; none while no reading exists. -/
def tempOf (s : State) (j : Nat) : Option Int :=
  if rdBit s (tempReg j) 31 then some ((rdReg s (tempReg j)).setWidth 16).toInt else none

/-- Every sensor that has a reading reads at least 3 °C below its T_WARN. -/
def allCool (s : State) : Bool :=
  (List.range 24).all (fun j => (tempOf s j).all (fun t => decide (t ≤ warnAt j - 12)))

/-- The sensor with the highest reading relative to its T_WARN, the lowest number first. -/
def hottest (s : State) : Nat :=
  ((List.range 24).foldl (fun (acc : Option (Int × Nat)) j =>
    match tempOf s j, acc with
    | some t, some (m, k) => if m < t - warnAt j then some (t - warnAt j, j) else some (m, k)
    | some t, none => some (t - warnAt j, j)
    | none, _ => acc) none).elim 0 (fun q => q.2)

/-- THERM_N changes (R684). -/
def setTherm (b : Bool) (s : State) : State :=
  if s.hst.therm = b then s
  else hostEvent 6 (wrFld (onHst (fun x => { x with therm := b }) s) (pwrA 0) 6 1 (b2n b))

/-- A thermal trip (R684, R691). -/
def thermalTrip (s : State) : State :=
  let s1 := setBit (onHst (fun x => { x with thermHold := true }) s) (pwrA 0) 7
  hostEvent 6 (tripShelves (enterSafeOpen .thermal none none s1))

/-- A sensor's reading reaches the device: the reading is stored, THERM_N follows it, a trip acts, and THERMHOLD
clears when every sensor is cool (R684, R691). -/
def sensorRead (j : Nat) (t : BitVec 16) (s : State) : State :=
  let s1 := wrReg s (tempReg j) (0x80000000#32 ||| t.setWidth 32)
  let s2 := wrFld s1 (pwrA 0) 0 5 (hottest s1)
  let s3 := if warnAt j ≤ t.toInt then setTherm true s2 else if allCool s2 then setTherm false s2 else s2
  if tripAt j ≤ t.toInt then thermalTrip s3
  else whenDo (s3.hst.thermHold && allCool s3) (fun x =>
    clearThermHold (onHst (fun h => { h with thermHold := false }) x)) s3

/-- Sensors read in every state but Off (R684). -/
def sensing (s : State) (j : Nat) : Bool := j < 24 && s.chip.devState ≠ .off

/-- THERMAL_WARNING: a reading `t` of sensor `j`, in units of 0.25 °C. -/
def execThermalWarning (j : Nat) (t : BitVec 16) (s : State) : Out :=
  .next (if sensing s j then sensorRead j t s else s)

/-- THERMAL_TRIP: a reading at or above T_TRIP. -/
def execThermalTrip (j : Nat) (t : BitVec 16) (s : State) : Out :=
  .next (if sensing s j && decide (tripAt j ≤ t.toInt) then sensorRead j t s else s)

/-- THERMHOLD_CLEAR: the reading with which every sensor is 3 °C below its T_WARN. -/
def execThermholdClear (j : Nat) (t : BitVec 16) (s : State) : Out :=
  .next (if sensing s j && s.hst.thermHold && decide (t.toInt ≤ warnAt j - 12) then sensorRead j t s else s)

/-- The PWR block as a read shows it (R713); the power estimate is a free value. -/
def pwrView (s : State) (o : Nat) : Option (Word × State) :=
  if o = 0 then some (setFld (rdReg s (pwrA 0)) 5 1 (b2n Config.gradeE), s)
  else if o = 4 then (let (n, s1) := takeFree s; some (BitVec.ofNat 32 (n % 65536), s1))
  else if o = 8 then some (BitVec.ofNat 32 (leNat (thresholds.map (BitVec.ofNat 8))), s)
  else none

/-! ### The endpoint (R687, R696 to R703) -/

/-- The function answers memory requests: the link is up, configuration requests are answered, the function is in D0
(R228, R696). -/
def hostReach (s : State) : Bool :=
  !s.hst.porst && !s.hst.perst && s.hst.cfgReady && !rdBit s (hstA 0) 11 && s.chip.devState ≠ .off

/-- HST_STATUS as a read shows it: whether the link is up, its speed and its width are the link partner's, and free
values to any requester; a request of the host shows that the link is up. -/
def hostStatus (byHost : Bool) (s : State) : Word × State :=
  let (n, s1) := takeFree s
  let up := !s.hst.porst && !s.hst.perst && (byHost || n % 2 = 1)
  let v := if up then 1 + 2 * (1 + n / 2 % 5) + 16 * 2 ^ (n / 10 % 5) else 0
  ((rdReg s (hstA 0) &&& 0xE00#32) ||| BitVec.ofNat 32 v, s1)

/-- A host request that ends with an error (R699): Completer Abort for a read, no effect for a posted write. -/
def hostError (write : Bool) (s : State) : State := hostEvent 8 (setBit s (hstA 0) (if write then 10 else 9))

/-- PCIE_POWER_STATE: a configuration write moves the function to D3hot or to D0 (R696). Pending vectors are sent when
the function is in D0 again. -/
def sendPending (s : State) : State :=
  s.hst.msixPend.foldl (fun acc q =>
    msix q.1 { acc with hst := { acc.hst with msixPend := mapSet false acc.hst.msixPend q.1 false } }) s

def pciePower (d3 : Bool) (s : State) : State :=
  if s.hst.porst || s.hst.perst || !s.hst.cfgReady || s.chip.devState = .off then s
  else if d3 then setBit s (hstA 0) 11 else sendPending (clrBit s (hstA 0) 11)

def execPciePowerState (d3 : Bool) (s : State) : Out := .next (pciePower d3 s)

/-- MSIX_ENABLE: MSI-X is enabled or disabled by a configuration write. Enabling makes pending every vector from 0 to
8 whose event is set, and those of the DMA channels (R703). -/
def msixEnable (on : Bool) (s : State) : State :=
  if s.hst.porst || s.hst.perst || !s.hst.cfgReady || s.chip.devState = .off || s.hst.msixEn = on then s
  else
    let s1 := onHst (fun x => { x with msixEn := on }) s
    if on then
      let s2 := ((List.range 9).filter (rdBit s1 (hstA 4))).foldl (fun acc v => msix v acc) s1
      ((List.range 32).filter (fun n => rdBit s2 (dmaA 4) n && rdBit s2 (dmaReg n 0x20) 9)).foldl
        (fun acc n => msix (32 + n) acc) s2
    else s1

def execMsixEnable (on : Bool) (s : State) : Out := .next (msixEnable on s)

/-- A write of HST_FWIRQ (R703, R714); none with an error response. -/
def fwirqWrite (v : Word) (s : State) : Option State :=
  let n := fld v 0 8
  if n < 64 then none else some (msix n s)

/-- A write of HST_HDB_m (R702). -/
def hdbWrite (m : Nat) (v : Word) (s : State) : State :=
  raiseLine (physOf s m) 11 (wrReg s (hstA (0x800 + 4 * m)) v)

/-- A write of the mailbox doorbell (R701): a wrong length is discarded, with WERR. -/
def mailboxDoorbell (len : Nat) (s : State) : State :=
  if 64 ≤ len ∧ len ≤ 4096 ∧ len % 64 = 0 then
    (submitMb .host ((List.range len).map (mapGet 0 s.hst.page)) s).1
  else hostError true s

/-- BAR4 as a read shows it (R700): the MSI-X table and its pending bits, the mailbox page and the doorbell values;
0 elsewhere. -/
def bar4Read (s : State) (o : Nat) : Word :=
  if o < 0x1000 then
    (if o / 4 % 4 = 3 then (if mapGet false s.hst.unmasked (o / 16) then 0#32 else 1#32) else mapGet 0 s.hst.msixTab o)
  else if 0x1000 ≤ o ∧ o < 0x1020 then
    BitVec.ofNat 32 ((List.range 32).foldl (fun acc i =>
      acc + 2 ^ i * b2n (mapGet false s.hst.msixPend ((o - 0x1000) * 8 + i))) 0)
  else if 0x2000 ≤ o ∧ o < 0x3000 then
    BitVec.ofNat 32 (leNat ((List.range 4).map (fun i => mapGet 0#8 s.hst.page (o - 0x2000 + i))))
  else if 0x4000 ≤ o ∧ o < 0x4400 then rdReg s (hstA (0x800 + (o - 0x4000)))
  else 0

/-- A vector's mask word is written: unmasking sends a pending message (R703). -/
def maskWrite (v : Nat) (masked : Bool) (s : State) : State :=
  let s1 := onHst (fun x => { x with unmasked := mapSet false x.unmasked v (!masked) }) s
  if !masked && mapGet false s1.hst.msixPend v then
    msix v (onHst (fun x => { x with msixPend := mapSet false x.msixPend v false }) s1)
  else s1

/-- A 32-bit write to BAR4 (R700). -/
def bar4Write (o : Nat) (v : Word) (s : State) : State :=
  if o < 0x1000 then
    (if o / 4 % 4 = 3 then maskWrite (o / 16) (bit v 0) s
     else onHst (fun x => { x with msixTab := mapSet 0 x.msixTab o v }) s)
  else if 0x1000 ≤ o ∧ o < 0x1020 then s
  else if 0x2000 ≤ o ∧ o < 0x3000 then
    onHst (fun x => { x with page := mapSetAll 0 x.page ((leBytes 4 v.toNat).zipIdx.map (fun q => (o - 0x2000 + q.2, q.1))) }) s
  else if o = 0x3000 then mailboxDoorbell v.toNat s
  else if 0x4000 ≤ o ∧ o < 0x4400 then hdbWrite ((o - 0x4000) / 4) v s
  else hostError true s

/-- MAILBOX_DOORBELL (R701). -/
def execMailboxDoorbell (len : Word) (s : State) : Out := .next (if hostReach s then bar4Write 0x3000 len s else s)

/-! ### Flash (R704, R705) -/

/-- A write of HST_FL_CTRL; none with an error response. -/
def flCtrlWrite (v : Word) (s : State) : Option State :=
  if bit v 0 then
    (if lockOpen s && !s.hst.flash && rdFld s (imgA 4) 0 5 ≠ 1 then
      some (setBit (onHst (fun x => { x with flash := true }) (wrReg s (hstA 0x30) (v &&& 0xFF07FE))) (hstA 0x38) 0)
     else none)
  else some (if lockOpen s then wrReg s (hstA 0x30) (v &&& 0xFF07FE) else s)

/-- FLASH_DONE: the operation ends; `data` is what the flash delivered in a read. -/
def flashDone (data : List Byte) (s : State) : State :=
  if s.hst.flash then
    let n := min 256 (rdFld s (hstA 0x3C) 0 9)
    let s1 := if rdBit s (hstA 0x30) 1 then s
      else (List.range n).foldl (fun acc i => wrFld acc (hstA (0x400 + 4 * (i / 4))) (8 * (i % 4)) 8 (data.getD i 0).toNat) s
    setBit (clrBit (onHst (fun x => { x with flash := false }) s1) (hstA 0x38) 0) (hstA 0x38) 1
  else s

def execFlashDone (data : List Byte) (s : State) : Out := .next (flashDone data s)

/-! ### GPIO (R711) -/

/-- The level that the device drives on GPIO ball `i`; none where it does not drive the ball. -/
def gpioDriven (s : State) (i : Nat) : Option Bool :=
  if !rdBit s (hstA 0x20) i then none
  else match s.chip.devState with
    | .boot | .blank | .loading => if s.chip.shellUp then some (s.hst.gpioDefault.getLsbD i) else none
    | .ready | .running | .held => some (rdBit s (hstA 0x24) i)
    | .off | .safe => none

/-- HST_GPIO_IN as a read shows it: a level that the device does not drive is a free value. -/
def gpioIn (s : State) : Word × State :=
  let (n, s1) := takeFree s
  (BitVec.ofNat 32 ((List.range 16).foldl (fun acc i =>
    acc + 2 ^ i * b2n ((gpioDriven s i).getD (n.testBit i))) 0), s1)

/-- GPIO_RISING_EDGE on ball `i`: latched, and a pending trigger where TSRC 4 selects the ball (R307, R711). -/
def gpioEdge (i : Nat) (s : State) : State :=
  if i < 16 ∧ s.chip.devState ≠ .off ∧ rdBit s (hstA 0x20) i = false then
    let s1 := setBit s (hstA 0x2C) i
    whenDo (decide (rdFld s1 (cmpA 0x10) 4 3 = 4) && decide (rdFld s1 (cmpA 0x1C) 0 9 = i)) (fun x => setBit x acqStat 6) s1
  else s

def execGpioRisingEdge (i : Nat) (s : State) : Out := .next (gpioEdge i s)

end Sys2Proof.Machine
end

