-- ==== Sys2Proof/Machine/Window.lean ====
section
/-! DEFINITION. Model state as the cluster windows show it (R5, R30, R35, R36, R66, R90, R115, R117, R138). -/

namespace Sys2Proof.Machine

/-- The word of a read with its status, and the state after it. -/
abbrev ReadOut := RespStatus × Word × State
/-- The status of a write, and the state after it. -/
abbrev WriteOut := RespStatus × State

def readErr (s : State) : ReadOut := (.error, 0, s)
def writeErr (s : State) : WriteOut := (.error, s)
/-- A write that some function refuses with an error response. -/
def writeOpt (s : State) (r : Option State) : WriteOut :=
  match r with
  | some t => (.ok, t)
  | none => (.error, s)

/-- A piece of model state, by physical cluster: the word it lies in (R35). -/
inductive ModelWord where
  | bpi (p n e w : Nat)
  | pond (p n a : Nat)
  | str (p r k half : Nat)
  | wei (p e i w : Nat)
  | wreg (p e c r : Nat)
  | mac (p sl c w : Nat)
deriving DecidableEq, Repr

/-- The model state at offset `o` of a cluster window. -/
def modelWord (p o : Nat) : Option ModelWord :=
  if o < 0x200000 then some (.bpi p (o / 0x4000) (o % 0x4000 / 16) (o / 4 % 4))
  else if o < 0x240000 then some (.pond p ((o - 0x200000) / 0x800) (o % 0x800 / 4))
  else if o < 0x260000 then some (.str p ((o - 0x240000) / 0x8000) (o % 0x8000 / 8) (o / 4 % 2))
  else if o < 0x280000 then
    let e := (o - 0x260000) / 0x4000
    let x := o % 0x4000
    if x < 0x2000 then some (.wei p e (x / 8) (x / 4 % 2))
    else if x < 0x2200 then some (.wreg p e ((x - 0x2000) / 64) ((x - 0x2000) / 4 % 16))
    else none
  else if o < 0x282000 then
    let x := o % 0x1000
    if x < 0x80 ∧ x % 16 < 12 then some (.mac p ((o - 0x280000) / 0x1000) (x / 16) (x / 4 % 4)) else none
  else none

/-- Bits that an entry of an instruction memory stores: its word with the inverted bits inverted. -/
def storedBits {w : Nat} (v : BitVec w) (flips : List Nat) : BitVec w := flipBits v flips

/-- Inverted bits of an entry whose data bits are overwritten while its check bits stay. -/
def flipsAfter {w : Nat} (v new : BitVec w) (flips : List Nat) : List Nat :=
  (List.range w).filter (fun i => v.getLsbD i != new.getLsbD i) ++ flips.filter (fun i => decide (w ≤ i))

/-- Replace 32-bit word `i` of a value. -/
def putWord {w : Nat} (v : BitVec w) (i : Nat) (x : Word) : BitVec w := setFld v (32 * i) 32 x.toNat
def getWord {w : Nat} (v : BitVec w) (i : Nat) : Word := BitVec.ofNat 32 (fld v (32 * i) 32)

/-- The value that a read of model state returns, poisoned where its check fails (R66, R117). -/
def modelValue (s : State) (m : ModelWord) : Word × Bool :=
  match m with
  | .bpi p n e w =>
    let k := kEntry p n e
    let v := mapGet 0#72 s.cl.bpMem k
    let f := mapGet [] s.cl.bpFlips k
    if w = 3 then ((flipBits (Config.ecc72 v) ((f.filter (fun i => decide (72 ≤ i))).map (fun i => i - 72))).setWidth 32, false)
    else (getWord (storedBits v f) w, false)
  | .pond p n a =>
    if a < 256 then
      let x := pondRaw s p n a
      ((pondData x).setWidth 32, pondBadPar x)
    else if a < 384 then ((flopCur s p n (a - 256)).setWidth 32, flopReadBad s p n (a - 256) (fptr s p n (a - 256)))
    else ((flopOpp s p n (a - 384)).setWidth 32, flopReadBad s p n (a - 384) (~~~ fptr s p n (a - 384)))
  | .str p r k h =>
    let (v, _, unc) := rowRead s (kRoom p r * 4096 + k)
    (getWord v h, unc)
  | .wei p e i w =>
    (getWord (storedBits (mapGet 0#64 s.cl.weMem (kWeEntry p e i)) (mapGet [] s.cl.weFlips (kWeEntry p e i))) w, false)
  | .wreg p e c r => (mapGet 0#32 s.cl.wreg (kWreg p e c r), false)
  | .mac p sl c w => (getWord (mapGet 0#72 s.cl.macAcc (kMac p sl c)) w, false)

/-- A write of a flop through pointers `sel`: each context's bank takes its bit (R66). -/
def flopPut (p n f : Nat) (sel v : Ctx) (s : State) : State :=
  let a := pondData (pondRaw s p n (256 + f))
  let b := pondData (pondRaw s p n (384 + f))
  pondWrite p n (384 + f) (pick sel b v) (pondWrite p n (256 + f) (pick sel v a) s)

/-- A write of model state that the device state allows. -/
def modelPut (m : ModelWord) (x : Word) (s : State) : State :=
  match m with
  | .bpi p n e w =>
    let k := kEntry p n e
    let v := mapGet 0#72 s.cl.bpMem k
    let f := mapGet [] s.cl.bpFlips k
    let new := putWord (storedBits v f) w x
    if w = 3 then s
    else if w = 2 then
      { s with cl := { s.cl with bpMem := mapSet 0 s.cl.bpMem k new, bpFlips := mapDel s.cl.bpFlips k } }
    else { s with cl := { s.cl with bpFlips := mapSet [] s.cl.bpFlips k (flipsAfter v new f) } }
  | .pond p n a =>
    let v : Ctx := x.setWidth 8
    if a < 256 then pondWrite p n a v s
    else if a < 384 then flopPut p n (a - 256) (fptr s p n (a - 256)) v s
    else flopPut p n (a - 384) (~~~ fptr s p n (a - 384)) v s
  | .str p r k h => rowWrite (kRoom p r * 4096 + k) (32 * h) 32 (x.setWidth 64) s
  | .wei p e i w =>
    let k := kWeEntry p e i
    let v := mapGet 0#64 s.cl.weMem k
    let f := mapGet [] s.cl.weFlips k
    let new := putWord (storedBits v f) w x
    if w = 1 then { s with cl := { s.cl with weMem := mapSet 0 s.cl.weMem k new, weFlips := mapDel s.cl.weFlips k } }
    else { s with cl := { s.cl with weFlips := mapSet [] s.cl.weFlips k (flipsAfter v new f) } }
  | .wreg p e c r => { s with cl := { s.cl with wreg := mapSet 0 s.cl.wreg (kWreg p e c r) x } }
  | .mac p sl c w =>
    let k := kMac p sl c
    { s with cl := { s.cl with macAcc := mapSet 0 s.cl.macAcc k (putWord (mapGet 0#72 s.cl.macAcc k) w x) } }

/-- Words that R5 captures when the word at address `a` is read: each with its value. -/
def captureWords (ws : List (Nat × Word)) (s : State) : State :=
  { s with chip := { s.chip with capture := mapSetAll 0 s.chip.capture ws } }

/-- A read of model state, `a` its address in the physical window (R30). -/
def modelRead (a h : Nat) (m : ModelWord) (s : State) : ReadOut :=
  match s.chip.devState with
  | .off => readErr s
  | .boot | .blank | .safe => (.ok, 0, s)
  | .loading | .ready | .running | .held =>
    if s.chip.devState = .running && detached s h then (.ok, 0, s)
    else
      let (v, bad) := modelValue s m
      let st : RespStatus := if bad then .poison else .ok
      match m with
      | .mac p sl c 0 =>
        (st, v, captureWords [(a + 4, (modelValue s (.mac p sl c 1)).1), (a + 8, (modelValue s (.mac p sl c 2)).1)] s)
      | .mac .. => (st, mapGet 0 s.chip.capture a, s)
      | _ => (st, v, s)

/-- A write of model state is accepted in Ready and Held only (R30). -/
def modelOpen (s : State) : Bool := s.chip.devState = .ready || s.chip.devState = .held

def modelWrite (m : ModelWord) (x : Word) (s : State) : WriteOut :=
  if modelOpen s then (.ok, modelPut m x s) else writeErr s

end Sys2Proof.Machine
end

