-- ==== Sys2Proof/Machine/RegAccess.lean ====
section
/-! DEFINITION. Reads and writes of the registers (R4 to R8, and the register tables of every chapter): what a read
shows where the register shows other state, and what a write does beside storing its bits. -/

namespace Sys2Proof.Machine

/-! ### Reads -/

/-- Word `i` of a 96- or 48-bit value. -/
def wordOf (n i : Nat) : Word := BitVec.ofNat 32 (n >>> (32 * i))

/-- The spring's registers that show its own state (R214 to R221). -/
def sprView (s : State) (o : Nat) : Option Word :=
  match o with
  | 0x04 => some (setFld (rdReg s (sprA 4)) 3 1 (b2n s.crt.isRoot))
  | 0x20 => some (setFld (rdReg s (sprA 0x20)) 8 8 s.spr.cen.toNat)
  | 0x24 => some (s.spr.decision.setWidth 32)
  | 0x28 => some (BitVec.ofNat 32 (s.spr.entry % 128 + 2 ^ 16 * (s.spr.left % 65536)))
  | 0x30 => some (wordOf s.spr.tick.toNat 0)
  | 0x34 => some (wordOf s.spr.tick.toNat 1)
  | 0x38 => some (wordOf s.spr.commit.toNat 0)
  | 0x3C => some (wordOf s.spr.commit.toNat 1)
  | 0x40 => some (wordOf (timeWord s.spr.segStart) 0)
  | 0x44 => some (wordOf (timeWord s.spr.segStart) 1)
  | 0x48 => some (wordOf (timeWord s.spr.segStart) 2)
  | _ => none

/-- The crate's registers (R419, R423, R425). -/
def crtView (s : State) (o : Nat) : Option Word :=
  if o = 0x104 then some (setFld (rdReg s (hstA o)) 13 1 (b2n s.crt.isRoot))
  else if o = 0x120 then some (subStatus s)
  else if 0x140 ≤ o ∧ o < 0x1C0 then
    some (setFld (rdReg s (hstA o)) 31 1 (b2n (isPresent s ((o - 0x140) / 4) && rdFld s (hstA o) 16 13 ≠ 0 && assigned s)))
  else none

/-- Registers of a cluster window that show other state: BANK and CTRL while not split (R69, R83, R129), flop pointers
(R86), flags (R132). -/
def clusterView (s : State) (p o : Nat) : Option Word :=
  let a := physA p o
  let hide := fun (x : Nat) => some (if rdBit s x 0 then rdReg s x else clrBitOf (rdReg s x))
  if 0x290000 ≤ o ∧ o < 0x2A0000 then
    let n := (o - 0x290000) / 0x200
    let x := o % 0x200
    if x = 0xC then hide a
    else if 0x100 ≤ x ∧ x < 0x180 then
      some (BitVec.ofNat 32 ((List.range 4).foldl (fun acc i => acc + 2 ^ (8 * i) * (fptr s p n (x - 0x100 + i)).toNat) 0))
    else none
  else if 0x260000 ≤ o ∧ o < 0x280000 then
    let e := (o - 0x260000) / 0x4000
    if o % 0x4000 = 0x2200 then hide a
    else if o % 0x4000 = 0x2210 then
      some (BitVec.ofNat 32 ((mapGet 0#8 s.cl.flagF (kWe p e)).toNat + 2 ^ 8 * (mapGet 0#8 s.cl.flagCY (kWe p e)).toNat))
    else none
  else none
where
  /-- ACTIVE reads 0. -/
  clrBitOf (v : Word) : Word := setFld v 1 1 0

/-- What a read shows for the registers that show other state: a word, an error response, or nothing special. A read
of some of them takes a free value. -/
inductive Shown where
  | plain
  | word (v : Word) (t : State)
  | refused

def shown (s : State) (v : Option Word) : Shown :=
  match v with
  | some w => .word w s
  | none => .plain

/-- The views of the blocks and windows, by control address. -/
def regView (who : Requester) (a : Nat) (s : State) : Shown :=
  if a < 0x10000 then shown s (attView s a)
  else if a < 0x20000 then shown s (sprView s (a - 0x10000))
  else if a < 0x30000 then
    (match a - 0x20000 with
     | 0x04 => .word (setFld (rdReg s a) 8 1 (b2n s.chip.loadErr)) s
     | 0x14 => .word (BitVec.ofNat 32 (feedCredit s)) s
     | _ => .plain)
  else if 0x50000 ≤ a ∧ a < 0x60000 then shown s (dmaView s (a - 0x50000))
  else if 0x60000 ≤ a ∧ a < 0x70000 then shown s (nocView s (a - 0x60000))
  else if 0x70000 ≤ a ∧ a < 0x80000 then shown s (celView s (a - 0x70000))
  else if 0x80000 ≤ a ∧ a < 0x90000 then shown s (trcView s (a - 0x80000))
  else if 0x90000 ≤ a ∧ a < 0xA0000 then
    (if a = hstA 0 then (let (w, t) := hostStatus (who = .host) s; .word w t)
     else if a = hstA 0x28 then (let (w, t) := gpioIn s; .word w t)
     else shown s (crtView s (a - 0x90000)))
  else if 0xA0000 ≤ a ∧ a < 0xB0000 then
    (match pwrView s (a - 0xA0000) with
     | some (w, t) => .word w t
     | none => .plain)
  else if 0x1800000 ≤ a ∧ a < 0x1840000 ∧ 0x900 ≤ a % 0x1000 ∧ a % 0x1000 < 0x980 then
    (match s.chip.devState with
     | .boot | .blank | .safe | .off => .word 0 s
     | _ => .word ((mapGet 0#8 s.cl.latch ((a - 0x1800000) / 0x1000 * 32 + (a % 0x1000 - 0x900) / 4)).setWidth 32) s)
  else if 0x10000000 ≤ a then
    let p := (a - 0x10000000) / 0x400000
    let o := (a - 0x10000000) % 0x400000
    if 0x300000 ≤ o ∧ o < 0x380000 then
      (match stwView s p (o - 0x300000) with
       | some (some w) => .word w s
       | some none => .refused
       | none => .plain)
    else if 0x380000 ≤ o then shown s (tskView s p (o - 0x380000))
    else shown s (clusterView s p o)
  else .plain

/-- Bits that a read returns (R6). -/
def readable (r : RegRow) : Word := BitVec.ofNat 32 (r.rw ||| r.ro ||| r.w1c ||| r.w1s ||| r.rwl)

/-- A read of one register, without the capture of R5. -/
def regRead1 (who : Requester) (a : Nat) (s : State) : ReadOut :=
  match regRow a with
  | none => readErr s
  | some r =>
    match regView who a s with
    | .plain => (.ok, rdReg s a &&& readable r, s)
    | .word v t => (.ok, v &&& readable r, t)
    | .refused => readErr s

/-- Multi-word quantities that can change while they are read (R5), by block: offset of the lowest word and number of
words. -/
def wideRegs : List (Nat × Nat) :=
  [(attA 0x20, 2), (attA 0x38, 2), (sprA 0x30, 2), (sprA 0x38, 2), (sprA 0x40, 3), (imgA 0x18, 2), (imgA 0x60, 2),
   (imgA 0x68, 2), (timA 0x80, 3), (cmpA 0x48, 2), (cmpA 0x50, 2), (cmpA 0x60, 2), (cmpA 0x68, 2), (cmpA 0xA0, 2),
   (cmpA 0xA8, 2), (cmpA 0xB0, 2), (cmpA 0xB8, 2), (cmpA 0xC0, 2), (cmpA 0xC8, 2), (cmpA 0xD0, 2), (cmpA 0xD8, 2),
   (celA 0x60, 2)]

/-- The wide quantity that a register belongs to: its lowest address and its words. -/
def wideOf (a : Nat) : Option (Nat × Nat) :=
  if 0x1000000 ≤ a ∧ a < 0x1100000 then
    (if a % 0x1000 = 0x10 ∨ a % 0x1000 = 0x14 then some (a - a % 8, 2) else none)
  else if 0x1800000 ≤ a ∧ a < 0x1840000 then
    (if a % 0x1000 = 0x10C ∨ a % 0x1000 = 0x110 then some (a - a % 0x1000 + 0x10C, 2) else none)
  else wideRegs.find? (fun q => q.1 ≤ a && a < q.1 + 4 * q.2)

/-- The bases of TIM_TBk_NOW are captured together (R450). -/
def isTimNow (a : Nat) : Bool := timA 0x10 ≤ a && a < timA 0x50 && a % 16 ≠ 12

/-- A read of a register (R5, R6, R33). -/
def regRead (who : Requester) (a : Nat) (s : State) : ReadOut :=
  if isTimNow a then
    let t := if a = timA 0x10 then timCapture s else s
    (.ok, mapGet 0 t.chip.capture a, t)
  else match wideOf a with
    | none => regRead1 who a s
    | some (b, n) =>
      if a = b then
        let (st, v, t) := regRead1 who a s
        (st, v, captureWords ((List.range' 1 (n - 1)).map (fun i => (b + 4 * i, (regRead1 who (b + 4 * i) s).2.1))) t)
      else (.ok, mapGet 0 s.chip.capture a, s)

/-! ### Writes -/

/-- Store the bits that a register stores (R6); a write of a fabric entry computes its parity anew (R157). -/
def storeReg (r : RegRow) (a : Nat) (v : Word) (s : State) : State :=
  let old := rdReg s a
  let m : Word := BitVec.ofNat 32 (r.rw ||| (if lockOpen s then r.rwl else 0))
  let new := ((old &&& ~~~ m) ||| (v &&& m)) &&& ~~~ (v &&& BitVec.ofNat 32 r.w1c) ||| (v &&& BitVec.ofNat 32 r.w1s)
  let s1 := wrReg s a new
  { s1 with cl := { s1.cl with cfgBad := mapDel s1.cl.cfgBad a } }

/-- A field of 32 bits at bit 16 of a time value, NS (R426), is below 1,000,000,000 in the words that a write of word
`i` with `v` would leave, `a` being the address of word 0. -/
def nsOk (s : State) (a i : Nat) (v : Word) : Bool :=
  let w0 := if i = 0 then v else rdReg s a
  let w1 := if i = 1 then v else rdReg s (a + 4)
  decide (fld w0 16 16 + 2 ^ 16 * fld w1 0 16 < 1000000000)

/-- A write of TIM_PLSn_CTRL (R446, R448). -/
def plsCtrlWrite (n : Nat) (v : Word) (s : State) : Option State :=
  if rdBit s (plsCtrl n) 0 then
    (if plsDisarmRefused s n v then none
     else if bit v 0 then some (wrReg s (plsCtrl n) (rdReg s (plsCtrl n) &&& ~~~ (v &&& 0x30)))
     else some (pulseDisarm n v s))
  else if bit v 0 then (if plsAllowed s n v then some (pulseArm n v s) else none)
  else some (pulseDisarm n v s)

/-- Writes of the TIM block (R426, R443, R446, R449 to R454). -/
def timWrite (r : RegRow) (o : Nat) (v : Word) (s : State) : WriteOut :=
  let a := timA o
  if o = 0 then (.ok, whenDo (bit v 0) revertWrite s)
  else if 0x100 ≤ o ∧ o < 0x160 then
    let k := (o - 0x100) / 0x20 + 1
    let j := o % 0x20
    if j = 0x1C then (.ok, if bit v 0 then lawArm k s else clrBit s a 0)
    else if rdBit s (lawA k 0x1C) 0 then writeErr s
    else if j < 0xC then (if nsOk s (lawA k 0) (j / 4) v then (.ok, storeReg r a v s) else writeErr s)
    else if j < 0x18 then (if nsOk s (lawA k 0xC) ((j - 0xC) / 4) v then (.ok, storeReg r a v s) else writeErr s)
    else (.ok, storeReg r a v s)
  else if 0x200 ≤ o ∧ o < 0x300 then
    let n := (o - 0x200) / 0x20
    let j := o % 0x20
    if j = 0x1C then writeOpt s (plsCtrlWrite n v s)
    else if rdBit s (plsCtrl n) 0 then writeErr s
    else if j < 0xC ∧ nsOk s (plsA n 0) (j / 4) v = false then writeErr s
    else (.ok, storeReg r a v s)
  else (.ok, storeReg r a v s)

/-- Is this IMG_CTRL write one that another device forwards, and does the root refuse it (R249, R263)? -/
def forwardRefused (who : Requester) (v : Word) (s : State) : Bool :=
  match who with
  | .remote _ _ => bit v 31 && ((bit v 0 && (rootLoad s).isNone) || (bit v 1 && (rootReload s).isNone))
  | _ => false

/-- Writes of the IMG block (R250, R271). -/
def imgWrite (who : Requester) (r : RegRow) (o : Nat) (v : Word) (s : State) : WriteOut :=
  if o = 0 then
    (if forwardRefused who v s then writeErr s
     else (.ok, imgCtrlWrite v s))
  else (.ok, storeReg r (imgA o) v s)

/-- Writes of the CMP block (R286, R305, R315). -/
def cmpWrite (r : RegRow) (o : Nat) (v : Word) (s : State) : WriteOut :=
  if [0x10, 0x14, 0x18, 0x1C, 0x20, 0x24].contains o then (.ok, acqWrite (cmpA o) v s)
  else if isCmpSetting (cmpA o) then (.ok, cmpStagedWrite (cmpA o) v s)
  else if o = 0xC ∧ cmpNotifyRefused v then writeErr s
  else (.ok, storeReg r (cmpA o) v s)

/-- Writes of the DMA block (R552, R558, R561 to R563). -/
def dmaWrite (r : RegRow) (o : Nat) (v : Word) (s : State) : WriteOut :=
  if 0x100 ≤ o ∧ o < 0x900 then
    let n := (o - 0x100) / 0x40
    let j := (o - 0x100) % 0x40
    if j = 0x18 then writeOpt s (dmaCtrlWrite n v s)
    else if j ≤ 0x10 then writeOpt s (dmaSideWrite n j v s)
    else if j = 0x1C then (.ok, dmaAck n v s)
    else (.ok, storeReg r (dmaA o) v s)
  else (.ok, storeReg r (dmaA o) v s)

/-- Writes of the NOC block (R539, R541, R546 to R550). -/
def nocWrite (r : RegRow) (o : Nat) (v : Word) (s : State) : WriteOut :=
  if o = 4 then writeOpt s (switchWrite v s)
  else if 0x1000 ≤ o ∧ o < 0x7000 then writeOpt s (bankWrite (o - 0x1000) v s)
  else (.ok, storeReg r (nocA o) v s)

/-- Writes of the CEL block (R589, R600). -/
def celWrite (r : RegRow) (o : Nat) (v : Word) (s : State) : WriteOut :=
  if o = 0x58 then writeOpt s (blobCtrlWrite v s)
  else if 0x40 ≤ o ∧ o < 0x58 ∧ s.cel.blob.isSome then writeErr s
  else (.ok, storeReg r (celA o) v s)

/-- Writes of the TRC block (R646, R661). -/
def trcWrite (r : RegRow) (o : Nat) (v : Word) (s : State) : WriteOut :=
  if o = 0 then writeOpt s (trcCtrlWrite v s)
  else if 0x100 ≤ o ∧ o < 0x140 then writeOpt s (trcSrcWrite ((o - 0x100) / 4) v s)
  else (.ok, storeReg r (trcA o) v s)

/-- A write of HST_CRT_CTRL (R400, R418). -/
def enumWrite (v : Word) (s : State) : Option State :=
  if bit v 0 then (if enumAllowed s then some (enumStart s) else none) else some s

/-- Writes of the HST block (R418, R702, R705, R714). -/
def hstWrite (r : RegRow) (o : Nat) (v : Word) (s : State) : WriteOut :=
  if o = 0x10 then writeOpt s (fwirqWrite v s)
  else if o = 0x30 then writeOpt s (flCtrlWrite v s)
  else if o = 0x100 then writeOpt s (enumWrite v s)
  else if 0x800 ≤ o ∧ o < 0xC00 then (.ok, hdbWrite ((o - 0x800) / 4) v s)
  else (.ok, storeReg r (hstA o) v s)

/-- A write of HSL_LK_CTRL (R351, R382, R389). -/
def linkCtrlWrite (l : Nat) (v : Word) (s : State) : Option State :=
  if loopbackRefused s l v then none else some (whenDo (bit v 0) (fun x => watchTree x (retrain l x)) (loopbackWrite l v s))

/-- Writes of a link window (R389, R393); HSL_ETX is written as an instruction memory is. -/
def linkWrite (r : RegRow) (l o : Nat) (v : Word) (s : State) : WriteOut :=
  if o = 0x10 then writeOpt s (linkCtrlWrite l v s)
  else if o = 0x104 then (if fld v 0 4 ≤ fld v 8 4 then writeErr s else (.ok, storeReg r (linkA l o) v s))
  else (.ok, storeReg r (linkA l o) v s)

/-- Writes of a lane window (R382, R384). -/
def laneWrite (r : RegRow) (p o : Nat) (v : Word) (s : State) : WriteOut :=
  if o = 0 then (if laneCtrlRefused s p v then writeErr s else (.ok, laneCtrlWrite p v s))
  else (.ok, storeReg r (laneA p o) v s)

/-- Writes of a shelf window (R280, R690, R693). -/
def shelfWrite (r : RegRow) (h o : Nat) (v : Word) (s : State) : WriteOut :=
  if o = 0x600 then writeOpt s (pwrCtrlWrite h v s)
  else if 0x10000 ≤ o ∧ o < 0x20000 ∧ detached s h then writeErr s
  else (.ok, storeReg r (shfA h o) v s)

/-- A counter clears with CNT_CLR, bit 5 (R85, R131, R136). -/
def bpcWrite (r : RegRow) (p n x : Nat) (v : Word) (s : State) : WriteOut :=
  let a := bpcA p n x
  if x < 0xC then
    (match s.chip.devState with
     | .ready | .held | .running => (.ok, injWrite p n (x / 4) v s)
     | _ => writeErr s)
  else
    let s1 := storeReg r a v s
    (.ok, whenDo (x = 0x18 && bit v 5) (fun y => wrFld y a 16 16 0) s1)

def wenWrite (r : RegRow) (p e x : Nat) (v : Word) (s : State) : WriteOut :=
  let a := wenA p e x
  if x = 0x2800 ∧ 64 < fld v 0 7 then writeErr s
  else
    let s1 := storeReg r a v s
    let s2 := whenDo (x = 0x220C && bit v 5) (fun y => wrFld y a 16 16 0) s1
    (.ok, whenDo (x = 0x2808 && bit v 5) (fun y =>
      wrReg (wrReg (wrFld y a 16 16 0) (wenA p e 0x280C) 0) (wenA p e 0x2810) 0) s2)

/-- Writes of the STW window (R490, R492 to R497, R668). -/
def stwWrite (r : RegRow) (p x : Nat) (v : Word) (s : State) : WriteOut :=
  if x = 0 then (.ok, stwCtrlWrite p v s)
  else if x = 0xC then (.ok, doorbellWrite p v s)
  else if 0x40100 ≤ x then writeOpt s (stwDbgWrite p x v s)
  else (.ok, storeReg r (stwA p x) v s)

/-- The scheduler's own steward (R512). -/
def ownSteward (who : Requester) (p : Nat) : Bool := who = .steward p || who = .core p

/-- Writes of the TSK window (R507, R508, R512, R517, R520, R522). -/
def tskWrite (who : Requester) (r : RegRow) (p x : Nat) (v : Word) (s : State) : WriteOut :=
  if x = 0 then (.ok, tskCtrlWrite p v s)
  else if x = 0x10 then (if ownSteward who p then (.ok, storeReg r (tskA p x) v s) else writeErr s)
  else if x = 0x14 then (if ownSteward who p then writeOpt s (tskCmd p v s) else writeErr s)
  else if x = 0x18 then writeOpt s (tskNtickWrite p v s)
  else if 0x400 ≤ x ∧ x < 0x800 ∧ x % 8 = 0 then writeOpt s (tskLimitWrite p ((x - 0x400) / 8) v s)
  else if 0x1000 ≤ x ∧ x < 0x1200 then
    let (st, s1) := schedPost p ((x - 0x1000) / 4) v s
    (if st = 0 then .ok else .error, s1)
  else (.ok, storeReg r (tskA p x) v s)

/-- Writes of a cluster window. -/
def clusterWrite (who : Requester) (r : RegRow) (p o : Nat) (v : Word) (s : State) : WriteOut :=
  if 0x290000 ≤ o ∧ o < 0x2A0000 then bpcWrite r p ((o - 0x290000) / 0x200) (o % 0x200) v s
  else if 0x260000 ≤ o ∧ o < 0x280000 then wenWrite r p ((o - 0x260000) / 0x4000) (o % 0x4000) v s
  else if 0x300000 ≤ o ∧ o < 0x380000 then stwWrite r p (o - 0x300000) v s
  else if 0x380000 ≤ o then tskWrite who r p (o - 0x380000) v s
  else (.ok, storeReg r (physA p o) v s)

/-- Does the register's rule accept a write in the device state: R30 for instruction memories and model state (R39,
R79, R160), no write for those of the loader (R212) and of the device. -/
def ruleOpen (r : RegRow) (s : State) : Bool :=
  match r.rule with
  | .plain => true
  | .instrMem | .modelState => modelOpen s
  | .loader | .device => false

/-- A write of a register (R4 to R8, R33, R34). -/
def regWrite (who : Requester) (a : Nat) (v : Word) (s : State) : WriteOut :=
  match regRow a with
  | none => writeErr s
  | some r =>
    if a < 0x10000 ∨ ruleOpen r s = false then writeErr s
    else if a < 0x20000 then
      (match a - 0x10000 with
       | 0x00 => (.ok, sprCtrlWrite v s)
       | 0x20 => (.ok, sprCenWrite v s)
       | _ => (.ok, storeReg r a v s))
    else if a < 0x30000 then imgWrite who r (a - 0x20000) v s
    else if a < 0x40000 then timWrite r (a - 0x30000) v s
    else if a < 0x50000 then cmpWrite r (a - 0x40000) v s
    else if a < 0x60000 then dmaWrite r (a - 0x50000) v s
    else if a < 0x70000 then nocWrite r (a - 0x60000) v s
    else if a < 0x80000 then celWrite r (a - 0x70000) v s
    else if a < 0x90000 then trcWrite r (a - 0x80000) v s
    else if a < 0xA0000 then hstWrite r (a - 0x90000) v s
    else if a < 0xB0000 then (.ok, storeReg r a v s)
    else if a < 0x1800000 then laneWrite r ((a - 0x1000000) / 0x1000) (a % 0x1000) v s
    else if a < 0x2000000 then linkWrite r ((a - 0x1800000) / 0x1000) (a % 0x1000) v s
    else if a < 0x10000000 then shelfWrite r ((a - 0x2000000) / 0x100000) (a % 0x100000) v s
    else clusterWrite who r ((a - 0x10000000) / 0x400000) ((a - 0x10000000) % 0x400000) v s

end Sys2Proof.Machine
end

