-- ==== Sys2Proof/Machine/Access.lean ====
section
/-! DEFINITION. Control accesses (R4, R30 to R44, R229, R544): decoding of the address, the gates of the shelf domains,
remote windows, and the answer. -/

namespace Sys2Proof.Machine

/-! ### Decoding (R32) -/

/-- What a control address reaches. -/
inductive Target where
  | unassigned
  | reg (a : Nat)
  | shelf (h o : Nat)
  | cluster (p o : Nat)
  | logical (m o : Nat)
  | cellar (off : Nat)
  | remote (w o : Nat)
deriving DecidableEq, Repr

def targetOf (a : Nat) : Target :=
  if a < 0xB0000 ∨ (0x1000000 ≤ a ∧ a < 0x1100000) ∨ (0x1800000 ≤ a ∧ a < 0x1840000) then .reg a
  else if 0x2000000 ≤ a ∧ a < 0x3000000 then .shelf ((a - 0x2000000) / 0x100000) (a % 0x100000)
  else if 0x10000000 ≤ a ∧ a < 0x54000000 then .cluster ((a - 0x10000000) / 0x400000) (a % 0x400000)
  else if 0x100000000 ≤ a ∧ a < 0x140000000 then .logical ((a - 0x100000000) / 0x400000) (a % 0x400000)
  else if 0x1000000000 ≤ a ∧ a < 0x2000000000 then .cellar (a % 0x1000000000)
  else if 0x4000000000 ≤ a ∧ a < 0x10000000000 then .remote (a / 2 ^ 32 - 64) (a % 2 ^ 32)
  else .unassigned

/-- Until a shell takes effect only ATT, IMG, TIM, HST and PWR are reached (R229). -/
def beforeShell (t : Target) : Bool :=
  match t with
  | .reg a => a < 0x10000 || (0x20000 ≤ a && a < 0x40000) || (0x90000 ≤ a && a < 0xB0000)
  | _ => false

/-- How a requester sees the cellar through a control access (R575). -/
def celWho (who : Requester) : CelWho :=
  match who with
  | .host | .i2c | .remote _ _ => .host
  | .jtag => .jtag
  | .steward p | .core p => .steward p true
  | .dma n => .dma n
  | .attic | .loader | .mover | .tim => .attic

/-- The status of a line access as a response status (R531). -/
def lineStat (n : Nat) : RespStatus :=
  match n with
  | 0 => .ok
  | 1 => .error
  | _ => .poison

/-- A 32-bit access of the cellar at byte offset `off`; the stored line verifies. -/
def celCtlRead (who : Requester) (off : Nat) (s : State) : ReadOut :=
  let (st, b, s1) := readLine (celWho who) (off / 64) .pass s
  (lineStat st, BitVec.ofNat 32 (leNat ((b.drop (off % 64)).take 4)), s1)

def celCtlWrite (who : Requester) (off : Nat) (v : Word) (s : State) : WriteOut :=
  match writeLine (celWho who) (off / 64) (off % 64) (leBytes 4 v.toNat) .pass s with
  | (s1, .refused) => (.error, s1)
  | (s1, _) => (.ok, s1)

/-- May physical cluster `p` be reached through the physical window (R38)? -/
def physOpen (s : State) (p : Nat) : Bool := roleOf s p = .active || mapGet false s.chip.bistOpen p

/-- Perform a read that has been accepted. -/
def performRead (who : Requester) (t : Target) (s : State) : ReadOut :=
  match t with
  | .reg a => if imgA 0x8000 ≤ a ∧ a < imgA 0x10000 then (.ok, 0, s) else regRead who a s
  | .shelf h o => regRead who (shfA h o) s
  | .cluster p o =>
    match modelWord p o with
    | some m => modelRead (physA p o) (p / 17) m s
    | none => regRead who (physA p o) s
  | .cellar off => celCtlRead who off s
  | _ => readErr s

/-- Perform a write that has been accepted. -/
def performStore (who : Requester) (t : Target) (v : Word) (s : State) : WriteOut :=
  match t with
  | .reg a =>
    if imgA 0x8000 ≤ a ∧ a < imgA 0x10000 then writeOpt s (feedWrite (a - imgA 0x8000) (leBytes 4 v.toNat) s)
    else regWrite who a v s
  | .shelf h o => regWrite who (shfA h o) v s
  | .cluster p o =>
    match modelWord p o with
    | some m => modelWrite m v s
    | none => regWrite who (physA p o) v s
  | .cellar off => celCtlWrite who off v s
  | _ => writeErr s

/-- Perform an access and answer it. -/
def perform (who : Requester) (t : Target) (write : Bool) (v : Word) (s : State) : State :=
  if write then
    let (st, s1) := performStore who t v s
    answer who true st 0 s1
  else
    let (st, x, s1) := performRead who t s
    answer who false st x s1

/-! ### Gates (R544, R690, R691) -/

/-- The shelf domain that a target lies in; the power registers of a shelf are in the always-on domain. -/
def shelfOf (t : Target) : Option Nat :=
  match t with
  | .shelf h o => if o = 0x600 ∨ o = 0x604 then none else some h
  | .cluster p _ => some (p / 17)
  | _ => none

/-- A request reaches the gate of a shelf domain that is not ON: held, and a wake condition; under THERMHOLD it is
answered with an error. -/
def gateHold (h : Nat) (q : GateReq) (s : State) : State :=
  if thermHold s h then answer q.who q.write .error 0 s
  else
    let g := gateOf s h
    wakeShelf h 1 (putGate h { g with held := g.held ++ [q] } s)

/-- Control address of a target of this device, without a logical window. -/
def addrOf (t : Target) : Nat :=
  match t with
  | .reg a => a
  | .shelf h o => shfA h o
  | .cluster p o => physA p o
  | .cellar off => 0x1000000000 + off
  | _ => 0

/-- An access of this device at a control address: R4, R33, R37, R38, R229 and the gate. -/
def ctlLocal (who : Requester) (a : Nat) (write : Bool) (v : Word) (s : State) : State :=
  let t := targetOf a
  let fail := answer who write .error 0 s
  if a % 4 ≠ 0 ∨ (s.chip.shellUp = false ∧ beforeShell t = false) then fail
  else
    let go := fun (t : Target) (logical : Bool) =>
      match shelfOf t with
      | some h =>
        if shelfOn s h then perform who t write v s
        else gateHold h { who := who, addr := addrOf t, logical := logical, write := write, data := v } s
      | none => perform who t write v s
    match t with
    | .unassigned | .remote _ _ => fail
    | .logical m o =>
      let p := physOf s m
      if mapGet false s.chip.bistOpen p then fail else go (.cluster p o) true
    | .cluster p _ => if physOpen s p then go t false else fail
    | _ => go t false

/-- A held request is delivered when its shelf domain is ON; it completes on the cluster it was accepted for (R37). -/
def deliver (q : GateReq) (s : State) : State :=
  let t := targetOf q.addr
  match t with
  | .cluster p _ =>
    if q.logical || physOpen s p then perform q.who t q.write q.data s else answer q.who q.write .error 0 s
  | _ => perform q.who t q.write q.data s

/-- Device address of remote window 0 for a requester (R39, R43, R495). -/
def remoteBase (s : State) (who : Requester) : Nat :=
  match who with
  | .steward p | .core p => rdFld s (stwA p 0x10) 0 12
  | _ => rdFld s (hstA 0x40) 0 12

/-- The access came from another device. -/
def fromRemote (who : Requester) : Bool :=
  match who with
  | .remote _ _ => true
  | _ => false

/-- A control access (R32, R40, R41). A request from another device reaches neither its cellar, its logical windows nor
its remote windows. -/
def ctl (who : Requester) (a : Nat) (write : Bool) (v : Word) (s : State) : State :=
  let fail := answer who write .error 0 s
  let far := fromRemote who
  if s.chip.devState = .off then s
  else match targetOf a with
    | .remote w o =>
      let d := remoteBase s who + w
      if far ∨ 4095 < d ∨ assigned s = false ∨ o % 4 ≠ 0 ∨ s.chip.shellUp = false then fail
      else if d = devAddr s then ctlLocal who o write v s
      else remoteIssue who d o write v s
    | .logical _ _ | .cellar _ => if far then fail else ctlLocal who a write v s
    | _ => ctlLocal who a write v s

/-! ### Requesters -/

/-- May this requester issue an access now? A host request reaches the device while the endpoint answers memory
requests; a steward issues accesses while its shelf is ON and its cluster is active. -/
def canIssue (s : State) (who : Requester) : Bool :=
  match who with
  | .host => hostReach s
  | .steward p => p < 272 && roleOf s p = .active && shelfOn s (p / 17)
  | .remote _ _ => s.chip.shellUp
  | .i2c | .jtag => s.chip.devState ≠ .off
  | .core _ | .dma _ | .attic | .loader | .mover | .tim => false

/-- An access that a command names. Host addresses from 2^40 are offsets of BAR4 (R697, R700). -/
def request (who : Requester) (a : Nat) (write : Bool) (v : Word) (s : State) : State :=
  if !canIssue s who then s
  else if who = .host ∧ 2 ^ 40 ≤ a then
    (if a % 4 ≠ 0 ∨ 2 ^ 40 + 2 ^ 16 ≤ a then answer who write .error 0 s
     else if write then bar4Write (a - 2 ^ 40) v s
     else giveResp .host .ok (bar4Read s (a - 2 ^ 40)) s)
  else ctl who a write v s

/-- An access of `len` bytes; one that is not of 32 bits is no access of a register (R4). -/
def requestLen (who : Requester) (a len : Nat) (write : Bool) (v : Word) (s : State) : State :=
  if len = 4 then request who a write v s
  else if canIssue s who then answer who write .error 0 s else s

/-- REG_WRITE: a control write of `len` bytes (R4 to R6). -/
def execRegWrite (who : Requester) (a len : Nat) (v : Word) (s : State) : Out := .next (requestLen who a len true v s)

/-- WIDE_READ_CAPTURE: a control read; of the lowest word of a wide quantity it captures the others (R5). -/
def execWideReadCapture (who : Requester) (a len : Nat) (s : State) : Out := .next (requestLen who a len false 0 s)

/-- TIM_NOW_CAPTURE: a read of word 0 of TIM_TB0_NOW (R450). -/
def execTimNowCapture (who : Requester) (s : State) : Out := .next (request who (timA 0x10) false 0 s)

/-- MODEL_STATE_ACCESS: an access through a cluster window (R30). -/
def execModelStateAccess (who : Requester) (a : Nat) (write : Bool) (v : Word) (s : State) : Out :=
  .next (match targetOf a with
    | .cluster _ _ | .logical _ _ => request who a write v s
    | _ => s)

/-- REMOTE_ACCESS: an access through remote window `w` (R40, R41). -/
def execRemoteAccess (who : Requester) (w o : Nat) (write : Bool) (v : Word) (s : State) : Out :=
  .next (if w < 192 ∧ o < 2 ^ 32 then request who (0x4000000000 + w * 2 ^ 32 + o) write v s else s)

/-- REMOTE_ACCESS_TIMEOUT: 1 ms of TB1 has passed since the access with this TAG was issued (R41). -/
def remoteTimeout (tag : Nat) (s : State) : State :=
  match s.chip.remote.find? (fun r => r.tag = tag) with
  | some r => answer r.who r.write .error 0 { s with chip := { s.chip with remote := s.chip.remote.erase r } }
  | none => s

def execRemoteAccessTimeout (tag : Nat) (s : State) : Out := .next (remoteTimeout tag s)

/-- GATE_REQUEST: a request reaches the gate of a shelf domain: it is delivered, or held (R544). -/
def execGateRequest (who : Requester) (a : Nat) (write : Bool) (v : Word) (s : State) : Out :=
  .next (match targetOf a with
    | .cluster _ _ | .logical _ _ | .shelf _ _ => request who a write v s
    | _ => s)

/-! ### RREQ and RRSP (R362, R410 to R412) -/

/-- RREQ, arriving on link `l` from device `src` for device `dst`: performed here, passed on, or answered by the root
where no device has that address. A request passed on keeps its SRC (R410). -/
def rreq (l src dst addr : Nat) (write : Bool) (tag : Nat) (v : Word) (s : State) : State :=
  if !serviceOpen s l ∨ s.chip.devState = .off ∨ !assigned s then s
  else
    let who : Requester := .remote (src % 4096) (tag % 65536)
    match routeTo s dst with
    | .self => ctl who addr write v s
    | .link k =>
      sendServiceFrom (src % 4096) k 0x01 dst (leBytes 5 addr ++ leBytes 1 (b2n write) ++ leBytes 2 tag ++ leBytes 4 v.toNat) s
    | .nowhere => if s.crt.isRoot then answer who write .error 0 s else s

def execRreq (l src dst addr : Nat) (write : Bool) (tag : Nat) (v : Word) (s : State) : Out :=
  .next (rreq l src dst addr write tag v s)

/-- RRSP, arriving on link `l` for device `dst`: it completes the access with its TAG, or is passed on. Responses return
in the order of issue. -/
def rrsp (l dst tag : Nat) (bad : Bool) (v : Word) (s : State) : State :=
  if !serviceOpen s l ∨ s.chip.devState = .off ∨ !assigned s then s
  else match routeTo s dst with
    | .self =>
      match s.chip.remote.find? (fun r => r.tag = tag) with
      | some r =>
        answer r.who r.write (if bad then .error else .ok) v
          { s with chip := { s.chip with remote := s.chip.remote.erase r } }
      | none => s
    | .link k => sendService k 0x02 dst (leBytes 2 tag ++ leBytes 1 (b2n bad) ++ [0#8] ++ leBytes 4 v.toNat) s
    | .nowhere => s

def execRrsp (l dst tag : Nat) (bad : Bool) (v : Word) (s : State) : Out := .next (rrsp l dst tag bad v s)

/-! ### Writes of registers that have rows of their own -/

/-- A write of the register at `a` by a requester. -/
def writeAt (who : Requester) (a : Nat) (v : Word) (s : State) : Out := .next (request who a true v s)

/-- SPR_CTRL (R206 to R209, R213). -/
def execSprCtrlRun (who : Requester) (s : State) : Out := writeAt who (sprA 0) 1 s
def execSprCtrlHold (who : Requester) (s : State) : Out := writeAt who (sprA 0) 2 s
def execSprCtrlResume (who : Requester) (s : State) : Out := writeAt who (sprA 0) 4 s
def execSprCtrlForceRb (who : Requester) (s : State) : Out := writeAt who (sprA 0) 8 s
/-- SPR_CEN (R178). -/
def execSprCenWrite (who : Requester) (v : Word) (s : State) : Out := writeAt who (sprA 0x20) v s

/-- IMG_CTRL (R226, R234, R249, R257, R263). -/
def execLoad (who : Requester) (s : State) : Out := writeAt who (imgA 0) 1 s
def execReload (who : Requester) (s : State) : Out := writeAt who (imgA 0) 2 s
def execAbort (who : Requester) (s : State) : Out := writeAt who (imgA 0) 4 s
def execShellFeed (who : Requester) (s : State) : Out := writeAt who (imgA 0) 8 s
def execReboot (who : Requester) (s : State) : Out := writeAt who (imgA 0) 16 s

/-- FEED_WRITE: a write of any multiple of four bytes to the feed window (R250). -/
def feedRequest (who : Requester) (ofs : Nat) (bytes : List Byte) (s : State) : State :=
  if !canIssue s who then s
  else if 0x8000 ≤ ofs then answer who true .error 0 s
  else match feedWrite ofs bytes s with
    | some t => answer who true .ok 0 t
    | none => answer who true .error 0 s

def execFeedWrite (who : Requester) (ofs : Nat) (bytes : List Byte) (s : State) : Out :=
  .next (feedRequest who ofs bytes s)

/-- SHF_BORDER_k (R280). -/
def execBorderModeWrite (who : Requester) (h k : Nat) (v : Word) (s : State) : Out :=
  writeAt who (shfA h (0x10000 + 4 * k)) v s

/-- Acquisition control (R305, R323, R324). -/
def execArm (who : Requester) (v : Word) (s : State) : Out := writeAt who (cmpA 0x10) (v ||| 1) s
def execDisarm (who : Requester) (v : Word) (s : State) : Out := writeAt who (cmpA 0x10) (v ||| 2) s
def execTrig (who : Requester) (v : Word) (s : State) : Out := writeAt who (cmpA 0x10) (v ||| 4) s
def execAcqControlWrite (who : Requester) (o : Nat) (v : Word) (s : State) : Out :=
  .next (if [0x10, 0x14, 0x18, 0x1C, 0x20, 0x24].contains o then request who (cmpA o) true v s else s)
/-- Settings that R286 stages. -/
def execCmpStagedWrite (who : Requester) (o : Nat) (v : Word) (s : State) : Out :=
  .next (if isCmpSetting (cmpA o) then request who (cmpA o) true v s else s)
/-- CLR of CMP_SWEEP_CTRL (R316). -/
def execSweepClr (who : Requester) (v : Word) (s : State) : Out := writeAt who (cmpA 0x70) (v ||| 2) s
/-- CMP_NOTIFY (R315). -/
def execCmpNotifyWrite (who : Requester) (v : Word) (s : State) : Out := writeAt who (cmpA 0xC) v s

/-- Inject registers and counters of logical cluster `m` (R77, R85, R131, R136). -/
def logA (m o : Nat) : Nat := 0x100000000 + m * 0x400000 + o
def execBpcInjWrite (who : Requester) (m n r : Nat) (v : Word) (s : State) : Out :=
  .next (if m < 256 ∧ n < 128 ∧ r < 3 then request who (logA m (0x290000 + n * 0x200 + 4 * r)) true v s else s)
def execBpcCntClr (who : Requester) (m n : Nat) (s : State) : Out :=
  .next (if m < 256 ∧ n < 128 then request who (logA m (0x290000 + n * 0x200 + 0x18)) true 0x20 s else s)
def execWenCntClr (who : Requester) (m e : Nat) (s : State) : Out :=
  .next (if m < 256 ∧ e < 8 then request who (logA m (0x260000 + e * 0x4000 + 0x220C)) true 0x20 s else s)
def execStrCntClr (who : Requester) (m r : Nat) (s : State) : Out :=
  .next (if m < 256 ∧ r < 4 then request who (logA m (0x260000 + r * 0x4000 + 0x2808)) true 0x20 s else s)

/-- Links and lanes (R351, R382, R384, R389, R393). -/
def execRetrain (who : Requester) (l : Nat) (s : State) : Out :=
  .next (if l < 64 then request who (linkA l 0x10) true ((rdReg s (linkA l 0x10) &&& 0x1FE) ||| 1) s else s)
def execLinkLoopbackWrite (who : Requester) (l : Nat) (v : Word) (s : State) : Out :=
  .next (if l < 64 then request who (linkA l 0x10) true v s else s)
def execSpWmWrite (who : Requester) (l : Nat) (v : Word) (s : State) : Out :=
  .next (if l < 64 then request who (linkA l 0x104) true v s else s)
def execLaneCtrlWrite (who : Requester) (p : Nat) (v : Word) (s : State) : Out :=
  .next (if p < 256 then request who (laneA p 0) true v s else s)
def execLaneCntClr (who : Requester) (p : Nat) (s : State) : Out :=
  .next (if p < 256 then request who (laneA p 0) true ((rdReg s (laneA p 0) &&& 0x773) ||| 0x800) s else s)

/-- ENUM (R400). -/
def execEnum (who : Requester) (s : State) : Out := writeAt who (hstA 0x100) 1 s

/-- Time (R432, R443, R446). -/
def execPulseArm (who : Requester) (n : Nat) (v : Word) (s : State) : Out :=
  .next (if n < 8 then request who (plsCtrl n) true (v ||| 1) s else s)
def execPulseDisarm (who : Requester) (n : Nat) (v : Word) (s : State) : Out :=
  .next (if n < 8 then request who (plsCtrl n) true (v &&& ~~~ 1#32) s else s)
def execLawArm (who : Requester) (k : Nat) (s : State) : Out :=
  .next (if 1 ≤ k ∧ k ≤ 3 then request who (lawA k 0x1C) true 1 s else s)
def execRevert (who : Requester) (s : State) : Out := writeAt who (timA 0) 1 s

/-- Scheduler commands, written by the scheduler's own steward (R512): TSK_ARG, then TSK_CMD. -/
def tskRequest (p op target : Nat) (arg : Word) (s : State) : State :=
  if p < 272 then
    request (.steward p) (tskA p 0x14) true (BitVec.ofNat 32 (op % 16 + 16 * (target % 128)))
      (request (.steward p) (tskA p 0x10) true arg s)
  else s

def execCreate (p slot : Nat) (deadline : Word) (s : State) : Out := .next (tskRequest p 1 slot deadline s)
def execFree (p slot : Nat) (s : State) : Out := .next (tskRequest p 2 slot 0 s)
def execDispatch (p slot : Nat) (s : State) : Out := .next (tskRequest p 3 slot 0 s)
def execYield (p slot : Nat) (s : State) : Out := .next (tskRequest p 4 slot 0 s)
def execBlock (p slot : Nat) (s : State) : Out := .next (tskRequest p 5 slot 0 s)
def execUnblock (p slot : Nat) (s : State) : Out := .next (tskRequest p 6 slot 0 s)
def execSetdl (p slot : Nat) (deadline : Word) (s : State) : Out := .next (tskRequest p 7 slot deadline s)
def execWait (p slot : Nat) (arg : Word) (s : State) : Out := .next (tskRequest p 8 slot arg s)
def execFlush (p flow : Nat) (s : State) : Out := .next (tskRequest p 9 flow 0 s)

/-- TSK_CTRL.CLR (R517). -/
def execTskClr (who : Requester) (p : Nat) (s : State) : Out :=
  .next (if p < 272 then request who (tskA p 0) true ((rdReg s (tskA p 0) &&& 3) ||| 4) s else s)
/-- TSK_POST_f (R507). -/
def execTskPost (who : Requester) (p f : Nat) (item : Word) (s : State) : Out :=
  .next (if p < 272 ∧ f < 128 then request who (tskA p (0x1000 + 4 * f)) true item s else s)

/-- NOC_RT_CTRL.SWITCH (R539). -/
def execSwitch (who : Requester) (s : State) : Out := writeAt who (nocA 4) 1 s

/-- SHF_PWR_CTRL (R690, R693); AUTO and IDLE_US keep their values. -/
def execShelfDown (who : Requester) (h : Nat) (s : State) : Out :=
  .next (if h < 16 then request who (pwrCtrl h) true ((rdReg s (pwrCtrl h) &&& 0xFFFF0001) ||| 2) s else s)
def execShelfUp (who : Requester) (h : Nat) (s : State) : Out :=
  .next (if h < 16 then request who (pwrCtrl h) true ((rdReg s (pwrCtrl h) &&& 0xFFFF0001) ||| 4) s else s)

/-- DMA_CHn_CTRL and ACK (R552, R558, R562, R563). -/
def execDmaGo (who : Requester) (n : Nat) (v : Word) (s : State) : Out :=
  .next (if n < 32 then request who (dmaReg n 0x18) true ((v ||| 1) &&& ~~~ 2#32) s else s)
def execDmaAbort (who : Requester) (n : Nat) (v : Word) (s : State) : Out :=
  .next (if n < 32 then request who (dmaReg n 0x18) true (v ||| 2) s else s)
def execDmaAck (who : Requester) (n : Nat) (s : State) : Out :=
  .next (if n < 32 then request who (dmaReg n 0x1C) true 0x100 s else s)

/-- CEL_BLOB_CTRL with GO and an OP (R589 to R591, R600). -/
def execSeal (who : Requester) (slot : Nat) (s : State) : Out :=
  writeAt who blobCtrl (BitVec.ofNat 32 (1 + 256 * (slot % 256))) s
def execUnseal (who : Requester) (slot : Nat) (s : State) : Out :=
  writeAt who blobCtrl (BitVec.ofNat 32 (3 + 256 * (slot % 256))) s

/-- Trace (R646, R661). -/
def execTrcSrcWrite (who : Requester) (k : Nat) (v : Word) (s : State) : Out :=
  .next (if k < 16 then request who (trcA (0x100 + 4 * k)) true v s else s)
def execTrcCtrlWrite (who : Requester) (v : Word) (s : State) : Out := writeAt who (trcA 0) v s

/-- STW_CTRL, STW_DBELL and the debug registers (R490, R492, R494, R668). -/
def execHalt (who : Requester) (p : Nat) (s : State) : Out :=
  .next (if p < 272 then request who (stwA p 0) true 1 s else s)
def execHaltClear (who : Requester) (p : Nat) (s : State) : Out :=
  .next (if p < 272 then request who (stwA p 0) true 0 s else s)
def execStwRestart (who : Requester) (p : Nat) (halt : Bool) (s : State) : Out :=
  .next (if p < 272 then request who (stwA p 0) true (BitVec.ofNat 32 (2 + b2n halt)) s else s)
def execStewardDoorbell (who : Requester) (p : Nat) (v : Word) (s : State) : Out :=
  .next (if p < 272 then request who (stwA p 0xC) true v s else s)
def execStwDbgWrite (who : Requester) (p o : Nat) (v : Word) (s : State) : Out :=
  .next (if p < 272 ∧ 0x40100 ≤ o ∧ o < 0x40168 then request who (stwA p o) true v s else s)

/-- Host doorbells, interrupts and flash (R702, R703, R705). -/
def execHostDoorbell (who : Requester) (m : Nat) (v : Word) (s : State) : Out :=
  .next (if m < 256 then request who (hstA (0x800 + 4 * m)) true v s else s)
def execFwirq (who : Requester) (v : Word) (s : State) : Out := writeAt who (hstA 0x10) v s
def execFlashGo (who : Requester) (v : Word) (s : State) : Out := writeAt who (hstA 0x30) (v ||| 1) s

/-! ### Shelf phases (R542, R544) -/

/-- SHELF_PHASE_DONE: held requests are delivered in arrival order at ON, or answered with an error where the power-up
fails. -/
def shelfPhaseDone (h : Nat) (ok : Bool) (s : State) : State :=
  let (s1, go, lost) := shelfPhase h ok s
  lost.foldl (fun acc q => answer q.who q.write .error 0 acc) (go.foldl (fun acc q => deliver q acc) s1)

def execShelfPhaseDone (h : Nat) (ok : Bool) (s : State) : Out := .next (if h < 16 then shelfPhaseDone h ok s else s)

/-! ### An access that its requester waits for (R473, R553) -/

/-- An answer for the requester has arrived. -/
def takeResp (who : Requester) (s : State) : Option (Resp × State) :=
  (s.chip.resps.find? (fun r => r.who = who)).map (fun r =>
    (r, { s with chip := { s.chip with resps := s.chip.resps.erase r } }))

/-- The requester's access is on its way: in another device, or held at a gate. -/
def awaiting (who : Requester) (s : State) : Bool :=
  s.chip.remote.any (fun r => r.who = who) || s.noc.gates.any (fun q => q.2.held.any (fun r => r.who = who))

/-- An access whose requester waits for the response: its answer, once there is one. -/
def ctlSync (who : Requester) (a : Nat) (write : Bool) (v : Word) (s : State) : Option Resp × State :=
  match takeResp who s with
  | some (r, s1) => (some r, s1)
  | none =>
    if awaiting who s then (none, s)
    else
      let s1 := ctl who a write v s
      match takeResp who s1 with
      | some (r, s2) => (some r, s2)
      | none => (none, s1)

end Sys2Proof.Machine
end

