-- ==== Sys2Proof/Machine/Ports.lean ====
section
/-! DEFINITION. The responses of the DMA engines (R551 to R559), the JTAG port (R662 to R667, R712), the I²C management
target (R706 to R708), and the link events that can end a load. -/

namespace Sys2Proof.Machine

/-! ### DMA reads (R551, R553, R556, R558) -/

/-- How a side of a channel is reached: host memory, cellar lines, single register accesses, or the range that R551
leaves unassigned. -/
inductive DmaSide where
  | host | lines | register | nothing
deriving DecidableEq, Repr

def dmaSide (host : Bool) (a : Nat) : DmaSide :=
  if host then .host
  else if inCellar a then .lines
  else if 0x1100000000 ≤ a ∧ a < 0x4000000000 then .nothing
  else .register

/-- Address of byte `ofs` of a side that begins at `a`. -/
def sideAt (fix : Bool) (a ofs : Nat) : Nat := if fix then a else a + ofs

/-- Bytes of the next burst at an address: up to 512, never across a 512-byte boundary; 4 for a register target. -/
def burstLen (side : DmaSide) (a left : Nat) : Nat :=
  match side with
  | .register | .nothing => 4
  | _ => min left (512 - a % 512)

/-- A line as the engine reads it: the ciphertext of a sealed line, unchecked; an open line, whose bytes are none where
it is poisoned. The first part is 0, 1 for an error, 2 for poison. -/
def dmaLine (n l : Nat) (chk : Verdict) (s : State) : Nat × List Byte × State :=
  if lineSealed s l then
    (if lineCtr s l = 0 then
      let (b, s1) := freeBytes 64 s
      (0, b, s1)
     else (0, lineCipher s l, s))
  else readLine (.dma n) l chk s

/-- A burst of the cellar, from a byte offset: 0, 1 or 2 as for a line, and the bytes. -/
def dmaLines (n off len : Nat) (chk : Verdict) (s : State) : Nat × List Byte × State :=
  (cutLines off (List.replicate len 0#8)).foldl (fun (acc : Nat × List Byte × State) q =>
    let (st, got, x) := acc
    if st ≠ 0 then acc
    else
      let (st1, b, x1) := dmaLine n q.1 chk x
      (st1, got ++ (b.drop q.2.1).take q.2.2.length, x1)) (0, [], s)

/-- Bytes read enter the channel's share of the lake. -/
def dmaTake (n : Nat) (bytes : List Byte) (s : State) : State :=
  let x := chanOf s n
  putChan n { x with lake := x.lake ++ bytes, readOfs := x.readOfs + bytes.length } s

/-- The read engine issues a burst for the channel: it is active, nothing ends it, bytes remain, and its share of the
lake has room. -/
def dmaReads (s : State) (n : Nat) : Bool :=
  let x := chanOf s n
  x.st = .active && x.ending.isNone && decide (x.readOfs < dmaCount s n) && decide (x.lake.length < 4096 * dmaLake s n)

/-- A burst read from the cellar. -/
def dmaReadLines (n off len : Nat) (chk : Verdict) (s : State) : State :=
  match dmaLines n off len chk s with
  | (0, b, s1) => dmaTake n b s1
  | (1, _, s1) => dmaStop n .err 1 s1
  | (_, _, s1) => dmaStop n .err 3 s1

/-- A word read from a register. -/
def dmaReadReg (n a : Nat) (s : State) : State :=
  match ctlSync (.dma n) a false 0 s with
  | (none, s1) => s1
  | (some r, s1) => if r.status = .ok then dmaTake n (leBytes 4 r.data.toNat) s1 else dmaStop n .err 1 s1

/-- DMA_READ_RESPONSE: the response to the next burst of the source; `data` and `bad` are the answer of host memory. -/
def dmaReadResp (n : Nat) (data : List Byte) (bad : Bool) (chk : Verdict) (s : State) : State :=
  if !dmaReads s n then s
  else
    let x := chanOf s n
    let c := dmaCtrl s n
    let a := sideAt (bit c 4) (dmaAddr s n 0) x.readOfs
    let side := dmaSide (bit c 2) (dmaAddr s n 0)
    let len := min (burstLen side a (dmaCount s n - x.readOfs)) (4096 * dmaLake s n - x.lake.length)
    match side with
    | .host => if bad then dmaStop n .err 1 s else if data.length = len then dmaTake n data s else s
    | .nothing => dmaStop n .err 1 s
    | .lines => dmaReadLines n (a % 0x1000000000) len chk s
    | .register => dmaReadReg n a s

def execDmaReadResponse (n : Nat) (data : List Byte) (bad : Bool) (chk : Verdict) (s : State) : Out :=
  .next (if n < 32 then dmaReadResp n data bad chk s else s)

/-! ### DMA writes (R553, R556 to R558) -/

/-- A failed write has already ended the count of RESID. -/
def writeFailed (x : DmaCh) : Bool :=
  match x.ending with
  | some (.err, 2) | some (.err, 6) => true
  | _ => false

/-- A write of `len` bytes is answered: it has left the lake, and with a good response RESID counts it. With the last
issued write answered, the channel ends, at its commit point in DONE (R557). -/
def dmaWrote (n len : Nat) (s : State) : State :=
  let x := chanOf s n
  let y := { x with lake := x.lake.drop len, doneOfs := x.doneOfs + len }
  let s1 := whenDo (!writeFailed x) (setResid n (dmaCount s n - y.doneOfs)) (putChan n y s)
  if !y.lake.isEmpty then s1
  else match y.ending with
    | some (st, e) => dmaEnd n st e s1
    | none => if dmaCount s n ≤ y.doneOfs then dmaEnd n .done 0 s1 else s1

/-- A write fails: the channel ends with ERR once its other writes are answered, whatever was ending it. -/
def dmaFailed (n len err : Nat) (s : State) : State :=
  let x := chanOf s n
  dmaWrote n len (if writeFailed x then s else putChan n { x with ending := some (.err, err) } s)

/-- Write bytes to cellar lines in order; 0, or the error code of the line that fails. -/
def dmaPut (n off : Nat) (bytes : List Byte) (chk : Verdict) (s : State) : Nat × State :=
  (cutLines off bytes).foldl (fun (acc : Nat × State) q =>
    let (e, x) := acc
    if e ≠ 0 then acc
    else
      let code := if lineSealed x q.1 then 6 else 2
      match writeLine (.dma n) q.1 q.2.1 q.2.2 chk x with
      | (x1, .refused) => (code, x1)
      | (x1, _) => (0, x1)) (0, s)

/-- A burst written to the cellar. -/
def dmaWriteLines (n off : Nat) (bytes : List Byte) (chk : Verdict) (s : State) : State :=
  match dmaPut n off bytes chk s with
  | (0, s1) => dmaWrote n bytes.length s1
  | (e, s1) => dmaFailed n bytes.length e s1

/-- A word written to a register. -/
def dmaWriteReg (n a : Nat) (bytes : List Byte) (s : State) : State :=
  match ctlSync (.dma n) a true (BitVec.ofNat 32 (leNat bytes)) s with
  | (none, s1) => s1
  | (some r, s1) => if r.status = .ok then dmaWrote n bytes.length s1 else dmaFailed n bytes.length 2 s1

/-- DMA_WRITE_RESPONSE: the oldest write of the channel is performed and its response accepted. -/
def dmaWriteResp (n : Nat) (chk : Verdict) (s : State) : State :=
  let x := chanOf s n
  if x.st ≠ .active || x.lake.isEmpty then s
  else
    let c := dmaCtrl s n
    let a := sideAt (bit c 5) (dmaAddr s n 8) x.doneOfs
    let side := dmaSide (bit c 3) (dmaAddr s n 8)
    let len := burstLen side a x.lake.length
    let bytes := x.lake.take len
    match side with
    | .host => dmaWrote n len { s with outbox := .hostWrite a bytes :: s.outbox }
    | .nothing => dmaFailed n len 2 s
    | .lines => dmaWriteLines n (a % 0x1000000000) bytes chk s
    | .register => dmaWriteReg n a bytes s

def execDmaWriteResponse (n : Nat) (chk : Verdict) (s : State) : Out :=
  .next (if n < 32 then dmaWriteResp n chk s else s)

/-! ### The JTAG port (R662 to R664, R712) -/

def onJtag (f : Jtag → Jtag) (s : State) : State := { s with trc := { s.trc with jtag := f s.trc.jtag } }

/-- The TAP works in every device state but Off. -/
def tapOn (s : State) : Bool := s.chip.devState ≠ .off

/-- Instructions under which the pins leave the device's functions (R664). -/
def drivesPins (ir : Nat) : Bool := ir = 0x00 || (3 ≤ ir && ir ≤ 6)

/-- Stream ports and tree links lose their lanes (R352, R416, R664). -/
def loseLanes (s : State) : State :=
  (List.range 64).foldl (fun acc l =>
    if linkState acc l = 8 then watchTree acc (linkDown l 0 acc) else acc) s

/-- An instruction becomes current. -/
def tapSelect (ir : Nat) (s : State) : State :=
  let was := s.trc.jtag.ir
  whenDo (drivesPins ir && !drivesPins was) loseLanes (onJtag (fun j => { j with ir := ir }) s)

/-- Cells of the boundary register (R712). -/
def boundaryCells : Nat := 1217

/-- A scan of the boundary register: Capture-DR loads the cells with `pins`, Shift-DR with `shift` where the scan shifts
all of it, and Update-DR passes the cells to the update latches. -/
def boundaryScan (pins : List Bool) (shift : Option (List Bool)) (s : State) : State :=
  let new := ((shift.getD pins).take boundaryCells).zipIdx.map (fun q => (q.2, q.1))
  onJtag (fun j =>
    let c := mapSetAll false [] new
    { j with cells := c, drive := c }) s

/-- A boundary instruction: selected, with an optional scan. -/
def tapBoundary (ir : Nat) (scan : Option BoundScan) (s : State) : State :=
  if !tapOn s then s
  else
    let s1 := tapSelect ir s
    match scan with
    | some x => boundaryScan x.pins x.shift s1
    | none => s1

def execExtest (scan : Option BoundScan) (s : State) : Out := .next (tapBoundary 0x00 scan s)
def execSamplePreload (scan : Option BoundScan) (s : State) : Out := .next (tapBoundary 0x01 scan s)
def execExtestPulse (scan : Option BoundScan) (s : State) : Out := .next (tapBoundary 0x05 scan s)
def execExtestTrain (scan : Option BoundScan) (s : State) : Out := .next (tapBoundary 0x06 scan s)

/-- An instruction with a data register that Capture-DR loads with `v`. -/
def tapPlain (ir v : Nat) (s : State) : State :=
  if !tapOn s then s else onJtag (fun j => { j with dr := v }) (tapSelect ir s)

/-- TAP_RESET: IDCODE is selected (R662); the boundary register no longer drives the pins. -/
def execTapReset (s : State) : Out := .next (tapPlain 0x02 0x17240C35 s)
def execIdcode (s : State) : Out := .next (tapPlain 0x02 0x17240C35 s)
/-- HIGHZ and CLAMP scan the bypass register, which Capture-DR loads with 0. -/
def execHighz (s : State) : Out := .next (tapPlain 0x03 0 s)
def execClamp (s : State) : Out := .next (tapPlain 0x04 0 s)
/-- BYPASS, and every code that names no instruction. -/
def execBypass (s : State) : Out := .next (tapPlain 0xFF 0 s)

/-! ### DBGACC, DBGMB and DBGSTAT (R665 to R667) -/

/-- An access that the TAP performs without the JTAG grant: reads of the ATT, TRC and HST blocks, and the open area of
the cellar. -/
def openToJtag (s : State) (a : Nat) (write : Bool) : Bool :=
  match targetOf a with
  | .reg x => !write && (x < 0x10000 || (0x80000 ≤ x && x < 0xA0000))
  | .cellar off => regionUse s (off / 2 ^ 20) = 3
  | _ => false

/-- DBGACC at Update-DR. -/
def dbgUpdate (data : Word) (addr : Nat) (write start : Bool) (s : State) : State :=
  if !start || s.trc.jtag.accBusy then s
  else if granted s 2 || openToJtag s addr write then
    ctl .jtag addr write data (onJtag (fun j => { j with accBusy := true }) s)
  else onJtag (fun j => { j with accStat := 2 }) s

/-- DBGACC: Capture-DR loads DATA and STATUS of the last access, Update-DR acts. -/
def dbgAcc (data : Word) (addr : Nat) (write start : Bool) (s : State) : State :=
  let j := s.trc.jtag
  let cap := j.accData.toNat + 2 ^ 74 * (if j.accBusy then 3 else j.accStat)
  if tapOn s then dbgUpdate data (addr % 2 ^ 40) write start (tapPlain 0x10 cap s) else s

def execDbgacc (data : Word) (addr : Nat) (write start : Bool) (s : State) : Out :=
  .next (dbgAcc data addr write start s)

/-- DBGMB at Update-DR: a word joins the request buffer, or empties it; LAST submits the buffer as a host request. -/
def dbgMbUpdate (word : Word) (last discard : Bool) (s : State) : State :=
  let mb := s.trc.jtag.mb ++ leBytes 4 word.toNat
  if !discard && 4096 < mb.length then onJtag (fun j => { j with mb := [], mbErr := true }) s
  else
    let mb := if discard then [] else mb
    if last then
      match submitMb .host mb s with
      | (s1, some t) => onJtag (fun j => { j with mb := [], ticket := t, full := false }) s1
      | (s1, none) => onJtag (fun j => { j with mb := [], full := true }) s1
    else onJtag (fun j => { j with mb := mb }) s

def execDbgmb (word : Word) (last discard : Bool) (s : State) : Out :=
  .next (if tapOn s then dbgMbUpdate word last discard (tapPlain 0x11 0 s) else s)

/-- The word that DBGSTAT shows (R667). -/
def dbgStat (s : State) : Nat :=
  let j := s.trc.jtag
  j.ticket % 65536 + 2 ^ 16 * b2n j.full + 2 ^ 17 * b2n j.mbErr + 2 ^ 18 * b2n (rdBit s (attA 0) 18) +
    2 ^ 19 * stateCode s.chip.devState

def execDbgstat (s : State) : Out := .next (tapPlain 0x12 (dbgStat s) s)

/-! ### The management target (R707, R708) -/

/-- SETADDR: the control address of the accesses that follow. -/
def execSetaddr (a : Nat) (s : State) : Out :=
  .next (if s.chip.devState = .off then s else onHst (fun h => { h with i2cAddr := a % 2 ^ 40, i2cReply := [] }) s)

/-- The registers that the target writes (R708). -/
def i2cWritable (a : Nat) : Bool := a = imgA 0 || a = sprA 0 || a = hstA 8

/-- Issue an access; the address advances by 4. -/
def i2cIssue (write : Bool) (v : Word) (s : State) : State :=
  let a := s.hst.i2cAddr
  ctl .i2c a write v (onHst (fun h => { h with i2cBusy := true, i2cAddr := (a + 4) % 2 ^ 40 }) s)

/-- Answer a command without an access. -/
def i2cSay (status : Nat) (s : State) : State :=
  onHst (fun h => { h with i2cStat := status, i2cReply := leBytes 1 status }) s

/-- WRITE: a permitted write is issued, another refused; while an access is busy nothing is issued. -/
def i2cWrite (v : Word) (s : State) : State :=
  if s.chip.devState = .off then s
  else if s.hst.i2cBusy then i2cSay 3 s
  else if i2cWritable s.hst.i2cAddr then i2cIssue true v s
  else i2cSay 2 s

def execWrite (v : Word) (s : State) : Out := .next (i2cWrite v s)

/-- READ. -/
def i2cRead (s : State) : State :=
  if s.chip.devState = .off then s else if s.hst.i2cBusy then i2cSay 3 s else i2cIssue false 0 s

def execRead (s : State) : Out := .next (i2cRead s)

/-- STATE: one byte of device state and pin levels. -/
def i2cState (s : State) : Nat :=
  stateCode s.chip.devState + 8 * b2n s.chip.loadErr + 16 * b2n (faultN s) + 32 * b2n s.hst.therm

def execState (s : State) : Out :=
  .next (if s.chip.devState = .off then s else onHst (fun h => { h with i2cReply := leBytes 1 (i2cState s) }) s)

/-- I2C_STRETCH_TIMEOUT: an access has kept the clock stretched for 1 ms. -/
def execI2cStretchTimeout (s : State) : Out := .next (if s.hst.i2cBusy then i2cSay 3 s else s)

/-! ### Link events that end a broadcast (R258) -/

/-- LINK_STAGE_TIMEOUT (R351). -/
def execLinkStageTimeout (l : Nat) (s : State) : Out := .next (watchTree s (linkStageTimeout l s))
/-- LANE_LOCK_LOST (R352). -/
def execLaneLockLost (p : Nat) (s : State) : Out := .next (watchTree s (laneLockLost p s))
/-- SERVICE_RESEND_TIMEOUT (R361). -/
def execServiceResendTimeout (l : Nat) (s : State) : Out :=
  .next (if serviceOpen s l then watchTree s (svcResend l s) else s)

end Sys2Proof.Machine
end

