-- ==== Sys2Proof/Machine/StewardOps.lean ====
section
/-! DEFINITION. Steward instructions: decoding (R458 to R460), arithmetic (R461 to R463), system registers (R480, R481) and
the memory map (R471 to R473). -/

namespace Sys2Proof.Machine

/-! ### Decoding (R458 to R460) -/

/-- The instructions, one for each row of the tables of R460 and R461; `fn` is the FN field. -/
inductive StwRow where
  | alu (fn : Nat)
  | addi | andi | ori | xori | slli | srli | srai | lui | llo | cmp | cmpi | plog
  | lw | lh | lhu | lb | lbu | sw | sh | sb
  | amo (fn : Nat) | fence (fn : Nat) | cmo (fn : Nat)
  | b | bl | jr | sys | rfe | mfsr | mtsr | gcall | gret | brk | wft | post | fclaim | frel | amb
deriving DecidableEq, Repr

/-- A decoded instruction: its row and the fields of its word. `cond` is none where PEN = 0, else NEG and PIDX. -/
structure StwIns where
  row  : StwRow
  word : Word
deriving DecidableEq, Repr

namespace StwIns

def rd (i : StwIns) : Nat := fld i.word 17 5
def ra (i : StwIns) : Nat := fld i.word 12 5
def rb (i : StwIns) : Nat := fld i.word 7 5
def imm12 (i : StwIns) : Nat := fld i.word 0 12
def imm12s (i : StwIns) : Word := (BitVec.ofNat 12 i.imm12).signExtend 32
def imm17 (i : StwIns) : Nat := fld i.word 0 17
/-- 4 × OFS22. -/
def branch (i : StwIns) : Word := (BitVec.ofNat 22 (fld i.word 0 22)).signExtend 32 <<< 2
/-- PD and CC of formats C and P, PA, PB and FN of format P, PD of format Q. -/
def pd (i : StwIns) : Nat := fld i.word 20 2
def cc (i : StwIns) : Nat := fld i.word 17 3
def pa (i : StwIns) : Nat := fld i.word 18 2
def pb (i : StwIns) : Nat := fld i.word 16 2
def pfn (i : StwIns) : Nat := fld i.word 14 2
def pdQ (i : StwIns) : Nat := fld i.word 10 2
/-- PEN. -/
def pen (i : StwIns) : Bool := bit i.word 31

end StwIns

/-- System registers that exist (R481). -/
def sysAssigned (n : Nat) : Bool :=
  n ≤ 0x008 || (0x010 ≤ n && n ≤ 0x01F) || n = 0x020 || n = 0x021 || n = 0x030 || n = 0x031 || (0x080 ≤ n && n ≤ 0x084)

/-- Decode a word; none raises ILLEGAL (R458 to R460, R482): reserved OP, FN or register code, a must-be-zero bit, a
system register that is not assigned. -/
def stwDecode (w : Word) : Option StwIns :=
  let rd := fld w 17 5
  let ra := fld w 12 5
  let rb := fld w 7 5
  let fn := fld w 0 7
  let imm := fld w 0 12
  let d := decide (rd ≤ 24)
  let a := decide (ra ≤ 24)
  let b := decide (rb ≤ 24)
  let z := fun (lo n : Nat) => decide (fld w lo n = 0)
  let give := fun (ok : Bool) (row : StwRow) => if ok then some (StwIns.mk row w) else none
  if !bit w 31 && !z 28 3 then none
  else match fld w 22 6 with
    | 0x00 => give (d && a && b && decide (fn ≤ 0x15) && (decide (fn < 0x14) || decide (rb = 0))) (.alu fn)
    | 0x01 => give (d && a) .addi
    | 0x02 => give (d && a) .andi
    | 0x03 => give (d && a) .ori
    | 0x04 => give (d && a) .xori
    | 0x05 => give (d && a && z 5 7) .slli
    | 0x06 => give (d && a && z 5 7) .srli
    | 0x07 => give (d && a && z 5 7) .srai
    | 0x08 => give d .lui
    | 0x09 => give (d && z 15 2) .llo
    | 0x0A => give (a && b && z 0 7) .cmp
    | 0x0B => give a .cmpi
    | 0x0C => give (z 0 14) .plog
    | 0x10 => give (d && a) .lw
    | 0x11 => give (d && a) .lh
    | 0x12 => give (d && a) .lhu
    | 0x13 => give (d && a) .lb
    | 0x14 => give (d && a) .lbu
    | 0x15 => give (d && a) .sw
    | 0x16 => give (d && a) .sh
    | 0x17 => give (d && a) .sb
    | 0x18 => give (d && a && b && decide (fn ≤ 3)) (.amo fn)
    | 0x19 => give (z 7 15 && decide (fn ≤ 1)) (.fence fn)
    | 0x1A => give (decide (rd = 0) && a && decide (rb = 0) && decide (fn ≤ 3)) (.cmo fn)
    | 0x20 => give true .b
    | 0x21 => give true .bl
    | 0x22 => give (d && a && z 0 12) .jr
    | 0x28 => give (z 12 10) .sys
    | 0x29 => give (z 0 22) .rfe
    | 0x2A => give (d && z 12 5 && sysAssigned imm) .mfsr
    | 0x2B => give (z 17 5 && a && sysAssigned imm) .mtsr
    | 0x2C => give (z 6 16) .gcall
    | 0x2D => give (z 0 22) .gret
    | 0x2E => give (z 12 10) .brk
    | 0x30 => give (d && a && z 1 11) .wft
    | 0x31 => give (d && a && b && z 0 7) .post
    | 0x32 => give (d && a && z 0 10) .fclaim
    | 0x33 => give (z 17 5 && a && z 0 12) .frel
    | 0x34 => give (d && a && b && z 0 7) .amb
    | _ => none

/-- The condition holds (R458). -/
def condHolds (c : Steward) (w : Word) : Bool := !bit w 31 || (pRead c (fld w 28 2) != bit w 30)

/-! ### Arithmetic (R461 to R463) -/

/-- A function of format R. -/
def stwAlu (fn : Nat) (a b : Word) : Word :=
  let sh := b.toNat % 32
  match fn with
  | 0x00 => a + b
  | 0x01 => a - b
  | 0x02 => a &&& b
  | 0x03 => a ||| b
  | 0x04 => a ^^^ b
  | 0x05 => a &&& ~~~ b
  | 0x06 => a <<< sh
  | 0x07 => a >>> sh
  | 0x08 => a.sshiftRight sh
  | 0x09 => a * b
  | 0x0A => BitVec.ofNat 32 (a.toNat * b.toNat / 2 ^ 32)
  | 0x0B => BitVec.ofInt 32 (a.toInt * b.toInt / 2 ^ 32)
  | 0x0C => if b = 0 then 0xFFFFFFFF else BitVec.ofNat 32 (a.toNat / b.toNat)
  | 0x0D => if b = 0 then 0xFFFFFFFF else BitVec.ofInt 32 (a.toInt.tdiv b.toInt)
  | 0x0E => if b = 0 then a else BitVec.ofNat 32 (a.toNat % b.toNat)
  | 0x0F => if b = 0 then a else BitVec.ofInt 32 (a.toInt.tmod b.toInt)
  | 0x10 => if a.toInt ≤ b.toInt then a else b
  | 0x11 => if a.toInt ≤ b.toInt then b else a
  | 0x12 => if a.toNat ≤ b.toNat then a else b
  | 0x13 => if a.toNat ≤ b.toNat then b else a
  | 0x14 => BitVec.ofNat 32 ((List.range 32).countP (fun i => a.getLsbD i))
  | _ => BitVec.ofNat 32 (((List.range 32).find? (fun i => a.getLsbD (31 - i))).getD 32)

/-- A condition code of CMP and CMPI (R463). -/
def stwCmp (cc : Nat) (a b : Word) : Bool :=
  match cc with
  | 0 => a = b
  | 1 => a ≠ b
  | 2 => a.toInt < b.toInt
  | 3 => b.toInt ≤ a.toInt
  | 4 => a.toNat < b.toNat
  | 5 => b.toNat ≤ a.toNat
  | 6 => a &&& b ≠ 0
  | _ => a &&& b = 0

/-- PLOG (R460). -/
def stwPlog (fn : Nat) (a b : Bool) : Bool :=
  match fn with
  | 0 => a && b
  | 1 => a || b
  | 2 => a != b
  | _ => a && !b

/-- The value that an instruction of one result writes to RD, from RA, RB and the old RD. -/
def stwResult (i : StwIns) (a b d : Word) : Word :=
  match i.row with
  | .alu fn => stwAlu fn a b
  | .addi => a + i.imm12s
  | .andi => a &&& BitVec.ofNat 32 i.imm12
  | .ori => a ||| BitVec.ofNat 32 i.imm12
  | .xori => a ^^^ BitVec.ofNat 32 i.imm12
  | .slli => stwAlu 0x06 a (BitVec.ofNat 32 i.imm12)
  | .srli => stwAlu 0x07 a (BitVec.ofNat 32 i.imm12)
  | .srai => stwAlu 0x08 a (BitVec.ofNat 32 i.imm12)
  | .lui => BitVec.ofNat 32 i.imm17 <<< 15
  | _ => (d &&& 0xFFFF8000) ||| BitVec.ofNat 32 (i.imm17 % 2 ^ 15)

/-! ### System registers (R480, R481) -/

/-- MPU_BASE_i and MPU_CFG_i, by number. -/
def mpuReg (c : Steward) (n : Nat) : Word := mapGet (if n % 2 = 0 then 0#32 else 0x0C#32) c.mpu n

/-- An access of a system register is permitted at the level (R480). -/
def sysAllowed (c : Steward) (write : Bool) (n : Nat) : Bool :=
  match c.priv with
  | 0 => !write && [0x000, 0x006, 0x008, 0x020, 0x021].contains n
  | 1 => !(0x080 ≤ n && n ≤ 0x084)
  | _ => true

/-- CPUID. -/
def cpuid (s : State) (p : Nat) : Word :=
  BitVec.ofNat 32 ((logOf s p).getD 0 + 2 ^ 8 * p + 2 ^ 20 * (if assigned s then devAddr s else 0xFFF))

/-- What MFSR reads. -/
def sysRead (s : State) (p n : Nat) : Word :=
  let c := coreOf s p
  match n with
  | 0x000 => (psrOf c).setWidth 32
  | 0x001 => c.epsr.setWidth 32
  | 0x002 => c.epc
  | 0x003 => c.esr
  | 0x004 => c.eva
  | 0x005 => c.evec
  | 0x006 => BitVec.ofNat 32 c.thread
  | 0x007 => BitVec.ofNat 32 (c.gLast + 4 * c.gEntry)
  | 0x008 => cpuid s p
  | 0x020 => BitVec.ofNat 32 (cyclesNow s p)
  | 0x021 => c.cycleHi
  | 0x030 => irqPendOf s p
  | 0x031 => c.irqEn
  | 0x080 => c.gvec
  | 0x081 => c.gepc
  | 0x082 => c.gesr
  | 0x083 => c.gra
  | 0x084 => c.gepsr.setWidth 32
  | _ => mpuReg c n

/-- A read of CYCLE_LO captures CYCLE_HI (R5). -/
def sysReadEffect (s : State) (p n : Nat) (c : Steward) : Steward :=
  if n = 0x020 then { c with cycleHi := BitVec.ofNat 32 (cyclesNow s p / 2 ^ 32) } else c

/-- What MTSR writes; read-only fields keep their values. -/
def sysWrite (n : Nat) (v : Word) (c : Steward) : Steward :=
  match n with
  | 0x000 => { c with ie := bit v 2, exl := bit v 3, preds := BitVec.ofNat 4 (fld v 4 4) }
  | 0x001 => { c with epsr := v.setWidth 8 }
  | 0x002 => { c with epc := v }
  | 0x003 => { c with esr := v &&& 0x0FFF1F1F }
  | 0x004 => { c with eva := v }
  | 0x005 => { c with evec := v &&& 0xFFFFFF00 }
  | 0x006 => { c with thread := fld v 0 6 }
  | 0x007 | 0x008 | 0x020 | 0x021 | 0x030 | 0x083 => c
  | 0x031 => { c with irqEn := v }
  | 0x080 => { c with gvec := v &&& 0xFFFFFF00 }
  | 0x081 => { c with gepc := v }
  | 0x082 => { c with gesr := v &&& 0x0FFF1F1F }
  | 0x084 => { c with gepsr := v.setWidth 8 }
  | _ => { c with mpu := mapSet (if n % 2 = 0 then 0#32 else 0x0C#32) c.mpu n (v &&& (if n % 2 = 0 then 0xFFFFF000 else 0x1FF)) }

/-! ### The memory map (R471 to R473) -/

/-- What a local address reaches: the firmware area, a cellar window, a control address, or the guarded region. -/
inductive LocalAt where
  | fwa (off : Nat)
  | win (n off : Nat)
  | ctl (a : Nat)
  | grd (off : Nat)
  | none
deriving DecidableEq, Repr

def localAt (s : State) (p va : Nat) : LocalAt :=
  if va < 0x20000000 then .fwa va
  else if va < 0x60000000 then .win ((va - 0x20000000) / 0x10000000) (va % 0x10000000)
  else if va < 0x60400000 then .ctl (physA p (va - 0x60000000))
  else if va < 0x60500000 then .ctl (shfA (p / 17) (va - 0x60400000))
  else if 0x70000000 ≤ va ∧ va < 0x80000000 then .ctl (va - 0x70000000)
  else if 0x80000000 ≤ va ∧ va < 0xC0000000 then .ctl (rdFld s (stwA p 0x14) 0 10 * 2 ^ 30 + (va - 0x80000000))
  else if 0xF0000000 ≤ va ∧ va < 0xF0100000 then .grd (va - 0xF0000000)
  else .none

/-- STW_WINn. -/
def winReg (s : State) (p n : Nat) : Word := rdReg s (stwA p (0x20 + 4 * n))

/-- The cellar byte of a cached address; none beyond STW_FWA.SIZE, and for an address that is not cached. -/
def cachedAt (s : State) (p : Nat) (x : LocalAt) : Option Nat :=
  match x with
  | .fwa off => if off < rdFld s (stwA p 0x30) 0 10 * 2 ^ 20 then some (genBase * 2 ^ 20 + off) else none
  | .win n off => some (fld (winReg s p n) 0 16 * 2 ^ 20 + off)
  | .grd off => some (guardedBase s + off)
  | .ctl _ | .none => none

/-- What the lowest-numbered enabled MPU region that contains an address grants: R, W and X (R473). -/
def mpuGrant (c : Steward) (va : Nat) : Option (Bool × Bool × Bool) :=
  (List.range 8).findSome? (fun i =>
    let g := mpuReg c (0x011 + 2 * i)
    let sz := max 12 (fld g 0 5)
    if bit g 8 && va / 2 ^ sz = (mpuReg c (0x010 + 2 * i)).toNat / 2 ^ sz then some (bit g 5, bit g 6, bit g 7) else none)

/-- A load (or the check of a cache operation) or a store at a local address is permitted (R473). -/
def dataAllowed (s : State) (p va : Nat) (write : Bool) : Bool :=
  let c := coreOf s p
  let x := localAt s p va
  let level := c.priv ≠ 0 || (match mpuGrant c va with
    | some (r, w, _) => if write then w else r
    | none => false)
  match x with
  | .fwa _ | .ctl _ => level
  | .win n _ => level && bit (winReg s p n) 16 && !(write && bit (winReg s p n) 17)
  | .grd _ => c.priv = 2
  | .none => false

/-- The cellar byte that the instruction at PC is fetched from; none where the fetch is denied or lies beyond the
firmware area (R473, R482). -/
def fetchAt (s : State) (p : Nat) : Option Nat :=
  let c := coreOf s p
  let va := c.pc.toNat
  match localAt s p va with
  | .fwa off =>
    if c.priv ≠ 0 || (match mpuGrant c va with
      | some (_, _, x) => x
      | none => false) then cachedAt s p (.fwa off) else none
  | .grd off => if c.priv = 2 then cachedAt s p (.grd off) else none
  | _ => none

/-! ### Instruction caches (R475) -/

def icKey (p l : Nat) : Nat := p * 2 ^ 30 + l
def icLine (s : State) (p l : Nat) : Option (List Byte) := mapGet none s.stw.icache (icKey p l)
def putIc (p l : Nat) (x : Option (List Byte)) (s : State) : State :=
  { s with stw := { s.stw with icache := mapSet none s.stw.icache (icKey p l) x } }

/-- Lines of the set of a line in an instruction cache. -/
def icSet (s : State) (p l : Nat) : List Nat :=
  ((s.stw.icache.map (fun q => q.1)).filter (fun k => k / 2 ^ 30 = p && k % 128 = l % 128)).map (fun k => k % 2 ^ 30)

/-- A line enters an instruction cache; a full set gives up a line that the manual does not name. -/
def fillIc (p l : Nat) (data : List Byte) (s : State) : State :=
  let old := icSet s p l
  let s1 := if old.length < 4 then s else
    let (v, x) := takeFree s
    putIc p (old.getD (v % old.length) 0) none x
  putIc p l (some data) s1

/-- What a fetch of the instruction at PC gives. -/
inductive Fetched where
  | word (w : Word)
  | miss (line : Nat)
  | denied
deriving DecidableEq, Repr

def stwFetch (s : State) (p : Nat) : Fetched :=
  match fetchAt s p with
  | none => .denied
  | some a =>
    match icLine s p (a / 64) with
    | some d => .word (BitVec.ofNat 32 (leNat ((d.drop (a % 64)).take 4)))
    | none => .miss (a / 64)

end Sys2Proof.Machine
end

