-- ==== Sys2Proof/Machine/StewardExec.lean ====
section
/-! DEFINITION. What stewards execute (R460 to R490): one instruction a command, fetched from the steward's instruction
cache. A command that names another instruction than the one at PC has no effect; an instruction that waits for a line
or for an answer is commanded again. -/

namespace Sys2Proof.Machine

/-! ### When a steward executes -/

/-- The interrupt line that a steward takes before its next instruction (R484). -/
def dueLine (s : State) (p : Nat) : Option Nat :=
  let c := coreOf s p
  if c.ie && !c.exl && c.priv ≠ 2 then (List.range 32).find? (fun i => (irqPendOf s p &&& c.irqEn).getLsbD i) else none

/-- The steward has the power and the cluster to execute. -/
def stwAwake (s : State) (p : Nat) : Bool :=
  p < 272 && roleOf s p = .active && shelfOn s (p / 17) && s.chip.devState ≠ .off

/-- The instruction at PC has an access under way, or answered and not yet taken. -/
def inAccess (s : State) (p : Nat) : Bool := awaiting (.core p) s || s.chip.resps.any (fun r => r.who = .core p)

/-- The steward executes its next instruction now: it waits for no line, and takes no interrupt first. -/
def stwReady (s : State) (p : Nat) : Bool :=
  stwAwake s p && (coreOf s p).run = .executing && (coreOf s p).miss.isNone && ((dueLine s p).isNone || inAccess s p)

/-- The instruction completes: a change of the steward, and PC + 4. -/
def stwDone (p : Nat) (f : Steward → Steward) (s : State) : State :=
  let c := f (coreOf s p)
  putCore p { c with pc := c.pc + 4 } s

/-- The instruction completes and writes RD. -/
def stwGive (p rd : Nat) (v : Word) (s : State) : State := stwDone p (gWrite rd v) s

/-- An instruction that goes elsewhere. -/
def stwGoto (p : Nat) (t : Word) (s : State) : State := putCore p { coreOf s p with pc := t &&& 0xFFFFFFFC } s

/-! ### Accesses to memory (R464, R471 to R477) -/

/-- The steward still stands at the instruction that made the access: the access did not start it anew. -/
def stwStands (c : Steward) (p a : Nat) (write : Bool) (v : Word) (s : State) : Bool :=
  let self := match targetOf a with
    | .cluster q o => q = p && o = 0x300000
    | .logical m o => physOf s m = p && o = 0x300000
    | _ => false
  (coreOf s p).pc = c.pc && !(coreOf s p).parked && !(write && self && bit v 1)

/-- A single 32-bit control access, whose answer the steward waits for (R472, R473). -/
def uncached (p va a : Nat) (write : Bool) (v : Word) (done : Word → State → State) (s : State) : State :=
  match ctlSync (.core p) a write v s with
  | (none, s1) => s1
  | (some r, s1) =>
    match r.status with
    | .ok => if stwStands (coreOf s p) p a write v s1 then done r.data s1 else s1
    | .error => takeException p .bus 0 0 va s1
    | .poison => takeException p .bus 1 0 va s1

/-- Reach the line of a cached address; a miss waits for its fill (R474 to R476). -/
def withLine (p va a : Nat) (done : List Byte → State → State) (s : State) : State :=
  match reachLine p (a / 64) s with
  | (.hit d, s1) => done d s1
  | (.miss, s1) => putCore p { coreOf s1 p with miss := some { addr := va, line := a / 64, instr := false } } s1
  | (.lost, s1) => takeException p .ecc 0 0 va s1

/-- Bytes of a line as a number. -/
def lineWord (d : List Byte) (a n : Nat) : Nat := leNat ((d.drop (a % 64)).take n)

/-- A load of `n` bytes. -/
def stwLoad (p va n rd : Nat) (ext : Nat → Word) (s : State) : State :=
  if va % n ≠ 0 then takeException p .align 0 0 va s
  else if !dataAllowed s p va false then takeException p .access 0 0 va s
  else match localAt s p va with
    | .ctl a => if n = 4 then uncached p va a false 0 (fun v => stwGive p rd v) s else takeException p .bus 0 0 va s
    | x =>
      match cachedAt s p x with
      | none => takeException p .bus 0 0 va s
      | some a => withLine p va a (fun d => stwGive p rd (ext (lineWord d a n))) s

/-- A store of `n` bytes. -/
def stwStore (p va n : Nat) (v : Word) (s : State) : State :=
  if va % n ≠ 0 then takeException p .align 0 0 va s
  else if !dataAllowed s p va true then takeException p .access 0 0 va s
  else match localAt s p va with
    | .ctl a => if n = 4 then uncached p va a true v (fun _ => stwDone p id) s else takeException p .bus 0 0 va s
    | x =>
      match cachedAt s p x with
      | none => takeException p .bus 0 0 va s
      | some a => withLine p va a (fun _ x => stwDone p id (storeLine p (a / 64) (a % 64) (leBytes n v.toNat) x)) s

/-- The new value of an AMO (R460). -/
def amoNew (fn : Nat) (old b : Word) : Word :=
  match fn with
  | 0 => b
  | 1 => old + b
  | 2 => old &&& b
  | _ => old ||| b

/-- An AMO (R460, R464, R477). -/
def stwAmo (p va fn rd : Nat) (b : Word) (s : State) : State :=
  if va % 4 ≠ 0 then takeException p .align 0 0 va s
  else if !(dataAllowed s p va false && dataAllowed s p va true) then takeException p .access 0 0 va s
  else match cachedAt s p (localAt s p va) with
    | none => takeException p .bus 0 0 va s
    | some a => withLine p va a (fun d x =>
        let old := BitVec.ofNat 32 (lineWord d a 4)
        stwGive p rd old (storeLine p (a / 64) (a % 64) (leBytes 4 (amoNew fn old b).toNat) x)) s

/-- A cache operation on a line (R478). -/
def cmoLine (p fn l : Nat) (s : State) : State :=
  match fn with
  | 0 => cleanLine p l s
  | 1 => dropLine p l s
  | 2 => dropLine p l (cleanLine p l s)
  | _ => putIc p l none s

def stwCmo (p va fn : Nat) (s : State) : State :=
  if !dataAllowed s p va false then takeException p .access 0 0 va s
  else match localAt s p va with
    | .ctl _ => stwDone p id s
    | x =>
      match cachedAt s p x with
      | none => takeException p .bus 0 0 va s
      | some a => stwDone p id (cmoLine p fn (a / 64) s)

/-! ### Control flow (R460, R483, R486, R647) -/

/-- A branch or a jump is traced: the atom of a predicated one. -/
def traceCond (p : Nat) (i : StwIns) (taken : Bool) (s : State) : State :=
  if i.pen then traced p (fun k => emitAtom p k taken) s else s

def traceInd (p : Nat) (t : Word) (s : State) : State := traced p (fun k => emitInd p k t) s

/-- JR. -/
def stwJr (p : Nat) (i : StwIns) (t : Word) (s : State) : State :=
  if t.toNat % 4 ≠ 0 then takeException p .align 0 0 t.toNat s
  else
    let c := coreOf s p
    stwGoto p t (putCore p (gWrite i.rd (c.pc + 4) c) (traceInd p t (traceCond p i true s)))

/-- RFE (R483). -/
def stwRfe (p : Nat) (s : State) : State :=
  let c := coreOf s p
  let t := (if c.priv = 2 then c.gepc else c.epc) &&& 0xFFFFFFFC
  let s1 := traceInd p t s
  putCore p { setPsr (if c.priv = 2 then c.gepsr else c.epsr) c with pc := t } s1

/-- GCALL (R486, R655). -/
def stwGcall (p n : Nat) (s : State) : State :=
  let s1 := if granted s 0 then s else traced p (emitGin p) s
  let c := coreOf s1 p
  putCore p { c with
    gra := c.pc + 4, priv := 2, ie := false, pc := BitVec.ofNat 32 (0xF0000000 + 0x40 * n), gEntry := n
    gcall := some { ie := c.ie, exl := c.exl, cycle := cyclesNow s1 p } } s1

/-- GRET (R486, R490, R655). -/
def stwGret (p : Nat) (s : State) : State :=
  let c := coreOf s p
  let s1 := match sourceFor s p with
    | some k => if (srcOf s k).excl.isSome then emitGout p k s else traceInd p c.gra s
    | none => s
  let call := c.gcall.getD { ie := false, exl := false, cycle := 0 }
  let c1 := { coreOf s1 p with priv := 1, ie := call.ie, exl := call.exl, pc := c.gra, gLast := 1, gcall := none }
  let s2 := putCore p c1 s1
  if c.haltDue then
    let s3 := traceBoundary p s2
    stopClock 1 p (putCore p { coreOf s3 p with run := .halted, haltDue := false } s3)
  else s2

/-! ### WFT, POST, flows and the mailbox (R466 to R470) -/

/-- The count of a KIND of WFT (R467). -/
def wftCount (s : State) (kind : Nat) : Word := if kind = 0 then s.spr.tick.setWidth 32 else s.spr.commit.setWidth 32

/-- A WFT is released: the count has reached the value, in a device that is Running (R467). -/
def wftReached (s : State) (kind : Nat) (v : Word) : Bool :=
  s.chip.devState = .running && !(wftCount s kind - v).msb

def stwWft (p kind rd : Nat) (v : Word) (s : State) : State :=
  if wftReached s kind v then stwGive p rd (wftCount s kind) s
  else putCore p { coreOf s p with run := .waiting, await := some (kind, v, rd) } s

/-- POST (R468, R507): a target whose shelf sleeps is woken first, and the instruction waits. -/
def stwPost (p rd : Nat) (ra item : Word) (s : State) : State :=
  let q := if bit ra 16 then p else physOf s (fld ra 8 8)
  if fld ra 7 1 ≠ 0 ∨ fld ra 17 15 ≠ 0 then stwGive p rd 2 s
  else if mapGet false s.chip.bistOpen q then stwGive p rd 2 s
  else if shelfOn s (q / 17) then
    let (st, s1) := schedPost q (fld ra 0 7) item s
    stwGive p rd (BitVec.ofNat 32 st) s1
  else if thermHold s (q / 17) then stwGive p rd 2 s
  else wakeShelf (q / 17) 1 s

def stwFclaim (p rd pd : Nat) (ra : Word) (s : State) : State :=
  if fld ra 7 25 ≠ 0 then takeException p .flow 0 0 0 s
  else match schedClaim p (coreOf s p).thread (fld ra 0 7) s with
    | (some v, s1) => stwDone p (fun c => pWrite pd true (gWrite rd v c)) s1
    | (none, s1) => stwDone p (pWrite pd false) s1

def stwFrel (p : Nat) (ra : Word) (s : State) : State :=
  if fld ra 7 25 ≠ 0 then takeException p .flow 0 0 0 s
  else match schedRelease p (coreOf s p).thread (fld ra 0 7) s with
    | some s1 => stwDone p id s1
    | none => takeException p .flow 0 0 0 s

/-- The bytes of a mailbox request as the steward itself would load them: from the caches, else from the cellar. The
first part is 0, 1 for an error, 2 for poison. -/
def requestBytes (p a n : Nat) (s : State) : Nat × List Byte × State :=
  (List.range (n / 64)).foldl (fun (acc : Nat × List Byte × State) i =>
    let (st, got, x) := acc
    if st ≠ 0 then acc
    else
      let (st1, b, x1) := (match cacheLine x (a / 64 + i) with
        | some y => (0, lineNow y, x)
        | none => readLine (.steward p false) (a / 64 + i) .pass x)
      (st1, got ++ b, x1)) (0, [], s)

/-- AMB (R470). -/
def stwAmb (p rd va len : Nat) (s : State) : State :=
  let region := match localAt s p va with
    | .fwa _ | .win _ _ => true
    | _ => false
  let last := va + len - 64
  if va % 64 ≠ 0 then takeException p .align 0 0 va s
  else if len = 0 ∨ 4096 < len ∨ len % 64 ≠ 0 then stwGive p rd 0xFFFFFFFF s
  else if !region || !dataAllowed s p va false || !dataAllowed s p last false then takeException p .access 0 0 va s
  else match cachedAt s p (localAt s p va), cachedAt s p (localAt s p last) with
    | some a, some z =>
      if a + len - 64 ≠ z then takeException p .access 0 0 va s
      else
        match requestBytes p a len s with
        | (0, b, s1) =>
          (match submitMb (.steward p) b s1 with
          | (s2, some t) => stwGive p rd (BitVec.ofNat 32 (t % 65536)) s2
          | (s2, none) => stwGive p rd 0xFFFFFFFF s2)
        | (1, _, s1) => takeException p .bus 0 0 va s1
        | (_, _, s1) => takeException p .bus 1 0 va s1
    | _, _ => takeException p .bus 0 0 va s

/-! ### One instruction -/

/-- The instruction is not permitted at the level (R460, R470, R478, R480, R483). -/
def stwPriv (c : Steward) (i : StwIns) : Bool :=
  match i.row with
  | .rfe => c.priv = 0 || (c.priv = 1 && 2 ≤ fld c.epsr 0 2) || (c.priv = 2 && fld c.gepsr 0 2 ≠ 2)
  | .gcall => c.priv ≠ 1
  | .gret => c.priv ≠ 2
  | .amb => c.priv = 0
  | .cmo fn => c.priv = 0 && fn = 1
  | .mfsr => !sysAllowed c false i.imm12
  | .mtsr => !sysAllowed c true i.imm12
  | _ => false

/-- The condition fails: a NOP, and the atom of a branch (R458, R647). -/
def stwSkip (p : Nat) (i : StwIns) (s : State) : State :=
  stwDone p id (match i.row with
    | .b | .bl | .jr => traceCond p i false s
    | _ => s)

/-- The effect of an instruction whose condition holds, at a level that permits it. -/
def stwDo (p : Nat) (i : StwIns) (s : State) : State :=
  let c := coreOf s p
  let a := gRead c i.ra
  let b := gRead c i.rb
  let d := gRead c i.rd
  let ea := (a + i.imm12s).toNat
  match i.row with
  | .alu _ | .addi | .andi | .ori | .xori | .slli | .srli | .srai | .lui | .llo => stwGive p i.rd (stwResult i a b d) s
  | .cmp => stwDone p (pWrite i.pd (stwCmp i.cc a b)) s
  | .cmpi => stwDone p (pWrite i.pd (stwCmp i.cc a i.imm12s)) s
  | .plog => stwDone p (pWrite i.pd (stwPlog i.pfn (pRead c i.pa) (pRead c i.pb))) s
  | .lw => stwLoad p ea 4 i.rd (BitVec.ofNat 32) s
  | .lh => stwLoad p ea 2 i.rd (fun n => (BitVec.ofNat 16 n).signExtend 32) s
  | .lhu => stwLoad p ea 2 i.rd (BitVec.ofNat 32) s
  | .lb => stwLoad p ea 1 i.rd (fun n => (BitVec.ofNat 8 n).signExtend 32) s
  | .lbu => stwLoad p ea 1 i.rd (BitVec.ofNat 32) s
  | .sw => stwStore p ea 4 d s
  | .sh => stwStore p ea 2 d s
  | .sb => stwStore p ea 1 d s
  | .amo fn => stwAmo p a.toNat fn i.rd b s
  | .fence _ => stwDone p id s
  | .cmo fn => stwCmo p a.toNat fn s
  | .b => stwGoto p (c.pc + i.branch) (traceCond p i true s)
  | .bl =>
    let s1 := traceCond p i true s
    stwGoto p (c.pc + i.branch) (putCore p (gWrite 23 (c.pc + 4) (coreOf s1 p)) s1)
  | .jr => stwJr p i a s
  | .sys => takeException p .sys i.imm12 0 0 s
  | .rfe => stwRfe p s
  | .mfsr =>
    let v := sysRead s p i.imm12
    stwDone p (fun x => gWrite i.rd v (sysReadEffect s p i.imm12 x)) s
  | .mtsr => stwDone p (sysWrite i.imm12 a) (whenDo (decide (i.imm12 = 0x030)) (irqClear p a) s)
  | .gcall => stwGcall p (i.imm12 % 64) s
  | .gret => stwGret p s
  | .brk => takeException p .brk i.imm12 0 0 s
  | .wft => stwWft p (i.imm12 % 4) i.rd a s
  | .post => stwPost p i.rd a b s
  | .fclaim => stwFclaim p i.rd i.pdQ a s
  | .frel => stwFrel p a s
  | .amb => stwAmb p i.rd a.toNat b.toNat s

/-- The steward executes the instruction at PC, where it is that of the row. -/
def stwStep (row : StwRow) (p : Nat) (s : State) : State :=
  if !stwReady s p then s
  else
    let c := coreOf s p
    match stwFetch s p with
    | .denied => takeException p .ifetch 0 0 0 (traceBoundary p s)
    | .miss l => putCore p { c with miss := some { addr := c.pc.toNat, line := l, instr := true } } s
    | .word w =>
      match stwDecode w with
      | none => takeException p .illegal 0 0 0 (traceBoundary p s)
      | some i =>
        if i.row ≠ row then s
        else
          let s1 := traceBoundary p s
          if !condHolds c w then stwSkip p i s1
          else if stwPriv c i then takeException p .priv 0 0 0 s1
          else stwDo p i s1

/-! ### The rows of R460 and R461 -/

def execAluAdd (p : Nat) (s : State) : Out := .next (stwStep (.alu 0x00) p s)
def execAluSub (p : Nat) (s : State) : Out := .next (stwStep (.alu 0x01) p s)
def execAluAnd (p : Nat) (s : State) : Out := .next (stwStep (.alu 0x02) p s)
def execAluOr (p : Nat) (s : State) : Out := .next (stwStep (.alu 0x03) p s)
def execAluXor (p : Nat) (s : State) : Out := .next (stwStep (.alu 0x04) p s)
def execAluAndn (p : Nat) (s : State) : Out := .next (stwStep (.alu 0x05) p s)
def execSll (p : Nat) (s : State) : Out := .next (stwStep (.alu 0x06) p s)
def execSrl (p : Nat) (s : State) : Out := .next (stwStep (.alu 0x07) p s)
def execSra (p : Nat) (s : State) : Out := .next (stwStep (.alu 0x08) p s)
def execMul (p : Nat) (s : State) : Out := .next (stwStep (.alu 0x09) p s)
def execMulhu (p : Nat) (s : State) : Out := .next (stwStep (.alu 0x0A) p s)
def execMulhs (p : Nat) (s : State) : Out := .next (stwStep (.alu 0x0B) p s)
def execDivu (p : Nat) (s : State) : Out := .next (stwStep (.alu 0x0C) p s)
def execDivs (p : Nat) (s : State) : Out := .next (stwStep (.alu 0x0D) p s)
def execRemu (p : Nat) (s : State) : Out := .next (stwStep (.alu 0x0E) p s)
def execRems (p : Nat) (s : State) : Out := .next (stwStep (.alu 0x0F) p s)
def execMin (p : Nat) (s : State) : Out := .next (stwStep (.alu 0x10) p s)
def execMax (p : Nat) (s : State) : Out := .next (stwStep (.alu 0x11) p s)
def execMinu (p : Nat) (s : State) : Out := .next (stwStep (.alu 0x12) p s)
def execMaxu (p : Nat) (s : State) : Out := .next (stwStep (.alu 0x13) p s)
def execPopc (p : Nat) (s : State) : Out := .next (stwStep (.alu 0x14) p s)
def execClz (p : Nat) (s : State) : Out := .next (stwStep (.alu 0x15) p s)
def execAddi (p : Nat) (s : State) : Out := .next (stwStep .addi p s)
def execAndi (p : Nat) (s : State) : Out := .next (stwStep .andi p s)
def execOri (p : Nat) (s : State) : Out := .next (stwStep .ori p s)
def execXori (p : Nat) (s : State) : Out := .next (stwStep .xori p s)
def execSlli (p : Nat) (s : State) : Out := .next (stwStep .slli p s)
def execSrli (p : Nat) (s : State) : Out := .next (stwStep .srli p s)
def execSrai (p : Nat) (s : State) : Out := .next (stwStep .srai p s)
def execLui (p : Nat) (s : State) : Out := .next (stwStep .lui p s)
def execLlo (p : Nat) (s : State) : Out := .next (stwStep .llo p s)
def execCmp (p : Nat) (s : State) : Out := .next (stwStep .cmp p s)
def execCmpi (p : Nat) (s : State) : Out := .next (stwStep .cmpi p s)
def execPlog (p : Nat) (s : State) : Out := .next (stwStep .plog p s)
def execLw (p : Nat) (s : State) : Out := .next (stwStep .lw p s)
def execLh (p : Nat) (s : State) : Out := .next (stwStep .lh p s)
def execLhu (p : Nat) (s : State) : Out := .next (stwStep .lhu p s)
def execLb (p : Nat) (s : State) : Out := .next (stwStep .lb p s)
def execLbu (p : Nat) (s : State) : Out := .next (stwStep .lbu p s)
def execSw (p : Nat) (s : State) : Out := .next (stwStep .sw p s)
def execSh (p : Nat) (s : State) : Out := .next (stwStep .sh p s)
def execSb (p : Nat) (s : State) : Out := .next (stwStep .sb p s)
def execAmoSwap (p : Nat) (s : State) : Out := .next (stwStep (.amo 0) p s)
def execAmoAdd (p : Nat) (s : State) : Out := .next (stwStep (.amo 1) p s)
def execAmoAnd (p : Nat) (s : State) : Out := .next (stwStep (.amo 2) p s)
def execAmoOr (p : Nat) (s : State) : Out := .next (stwStep (.amo 3) p s)
def execFence (p : Nat) (s : State) : Out := .next (stwStep (.fence 0) p s)
def execInstructionSync (p : Nat) (s : State) : Out := .next (stwStep (.fence 1) p s)
def execCmoClean (p : Nat) (s : State) : Out := .next (stwStep (.cmo 0) p s)
def execCmoInvalidate (p : Nat) (s : State) : Out := .next (stwStep (.cmo 1) p s)
def execCmoCleanInvalidate (p : Nat) (s : State) : Out := .next (stwStep (.cmo 2) p s)
def execCmoInvalidateIline (p : Nat) (s : State) : Out := .next (stwStep (.cmo 3) p s)
def execB (p : Nat) (s : State) : Out := .next (stwStep .b p s)
def execBl (p : Nat) (s : State) : Out := .next (stwStep .bl p s)
def execJr (p : Nat) (s : State) : Out := .next (stwStep .jr p s)
def execSys (p : Nat) (s : State) : Out := .next (stwStep .sys p s)
def execRfe (p : Nat) (s : State) : Out := .next (stwStep .rfe p s)
def execMfsr (p : Nat) (s : State) : Out := .next (stwStep .mfsr p s)
def execMtsr (p : Nat) (s : State) : Out := .next (stwStep .mtsr p s)
def execGcall (p : Nat) (s : State) : Out := .next (stwStep .gcall p s)
def execGret (p : Nat) (s : State) : Out := .next (stwStep .gret p s)
def execBrk (p : Nat) (s : State) : Out := .next (stwStep .brk p s)
def execWft (p : Nat) (s : State) : Out := .next (stwStep .wft p s)
def execPost (p : Nat) (s : State) : Out := .next (stwStep .post p s)
def execFclaim (p : Nat) (s : State) : Out := .next (stwStep .fclaim p s)
def execFrel (p : Nat) (s : State) : Out := .next (stwStep .frel p s)
def execAmb (p : Nat) (s : State) : Out := .next (stwStep .amb p s)

/-! ### Events of a steward -/

/-- LINE_FILL: the line that the instruction waits for arrives after its tag check; poison and a late alarm raise BUS, or
IFETCH for the instruction cache (R474, R482). -/
def lineFill (p : Nat) (chk : Verdict) (alarm : Bool) (s : State) : State :=
  match (coreOf s p).miss with
  | none => s
  | some m =>
    if !stwAwake s p then s
    else
      let clear := fun (x : State) => putCore p { coreOf x p with miss := none } x
      let bad := fun (info : Nat) (x : State) =>
        if m.instr then takeException p .ifetch 0 0 0 (traceBoundary p (clear x))
        else takeException p .bus info 0 m.addr (clear x)
      match readLine (.steward p false) m.line chk s with
      | (0, d, s1) => clear (if m.instr then fillIc p m.line d s1 else allocLine p m.line d s1)
      | (1, _, s1) => bad 0 s1
      | (_, _, s1) => bad (if alarm then 2 else 1) s1

def execLineFill (p : Nat) (chk : Verdict) (alarm : Bool) (s : State) : Out := .next (lineFill p chk alarm s)

/-- GCALL_TIMEOUT (R487). -/
def gcallTimeout (p : Nat) (s : State) : State :=
  match (coreOf s p).gcall with
  | some g => if stwAwake s p && decide (g.cycle + 1000000 ≤ cyclesNow s p) then gcallAbort p 2 s else s
  | none => s

def execGcallTimeout (p : Nat) (s : State) : Out := .next (gcallTimeout p s)

/-- WFT_RELEASE (R467): the count reaches the value, and the WFT completes. While the shelf is not ON the release wakes
it first (R690). -/
def wftRelease (p : Nat) (s : State) : State :=
  let c := coreOf s p
  match c.await with
  | none => s
  | some (kind, v, rd) =>
    if c.run ≠ .waiting ∨ wftReached s kind v = false then s
    else if !shelfOn s (p / 17) then wakeShelf (p / 17) 2 s
    else
      let s1 := startClock p s
      stwGive p rd (wftCount s1 kind) (putCore p { coreOf s1 p with run := .executing, await := none } s1)

def execWftRelease (p : Nat) (s : State) : Out := .next (if p < 272 then wftRelease p s else s)

/-- INTERRUPT (R483, R484): taken before the next instruction, or during a WFT. -/
def interrupt (p : Nat) (s : State) : State :=
  let c := coreOf s p
  match dueLine s p with
  | none => s
  | some line =>
    if !stwAwake s p || (c.run ≠ .executing && c.run ≠ .waiting) || c.miss.isSome || inAccess s p then s
    else takeException p .int 0 line 0 (traceBoundary p (startClock p s))

def execInterrupt (p : Nat) (s : State) : Out := .next (interrupt p s)

/-- LOW_POWER_ENTRY (R654): a WFT has waited 64 cycles. -/
def lowPower (p : Nat) (s : State) : State :=
  if stwAwake s p && (coreOf s p).run = .waiting then stopClock 0 p s else s

def execLowPowerEntry (p : Nat) (s : State) : Out := .next (lowPower p s)

end Sys2Proof.Machine
end

