-- ==== Sys2Proof/Machine/SoftError.lean ====
section
/-! DEFINITION. SOFT_ERROR (R715): an upset or a lasting defect alters stored bits. What follows from it is the effect of
the accesses that meet it. -/

namespace Sys2Proof.Machine

/-- Positions inverted after one more upset of a bit. -/
def toggleBit (l : List Nat) (b : Nat) : List Nat := if l.contains b then l.filter (fun x => x ≠ b) else l ++ [b]

def toggleBits (l bits : List Nat) : List Nat := bits.foldl toggleBit l

/-- A word with bits inverted. -/
def upsetWord {w : Nat} (v : BitVec w) (bits : List Nat) : BitVec w :=
  bits.foldl (fun acc b => acc ^^^ BitVec.ofNat w (2 ^ b)) v

/-- Table entries that carry a parity bit (R157): FAB_XMAP, FAB_SIMP, FAB_WIN, SHF_GIMP and HSL_ETX. -/
def isTable (a : Nat) : Bool :=
  (List.range 272).any (fun p => fabA p 0 ≤ a && a < fabA p 0x1400) ||
    (List.range 16).any (fun h => shfA h 0 ≤ a && a < shfA h 0x400) ||
    (linkA 0 0 ≤ a && a < linkA 64 0 && 0x800 ≤ a % 0x1000 && a % 0x1000 < 0x880)

/-- The link whose HSL_ETX table holds an entry. -/
def etxLink (a : Nat) : Option Nat :=
  if linkA 0 0 ≤ a ∧ a < linkA 64 0 then some ((a - linkA 0 0) / 0x1000) else none

/-- A table entry is altered; bit 32 is its parity bit. An odd number of bits leaves it with bad parity. An HSL_ETX entry
is used in every step of the step clock while the device is Ready, Running or Held (R157). -/
def upsetTable (a : Nat) (bits : List Nat) (s : State) : State :=
  let s1 := wrReg s a (upsetWord (rdReg s a) (bits.filter (fun b => decide (b < 32))))
  let bad := mapGet false s1.cl.cfgBad a != (bits.length % 2 = 1)
  let s2 := { s1 with cl := { s1.cl with cfgBad := mapSet false s1.cl.cfgBad a bad } }
  match etxLink a, s.chip.devState with
  | some l, .ready | some l, .running | some l, .held => if bad then etxFault l s2 else s2
  | _, _ => s2

/-- A line that a data cache or an L2 holds has `n` more bits inverted. -/
def upsetCache (l n : Nat) (s : State) : State :=
  match cacheLine s l with
  | some x => putCache l (some { x with flips := x.flips + n }) s
  | none => s

/-- An item of a scheduler's pool has `n` more bits inverted. -/
def upsetPool (p f i n : Nat) (s : State) : State :=
  let x := schedOf s p
  let v := flowOf x f
  putSched p (putFlow f { v with items := v.items.zipIdx.map (fun q =>
    if q.2 = i then { q.1 with flips := q.1.flips + n } else q.1) } x) s

/-- The stored bits of a cellar line change: its check fails from now on. -/
def upsetLine (l : Nat) (bits : List Nat) (s : State) : State :=
  let d := bits.foldl (fun (acc : List Byte) b =>
    acc.set (b / 8) (acc.getD (b / 8) 0 ^^^ BitVec.ofNat 8 (2 ^ (b % 8)))) (lineBytes s l)
  let s1 := memPut (64 * l) d s
  { s1 with cel := { s1.cel with upset := mapSet false s1.cel.upset l true } }

/-- The instruction-cache parity finds the error at the next fetch, and the line is fetched again (R476): it is gone. -/
def upset (u : Upset) (s : State) : State :=
  let below := fun (n : Nat) (l : List Nat) => l.filter (fun b => decide (b < n))
  match u with
  | .bp p n e bits =>
    if p < 272 ∧ n < 128 ∧ e < 1024 then
      let k := kEntry p n e
      { s with cl := { s.cl with bpFlips := mapSet [] s.cl.bpFlips k (toggleBits (mapGet [] s.cl.bpFlips k) (below 80 bits)) } }
    else s
  | .pond p n e bits =>
    if p < 272 ∧ n < 128 ∧ e < 512 then
      let k := kPond p n e
      { s with cl := { s.cl with pond := mapSet 0 s.cl.pond k (upsetWord (mapGet 0 s.cl.pond k) (below 9 bits)) } }
    else s
  | .we p e i bits =>
    if p < 272 ∧ e < 8 ∧ i < 1024 then
      let k := kWeEntry p e i
      { s with cl := { s.cl with weFlips := mapSet [] s.cl.weFlips k (toggleBits (mapGet [] s.cl.weFlips k) (below 72 bits)) } }
    else s
  | .row p r w bits =>
    if p < 272 ∧ r < 4 ∧ w < 4096 then
      let k := kRow p r w
      { s with cl := { s.cl with rowFlips := mapSet [] s.cl.rowFlips k (toggleBits (mapGet [] s.cl.rowFlips k) (below 72 bits)) } }
    else s
  | .table a bits => if isTable a then upsetTable a (below 33 bits) s else s
  | .cache l n => upsetCache l n s
  | .icache p l => if p < 272 ∧ l < 2 ^ 30 then putIc p l none s else s
  | .pool p f i n => if p < 272 ∧ f < 128 then upsetPool p f i n s else s
  | .cellar l bits => if l < 2 ^ 30 ∧ below 512 bits ≠ [] then upsetLine l (below 512 bits) s else s

def execSoftError (u : Upset) (s : State) : Out := .next (if s.chip.devState = .off then s else upset u s)

end Sys2Proof.Machine
end

