-- ==== Sys2Proof/Machine/Dispatch.lean ====
section
/-! DEFINITION. The meaning of every command: one arm per constructor. -/

namespace Sys2Proof.Machine

def exec (i : Instr) (s : State) : Host.Outcome State Fault Refusal :=
  match i with
  | .porstAssert => Sys2Proof.Machine.execPorstAssert s
  | .porstRelease => Sys2Proof.Machine.execPorstRelease s
  | .perstAssert => Sys2Proof.Machine.execPerstAssert s
  | .configReady => Sys2Proof.Machine.execConfigReady s
  | .bootStageDone flash => Sys2Proof.Machine.execBootStageDone flash s
  | .bootStageTimeout => Sys2Proof.Machine.execBootStageTimeout s
  | .shellFrame src l flash => Sys2Proof.Machine.execShellFrame src l flash s
  | .shellVerified => Sys2Proof.Machine.execShellVerified s
  | .regWrite who a len v => Sys2Proof.Machine.execRegWrite who a len v s
  | .wideReadCapture who a len => Sys2Proof.Machine.execWideReadCapture who a len s
  | .timNowCapture who => Sys2Proof.Machine.execTimNowCapture who s
  | .modelStateAccess who a write v => Sys2Proof.Machine.execModelStateAccess who a write v s
  | .remoteAccess who w o write v => Sys2Proof.Machine.execRemoteAccess who w o write v s
  | .remoteAccessTimeout tag => Sys2Proof.Machine.execRemoteAccessTimeout tag s
  | .responseFlit dst => Sys2Proof.Machine.execResponseFlit dst s
  | .tickStart delta => Sys2Proof.Machine.execTickStart delta s
  | .plain m n t => Sys2Proof.Machine.execPlain m n t s
  | .nop m n t => Sys2Proof.Machine.execNop m n t s
  | .stateWrite m n t => Sys2Proof.Machine.execStateWrite m n t s
  | .injectPoint m n t => Sys2Proof.Machine.execInjectPoint m n t s
  | .sel m n t => Sys2Proof.Machine.execSel m n t s
  | .swaphint m n t => Sys2Proof.Machine.execSwaphint m n t s
  | .rowcopy m n t => Sys2Proof.Machine.execRowcopy m n t s
  | .probe m n t => Sys2Proof.Machine.execProbe m n t s
  | .bpcInjWrite who m n r v => Sys2Proof.Machine.execBpcInjWrite who m n r v s
  | .bpcCntClr who m n => Sys2Proof.Machine.execBpcCntClr who m n s
  | .weNop m e t => Sys2Proof.Machine.execWeNop m e t s
  | .weAdd m e t => Sys2Proof.Machine.execWeAdd m e t s
  | .weSub m e t => Sys2Proof.Machine.execWeSub m e t s
  | .weMov m e t => Sys2Proof.Machine.execWeMov m e t s
  | .weAnd m e t => Sys2Proof.Machine.execWeAnd m e t s
  | .weOr m e t => Sys2Proof.Machine.execWeOr m e t s
  | .weXor m e t => Sys2Proof.Machine.execWeXor m e t s
  | .weAndn m e t => Sys2Proof.Machine.execWeAndn m e t s
  | .weShl m e t => Sys2Proof.Machine.execWeShl m e t s
  | .weShr m e t => Sys2Proof.Machine.execWeShr m e t s
  | .weSar m e t => Sys2Proof.Machine.execWeSar m e t s
  | .weRol m e t => Sys2Proof.Machine.execWeRol m e t s
  | .wePopc m e t => Sys2Proof.Machine.execWePopc m e t s
  | .weClz m e t => Sys2Proof.Machine.execWeClz m e t s
  | .weSel m e t => Sys2Proof.Machine.execWeSel m e t s
  | .weCeq m e t => Sys2Proof.Machine.execWeCeq m e t s
  | .weCne m e t => Sys2Proof.Machine.execWeCne m e t s
  | .weCltu m e t => Sys2Proof.Machine.execWeCltu m e t s
  | .weCgeu m e t => Sys2Proof.Machine.execWeCgeu m e t s
  | .weClts m e t => Sys2Proof.Machine.execWeClts m e t s
  | .weCges m e t => Sys2Proof.Machine.execWeCges m e t s
  | .weMul m e t => Sys2Proof.Machine.execWeMul m e t s
  | .weMac m e t => Sys2Proof.Machine.execWeMac m e t s
  | .weMacc m e t => Sys2Proof.Machine.execWeMacc m e t s
  | .macUpdateComplete m sl t => Sys2Proof.Machine.execMacUpdateComplete m sl t s
  | .weSrd m e t => Sys2Proof.Machine.execWeSrd m e t s
  | .srdDataReady m r q t => Sys2Proof.Machine.execSrdDataReady m r q t s
  | .weSwr m e t => Sys2Proof.Machine.execWeSwr m e t s
  | .pageFillDone m r page => Sys2Proof.Machine.execPageFillDone m r page s
  | .wenCntClr who m e => Sys2Proof.Machine.execWenCntClr who m e s
  | .strCntClr who m r => Sys2Proof.Machine.execStrCntClr who m r s
  | .tickOverhead => Sys2Proof.Machine.execTickOverhead s
  | .stageWriteDone ok => Sys2Proof.Machine.execStageWriteDone ok s
  | .boundaryExtension => Sys2Proof.Machine.execBoundaryExtension s
  | .ckptWriteResponse part epoch n ok => Sys2Proof.Machine.execCkptWriteResponse part epoch n ok s
  | .drainLate k => Sys2Proof.Machine.execDrainLate k s
  | .sendPassVote k => Sys2Proof.Machine.execSendPassVote k s
  | .voteTimeout => Sys2Proof.Machine.execVoteTimeout s
  | .start h ts first => Sys2Proof.Machine.execStart h ts first s
  | .runSegmentStart => Sys2Proof.Machine.execRunSegmentStart s
  | .decide h v m => Sys2Proof.Machine.execDecide h v m s
  | .cen h v e => Sys2Proof.Machine.execCen h v e s
  | .hold h epoch cause => Sys2Proof.Machine.execHold h epoch cause s
  | .vote h k pass stop cause dev => Sys2Proof.Machine.execVote h k pass stop cause dev s
  | .commit h k stop => Sys2Proof.Machine.execCommit h k stop s
  | .rollback h j ts cause origin hold => Sys2Proof.Machine.execRollback h j ts cause origin hold s
  | .restoreDone => Sys2Proof.Machine.execRestoreDone s
  | .rbDone h => Sys2Proof.Machine.execRbDone h s
  | .rbFail h cause => Sys2Proof.Machine.execRbFail h cause s
  | .req h kind value dev => Sys2Proof.Machine.execReq h kind value dev s
  | .reject h dev kind => Sys2Proof.Machine.execReject h dev kind s
  | .sprCtrlRun who => Sys2Proof.Machine.execSprCtrlRun who s
  | .sprCtrlHold who => Sys2Proof.Machine.execSprCtrlHold who s
  | .sprCtrlResume who => Sys2Proof.Machine.execSprCtrlResume who s
  | .sprCtrlForceRb who => Sys2Proof.Machine.execSprCtrlForceRb who s
  | .sprCenWrite who v => Sys2Proof.Machine.execSprCenWrite who v s
  | .load who => Sys2Proof.Machine.execLoad who s
  | .reload who => Sys2Proof.Machine.execReload who s
  | .abort who => Sys2Proof.Machine.execAbort who s
  | .shellFeed who => Sys2Proof.Machine.execShellFeed who s
  | .reboot who => Sys2Proof.Machine.execReboot who s
  | .feedWrite who ofs bytes => Sys2Proof.Machine.execFeedWrite who ofs bytes s
  | .ldBegin l kind target => Sys2Proof.Machine.execLdBegin l kind target s
  | .ldAck l src => Sys2Proof.Machine.execLdAck l src s
  | .ldAckTimeout => Sys2Proof.Machine.execLdAckTimeout s
  | .ldData l off dst bytes => Sys2Proof.Machine.execLdData l off dst bytes s
  | .loadChecksDone => Sys2Proof.Machine.execLoadChecksDone s
  | .ldVote l src v => Sys2Proof.Machine.execLdVote l src v s
  | .ldCommit l bad => Sys2Proof.Machine.execLdCommit l bad s
  | .enterReady => Sys2Proof.Machine.execEnterReady s
  | .ldReady l src => Sys2Proof.Machine.execLdReady l src s
  | .ldAbort l dst e => Sys2Proof.Machine.execLdAbort l dst e s
  | .loadStallTimeout => Sys2Proof.Machine.execLoadStallTimeout s
  | .linkWaitTimeout => Sys2Proof.Machine.execLinkWaitTimeout s
  | .reloadVerified => Sys2Proof.Machine.execReloadVerified s
  | .reloadWritesDone => Sys2Proof.Machine.execReloadWritesDone s
  | .borderModeWrite who h k v => Sys2Proof.Machine.execBorderModeWrite who h k v s
  | .shFrame l index frame => Sys2Proof.Machine.execShFrame l index frame s
  | .shReq l index => Sys2Proof.Machine.execShReq l index s
  | .rreq l src dst addr write tag v => Sys2Proof.Machine.execRreq l src dst addr write tag v s
  | .rrsp l dst tag bad v => Sys2Proof.Machine.execRrsp l dst tag bad v s
  | .moverRecord => Sys2Proof.Machine.execMoverRecord s
  | .moverEpochDone => Sys2Proof.Machine.execMoverEpochDone s
  | .arm who v => Sys2Proof.Machine.execArm who v s
  | .disarm who v => Sys2Proof.Machine.execDisarm who v s
  | .trig who v => Sys2Proof.Machine.execTrig who v s
  | .acqControlWrite who o v => Sys2Proof.Machine.execAcqControlWrite who o v s
  | .cmpStagedWrite who o v => Sys2Proof.Machine.execCmpStagedWrite who o v s
  | .sweepClr who v => Sys2Proof.Machine.execSweepClr who v s
  | .cmpNotifyWrite who v => Sys2Proof.Machine.execCmpNotifyWrite who v s
  | .gpioRisingEdge j => Sys2Proof.Machine.execGpioRisingEdge j s
  | .ts1 l t => Sys2Proof.Machine.execTs1 l t s
  | .ts2 l t => Sys2Proof.Machine.execTs2 l t s
  | .mark l stamp step => Sys2Proof.Machine.execMark l stamp step s
  | .markReturn l stamp step => Sys2Proof.Machine.execMarkReturn l stamp step s
  | .markEcho l r => Sys2Proof.Machine.execMarkEcho l r s
  | .linkStateDone l lam boot => Sys2Proof.Machine.execLinkStateDone l lam boot s
  | .linkStageTimeout l => Sys2Proof.Machine.execLinkStageTimeout l s
  | .retrain who l => Sys2Proof.Machine.execRetrain who l s
  | .laneLockLost p => Sys2Proof.Machine.execLaneLockLost p s
  | .signal l slot bundle items lam lane good => Sys2Proof.Machine.execSignal l slot bundle items lam lane good s
  | .signalItemRelease l slot step t => Sys2Proof.Machine.execSignalItemRelease l slot step t s
  | .streamStart l seq tick fbytes control lane good => Sys2Proof.Machine.execStreamStart l seq tick fbytes control lane good s
  | .streamData l seq bytes lane good => Sys2Proof.Machine.execStreamData l seq bytes lane good s
  | .service l seq som eom body lane good => Sys2Proof.Machine.execService l seq som eom body lane good s
  | .serviceResendTimeout l => Sys2Proof.Machine.execServiceResendTimeout l s
  | .sample l seq t1 t2 t3 t4 lane good => Sys2Proof.Machine.execSample l seq t1 t2 t3 t4 lane good s
  | .mgmt l ack nak dstate dev commit lane good => Sys2Proof.Machine.execMgmt l ack nak dstate dev commit lane good s
  | .idle l lane good => Sys2Proof.Machine.execIdle l lane good s
  | .reservedFlit l lane kind => Sys2Proof.Machine.execReservedFlit l lane kind s
  | .swap l lane cid step => Sys2Proof.Machine.execSwap l lane cid step s
  | .swapAck l cid step => Sys2Proof.Machine.execSwapAck l cid step s
  | .swapSwitch l => Sys2Proof.Machine.execSwapSwitch l s
  | .bistOn l p cid => Sys2Proof.Machine.execBistOn l p cid s
  | .bistOff l p cid => Sys2Proof.Machine.execBistOff l p cid s
  | .laneBistDone p errors => Sys2Proof.Machine.execLaneBistDone p errors s
  | .lb2On l lane cid => Sys2Proof.Machine.execLb2On l lane cid s
  | .lb2Off l lane cid => Sys2Proof.Machine.execLb2Off l lane cid s
  | .lb3On l lane cid => Sys2Proof.Machine.execLb3On l lane cid s
  | .lb3Off l lane cid => Sys2Proof.Machine.execLb3Off l lane cid s
  | .cmdAck l cid => Sys2Proof.Machine.execCmdAck l cid s
  | .cmdRefuse l cid => Sys2Proof.Machine.execCmdRefuse l cid s
  | .laneCtrlWrite who p v => Sys2Proof.Machine.execLaneCtrlWrite who p v s
  | .laneCntClr who p => Sys2Proof.Machine.execLaneCntClr who p s
  | .linkLoopbackWrite who l v => Sys2Proof.Machine.execLinkLoopbackWrite who l v s
  | .spWmWrite who l v => Sys2Proof.Machine.execSpWmWrite who l v s
  | .enProbe l g => Sys2Proof.Machine.execEnProbe l g s
  | .enCount l g a => Sys2Proof.Machine.execEnCount l g a s
  | .enumChildTimeout => Sys2Proof.Machine.execEnumChildTimeout s
  | .enAssign l g depth base ndev arrive ttree => Sys2Proof.Machine.execEnAssign l g depth base ndev arrive ttree s
  | .enDone l g => Sys2Proof.Machine.execEnDone l g s
  | .enFail l g cause => Sys2Proof.Machine.execEnFail l g cause s
  | .substat l w => Sys2Proof.Machine.execSubstat l w s
  | .substatPeriod => Sys2Proof.Machine.execSubstatPeriod s
  | .substatTimeout j => Sys2Proof.Machine.execSubstatTimeout j s
  | .enum who => Sys2Proof.Machine.execEnum who s
  | .pllLockLoss => Sys2Proof.Machine.execPllLockLoss s
  | .linkFrame ppb => Sys2Proof.Machine.execLinkFrame ppb s
  | .revert who => Sys2Proof.Machine.execRevert who s
  | .lawArm who k => Sys2Proof.Machine.execLawArm who k s
  | .lawInForce k => Sys2Proof.Machine.execLawInForce k s
  | .ppsEdge t ref => Sys2Proof.Machine.execPpsEdge t ref s
  | .ppsLoss => Sys2Proof.Machine.execPpsLoss s
  | .pulseArm who n v => Sys2Proof.Machine.execPulseArm who n v s
  | .pulseDisarm who n v => Sys2Proof.Machine.execPulseDisarm who n v s
  | .pulseEdge n => Sys2Proof.Machine.execPulseEdge n s
  | .pulseEnd n => Sys2Proof.Machine.execPulseEnd n s
  | .aluAdd p => Sys2Proof.Machine.execAluAdd p s
  | .aluSub p => Sys2Proof.Machine.execAluSub p s
  | .aluAnd p => Sys2Proof.Machine.execAluAnd p s
  | .aluOr p => Sys2Proof.Machine.execAluOr p s
  | .aluXor p => Sys2Proof.Machine.execAluXor p s
  | .aluAndn p => Sys2Proof.Machine.execAluAndn p s
  | .sll p => Sys2Proof.Machine.execSll p s
  | .srl p => Sys2Proof.Machine.execSrl p s
  | .sra p => Sys2Proof.Machine.execSra p s
  | .mul p => Sys2Proof.Machine.execMul p s
  | .mulhu p => Sys2Proof.Machine.execMulhu p s
  | .mulhs p => Sys2Proof.Machine.execMulhs p s
  | .divu p => Sys2Proof.Machine.execDivu p s
  | .divs p => Sys2Proof.Machine.execDivs p s
  | .remu p => Sys2Proof.Machine.execRemu p s
  | .rems p => Sys2Proof.Machine.execRems p s
  | .min p => Sys2Proof.Machine.execMin p s
  | .max p => Sys2Proof.Machine.execMax p s
  | .minu p => Sys2Proof.Machine.execMinu p s
  | .maxu p => Sys2Proof.Machine.execMaxu p s
  | .popc p => Sys2Proof.Machine.execPopc p s
  | .clz p => Sys2Proof.Machine.execClz p s
  | .addi p => Sys2Proof.Machine.execAddi p s
  | .andi p => Sys2Proof.Machine.execAndi p s
  | .ori p => Sys2Proof.Machine.execOri p s
  | .xori p => Sys2Proof.Machine.execXori p s
  | .slli p => Sys2Proof.Machine.execSlli p s
  | .srli p => Sys2Proof.Machine.execSrli p s
  | .srai p => Sys2Proof.Machine.execSrai p s
  | .lui p => Sys2Proof.Machine.execLui p s
  | .llo p => Sys2Proof.Machine.execLlo p s
  | .cmp p => Sys2Proof.Machine.execCmp p s
  | .cmpi p => Sys2Proof.Machine.execCmpi p s
  | .plog p => Sys2Proof.Machine.execPlog p s
  | .lw p => Sys2Proof.Machine.execLw p s
  | .lh p => Sys2Proof.Machine.execLh p s
  | .lhu p => Sys2Proof.Machine.execLhu p s
  | .lb p => Sys2Proof.Machine.execLb p s
  | .lbu p => Sys2Proof.Machine.execLbu p s
  | .sw p => Sys2Proof.Machine.execSw p s
  | .sh p => Sys2Proof.Machine.execSh p s
  | .sb p => Sys2Proof.Machine.execSb p s
  | .lineFill p chk alarm => Sys2Proof.Machine.execLineFill p chk alarm s
  | .amoSwap p => Sys2Proof.Machine.execAmoSwap p s
  | .amoAdd p => Sys2Proof.Machine.execAmoAdd p s
  | .amoAnd p => Sys2Proof.Machine.execAmoAnd p s
  | .amoOr p => Sys2Proof.Machine.execAmoOr p s
  | .fence p => Sys2Proof.Machine.execFence p s
  | .instructionSync p => Sys2Proof.Machine.execInstructionSync p s
  | .cmoClean p => Sys2Proof.Machine.execCmoClean p s
  | .cmoInvalidate p => Sys2Proof.Machine.execCmoInvalidate p s
  | .cmoCleanInvalidate p => Sys2Proof.Machine.execCmoCleanInvalidate p s
  | .cmoInvalidateIline p => Sys2Proof.Machine.execCmoInvalidateIline p s
  | .b p => Sys2Proof.Machine.execB p s
  | .bl p => Sys2Proof.Machine.execBl p s
  | .jr p => Sys2Proof.Machine.execJr p s
  | .sys p => Sys2Proof.Machine.execSys p s
  | .rfe p => Sys2Proof.Machine.execRfe p s
  | .mfsr p => Sys2Proof.Machine.execMfsr p s
  | .mtsr p => Sys2Proof.Machine.execMtsr p s
  | .gcall p => Sys2Proof.Machine.execGcall p s
  | .gret p => Sys2Proof.Machine.execGret p s
  | .gcallTimeout p => Sys2Proof.Machine.execGcallTimeout p s
  | .brk p => Sys2Proof.Machine.execBrk p s
  | .wft p => Sys2Proof.Machine.execWft p s
  | .wftRelease p => Sys2Proof.Machine.execWftRelease p s
  | .post p => Sys2Proof.Machine.execPost p s
  | .fclaim p => Sys2Proof.Machine.execFclaim p s
  | .frel p => Sys2Proof.Machine.execFrel p s
  | .amb p => Sys2Proof.Machine.execAmb p s
  | .interrupt p => Sys2Proof.Machine.execInterrupt p s
  | .halt who p => Sys2Proof.Machine.execHalt who p s
  | .haltClear who p => Sys2Proof.Machine.execHaltClear who p s
  | .stwRestart who p halt => Sys2Proof.Machine.execStwRestart who p halt s
  | .stewardDoorbell who p v => Sys2Proof.Machine.execStewardDoorbell who p v s
  | .stwDbgWrite who p o v => Sys2Proof.Machine.execStwDbgWrite who p o v s
  | .create p slot deadline => Sys2Proof.Machine.execCreate p slot deadline s
  | .free p slot => Sys2Proof.Machine.execFree p slot s
  | .dispatch p slot => Sys2Proof.Machine.execDispatch p slot s
  | .yield p slot => Sys2Proof.Machine.execYield p slot s
  | .block p slot => Sys2Proof.Machine.execBlock p slot s
  | .unblock p slot => Sys2Proof.Machine.execUnblock p slot s
  | .setdl p slot deadline => Sys2Proof.Machine.execSetdl p slot deadline s
  | .wait p slot arg => Sys2Proof.Machine.execWait p slot arg s
  | .flush p flow => Sys2Proof.Machine.execFlush p flow s
  | .tskClr who p => Sys2Proof.Machine.execTskClr who p s
  | .tskPost who p f item => Sys2Proof.Machine.execTskPost who p f item s
  | .deadlineMiss p j => Sys2Proof.Machine.execDeadlineMiss p j s
  | .nigorTick p => Sys2Proof.Machine.execNigorTick p s
  | .gateRequest who a write v => Sys2Proof.Machine.execGateRequest who a write v s
  | .switch who => Sys2Proof.Machine.execSwitch who s
  | .routeCheckDone => Sys2Proof.Machine.execRouteCheckDone s
  | .generationDrained => Sys2Proof.Machine.execGenerationDrained s
  | .shelfPhaseDone h ok => Sys2Proof.Machine.execShelfPhaseDone h ok s
  | .shelfEligible h => Sys2Proof.Machine.execShelfEligible h s
  | .shelfDown who h => Sys2Proof.Machine.execShelfDown who h s
  | .shelfUp who h => Sys2Proof.Machine.execShelfUp who h s
  | .dmaGo who n v => Sys2Proof.Machine.execDmaGo who n v s
  | .dmaChannelActive n => Sys2Proof.Machine.execDmaChannelActive n s
  | .dmaReadResponse n data bad chk => Sys2Proof.Machine.execDmaReadResponse n data bad chk s
  | .dmaWriteResponse n chk => Sys2Proof.Machine.execDmaWriteResponse n chk s
  | .dmaAbort who n v => Sys2Proof.Machine.execDmaAbort who n v s
  | .dmaAck who n => Sys2Proof.Machine.execDmaAck who n s
  | .cellarRead w l chk => Sys2Proof.Machine.execCellarRead w l chk s
  | .tagVerdict epoch l chk => Sys2Proof.Machine.execTagVerdict epoch l chk s
  | .cellarWrite w l ofs bytes chk => Sys2Proof.Machine.execCellarWrite w l ofs bytes chk s
  | .rekeyDone p => Sys2Proof.Machine.execRekeyDone p s
  | .resealDone => Sys2Proof.Machine.execResealDone s
  | .reserveCopyDone pc bad => Sys2Proof.Machine.execReserveCopyDone pc bad s
  | .seal who slot => Sys2Proof.Machine.execSeal who slot s
  | .unseal who slot => Sys2Proof.Machine.execUnseal who slot s
  | .blobDone => Sys2Proof.Machine.execBlobDone s
  | .mailboxDoorbell len => Sys2Proof.Machine.execMailboxDoorbell len s
  | .status => Sys2Proof.Machine.execStatus s
  | .logRead => Sys2Proof.Machine.execLogRead s
  | .logClear => Sys2Proof.Machine.execLogClear s
  | .challenge => Sys2Proof.Machine.execChallenge s
  | .debugAuth => Sys2Proof.Machine.execDebugAuth s
  | .debugRevoke => Sys2Proof.Machine.execDebugRevoke s
  | .provision => Sys2Proof.Machine.execProvision s
  | .deploy => Sys2Proof.Machine.execDeploy s
  | .return => Sys2Proof.Machine.execReturn s
  | .setMinver => Sys2Proof.Machine.execSetMinver s
  | .keyLoad => Sys2Proof.Machine.execKeyLoad s
  | .keyClear => Sys2Proof.Machine.execKeyClear s
  | .retire => Sys2Proof.Machine.execRetire s
  | .bist => Sys2Proof.Machine.execBist s
  | .restart => Sys2Proof.Machine.execRestart s
  | .lockOpen => Sys2Proof.Machine.execLockOpen s
  | .lockClose => Sys2Proof.Machine.execLockClose s
  | .lockExpiry => Sys2Proof.Machine.execLockExpiry s
  | .challengeExpiry => Sys2Proof.Machine.execChallengeExpiry s
  | .grantExpiry => Sys2Proof.Machine.execGrantExpiry s
  | .scrubRead a => Sys2Proof.Machine.execScrubRead a s
  | .sweepEnd v => Sys2Proof.Machine.execSweepEnd v s
  | .scrubCopyRebuilt k => Sys2Proof.Machine.execScrubCopyRebuilt k s
  | .scrubWatchdog => Sys2Proof.Machine.execScrubWatchdog s
  | .faultReport => Sys2Proof.Machine.execFaultReport s
  | .faultClassify => Sys2Proof.Machine.execFaultClassify s
  | .autoBist cls unit => Sys2Proof.Machine.execAutoBist cls unit s
  | .bistDone cls unit ok => Sys2Proof.Machine.execBistDone cls unit ok s
  | .traceFrame => Sys2Proof.Machine.execTraceFrame s
  | .trcSrcWrite who k v => Sys2Proof.Machine.execTrcSrcWrite who k v s
  | .trcCtrlWrite who v => Sys2Proof.Machine.execTrcCtrlWrite who v s
  | .tapReset => Sys2Proof.Machine.execTapReset s
  | .extest scan => Sys2Proof.Machine.execExtest scan s
  | .samplePreload scan => Sys2Proof.Machine.execSamplePreload scan s
  | .idcode => Sys2Proof.Machine.execIdcode s
  | .highz => Sys2Proof.Machine.execHighz s
  | .clamp => Sys2Proof.Machine.execClamp s
  | .extestPulse scan => Sys2Proof.Machine.execExtestPulse scan s
  | .extestTrain scan => Sys2Proof.Machine.execExtestTrain scan s
  | .dbgacc data addr write start => Sys2Proof.Machine.execDbgacc data addr write start s
  | .dbgmb word last discard => Sys2Proof.Machine.execDbgmb word last discard s
  | .dbgstat => Sys2Proof.Machine.execDbgstat s
  | .bypass => Sys2Proof.Machine.execBypass s
  | .thermalWarning j t => Sys2Proof.Machine.execThermalWarning j t s
  | .thermalTrip j t => Sys2Proof.Machine.execThermalTrip j t s
  | .thermholdClear j t => Sys2Proof.Machine.execThermholdClear j t s
  | .hostDoorbell who m v => Sys2Proof.Machine.execHostDoorbell who m v s
  | .fwirq who v => Sys2Proof.Machine.execFwirq who v s
  | .msixEnable on => Sys2Proof.Machine.execMsixEnable on s
  | .flashGo who v => Sys2Proof.Machine.execFlashGo who v s
  | .flashDone data => Sys2Proof.Machine.execFlashDone data s
  | .setaddr a => Sys2Proof.Machine.execSetaddr a s
  | .write v => Sys2Proof.Machine.execWrite v s
  | .read => Sys2Proof.Machine.execRead s
  | .state => Sys2Proof.Machine.execState s
  | .i2cStretchTimeout => Sys2Proof.Machine.execI2cStretchTimeout s
  | .perstRelease => Sys2Proof.Machine.execPerstRelease s
  | .lowPowerEntry p => Sys2Proof.Machine.execLowPowerEntry p s
  | .prbsReceive p bits => Sys2Proof.Machine.execPrbsReceive p bits s
  | .softError u => Sys2Proof.Machine.execSoftError u s
  | .rekeyLine p chk => Sys2Proof.Machine.execRekeyLine p chk s
  | .pciePowerState d3 => Sys2Proof.Machine.execPciePowerState d3 s

end Sys2Proof.Machine
end

