-- ==== Sys2Proof/Machine/Idle.lean ====
section
/-! DEFINITION. What the block does while no command waits: a step of the step clock passes (R431). -/

namespace Sys2Proof.Machine

/-- What a step of the step clock adds to TB0, in units of 2^-48 ns: 0.8 ns × (1 + RATE × 2^-40), held to that resolution
(R431). -/
def tb0Step (s : State) : Nat :=
  let rate : Int := sreg s (timA 0x5C)
  (4 * 2 ^ 8 * ((2 ^ 40 : Nat) + rate) / 5).toNat

/-- TB0 runs from the lock of the step clock on (R427, R431). -/
def tb0Runs (s : State) : Bool := s.chip.devState ≠ .off && rdBit s timStat 0

/-- One step of the step clock passes. -/
def idle (s : State) : State :=
  if tb0Runs s then
    { s with tim := { s.tim with tb0 := (s.tim.tb0 + tb0Step s) % (2 ^ 48 * secUnits * 2 ^ 32) } }
  else s

end Sys2Proof.Machine
end

