-- ==== Sys2Proof/Safety.lean ====
section
/-! DEFINITION. What the claims call well-kept state: the canonical form of the sparse data that the block holds, and the
stewards' program counters. -/

namespace Sys2Proof.Machine

/-- The cellar's memory is in canonical form (chapter 14): addresses strictly rising, no byte listed that an unlisted
address reads as. -/
abbrev Memory.wf (m : List Host.Cell) : Prop := mapWf (0 : Byte) m

/-- The register file is in canonical form: addresses strictly rising, no register listed at its reset value (R9). -/
abbrev Registers.wf (r : SMap Word) : Prop :=
  r.Pairwise (fun a b => a.1 < b.1) ∧ ∀ p ∈ r, p.2 ≠ regReset p.1

/-- Registers and cellar memory are in canonical form, so that equal contents are equal data. -/
def Canon (s : State) : Prop := Registers.wf s.regs ∧ Memory.wf s.cel.mem

/-- Every logical cluster is served by a physical cluster of its own shelf (R17, R18). -/
def MapOk (s : State) : Prop := ∀ m, m < 256 → physOf s m / 17 = m / 16

/-- What every command does to what it does not interpret: the queue of the commands that wait stays, the canonical form is
kept, and clusters stay in their shelves. -/
structure Keeps (s t : State) : Prop where
  pending : t.pending = s.pending
  canon   : Canon s → Canon t
  map     : MapOk s → MapOk t

/-- Where an access of this device at address `a` lands: a logical window stands for the physical cluster behind it (R37). -/
def landing (s : State) (a : Nat) : Target :=
  match targetOf a with
  | .logical m o => .cluster (physOf s m) o
  | t => t

/-- An access of `who` at address `a` reaches the register or memory there at once: the requester may issue it, the address
is aligned and assigned, the block is reachable (R229), the cluster is open to it (R38), and its shelf domain is on (R544). -/
def Reaches (s : State) (who : Requester) (a : Nat) : Prop :=
  canIssue s who = true ∧ s.chip.devState ≠ .off ∧ a % 4 = 0 ∧
    (s.chip.shellUp = true ∨ beforeShell (targetOf a) = true) ∧
    (∀ h, shelfOf (landing s a) = some h → shelfOn s h = true) ∧
    (match targetOf a with
     | .reg _ | .shelf _ _ => True
     | .cluster p _ => physOpen s p = true
     | .logical m _ => fromRemote who = false ∧ mapGet false s.chip.bistOpen (physOf s m) = false
     | _ => False)

end Sys2Proof.Machine
end

