-- ==== Sys2Proof/Claims.lean ====
section
/-! DEFINITION. The vocabulary of the claims: when a command runs without an event, and what it leaves. -/

namespace Sys2Proof.Machine

/-- The export slot that BP `n` of logical cluster `m` drives with instruction `w` (R142), where it drives one. -/
def bpSlot (s : State) (m n : Nat) (w : BitVec 72) : Nat :=
  rdFld s (fabA (physOf s m) (n * 16 + 4 * (bpExp w / 4))) (8 * (bpExp w % 4)) 7

/-- BP `n` of logical cluster `m` has instruction `w` at step `t` of the current tick and executes it without an event: its
entry is intact and legal, no operand meets a parity error, a reserved code or an illegal port, and the export slot that it
drives, if any, exists (R45 to R54, R71, R72, R142). -/
def BpRuns (s : State) (m n t : Nat) (w : BitVec 72) : Prop :=
  let p := physOf s m
  let e := bpEntryAddr s p n t
  inSchedule s m t = true ∧ n < 128 ∧ mapGet 0#72 s.cl.bpMem (kEntry p n e) = w ∧ mapGet [] s.cl.bpFlips (kEntry p n e) = [] ∧
    bpIllegal w = false ∧
    (bpExp w = 0 ∨ cfgGood s (fabA p (n * 16 + 4 * (bpExp w / 4))) = true ∧ bpSlot s m n w < 80) ∧
    [bpA w, bpB w, bpC w, bpD w].any codeReserved = false ∧
    ∀ c ∈ bpReads w, (bpOperand s m n t c).parBad = false ∧ (bpOperand s m n t c).dptBad = none

/-- BP `n` of logical cluster `m` delivers `r` at step `t`, and nothing else happens (R53 to R55, R63, R142): `r` is on the step
bus; a working destination holds it with its parity; a flop destination shows it as its next value while its current value
stays; without a destination the pond stays. Where the instruction drives an export slot, `r` is on it. -/
def BpDelivers (s u : State) (m n t : Nat) (w : BitVec 72) (r : Ctx) : Prop :=
  let p := physOf s m
  mapGet 0 u.cl.bpBus (kBus m n t) = r ∧ (∀ k, k ≠ kBus m n t → mapGet 0 u.cl.bpBus k = mapGet 0 s.cl.bpBus k) ∧
  (match bpDest w with
    | .working a => pondRaw u p n a = pondWord r ∧ u.cl.written = s.cl.written ∧
        (∀ k, k ≠ kPond p n a → mapGet 0 u.cl.pond k = mapGet 0 s.cl.pond k)
    | .flop f => flopNext u p n f = r ∧ flopCur u p n f = flopCur s p n f ∧ flopWritten u p n f = true ∧
        (∀ k, k ≠ kFlop p n f → mapGet false u.cl.written k = mapGet false s.cl.written k) ∧
        (∀ k, k ≠ kPond p n (256 + f) → k ≠ kPond p n (384 + f) → mapGet 0 u.cl.pond k = mapGet 0 s.cl.pond k)
    | _ => u.cl.pond = s.cl.pond ∧ u.cl.written = s.cl.written) ∧
  (bpExp w = 0 → u.cl.exports = s.cl.exports ∧ u = { s with cl := u.cl }) ∧
  (bpExp w ≠ 0 → (n, r) ∈ mapGet [] u.cl.exports (kExp m (bpSlot s m n w) t)) ∧
  (bpKind w ≠ .swaphint → u.cl.hintOff = s.cl.hintOff) ∧ (bpKind w ≠ .probe → u.cl.probe = s.cl.probe) ∧
  u.cl.bpMem = s.cl.bpMem ∧ u.cl.wreg = s.cl.wreg ∧ u.cl.rows = s.cl.rows ∧ u.cl.macAcc = s.cl.macAcc ∧ u.cel = s.cel ∧
  u.stw = s.stw

/-- The value of an operand of a BP (R47 to R49). -/
def bpVal (s : State) (m n t code : Nat) : Ctx := (bpOperand s m n t code).value

/-- Engine `e` of logical cluster `m` has instruction `w` of opcode `o` at step `t` of the current tick and executes it without
an event: its entry is intact, the encoding is not one that R99 refuses, and no source code is reserved (R92, R93, R99). -/
def WeRuns (s : State) (m e t : Nat) (o : WeOp) (w : BitVec 64) : Prop :=
  let p := physOf s m
  let i := weEntryAddr s p e t
  inSchedule s m t = true ∧ e < 8 ∧ mapGet 0#64 s.cl.weMem (kWeEntry p e i) = w ∧ mapGet [] s.cl.weFlips (kWeEntry p e i) = [] ∧
    weOpOf (weCode w) = some o ∧ weRefused o w (roomWidth s p ((weImm w).toNat % 4)) = false ∧
    ((weUses o).1 = true → srcReserved (weSa w) = false) ∧ ((weUses o).2 = true → srcReserved (weSb w) = false)

/-- Operands A and B of an instruction in context `c` (R93). -/
def weA (s : State) (m e t : Nat) (w : BitVec 64) (c : Nat) : Word := weSource s m e t (weSa w) c (weImm w)
def weB (s : State) (m e t : Nat) (w : BitVec 64) (c : Nat) : Word := weSource s m e t (weSb w) c (weImm w)

/-- An engine delivers `res` per context at step `t`, and register RD takes it where WR = 1 (R96); every other register of
every engine is as it was. -/
def WeDelivers (s u : State) (m e t : Nat) (w : BitVec 64) (res : Nat → Word) : Prop :=
  (∀ c, c < 8 → mapGet 0 u.cl.weRes (kWeRes m e t c) = res c ∧
    (weWr w = true → mapGet 0 u.cl.wreg (kWreg (physOf s m) e c (weRd w)) = res c)) ∧
  (∀ k, (weWr w = true → ∀ c, c < 8 → k ≠ kWreg (physOf s m) e c (weRd w)) → mapGet 0 u.cl.wreg k = mapGet 0 s.cl.wreg k)

/-- Carry in and EQ_in per context: 0, 1, the CY flag, or what the predecessor of an unbroken chain drives (R94, R100,
R101). -/
def CarryIs (s : State) (m e t : Nat) (o : WeOp) (w : BitVec 64) (ci ei : Ctx) : Prop :=
  (weCin w = 0 ∧ ci = 0 ∧ ei = 0xFF) ∨ (weCin w = 1 ∧ ci = 0xFF ∧ ei = 0xFF) ∨
  (weCin w = 3 ∧ ci = mapGet 0 s.cl.flagCY (kWe (physOf s m) e) ∧ ei = 0xFF) ∨
  (weCin w = 2 ∧ ∃ ch, chainIn s m e t = some ch ∧ ch.kind = chainKind o ∧ ci = ch.carry ∧ ei = ch.eq)

/-- Steward `p` stands at an instruction of a row, may execute it now, its condition holds and its level permits it (R457,
R458, R473, R483). -/
def StwRuns (s : State) (p : Nat) (row : StwRow) (i : StwIns) : Prop :=
  stwReady s p = true ∧ ∃ w, stwFetch s p = .word w ∧ stwDecode w = some i ∧ i.row = row ∧
    condHolds (coreOf s p) w = true ∧ stwPriv (coreOf s p) i = false

/-- A command changes only steward `p` and what traces it: no cache, no cellar, no other unit. -/
def StwAlone (s t : State) (p : Nat) : Prop :=
  (∀ q, q ≠ p → coreOf t q = coreOf s q) ∧ t.stw.dcache = s.stw.dcache ∧ t.stw.icache = s.stw.icache ∧
    t.stw.sched = s.stw.sched ∧ t.cel = s.cel ∧ t.cl = s.cl ∧ t.spr = s.spr ∧ t.lnk = s.lnk

/-- A command turns steward `p` into what `f` gives of it, and nothing else beside the trace. -/
def StwNext (s : State) (c : Instr) (p : Nat) (f : Steward → Steward) : Prop :=
  ∃ t, exec c s = .next t ∧ coreOf t p = f (coreOf s p) ∧ StwAlone s t p

/-- The instruction after the one at PC is next. -/
def pcNext (c : Steward) : Steward := { c with pc := c.pc + 4 }

/-- Steward `c` has taken an exception and is `d` (R483): PSR, PC and ESR are saved in the registers of K, or of G where it was in
G; interrupts are off, EXL is set, and it goes on at the vector. -/
def Takes (c d : Steward) (code info line : Nat) (eva : Option Nat) : Prop :=
  d.ie = false ∧ d.exl = true ∧ d.cause = code ∧ d.run = .executing ∧ d.gpr = c.gpr ∧ d.preds = c.preds ∧
  d.eva = (match eva with
    | some a => BitVec.ofNat 32 a
    | none => c.eva) ∧
  (if c.priv = 2 then d.priv = 2 ∧ d.gepsr = psrOf c ∧ d.gepc = c.pc ∧
      d.gesr = BitVec.ofNat 32 (code + 2 ^ 8 * line + 2 ^ 16 * info) ∧ d.pc = (if code = 16 then c.gvec + 0x80 else c.gvec)
    else d.priv = 1 ∧ d.epsr = psrOf c ∧ d.epc = c.pc ∧
      d.esr = BitVec.ofNat 32 (code + 2 ^ 8 * line + 2 ^ 16 * info) ∧ d.pc = (if code = 16 then c.evec + 0x80 else c.evec))

/-- A command makes steward `p`, whose EXL is 0, take an exception. -/
def Traps (s : State) (c : Instr) (p code info line : Nat) (eva : Option Nat) : Prop :=
  (coreOf s p).exl = false →
    ∃ t, exec c s = .next t ∧ Takes (coreOf s p) (coreOf t p) code info line eva ∧ StwAlone s t p

/-- The commands that execute an instruction of a steward, each with its row. -/
def stwInstrs : List ((Nat → Instr) × StwRow) :=
  [(.aluAdd, .alu 0x00), (.aluSub, .alu 0x01), (.aluAnd, .alu 0x02), (.aluOr, .alu 0x03), (.aluXor, .alu 0x04),
   (.aluAndn, .alu 0x05), (.sll, .alu 0x06), (.srl, .alu 0x07), (.sra, .alu 0x08), (.mul, .alu 0x09), (.mulhu, .alu 0x0A),
   (.mulhs, .alu 0x0B), (.divu, .alu 0x0C), (.divs, .alu 0x0D), (.remu, .alu 0x0E), (.rems, .alu 0x0F), (.min, .alu 0x10),
   (.max, .alu 0x11), (.minu, .alu 0x12), (.maxu, .alu 0x13), (.popc, .alu 0x14), (.clz, .alu 0x15), (.addi, .addi),
   (.andi, .andi), (.ori, .ori), (.xori, .xori), (.slli, .slli), (.srli, .srli), (.srai, .srai), (.lui, .lui), (.llo, .llo),
   (.cmp, .cmp), (.cmpi, .cmpi), (.plog, .plog), (.lw, .lw), (.lh, .lh), (.lhu, .lhu), (.lb, .lb), (.lbu, .lbu), (.sw, .sw),
   (.sh, .sh), (.sb, .sb), (.amoSwap, .amo 0), (.amoAdd, .amo 1), (.amoAnd, .amo 2), (.amoOr, .amo 3), (.fence, .fence 0),
   (.instructionSync, .fence 1), (.cmoClean, .cmo 0), (.cmoInvalidate, .cmo 1), (.cmoCleanInvalidate, .cmo 2),
   (.cmoInvalidateIline, .cmo 3), (.b, .b), (.bl, .bl), (.jr, .jr), (.sys, .sys), (.rfe, .rfe), (.mfsr, .mfsr), (.mtsr, .mtsr),
   (.gcall, .gcall), (.gret, .gret), (.brk, .brk), (.wft, .wft), (.post, .post), (.fclaim, .fclaim), (.frel, .frel), (.amb, .amb)]

/-- A command of steward `p`'s own scheduler is accepted and leaves a scheduler of which `P` holds (R512); a new dispatch request
raises line 0 (R502). No other scheduler, cache or register of a steward changes. -/
def SchedDoes (s : State) (c : Instr) (p : Nat) (P : Sched → Prop) : Prop :=
  ∃ t, exec c s = .next t ∧ P (schedOf t p) ∧
    t.chip.resps = (Resp.mk (.steward p) .ok 0) :: (Resp.mk (.steward p) .ok 0) :: s.chip.resps ∧
    (dispatchDue (schedOf s p) (schedOf t p) = true → (irqPendOf t p).getLsbD 0 = true) ∧
    (∀ q, q ≠ p → schedOf t q = schedOf s q ∧ coreOf t q = coreOf s q) ∧ (coreOf t p).gpr = (coreOf s p).gpr ∧
    (coreOf t p).pc = (coreOf s p).pc ∧ t.stw.dcache = s.stw.dcache ∧ t.cel = s.cel ∧ t.spr = s.spr ∧ t.lnk = s.lnk

/-- A command of steward `p`'s own scheduler is refused with an error response and changes nothing of any scheduler (R512). -/
def SchedRefuses (s : State) (c : Instr) (p : Nat) : Prop :=
  ∃ t, exec c s = .next t ∧ t.stw = s.stw ∧ t.cel = s.cel ∧ t.spr = s.spr ∧ t.lnk = s.lnk ∧
    t.chip.resps = (Resp.mk (.steward p) .error 0) :: (Resp.mk (.steward p) .ok 0) :: s.chip.resps


/-- A command whose access of requester `who` is accepted: what it leaves is the answer of `who`, with response status OK and
the data `v`, to a state of which `P` holds. -/
def Accepted (s : State) (c : Instr) (who : Requester) (write : Bool) (v : Word) (P : State → Prop) : Prop :=
  ∃ u, exec c s = .next (answer who write .ok v u) ∧ P u

/-- A command whose write of requester `who` is accepted. -/
def WriteOk (s : State) (c : Instr) (who : Requester) (P : State → Prop) : Prop := Accepted s c who true 0 P

/-- A command whose access is answered with an error response and nothing else. -/
def Refuses (s : State) (c : Instr) (who : Requester) (write : Bool) : Prop :=
  exec c s = .next (answer who write .error 0 s)

/-- From `s` to `u` nothing but the registers of `as`, and the parity of the entries they hold, differs. -/
def OnlyRegs (s u : State) (as : List Nat) : Prop :=
  (∀ b, b ∉ as → rdReg u b = rdReg s b ∧ mapGet false u.cl.cfgBad b = mapGet false s.cl.cfgBad b) ∧
    u = { s with regs := u.regs, cl := { s.cl with cfgBad := u.cl.cfgBad } }

/-- Bit `i` of a register of row `r` after a write of `v`, `old` its value before, `lock` the attic lock (R6). -/
def bitWritten (r : RegRow) (lock : Bool) (old v : Word) (i : Nat) : Bool :=
  let has := fun (m : Nat) => m.testBit i
  ((if has r.rw || (lock && has r.rwl) then bit v i else bit old i) && !(has r.w1c && bit v i)) || (has r.w1s && bit v i)

/-- A register whose write stores its bits and does nothing else: of the spring, but for SPR_CTRL and SPR_CEN; of the DMA
engine below its channels; of the power block; of the host block below 0x100, but for FWIRQ and the flash. -/
def StoresOnly (a : Nat) : Prop :=
  (sprA 0 < a ∧ a < imgA 0 ∧ a ≠ sprA 0x20) ∨ (dmaA 0 ≤ a ∧ a < dmaA 0x100) ∨ (pwrA 0 ≤ a ∧ a < pwrA 0x10000) ∨
    (hstA 0 ≤ a ∧ a < hstA 0x100 ∧ a ≠ hstA 0x10 ∧ a ≠ hstA 0x30)

/-- The state after a good spring flit of header `h` with the expected sequence number (R187). -/
def afterFlit (s : State) (h : SpringHdr) : State :=
  { s with spr := { s.spr with rxSeq := mapSet 0 s.spr.rxSeq h.link ((h.seq + 1) % 2048) } }

/-- A spring message with header `h` arrives on one of `links`, which runs TIME flits, good and in sequence (R187, R346). -/
def FlitGood (s : State) (links : List Nat) (h : SpringHdr) : Prop :=
  h.link ∈ links ∧ timeOpen s h.link = true ∧ h.good = true ∧ h.seq = mapGet 0 s.spr.rxSeq h.link

/-- A message of the present child that `h` names arrives, and leaves `x` before it is acted on (R185). -/
def ChildSays (s : State) (h : SpringHdr) (x : State) : Prop := FlitGood s (presentLinks s) h ∧ x = afterFlit s h

/-- A message comes down and leaves `x` before it is acted on: from the head, good, in sequence and passed on to the children; or,
without a header, at the root that has broadcast it (R185, R186). -/
def HeadSays (s : State) (h : Option SpringHdr) (msg : SpringMsg) (x : State) : Prop :=
  (∃ q, h = some q ∧ FlitGood s s.crt.uplink.toList q ∧ x = sendDown msg (afterFlit s q)) ∨
    (h = none ∧ s.crt.isRoot = true ∧ msg ∈ s.spr.orders ∧
      x = { s with spr := { s.spr with orders := s.spr.orders.erase msg } })

/-- The local check of epoch `k` fails with a cause (R188, R197): noted, and FAIL is sent once: the root orders a rollback, any
other device sends FAIL to its head. -/
def FailsEpoch (s t : State) (k cause : Nat) : Prop :=
  (k, cause) ∈ t.spr.fails ∧ (k, false) ∈ t.spr.sent ∧
    ((k, false) ∉ s.spr.sent → s.crt.isRoot = true → rollbackPending t = true) ∧
    ((k, false) ∉ s.spr.sent → s.crt.isRoot = false → ∀ l, s.crt.uplink = some l →
      ∃ h, t.outbox = .spring h (.vote k false false cause (devAddr s)) :: s.outbox ∧ h.link = l ∧ h.gen = s.spr.gen)

/-- The device has entered Boot from `s` (R226, R602, R606): stage 1, no shell, no model state, no link, the lifecycle that was
pending and a new blob counter. -/
def EntersBoot (s t : State) : Prop :=
  t.chip.devState = .boot ∧ t.ldr.boot = 1 ∧ t.chip.shellUp = false ∧ t.cl = Clusters.reset ∧ t.spr.tick = 0 ∧ t.lnk = [] ∧
    t.att.lifecycle = s.att.lcNext ∧ t.att.blobSeed = min (s.att.blobSeed + 1) (2 ^ 32 - 1) ∧ t.chip.clusterMap = s.chip.clusterMap ∧
    (∀ a r, regRow a = some r → r.dom = .image → rdReg t a = regReset a)

/-- The load ends as failed with a code (R257): captured, FAILED, LOAD_ERR_N; a device in Loading is Blank; its present
children get LD_ABORT. -/
def LoadFails (s t : State) (code : Nat) : Prop :=
  rdFld t (imgA 8) 0 8 = code ∧ imgState t = 11 ∧ t.chip.loadErr = true ∧ t.ldr.kind = 0 ∧ feedIsOpen t = false ∧
    t.chip.devState = (if s.chip.devState = .loading then .blank else s.chip.devState) ∧ t.cl = s.cl ∧
    ∀ l ∈ presentLinks s, ∃ src body, .service l 0x16 src 0xFFF body ∈ t.outbox

/-- The device votes FAIL with an error (R255): LD_VOTE to its head, and nothing of its own run changes. -/
def VotesFail (s t : State) (e : LdErr) : Prop :=
  t.ldr.voted = true ∧ t.cl = s.cl ∧ t.chip = s.chip ∧
    ∀ l, s.crt.uplink = some l → ∃ src, .service l 0x13 src 0 (errBody (some e) false) ∈ t.outbox

/-- A request to the loader travels to the root on link `l`, as a write of its IMG_CTRL (R249). -/
def ForwardsToRoot (s u : State) (l : Nat) (v : Word) : Prop :=
  (∃ body, u.outbox = .service l 1 (devAddr s) 0 body :: s.outbox ∧ body.take 5 = leBytes 5 (imgA 0) ∧
    body.drop 8 = leBytes 4 v.toNat) ∧ u.ldr = s.ldr ∧ u.regs = s.regs ∧ u.cl = s.cl ∧ u.chip.devState = s.chip.devState

/-- A training attempt of link `l` fails with a cause, the first two times to train again from DETECT, the third to stay in
FAILED (R351); FAIL names the cause. -/
def TrainFails (s t : State) (l cause : Nat) : Prop :=
  rdFld t (linkA l 0xC) 4 4 = cause ∧ rdFld t (linkA l 0xC) 8 2 = rdFld s (linkA l 0xC) 8 2 + 1 ∧
    linkState t l = (if rdFld s (linkA l 0xC) 8 2 = 2 then 9 else 1) ∧
    (rdFld s (linkA l 0xC) 8 2 < 2 → (linkOf t l).agreed = false ∧ (linkOf t l).measured = false ∧ (linkOf t l).marks = [])

/-- From `s` to `t` only link `l` and registers of its window differ. -/
def OnlyLink (s t : State) (l : Nat) : Prop :=
  t = { s with lnk := t.lnk, regs := t.regs } ∧ (∀ j, j ≠ l → linkOf t j = linkOf s j) ∧
    ∀ a, (a < linkA l 0 ∨ linkA l 0x1000 ≤ a) → rdReg t a = rdReg s a

/-- A MGMT command leaves on link `l`. -/
def SendsMgmt (s t : State) (l cmd lane cid : Nat) : Prop := t.outbox = .mgmt l cmd lane cid :: s.outbox

/-- The data cache of steward `p` holds line `l` as `x`, alone, clean of errors, with nobody owning it. -/
def HoldsLine (s : State) (p l : Nat) (x : CacheLine) : Prop :=
  cacheLine s l = some x ∧ x.owner = none ∧ x.flips = 0 ∧ x.hold = [p] ∧ x.shelves = [p / 17] ∧ x.data.length = 64


/-- DMA channel `n` has ended from `s` to `u` (R557 to R559): its state and error code, no bytes left, its bit of DMA_IRQ, line 10 of
the steward and the host event that NOTIFY asks for; no other channel, and nothing of the cellar, the clusters or the spring. -/
def DmaEnds (s u : State) (n : Nat) (st : DmaSt) (err : Nat) : Prop :=
  (chanOf u n).st = st ∧ (chanOf u n).lake = [] ∧ n ∉ u.noc.queue ∧ rdFld u (dmaReg n 0x1C) 4 4 = err ∧ rdBit u (dmaA 4) n = true ∧
    (rdBit s (dmaReg n 0x20) 8 = true → (coreOf u (physOf s (rdFld s (dmaReg n 0x20) 0 8))).irqPend.getLsbD 10 = true) ∧
    (rdBit s (dmaReg n 0x20) 9 = true → rdBit s (dmaA 4) n = false → s.hst.msixEn = true →
      mapGet false s.hst.unmasked (32 + n) = true → rdBit s (hstA 0) 11 = false → .msix (32 + n) ∈ u.outbox) ∧
    (∀ m, m ≠ n → chanOf u m = chanOf s m) ∧ u.cl = s.cl ∧ u.spr = s.spr

/-- The gate of shelf `h` has become `g` from `s` to `t`; only registers of `as` differ beside. -/
def GateIs (s t : State) (h : Nat) (g : Gate) (as : List Nat) : Prop :=
  gateOf t h = g ∧ (∀ k, k ≠ h → gateOf t k = gateOf s k) ∧ (∀ b, b ∉ as → rdReg t b = rdReg s b) ∧
    t = { s with regs := t.regs, noc := { s.noc with gates := t.noc.gates } }


/-- The answer of a mailbox request (R612, R613): a host's request whose response buffer may be written finds there the header
with its ticket, its command, STATUS and the number of bytes, and the answer behind it; any other buffer sets RESP_ERR. Completion
is signalled by the ATT event, or on line 2 of the steward. -/
def MbReplied (s t : State) (r : MbReq) (status : Nat) (data : List Byte) : Prop :=
  let off := leAt r.bytes 0x18 8
  let room := leAt r.bytes 0x20 4 - 64
  (r.who = .host → rdBit t (hstA 4) 0 = true ∧ rdBit t (attA 0x18) 17 = !respBufferOk .host r.bytes s) ∧
    (∀ p, r.who = .steward p → (coreOf t p).irqPend.getLsbD 2 = true) ∧
    (r.who = .host → respBufferOk .host r.bytes s = true →
      celGet t off 64 = leBytes 2 r.ticket ++ leBytes 2 (mbCmd r.bytes) ++ leBytes 4 (if room < data.length then 8 else status) ++
        leBytes 4 (min data.length room) ++ List.replicate 52 0#8 ∧
      ((∀ l, off / 64 ≤ l → l ≤ (off + 64 + data.length) / 64 → linePoison s l = false ∧ mapGet false s.cel.upset l = false) →
        celGet t (off + 64) (min data.length room) = data.take room))

/-- The commands that serve a request of the mailbox, each with its CMD (R614). -/
def mbInstrs : List (Instr × Nat) :=
  [(.status, 0x01), (.logRead, 0x02), (.logClear, 0x03), (.challenge, 0x10), (.debugAuth, 0x11), (.debugRevoke, 0x12),
   (.provision, 0x20), (.deploy, 0x21), (.return, 0x22), (.setMinver, 0x23), (.keyLoad, 0x30), (.keyClear, 0x31),
   (.retire, 0x40), (.bist, 0x41), (.restart, 0x42), (.lockOpen, 0x43), (.lockClose, 0x44)]

/-- Command `c` serves the request `r`: it leaves the queue, is answered with a status and data, and the nonce advances where it is
signed; what it leaves satisfies `P`. -/
def MbServes (s : State) (c : Instr) (r : MbReq) (rest : List MbReq) (status : Nat) (data : List Byte) (P : State → Prop) : Prop :=
  ∃ t, exec c s = .next t ∧ t.att.queue = rest ∧ MbReplied s t r status data ∧
    t.att.nonce = (if mbKind r.bytes = 0 then s.att.nonce else s.att.nonce + 1) ∧ P t

/-- The device has entered Safe from `s` (R632, R636): FAULT_N, the cause, the ATT event, the lock closed, no tick. -/
def EntersSafe (s t : State) (cause : Nat) : Prop :=
  t.chip.devState = .safe ∧ faultN t = true ∧ rdFld t (attA 0) 8 4 = cause ∧ rdBit t (attA 0) 6 = true ∧
    rdBit t (hstA 4) 0 = true ∧ t.att.lockUntil = none ∧
    t.spr.pos = .idle ∧ t.cl = s.cl ∧ t.cel = s.cel ∧
    (s.chip.devState = .running → s.spr.phase ≠ .rollback → (curEpoch s, 8) ∈ t.spr.fails)

end Sys2Proof.Machine
end

