-- ==== Sys2Proof/Certificates/Slice0/Obligations.lean ====
section
/-! DEFINITION. The statements for the provers, chapter by chapter. Where a statement says WriteOk, Accepted or an equation with a
next state, it says where its commands complete. -/

open Sys2Proof Sys2Proof.Machine

/-! ### The block as a whole -/

/-- The command at the front of the queue is executed on the state with the rest of the queue, and nothing is added. -/
def Obligations.StepRunsFront : Prop :=
  ∀ (c : Instr) (rest : List Instr) (s : State), s.pending = c :: rest → step s = exec c { s with pending := rest }

/-- While no command waits, a step is one step of the step clock: TB0 advances by 0.8 ns times 1 + RATE once the clock is
locked, and nothing else changes (the model's choice of log entry 1; the law of TB0 is R431). -/
def Obligations.IdleStepAdvancesTB0 : Prop :=
  ∀ s : State, s.pending = [] →
    ∃ t, step s = .next t ∧ t = { s with tim := { s.tim with tb0 := t.tim.tb0 } } ∧
      (tb0Runs s = false → t = s) ∧
      (tb0Runs s = true → t.tim.tb0 = (s.tim.tb0 + tb0Step s) % (2 ^ 48 * secUnits * 2 ^ 32)) ∧
      (tb0Runs s = true → sreg s (timA 0x5C) = 0 → s.tim.tb0 < 2 ^ 48 → t.tim.tb0 = s.tim.tb0 + 8 * 2 ^ 48 / 10)

/-- Every command completes in a next state, leaves the queue of waiting commands as it found it, and keeps the canonical form
of registers and memory and the place of every logical cluster in its shelf (R17, R18). -/
def Obligations.EveryCommandCompletesAndKeeps : Prop :=
  ∀ (c : Instr) (s : State), ∃ t, exec c s = .next t ∧ Keeps s t

/-- The invariant of every step: canonical registers and memory, and every logical cluster in its own shelf. -/
def Obligations.StepKeepsInvariant : Prop :=
  ∀ s s' : State, Canon s → MapOk s → step s = .next s' → Canon s' ∧ MapOk s' ∧ s'.pending = s.pending.tail

/-- The state right after reset has the invariant, holds no command, and maps every logical cluster 16s + i to physical cluster
17s + i (R17); no register differs from its reset value. -/
def Obligations.ResetState : Prop :=
  Canon State.reset ∧ MapOk State.reset ∧ State.reset.pending = [] ∧
    (∀ m, m < 256 → physOf State.reset m = 17 * (m / 16) + m % 16) ∧
    (∀ p, p < 272 → roleOf State.reset p = if p % 17 = 16 then .spare else .active) ∧
    (∀ a, rdReg State.reset a = regReset a) ∧ State.reset.chip.devState = .off

/-- Control and status registers are aligned on 4-byte boundaries, and the device completes an access of another width or
alignment with an error response and performs no part of it (R4). -/
def Obligations.MisalignedAccessIsRefused : Prop :=
  (∀ a r, regRow a = some r → a % 4 = 0) ∧
  (∀ (s : State) (who : Requester) (a len : Nat) (v : Word), canIssue s who = true → s.chip.devState ≠ .off → a < 2 ^ 40 →
    (len ≠ 4 ∨ a % 4 ≠ 0) →
    Refuses s (.regWrite who a len v) who true ∧ Refuses s (.wideReadCapture who a len) who false)

/-- A write to HST_HDB_m, through BAR4 or a control access, stores the value and raises interrupt line 11 of the steward of logical
cluster m (R702). -/
def Obligations.HostDoorbellRaisesLine11 : Prop :=
  ∀ (s : State) (m : Nat) (v : Word), m < 256 →
    let rings := fun (u : State) => rdReg u (hstA (0x800 + 4 * m)) = v ∧ (coreOf u (physOf s m)).irqPend.getLsbD 11 = true ∧
      (∀ b, b ≠ hstA (0x800 + 4 * m) → (∀ h, b ≠ gateReg h ∧ b ≠ shfA h 0x604) → rdReg u b = rdReg s b) ∧
      (∀ p, p ≠ physOf s m → coreOf u p = coreOf s p) ∧ u.stw.sched = s.stw.sched ∧
      u = { s with regs := u.regs, stw := u.stw, noc := { s.noc with gates := u.noc.gates } }
    (∀ who, Reaches s who (hstA (0x800 + 4 * m)) → WriteOk s (.hostDoorbell who m v) who rings) ∧
    (hostReach s = true → ∃ u, exec (.regWrite .host (2 ^ 40 + 0x4000 + 4 * m) 4 v) s = .next u ∧ rings u)

/-! ### Control accesses (chapters 00, 01, 09) -/

/-- REG_WRITE of a register that only stores: each RW bit takes the bit written, each W1C bit written 1 clears, each W1S bit
written 1 is set, an RWL bit is stored only while the attic lock is open, and every other bit, every other register and every
other piece of state stays (R6). -/
def Obligations.RegisterWriteStoresByType : Prop :=
  ∀ (s : State) (who : Requester) (a : Nat) (v : Word) (r : RegRow),
    Reaches s who a → StoresOnly a → regRow a = some r → r.rule = .plain →
      WriteOk s (.regWrite who a 4 v) who (fun u => OnlyRegs s u [a] ∧
        ∀ i, i < 32 → bit (rdReg u a) i = bitWritten r (lockOpen s) (rdReg s a) v i)

/-- An access that is not of 32 bits or not aligned, an access of an address that no block or window takes, and a write of the
ATT block complete with an error response and change nothing; a read returns 0 with the error (R4, R33, R34). -/
def Obligations.IllegalAccessIsRefused : Prop :=
  ∀ (s : State) (who : Requester) (a len : Nat) (v : Word), canIssue s who = true → s.chip.devState ≠ .off → a < 2 ^ 40 →
    (∀ w o, targetOf a ≠ .remote w o) →
    (len ≠ 4 ∨ a % 4 ≠ 0 ∨ targetOf a = .unassigned →
      Refuses s (.regWrite who a len v) who true ∧ Refuses s (.wideReadCapture who a len) who false) ∧
    (a < 0x10000 → Refuses s (.regWrite who a len v) who true)

/-- Reads. WIDE_READ_CAPTURE of SPR_TICK_LO or of SPR_COMMIT_LO answers with the low word and captures the high word, and the
read of the high word answers with the captured word, whatever the count has become (R5). TIM_NOW_CAPTURE captures all four
bases in the same step and answers with word 0 of TB0; the reads of the other words answer with the capture (R450). -/
def Obligations.WideReadsAreCaptured : Prop :=
  (∀ (s : State) (who : Requester), Reaches s who (sprA 0x30) →
    Accepted s (.wideReadCapture who (sprA 0x30) 4) who false (BitVec.ofNat 32 (s.spr.tick.toNat % 2 ^ 32)) (fun u =>
      mapGet 0 u.chip.capture (sprA 0x34) = BitVec.ofNat 32 (s.spr.tick.toNat / 2 ^ 32) ∧
      (∀ k, k ≠ sprA 0x34 → mapGet 0 u.chip.capture k = mapGet 0 s.chip.capture k) ∧
      u = { s with chip := { s.chip with capture := u.chip.capture } })) ∧
  (∀ (s : State) (who : Requester) (a : Nat), Reaches s who a →
    (a = sprA 0x34 ∨ a = sprA 0x3C ∨ (isTimNow a = true ∧ a ≠ timA 0x10)) →
    Accepted s (.wideReadCapture who a 4) who false (mapGet 0 s.chip.capture a) (fun u => u = s)) ∧
  (∀ (s : State) (who : Requester), Reaches s who (timA 0x10) →
    Accepted s (.timNowCapture who) who false (BitVec.ofNat 32 (timeWord (tb0Now s))) (fun u =>
      (∀ k i, k < 4 → i < 3 → mapGet 0 u.chip.capture (timA (0x10 + 16 * k + 4 * i)) =
        BitVec.ofNat 32 (timeWord ((tbAt s k (tb0Now s)).getD 0) >>> (32 * i))) ∧
      u = { s with chip := { s.chip with capture := u.chip.capture } }))

/-- MODEL_STATE_ACCESS of a pond entry below 256, of a word-engine register and of the words of a BP instruction entry (R30,
R35, R36): a read in Loading, Ready, Running or Held returns the current value, in Boot after a shell, Blank and Safe 0; a write
takes effect in Ready and Held, and is refused with an error response in every other state. -/
def Obligations.ModelStateAccess : Prop :=
  (∀ (s : State) (who : Requester) (p n a : Nat) (v : Word), p < 272 → n < 128 → a < 256 →
    Reaches s who (physA p (0x200000 + n * 0x800 + 4 * a)) →
    ((s.chip.devState = .ready ∨ s.chip.devState = .held) →
      WriteOk s (.modelStateAccess who (physA p (0x200000 + n * 0x800 + 4 * a)) true v) who (fun u =>
        pondRaw u p n a = pondWord (v.setWidth 8) ∧ (∀ k, k ≠ kPond p n a → mapGet 0 u.cl.pond k = mapGet 0 s.cl.pond k) ∧
        u = { s with cl := { s.cl with pond := u.cl.pond } })) ∧
    (s.chip.devState ≠ .ready → s.chip.devState ≠ .held →
      Refuses s (.modelStateAccess who (physA p (0x200000 + n * 0x800 + 4 * a)) true v) who true) ∧
    (pondBadPar (pondRaw s p n a) = false → detached s (p / 17) = false →
      (s.chip.devState = .loading ∨ s.chip.devState = .ready ∨ s.chip.devState = .running ∨ s.chip.devState = .held) →
      Accepted s (.modelStateAccess who (physA p (0x200000 + n * 0x800 + 4 * a)) false v) who false
        ((pondData (pondRaw s p n a)).setWidth 32) (fun u => u = s)) ∧
    (s.chip.devState = .boot ∨ s.chip.devState = .blank ∨ s.chip.devState = .safe →
      Accepted s (.modelStateAccess who (physA p (0x200000 + n * 0x800 + 4 * a)) false v) who false 0 (fun u => u = s))) ∧
  (∀ (s : State) (who : Requester) (p e c r : Nat) (v : Word), p < 272 → e < 8 → c < 8 → r < 16 →
    Reaches s who (physA p (0x260000 + e * 0x4000 + 0x2000 + 64 * c + 4 * r)) →
    (s.chip.devState = .ready ∨ s.chip.devState = .held) →
      WriteOk s (.modelStateAccess who (physA p (0x260000 + e * 0x4000 + 0x2000 + 64 * c + 4 * r)) true v) who (fun u =>
        mapGet 0 u.cl.wreg (kWreg p e c r) = v ∧ (∀ k, k ≠ kWreg p e c r → mapGet 0 u.cl.wreg k = mapGet 0 s.cl.wreg k) ∧
        u = { s with cl := { s.cl with wreg := u.cl.wreg } })) ∧
  (∀ (s : State) (who : Requester) (p n e : Nat) (v : Word), p < 272 → n < 128 → e < 1024 →
    Reaches s who (physA p (n * 0x4000 + 16 * e + 8)) → (s.chip.devState = .ready ∨ s.chip.devState = .held) →
      WriteOk s (.modelStateAccess who (physA p (n * 0x4000 + 16 * e + 8)) true v) who (fun u =>
        (mapGet [] s.cl.bpFlips (kEntry p n e) = [] → mapGet 0#72 u.cl.bpMem (kEntry p n e) =
          setFld (mapGet 0#72 s.cl.bpMem (kEntry p n e)) 64 8 v.toNat) ∧
        mapGet [] u.cl.bpFlips (kEntry p n e) = [] ∧
        (∀ k, k ≠ kEntry p n e → mapGet 0 u.cl.bpMem k = mapGet 0 s.cl.bpMem k) ∧
        u = { s with cl := { s.cl with bpMem := u.cl.bpMem, bpFlips := u.cl.bpFlips } }))

/-- GATE_REQUEST to a shelf domain (R544): ON, it is delivered (here a write of a global-import entry in Ready, R160); OFF and
without THERMHOLD, it is held, in arrival order, and the shelf wakes with its wake counted; under THERMHOLD it is answered with
an error response and the domain stays off. -/
def Obligations.GateDecides : Prop :=
  ∀ (s : State) (who : Requester) (h y : Nat) (v : Word), h < 16 → y < 256 → canIssue s who = true →
    s.chip.shellUp = true → s.chip.devState = .ready →
    (shelfOn s h = true →
      WriteOk s (.gateRequest who (shfA h (4 * y)) true v) who (fun u => OnlyRegs s u [shfA h (4 * y)])) ∧
    ((gateOf s h).phase = .off → thermHold s h = false →
      ∃ t, exec (.gateRequest who (shfA h (4 * y)) true v) s = .next t ∧ (gateOf t h).phase = .waking ∧
        (gateOf t h).held = (gateOf s h).held ++ [{ who := who, addr := shfA h (4 * y), write := true, data := v }] ∧
        rdFld t (gateReg h) 8 8 = min 255 (rdFld s (gateReg h) 8 8 + 1) ∧ rdFld t (shfA h 0x604) 3 3 = 1 ∧
        (∀ b, b ≠ gateReg h → b ≠ shfA h 0x604 → rdReg t b = rdReg s b) ∧ (∀ g, g ≠ h → gateOf t g = gateOf s g) ∧
        t = { s with regs := t.regs, noc := { s.noc with gates := t.noc.gates } }) ∧
    ((gateOf s h).phase ≠ .on → thermHold s h = true → Refuses s (.gateRequest who (shfA h (4 * y)) true v) who true)

/-- Remote accesses. Through window `w` with base B, device B + w is addressed: above 4,095 the access is refused; the device's own
address reaches the device itself; otherwise the access travels as RREQ on the link that leads there, with the next TAG, and
is kept until it completes (R40, R41, R410). REMOTE_ACCESS_TIMEOUT completes it with an error response (R41), RRSP with the
status and data that it carries (R412).
RREQ for this device is performed here like a local access and answered to the device that issued it; for another device it
is passed on along the link that leads there, from the device that issued it (R42, R410). RESPONSE_FLIT delivers the oldest answer at its node (R531). -/
def Obligations.RemoteAccessesAndRequests : Prop :=
  (
  (∀ (s : State) (who : Requester) (w o : Nat) (write : Bool) (v : Word), w < 192 → o < 2 ^ 32 → canIssue s who = true →
    s.chip.devState ≠ .off → fromRemote who = false →
    (4095 < remoteBase s who + w → Refuses s (.remoteAccess who w o write v) who write) ∧
    (assigned s = true → s.chip.shellUp = true → o % 4 = 0 → remoteBase s who + w = devAddr s → devAddr s < 4096 →
      exec (.remoteAccess who w o write v) s = .next (ctlLocal who o write v s)) ∧
    (∀ l, assigned s = true → s.chip.shellUp = true → o % 4 = 0 → remoteBase s who + w < 4096 →
      remoteBase s who + w ≠ devAddr s → routeTo s (remoteBase s who + w) = .link l →
      ∃ t r, exec (.remoteAccess who w o write v) s = .next t ∧ t.chip.remote = s.chip.remote ++ [r] ∧ r.who = who ∧
        r.tag = s.chip.nextTag ∧ r.dev = remoteBase s who + w ∧ r.addr = o ∧ r.write = write ∧ r.data = v ∧
        t.chip.nextTag = (s.chip.nextTag + 1) % 65536 ∧ t.chip.resps = s.chip.resps ∧ t.regs = s.regs ∧
        t.cl = s.cl ∧ t.cel = s.cel ∧
        (∃ body, t.outbox = .service l 1 (devAddr s) (remoteBase s who + w) body :: s.outbox ∧
          body.take 5 = leBytes 5 o ∧ (body.drop 5).take 3 = leBytes 1 (b2n write) ++ leBytes 2 s.chip.nextTag))) ∧
  (∀ (s : State) (r : RemoteAcc) (l : List RemoteAcc), s.chip.remote = r :: l →
    exec (.remoteAccessTimeout r.tag) s =
      .next (answer r.who r.write .error 0 { s with chip := { s.chip with remote := l } })) ∧
  (∀ (s : State) (r : RemoteAcc) (l : List RemoteAcc) (k : Nat) (bad : Bool) (v : Word), s.chip.remote = r :: l →
    serviceOpen s k = true → s.chip.devState ≠ .off → assigned s = true →
    exec (.rrsp k (devAddr s) r.tag bad v) s =
      .next (answer r.who r.write (if bad then .error else .ok) v { s with chip := { s.chip with remote := l } }))) ∧ (
  (∀ (s : State) (l src addr tag : Nat) (write : Bool) (v : Word), serviceOpen s l = true → s.chip.devState ≠ .off →
    assigned s = true → src < 4096 → tag < 65536 →
    exec (.rreq l src (devAddr s) addr write tag v) s = .next (ctl (.remote src tag) addr write v s)) ∧
  (∀ (s : State) (l k src dst addr tag : Nat) (write : Bool) (v : Word), serviceOpen s l = true → s.chip.devState ≠ .off →
    assigned s = true → routeTo s dst = .link k → src < 4096 →
    ∃ t body, exec (.rreq l src dst addr write tag v) s = .next t ∧
      t.outbox = .service k 1 src dst body :: s.outbox ∧ body.length = 12 ∧ t.regs = s.regs ∧ t.chip = s.chip ∧
      t.cl = s.cl ∧ t.cel = s.cel ∧ ∀ j, j ≠ k → linkOf t j = linkOf s j) ∧
  (∀ (s : State) (rs : List Resp) (r : Resp), s.chip.resps = rs ++ [r] → waitsForIt r.who = false → nodeOf s r.who < 556 →
    exec (.responseFlit (nodeOf s r.who)) s = .next { s with
      outbox := .response (nodeOf s r.who) (statCode r.status) r.data :: s.outbox
      chip := { s.chip with resps := rs } }))

/-! ### Boolean processors (chapter 02) -/

/-- PLAIN, STATE_WRITE and INJECT_POINT complete: bit c of the result is bit 8D + 4C + 2B + A of the LUT field, the operands taken
in context c (R51); at an INJECT_POINT that the armed inject matches, bit c is then forced to VAL_c or inverted with it where
EN_c is 1 (R75). NOP delivers 0x00 (R46). The result goes to the step bus, the pond and the export slot, and nothing else
changes (R53 to R55). -/
def Obligations.LutInstructionsDeliver : Prop :=
  (∀ (s : State) (m n t : Nat), inSchedule s m t = true → n < 128 →
    mapGet 0#72 s.cl.bpMem (kEntry (physOf s m) n (bpEntryAddr s (physOf s m) n t)) = 0#72 →
    mapGet [] s.cl.bpFlips (kEntry (physOf s m) n (bpEntryAddr s (physOf s m) n t)) = [] →
    ∃ u, exec (.nop m n t) s = .next u ∧ BpDelivers s u m n t 0#72 0#8) ∧
  ∀ (s : State) (m n t : Nat) (w : BitVec 72), BpRuns s m n t w →
    (∀ i, (bpKind w = .plain ∧ i = Instr.plain m n t) ∨ (bpKind w = .stateWrite ∧ i = Instr.stateWrite m n t) ∨
        (bpKind w = .inject ∧ injectHits s (physOf s m) n t = false ∧ i = Instr.injectPoint m n t) →
      ∃ u r, exec i s = .next u ∧ BpDelivers s u m n t w r ∧
        ∀ c, c < 8 → r.getLsbD c = (bpLut w).testBit
          (8 * b2n ((bpVal s m n t (bpD w)).getLsbD c) + 4 * b2n ((bpVal s m n t (bpC w)).getLsbD c) +
            2 * b2n ((bpVal s m n t (bpB w)).getLsbD c) + b2n ((bpVal s m n t (bpA w)).getLsbD c))) ∧
    (bpKind w = .inject → injectHits s (physOf s m) n t = true →
      ∃ u r, exec (.injectPoint m n t) s = .next u ∧ BpDelivers s u m n t w r ∧
        ∀ c, c < 8 →
          let l := (bpLut w).testBit
            (8 * b2n ((bpVal s m n t (bpD w)).getLsbD c) + 4 * b2n ((bpVal s m n t (bpC w)).getLsbD c) +
              2 * b2n ((bpVal s m n t (bpB w)).getLsbD c) + b2n ((bpVal s m n t (bpA w)).getLsbD c))
          let p := physOf s m
          r.getLsbD c = if rdBit s (bpcA p n 0) c = false then l
            else if rdBit s (bpcA p n 4) 8 = false then rdBit s (bpcA p n 4) c
            else xor l (rdBit s (bpcA p n 4) c))

/-- SEL, ROWCOPY, SWAPHINT and PROBE complete with the results of R58: SEL takes B where C is 1 and A elsewhere, each inverted
as INV says; ROWCOPY copies bit K of A to every context, or rotates A by K contexts, or reverses it; SWAPHINT and PROBE give
A. SWAPHINT adds the contexts in which A is 0 to those that take no new flop values in the tick (R60), and PROBE latches the
result into the slot that it names (R61). -/
def Obligations.SpecialInstructionsDeliver : Prop :=
  ∀ (s : State) (m n t : Nat) (w : BitVec 72), BpRuns s m n t w →
    let a := fun (c : Nat) => (bpVal s m n t (bpA w)).getLsbD c
    let b := fun (c : Nat) => (bpVal s m n t (bpB w)).getLsbD c
    let d := fun (c : Nat) => (bpVal s m n t (bpC w)).getLsbD c
    let inv := fun (i : Nat) => w.getLsbD (56 + i)
    let p := physOf s m
    (bpKind w = .sel → ∃ u r, exec (.sel m n t) s = .next u ∧ BpDelivers s u m n t w r ∧
      ∀ c, c < 8 → r.getLsbD c = if xor (d c) (inv 2) then xor (b c) (inv 1) else xor (a c) (inv 0)) ∧
    (bpKind w = .rowcopy → ∃ u r, exec (.rowcopy m n t) s = .next u ∧ BpDelivers s u m n t w r ∧
      ∀ c, c < 8 → r.getLsbD c =
        if fld w 66 2 = 0 then a (fld w 56 3)
        else if fld w 66 2 = 1 then a ((c + 8 - fld w 56 3) % 8)
        else a (7 - c)) ∧
    (bpKind w = .swaphint → ∃ u r, exec (.swaphint m n t) s = .next u ∧ BpDelivers s u m n t w r ∧
      (∀ c, c < 8 → r.getLsbD c = a c) ∧
      (∀ c, c < 8 → (mapGet 0#8 u.cl.hintOff (kBp p n)).getLsbD c =
        ((mapGet 0#8 s.cl.hintOff (kBp p n)).getLsbD c || !a c)) ∧
      ∀ k, k ≠ kBp p n → mapGet 0#8 u.cl.hintOff k = mapGet 0#8 s.cl.hintOff k) ∧
    (bpKind w = .probe → ∃ u r, exec (.probe m n t) s = .next u ∧ BpDelivers s u m n t w r ∧
      (∀ c, c < 8 → r.getLsbD c = a c) ∧ mapGet 0#8 u.cl.probe (p * 64 + fld w 56 6) = r ∧
      ∀ k, k ≠ p * 64 + fld w 56 6 → mapGet 0#8 u.cl.probe k = mapGet 0#8 s.cl.probe k)

/-- A BP entry with two inverted bits is uncorrectable: the BP executes a NOP in its place, delivering 0x00, sets ECC_UNC and
reports its physical cluster and the entry (R71, R73). An illegal combination executes as a NOP and sets ILLEGAL (R53, R59). -/
def Obligations.FaultyBpEntryRunsAsNop : Prop :=
  ∀ (s : State) (m n t i j : Nat) (w : BitVec 72), inSchedule s m t = true → n < 128 →
    let p := physOf s m
    let e := bpEntryAddr s p n t
    mapGet 0#72 s.cl.bpMem (kEntry p n e) = w → bpKind w = .plain →
    (mapGet [] s.cl.bpFlips (kEntry p n e) = [i, j] →
      ∃ u, exec (.plain m n t) s = .next u ∧ mapGet 0 u.cl.bpBus (kBus m n t) = 0#8 ∧ rdBit u (bpcA p n 0x18) 0 = true ∧
        (∃ r, u.att.reports = s.att.reports ++ [r] ∧ r.kind = 1 ∧ r.unit = p ∧ r.detail = n * 1024 + e) ∧
        u.cl.pond = s.cl.pond ∧ u.cl.exports = s.cl.exports ∧ u.cl.written = s.cl.written) ∧
    (mapGet [] s.cl.bpFlips (kEntry p n e) = [] → bpIllegal w = true →
      ∃ u, exec (.plain m n t) s = .next u ∧ mapGet 0 u.cl.bpBus (kBus m n t) = 0#8 ∧ rdBit u (bpcA p n 0x18) 2 = true ∧
        (∃ r, u.att.reports = s.att.reports ++ [r] ∧ r.kind = 3 ∧ r.unit = p) ∧
        u.cl.pond = s.cl.pond ∧ u.cl.exports = s.cl.exports ∧ u.cl.written = s.cl.written)

/-- BPC_INJ_WRITE: in Ready and Held the inject register takes the bits it stores at once; while Running, outside a boundary
extension, the value is staged, the register in force stays, and INJ_PEND reads 1 (R77). BPC_CNT_CLR, WEN_CNT_CLR and STR_CNT_CLR
clear the counters that they name and nothing else (R85, R131, R136). -/
def Obligations.InjectAndCounterWrites : Prop :=
  (∀ (s : State) (who : Requester) (m n r : Nat) (v : Word), m < 256 → n < 128 → r < 3 → physOf s m < 272 →
    let a := bpcA (physOf s m) n (4 * r)
    Reaches s who (logA m (0x290000 + n * 0x200 + 4 * r)) →
    (s.chip.devState = .ready ∨ s.chip.devState = .held →
      WriteOk s (.bpcInjWrite who m n r v) who (fun u => rdReg u a = v &&& injMask r ∧
        u = { s with regs := u.regs } ∧ ∀ b, b ≠ a → rdReg u b = rdReg s b)) ∧
    (s.chip.devState = .running → s.spr.pos ≠ .extension →
      WriteOk s (.bpcInjWrite who m n r v) who (fun u => mapGet 0 u.cl.injStaged a = v &&& injMask r ∧
        rdReg u a = rdReg s a ∧ rdBit u (bpcA (physOf s m) n 0x18) 4 = true ∧
        (∀ b, b ≠ bpcA (physOf s m) n 0x18 → rdReg u b = rdReg s b) ∧
        u = { s with regs := u.regs, cl := { s.cl with injStaged := u.cl.injStaged } }))) ∧
  (∀ (s : State) (who : Requester) (m n : Nat), m < 256 → n < 128 → physOf s m < 272 →
    Reaches s who (logA m (0x290000 + n * 0x200 + 0x18)) →
    let a := bpcA (physOf s m) n 0x18
    WriteOk s (.bpcCntClr who m n) who (fun u => rdFld u a 16 16 = 0 ∧ rdFld u a 0 16 = rdFld s a 0 16 ∧ OnlyRegs s u [a])) ∧
  (∀ (s : State) (who : Requester) (m e : Nat), m < 256 → e < 8 → physOf s m < 272 →
    Reaches s who (logA m (0x260000 + e * 0x4000 + 0x220C)) →
    let a := wenA (physOf s m) e 0x220C
    WriteOk s (.wenCntClr who m e) who (fun u => rdFld u a 16 16 = 0 ∧ rdFld u a 0 16 = rdFld s a 0 16 ∧ OnlyRegs s u [a])) ∧
  (∀ (s : State) (who : Requester) (m r : Nat), m < 256 → r < 4 → physOf s m < 272 →
    Reaches s who (logA m (0x260000 + r * 0x4000 + 0x2808)) →
    let a := wenA (physOf s m) r 0x2808
    let b := wenA (physOf s m) r 0x280C
    let c := wenA (physOf s m) r 0x2810
    WriteOk s (.strCntClr who m r) who (fun u => rdFld u a 16 16 = 0 ∧ rdFld u a 0 16 = rdFld s a 0 16 ∧
      rdReg u b = 0 ∧ rdReg u c = 0 ∧ OnlyRegs s u [a, b, c]))

/-! ### Word engines, MAC slices and store rooms (chapter 03) -/

/-- The word-engine opcodes without a carry complete with the results of R94, in every context, and write RD where WR is 1 (R96);
no flag, no chain and nothing outside the engine's results and registers changes.
WE_ADD and WE_SUB complete: result and carry together are the exact sum of A, B (or NOT B) and the carry in, in every
context; CY takes the carry out, and where COUT is 1 the carry is driven to the successor (R94, R100). -/
def Obligations.WordEngineLogicAndAddSub : Prop :=
  (
  ∀ (s : State) (m e t : Nat) (w : BitVec 64)
    (q : (Nat → Nat → Nat → Instr) × WeOp × (Word → Word → Bool → Word)),
    q ∈ ([(.weNop, .oNop, fun _ _ _ => 0), (.weMov, .oMov, fun a _ _ => a), (.weAnd, .oAnd, fun a b _ => a &&& b),
      (.weOr, .oOr, fun a b _ => a ||| b), (.weXor, .oXor, fun a b _ => a ^^^ b),
      (.weAndn, .oAndn, fun a b _ => a &&& ~~~ b),
      (.weShl, .oShl, fun a b _ => BitVec.ofNat 32 (a.toNat * 2 ^ (b.toNat % 32))),
      (.weShr, .oShr, fun a b _ => BitVec.ofNat 32 (a.toNat / 2 ^ (b.toNat % 32))),
      (.weSar, .oSar, fun a b _ => BitVec.ofInt 32 (a.toInt / 2 ^ (b.toNat % 32))),
      (.weRol, .oRol, fun a b _ => (a <<< (b.toNat % 32)) ||| (a >>> (32 - b.toNat % 32))),
      (.wePopc, .oPopc, fun a _ _ => BitVec.ofNat 32 (Nat.digits 2 a.toNat).sum),
      (.weClz, .oClz, fun a _ _ => BitVec.ofNat 32 (if a = 0 then 32 else 31 - Nat.log2 a.toNat)),
      (.weSel, .oSel, fun a b f => if f then a else b)] :
        List ((Nat → Nat → Nat → Instr) × WeOp × (Word → Word → Bool → Word))) →
    WeRuns s m e t q.2.1 w →
      ∃ u, exec (q.1 m e t) s = .next u ∧
        WeDelivers s u m e t w (fun c => q.2.2 (weA s m e t w c) (weB s m e t w c)
          ((mapGet 0#8 s.cl.flagF (kWe (physOf s m) e)).getLsbD c)) ∧
        u = { s with cl := { s.cl with weRes := u.cl.weRes, wreg := u.cl.wreg } }) ∧ (
  ∀ (s : State) (m e t : Nat) (w : BitVec 64) (ci ei : Ctx)
    (q : (Nat → Nat → Nat → Instr) × WeOp × ChainKind × (Word → Word)),
    q ∈ ([(.weAdd, .oAdd, .add, fun b => b), (.weSub, .oSub, .sub, fun b => ~~~ b)] :
      List ((Nat → Nat → Nat → Instr) × WeOp × ChainKind × (Word → Word))) →
    WeRuns s m e t q.2.1 w → CarryIs s m e t q.2.1 w ci ei →
      ∃ u res, exec (q.1 m e t) s = .next u ∧ WeDelivers s u m e t w res ∧
        (∀ c, c < 8 → (res c).toNat + 2 ^ 32 * b2n ((mapGet 0#8 u.cl.flagCY (kWe (physOf s m) e)).getLsbD c) =
          (weA s m e t w c).toNat + (q.2.2.2 (weB s m e t w c)).toNat + b2n (ci.getLsbD c)) ∧
        (∀ k, k ≠ kWe (physOf s m) e → mapGet 0#8 u.cl.flagCY k = mapGet 0#8 s.cl.flagCY k) ∧
        (if weCout w then ∃ ch, mapGet none u.cl.chain (kWeT m e t) = some ch ∧ ch.kind = q.2.2.1 ∧
            ch.carry = mapGet 0#8 u.cl.flagCY (kWe (physOf s m) e)
          else u.cl.chain = s.cl.chain) ∧
        u = { s with cl := { s.cl with
          weRes := u.cl.weRes, wreg := u.cl.wreg, flagCY := u.cl.flagCY, chain := u.cl.chain } })

/-- The compares complete: S is A + NOT B + carry in, CY its carry out; F is EQ_out, NOT EQ_out, NOT CY, CY, the sign of the exact
signed S, or its complement, and the result is all ones where F is 1 and 0 elsewhere (R94); where COUT is 1 the carry and
EQ_out are driven to the successor (R100). -/
def Obligations.WordEngineCompare : Prop :=
  ∀ (s : State) (m e t : Nat) (w : BitVec 64) (ci ei : Ctx)
    (q : (Nat → Nat → Nat → Instr) × WeOp × (Bool → Bool → Int → Bool)),
    q ∈ ([(.weCeq, .oCeq, fun eq _ _ => eq), (.weCne, .oCne, fun eq _ _ => !eq), (.weCltu, .oCltu, fun _ cy _ => !cy),
      (.weCgeu, .oCgeu, fun _ cy _ => cy), (.weClts, .oClts, fun _ _ x => decide (x < 0)),
      (.weCges, .oCges, fun _ _ x => decide (0 ≤ x))] :
        List ((Nat → Nat → Nat → Instr) × WeOp × (Bool → Bool → Int → Bool))) →
    WeRuns s m e t q.2.1 w → CarryIs s m e t q.2.1 w ci ei →
      ∃ u res, exec (q.1 m e t) s = .next u ∧ WeDelivers s u m e t w res ∧
        let k := kWe (physOf s m) e
        let a := weA s m e t w
        let b := weB s m e t w
        (∀ c, c < 8 →
          let eq := ei.getLsbD c && decide (a c = b c)
          let cy := decide (2 ^ 32 ≤ (a c).toNat + (~~~ (b c)).toNat + b2n (ci.getLsbD c))
          let f := q.2.2 eq cy ((a c).toInt + (~~~ (b c)).toInt + b2n (ci.getLsbD c))
          (mapGet 0#8 u.cl.flagCY k).getLsbD c = cy ∧ (mapGet 0#8 u.cl.flagF k).getLsbD c = f ∧
            res c = (if f then 0xFFFFFFFF#32 else 0#32) ∧
            (weCout w = true → ∃ ch, mapGet none u.cl.chain (kWeT m e t) = some ch ∧ ch.kind = .cmp ∧
              ch.carry.getLsbD c = cy ∧ ch.eq.getLsbD c = eq)) ∧
        (∀ j, j ≠ k → mapGet 0#8 u.cl.flagCY j = mapGet 0#8 s.cl.flagCY j ∧
          mapGet 0#8 u.cl.flagF j = mapGet 0#8 s.cl.flagF j) ∧
        (weCout w = false → u.cl.chain = s.cl.chain) ∧
        u = { s with cl := { s.cl with weRes := u.cl.weRes, wreg := u.cl.wreg, flagCY := u.cl.flagCY,
                                       flagF := u.cl.flagF, flagOld := u.cl.flagOld, chain := u.cl.chain } }

/-- WE_MUL, WE_MAC and WE_MACC complete: the slice's next accumulator is the product, the accumulator plus the product, or
CASCADE_IN plus the product, modulo 2^72, signed as IMM[1] says (R103); sources and ports see it from step t + 3 on, and the old
value before (R104). CASCADE_IN is the accumulator of the cluster before as it stood at the end of step t - 2, and 0 for the
first cluster of a shelf (R105). MAC_UPDATE_COMPLETE puts the value into the accumulator registers. -/
def Obligations.MacOperations : Prop :=
  (∀ (s : State) (m e t : Nat) (w : BitVec 64)
    (q : (Nat → Nat → Nat → Instr) × WeOp × (State → Nat → Nat → Nat → Nat → BitVec 72)),
    q ∈ ([(.weMul, .oMul, fun _ _ _ _ _ => 0#72), (.weMac, .oMac, fun s m _ sl c => macIssued s m sl c),
      (.weMacc, .oMacc, fun s m t sl c => if m % 16 = 0 then 0#72 else macAtEnd s (m - 1) sl c (t - 1))] :
        List ((Nat → Nat → Nat → Instr) × WeOp × (State → Nat → Nat → Nat → Nat → BitVec 72))) →
    WeRuns s m e t q.2.1 w → issueLost s m e t = false →
      ∃ u, exec (q.1 m e t) s = .next u ∧
        let sl := fld w 0 1
        (∀ c x, c < 8 →
          let a := weA s m e t w c
          let b := weB s m e t w c
          let prod : BitVec 72 := if w.getLsbD 1 then BitVec.ofInt 72 (a.toInt * b.toInt) else BitVec.ofNat 72 (a.toNat * b.toNat)
          macIssued u m sl c = q.2.2 s m t sl c + prod ∧
            macAtEnd u m sl c x = if t + 3 ≤ x then q.2.2 s m t sl c + prod else macAtEnd s m sl c x) ∧
        (∀ m' sl' c x, ¬ (m' = m ∧ sl' = sl) → macAtEnd u m' sl' c x = macAtEnd s m' sl' c x) ∧
        u = { s with cl := { s.cl with macOps := u.cl.macOps } }) ∧
  (∀ (s : State) (m sl t : Nat) (o : MacOp),
    s.cl.macOps.find? (fun x => x.cluster = m ∧ x.slice = sl ∧ x.issued = t) = some o → o.done = false → sl < 2 →
    (∀ x ∈ s.cl.macOps, x.cluster = m → x.slice = sl → x.issued < t → x.done = true) →
      ∃ u, exec (.macUpdateComplete m sl t) s = .next u ∧
        (∀ c, c < 8 → mapGet 0#72 u.cl.macAcc (kMac (physOf s m) sl c) = o.vals.getD c 0#72) ∧
        (∀ k, (∀ c, c < 8 → k ≠ kMac (physOf s m) sl c) → mapGet 0#72 u.cl.macAcc k = mapGet 0#72 s.cl.macAcc k) ∧
        u = { s with cl := { s.cl with macAcc := u.cl.macAcc, macOps := u.cl.macOps } })

/-- Store rooms in private mode, without upsets and not paged. WE_SRD makes the entry that A addresses in each context readable on
its port from step t + 2 (R110); SRD_DATA_READY puts it into the port. WE_SWR writes B, widened by the register that IMM names,
to the entry of each context whose enable bits are 1, records each entry in the undo log, and leaves the entries of the other
contexts and everything outside the room and its log (R110, R112, R116). PAGE_FILL_DONE fills the frame with the bytes of the
page in the backing array and makes the page resident (R121). -/
def Obligations.StoreRoomAccesses : Prop :=
  (∀ (s : State) (m e t r q : Nat) (w : BitVec 64), WeRuns s m e t .oSrd w → issueLost s m e t = false →
    r = fld w 0 2 → q = fld w 2 1 →
    let p := physOf s m
    let n := roomEntries s p r
    let pw := padWidth (roomWidth s p r)
    roomWidth s p r ≠ 0 → roomPaged s p r = false → roomShared s p r = false →
    (∀ k, rowAt s k t = ((rowAt s k t).1, false, false)) → (∀ c, c < 8 → (weA s m e t w c).toNat < n) →
      ∃ u, exec (.weSrd m e t) s = .next u ∧
        (∀ c, c < 8 → (portRead u m r q c (t + 2)).toNat =
          ((rowAt s (kRow p r ((c * n + (weA s m e t w c).toNat) * pw / 64)) t).1.toNat
            >>> ((c * n + (weA s m e t w c).toNat) * pw % 64)) % 2 ^ roomWidth s p r) ∧
        (∀ c x, x < t + 2 → portRead u m r q c x = portRead s m r q c x) ∧
        u = { s with cl := { s.cl with srdOps := u.cl.srdOps } }) ∧
  (∀ (s : State) (m r q t : Nat) (o : SrdOp), q < 2 → r < 4 →
    s.cl.srdOps.find? (fun x => x.cluster = m ∧ x.room = r ∧ x.port = q ∧ x.issued = t) = some o → o.done = false →
    (∀ x ∈ s.cl.srdOps, x.cluster = m → x.room = r → x.port = q → t < x.issued → x.done = false) →
      ∃ u, exec (.srdDataReady m r q t) s = .next u ∧
        (∀ c, c < 8 → mapGet 0#64 u.cl.portData (kPort (physOf s m) r q c) = o.vals.getD c 0#64) ∧
        u = { s with cl := { s.cl with portData := u.cl.portData, srdOps := u.cl.srdOps } }) ∧
  (∀ (s : State) (m e t r q : Nat) (w : BitVec 64), WeRuns s m e t .oSwr w → issueLost s m e t = false →
    r = fld w 0 2 → q = fld w 2 1 →
    let p := physOf s m
    let n := roomEntries s p r
    let wd := roomWidth s p r
    let pw := padWidth wd
    let data := fun (c : Nat) => (weB s m e t w c).toNat +
      2 ^ 32 * (if 32 < wd then (mapGet 0#32 s.cl.wreg (kWreg p e c (fld w 4 4))).toNat else 0)
    let on := fun (c : Nat) => s.spr.cen.getLsbD c && (mapGet 0#32 s.cl.wreg (kWreg p e c (weRd w))).getLsbD 0
    let row := fun (c : Nat) => kRow p r ((c * n + (weA s m e t w c).toNat) * pw / 64)
    let lo := fun (c : Nat) => (c * n + (weA s m e t w c).toNat) * pw % 64
    wd ≠ 0 → wd ≤ 64 → roomPaged s p r = false → roomShared s p r = false → undoFits s m t 8 = true →
    (∀ k, mapGet [] s.cl.rowFlips k = [] ∧ mapGet false s.cl.rowBad k = false) → (q = 1 ∨ s.cl.port1Wr = []) →
    (∀ c, c < 8 → (weA s m e t w c).toNat < n) →
      ∃ u, exec (.weSwr m e t) s = .next u ∧
        (∀ c, c < 8 → ((mapGet 0#64 u.cl.rows (row c)).toNat >>> lo c) % 2 ^ wd =
          if on c then data c % 2 ^ wd else ((mapGet 0#64 s.cl.rows (row c)).toNat >>> lo c) % 2 ^ wd) ∧
        (∀ k, (∀ c, c < 8 → on c = true → k ≠ row c) → mapGet 0#64 u.cl.rows k = mapGet 0#64 s.cl.rows k) ∧
        (∀ c, c < 8 → on c = true → undoHas u m r (entryPos s p r c (weA s m e t w c).toNat) = true) ∧
        u.cl.wreg = s.cl.wreg ∧ u.cl.pond = s.cl.pond ∧ u.cl.flagF = s.cl.flagF ∧ u.cel = s.cel ∧ u.att = s.att) ∧
  (∀ (s : State) (m r page : Nat) (f : Frame), m < 256 → r < 4 →
    let p := physOf s m
    (framesOf s p r).find? (fun g => g.page = page ∧ g.filling = true) = some f → f.idx < 32 →
      ∃ u, exec (.pageFillDone m r page) s = .next u ∧ { f with filling := false } ∈ framesOf u p r ∧
        (∀ i, i < 128 → (mapGet 0#64 u.cl.rows (frameRow p r f.idx + i)).toNat =
          leNat ((List.range 8).map (fun j => mapGet 0#8 s.cel.mem (pageOffset s p r page + 8 * i + j)))) ∧
        (∀ k, k < frameRow p r f.idx ∨ frameRow p r f.idx + 128 ≤ k →
          mapGet 0#64 u.cl.rows k = mapGet 0#64 s.cl.rows k) ∧
        u.cel = s.cel ∧ u.spr = s.spr ∧ u.cl.wreg = s.cl.wreg)

/-! ### Ticks, epochs and commit (chapter 05) -/

/-- TICK_START begins the next tick where one may begin: TB0 has reached the start of the tick, T_S plus the steps since T_S
(R172); the schedule runs from step 0 with empty step bus and exports, F and CY of every engine are 0 (R95), and the
accumulators stand as the tick before left them. Tick number, entry, class and model state stay.
TICK_OVERHEAD: at the end of every tick the pointer of a written flop toggles in each context that is enabled and that no
SWAPHINT held back, every other pointer stays, the written flags and hints clear (R60, R64); the probe slots begin the next
tick at 0x00 (R61); the tick number advances, and the script's entry runs on or gives way to the entry that follows under the
new decision value (R176, R180); the last tick of an epoch goes on to its boundary extension (R190). -/
def Obligations.TickStartsAndEnds : Prop :=
  (
  ∀ (s : State) (delta : Int), tickAllowed s = true →
    ∃ t, exec (.tickStart delta) s = .next t ∧ t.spr.pos = .schedule ∧
      tb0Now t = max (tb0Now s) (s.spr.segStart + s.spr.segSteps * 524288 / 10) ∧
      t.cl.bpBus = [] ∧ t.cl.exports = [] ∧ t.cl.weRes = [] ∧ t.cl.flagF = [] ∧ t.cl.flagCY = [] ∧ t.cl.macOps = [] ∧
      t.cl.macStart = s.cl.macAcc ∧ t.spr.tick = s.spr.tick ∧ t.spr.entry = s.spr.entry ∧ t.spr.cls = s.spr.cls ∧
      t.spr.commit = s.spr.commit ∧ t.spr.cen = s.spr.cen ∧ t.chip.devState = .running ∧ t.cl.pond = s.cl.pond ∧
      t.cl.fptr = s.cl.fptr ∧ t.cl.written = s.cl.written ∧ t.cl.wreg = s.cl.wreg ∧ t.cl.rows = s.cl.rows ∧ t.cel = s.cel) ∧ (
  ∀ (s : State), s.chip.devState = .running → s.spr.pos = .schedule → mapWf false s.cl.written →
    ∃ t, exec .tickOverhead s = .next t ∧
      (∀ k c, (mapGet 0#8 t.cl.fptr k).getLsbD c = xor ((mapGet 0#8 s.cl.fptr k).getLsbD c)
        (mapGet false s.cl.written k && s.spr.cen.getLsbD c && !(mapGet 0#8 s.cl.hintOff (k / 128)).getLsbD c)) ∧
      t.cl.written = [] ∧ t.cl.hintOff = [] ∧ t.cl.probe = [] ∧ t.cl.pond = s.cl.pond ∧ t.spr.tick = s.spr.tick + 1 ∧
      t.spr.pos = (if s.spr.tick.toNat % epochLen s = epochLen s - 1 then .extension else .idle) ∧
      t.spr.decision = ((s.spr.decides.find? (fun q => q.1 = (s.spr.tick + 1).toNat)).map (fun q => q.2)).getD s.spr.decision ∧
      (s.spr.left ≠ 0 → t.spr.left = s.spr.left - 1 ∧ t.spr.entry = s.spr.entry ∧ t.spr.cls = s.spr.cls) ∧
      (s.spr.left = 0 → t.spr.entry = scriptNext s s.spr.entry t.spr.decision ∧
        t.spr.left = entryCount s t.spr.entry ∧ t.spr.cls = entryClass s t.spr.entry) ∧
      t.spr.commit = s.spr.commit ∧ t.spr.cen = s.spr.cen ∧ t.cel = s.cel ∧ t.stw.core = s.stw.core)

/-- The tick script (R180): NEXT goes to the following entry, JUMP to its target, a branch to its target where the decision bit
that it names is 1, or 0, and to the following entry otherwise; entry 0 follows entry 127. -/
def Obligations.ScriptControlFlow : Prop :=
  ∀ (s : State) (i : Nat) (dec : BitVec 16), i < 128 →
    let b := rdReg s (sprA (0x404 + 8 * i))
    bit b 15 = false →
    (fld b 0 3 = 0 → scriptNext s i dec = if i = 127 then 0 else i + 1) ∧ (fld b 0 3 = 1 → scriptNext s i dec = fld b 8 7) ∧
    (fld b 0 3 = 2 → scriptNext s i dec = if dec.getLsbD (fld b 4 4) then fld b 8 7 else (i + 1) % 128) ∧
    (fld b 0 3 = 3 → scriptNext s i dec = if dec.getLsbD (fld b 4 4) then (i + 1) % 128 else fld b 8 7)

/-- BOUNDARY_EXTENSION of a first run without a shelf reload: the snapshot of the ending epoch is taken and its checkpoint work
opened (R190, R191), each staged inject value comes into force (R77), and the next tick may begin. CKPT_WRITE_RESPONSE closes
the part that is written (R198), and a refused write fails the epoch (R197). STAGE_WRITE_DONE moves the oldest queued compare
record to the stage, or fails its epoch (R301). DRAIN_LATE fails the epoch whose undo log is late (R196). -/
def Obligations.CheckpointWork : Prop :=
  (∀ (s : State), s.chip.devState = .running → s.spr.pos = .extension → s.spr.replayEnd ≤ curEpoch s → s.ldr.kind = 0 →
    s.spr.holdAt = none → s.att.passed = [] → recOfEpoch s (curEpoch s) = none → s.cl.injStaged.Pairwise (fun a b => a.1 < b.1) →
    (∀ q ∈ s.cl.injStaged, isInjectReg q.1 = true) → (∀ q ∈ s.cmp.staged, isCmpSetting q.1 = true) →
    ∃ t, exec .boundaryExtension s = .next t ∧ t.spr.pos = .idle ∧ t.spr.tick = s.spr.tick ∧
      takeSnapshot s (curEpoch s - 1) ∈ t.spr.snapshots ∧
      (∃ w ∈ t.spr.ckpt, w.epoch = curEpoch s - 1 ∧ w.snapshot = true) ∧ (∃ r ∈ t.spr.epochRecs, r.epoch = curEpoch s) ∧
      (∀ q ∈ s.cl.injStaged, rdReg t q.1 = q.2) ∧ t.cl.injStaged = mergeOver [] s.cl.injLater ∧ t.cl.injLater = [] ∧
      t.cl.pond = s.cl.pond ∧ t.chip.devState = .running) ∧
  (∀ (s : State) (part n : Nat) (w : CkptWork) (l : List CkptWork), part < 3 → s.spr.ckpt = w :: l →
    (∀ x ∈ l, x.epoch ≠ w.epoch ∧ (x.snapshot || x.undo || x.inlet) = true) →
    let v : CkptWork := { w with
      snapshot := w.snapshot && part != 0, undo := w.undo && part != 1, inlet := w.inlet && part != 2 }
    exec (.ckptWriteResponse part w.epoch n true) s = .next { s with
      spr := { s.spr with ckpt := if v.snapshot || v.undo || v.inlet then v :: l else l }
      cl := { s.cl with undoBuf := if part = 1 then s.cl.undoBuf - n else s.cl.undoBuf } }) ∧
  (∀ (s : State) (part epoch n : Nat), s.chip.devState = .running → s.spr.phase ≠ .rollback →
    ∃ t, exec (.ckptWriteResponse part epoch n false) s = .next t ∧ FailsEpoch s t epoch 1) ∧
  (∀ (s : State) (r : CmpRec) (l : List CmpRec), s.cmp.queue = r :: l →
    exec (.stageWriteDone true) s = .next { s with cmp := { s.cmp with queue := l, stage := s.cmp.stage ++ [r] } } ∧
    (s.chip.devState = .running → s.spr.phase ≠ .rollback →
      ∃ t, exec (.stageWriteDone false) s = .next t ∧ t.cmp.queue = l ∧ t.cmp.stage = s.cmp.stage ∧ FailsEpoch s t r.epoch 1)) ∧
  (∀ (s : State) (k : Nat), s.chip.devState = .running → s.spr.phase ≠ .rollback → epochEnded s (k + 1) = true →
    (∃ w ∈ s.spr.ckpt, w.epoch = k ∧ w.undo = true) →
    ∃ t, exec (.drainLate k) s = .next t ∧ FailsEpoch s t k 5 ∧ rdBit t (sprA 4) 11 = true)

/-- The vote. SEND_PASS_VOTE sends PASS for an epoch whose checklist is complete, once: to the head, or at the root, for the next
epoch to commit, as the order to commit (R188, R189). A child's PASS is kept; its FAIL is passed on at once and orders a rollback
at the root (R188). VOTE_TIMEOUT at the end of epoch k + 1 without a commit of epoch k orders a rollback at the root, with cause 3,
and makes another device wait (R189). -/
def Obligations.EpochVote : Prop :=
  (∀ (s : State) (k : Nat), s.chip.devState = .running → s.spr.phase ≠ .rollback → s.spr.commit.toNat ≤ k →
    passReady s k = true → (k, true) ∉ s.spr.sent → (k, false) ∉ s.spr.sent →
    ∃ t, exec (.sendPassVote k) s = .next t ∧ (k, true) ∈ t.spr.sent ∧ t.regs = s.regs ∧ t.cl = s.cl ∧
      (s.crt.isRoot = false → t.spr.orders = s.spr.orders ∧ ∀ l, s.crt.uplink = some l → ∃ h,
        t.outbox = .spring h (.vote k true (stopFlag s k) 0 (devAddr s)) :: s.outbox ∧ h.link = l) ∧
      (s.crt.isRoot = true → s.crt.uplink = none → k = s.spr.commit.toNat → rollbackPending s = false →
        s.spr.orders = [] → t.spr.orders = [.commit k (stopFlag s k)])) ∧
  (∀ (s x : State) (h : SpringHdr) (k cause dev : Nat) (stop : Bool), ChildSays s h x → s.chip.devState = .running →
    s.spr.phase ≠ .rollback → h.gen = s.spr.gen →
    exec (.vote h k true stop cause dev) s = .next { x with spr := { x.spr with
      votes := x.spr.votes ++ [{ link := h.link, epoch := k, pass := true, stop := stop, cause := cause, dev := dev }] } } ∧
    ((k, false) ∉ s.spr.sent → ∃ t, exec (.vote h k false stop cause dev) s = .next t ∧ (k, false) ∈ t.spr.sent ∧
      (s.crt.isRoot = true → rollbackPending t = true) ∧
      (s.crt.isRoot = false → ∀ l, s.crt.uplink = some l → ∃ q,
        t.outbox = .spring q (.vote k false false cause dev) :: s.outbox ∧ q.link = l))) ∧
  (∀ (s : State), s.chip.devState = .running → s.spr.armed = false → s.spr.phase ≠ .rollback → s.spr.phase ≠ .stopping →
    s.spr.pos = .idle → s.spr.commit.toNat + 2 ≤ curEpoch s →
    ∃ t, exec .voteTimeout s = .next t ∧
      (s.crt.isRoot = false → t = { s with spr := { s.spr with waiting := true } }) ∧
      (s.crt.isRoot = true → rdBit t (sprA 4) 12 = true ∧
        (s.spr.orders = [] → t.spr.gen = s.spr.gen + 1 ∧ ∃ ts, t.spr.orders =
          [.rollback s.spr.commit.toNat ts 3 (devAddr s) false] ∧ ts = tb0Now s + 50000 * 524288 / 10)))

/-- COMMIT of the next epoch: the count of committed epochs advances, undo and inlet records and checks of that epoch and of those
before go (R199), and line 4 of every steward is raised. A COMMIT with STOP restores the end of the epoch and leaves the device
in Held with cause 6 (R208). A COMMIT of another epoch changes nothing of the run. -/
def Obligations.CommitReleases : Prop :=
  ∀ (s x : State) (h : Option SpringHdr) (k : Nat) (stop : Bool), HeadSays s h (.commit k stop) x →
    (∀ q, h = some q → q.gen = s.spr.gen) → s.chip.devState = .running → s.spr.phase ≠ .rollback →
    (k = s.spr.commit.toNat → k + 1 < 2 ^ 48 →
      ∃ t, exec (.commit h k stop) s = .next t ∧ t.spr.commit.toNat = k + 1 ∧ t.stw.bcast.getLsbD 4 = true ∧
        (stop = false → s.ldr.kind = 0 → s.ldr.pendingRes = [] → s.spr.holdAt = none →
          t.cl.undo = s.cl.undo.filter (fun u => k < u.epoch) ∧
          t.spr.inletLog = s.spr.inletLog.filter (fun r => (k + 1) * epochLen s ≤ r.tick) ∧
          t.spr.fails = s.spr.fails.filter (fun f => k < f.1) ∧ t.cl.pond = s.cl.pond ∧ t.spr.tick = s.spr.tick ∧
          t.chip.devState = .running) ∧
        (stop = true → s.ldr.kind = 0 → s.ldr.pendingRes = [] → shelfRewritten s (k + 1) = false → s.att.decisions = [] →
          t.chip.devState = .held ∧ t.spr.phase = .held ∧
          t.spr.tick = BitVec.ofNat 48 ((k + 1) * epochLen s) ∧ rdFld t (sprA 0x54) 0 4 = 6)) ∧
    (k ≠ s.spr.commit.toNat → exec (.commit h k stop) s = .next x)

/-- START at a Ready device arms a run segment from T_S with tick 0, entry 0, decision 0 and no committed epoch, the device Running
(R180, R181, R206); RUN_SEGMENT_START begins its first tick at T_S once TB0 is locked (R172). DECIDE that arrives in time is held for its tick
(R181). CEN is in force at once in Ready and Held, and waits for its epoch while Running (R178). HOLD before its boundary sets
where ticks stop (R207). -/
def Obligations.RunControlMessages : Prop :=
  (∀ (s x : State) (h : Option SpringHdr) (ts first : Nat), HeadSays s h (.start ts (BitVec.ofNat 48 first)) x →
    s.chip.devState = .ready →
    ∃ t, exec (.start h ts first) s = .next t ∧ t.chip.devState = .running ∧ t.spr.armed = true ∧ t.spr.segStart = ts ∧
      t.spr.tick = 0 ∧ t.spr.commit = 0 ∧ t.spr.entry = 0 ∧ t.spr.decision = 0 ∧ t.spr.pos = .idle ∧
      (∃ c, t.spr.initial = some c ∧ c.epoch = 0) ∧ t.cl.pond = s.cl.pond ∧ t.cl.rows = s.cl.rows ∧ t.cel = s.cel) ∧
  (∀ (s : State), s.chip.devState = .running → s.spr.armed = true → rdBit s (timA 4) 1 = true → s.spr.rb = none →
    s.spr.replayEnd ≤ curEpoch s →
    ∃ t, exec .runSegmentStart s = .next t ∧ t.spr.pos = .schedule ∧ t.spr.armed = false ∧ t.spr.phase = .firstRun ∧
      tb0Now t = max (tb0Now s) s.spr.segStart ∧ t.spr.tick = s.spr.tick ∧ t.cl.pond = s.cl.pond) ∧
  (∀ (s x : State) (h : Option SpringHdr) (v : BitVec 16) (m : Nat), HeadSays s h (.decide v m) x →
    0 < m → tickBegun s (m - 1) = false →
    ∃ t, exec (.decide h v m) s = .next t ∧ mapGet 0 t.spr.decides m = v ∧
      (∀ k, k ≠ m → mapGet 0 t.spr.decides k = mapGet 0 s.spr.decides k) ∧
      t = { x with spr := { x.spr with decides := t.spr.decides } }) ∧
  (∀ (s x : State) (h : Option SpringHdr) (v : Ctx) (e : Nat), HeadSays s h (.cen v e) x →
    (s.chip.devState = .ready ∨ s.chip.devState = .held → exec (.cen h v e) s = .next { x with spr := { x.spr with cen := v } }) ∧
    (s.chip.devState = .running →
      exec (.cen h v e) s = .next { x with spr := { x.spr with cenNext := x.spr.cenNext ++ [(e, v)] } })) ∧
  (∀ (s x : State) (h : Option SpringHdr) (epoch cause : Nat), HeadSays s h (.hold epoch cause) x →
    s.chip.devState = .running → curEpoch s ≤ epoch →
    exec (.hold h epoch cause) s = .next { x with spr := { x.spr with holdAt := some epoch } })

/-- ROLLBACK to the end of the last committed epoch, as the root acts on it (R201): ticks stop, tick j × E is next, what follows the
commit is forgotten, the rollback is counted with its cause and origin, and replay starts at T_S unless the order carries HOLD.
RESTORE_DONE with every child done sends RB_DONE, and under HOLD the device enters Held (R201, R204). RB_DONE of a child is noted
(R186). RB_FAIL restarts the rollback at the root with a new generation, and is passed on elsewhere (R203). -/
def Obligations.RollbackRestores : Prop :=
  (∀ (s : State) (ts cause origin : Nat) (hold : Bool), s.crt.isRoot = true → s.chip.devState = .running →
    (.rollback s.spr.commit.toNat ts cause origin hold) ∈ s.spr.orders → s.att.decisions = [] → cause < 16 → origin < 4096 →
    s.spr.commit.toNat * epochLen s < 2 ^ 48 → shelfRewritten s s.spr.commit.toNat = false →
    (∀ r ∈ s.spr.epochRecs, (∀ q ∈ r.cmpSet, isCmpSetting q.1 = true) ∧ ∀ q ∈ r.inject, isInjectReg q.1 = true) →
    ∃ t, exec (.rollback none s.spr.commit.toNat ts cause origin hold) s = .next t ∧
      t.spr.tick.toNat = s.spr.commit.toNat * epochLen s ∧ t.spr.pos = .idle ∧ t.spr.phase = .rollback ∧
      t.spr.armed = !hold ∧ t.spr.segStart = ts ∧ t.spr.fails = [] ∧ t.spr.votes = [] ∧ t.cl.written = [] ∧
      (∀ u ∈ t.cl.undo, u.epoch < s.spr.commit.toNat) ∧ t.spr.commit = s.spr.commit ∧
      rdFld t (sprA 0x54) 0 4 = cause ∧ rdFld t (sprA 0x54) 4 12 = origin ∧
      rdFld t (sprA 0x50) 0 16 = min 65535 (rdFld s (sprA 0x50) 0 16 + 1) ∧
      (∃ r, t.spr.rb = some r ∧ r.target = s.spr.commit.toNat ∧ r.cause = cause ∧ r.hold = hold ∧ r.done = false)) ∧
  (∀ (s : State) (r : Rollback), s.spr.rb = some r → s.spr.phase = .rollback → r.restored = true → r.done = false →
    fillsDone s = true → s.cel.restoreOpen = 0 → (∀ l ∈ presentLinks s, l ∈ s.spr.rbDone) → s.chip.devState ≠ .safe →
    ∃ t, exec .restoreDone s = .next t ∧
      (r.hold = false → t.spr.rb = some { r with done := true } ∧ t.spr.phase = .rollback ∧ t.regs = s.regs ∧
        ∀ l, s.crt.uplink = some l → ∃ h, t.outbox = .spring h .rbDone :: s.outbox ∧ h.link = l) ∧
      (r.hold = true → t.chip.devState = .held ∧ t.spr.phase = .held ∧ t.spr.armed = false ∧
        (r.cause = 5 → rdBit t (sprA 4) 15 = true))) ∧
  (∀ (s x : State) (h : SpringHdr), ChildSays s h x → h.gen = s.spr.gen → s.spr.rb.isSome = true → h.link ∉ s.spr.rbDone →
    exec (.rbDone h) s = .next { x with spr := { x.spr with rbDone := x.spr.rbDone ++ [h.link] } }) ∧
  (∀ (s x : State) (h : SpringHdr) (cause : Nat) (r : Rollback), ChildSays s h x → h.gen = s.spr.gen → s.spr.rb = some r →
    (s.crt.isRoot = false → exec (.rbFail h cause) s = .next (sendUp (.rbFail cause) x)) ∧
    (s.crt.isRoot = true → ∃ t ts, exec (.rbFail h cause) s = .next t ∧ t.spr.gen = s.spr.gen + 1 ∧
      .rollback r.target ts r.cause r.origin (r.hold || holdCause cause) ∈ t.spr.orders ∧ t.spr.rb = some r ∧
      rdFld t (sprA 0x50) 16 16 = min 65535 (rdFld s (sprA 0x50) 16 16 + 1)))

/-- Requests to the root (R213). Elsewhere than at the root, SPR_CTRL's RUN, HOLD, RESUME and FORCE_RB and a write of SPR_CEN go to
the head as REQ, and so does a child's REQ. At a Running root, HOLD orders the stop at the end of the epoch of tick n_R + D
(R207), CEN the vector from the epoch after that (R178), FORCE_RB a rollback with cause 4. REJECT for this device sets REQ_REJ. -/
def Obligations.RequestsToTheRoot : Prop :=
  (∀ (s : State) (who : Requester), Reaches s who (sprA 0) → s.crt.isRoot = false →
    WriteOk s (.sprCtrlRun who) who (fun u => u = sendUp (.req .run 0 (devAddr s)) s) ∧
    WriteOk s (.sprCtrlHold who) who (fun u => u = sendUp (.req .hold 0 (devAddr s)) s) ∧
    WriteOk s (.sprCtrlResume who) who (fun u => u = sendUp (.req .resume 0 (devAddr s)) s) ∧
    WriteOk s (.sprCtrlForceRb who) who (fun u => u = sendUp (.req .forceRb 0 (devAddr s)) s)) ∧
  (∀ (s : State) (who : Requester), Reaches s who (sprA 0) → s.crt.isRoot = true → s.crt.children = [] →
    s.chip.devState = .running → s.spr.orders = [] → s.spr.phase ≠ .rollback →
    (s.spr.holdAt = none → WriteOk s (.sprCtrlHold who) who (fun u => u = { s with spr := { s.spr with
      orders := [.hold ((s.spr.tick.toNat + decLead s) / epochLen s) 0] } })) ∧
    WriteOk s (.sprCtrlForceRb who) who (fun u => u.spr.gen = s.spr.gen + 1 ∧
      ∃ ts, u.spr.orders = [.rollback s.spr.commit.toNat ts 4 (devAddr s) false])) ∧
  (∀ (s : State) (who : Requester) (v : Word), Reaches s who (sprA 0x20) →
    (s.crt.isRoot = false → WriteOk s (.sprCenWrite who v) who (fun u =>
      rdFld u (sprA 0x20) 0 8 = fld v 0 8 ∧ u.spr.cen = s.spr.cen ∧ (∀ b, b ≠ sprA 0x20 → rdReg u b = rdReg s b) ∧
      ∀ l, s.crt.uplink = some l → ∃ h, u.outbox = .spring h (.req .cen (v.setWidth 8) (devAddr s)) :: s.outbox ∧ h.link = l)) ∧
    (s.crt.isRoot = true → s.crt.children = [] → s.chip.devState = .running → WriteOk s (.sprCenWrite who v) who (fun u =>
      u.spr.orders = s.spr.orders ++ [.cen (v.setWidth 8) ((s.spr.tick.toNat + decLead s) / epochLen s + 1)] ∧
      u.spr.cen = s.spr.cen))) ∧
  (∀ (s x : State) (h : SpringHdr) (kind : ReqKind) (value : BitVec 8) (dev : Nat), ChildSays s h x → s.crt.isRoot = false →
    exec (.req h kind value dev) s = .next (sendUp (.req kind value dev) x)) ∧
  (∀ (s x : State) (h : Option SpringHdr) (kind : ReqKind) (dev : Nat), HeadSays s h (.reject dev kind) x →
    (dev = devAddr s → ∃ t, exec (.reject h dev kind) s = .next t ∧ rdBit t (sprA 4) 16 = true ∧ t.spr = x.spr ∧
      ∀ b, b ≠ sprA 4 → b ≠ imgStat → rdReg t b = rdReg s b) ∧
    (dev ≠ devAddr s → exec (.reject h dev kind) s = .next x))

/-! ### Boot, the shell and the image loader (chapter 06) -/

/-- Resets. PORST_N returns every register to its reset value and forgets everything but the fuses (R9, R602, R640); its release
begins Boot at stage 1 without a shell, with the lifecycle that was pending and a new blob counter (R226, R602, R606). PERST_N
resets the HOST domain alone and stops MSI-X and the endpoint (R9, R688); CONFIG_READY opens the endpoint (R228). REBOOT returns
a Blank, Ready or Held device, or one in Boot, to Boot, and changes nothing while ticks run (R226). -/
def Obligations.ResetPins : Prop :=
  (∀ s : State, ∃ t, exec .porstAssert s = .next t ∧ (∀ a, rdReg t a = regReset a) ∧ t.chip.devState = .off ∧
    (∀ m, m < 256 → physOf t m = 17 * (m / 16) + m % 16) ∧ t.cl = Clusters.reset ∧ t.spr = Spring.reset ∧
    t.stw = Stewards.reset ∧ t.lnk = [] ∧ t.hst.porst = true ∧ t.hst.perst = s.hst.perst ∧
    t.att.lifecycle = s.att.lifecycle ∧ t.att.ownerCmd = s.att.ownerCmd ∧ t.att.ownerDbg = s.att.ownerDbg ∧
    t.att.custShell = s.att.custShell ∧ t.att.minVer = s.att.minVer ∧ t.att.blobSeed = s.att.blobSeed ∧
    t.pending = s.pending) ∧
  (∀ s : State, (s.chip.devState ≠ .off → exec .porstRelease s = .next s) ∧
    (s.chip.devState = .off → ∃ t, exec .porstRelease s = .next t ∧ EntersBoot s t ∧ t.hst.porst = false)) ∧
  (∀ (s : State) (who : Requester), Reaches s who (imgA 0) →
    (s.chip.devState = .boot ∨ s.chip.devState = .blank ∨ s.chip.devState = .ready ∨ s.chip.devState = .held →
      WriteOk s (.reboot who) who (fun u => EntersBoot s u)) ∧
    (s.chip.devState = .running → s.spr.waiting = false → WriteOk s (.reboot who) who (fun u => u = s))) ∧
  (∀ s : State,
    (s.chip.devState = .off → exec .perstAssert s = .next { s with hst := { s.hst with perst := true } }) ∧
    (s.chip.devState ≠ .off → feedIsOpen s = false → (∀ n, n < 32 → dmaBusy s n = false) →
      ∃ t, exec .perstAssert s = .next t ∧ t.hst.perst = true ∧ t.hst.cfgReady = false ∧ t.hst.msixEn = false ∧
        (∀ a r, regRow a = some r → rdReg t a = if r.dom = .host then regReset a else rdReg s a) ∧
        t = { s with regs := t.regs, hst := t.hst }) ∧
    exec .perstRelease s = .next { s with hst := { s.hst with perst := false } } ∧
    (s.hst.porst = false → s.hst.perst = false → s.chip.devState ≠ .off →
      exec .configReady s = .next { s with hst := { s.hst with cfgReady := true } }))

/-- The start-up sequence (R227): stage 1 sets ROM_OK and goes on to stage 2, which starts TB0 and reports the lock; stage 3 goes on
to the shell, from flash where a flash device answers and else waiting for a shell (R230); stage 5 ends in Blank once every
tree link is UP or has failed. Beyond its limit stage 1 or 3 leads to Safe, and stage 2 leaves the lock missing; stages 4 and 5
have no limit. -/
def Obligations.BootStages : Prop :=
  ∀ (s : State) (flash : Bool), s.chip.devState = .boot →
    (s.ldr.boot = 1 → ∃ t, exec (.bootStageDone flash) s = .next t ∧ t.ldr.boot = 2 ∧ rdBit t (attA 0) 7 = true ∧
      (∀ a, a ≠ attA 0 → rdReg t a = rdReg s a) ∧ t = { s with regs := t.regs, ldr := { s.ldr with boot := 2 } }) ∧
    (s.ldr.boot = 2 → ∃ t, exec (.bootStageDone flash) s = .next t ∧ t.ldr.boot = 3 ∧ t.tim.tb0 = 0 ∧
      rdBit t timStat 0 = true ∧ (∀ a, a ≠ timStat → rdReg t a = rdReg s a) ∧ t.chip = s.chip ∧ t.cel = s.cel) ∧
    (s.ldr.boot = 3 → ∃ t, exec (.bootStageDone flash) s = .next t ∧ t.ldr.boot = 4 ∧ t.chip = s.chip ∧
      (flash = true → (rxOf t 0).live = true ∧ imgState t = imgState s) ∧ (flash = false → imgState t = 2)) ∧
    (s.ldr.boot = 5 → (treeSettled s = true → ∃ t, exec (.bootStageDone flash) s = .next t ∧ t.chip.devState = .blank ∧
        t.ldr.boot = 0 ∧ t.cl = s.cl ∧ t.chip.shellUp = s.chip.shellUp) ∧
      (treeSettled s = false → exec (.bootStageDone flash) s = .next s)) ∧
    (s.ldr.boot = 1 ∨ s.ldr.boot = 3 → ∃ t, exec .bootStageTimeout s = .next t ∧ t.chip.devState = .safe ∧ t.cl = s.cl ∧
      rdFld t (attA 0) 8 4 = 7) ∧
    (s.ldr.boot = 2 → exec .bootStageTimeout s = .next { s with ldr := { s.ldr with boot := 3 } }) ∧
    (s.ldr.boot = 4 ∨ s.ldr.boot = 5 → exec .bootStageTimeout s = .next s)

/-- Delivery of a shell. A frame whose CRC holds joins the shell; with the last one the check begins (R231, R238). A bad frame
of flash is read up to three more times and then ends the attempt with E_SHELL_CRC: the backup copy follows the primary one, and
after flash the device waits with LOAD_ERR_N asserted (R232, R238). Frames from the head collect until they are taken (R233), a
bad one is requested again. SHELL_FEED opens the feed window in Boot (R234). A head answers SH_REQ with the frame that it names.
SHELL_VERIFIED puts a shell that passes every check into effect and refuses any other with its code (R237, R238). -/
def Obligations.ShellDelivery : Prop :=
  (∀ (s : State) (src l : Nat) (f : List Byte), src < 2 → s.chip.devState = .boot → s.ldr.boot = 4 → s.ldr.checking = none →
    imgState s = 1 → (rxOf s src).live = true →
    let r := rxOf s src
    let b := r.bytes ++ f.take 4096
    (frameGood f = true → shellHdrGood b = true → ∃ t, exec (.shellFrame src l f) s = .next t ∧ (rxOf t src).bytes = b ∧
      (rxOf t src).next = r.next + 1 ∧ (rxOf t src).tries = 0 ∧
      (if r.next + 1 = shellFrames b then imgState t = 3 ∧ t.ldr.checking = some src else t.regs = s.regs ∧
        t.ldr.checking = none)) ∧
    (frameGood f = false → r.tries < 3 → ∃ t, exec (.shellFrame src l f) s = .next t ∧
      rxOf t src = { r with tries := r.tries + 1 } ∧ t = { s with ldr := { s.ldr with rx := t.ldr.rx } }) ∧
    (frameGood f = false → r.tries = 3 → ∃ t, exec (.shellFrame src l f) s = .next t ∧ rdFld t (imgA 8) 0 8 = 0x29 ∧
      (src = 0 → imgState t = 1 ∧ (rxOf t 1).live = true ∧ t.chip = s.chip) ∧
      (src = 1 → imgState t = 2 ∧ t.chip.loadErr = true))) ∧
  (∀ (s : State) (l : Nat) (f : List Byte), s.chip.devState = .boot → s.ldr.boot = 4 → s.ldr.checking = none →
    imgState s = 2 → 4100 ≤ (rxOf s 2).buf.length → frameGood ((rxOf s 2).buf.take 4100) = false → (rxOf s 2).tries < 3 →
    ∃ t src, exec (.shellFrame 2 l f) s = .next t ∧ (rxOf t 2).tries = (rxOf s 2).tries + 1 ∧ (rxOf t 2).buf = [] ∧
      (rxOf t 2).bytes = (rxOf s 2).bytes ∧ t.outbox = .service l 0x21 src 0 (leBytes 2 (rxOf s 2).next) :: s.outbox) ∧
  (∀ (s : State) (l : Nat) (f : List Byte), s.chip.devState = .boot → s.chip.shellUp = false → linkState s l = 10 → l < 64 →
    s.ldr.checking ≠ some 2 → ∃ t, exec (.shFrame l ((rxOf s 2).next + (rxOf s 2).buf.length / 4100) f) s = .next t ∧
      rxOf t 2 = { rxOf s 2 with live := true, buf := (rxOf s 2).buf ++ f } ∧
      t = { s with ldr := { s.ldr with rx := t.ldr.rx } }) ∧
  (∀ (s : State) (l i : Nat) (b : List Byte) (q : List (Nat × List Byte)), s.ldr.serve = (l, b) :: q → s.chip.shellUp = true →
    linkState s l = 10 → 4096 * i < b.length → ∃ t src, exec (.shReq l i) s = .next t ∧
      t.outbox = .service l 0x20 src 0xFFF (leBytes 2 i ++ frameOf b i) :: s.outbox ∧ t.regs = s.regs ∧ t.ldr = s.ldr) ∧
  (∀ (s : State) (who : Requester), Reaches s who (imgA 0) → s.chip.devState = .boot → s.chip.shellUp = false →
    s.ldr.checking ≠ some 3 → WriteOk s (.shellFeed who) who (fun u => feedIsOpen u = true ∧ feedPos u = 0 ∧
      rxOf u 3 = { ShellRx.reset with live := true } ∧ u.chip = s.chip ∧ u.cl = s.cl)) ∧
  (∀ (s : State) (src : Nat), s.ldr.checking = some src → src < 4 → s.chip.devState = .boot → s.ldr.boot = 4 →
    let b := (rxOf s src).bytes
    ∃ t, exec .shellVerified s = .next t ∧ t.chip.devState = .boot ∧ t.ldr.checking = none ∧
      (match shellCode b s with
       | none => t.chip.shellUp = true ∧ t.chip.loadErr = false ∧ t.ldr.boot = 5 ∧ t.ldr.rx = [] ∧
           rdReg t (imgA 0x50) = BitVec.ofNat 32 (shellVersion b) ∧ rdFld t imgStat 10 2 = src
       | some code => t.chip.shellUp = s.chip.shellUp ∧ rdFld t (imgA 8) 0 8 = code ∧ t.crt = s.crt ∧ t.stw = s.stw ∧
           (src ≠ 0 → imgState t = 2 ∧ t.chip.loadErr = true)))

/-- Requests to the loader. The root begins a load that it accepts: it enters Loading, forgets all model state and sends LD_BEGIN
to its children; it refuses one by REQ_REJ (R249). RELOAD opens the feed window (R263). A device that is not the root forwards
LOAD and RELOAD to the root as RREQ (R249). ABORT ends the load with E_ABORT before LD_COMMIT, and comes too late after it (R257).
A write of the feed window moves IMG_FEED_POS and passes the bytes on (R250); while the window is closed it is refused. -/
def Obligations.LoadRequests : Prop :=
  (∀ (s : State) (who : Requester), Reaches s who (imgA 0) → s.chip.shellUp = true → s.crt.isRoot = true →
    (s.ldr.domain = 0 → enumState s = 3 → domainLoadable s = true → WriteOk s (.load who) who (fun u =>
      u.chip.devState = .loading ∧ imgState u = 4 ∧ u.cl = Clusters.reset ∧ u.ldr.kind = 1 ∧ u.ldr.domain = 1 ∧
      u.ldr.acks = [0] ∧ (domainSize s = 1 → feedIsOpen u = true ∧ feedPos u = 0) ∧
      ∀ l ∈ presentLinks s, ∃ src, .service l 0x10 src 0xFFF (leBytes 4 1) ∈ u.outbox)) ∧
    (rootLoad s = none → WriteOk s (.load who) who (fun u => rdBit u imgStat 6 = true ∧ OnlyRegs s u [imgStat])) ∧
    (s.ldr.domain = 0 → enumState s = 3 → WriteOk s (.reload who) who (fun u => feedIsOpen u = true ∧ feedPos u = 0 ∧
      u.ldr.domain = 2 ∧ u.ldr.resident = s.ldr.resident ∧ u.cl = s.cl ∧ u.chip = s.chip)) ∧
    (s.ldr.domain = 1 → s.ldr.sent = true → WriteOk s (.abort who) who (fun u =>
      rdBit u imgStat 7 = true ∧ OnlyRegs s u [imgStat])) ∧
    (s.ldr.domain = 1 → s.ldr.kind = 1 → s.ldr.sent = false → WriteOk s (.abort who) who (fun u => LoadFails s u 0x27))) ∧
  (∀ (s : State) (who : Requester) (l : Nat), Reaches s who (imgA 0) → s.chip.shellUp = true → s.crt.isRoot = false →
    routeTo s 0 = .link l →
    WriteOk s (.load who) who (fun u => ForwardsToRoot s u l 0x80000001) ∧
    WriteOk s (.reload who) who (fun u => ForwardsToRoot s u l 0x80000002)) ∧
  (∀ (s : State) (who : Requester) (ofs : Nat) (bytes : List Byte), canIssue s who = true → ofs < 0x8000 →
    (feedIsOpen s = false → Refuses s (.feedWrite who ofs bytes) who true) ∧
    (feedIsOpen s = true → ofs % 4 = 0 → bytes.length % 4 = 0 → feedPos s + bytes.length < 2 ^ 48 →
      (s.chip.devState = .boot → WriteOk s (.feedWrite who ofs bytes) who (fun u =>
        (rxOf u 3).buf = (rxOf s 3).buf ++ bytes ∧ feedPos u = feedPos s + bytes.length)) ∧
      (s.chip.devState ≠ .boot → s.ldr.domain = 1 → s.ldr.kind = 1 → bytes.length ≤ feedCredit s →
        s.ldr.stream.length + bytes.length < 256 → WriteOk s (.feedWrite who ofs bytes) who (fun u =>
          u.ldr.stream = s.ldr.stream ++ bytes ∧ feedPos u = feedPos s + bytes.length ∧
          ∀ l ∈ presentLinks s, ∃ src, .service l 0x12 src 0xFFF (leBytes 6 (feedPos s) ++ bytes) ∈ u.outbox)) ∧
      (s.chip.devState ≠ .boot → s.ldr.domain = 1 → s.ldr.kind = 1 → feedCredit s < bytes.length →
        WriteOk s (.feedWrite who ofs bytes) who (fun u => LoadFails s u 0x22))))

/-- The broadcast of a load (R246, R249, R252). LD_BEGIN passes on to the children, and takes a Blank, Ready or Held device to
Loading with all model state at its reset value; it answers LD_ACK. On a reload's target it begins staging (R263). LD_ACK passes
up; with the last one the root opens the feed window. LD_DATA passes on and joins the stream. Timeouts of R249 and R258 and an
LD_ABORT end the load with their code, and a device in Loading returns to Blank (R257). -/
def Obligations.LoadBroadcast : Prop :=
  (∀ (s : State) (l target : Nat), fromUp s l = true →
    ((s.chip.devState = .blank ∨ s.chip.devState = .ready ∨ s.chip.devState = .held) →
      ∃ t src, exec (.ldBegin l 1 target) s = .next t ∧ t.chip.devState = .loading ∧ imgState t = 4 ∧ t.cl = Clusters.reset ∧
        t.spr.tick = 0 ∧ t.ldr.kind = 1 ∧ t.ldr.stream = [] ∧ t.ldr.staged = [] ∧ .service l 0x11 src 0 [] ∈ t.outbox ∧
        ∀ c ∈ presentLinks s, ∃ src, .service c 0x10 src 0xFFF (leBytes 4 1) ∈ t.outbox) ∧
    (s.chip.devState = .running → ∃ t, exec (.ldBegin l 1 target) s = .next t ∧ t.chip = s.chip ∧ t.cl = s.cl ∧
      t.ldr = s.ldr ∧ t.regs = s.regs) ∧
    (routeTo s target = .self → s.ldr.kind = 0 → ∃ t, exec (.ldBegin l 2 target) s = .next t ∧ imgState t = 12 ∧
      t.ldr.kind = 2 ∧ t.ldr.resident = s.ldr.resident ∧ t.cl = s.cl ∧ t.chip = s.chip) ∧
    (∀ k, routeTo s target = .link k → ∃ t, exec (.ldBegin l 2 target) s = .next t ∧
      t.outbox = .service k 0x10 0 target (leBytes 2 2 ++ leBytes 2 target) :: s.outbox ∧ t.ldr = s.ldr)) ∧
  (∀ (s : State) (l src : Nat), fromDown s l = true →
    (s.crt.isRoot = true → s.ldr.domain = 1 → src ∉ s.ldr.acks → ∃ t, exec (.ldAck l src) s = .next t ∧
      t.ldr.acks = s.ldr.acks ++ [src] ∧
      (if s.ldr.acks.length + 1 = domainSize s then feedIsOpen t = true ∧ feedPos t = 0 else t.regs = s.regs)) ∧
    (s.crt.isRoot = false → ∀ k, s.crt.uplink = some k → ∃ t, exec (.ldAck l src) s = .next t ∧
      t.outbox = .service k 0x11 src 0 [] :: s.outbox ∧ t.ldr = s.ldr)) ∧
  (∀ (s : State) (l : Nat) (bytes : List Byte), fromUp s l = true → s.ldr.stream.length + bytes.length < 256 →
    (s.ldr.kind = 1 → s.chip.devState = .loading → imgState s = 4 ∨ imgState s = 5 →
      ∃ t, exec (.ldData l s.ldr.stream.length 0xFFF bytes) s = .next t ∧ t.ldr.stream = s.ldr.stream ++ bytes ∧
        imgState t = 5 ∧ ∀ c ∈ presentLinks s, ∃ src,
          .service c 0x12 src 0xFFF (leBytes 6 s.ldr.stream.length ++ bytes) ∈ t.outbox) ∧
    (s.ldr.kind = 2 → routeTo s (devAddr s) = .self → devAddr s ≠ 0xFFF → imgState s = 12 →
      ∃ t, exec (.ldData l s.ldr.stream.length (devAddr s) bytes) s = .next t ∧ t.ldr.stream = s.ldr.stream ++ bytes ∧
        imgState t = 12)) ∧
  (∀ s : State, s.crt.isRoot = true → s.ldr.domain = 1 → s.ldr.kind = 1 →
    (s.ldr.acks.length < domainSize s → ∃ t, exec .ldAckTimeout s = .next t ∧ LoadFails s t 0x26) ∧
    (feedIsOpen s = true → ∃ t, exec .loadStallTimeout s = .next t ∧ LoadFails s t 0x23) ∧
    (s.ldr.waiting = true → s.chip.devState = .loading → ∃ t, exec .linkWaitTimeout s = .next t ∧ LoadFails s t 0x25)) ∧
  (∀ (s : State), s.crt.isRoot = false → s.ldr.waiting = true → s.chip.devState = .loading →
    ∃ t, exec .linkWaitTimeout s = .next t ∧ VotesFail s t { code := 0x25, dev := devAddr s, sect := 0, loc := 0 }) ∧
  (∀ (s : State) (l : Nat) (e : LdErr), fromUp s l = true → s.ldr.kind = 1 → e.code < 256 →
    ∃ t, exec (.ldAbort l 0xFFF e) s = .next t ∧ LoadFails s t e.code)

/-- Votes and commit (R255, R256). LOAD_CHECKS_DONE without a finding is this device's PASS: sent up once every child has voted
PASS, and at the root the order to commit. A child's FAIL aborts at the root and passes up elsewhere (R257). LD_COMMIT writes the
staged sections and the initial frames, keeps the resident copy and waits for the links; a staged line that fails its check is
E_COMMIT. ENTER_READY with every link of the map trained leaves the device Ready and sends LD_READY; the load is DONE at the root
with the last one. -/
def Obligations.LoadVoteAndCommit : Prop :=
  (∀ s : State, s.ldr.kind = 1 → imgState s = 6 → s.ldr.mine = none → s.ldr.voted = false →
    (∀ l ∈ presentLinks s, (l, none) ∈ s.ldr.votes) → (s.crt.isRoot = true → s.ldr.domain = 1) →
    ∃ t, exec .loadChecksDone s = .next t ∧ t.cl = s.cl ∧
      (match firstFinding (imageFindings s.ldr.staged s) with
       | none => t.ldr.mine = some none ∧ t.ldr.voted = true ∧ imgState t = 7 ∧ t.chip = s.chip ∧
           (s.crt.isRoot = false → ∀ l, s.crt.uplink = some l → ∃ src, .service l 0x13 src 0 (leBytes 12 0) ∈ t.outbox) ∧
           (s.crt.isRoot = true → t.ldr.sent = true ∧ feedIsOpen t = false ∧
             ∀ l ∈ presentLinks s, ∃ src, .service l 0x14 src 0xFFF [] ∈ t.outbox)
       | some f => (s.crt.isRoot = false → VotesFail s t (findErr (devAddr s) f)) ∧
           (s.crt.isRoot = true → t.chip.loadErr = true ∧ imgState t = 11 ∧ t.ldr.kind = 0))) ∧
  (∀ (s : State) (l src : Nat), fromDown s l = true → s.ldr.kind = 1 → s.ldr.waiting = false →
    (s.ldr.mine = none → ∃ t, exec (.ldVote l src none) s = .next t ∧ (l, none) ∈ t.ldr.votes ∧ t.regs = s.regs ∧
      t.outbox = s.outbox) ∧
    (∀ e : LdErr, e.code < 256 → s.ldr.voted = false →
      (s.crt.isRoot = true → s.ldr.domain = 1 → ∃ t, exec (.ldVote l src (some e)) s = .next t ∧ LoadFails s t e.code) ∧
      (s.crt.isRoot = false → ∃ t, exec (.ldVote l src (some e)) s = .next t ∧ VotesFail s t e))) ∧
  (∀ (s : State) (l : Nat), fromUp s l = true → s.ldr.kind = 1 → s.chip.devState = .loading → s.ldr.mine = some none →
    s.ldr.waiting = false →
    (∃ t, exec (.ldCommit l none) s = .next t ∧ t.ldr.waiting = true ∧ imgState t = 9 ∧ t.chip.devState = .loading ∧
      t.cl = (s.ldr.staged.foldl (fun x q => fillInitial q x)
        (writeSections s.ldr.staged (sendServiceDown 0x14 0xFFF [] s))).cl ∧
      t.ldr.resident = s.ldr.staged.filter (fun q => q.sect.typ ≠ 0x17)) ∧
    (∀ line, s.crt.isRoot = false → ∃ t, exec (.ldCommit l (some line)) s = .next t ∧
      VotesFail s t { code := 0x28, dev := devAddr s, sect := 0, loc := 0 })) ∧
  (∀ s : State, s.ldr.waiting = true → s.chip.devState = .loading →
    (∀ l, l < 64 → linkMode s l ≠ 0 → linkReady s l = true) → grantMismatch s = none →
    ∃ t, exec .enterReady s = .next t ∧ t.chip.devState = .ready ∧ t.cl.pond = s.cl.pond ∧ t.cl.rows = s.cl.rows ∧
      (s.crt.isRoot = false → imgState t = 10 ∧ t.ldr.kind = 0 ∧ t.chip.loadErr = false ∧
        ∀ l, s.crt.uplink = some l → ∃ src, .service l 0x15 src 0 [] ∈ t.outbox) ∧
      (s.crt.isRoot = true → s.ldr.readys = [] → domainSize s = 1 → imgState t = 10 ∧ t.ldr.domain = 0)) ∧
  (∀ (s : State) (l src : Nat), fromDown s l = true →
    (s.crt.isRoot = true → s.ldr.domain = 1 → src ∉ s.ldr.readys →
      ∃ t, exec (.ldReady l src) s = .next t ∧ t.ldr.readys = s.ldr.readys ++ [src] ∧
        (if s.ldr.readys.length + 1 = domainSize s then imgState t = 10 ∧ t.ldr.domain = 0 ∧ t.chip.loadErr = false
         else t.regs = s.regs ∧ t.ldr.domain = 1)) ∧
    (s.crt.isRoot = true → s.ldr.domain = 2 → s.ldr.target = some src →
      ∃ t, exec (.ldReady l src) s = .next t ∧ t.ldr.domain = 0 ∧ t.ldr.target = none ∧ feedIsOpen t = false) ∧
    (s.crt.isRoot = false → ∀ k, s.crt.uplink = some k → ∃ t, exec (.ldReady l src) s = .next t ∧
      t.outbox = .service k 0x15 src 0 [] :: s.outbox ∧ t.ldr = s.ldr))

/-- Shelf reload (R264 to R269). RELOAD_VERIFIED with a finding ends the reload and changes nothing else; without one it begins
writing in Ready and Held, and while Running fixes J_d, the epoch from whose start the shelf is detached. RELOAD_WRITES_DONE
completes the reload in Ready and Held and fixes J_j while Running. A border cell takes a write of its mode, but while its shelf
is detached the write is refused (R280). -/
def Obligations.ShelfReload : Prop :=
  (∀ s : State, s.ldr.kind = 2 → imgState s = 12 → s.ldr.mine = none → s.ldr.tblDone = true →
    (imgHdr s.ldr.stream).nsect ≤ s.ldr.ended →
    (s.chip.devState = .ready ∨ s.chip.devState = .held ∨ s.chip.devState = .running) → afterNextX129 s < 2 ^ 48 →
    ∃ t, exec .reloadVerified s = .next t ∧ t.chip.devState = s.chip.devState ∧ t.spr = s.spr ∧
      (match firstFinding (reloadAll (imgHdr s.ldr.stream) s.ldr.staged s) with
       | some _ => t.cl = s.cl ∧ (s.crt.isRoot = false → t.ldr.kind = 0 ∧ imgState t = 11 ∧ rdBit t imgStat 9 = true)
       | none => t.ldr.mine = some none ∧
           (if s.chip.devState = .running then imgState t = 13 ∧ rlJd t = some (afterNextX129 s) ∧ t.cl = s.cl
            else imgState t = 14))) ∧
  (∀ s : State, s.ldr.kind = 2 → imgState s = 14 →
    (s.chip.devState = .running → afterNextX129 s < 2 ^ 48 → ∃ t, exec .reloadWritesDone s = .next t ∧ imgState t = 15 ∧
      rlJj t = some (afterNextX129 s) ∧ t.cl = s.cl ∧ t.ldr = s.ldr) ∧
    (s.chip.devState = .ready ∨ s.chip.devState = .held → s.crt.isRoot = false → ∃ t, exec .reloadWritesDone s = .next t ∧
      imgState t = 10 ∧ t.ldr.kind = 0 ∧ t.ldr.staged = [] ∧ detached t s.ldr.shelf = false ∧ t.chip = s.chip ∧
      ∀ l, s.crt.uplink = some l → ∃ src, .service l 0x15 src 0 [] ∈ t.outbox)) ∧
  (∀ (s : State) (who : Requester) (h k : Nat) (v : Word) (r : RegRow), h < 16 → k < 0x4000 →
    let a := shfA h (0x10000 + 4 * k)
    Reaches s who a → regRow a = some r → ruleOpen r s = true →
    (detached s h = true → Refuses s (.borderModeWrite who h k v) who true) ∧
    (detached s h = false → WriteOk s (.borderModeWrite who h k v) who (fun u => OnlyRegs s u [a] ∧
      ∀ i, i < 32 → bit (rdReg u a) i = bitWritten r (lockOpen s) (rdReg s a) v i)))

/-! ### Compare and acquisition (chapter 07) -/

/-- The mover (R302, R303, R304, R306, R309, R313). It takes the next record of its epoch from the stage. While acquisition is IDLE
nothing else changes; a pre-trigger record goes to slot TOTAL modulo the ring, a post-trigger record to WSLOT, each as the 64
bytes of R289, and no other byte of the cellar changes; after the end it is counted in DROP. A BMAP record is ORed into its
bitmap entry. A record on a poisoned line sets MOVE_ERR and is reported. MOVER_EPOCH_DONE ends the epoch, and with CMP_NOTIFY.EN
posts CMP_ACQ_TOTAL to flow FLOW + c for each context c that gained a failing record (R315). -/
def Obligations.MoverMovesRecords : Prop :=
  (∀ (s : State) (r : CmpRec) (l : List CmpRec) (e : Nat), s.cmp.moving = some e → s.cmp.stage = r :: l → r.epoch = e →
    (∀ x ∈ l, ¬ (x.epoch = e ∧ x.idx = r.idx)) →
    let w := acqTotal s
    let c := acqCap s
    let at' := fun (slot : Nat) => rdFld s (cmpA 8) 0 26 * 1024 + 64 * slot
    let stored := fun (t : State) (slot : Nat) (q : CmpRec) =>
      (∀ i, i < 64 → mapGet 0#8 t.cel.mem (at' slot + i) = (recBytes (devAddr s) q).getD i 0#8) ∧
      (∀ a, a < at' slot ∨ at' slot + 64 ≤ a → mapGet 0#8 t.cel.mem a = mapGet 0#8 s.cel.mem a) ∧ acqTotal t = w + 1
    (celPoisoned s (stageOffset s r) = true → acqState s = 0 → rdFld s (cmpA 0x10) 4 3 = 0 →
      ∃ t, exec .moverRecord s = .next t ∧ t.cmp.stage = l ∧ rdBit t (cmpA 0x58) 3 = true ∧ t.cel = s.cel ∧
        (∃ q, t.att.reports = s.att.reports ++ [q] ∧ q.kind = 0x22)) ∧
    (celPoisoned s (stageOffset s r) = false →
      (r.kind ≠ .bmap → rdFld s (cmpA 0x10) 4 3 = 0 →
        (acqState s = 0 → exec .moverRecord s = .next { s with cmp := { s.cmp with stage := l, lastGood := r.tick } }) ∧
        (acqState s = 1 ∨ acqState s = 2 → w + 1 < 2 ^ 48 →
          let ring := if s.cmp.compat then c else s.cmp.pre
          ring ≠ 0 → lineCtr s (at' (w % ring) / 64) < 0xFFF00000 → ∃ t, exec .moverRecord s = .next t ∧ t.cmp.stage = l ∧
            stored t (w % ring) { r with aux := w } ∧ (rdReg t (cmpA 0x2C)).toNat = (w + 1) % ring % 2 ^ 32 ∧
            acqState t = (if s.cmp.compat = false ∧ s.cmp.pre ≤ w + 1 then 2 else acqState s)) ∧
        (acqState s = 3 → w + 1 < 2 ^ 48 → lineCtr s (at' (rdReg s (cmpA 0x2C)).toNat / 64) < 0xFFF00000 →
          ∃ t, exec .moverRecord s = .next t ∧ t.cmp.stage = l ∧
            stored t (rdReg s (cmpA 0x2C)).toNat { r with aux := w, post := true } ∧
            t.cmp.postCnt = s.cmp.postCnt + 1 ∧
            acqState t = (if (rdReg s (cmpA 0x38)).toNat ≤ s.cmp.postCnt + 1 then 4 else 3)) ∧
        (acqState s = 4 → ∃ t, exec .moverRecord s = .next t ∧ t.cel = s.cel ∧ t.cmp.stage = l ∧
          rdFld t (cmpA 0x40) 0 32 = min (2 ^ 32 - 1) (rdFld s (cmpA 0x40) 0 32 + 1) ∧
          ∀ a, a ≠ cmpA 0x40 → rdReg t a = rdReg s a)) ∧
      (r.kind = .bmap →
        let b := fld (portW s r.source 0) 29 2
        let n := 2 ^ rdFld s (cmpA (0xE0 + 8 * b)) 5 3
        let off := rdFld s (cmpA (0xE4 + 8 * b)) 0 26 * 1024 + r.aux % 2 ^ rdFld s (cmpA (0xE0 + 8 * b)) 0 5 * n
        n ≤ 32 → celPoisoned s off = false → mapGet false s.cel.upset (off / 64) = false → lineCtr s (off / 64) < 0xFFF00000 →
        ∃ t, exec .moverRecord s = .next t ∧ t.cmp.stage = l ∧ t.regs = s.regs ∧
          (∀ i, i < n → mapGet 0#8 t.cel.mem (off + i) =
            mapGet 0#8 s.cel.mem (off + i) ||| BitVec.ofNat 8 (r.payload.toNat / 2 ^ (8 * i))) ∧
          ∀ a, a < off ∨ off + n ≤ a → mapGet 0#8 t.cel.mem a = mapGet 0#8 s.cel.mem a))) ∧
  (∀ (s : State) (e : Nat), s.cmp.moving = some e → (∀ r ∈ s.cmp.stage, r.epoch ≠ e) → rdFld s (cmpA 0x10) 4 3 = 0 →
    s.cmp.moveQ = [] →
    (rdBit s (cmpA 0xC) 15 = false →
      exec .moverEpochDone s = .next { s with cmp := { s.cmp with moving := none } }) ∧
    (∀ c, c < 8 → rdBit s (cmpA 0xC) 15 = true → s.cmp.gained = 1#8 <<< c →
      let p := physOf s (rdFld s (cmpA 0xC) 0 8)
      let f := rdFld s (cmpA 0xC) 8 7 + c
      shelfOn s (p / 17) = true → rdBit s (tskA p 0) 0 = true → (flowOf (schedOf s p) f).items.length < flowLimit s p f →
      poolCount (schedOf s p) < 4096 → ∃ t, exec .moverEpochDone s = .next t ∧ t.cmp.moving = none ∧
        (flowOf (schedOf t p) f).items = (flowOf (schedOf s p) f).items ++ [{ value := rdReg s (cmpA 0x48), flips := 0 }] ∧
        t.cel = s.cel ∧ t.cl = s.cl))

/-- Controls of acquisition and compare. While the mover is idle and the device is not Running, ARM latches PRE (at most C) and
POST, clears the position registers and goes to PRE, or to WAIT in native mode with PRE = 0; DISARM wins over ARM and goes to
IDLE, TRIG becomes pending, and the other controls are stored (R304, R305, R307); else they wait for the mover's next epoch.
Settings of R286 are stored at once in Ready and Held and staged while Running; CLR clears the sweep counters (R316). CMP_NOTIFY
with EN = 1 and FLOW above 120 is refused (R315). A rising edge on an input is latched, and triggers under TSRC 4 (R307, R711). -/
def Obligations.AcquisitionControls : Prop :=
  (∀ (s : State) (who : Requester) (v : Word), Reaches s who (cmpA 0x10) →
    (s.cmp.moving = none → s.chip.devState ≠ .running →
      (bit v 1 = false → WriteOk s (.arm who v) who (fun u =>
        let pre := (rdReg s (cmpA 0x14)).toNat
        let p := min (acqCap s) pre
        u.cmp.pre = p ∧ u.cmp.post = (rdReg s (cmpA 0x18)).toNat ∧ u.cmp.compat = bit v 3 ∧ u.cmp.postCnt = 0 ∧
        acqState u = (if bit v 3 = false ∧ p = 0 then 2 else 1) ∧ rdBit u acqStat 5 = decide (acqCap s < pre) ∧
        rdBit u acqStat 3 = false ∧ rdBit u acqStat 4 = false ∧ rdBit u acqStat 6 = (rdBit s acqStat 6 || bit v 2) ∧
        rdReg u (cmpA 0x10) = v &&& 0x78 ∧
        (∀ o ∈ [0x2C, 0x30, 0x34, 0x38, 0x3C, 0x40, 0x48, 0x4C, 0x50, 0x54], rdReg u (cmpA o) = 0) ∧
        rdReg u (cmpA 0x14) = rdReg s (cmpA 0x14) ∧ u.cel = s.cel ∧ u.cmp.stage = s.cmp.stage)) ∧
      WriteOk s (.disarm who v) who (fun u => acqState u = 0 ∧ rdReg u (cmpA 0x10) = v &&& 0x78 ∧
        rdBit u acqStat 6 = (rdBit s acqStat 6 || (bit v 2 && !bit v 0)) ∧ (∀ a, a ≠ cmpA 0x10 → a ≠ acqStat → rdReg u a = rdReg s a) ∧
        u = { s with regs := u.regs }) ∧
      (bit v 0 = false → bit v 1 = false → WriteOk s (.trig who v) who (fun u => rdBit u acqStat 6 = true ∧
        acqState u = acqState s ∧ rdReg u (cmpA 0x10) = v &&& 0x78 ∧ u = { s with regs := u.regs }))) ∧
    (s.cmp.moving ≠ none ∨ s.chip.devState = .running →
      WriteOk s (.arm who v) who (fun u => u.cmp.ctlPend = s.cmp.ctlPend ++ [(cmpA 0x10, v ||| 1)] ∧
        (∀ a, a ≠ acqStat → rdReg u a = rdReg s a) ∧ acqState u = acqState s))) ∧
  (∀ (s : State) (who : Requester) (o : Nat) (v : Word), o ∈ [0x14, 0x18, 0x1C, 0x20, 0x24] → Reaches s who (cmpA o) →
    (s.cmp.moving = none → s.chip.devState ≠ .running → WriteOk s (.acqControlWrite who o v) who (fun u =>
      rdReg u (cmpA o) = (if o = 0x1C then v &&& 0x1FF else if o = 0x24 then v &&& 0xFFFF else v) ∧
      (∀ a, a ≠ cmpA o → rdReg u a = rdReg s a) ∧ u = { s with regs := u.regs })) ∧
    (s.cmp.moving ≠ none ∨ s.chip.devState = .running → WriteOk s (.acqControlWrite who o v) who (fun u =>
      u = { s with cmp := { s.cmp with ctlPend := s.cmp.ctlPend ++ [(cmpA o, v)] } }))) ∧
  (∀ (s : State) (who : Requester) (o : Nat) (v : Word), isCmpSetting (cmpA o) = true → o ≠ 0x70 → Reaches s who (cmpA o) →
    (s.chip.devState = .ready ∨ s.chip.devState = .held → WriteOk s (.cmpStagedWrite who o v) who (fun u =>
      rdReg u (cmpA o) = v &&& cmpMask (cmpA o) ∧ (∀ a, a ≠ cmpA o → rdReg u a = rdReg s a) ∧ u = { s with regs := u.regs })) ∧
    (s.chip.devState = .running → s.spr.pos ≠ .extension → WriteOk s (.cmpStagedWrite who o v) who (fun u =>
      mapGet 0#32 u.cmp.staged (cmpA o) = v &&& cmpMask (cmpA o) ∧
      u = { s with cmp := { s.cmp with staged := u.cmp.staged } }))) ∧
  (∀ (s : State) (who : Requester) (v : Word), Reaches s who (cmpA 0x70) →
    (s.chip.devState = .ready ∨ s.chip.devState = .held → WriteOk s (.sweepClr who v) who (fun u =>
      u.cmp.live.mis = [] ∧ u.cmp.live.first = [] ∧ rdReg u (cmpA 0x70) = v &&& 1 ∧
      (∀ a, a ≠ cmpA 0x70 → rdReg u a = rdReg s a) ∧ u.cl = s.cl))) ∧
  (∀ (s : State) (who : Requester) (v : Word), Reaches s who (cmpA 0xC) →
    (bit v 15 = true → 120 < fld v 8 7 → Refuses s (.cmpNotifyWrite who v) who true) ∧
    (bit v 15 = false ∨ fld v 8 7 ≤ 120 → WriteOk s (.cmpNotifyWrite who v) who (fun u =>
      rdFld u (cmpA 0xC) 0 16 = fld v 0 16 ∧ OnlyRegs s u [cmpA 0xC]))) ∧
  (∀ (s : State) (i : Nat), i < 16 → s.chip.devState ≠ .off → rdBit s (hstA 0x20) i = false →
    ∃ t, exec (.gpioRisingEdge i) s = .next t ∧ rdBit t (hstA 0x2C) i = true ∧
      rdBit t acqStat 6 = (rdBit s acqStat 6 || (decide (rdFld s (cmpA 0x10) 4 3 = 4) && decide (rdFld s (cmpA 0x1C) 0 9 = i))) ∧
      (∀ a, a ≠ hstA 0x2C → a ≠ acqStat → rdReg t a = rdReg s a) ∧ t = { s with regs := t.regs })

/-! ### Hersel links and stream ports (chapter 08) -/

/-- Training (R346 to R351, R389). A link of the link map takes its states in order when their work is done: a tree link DETECT, LOCK,
EQ, ALIGN, MEASURE, SERVICE, PIN, UP, a stream port DETECT, LOCK, ALIGN, UP; Λ of PIN fixes SLACK, or fails the attempt with LATENCY
or ELASTIC. TS1 names the far end. TS2 agrees or fails with CONFIG, and so does the sixteenth block in a row that fails its CRC. A
MARK is returned 64 steps after it arrived; the echo gives the round trip R, and Λ_0 + MARGIN > TARGET fails with LATENCY. A
stage limit fails the attempt with the code of R389, and RETRAIN restarts from DETECT. The QMAX that TS2 fixes is left open
(log entry 55). -/
def Obligations.LinkTraining : Prop :=
  (∀ (s : State) (l : Nat) (x : TrainSet), l < 64 → training s l = true → rdFld s (linkA l 0xC) 8 2 < 3 →
    (x.good = true → exec (.ts1 l x) s = .next (putLink l (fun k =>
      { k with badBlocks := 0, farDev := x.device % 4096, farLink := x.link }) s)) ∧
    (x.good = false → ∃ t, exec (.ts1 l x) s = .next t ∧
      ((linkOf s l).badBlocks < 15 → t = putLink l (fun k => { k with badBlocks := k.badBlocks + 1 }) s) ∧
      ((linkOf s l).badBlocks = 15 → TrainFails s t l 4)) ∧
    (linkState s l = 4 → x.good = true → ∃ t, exec (.ts2 l x) s = .next t ∧
      (x.shape % 64 = ownShape s l → x.rate = rdFld s (linkA l 0) 3 2 → x.target = rdFld s (linkA l 4) 0 16 →
        (linkOf t l).agreed = true ∧ (linkOf t l).farSlots = x.slots ∧ linkState t l = 4 ∧
        rdFld t (linkA l 8) 24 6 = (if linkMode s l = 2 then 0 else
          min (min x.slots (rdFld s (linkA l 0) 17 6)) (slotLimit (rdFld s (linkA l 0) 13 4 + 1) (rdFld s (linkA l 0) 3 2))) ∧
        OnlyLink s t l) ∧
      (x.shape % 64 ≠ ownShape s l ∨ x.rate ≠ rdFld s (linkA l 0) 3 2 ∨ x.target ≠ rdFld s (linkA l 4) 0 16 →
        TrainFails s t l 4)) ∧
    (linkMode s l = 1 → ∀ stamp step, exec (.mark l stamp step) s = .next (putLink l (fun k =>
      { k with marks := k.marks ++ [(stamp % 65536, step)] }) s)) ∧
    (∃ t, exec (.linkStageTimeout l) s = .next t ∧
      TrainFails s t l (if linkState s l ≤ 3 then linkState s l else 7)) ∧
    (linkMode s l = 1 → linkState s l = 5 → ∀ r, r < 65536 → ∃ t, exec (.markEcho l r) s = .next t ∧
      rdReg t (linkA l 0x20) = BitVec.ofNat 32 r ∧
      (if rdFld s (linkA l 4) 0 16 < (r - 64 + 1) / 2 + rdFld s (linkA l 4) 24 8 + 23 + rdFld s (linkA l 4) 16 8
        then TrainFails s t l 5 else (linkOf t l).measured = true ∧ linkState t l = 5 ∧ OnlyLink s t l))) ∧
  (∀ (s : State) (l stamp step : Nat), l < 64 → 64 ≤ step → (stamp, step - 64) ∈ (linkOf s l).marks →
    ∃ t, exec (.markReturn l stamp step) s = .next t ∧ t.outbox = .markEcho l stamp :: s.outbox ∧
      (linkOf t l).marks = (linkOf s l).marks.erase (stamp, step - 64) ∧ t.regs = s.regs ∧ t.cl = s.cl) ∧
  (∀ (s : State) (l lam : Nat), l < 16 → linkMode s l = 0 → s.chip.devState = .boot → s.chip.shellUp = false →
    ∃ t, exec (.linkStateDone l lam false) s = .next t ∧ linkState t l = 10 ∧ OnlyLink s t l) ∧
  (∀ (s : State) (l lam : Nat), l < 64 → linkMode s l ≠ 0 → rdFld s (linkA l 0xC) 8 2 < 3 → lam < 65536 →
    ∃ t, exec (.linkStateDone l lam false) s = .next t ∧
      (linkState s l = 1 → linkState t l = 2 ∧ OnlyLink s t l) ∧
      (linkState s l = 2 → linkState t l = (if linkMode s l = 2 then 4 else 3) ∧ OnlyLink s t l) ∧
      (linkState s l = 3 → linkState t l = 4 ∧ OnlyLink s t l) ∧
      (linkState s l = 4 → (linkOf s l).agreed = true → linkState t l = (if linkMode s l = 2 then 8 else 5)) ∧
      (linkState s l = 5 → (linkOf s l).measured = true → linkState t l = 6 ∧ OnlyLink s t l) ∧
      (linkState s l = 6 → rdBit s (timA 4) 1 = true → linkState t l = 7 ∧ OnlyLink s t l) ∧
      (linkState s l = 7 → rdFld t (linkA l 8) 0 16 = lam ∧
        (if rdFld s (linkA l 4) 0 16 < lam + rdFld s (linkA l 4) 16 8 then TrainFails s t l 5
         else if 256 < rdFld s (linkA l 4) 0 16 - lam then TrainFails s t l 6
         else linkState t l = 8 ∧ rdFld t (linkA l 8) 16 8 = min 255 (rdFld s (linkA l 4) 0 16 - lam) ∧
           rdFld t (linkA l 0xC) 4 4 = 0 ∧ rdFld t (linkA l 0xC) 8 2 = 0))) ∧
  (∀ (s : State) (who : Requester) (l : Nat), l < 64 → linkMode s l = 1 → Reaches s who (linkA l 0x10) →
    linkState s l ≠ 11 → rdReg s (linkA l 0x10) = 0 → linkState s l ≠ 8 →
    WriteOk s (.retrain who l) who (fun u => linkState u l = 1 ∧ rdFld u (linkA l 0xC) 4 4 = 0 ∧
      rdFld u (linkA l 0xC) 8 2 = 0 ∧ OnlyLink s u l)) ∧
  (∀ (s : State) (p l : Nat), p < 256 → l < 64 → rdFld s (laneA p 4) 2 2 = 1 → rdFld s (laneA p 4) 4 6 = l →
    linkState s l = 8 → linkMode s l ≠ 0 → rdBit s (linkA l 0x1C) 30 = false → s.ldr.kind = 0 → s.chip.devState ≠ .running →
    ∃ t, exec (.laneLockLost p) s = .next t ∧ rdFld t (laneA p 4) 0 2 = 0 ∧ linkState t l = 1 ∧
      (∃ q, t.att.reports = s.att.reports ++ [q] ∧ q.kind = 0x1A ∧ q.cls = 2 ∧ q.unit = p))

/-- Signals and stream frames. SIGNAL on a tree link that is UP enters its items in the elastic buffer and keeps the smallest slack;
below 2 it sets SLACK_LOW; a failed CRC loses the items, sets SIG_CRC, counts at the lane and fails the local check (R353, R355, R357).
SIGNAL_ITEM_RELEASE writes a valid item to its receive latch, an item that is missing sets LATE (R354); nothing is written while
latches are held (R356). STREAM_START and the last DATA flit of a frame complete it, to be held, replaced, discarded and counted
by the table of R370; reserved flits and IDLE count as R357 says. -/
def Obligations.SignalsAndFrames : Prop :=
  (∀ (s : State) (l slot bundle : Nat) (items : List (Bool × Ctx)) (lam lane : Nat), l < 64 → linkMode s l = 1 →
    linkState s l = 8 → items.length = 24 → lane < 256 → lam ≤ rdFld s (linkA l 4) 0 16 →
    (∃ t, exec (.signal l slot bundle items lam lane true) s = .next t ∧
      rdFld t (linkA l 8) 16 8 = min (rdFld s (linkA l 8) 16 8) (rdFld s (linkA l 4) 0 16 - lam) ∧
      (rdFld s (linkA l 4) 0 16 - lam < 2 → rdBit t (linkA l 0x14) 5 = true) ∧
      (latchGate s = true → (linkOf t l).items = (linkOf s l).items) ∧
      (latchGate s = false → (linkOf t l).items.length = (linkOf s l).items.length + 24 ∧
        ∀ i, ∀ h : i < items.length, { slot := slot, step := 24 * bundle + i, valid := items[i].1, value := items[i].2 }
          ∈ (linkOf t l).items) ∧ t.cl = s.cl ∧ t.spr = s.spr) ∧
    (∃ t, exec (.signal l slot bundle items lam lane false) s = .next t ∧ t.lnk = s.lnk ∧ rdBit t (linkA l 0x14) 0 = true ∧
      rdReg t (laneA lane 8) = BitVec.ofNat 32 (min (2 ^ 32 - 1) ((rdReg s (laneA lane 8)).toNat + 1)) ∧
      (s.chip.devState = .running → s.spr.phase ≠ .rollback → FailsEpoch s t (curEpoch s) 1))) ∧
  (∀ (s : State) (l slot step n : Nat), l < 64 → slot < rdFld s (linkA l 8) 24 6 → slot < 32 → linkMode s l = 1 →
    linkState s l = 8 → rdBit s (linkA l 0x10) 1 = false →
    (latchGate s = true → exec (.signalItemRelease l slot step n) s = .next s) ∧
    (latchGate s = false → (∀ i ∈ (linkOf s l).items, ¬ (i.slot = slot ∧ i.step = step)) →
      ∃ t, exec (.signalItemRelease l slot step n) s = .next t ∧ rdBit t (linkA l 0x14) 4 = true ∧ t.cl = s.cl ∧ t.lnk = s.lnk ∧
        (s.chip.devState = .running → s.spr.phase ≠ .rollback → FailsEpoch s t (curEpoch s) 1)) ∧
    (∀ i, latchGate s = false → (linkOf s l).items = [i] → i.slot = slot → i.step = step →
      ∃ t, exec (.signalItemRelease l slot step n) s = .next t ∧ (linkOf t l).items = [] ∧ t.regs = s.regs ∧
        mapGet 0#8 t.cl.latch (32 * l + slot) = (if i.valid then i.value else mapGet 0#8 s.cl.latch (32 * l + slot)) ∧
        ∀ k, k ≠ 32 * l + slot → mapGet 0#8 t.cl.latch k = mapGet 0#8 s.cl.latch k)) ∧
  (∀ (s : State) (l seq lane tick : Nat) (ctl : BitVec 64), l < 64 → portUp s l = true → (linkOf s l).part = none →
    tick < 2 ^ 48 → portBytes s l ≤ 2048 →
    (∃ t, exec (.streamStart l seq tick (portBytes s l) ctl lane true) s = .next t ∧
      (linkOf t l).rxStream = (seq + 1) % 2048 ∧ rdBit t (linkA l 0x14) 3 = (rdBit s (linkA l 0x14) 3 || decide (seq ≠ (linkOf s l).rxStream)) ∧
      (portBytes s l ≠ 0 → (linkOf t l).part = some { tick := tick, fbytes := portBytes s l, control := ctl, data := [] } ∧
        (linkOf t l).held = (linkOf s l).held) ∧
      (portBytes s l = 0 → (linkOf t l).part = none)) ∧
    (∀ f : PartFrame, f.tick = tick → ∀ bytes : List Byte, bytes.length = 28 →
      let s1 := putLink l (fun k => { k with part := some f }) s
      seq = (linkOf s l).rxStream → f.data.length + 28 = 28 * ((f.fbytes + 27) / 28) →
      ∃ t, exec (.streamData l seq bytes lane true) s1 = .next t ∧ (linkOf t l).part = none ∧
        (f.fbytes ≠ portBytes s l → (linkOf t l).held = (linkOf s l).held ∧ rdBit t (linkA l 0x14) 10 = true) ∧
        (f.fbytes = portBytes s l →
          (limitValid s = false ∨ (s.spr.taken ≤ tick ∧ streamLimit s < tick) → (linkOf t l).held = (linkOf s l).held ∧
            rdBit t (linkA l 0x14) 8 = true ∧
            rdReg t (linkA l 0x114) = BitVec.ofNat 32 (min (2 ^ 32 - 1) ((rdReg s (linkA l 0x114)).toNat + 1))) ∧
          (limitValid s = true → tick < s.spr.taken → (linkOf t l).held = (linkOf s l).held ∧ rdBit t (linkA l 0x14) 9 = true ∧
            rdReg t (linkA l 0x118) = BitVec.ofNat 32 (min (2 ^ 32 - 1) ((rdReg s (linkA l 0x118)).toNat + 1))) ∧
          (limitValid s = true → s.spr.taken ≤ tick → tick ≤ streamLimit s →
            (linkOf t l).held = (linkOf s l).held.filter (fun x => x.tick ≠ tick) ++
              [{ tick := tick, bytes := (f.data ++ bytes).take f.fbytes, control := f.control }] ∧
            tick ∉ (linkOf t l).damaged)))) ∧
  (∀ (s : State) (l lane : Nat), l < 64 → lane < 256 → linkMode s l ≠ 0 →
    let one := BitVec.ofNat 32 (min (2 ^ 32 - 1) ((rdReg s (laneA lane 8)).toNat + 1))
    exec (.idle l lane true) s = .next s ∧
    (∃ t, exec (.idle l lane false) s = .next t ∧ rdReg t (laneA lane 8) = one ∧ OnlyRegs s t [laneA lane 8]) ∧
    (∃ t, exec (.reservedFlit l lane 0) s = .next t ∧ rdReg t (laneA lane 8) = one ∧ t.lnk = s.lnk ∧
      (s.chip.devState = .running → s.spr.phase ≠ .rollback → FailsEpoch s t (curEpoch s) 1)) ∧
    (portUp s l = true → (linkOf s l).part = none → ∃ t, exec (.reservedFlit l lane 1) s = .next t ∧
      rdReg t (laneA lane 8) = one ∧ rdBit t (linkA l 0x14) 1 = true ∧ rdBit t (linkA l 0x14) 10 = true ∧
      (linkOf t l).held = (linkOf s l).held) ∧
    (timeOpen s l = true → ∃ t, exec (.reservedFlit l lane 2) s = .next t ∧ rdReg t (laneA lane 8) = one ∧
      rdBit t (linkA l 0x14) 2 = true))

/-- The service class (R361, R363). The flit with the next SEQ is accepted and any other is not; a failed CRC or a gap sets NAK. ACK
releases the flits up to it, and NAK or 15,600 steps without progress sends the rest again, counted in HSL_LK_RESEND; the sixteenth
time without progress sets SVC_FAIL and the link goes DOWN and trains again. -/
def Obligations.ServiceClass : Prop :=
  (∀ (s : State) (l seq : Nat) (som eom : Bool) (body : List Byte) (lane : Nat), serviceOpen s l = true → lane < 256 →
    let k := linkOf s l
    (seq = k.svcRx → ∃ t, exec (.service l seq som eom body lane true) s = .next t ∧ OnlyLink s t l ∧ t.regs = s.regs ∧
      (linkOf t l).svcRx = (seq + 1) % 256 ∧ (linkOf t l).svcNak = false ∧
      (som = true → eom = true → (linkOf t l).svcLast = body) ∧
      (som = false → eom = true → k.svcOpen = true → (linkOf t l).svcLast = k.svcPart ++ body) ∧
      (eom = false → (linkOf t l).svcLast = k.svcLast) ∧ (linkOf t l).svcOut = k.svcOut) ∧
    (seq ≠ k.svcRx → exec (.service l seq som eom body lane true) s =
      .next (putLink l (fun x => { x with svcNak := true }) s)) ∧
    (∃ t, exec (.service l seq som eom body lane false) s = .next t ∧ (linkOf t l).svcNak = true ∧
      (linkOf t l).svcRx = k.svcRx ∧ (linkOf t l).svcLast = k.svcLast ∧ t.spr = s.spr ∧
      rdReg t (laneA lane 8) = BitVec.ofNat 32 (min (2 ^ 32 - 1) ((rdReg s (laneA lane 8)).toNat + 1)))) ∧
  (∀ (s : State) (l : Nat), serviceOpen s l = true → (linkOf s l).svcOut ≠ [] → s.ldr.kind = 0 →
    ((linkOf s l).svcTries < 15 → ∃ t, exec (.serviceResendTimeout l) s = .next t ∧ OnlyLink s { t with outbox := s.outbox } l ∧
      t.outbox = .svcResend l ((linkOf s l).svcOut.map (fun f => f.seq)) :: s.outbox ∧
      (linkOf t l).svcTries = (linkOf s l).svcTries + 1 ∧ (linkOf t l).svcOut = (linkOf s l).svcOut ∧
      rdReg t (linkA l 0x18) = BitVec.ofNat 32 (min (2 ^ 32 - 1) ((rdReg s (linkA l 0x18)).toNat + (linkOf s l).svcOut.length))) ∧
    ((linkOf s l).svcTries = 15 → ∃ t, exec (.serviceResendTimeout l) s = .next t ∧ linkState t l = 1 ∧
      rdBit t (linkA l 0x14) 6 = true ∧ rdFld t (linkA l 0xC) 4 4 = 8)) ∧
  (∀ (s : State) (l ack dstate dev commit lane i : Nat), l < 64 → linkMode s l = 1 → linkState s l = 8 → ack < 256 →
    dstate < 8 → dev < 4096 → s.crt.uplink ≠ some l →
    (linkOf s l).svcOut.findIdx? (fun f => f.seq = ack) = some i →
    ∃ t, exec (.mgmt l ack false dstate dev commit lane true) s = .next t ∧ OnlyLink s t l ∧ t.regs = s.regs ∧
      (linkOf t l).svcOut = ((linkOf s l).svcOut.drop (i + 1)) ++
        (linkOf s l).svcWait.take (128 - ((linkOf s l).svcOut.drop (i + 1)).length) ∧
      (linkOf t l).svcWait = (linkOf s l).svcWait.drop (128 - ((linkOf s l).svcOut.drop (i + 1)).length) ∧
      (linkOf t l).svcTries = 0 ∧ (linkOf t l).farState = dstate ∧ (linkOf t l).farCommit = commit ∧ (linkOf t l).farDev = dev)

/-- Spare lanes (R378 to R380). SWAP is acknowledged, and SWAP or SWAP_ACK fixes the switch at the first step that is a multiple of
325 and lies at least 650 steps after the ACK; SWAP_SWITCH moves the logical lane to the spare, retires the lane and sets
SWAP_DONE. A lane BIST runs on a retired lane only; without an error its lane becomes the spare where there is none. CMD_ACK
and CMD_REFUSE answer the command that waits.
Loopbacks and patterns (R381 to R384, R392). LB2 and LB3 of the far end are granted but for a link that carries traffic of a
Running model. A lane takes a loopback or pattern only out of service, else its write is refused; CNT_CLR clears its counts. FARLB is
sent to the far end and puts an idle link in LOOP. HSL_SP_WM with LO16 at or above HI16 is refused. A checker synchronises after
64 bits without an error and then counts every bit that differs. -/
def Obligations.SpareLanesLoopbacksAndPatterns : Prop :=
  (
  (∀ (s : State) (l lane cid step : Nat), mgmtOpen s l = true →
    (rdBit s (linkA l 0x1C) 30 = true → ∃ t n, exec (.swap l lane cid step) s = .next t ∧ SendsMgmt s t l 2 lane cid ∧
      (linkOf t l).swap = some (lane, n) ∧ n % 325 = 0 ∧ step + 650 ≤ n ∧ n < step + 650 + 325 ∧ t.regs = s.regs) ∧
    (∀ c, (linkOf s l).cmd = some c → c.cid = cid →
      (c.cmd = 1 → ∃ t n, exec (.swapAck l cid step) s = .next t ∧ (linkOf t l).cmd = none ∧
        (linkOf t l).swap = some (c.clane, n) ∧ n % 325 = 0 ∧ step + 650 ≤ n ∧ n < step + 650 + 325 ∧ OnlyLink s t l) ∧
      exec (.cmdAck l cid) s = .next (putLink l (fun k =>
        { k with cmd := none, bist := if c.cmd = 3 then some c.clane else k.bist }) s) ∧
      exec (.cmdRefuse l cid) s = .next (putLink l (fun k => { k with cmd := none }) s)) ∧
    (∃ t, exec (.bistOn l lane cid) s = .next t ∧
      (lane < 256 → rdFld s (laneA lane 4) 2 2 = 3 → rdFld s (laneA lane 4) 4 6 = l →
        SendsMgmt s t l 9 lane cid ∧ (linkOf t l).bist = some lane) ∧
      (rdFld s (laneA lane 4) 2 2 ≠ 3 → SendsMgmt s t l 10 lane cid ∧ t.lnk = s.lnk)) ∧
    (∃ t, exec (.bistOff l lane cid) s = .next t ∧ SendsMgmt s t l 9 lane cid ∧ (linkOf t l).bist = none ∧ t.regs = s.regs)) ∧
  (∀ (s : State) (l i n p q : Nat), l < 64 → (linkOf s l).swap = some (i, n) → rdBit s (linkA l 0x1C) 30 = true → i < 16 →
    rdFld s (linkA l 0x1C) 0 8 = q → p ≠ q → lanesOf s l 1 = [(p, i)] → rdFld s (linkA l 0x1C) 16 14 < 16383 →
    ∃ t, exec (.swapSwitch l) s = .next t ∧ (linkOf t l).swap = none ∧ rdBit t (linkA l 0x14) 11 = true ∧
      rdFld t (laneA p 4) 2 2 = 3 ∧ rdFld t (laneA q 4) 2 2 = 1 ∧ rdFld t (laneA q 4) 10 5 = i ∧
      rdBit t (linkA l 0x1C) 30 = false ∧ rdBit t (linkA l 0x1C) 31 = true ∧ rdFld t (linkA l 0x1C) 8 8 = p ∧
      rdFld t (linkA l 0x1C) 16 14 = rdFld s (linkA l 0x1C) 16 14 + 1 ∧ t.cl = s.cl) ∧
  (∀ (s : State) (l p errors : Nat), l < 64 → p < 256 → (linkOf s l).bist = some p →
    (∀ k, k < 64 → k ≠ l → (linkOf s k).bist ≠ some p) → rdFld s (laneA p 4) 4 6 = l → rdFld s (laneA p 4) 2 2 = 3 →
    (∀ q, q < 256 → q ≠ p → rdFld s (laneA q 4) 2 2 = 0) → s.chip.devState ≠ .running →
    ∃ t, exec (.laneBistDone p errors) s = .next t ∧ rdBit t (linkA l 0x14) 12 = true ∧ (linkOf t l).bist = none ∧
      rdBit t (laneA p 4) 16 = decide (errors = 0) ∧ SendsMgmt s t l 4 p (linkOf s l).nextCid ∧
      rdFld t (laneA p 4) 2 2 = (if errors = 0 ∧ rdBit s (linkA l 0x1C) 30 = false then 2 else 3))) ∧ (
  (∀ (s : State) (l lane cid : Nat), mgmtOpen s l = true →
    (carriesModel s l = true → (∃ t, exec (.lb2On l lane cid) s = .next t ∧ SendsMgmt s t l 10 lane cid ∧ t.lnk = s.lnk) ∧
      ∃ t, exec (.lb3On l lane cid) s = .next t ∧ SendsMgmt s t l 10 lane cid ∧ t.lnk = s.lnk) ∧
    (carriesModel s l = false →
      (∃ t, exec (.lb2On l lane cid) s = .next t ∧ SendsMgmt s t l 9 lane cid ∧ (linkOf t l).farLoop = some (2, lane)) ∧
      ∃ t, exec (.lb3On l lane cid) s = .next t ∧ SendsMgmt s t l 9 lane cid ∧ (linkOf t l).farLoop = some (3, lane)) ∧
    (∃ t, exec (.lb2Off l lane cid) s = .next t ∧ SendsMgmt s t l 9 lane cid ∧
      (∀ j, (linkOf s l).farLoop = some (2, j) → (linkOf t l).farLoop = none) ∧ t.regs = s.regs) ∧
    ∃ t, exec (.lb3Off l lane cid) s = .next t ∧ SendsMgmt s t l 9 lane cid ∧
      (∀ j, (linkOf s l).farLoop = some (3, j) → (linkOf t l).farLoop = none) ∧ t.regs = s.regs) ∧
  (∀ (s : State) (who : Requester) (p : Nat) (v : Word), p < 256 → Reaches s who (laneA p 0) → s.chip.shellUp = true →
    (v &&& 0x773 ≠ 0 → laneFree s p = false → Refuses s (.laneCtrlWrite who p v) who true) ∧
    (v &&& 0x773 = 0 ∨ laneFree s p = true → WriteOk s (.laneCtrlWrite who p v) who (fun u =>
      rdReg u (laneA p 0) = v &&& 0x773 ∧
      (bit v 11 = true → rdReg u (laneA p 8) = 0 ∧ rdReg u (laneA p 0xC) = 0 ∧ rdReg u (laneA p 0x10) = 0 ∧ rdReg u (laneA p 0x14) = 0))) ∧
    (rdReg s (laneA p 0) = 0 → WriteOk s (.laneCntClr who p) who (fun u =>
      rdReg u (laneA p 8) = 0 ∧ rdReg u (laneA p 0xC) = 0 ∧ rdReg u (laneA p 0x10) = 0 ∧ rdReg u (laneA p 0x14) = 0))) ∧
  (∀ (s : State) (who : Requester) (l : Nat) (v : Word), l < 64 → Reaches s who (linkA l 0x10) → s.chip.shellUp = true →
    (fld v 2 2 ≠ 0 → fld v 2 2 ≠ rdFld s (linkA l 0x10) 2 2 → linkState s l ≠ 0 → linkState s l ≠ 9 → linkState s l ≠ 11 →
      Refuses s (.linkLoopbackWrite who l v) who true) ∧
    (linkState s l = 0 ∨ linkState s l = 9 → bit v 0 = false → bit v 1 = false → fld v 2 2 = 1 → rdReg s (linkA l 0x10) = 0 →
      WriteOk s (.linkLoopbackWrite who l v) who (fun u => linkState u l = 11 ∧ rdFld u (linkA l 0x10) 2 2 = 1 ∧
        (linkOf u l).cmd = some { cmd := 5, clane := fld v 4 5, cid := (linkOf s l).nextCid } ∧
        SendsMgmt s u l 5 (fld v 4 5) (linkOf s l).nextCid))) ∧
  (∀ (s : State) (who : Requester) (l : Nat) (v : Word), l < 64 → Reaches s who (linkA l 0x104) → s.chip.shellUp = true →
    (fld v 0 4 ≤ fld v 8 4 → Refuses s (.spWmWrite who l v) who true) ∧
    (fld v 8 4 < fld v 0 4 → WriteOk s (.spWmWrite who l v) who (fun u =>
      rdFld u (linkA l 0x104) 0 4 = fld v 0 4 ∧ rdFld u (linkA l 0x104) 8 4 = fld v 8 4))) ∧
  (∀ (s : State) (p : Nat) (taps : Nat × Nat) (b : Bool), p < 256 → prbsTaps (rdFld s (laneA p 0) 8 3) = some taps →
    let c := mapGet Checker.reset s.prbs p
    let want := (c.hist.getD (taps.1 - 1) false) != (c.hist.getD (taps.2 - 1) false)
    ∃ t, exec (.prbsReceive p [b]) s = .next t ∧
      (c.synced = true → rdReg t (laneA p 0xC) = (if b = want then rdReg s (laneA p 0xC) else
          BitVec.ofNat 32 (min (2 ^ 32 - 1) ((rdReg s (laneA p 0xC)).toNat + 1))) ∧
        (mapGet Checker.reset t.prbs p).hist = (want :: c.hist).take 31) ∧
      (c.synced = false → (mapGet Checker.reset t.prbs p).run = (if taps.1 ≤ c.hist.length ∧ b = want then c.run + 1 else 0) ∧
        (mapGet Checker.reset t.prbs p).hist = (b :: c.hist).take 31 ∧ rdReg t (laneA p 0xC) = rdReg s (laneA p 0xC))))

/-! ### Crates (chapter 09) -/

/-- Enumeration (R400 to R403, R418). EN_PROBE takes ENGEN and ends the old numbering; in Blank the device without children counts
itself at once, with children it probes them and waits, in Boot it holds the probe, in any other state it answers BUSY. The last
child's EN_COUNT, or the end of TMO, gives the device's own count: SIZE 1 plus those of the present children, one more than their
largest DEPTH, TSUB the largest of TARGET + 991 + theirs; a child that has not answered is LOST. EN_ASSIGN gives the address, EN_DONE
of the last present child goes up, EN_FAIL ends it everywhere. ENUM at the root of a domain of one gives address 0 and DONE.
The status word of the subtree (R414). SUBSTAT of a child is kept; the device's own word goes to its head every 1 ms; a present
child that sends none for 5 ms is LOST and its word no longer counts. -/
def Obligations.EnumerationAndSubtreeStatus : Prop :=
  (
  (∀ (s : State) (l g : Nat), s.crt.isRoot = false → s.crt.uplink = some l → g < 256 → ∃ t, exec (.enProbe l g) s = .next t ∧
    enGen t = g ∧ assigned t = false ∧ (∀ i, isPresent t i = false) ∧
    (s.chip.devState = .boot → t.crt.held = some g ∧ t.outbox = s.outbox) ∧
    (s.chip.devState = .blank → s.crt.children = [] →
      t.outbox = .service l 0x31 0xFFF 0xFFF ([BitVec.ofNat 8 g, 0, 1, 0, 0, 0, 0, 0]) :: s.outbox ∧ t.crt.probing = false ∧
      rdFld t (hstA 0x108) 16 13 = 1 ∧ rdFld t crtDomain 16 4 = 0 ∧ rdFld t (hstA 0x114) 0 16 = 0) ∧
    (s.chip.devState = .blank → s.crt.children ≠ [] → enumState t = 1 ∧ t.crt.probing = true ∧ t.crt.answers = [] ∧
      (∀ k ∈ s.crt.children, linkState s k = 8 →
        .service k 0x30 0xFFF 0xFFF [BitVec.ofNat 8 g, 0, 0, 0] ∈ t.outbox)) ∧
    (s.chip.devState ≠ .boot → s.chip.devState ≠ .blank →
      t.outbox = .service l 0x31 0xFFF 0xFFF [BitVec.ofNat 8 g, 1, 1, 0, 0, 0, 0, 0] :: s.outbox)) ∧
  (∀ (s : State) (u l : Nat) (a : ChildAns), s.crt.isRoot = false → s.crt.uplink = some u → s.crt.children = [l] →
    s.crt.probing = true → (∀ i, isPresent s i = false) → (∀ i, rdBit s (hstA 0x11C) i = false) → assigned s = false →
    linkTarget s l + 991 + a.tsub < 65536 → a.depth < 15 →
    (linkState s l = 8 → a.busy = false → a.tooMany = false → a.size ≤ 4095 →
      ∃ t, exec (.enCount l (enGen s) a) s = .next t ∧ isPresent t 0 = true ∧ t.crt.probing = false ∧
        rdFld t (hstA 0x108) 16 13 = 1 + a.size ∧ rdFld t crtDomain 16 4 = 1 + a.depth ∧
        rdFld t (hstA 0x114) 0 16 = linkTarget s l + 991 + a.tsub ∧
        t.outbox = .service u 0x31 0xFFF 0xFFF (leBytes 1 (enGen s) ++ leBytes 1 (2 * b2n a.missing) ++ leBytes 2 (1 + a.size) ++
          leBytes 1 (1 + a.depth) ++ [0#8] ++ leBytes 2 (linkTarget s l + 991 + a.tsub)) :: s.outbox) ∧
    (s.crt.answers = [] → ∃ t, exec .enumChildTimeout s = .next t ∧ isPresent t 0 = false ∧ rdBit t (hstA 0x11C) 0 = true ∧
      rdFld t (hstA 0x108) 16 13 = 1 ∧ t.outbox = .service u 0x31 0xFFF 0xFFF
        (leBytes 1 (enGen s) ++ [2#8] ++ leBytes 2 1 ++ [0#8, 0, 0, 0]) :: s.outbox)) ∧
  (∀ (s : State) (l depth base ndev arrive ttree : Nat), s.crt.uplink = some l → depth < 16 → base < 4096 → ndev ≤ 4096 →
    arrive < 65536 → ttree < 65536 →
    ∃ t, exec (.enAssign l (enGen s) depth base ndev arrive ttree) s = .next t ∧ assigned t = true ∧ devAddr t = base ∧
      rdFld t crtStatus 14 4 = depth ∧ rdFld t (hstA 0x108) 0 12 = base ∧ rdFld t crtDomain 0 13 = ndev ∧
      rdFld t crtTree 0 16 = ttree ∧ rdFld t crtTree 16 16 = arrive ∧
      (presentIdx s = [] → s.crt.isRoot = false → enumState t = 3 ∧
        t.outbox = .service l 0x33 base 0xFFF (leBytes 1 (enGen s)) :: s.outbox)) ∧
  (∀ (s : State) (u l i : Nat), s.crt.isRoot = false → s.crt.uplink = some u → childIndex s l = some i → enumState s = 2 →
    isPresent s i = true → i ∉ s.crt.done → (∀ j ∈ presentIdx s, j = i ∨ j ∈ s.crt.done) →
    ∃ t, exec (.enDone l (enGen s)) s = .next t ∧ enumState t = 3 ∧ t.crt.done = s.crt.done ++ [i] ∧
      ∃ src, t.outbox = .service u 0x33 src 0xFFF (leBytes 1 (enGen s)) :: s.outbox) ∧
  (∀ (s : State) (l cause : Nat), s.crt.uplink = some l → cause < 16 → ∃ t, exec (.enFail l (enGen s) cause) s = .next t ∧
    enumState t = 4 ∧ rdFld t crtStatus 21 4 = cause ∧ assigned t = false ∧
    ∀ k ∈ presentLinks s, ∃ src, .service k 0x34 src 0xFFF (leBytes 1 (enGen s) ++ leBytes 1 cause) ∈ t.outbox) ∧
  (∀ (s : State) (who : Requester), Reaches s who (hstA 0x100) →
    (s.crt.isRoot = true → s.chip.devState = .blank → enumState s ≠ 1 → enumState s ≠ 2 → s.crt.children = [] →
      WriteOk s (.enum who) who (fun u => enGen u = (enGen s + 1) % 256 ∧
        (s.crt.expect ≤ 1 → enumState u = 3 ∧ assigned u = true ∧ devAddr u = 0 ∧ rdFld u crtDomain 0 13 = 1) ∧
        (1 < s.crt.expect → enumState u = 4 ∧ rdFld u crtStatus 21 4 = 2 ∧ assigned u = false))) ∧
    (s.crt.isRoot = false ∨ s.chip.devState ≠ .blank → Refuses s (.enum who) who true))) ∧ (
  (∀ (s : State) (l i : Nat) (w : Word), childIndex s l = some i →
    ∃ t, exec (.substat l w) s = .next t ∧ mapGet 0#32 t.crt.subs i = w ∧
      (∀ j, j ≠ i → mapGet 0#32 t.crt.subs j = mapGet 0#32 s.crt.subs j) ∧ (linkState s l = 8 → i ∉ t.crt.gone) ∧
      t = { s with crt := t.crt }) ∧
  (∀ (s : State) (l : Nat), s.chip.shellUp = true → s.crt.uplink = some l →
    ∃ t, exec .substatPeriod s = .next t ∧ t.regs = s.regs ∧ t.crt = s.crt ∧ t.cl = s.cl ∧
      ∃ src, t.outbox = .service l 0x35 src 0xFFF (leBytes 4 (subStatus s).toNat) :: s.outbox) ∧
  (∀ (s : State) (i : Nat), i < s.crt.children.length → i < 32 → isPresent s i = true →
    ∃ t, exec (.substatTimeout i) s = .next t ∧ i ∈ t.crt.gone ∧ rdBit t (hstA 0x11C) i = true ∧
      OnlyRegs s { t with crt := s.crt } [hstA 0x11C]))

/-! ### Time bases and timed pulses (chapter 10) -/

/-- TB0 across the tree (R427, R435 to R438, R441, R443). Of a good SAMPLE on the upstream link the device keeps
((t4 - t3) - (t2 - t1) - ASYM) / 2; a failed CRC sets TIME_CRC and is counted at the lane. At the end of a link frame the servo
forms RATE, held within SLEW_MAX; sixteen frames within LOCK_THR give TB0 lock; above 10 ns the device jams unless it is Running.
A primary path that is lost without a valid secondary is holdover: PATH 2, RATE frozen, the lock cleared, TIME_LOSS. The root
is master. REVERT is remembered but in Running. A lost step clock is Safe, and in Boot only clears the lock. -/
def Obligations.TimeTransfer : Prop :=
  (∀ (s : State) (l seq t1 t2 t3 t4 lane : Nat), linkMode s l = 1 → timeOpen s l = true → s.crt.uplink = some l → lane < 256 →
    let asym := ((BitVec.ofNat 16 (rdFld s (timA (0x400 + 4 * l)) 0 16)).toInt) * 65536 / 1000
    let d : Int := (t4 : Int) - t3 - ((t2 : Int) - t1) - asym
    (seq = mapGet 0 s.spr.rxSeq l → d % 2 = 0 → ∃ t, exec (.sample l seq t1 t2 t3 t4 lane true) s = .next t ∧
      t.tim = { s.tim with prim := { s.tim.prim with est := s.tim.prim.est ++ [d / 2] } } ∧ t.regs = s.regs ∧
      mapGet 0 t.spr.rxSeq l = (seq + 1) % 2048) ∧
    (∃ t, exec (.sample l seq t1 t2 t3 t4 lane false) s = .next t ∧ t.tim = s.tim ∧ rdBit t (linkA l 0x14) 2 = true ∧
      rdReg t (laneA lane 8) = BitVec.ofNat 32 (min (2 ^ 32 - 1) ((rdReg s (laneA lane 8)).toNat + 1)))) ∧
  (∀ (s : State) (l : Nat) (th ppb : Int), s.chip.devState ≠ .off → s.crt.isRoot = false → s.crt.uplink = some l →
    linkState s l = 8 → rdFld s timStat 2 2 = 0 → s.tim.prim.est = [th] → s.tim.prim.theta = none → s.tim.changed = false →
    s.tim.revert = false → ppb.natAbs ≤ 2000 → rdFld s (timA 0x68) 0 2 = 0 → (rdReg s (timA 0x64)).toNat < 2 ^ 31 →
    ∃ t, exec (.linkFrame ppb) s = .next t ∧ t.tim.prim.theta = some th ∧ t.tim.prim.est = [] ∧ t.tim.prim.silent = 0 ∧
      rdFld t timStat 2 2 = 0 ∧ rdReg t (timA 0x50) = BitVec.ofInt 32 th ∧
      (sreg t (timA 0x5C)).natAbs ≤ (rdReg s (timA 0x64)).toNat ∧
      (th = 0 → sreg t (timA 0x5C) = max (-((rdReg s (timA 0x64)).toNat : Int)) (min (rdReg s (timA 0x64)).toNat s.tim.integ)) ∧
      (s.chip.devState ≠ .running → 655360 < th.natAbs → rdBit t timStat 15 = true ∧ t.tim.integ = 0 ∧
        t.tim.tb0 = ((((tb0Now s / 408944640 + 1) * 408944640 * 2 ^ 32 : Nat) - th * 2 ^ 32) %
          (2 ^ 48 * secUnits * 2 ^ 32 : Nat)).toNat) ∧
      (s.chip.devState = .running ∨ th.natAbs ≤ 655360 → rdBit t timStat 15 = rdBit s timStat 15 ∧
        t.tim.tb0 = (tb0Now s / 408944640 + 1) * 408944640 * 2 ^ 32) ∧
      ((th.natAbs : Int) ≤ (rdFld s (timA 0x60) 8 16 : Int) * 65536 / 1000 → t.tim.inLock = s.tim.inLock + 1 ∧
        (15 ≤ s.tim.inLock → rdBit s timStat 12 = false → rdBit t timStat 1 = true)) ∧
      ((rdFld s (timA 0x60) 8 16 : Int) * 65536 / 1000 < th.natAbs → t.tim.inLock = 0)) ∧
  (∀ (s : State) (l : Nat) (ppb : Int), s.chip.devState ≠ .off → s.crt.isRoot = false → s.crt.uplink = some l →
    linkState s l ≠ 8 → rdFld s timStat 2 2 = 0 → s.tim.revert = false → rdFld s (timA 0x68) 0 2 = 0 →
    ∃ t, exec (.linkFrame ppb) s = .next t ∧ rdFld t timStat 2 2 = 2 ∧ rdBit t timStat 1 = false ∧ rdBit t timStat 9 = true ∧
      rdReg t (timA 0x5C) = rdReg s (timA 0x5C) ∧ t.tim.inLock = 0 ∧ (s.chip.devState = .running → rdBit t (sprA 4) 13 = true)) ∧
  (∀ (s : State) (ppb : Int), s.chip.devState ≠ .off → s.crt.isRoot = true → rdBit s timStat 0 = true →
    ∃ t, exec (.linkFrame ppb) s = .next t ∧ rdFld t timStat 2 2 = 3 ∧ rdBit t timStat 1 = true ∧ rdReg t (timA 0x5C) = rdReg s (timA 0x5C)) ∧
  (∀ (s : State) (who : Requester), Reaches s who (timA 0) →
    (s.chip.devState ≠ .running → WriteOk s (.revert who) who (fun u => u = { s with tim := { s.tim with revert := true } })) ∧
    (s.chip.devState = .running → WriteOk s (.revert who) who (fun u => u = s))) ∧
  (∀ (s : State), ∃ t, exec .pllLockLoss s = .next t ∧
    (s.chip.devState = .boot → rdBit t timStat 0 = false ∧ t.chip.devState = .boot ∧ OnlyRegs s t [timStat]) ∧
    (s.chip.devState ≠ .boot → s.chip.devState ≠ .off → s.chip.devState ≠ .safe → t.chip.devState = .safe ∧
      rdBit t timStat 0 = false ∧ rdBit t timStat 1 = false ∧ rdBit t (attA 0) 6 = true))

/-- Laws and PPS (R432, R434). ARM of a law stages it until TB0 reaches its ANCHOR, or brings it into force at once with LAW_LATE;
LAW_IN_FORCE clears ARM and the base reads by the law from then on. A PPS edge at the root with TB1_SRC = 1 is stamped, and a law of
TB1 is armed LAW_LEAD after it with a rate within SLEW_MAX; a PPS secondary takes the folded fraction of the second. Without an
edge PPS_SEEN and the root's TB1 lock clear.
Pulse outputs (R445, R446, R448). ARM is refused outside Ready, Running and Held, with WIDTH below 20, with PERIOD neither 0 nor at
least WIDTH + 20, or on a base without a law. Armed with its first edge 2 µs ahead, the generator fires pulse after pulse, each for
WIDTH, and after COUNT pulses sets DONE and clears ARM; a single pulse whose START is past sets LATE and clears ARM. Disarmed, the
pulse in progress completes. -/
def Obligations.LawsPpsAndPulseOutputs : Prop :=
  (
  (∀ (s : State) (who : Requester) (k : Nat), 1 ≤ k → k ≤ 3 → Reaches s who (lawA k 0x1C) → rdBit s (lawA k 0x1C) 0 = false →
    (s.crt.isRoot = false ∨ assigned s = false) →
    (tb0Now s ≤ rdTime s (lawA k 0) → WriteOk s (.lawArm who k) who (fun u => rdBit u (lawA k 0x1C) 0 = true ∧
      OnlyRegs s u [lawA k 0x1C])) ∧
    (rdTime s (lawA k 0) < tb0Now s → WriteOk s (.lawArm who k) who (fun u => rdBit u (lawA k 0x1C) 0 = false ∧
      rdBit u timStat 13 = true ∧ mapGet none u.tim.laws k = some { anchor := rdTime s (lawA k 0), offset := rdTime s (lawA k 0xC), rate := sreg s (lawA k 0x18) } ∧ u.tim.tb0 = s.tim.tb0))) ∧
  (∀ (s : State) (k : Nat), 1 ≤ k → k ≤ 3 → rdBit s (lawA k 0x1C) 0 = true → tb0Now s ≤ rdTime s (lawA k 0) →
    ∃ t, exec (.lawInForce k) s = .next t ∧ rdBit t (lawA k 0x1C) 0 = false ∧ tb0Now t = rdTime s (lawA k 0) ∧
      (∀ x : Nat, tbAt t k x = some ((((x : Int) + rdTime s (lawA k 0xC) +
        (((x : Int) - rdTime s (lawA k 0)) * sreg s (lawA k 0x18)) / 2 ^ 40) % (2 ^ 48 * secUnits : Nat)).toNat)) ∧
      (∀ j, j ≠ k → ∀ x, tbAt t j x = tbAt s j x)) ∧
  (∀ (s : State) (p : Nat) (ref : Int), s.chip.devState ≠ .off → s.chip.shellUp = true → s.tim.ppsDelay = 0 → tb0Now s ≤ p →
    p < 2 ^ 48 * secUnits →
    (s.crt.isRoot = true → rdBit s (timA 0x68) 8 = true → assigned s = false → rdBit s (timA 0x74) 31 = false →
      1 ≤ rdFld s (timA 0x6C) 0 16 → p + 65535 * 1000 * 65536 < 2 ^ 48 * secUnits → (rdReg s (timA 0x64)).toNat < 2 ^ 31 →
      ∃ t, exec (.ppsEdge p ref) s = .next t ∧ rdBit t timStat 6 = true ∧ rdTime t (timA 0x80) = p ∧
        rdBit t (lawA 1 0x1C) 0 = true ∧ rdTime t (lawA 1 0) = p + rdFld s (timA 0x6C) 0 16 * 1000 * 65536 ∧
        (sreg t (lawA 1 0x18)).natAbs ≤ (rdReg s (timA 0x64)).toNat ∧ t.tim.laws = s.tim.laws ∧ tb0Now t = p) ∧
    (s.crt.isRoot = false → rdFld s (timA 0x68) 0 2 = 2 →
      ∃ t, exec (.ppsEdge p ref) s = .next t ∧ rdBit t timStat 6 = true ∧ t.tim.sec.silent = 0 ∧
        t.tim.sec.theta = some (if secUnits < 2 * (p % secUnits) then ((p % secUnits : Nat) : Int) - secUnits else ((p % secUnits : Nat) : Int)))) ∧
  (∀ s : State, s.tim.ppsSeen = true → ∃ t, exec .ppsLoss s = .next t ∧ rdBit t timStat 6 = false ∧ t.tim.ppsSeen = false ∧
    (s.crt.isRoot = true → rdBit s (timA 0x68) 8 = true → rdBit t timStat 5 = false) ∧
    (s.crt.isRoot = false → rdBit t timStat 5 = rdBit s timStat 5) ∧ (∀ a, a ≠ timStat → rdReg t a = rdReg s a))) ∧ (
  (∀ (s : State) (who : Requester) (n : Nat) (v : Word), n < 8 → Reaches s who (plsCtrl n) → rdBit s (plsCtrl n) 0 = false →
    let ok := (s.chip.devState = .ready ∨ s.chip.devState = .running ∨ s.chip.devState = .held) ∧ 20 ≤ plsWidthRaw s n ∧
      (plsPeriodRaw s n = 0 ∨ plsWidthRaw s n + 20 ≤ plsPeriodRaw s n) ∧
      (fld v 1 2 = 0 ∨ ∃ q, mapGet none s.tim.laws (fld v 1 2) = some q)
    (¬ ok → Refuses s (.pulseArm who n v) who true) ∧
    (ok → fld v 1 2 = 0 → tb0Now s + 131072000 ≤ plsStart s n → WriteOk s (.pulseArm who n v) who (fun u =>
      rdFld u (plsCtrl n) 0 4 = 1 + 2 * fld v 1 3 ∧ rdFld u (plsCtrl n) 8 16 = 0 ∧ (genOf u n).next = 0 ∧
      rdBit u (plsCtrl n) 4 = (rdBit s (plsCtrl n) 4 && !bit v 4) ∧ (∀ j, j ≠ n → genOf u j = genOf s j) ∧
      ∀ a, a ≠ plsCtrl n → rdReg u a = rdReg s a)) ∧
    (ok → fld v 1 2 = 0 → plsStart s n < tb0Now s + 131072000 → plsPeriodRaw s n = 0 → WriteOk s (.pulseArm who n v) who (fun u =>
      rdBit u (plsCtrl n) 0 = false ∧ rdBit u (plsCtrl n) 4 = true ∧ (genOf u n).high = (genOf s n).high))) ∧
  (∀ (s : State) (who : Requester) (n : Nat) (v : Word), n < 8 → Reaches s who (plsCtrl n) → rdBit s (plsCtrl n) 0 = true →
    (fld v 1 3 ≠ rdFld s (plsCtrl n) 1 3 → Refuses s (.pulseDisarm who n v) who true) ∧
    (fld v 1 3 = rdFld s (plsCtrl n) 1 3 → WriteOk s (.pulseDisarm who n v) who (fun u =>
      rdBit u (plsCtrl n) 0 = false ∧ rdFld u (plsCtrl n) 1 3 = fld v 1 3 ∧ u.tim = s.tim ∧
      ∀ a, a ≠ plsCtrl n → rdReg u a = rdReg s a))) ∧
  (∀ (s : State) (n : Nat), n < 8 → rdBit s (plsCtrl n) 0 = true → rdFld s (plsCtrl n) 1 2 = 0 →
    ∃ t, exec (.pulseEdge n) s = .next t ∧ (genOf t n).high = true ∧ rdBit t (plsCtrl n) 6 = true ∧
      (genOf t n).next = (genOf s n).next + 1 ∧ tb0Now t = max (tb0Now s) (plsTime s n (genOf s n).next) ∧
      (genOf t n).endAt = tb0Now t + plsWidthRaw s n * 65536 / 20 ∧
      (plsPeriodRaw s n ≠ 0 → plsCount s n ≠ 0 → (genOf s n).next + 1 < plsCount s n → rdBit t (plsCtrl n) 0 = true) ∧
      (plsPeriodRaw s n ≠ 0 → plsCount s n = 0 → rdBit t (plsCtrl n) 0 = true) ∧
      (plsPeriodRaw s n ≠ 0 → plsCount s n ≠ 0 → plsCount s n ≤ (genOf s n).next + 1 →
        rdBit t (plsCtrl n) 0 = false ∧ rdBit t (plsCtrl n) 5 = true) ∧ t.spr = s.spr ∧ t.cl = s.cl) ∧
  (∀ (s : State) (n : Nat), n < 8 → (genOf s n).high = true →
    ∃ t, exec (.pulseEnd n) s = .next t ∧ (genOf t n).high = false ∧ rdBit t (plsCtrl n) 6 = false ∧
      (genOf t n).next = (genOf s n).next ∧ tb0Now t = max (tb0Now s) (genOf s n).endAt))

/-! ### Stewards (chapter 11) -/

/-- What every steward instruction has in common (R458, R460, R474, R482, R483, R485). A command that names another instruction than
the one at PC has no effect. A fetch that is denied raises IFETCH, a line that no instruction cache holds is filled first, a word
that does not decode raises ILLEGAL; a condition that fails makes the instruction a NOP, and an instruction above the level raises
PRIV. With EXL set outside G the exception is a double fault: the steward stops with its registers unchanged. -/
def Obligations.StewardIssue : Prop :=
  ∀ (s : State) (p : Nat) (f : Nat → Instr) (row : StwRow), (f, row) ∈ stwInstrs → stwReady s p = true →
    (stwFetch s p = .denied → Traps s (f p) p 1 0 0 none ∧
      ((coreOf s p).exl = true → (coreOf s p).priv ≠ 2 → ∃ t, exec (f p) s = .next t ∧ (coreOf t p).run = .stopped ∧
        (coreOf t p).gpr = (coreOf s p).gpr ∧ (coreOf t p).pc = (coreOf s p).pc ∧ (coreOf t p).epc = (coreOf s p).epc ∧
        rdBit t (stwA p 4) 2 = true)) ∧
    (∀ l, stwFetch s p = .miss l → exec (f p) s = .next (putCore p
      { coreOf s p with miss := some { addr := (coreOf s p).pc.toNat, line := l, instr := true } } s)) ∧
    (∀ w, stwFetch s p = .word w →
      (stwDecode w = none → Traps s (f p) p 2 0 0 none) ∧
      (∀ i, stwDecode w = some i → (i.row ≠ row → exec (f p) s = .next s) ∧
        (i.row = row → (condHolds (coreOf s p) w = false → StwNext s (f p) p pcNext) ∧
          (condHolds (coreOf s p) w = true → stwPriv (coreOf s p) i = true → Traps s (f p) p 3 0 0 none))))

/-- Arithmetic (R459 to R463). Every instruction with one result writes it to RD, CMP, CMPI and PLOG write p[PD], and nothing else
changes but PC. Quotient and remainder give RA back, the remainder has the sign of RA and is smaller than RB; MUL and MULHS are the two
halves of the product; CLZ counts the zeros above the highest 1 bit. -/
def Obligations.StewardArithmetic : Prop :=
  (∀ (s : State) (p : Nat) (f : Nat → Instr) (row : StwRow) (i : StwIns), (f, row) ∈ stwInstrs → StwRuns s p row i →
    let a := gRead (coreOf s p) i.ra
    let b := gRead (coreOf s p) i.rb
    let d := gRead (coreOf s p) i.rd
    let give := fun (v : Word) => StwNext s (f p) p (fun c => pcNext (gWrite i.rd v c))
    let pred := fun (v : Bool) => StwNext s (f p) p (fun c => pcNext (pWrite i.pd v c))
    (∀ fn, row = .alu fn → give (stwAlu fn a b)) ∧ (row = .addi → give (a + i.imm12s)) ∧
    (row = .andi → give (a &&& BitVec.ofNat 32 i.imm12)) ∧ (row = .ori → give (a ||| BitVec.ofNat 32 i.imm12)) ∧
    (row = .xori → give (a ^^^ BitVec.ofNat 32 i.imm12)) ∧ (row = .slli → give (a <<< (i.imm12 % 32))) ∧
    (row = .srli → give (a >>> (i.imm12 % 32))) ∧ (row = .srai → give (a.sshiftRight (i.imm12 % 32))) ∧
    (row = .lui → give (BitVec.ofNat 32 (i.imm17 * 2 ^ 15))) ∧
    (row = .llo → give (BitVec.ofNat 32 (d.toNat / 2 ^ 15 * 2 ^ 15 + i.imm17 % 2 ^ 15))) ∧
    (row = .cmp → pred (stwCmp i.cc a b)) ∧ (row = .cmpi → pred (stwCmp i.cc a i.imm12s)) ∧
    (row = .plog → pred (stwPlog i.pfn (pRead (coreOf s p) i.pa) (pRead (coreOf s p) i.pb)))) ∧
  (∀ a b : Word, stwAlu 0x0D a b * b + stwAlu 0x0F a b = a ∧ stwAlu 0x0C a b * b + stwAlu 0x0E a b = a ∧
    (b ≠ 0 → (stwAlu 0x0E a b).toNat < b.toNat ∧ (stwAlu 0x0F a b).toInt.natAbs < b.toInt.natAbs ∧
      0 ≤ (stwAlu 0x0F a b).toInt * a.toInt) ∧
    (b = 0 → stwAlu 0x0C a b = 0xFFFFFFFF ∧ stwAlu 0x0D a b = 0xFFFFFFFF) ∧
    a.toInt * b.toInt = (stwAlu 0x0B a b).toInt * 2 ^ 32 + (stwAlu 0x09 a b).toNat ∧
    a.toNat * b.toNat = (stwAlu 0x0A a b).toNat * 2 ^ 32 + (stwAlu 0x09 a b).toNat ∧
    (a ≠ 0 → a.toNat < 2 ^ (32 - (stwAlu 0x15 a b).toNat) ∧ 2 ^ (31 - (stwAlu 0x15 a b).toNat) ≤ a.toNat) ∧
    stwAlu 0x15 0 b = 32 ∧ (stwAlu 0x10 a b).toInt = min a.toInt b.toInt ∧ (stwAlu 0x13 a b).toNat = max a.toNat b.toNat)

/-- Memory (R464, R472, R473, R477, R478). A misaligned access raises ALIGN, a denied one ACCESS, each with the address in EVA, and a
byte, a halfword or an AMO in an uncached region raises BUS. Of a line that the steward's data cache holds, a load gives the value, little
end first and extended; a store changes its bytes and no others and leaves the line dirty with this steward as its only holder; an AMO
does both. FENCE completes. CMO writes a dirty line back or drops it. Without the line the access waits for its fill. -/
def Obligations.StewardMemory : Prop :=
  (∀ (s : State) (p : Nat) (f : Nat → Instr) (row : StwRow) (i : StwIns) (n : Nat) (st : Bool), (f, row) ∈ stwInstrs →
    StwRuns s p row i → (row, n, st) ∈ [(.lw, 4, false), (.lh, 2, false), (.lhu, 2, false), (.lb, 1, false), (.lbu, 1, false),
      (.sw, 4, true), (.sh, 2, true), (.sb, 1, true), (.amo 0, 4, true), (.amo 1, 4, true), (.amo 2, 4, true), (.amo 3, 4, true)] →
    let c := coreOf s p
    let va := match row with
      | .amo _ => (gRead c i.ra).toNat
      | _ => (gRead c i.ra + i.imm12s).toNat
    let can := dataAllowed s p va st = true ∧ ((∃ fn, row = .amo fn) → dataAllowed s p va false = true)
    (va % n ≠ 0 → Traps s (f p) p 4 0 0 (some va)) ∧ (va % n = 0 → ¬ can → Traps s (f p) p 5 0 0 (some va)) ∧
    (va % n = 0 → can → cachedAt s p (localAt s p va) = none → (n < 4 ∨ ∃ fn, row = .amo fn) → Traps s (f p) p 7 0 0 (some va)) ∧
    (∀ a, va % n = 0 → can → cachedAt s p (localAt s p va) = some a →
      (cacheLine s (a / 64) = none → ∃ t, exec (f p) s = .next t ∧
        coreOf t p = { c with miss := some { addr := va, line := a / 64, instr := false } } ∧ StwAlone s t p) ∧
      (∀ x, HoldsLine s p (a / 64) x → ∃ t, exec (f p) s = .next t ∧ (∀ q, q ≠ p → coreOf t q = coreOf s q) ∧ t.cel = s.cel ∧
        t.cl = s.cl ∧ (∀ k, k ≠ a / 64 → cacheLine t k = cacheLine s k) ∧
        (let old := lineWord x.data a n
         let b := gRead c i.rb
         coreOf t p = pcNext (match row with
           | .lw | .lhu | .lbu | .amo _ => gWrite i.rd (BitVec.ofNat 32 old) c
           | .lh => gWrite i.rd ((BitVec.ofNat 16 old).signExtend 32) c
           | .lb => gWrite i.rd ((BitVec.ofNat 8 old).signExtend 32) c
           | _ => c) ∧
         (st = false → cacheLine t (a / 64) = some x) ∧
         (st = true → ∃ d, cacheLine t (a / 64) = some { x with owner := some (p, d), hold := [], shelves := [p / 17] } ∧
           ∀ j, j < 64 → d.getD j 0 = if a % 64 ≤ j ∧ j < a % 64 + n then
             (leBytes n (match row with
               | .amo 0 => b
               | .amo 1 => BitVec.ofNat 32 old + b
               | .amo 2 => BitVec.ofNat 32 old &&& b
               | .amo 3 => BitVec.ofNat 32 old ||| b
               | _ => gRead c i.rd).toNat).getD (j - a % 64) 0
             else x.data.getD j 0)))) ) ∧
  (∀ (s : State) (p : Nat) (i : StwIns),
    (StwRuns s p (.fence 0) i → StwNext s (.fence p) p pcNext) ∧
    (StwRuns s p (.fence 1) i → StwNext s (.instructionSync p) p pcNext) ∧
    (∀ fn f, (fn, f) ∈ [(0, Instr.cmoClean p), (1, .cmoInvalidate p), (2, .cmoCleanInvalidate p), (3, .cmoInvalidateIline p)] →
      StwRuns s p (.cmo fn) i →
      let c := coreOf s p
      let va := (gRead c i.ra).toNat
      (dataAllowed s p va false = false → Traps s f p 5 0 0 (some va)) ∧
      (∀ a x, dataAllowed s p va false = true → cachedAt s p (localAt s p va) = some a → HoldsLine s p (a / 64) x →
        ∃ t, exec f s = .next t ∧ coreOf t p = pcNext c ∧ (∀ k, k ≠ a / 64 → cacheLine t k = cacheLine s k) ∧
          (x.dirty = false ∨ fn = 1 ∨ fn = 3 → t.cel = s.cel) ∧ (fn = 0 → cacheLine t (a / 64) = some { x with dirty := false }) ∧ (fn = 1 ∨ fn = 2 → cacheLine t (a / 64) = none) ∧
          (fn = 3 → icLine t p (a / 64) = none ∧ cacheLine t (a / 64) = some x))))

/-- Control flow, levels and system registers (R457, R480, R481, R483, R486). B, BL and JR go to their targets, a misaligned JR raises
ALIGN; SYS and BRK raise their exceptions with INFO; RFE restores PSR and PC from the registers of its level; MFSR and MTSR read and
write the register named, MTSR of IRQ_PEND clears lines; GCALL enters G at its entry and GRET returns to GRA with IE and EXL as
they were. -/
def Obligations.StewardControlFlow : Prop :=
  ∀ (s : State) (p : Nat) (i : StwIns),
    let c := coreOf s p
    let a := gRead c i.ra
    let goto' := fun (t : Word) (c : Steward) => { c with pc := t &&& 0xFFFFFFFC }
    (StwRuns s p .b i → StwNext s (.b p) p (goto' (c.pc + i.branch))) ∧
    (StwRuns s p .bl i → StwNext s (.bl p) p (fun x => goto' (c.pc + i.branch) (gWrite 23 (c.pc + 4) x))) ∧
    (StwRuns s p .jr i → (a.toNat % 4 = 0 → StwNext s (.jr p) p (fun x => goto' a (gWrite i.rd (c.pc + 4) x))) ∧
      (a.toNat % 4 ≠ 0 → Traps s (.jr p) p 4 0 0 (some a.toNat))) ∧
    (StwRuns s p .sys i → Traps s (.sys p) p 9 i.imm12 0 none) ∧
    (StwRuns s p .brk i → Traps s (.brk p) p 10 i.imm12 0 none) ∧
    (StwRuns s p .rfe i → StwNext s (.rfe p) p (fun x => if c.priv = 2 then goto' c.gepc (setPsr c.gepsr x)
      else goto' c.epc (setPsr c.epsr x))) ∧
    (StwRuns s p .mfsr i → StwNext s (.mfsr p) p (fun x =>
      pcNext (gWrite i.rd (sysRead s p i.imm12) (sysReadEffect s p i.imm12 x)))) ∧
    (StwRuns s p .mtsr i → (i.imm12 ≠ 0x030 → StwNext s (.mtsr p) p (fun x => pcNext (sysWrite i.imm12 a x))) ∧
      (i.imm12 = 0x030 → ∃ t, exec (.mtsr p) s = .next t ∧ irqPendOf t p = irqPendOf s p &&& ~~~ a ∧ (coreOf t p).pc = c.pc + 4 ∧
        (coreOf t p).gpr = c.gpr ∧ ∀ q, q ≠ p → coreOf t q = coreOf s q ∧ irqPendOf t q = irqPendOf s q)) ∧
    (StwRuns s p .gcall i → StwNext s (.gcall p) p (fun x => { x with
      gra := c.pc + 4, priv := 2, ie := false, pc := BitVec.ofNat 32 (0xF0000000 + 0x40 * (i.imm12 % 64)), gEntry := i.imm12 % 64
      gcall := some { ie := c.ie, exl := c.exl, cycle := cyclesNow s p } })) ∧
    (∀ g, StwRuns s p .gret i → c.gcall = some g → c.haltDue = false → StwNext s (.gret p) p (fun x =>
      { x with priv := 1, ie := g.ie, exl := g.exl, pc := c.gra, gLast := 1, gcall := none })) ∧
    (∀ v : BitVec 8, let x := setPsr v c
      psrOf x = v ∧ x.pc = c.pc ∧ x.gpr = c.gpr)

/-- What ties a steward to the spring, the task scheduler, the attic and the outside (R466 to R470, R474, R484, R487, R490, R494, R668).
WFT waits until its count has come, and then gives it; POST gives the status of its target; FCLAIM, FREL and AMB as R469 and R470 say.
A filled line releases the access. An enabled interrupt is taken before the next instruction, at EVEC + 0x80. An overlong GCALL is
aborted with the registers cleared. HALT, RESTART, the doorbell and the debug registers act as R490, R494 and R668 say. -/
def Obligations.StewardServices : Prop :=
  (∀ (s : State) (p : Nat) (i : StwIns),
    let c := coreOf s p
    let a := gRead c i.ra
    (StwRuns s p .wft i → let cnt := if i.imm12 % 4 = 0 then s.spr.tick.setWidth 32 else s.spr.commit.setWidth 32
      (s.chip.devState = .running ∧ 0 ≤ (cnt - a).toInt → StwNext s (.wft p) p (fun x => pcNext (gWrite i.rd cnt x))) ∧
      (s.chip.devState ≠ .running ∨ (cnt - a).toInt < 0 →
        StwNext s (.wft p) p (fun x => { x with run := .waiting, await := some (i.imm12 % 4, a, i.rd) }))) ∧
    (StwRuns s p .post i → let give := fun (v : Word) => StwNext s (.post p) p (fun x => pcNext (gWrite i.rd v x))
      (fld a 7 1 ≠ 0 ∨ fld a 17 15 ≠ 0 → give 2) ∧
      (fld a 7 1 = 0 → fld a 17 15 = 0 → let q := if bit a 16 then p else physOf s (fld a 8 8)
        mapGet false s.chip.bistOpen q = false → shelfOn s (q / 17) = true → rdBit s (tskA q 0) 0 = true → roleOf s q = .active → q < 272 →
        ((flowOf (schedOf s q) (fld a 0 7)).items.length < flowLimit s q (fld a 0 7) → poolCount (schedOf s q) < 4096 →
          ∃ t, exec (.post p) s = .next t ∧ gRead (coreOf t p) i.rd = 0 ∧ (coreOf t p).pc = c.pc + 4 ∧
            (flowOf (schedOf t q) (fld a 0 7)).items = (flowOf (schedOf s q) (fld a 0 7)).items ++ [{ value := gRead c i.rb, flips := 0 }]) ∧
        (flowLimit s q (fld a 0 7) ≤ (flowOf (schedOf s q) (fld a 0 7)).items.length →
          ∃ t, exec (.post p) s = .next t ∧ (i.rd < 24 → gRead (coreOf t p) i.rd = 1) ∧ (coreOf t p).pc = c.pc + 4 ∧
            (flowOf (schedOf t q) (fld a 0 7)).items = (flowOf (schedOf s q) (fld a 0 7)).items))) ∧
    (StwRuns s p .fclaim i → (fld a 7 25 ≠ 0 → Traps s (.fclaim p) p 6 0 0 none) ∧
      (fld a 7 25 = 0 → ∃ t, exec (.fclaim p) s = .next t ∧ (coreOf t p).pc = c.pc + 4 ∧
        match schedClaim p c.thread (fld a 0 7) s with
        | (some v, _) => coreOf t p = pcNext (pWrite i.pdQ true (gWrite i.rd v c))
        | (none, _) => coreOf t p = pcNext (pWrite i.pdQ false c))) ∧
    (StwRuns s p .frel i → (fld a 7 25 ≠ 0 → Traps s (.frel p) p 6 0 0 none) ∧
      (fld a 7 25 = 0 → (flowOf (schedOf s p) (fld a 0 7)).holder = some c.thread → ∃ t, exec (.frel p) s = .next t ∧
        (coreOf t p).pc = c.pc + 4 ∧ (coreOf t p).gpr = c.gpr ∧ (flowOf (schedOf t p) (fld a 0 7)).holder = none ∧
        (flowOf (schedOf t p) (fld a 0 7)).items = (flowOf (schedOf s p) (fld a 0 7)).items.drop 1) ∧
      (fld a 7 25 = 0 → (flowOf (schedOf s p) (fld a 0 7)).holder ≠ some c.thread → Traps s (.frel p) p 6 0 0 none)) ∧
    (StwRuns s p .amb i → let give := fun (v : Word) => ∃ t, exec (.amb p) s = .next t ∧ coreOf t p = pcNext (gWrite i.rd v c)
      let b := (gRead c i.rb).toNat
      (a.toNat % 64 ≠ 0 → Traps s (.amb p) p 4 0 0 (some a.toNat)) ∧
      (a.toNat % 64 = 0 → b = 0 ∨ 4096 < b ∨ b % 64 ≠ 0 → give 0xFFFFFFFF) ∧
      (∀ off x, a.toNat % 64 = 0 → b = 64 → localAt s p a.toNat = .fwa off → dataAllowed s p a.toNat false = true →
        off < rdFld s (stwA p 0x30) 0 10 * 2 ^ 20 → cacheLine s ((genBase * 2 ^ 20 + off) / 64) = some x →
        (16 ≤ s.att.queue.length → give 0xFFFFFFFF) ∧
        (s.att.queue.length < 16 → ∃ t, exec (.amb p) s = .next t ∧
          coreOf t p = pcNext (gWrite i.rd (BitVec.ofNat 32 s.att.nextTicket.toNat) c) ∧
          t.att.queue = s.att.queue ++ [{ ticket := s.att.nextTicket.toNat, who := .steward p, bytes := lineNow x }])))) ∧
  (∀ (s : State) (p : Nat) (m : Miss) (chk : Verdict) (alarm : Bool), stwAwake s p = true → (coreOf s p).miss = some m →
    (coreOf s p).exl = false → ∃ t, exec (.lineFill p chk alarm) s = .next t ∧ (coreOf t p).miss = none ∧
      match readLine (.steward p false) m.line chk s with
      | (0, d, _) => (coreOf t p).gpr = (coreOf s p).gpr ∧ (coreOf t p).pc = (coreOf s p).pc ∧ (coreOf t p).run = (coreOf s p).run ∧
          (m.instr = true → icLine t p m.line = some d) ∧
          (m.instr = false → cacheLine t m.line = some
            { data := d, dirty := false, shelves := [p / 17], hold := [p], owner := none, flips := 0 })
      | (st, _, _) => Takes { coreOf s p with miss := none } (coreOf t p) (if m.instr then 1 else 7)
          (if m.instr ∨ st = 1 then 0 else if alarm then 2 else 1) 0 (if m.instr then none else some m.addr)) ∧
  (∀ (s : State) (p line : Nat), stwAwake s p = true → (coreOf s p).run = .executing → (coreOf s p).miss = none → inAccess s p = false →
    dueLine s p = some line → (coreOf s p).gated = false → Traps s (.interrupt p) p 16 0 line none) ∧
  (∀ (s : State) (p : Nat) (g : GCall), stwAwake s p = true → (coreOf s p).gcall = some g → (coreOf s p).haltDue = false →
    g.cycle + 1000000 ≤ cyclesNow s p → ∃ t, exec (.gcallTimeout p) s = .next t ∧ (coreOf t p).gpr = [] ∧ (coreOf t p).preds = 0 ∧
      (coreOf t p).pc = (coreOf s p).gra ∧ (coreOf t p).priv = 1 ∧ (coreOf t p).gLast = 2 ∧ (coreOf t p).gcall = none ∧
      rdBit t (stwA p 4) 5 = true) ∧
  (∀ (s : State) (p kind rd : Nat) (v : Word), p < 272 → (coreOf s p).run = .waiting → (coreOf s p).await = some (kind, v, rd) →
    (coreOf s p).gated = false → shelfOn s (p / 17) = true →
    (wftReached s kind v = false → exec (.wftRelease p) s = .next s) ∧
    (wftReached s kind v = true → ∃ t, exec (.wftRelease p) s = .next t ∧
      coreOf t p = pcNext (gWrite rd (wftCount s kind) { coreOf s p with run := .executing, await := none }))) ∧
  (∀ (s : State) (who : Requester) (p : Nat), p < 272 → Reaches s who (stwA p 0) →
    (WriteOk s (.halt who p) who (fun u => rdBit u (stwA p 0) 0 = true ∧
      ((coreOf s p).run = .executing → (coreOf s p).priv ≠ 2 → (coreOf u p).run = .halted ∧ (coreOf u p).pc = (coreOf s p).pc) ∧
      ((coreOf s p).run = .executing → (coreOf s p).priv = 2 → granted s 1 = false → (coreOf u p).run = .executing ∧
        (coreOf u p).haltDue = true) ∧
      ((coreOf s p).run = .stopped → (coreOf u p).run = .stopped))) ∧
    (WriteOk s (.haltClear who p) who (fun u => rdBit u (stwA p 0) 0 = false ∧
      (rdBit s (stwA p 0) 0 = true → (coreOf s p).run = .halted → (coreOf s p).parked = false →
        (coreOf u p).run = .executing ∧ (coreOf u p).pc = (coreOf s p).pc) ∧
      ((coreOf s p).run = .stopped → (coreOf u p).run = .stopped))) ∧
    (roleOf s p = .active → WriteOk s (.stwRestart who p false) who (fun u => (coreOf u p).run = .executing ∧
      (coreOf u p).pc = s.stw.entry ∧ (coreOf u p).gpr = [] ∧ (coreOf u p).priv = 1 ∧ (coreOf u p).evec = 0 ∧ irqPendOf u p = 0 ∧
      (∀ k, k < 2 ^ 30 → icLine u p k = none) ∧ ∀ k x, cacheLine u k = some x → x.owner.map (fun q => q.1) ≠ some p))) ∧
  (∀ (s : State) (who : Requester) (p : Nat) (v : Word), p < 272 → Reaches s who (stwA p 0xC) →
    WriteOk s (.stewardDoorbell who p v) who (fun u => irqPendOf u p = irqPendOf s p ||| ((v &&& 0xFFFF) <<< 16) ∧
      ∀ q, q ≠ p → irqPendOf u q = irqPendOf s q)) ∧
  (∀ (s : State) (who : Requester) (p r : Nat) (v : Word), p < 272 → r < 24 → Reaches s who (stwA p (0x40100 + 4 * r)) →
    (dbgOpen s p = true → WriteOk s (.stwDbgWrite who p (0x40100 + 4 * r) v) who (fun u =>
      gRead (coreOf u p) r = v ∧ (coreOf u p).pc = (coreOf s p).pc ∧ ∀ k, k < 24 → k ≠ r → gRead (coreOf u p) k = gRead (coreOf s p) k)) ∧
    (dbgOpen s p = false → WriteOk s (.stwDbgWrite who p (0x40100 + 4 * r) v) who (fun u => u = s)))

/-! ### Task schedulers (chapter 12) -/

/-- The commands of a steward's own scheduler (R505, R512, R513): what each leaves of its slot or flow, and where it is refused. A
change that makes a dispatch request due raises line 0 (R502).
Posts, time and CLR of a scheduler (R503 to R505, R507, R508, R510, R517). A post joins the end of its flow, and where it makes the
flow claimable wakes the earliest waiter; a full flow or EN = 0 refuses it with an error response and counts it. A deadline that
passes is counted once. At a Nigor tick entries that expire wake their slots and line 1 rises. CLR empties everything. -/
def Obligations.SchedulerCommandsPostsAndTime : Prop :=
  (
  ∀ (s : State) (p i : Nat), i < 64 → Reaches s (.steward p) (tskA p 0x10) → Reaches s (.steward p) (tskA p 0x14) →
    let x := schedOf s p
    let v := slotOf x i
    let others := fun (y : Sched) => ∀ j, j ≠ i → slotOf y j = slotOf x j
    (∀ d, (v.state = 0 → SchedDoes s (.create p i d) p (fun y =>
        slotOf y i = { Slot.reset with deadline := d, state := 1 } ∧ others y ∧ y.flows = x.flows ∧ y.delays = x.delays)) ∧
      (v.state ≠ 0 → SchedRefuses s (.create p i d) p)) ∧
    (v.state ≠ 0 → SchedDoes s (.free p i) p (fun y => (slotOf y i).state = 0 ∧ (∀ d ∈ y.delays, d.2 ≠ i) ∧
        ∀ f, f < 128 → (flowOf y f).holder ≠ some i ∧ (flowOf y f).items = (flowOf x f).items)) ∧
    (v.state = 0 → SchedRefuses s (.free p i) p) ∧
    (v.state = 1 → SchedDoes s (.dispatch p i) p (fun y => slotOf y i = { v with state := 2 } ∧
        (∀ j, runSlot x = some j → slotOf y j = { slotOf x j with state := 1 }) ∧ y.flows = x.flows ∧ y.delays = x.delays)) ∧
    (v.state ≠ 1 → SchedRefuses s (.dispatch p i) p) ∧
    (∀ j, runSlot x = some j → SchedDoes s (.yield p i) p (fun y => slotOf y j = { slotOf x j with state := 1 } ∧
        (∀ k, k ≠ j → slotOf y k = slotOf x k) ∧ y.flows = x.flows ∧ y.delays = x.delays)) ∧
    (runSlot x = none → SchedRefuses s (.yield p i) p) ∧
    (v.state ≠ 0 → v.state ≠ 4 → SchedDoes s (.block p i) p (fun y => slotOf y i = { v with state := 4, flowEn := false } ∧ others y ∧
        (∀ d ∈ y.delays, d.2 ≠ i) ∧ y.flows = x.flows)) ∧
    (v.state = 0 ∨ v.state = 4 → SchedRefuses s (.block p i) p) ∧
    (v.state = 4 → SchedDoes s (.unblock p i) p (fun y => slotOf y i = { v with state := 1 } ∧ others y ∧ y.flows = x.flows)) ∧
    (v.state ≠ 4 → SchedRefuses s (.unblock p i) p) ∧
    (∀ d, (v.state ≠ 0 → SchedDoes s (.setdl p i d) p (fun y => slotOf y i = { v with deadline := d, miss := false } ∧ others y)) ∧
      (v.state = 0 → SchedRefuses s (.setdl p i d) p)) ∧
    (∀ a : Word, (¬ (v.state = 1 ∨ v.state = 2) ∨ (bit a 7 = false ∧ fld a 8 24 = 0) → SchedRefuses s (.wait p i a) p) ∧
      (v.state = 1 ∨ v.state = 2 → bit a 7 = true → claimable (flowOf x (fld a 0 7)) = true → SchedDoes s (.wait p i a) p (fun y =>
        slotOf y i = { v with state := 1, why := 1, flowEn := false } ∧ others y ∧ ∀ d ∈ y.delays, d.2 ≠ i)) ∧
      (v.state = 1 ∨ v.state = 2 → bit a 7 = false ∨ claimable (flowOf x (fld a 0 7)) = false → ¬ (bit a 7 = false ∧ fld a 8 24 = 0) →
        SchedDoes s (.wait p i a) p (fun y =>
          slotOf y i = { v with state := 3, why := 0, flowEn := bit a 7, flow := fld a 0 7 } ∧ others y ∧
          (fld a 8 24 = 0 → ∀ d ∈ y.delays, d.2 ≠ i) ∧
          (fld a 8 24 ≠ 0 → (rdReg s (tskA p 0x1C) + BitVec.ofNat 32 (fld a 8 24), i) ∈ y.delays ∧
            ∀ d ∈ y.delays, d.2 = i → d.1 = rdReg s (tskA p 0x1C) + BitVec.ofNat 32 (fld a 8 24))))) ∧
    (∀ f, f < 128 → SchedDoes s (.flush p f) p (fun y => flowOf y f = Flow.reset ∧ (∀ g, g ≠ f → flowOf y g = flowOf x g) ∧
        y.slots = x.slots ∧ y.delays = x.delays))) ∧ (
  (∀ (s : State) (who : Requester) (p f : Nat) (item : Word), p < 272 → f < 128 → Reaches s who (tskA p (0x1000 + 4 * f)) →
    let x := schedOf s p
    (rdBit s (tskA p 0) 0 = true → (flowOf x f).items.length < flowLimit s p f → poolCount x < 4096 →
      WriteOk s (.tskPost who p f item) who (fun u =>
        (flowOf (schedOf u p) f).items = (flowOf x f).items ++ [{ value := item, flips := 0 }] ∧
        (flowOf (schedOf u p) f).holder = (flowOf x f).holder ∧ (∀ g, g ≠ f → flowOf (schedOf u p) g = flowOf x g) ∧
        (∀ i, (flowOf x f).items = [] → (flowOf x f).holder = none → earliestOf x (waiters x f) = some i →
          (slotOf (schedOf u p) i).state = 1 ∧ (slotOf (schedOf u p) i).why = 1 ∧ ∀ d ∈ (schedOf u p).delays, d.2 ≠ i))) ∧
    (rdBit s (tskA p 0) 0 = false ∨ flowLimit s p f ≤ (flowOf x f).items.length ∨ 4096 ≤ poolCount x →
      ∃ u, exec (.tskPost who p f item) s = .next (answer who true .error 0 u) ∧ schedOf u p = x ∧
        rdBit u (tskA p (0x404 + 8 * f)) 20 = true ∧ rdBit u (tskA p 4) 15 = true ∧
        rdReg u (tskA p (0x800 + 4 * f)) = BitVec.ofNat 32 (min (2 ^ 32 - 1) ((rdReg s (tskA p (0x800 + 4 * f))).toNat + 1)))) ∧
  (∀ (s : State) (who : Requester) (p : Nat), p < 272 → Reaches s who (tskA p 0) → WriteOk s (.tskClr who p) who (fun u =>
    (∀ i, (slotOf (schedOf u p) i).state = 0) ∧ (schedOf u p).delays = [] ∧ (∀ f, flowOf (schedOf u p) f = Flow.reset) ∧
    (∀ f, f < 128 → rdReg u (tskA p (0x800 + 4 * f)) = 0) ∧ rdReg u (tskA p 0x20) = 0 ∧ rdReg u (tskA p 0x1C) = 0 ∧
    ∀ q, q ≠ p → schedOf u q = schedOf s q)) ∧
  (∀ (s : State) (p i : Nat), p < 272 → i < 64 → shelfOn s (p / 17) = true →
    let v := slotOf (schedOf s p) i
    let late := (tskNow s - v.deadline).toInt
    ((v.state = 1 ∨ v.state = 2) → v.miss = false → 0 < late → ∃ t, exec (.deadlineMiss p i) s = .next t ∧
      slotOf (schedOf t p) i = { v with miss := true } ∧ rdBit t (tskA p 4) 14 = true ∧
      rdReg t (tskA p 0x20) = BitVec.ofNat 32 (min (2 ^ 32 - 1) ((rdReg s (tskA p 0x20)).toNat + 1))) ∧
    (v.miss = true ∨ late ≤ 0 → exec (.deadlineMiss p i) s = .next s)) ∧
  (∀ (s : State) (p : Nat) (e : Word) (i : Nat), p < 272 → shelfOn s (p / 17) = true → rdFld s (tskA p 0x18) 0 20 ≠ 0 →
    let x := schedOf s p
    let b := tb1Now s / (rdFld s (tskA p 0x18) 0 20 * 65536)
    x.bound < b → x.delays = [(e, i)] →
    let c := rdReg s (tskA p 0x1C) + BitVec.ofNat 32 (b - x.bound)
    ∃ t, exec (.nigorTick p) s = .next t ∧ rdReg t (tskA p 0x1C) = c ∧ (schedOf t p).bound = b ∧
      ((e - c).toInt ≤ 0 → (slotOf (schedOf t p) i).state = 1 ∧ (slotOf (schedOf t p) i).why = 2 ∧
        (slotOf (schedOf t p) i).flowEn = false ∧ (schedOf t p).delays = [] ∧ (coreOf t p).irqPend.getLsbD 1 = true) ∧
      (0 < (e - c).toInt → (schedOf t p).delays = [(e, i)] ∧ slotOf (schedOf t p) i = slotOf x i ∧
        (rdBit s (tskA p 0) 1 = true → (coreOf t p).irqPend.getLsbD 1 = true))))

/-! ### Control network, shelf domains and DMA (chapters 13 and 17) -/

/-- The generation switch (R539 to R541, R546) and the phases of a shelf domain (R542 to R544, R549, R689 to R693). SWITCH is refused
while DRAINING and else starts the check; a bank that passes begins to drain, another sets RT_BAD; with no packet of the old
generation left GEN changes and NOC_SWITCHES counts. An eligible shelf enters QUIESCE by AUTO or DOWN; in RETAIN no cache of the
shelf holds a line; a wake condition before FALLING reverts the power-down, in FALLING the shelf powers up once it is down, in OFF
it wakes. At ON held requests are delivered in their order of arrival; where the power-up fails each is answered with an error. -/
def Obligations.NetworkAndShelfPower : Prop :=
  (∀ (s : State) (who : Requester), Reaches s who (nocA 4) →
    (rdBit s nocStatus 1 = true → Refuses s (.switch who) who true) ∧
    (rdBit s nocStatus 1 = false → WriteOk s (.switch who) who (fun u => rdBit u nocStatus 5 = true ∧
      (∀ i, i ≠ 5 → rdBit u nocStatus i = rdBit s nocStatus i) ∧ (∀ b, b ≠ nocStatus → rdReg u b = rdReg s b) ∧
      u = { s with regs := u.regs }))) ∧
  (∀ s : State, rdBit s nocStatus 5 = true → ∃ t, exec .routeCheckDone s = .next t ∧ rdBit t nocStatus 5 = false ∧
    nocGen t = nocGen s ∧ (∀ b, b ≠ nocStatus → rdReg t b = rdReg s b) ∧ t = { s with regs := t.regs } ∧
    (if bankOk s (1 - nocGen s) then rdBit t nocStatus 1 = true ∧ rdBit t nocStatus 2 = rdBit s nocStatus 2
     else rdBit t nocStatus 2 = true ∧ rdBit t nocStatus 1 = rdBit s nocStatus 1)) ∧
  (∀ s : State, rdBit s nocStatus 1 = true → ∃ t, exec .generationDrained s = .next t ∧ rdBit t nocStatus 1 = false ∧
    nocGen t = 1 - nocGen s ∧ rdFld t (nocA 0xC) 0 32 = min (2 ^ 32 - 1) (rdFld s (nocA 0xC) 0 32 + 1) ∧
    (∀ b, b ≠ nocStatus → b ≠ nocA 0xC → rdReg t b = rdReg s b) ∧ t = { s with regs := t.regs }) ∧
  (∀ (s : State) (h : Nat), h < 16 → shelfOn s h = true →
    (shelfEligible s h = true →
      (rdBit s (pwrCtrl h) 0 = true → ∃ t, exec (.shelfEligible h) s = .next t ∧
        GateIs s t h { gateOf s h with phase := .quiesce, revert := false, trip := false } []) ∧
      (rdBit s (pwrCtrl h) 0 = false → ∃ t, exec (.shelfEligible h) s = .next t ∧ rdBit t (pwrStat h) 1 = true ∧
        GateIs s t h (gateOf s h) [pwrStat h])) ∧
    (∀ who, Reaches s who (pwrCtrl h) →
      (shelfEligible s h = true → WriteOk s (.shelfDown who h) who (fun u =>
        rdReg u (pwrCtrl h) = rdReg s (pwrCtrl h) &&& 0xFFFF0001 ∧
        GateIs s u h { gateOf s h with phase := .quiesce, revert := false, trip := false } [pwrCtrl h])) ∧
      (shelfEligible s h = false → Refuses s (.shelfDown who h) who true))) ∧
  (∀ (s : State) (h : Nat) (who : Requester), h < 16 → Reaches s who (pwrCtrl h) →
    let g := gateOf s h
    (g.phase ≠ .on → WriteOk s (.shelfDown who h) who (fun u => GateIs s u h g [pwrCtrl h])) ∧
    (g.phase = .on ∨ g.phase = .waking → WriteOk s (.shelfUp who h) who (fun u => GateIs s u h g [pwrCtrl h])) ∧
    (g.phase = .quiesce ∨ g.phase = .retain → g.trip = false → WriteOk s (.shelfUp who h) who (fun u =>
      rdFld u (pwrStat h) 3 3 = 6 ∧ GateIs s u h { g with revert := true } [pwrCtrl h, pwrStat h])) ∧
    (g.phase = .off → thermHold s h = false → WriteOk s (.shelfUp who h) who (fun u =>
      rdFld u (pwrStat h) 3 3 = 6 ∧ GateIs s u h { g with phase := .waking, wake := 0 } [pwrCtrl h, pwrStat h])) ∧
    (g.phase = .falling ∨ (g.phase = .off ∧ thermHold s h = true) ∨ ((g.phase = .quiesce ∨ g.phase = .retain) ∧ g.trip = true) →
      WriteOk s (.shelfUp who h) who (fun u => GateIs s u h { g with wake := 6 } [pwrCtrl h]))) ∧
  (∀ (s : State) (h : Nat) (ok : Bool), h < 16 →
    let g := gateOf s h
    (g.phase = .quiesce → g.revert = false → ∃ t, exec (.shelfPhaseDone h ok) s = .next t ∧ (gateOf t h).phase = .retain ∧
      (gateOf t h).held = g.held ∧ ∀ l x, cacheLine t l = some x → h ∉ x.shelves) ∧
    (g.phase = .retain → g.revert = false → ∃ t, exec (.shelfPhaseDone h ok) s = .next t ∧
      GateIs s t h { g with phase := .falling } []) ∧
    (g.phase = .quiesce ∨ g.phase = .retain → g.revert = true → ∃ u, (gateOf u h).phase = .on ∧ (gateOf u h).held = [] ∧
      rdFld u (gateReg h) 16 8 = min 255 (rdFld s (gateReg h) 16 8 + 1) ∧ u.cl = s.cl ∧ u.cel = s.cel ∧
      exec (.shelfPhaseDone h ok) s = .next (g.held.foldl (fun acc q => deliver q acc) u)) ∧
    (g.phase = .falling → g.wake = 0 → ∃ t, exec (.shelfPhaseDone h ok) s = .next t ∧
      GateIs s t h { g with phase := .off, trip := false } []) ∧
    (g.phase = .falling → g.wake ≠ 0 → g.wake < 8 → thermHold s h = false → ∃ t, exec (.shelfPhaseDone h ok) s = .next t ∧
      rdFld t (pwrStat h) 3 3 = g.wake ∧ rdFld t (gateReg h) 24 8 = min 255 (rdFld s (gateReg h) 24 8 + 1) ∧
      GateIs s t h { g with phase := .waking, wake := 0 } [pwrStat h, gateReg h]) ∧
    (g.phase = .waking → ok = true → g.trip = false → ∃ u, (gateOf u h).phase = .on ∧ (gateOf u h).held = [] ∧ u.cl = s.cl ∧
      u.cel = s.cel ∧ exec (.shelfPhaseDone h ok) s = .next (g.held.foldl (fun acc q => deliver q acc) u)) ∧
    (g.phase = .waking → ok = false → ∃ u, gateOf u h = { g with phase := .off, held := [] } ∧ rdBit u nocStatus 4 = true ∧
      (∃ r, u.att.reports = s.att.reports ++ [r] ∧ r.kind = 0x11) ∧ u.cl = s.cl ∧ u.cel = s.cel ∧
      exec (.shelfPhaseDone h ok) s = .next (g.held.foldl (fun acc q => answer q.who q.write .error 0 acc) u)))

/-- DMA channels (R551 to R559, R561 to R563). GO is accepted under R552 alone, and queues the channel with RESID = COUNT; the oldest
one starts when the lake has its units. A read of host memory, or of a sealed region as ciphertext, fills the channel's share of
the lake; a write of host memory leaves it, RESID counts it, and with the last one the channel is DONE. A read that fails ends the
channel with ERRCODE 1 once its issued writes are answered, a write to a sealed region with ERRCODE 6. ABORT ends a queued
or active channel and comes too late after DONE; ACK returns an ended channel to IDLE. -/
def Obligations.DmaChannels : Prop :=
  (∀ (s : State) (who : Requester) (n : Nat) (v : Word), n < 32 → Reaches s who (dmaReg n 0x18) →
    let w := (v ||| 1#32) &&& ~~~ 2#32
    let x := chanOf s n
    (dmaBusy s n = false → x.st ≠ .retired → goAllowed s n w = true → WriteOk s (.dmaGo who n v) who (fun u =>
      chanOf u n = { DmaCh.reset with st := .queued } ∧ u.noc.queue = s.noc.queue ++ [n] ∧
      rdReg u (dmaReg n 0x14) = rdReg s (dmaReg n 0x10) ∧ rdReg u (dmaReg n 0x1C) = 0 ∧
      rdReg u (dmaReg n 0x18) = (w &&& 0xFF7F7C) ∧ (∀ m, m ≠ n → chanOf u m = chanOf s m) ∧
      (∀ b, b ≠ dmaReg n 0x14 → b ≠ dmaReg n 0x18 → b ≠ dmaReg n 0x1C → rdReg u b = rdReg s b) ∧
      u = { s with regs := u.regs, noc := u.noc })) ∧
    (dmaBusy s n = true ∨ x.st = .retired ∨ goAllowed s n w = false → Refuses s (.dmaGo who n v) who true) ∧
    (x.st = .queued ∨ (x.st = .active ∧ x.lake = []) → WriteOk s (.dmaAbort who n v) who (fun u => DmaEnds s u n .aborted 0 ∧
      rdReg u (dmaReg n 0x14) = rdReg s (dmaReg n 0x14))) ∧
    (x.st = .active → x.lake ≠ [] → WriteOk s (.dmaAbort who n v) who (fun u => (chanOf u n).lake = x.lake ∧
      (chanOf u n).st = .active ∧ ((∀ e, x.ending ≠ some (.err, e)) → (chanOf u n).ending = some (.aborted, 0)) ∧
      (∀ e, x.ending = some (.err, e) → (chanOf u n).ending = some (.err, e)) ∧ u = { s with noc := u.noc })) ∧
    (x.st = .done → WriteOk s (.dmaAbort who n v) who (fun u => chanOf u n = x ∧ rdBit u (dmaReg n 0x1C) 3 = true ∧
      OnlyRegs s u [dmaReg n 0x18, dmaReg n 0x1C])) ∧
    (x.st = .idle ∨ x.st = .aborted ∨ x.st = .err → WriteOk s (.dmaAbort who n v) who (fun u => OnlyRegs s u [dmaReg n 0x18]))) ∧
  (∀ (s : State) (who : Requester) (n : Nat), n < 32 → Reaches s who (dmaReg n 0x1C) →
    let x := chanOf s n
    (x.st = .done ∨ x.st = .aborted ∨ x.st = .err → WriteOk s (.dmaAck who n) who (fun u => chanOf u n = DmaCh.reset ∧
      (∀ m, m ≠ n → chanOf u m = chanOf s m) ∧ u = { s with noc := u.noc })) ∧
    (x.st = .idle ∨ x.st = .queued ∨ x.st = .active ∨ x.st = .retired → WriteOk s (.dmaAck who n) who (fun u => u = s))) ∧
  (∀ (s : State) (n : Nat) (q : List Nat), s.noc.queue = n :: q →
    (dmaLake s n ≤ lakeFree s → ∃ t, exec (.dmaChannelActive n) s = .next t ∧ chanOf t n = { chanOf s n with st := .active } ∧
      t.noc.queue = q ∧ (∀ m, m ≠ n → chanOf t m = chanOf s m) ∧ t = { s with noc := t.noc }) ∧
    (lakeFree s < dmaLake s n → exec (.dmaChannelActive n) s = .next s)) ∧
  (∀ (s : State) (n : Nat) (data : List Byte) (chk : Verdict), n < 32 → dmaReads s n = true →
    let x := chanOf s n
    let a := sideAt (rdBit s (dmaReg n 0x18) 4) (dmaAddr s n 0) x.readOfs
    let len := min (min (dmaCount s n - x.readOfs) (512 - a % 512)) (4096 * dmaLake s n - x.lake.length)
    let fills := fun (bad : Bool) (b : List Byte) => ∃ t, exec (.dmaReadResponse n data bad chk) s = .next t ∧
      chanOf t n = { x with lake := x.lake ++ b, readOfs := x.readOfs + b.length } ∧
      (∀ m, m ≠ n → chanOf t m = chanOf s m) ∧ t = { s with noc := t.noc }
    (rdBit s (dmaReg n 0x18) 2 = true → data.length = len → fills false data) ∧
    (rdBit s (dmaReg n 0x18) 2 = false → inCellar (dmaAddr s n 0) = true →
      let off := a % 0x1000000000
      lineSealed s (off / 64) = true → lineCtr s (off / 64) ≠ 0 → off % 64 + len ≤ 64 →
      ∀ bad, fills bad (((lineCipher s (off / 64)).drop (off % 64)).take len)) ∧
    (rdBit s (dmaReg n 0x18) 2 = true → x.lake = [] →
      ∃ t, exec (.dmaReadResponse n data true chk) s = .next t ∧ DmaEnds s t n .err 1) ∧
    (rdBit s (dmaReg n 0x18) 2 = true → x.lake ≠ [] → ∃ t, exec (.dmaReadResponse n data true chk) s = .next t ∧
      chanOf t n = { x with ending := some (.err, 1) } ∧ t = { s with noc := t.noc })) ∧
  (∀ (s : State) (n : Nat) (chk : Verdict), n < 32 → (chanOf s n).st = .active → (chanOf s n).lake ≠ [] →
    let x := chanOf s n
    let a := sideAt (rdBit s (dmaReg n 0x18) 5) (dmaAddr s n 8) x.doneOfs
    let len := min x.lake.length (512 - a % 512)
    (rdBit s (dmaReg n 0x18) 3 = true → writeFailed x = false → ∃ t, exec (.dmaWriteResponse n chk) s = .next t ∧
      .hostWrite a (x.lake.take len) ∈ t.outbox ∧
      rdReg t (dmaReg n 0x14) = BitVec.ofNat 32 (dmaCount s n - (x.doneOfs + len)) ∧ t.cel = s.cel ∧
      (len < x.lake.length → chanOf t n = { x with lake := x.lake.drop len, doneOfs := x.doneOfs + len }) ∧
      (len = x.lake.length → x.ending = none → dmaCount s n ≤ x.doneOfs + len → DmaEnds s t n .done 0) ∧
      (len = x.lake.length → ∀ st e, x.ending = some (st, e) → e < 16 → DmaEnds s t n st e)) ∧
    (rdBit s (dmaReg n 0x18) 3 = false → inCellar (dmaAddr s n 8) = true →
      let off := a % 0x1000000000
      lineSealed s (off / 64) = true → off % 64 + len ≤ 64 → writeFailed x = false → len = x.lake.length →
      ∃ t, exec (.dmaWriteResponse n chk) s = .next t ∧ DmaEnds s t n .err 6 ∧ t.cel = s.cel ∧
        rdBit t celStatus 8 = true ∧ rdReg t (dmaReg n 0x14) = rdReg s (dmaReg n 0x14)))

/-! ### The cellar (chapter 14) -/

/-- Accesses of the cellar (R570, R575, R576, R580 to R582, R585 to R587). A region that the requester does not reach answers with an
error. A ciphertext view reads the stored bytes unchecked, with poison where the line is poisoned, and is refused a write of a sealed
region. A checked read delivers the plaintext, counts a recovered failure, and answers poison, setting POISON, where the line fails. A
speculative read delivers the plaintext, and its verdict, where it is no pass, is a late alarm that fails the epoch it belongs to. A
full-line write is always performed and clears POISON; a partial write merges; on a line that fails it is refused. A counter past the
threshold queues the region's re-key, past the hard end the write is held, or refused where the generation is exhausted. -/
def Obligations.CellarAccesses : Prop :=
  (∀ (s : State) (w : CelWho) (l : Nat) (chk : Verdict),
    let c := Instr.cellarRead w l chk
    (reaches s w (lineRegion l) = false → exec c s = .next (celAnswer w l 1 [] s)) ∧
    (reaches s w (lineRegion l) = true →
      (lineSealed s l = true → cipherView w = true →
        (linePoison s l = true → exec c s = .next (celAnswer w l 2 [] s)) ∧
        (linePoison s l = false → lineCtr s l ≠ 0 → exec c s = .next (celAnswer w l 0 (lineCipher s l) s)) ∧
        (linePoison s l = false → lineCtr s l = 0 → ∃ b, b.length = 64 ∧
          exec c s = .next (celAnswer w l 0 b { s with freeCtr := s.freeCtr + 1 }))) ∧
      (lineSealed s l = true → speculative w = true → linePoison s l = false →
        exec c s = .next (celAnswer w l 0 (lineBytes s l) (openWindow w s))) ∧
      (lineSealed s l = true → speculative w = true → linePoison s l = true →
        exec c s = .next (celAnswer w l 2 [] (openWindow w s))) ∧
      ((lineSealed s l = false ∨ (cipherView w = false ∧ speculative w = false)) →
        (lineVerdict s l chk = .pass → exec c s = .next (celAnswer w l 0 (lineBytes s l) s)) ∧
        (lineVerdict s l chk = .recovered → ∃ u, exec c s = .next (celAnswer w l 0 (lineBytes s l) u) ∧ u.cel.mem = s.cel.mem ∧
          rdReg u (celA 0x24) = BitVec.ofNat 32 (min (2 ^ 32 - 1) ((rdReg s (celA 0x24)).toNat + 1)) ∧
          lineCtr u l = (if lineSealed s l then lineCtr s l + 1 else lineCtr s l) ∧
          ∃ r, u.att.reports = s.att.reports ++ [r] ∧ r.kind = 0x21 ∧ r.unit = linePc s l) ∧
        (lineVerdict s l chk = .fails → ∃ u, exec c s = .next (celAnswer w l 2 [] u) ∧ linePoison u l = true ∧
          u.cel.mem = s.cel.mem ∧ (∃ r, u.att.reports = s.att.reports ++ [r] ∧ r.kind = 0x22 ∧ r.unit = linePc s l) ∧
          (linePoison s l = false → rdBit u celStatus 6 = true ∧
            rdReg u (celA 0x28) = BitVec.ofNat 32 (min (2 ^ 32 - 1) ((rdReg s (celA 0x28)).toNat + 1)) ∧
            rdReg u (celA 0x30) = BitVec.ofNat 32 (l + 2 ^ 30 * (if lineSealed s l then 0 else 3))))))) ∧
  (∀ (s : State) (epoch : Option Nat) (l : Nat) (chk : Verdict),
    (windowOpen epoch s = false → exec (.tagVerdict epoch l chk) s = .next s) ∧
    (windowOpen epoch s = true → lineVerdict s l chk = .pass → exec (.tagVerdict epoch l chk) s = .next (closeWindow epoch s)) ∧
    (∀ e, epoch = some e → windowOpen epoch s = true → lineVerdict s l chk ≠ .pass → s.chip.devState = .running →
      s.spr.phase ≠ .rollback → ∃ t, exec (.tagVerdict epoch l chk) s = .next t ∧ FailsEpoch s t e 1 ∧ rdBit t celStatus 5 = true ∧
        rdReg t (celA 0x20) = BitVec.ofNat 32 (min (2 ^ 32 - 1) ((rdReg s (celA 0x20)).toNat + 1)) ∧
        mapGet 0 t.spr.alarms e = mapGet 0 s.spr.alarms e - 1)) ∧
  (∀ (s : State) (w : CelWho) (l ofs : Nat) (bytes : List Byte) (chk : Verdict), bytes ≠ [] → ofs + bytes.length ≤ 64 →
    let c := Instr.cellarWrite w l ofs bytes chk
    let r := lineRegion l
    let written := fun (t : State) => t.cel.resps = { who := w, line := l, status := 0, data := [] } :: s.cel.resps ∧
      (∀ j, j < 64 → mapGet 0#8 t.cel.mem (64 * l + j) =
        (if ofs ≤ j ∧ j < ofs + bytes.length then bytes.getD (j - ofs) 0 else mapGet 0#8 s.cel.mem (64 * l + j))) ∧
      (∀ a, a / 64 ≠ l → mapGet 0#8 t.cel.mem a = mapGet 0#8 s.cel.mem a) ∧
      lineCtr t l = (if lineSealed s l then lineCtr s l + 1 else lineCtr s l) ∧ t.cel.held = s.cel.held
    (reaches s w r = false → exec c s = .next (celAnswer w l 1 [] s)) ∧
    (reaches s w r = true → lineSealed s l = true → cipherView w = true →
      exec c s = .next (celAnswer w l 1 [] (setBit s celStatus 8))) ∧
    (reaches s w r = true → (lineSealed s l = false ∨ cipherView w = false) →
      (bytes.length = 64 → (lineSealed s l = true → lineCtr s l < 0xFFFFFFFF) → ∃ t, exec c s = .next t ∧ written t ∧
        linePoison t l = false ∧ mapGet false t.cel.upset l = false) ∧
      (bytes.length < 64 → lineVerdict s l chk = .pass → (lineSealed s l = true → lineCtr s l < 0xFFFFFFFF) →
        ∃ t, exec c s = .next t ∧ written t) ∧
      (bytes.length < 64 → lineVerdict s l chk = .fails → ∃ t, exec c s = .next t ∧ t.cel.mem = s.cel.mem ∧ linePoison t l = true ∧
        t.cel.resps = { who := w, line := l, status := 1, data := [] } :: s.cel.resps ∧ rdBit t celStatus 8 = true ∧
        (logCount s < 2 ^ 32 - 1 → logCount t = logCount s + 1)) ∧
      (bytes.length = 64 → lineSealed s l = true → 0xFFF00000 ≤ lineCtr s l → lineCtr s l < 0xFFFFFFFF → ∃ t, exec c s = .next t ∧
        ((regionKey s r).gen ≠ 0xFFFF → rekeyQueued t r = true ∨ rekeyActive t r = true) ∧
        ((regionKey s r).gen = 0xFFFF → rekeyQueued s r = false → rekeyActive s r = false →
          (regionKey t r).exh = true ∧ rdBit t celStatus 1 = true ∧ rdBit t celStatus 7 = true)) ∧
      (bytes.length = 64 → lineSealed s l = true → 0xFFFFFFFF ≤ lineCtr s l →
        ((regionKey s r).exh = true → ∃ t, exec c s = .next t ∧ t.cel.mem = s.cel.mem ∧ rdBit t celStatus 8 = true ∧
          t.cel.resps = { who := w, line := l, status := 1, data := [] } :: s.cel.resps) ∧
        ((regionKey s r).exh = false → exec c s = .next { s with cel := { s.cel with
          held := s.cel.held ++ [{ who := w, line := l, ofs := ofs, bytes := bytes }] } }))))

/-- Re-keying, reserve copies and sealed blobs (R585 to R594). The pointer carries a written line on with W = 1 and lets the writes held
for it go; past the last line the generation advances, CEL_REKEY_CNT counts, and the next region of the queue begins. RESEAL_DONE
clears RESEAL_DUE. A copy that completes poisons the lines it could not read. SEAL and UNSEAL start the engine or are refused
(R589), a SEAL takes the next BLOB_CNT; BLOB_DONE ends with DONE and the blob or the plaintext in place, or with ERR and its
ERRCODE. -/
def Obligations.CellarUpkeep : Prop :=
  (∀ (s : State) (p r i : Nat) (chk : Verdict), p < 4 → mapGet none s.cel.rkNow p = some (r, i) →
    let l := 16384 * r + i
    (i < 16384 → copyPauses s l = true → exec (.rekeyLine p chk) s = .next s) ∧
    (i < 16384 → copyPauses s l = false → ∃ t, exec (.rekeyLine p chk) s = .next t ∧
      mapGet none t.cel.rkNow p = some (r, i + 1) ∧ (∀ h ∈ t.cel.held, h.line ≠ l) ∧
      ((∀ h ∈ s.cel.held, h.line ≠ l) → t.cel.mem = s.cel.mem ∧ lineCtr t l = (if lineCtr s l = 0 then 0 else 1) ∧
        t.cel.held = s.cel.held ∧ t.cel.resps = s.cel.resps)) ∧
    (i < 16384 → exec (.rekeyDone p) s = .next s) ∧
    (16384 ≤ i → exec (.rekeyLine p chk) s = .next s ∧ ∃ t, exec (.rekeyDone p) s = .next t ∧ t.cel.mem = s.cel.mem ∧
      regionKey t r = (if (regionKey s r).old then RegionKey.reset else
        { old := false, gen := (regionKey s r).gen + 1, exh := false }) ∧
      rdReg t (celA 0x2C) = BitVec.ofNat 32 (min (2 ^ 32 - 1) ((rdReg s (celA 0x2C)).toNat + 1)) ∧
      mapGet none t.cel.rkNow p = ((mapGet [] s.cel.rkQueue p).head?).map (fun q => (q, 0)) ∧
      mapGet [] t.cel.rkQueue p = (mapGet [] s.cel.rkQueue p).drop 1)) ∧
  (∀ s : State,
    (s.cel.reseal = true → s.cel.keys.any (fun q => q.2.old) = false → ∃ t, exec .resealDone s = .next t ∧
      t.cel = { s.cel with reseal := false } ∧ rdBit t celStatus 1 = false ∧ OnlyRegs { s with cel := t.cel } t [celStatus]) ∧
    (s.cel.reseal = false ∨ s.cel.keys.any (fun q => q.2.old) = true → exec .resealDone s = .next s)) ∧
  (∀ (s : State) (pc : Nat) (bad : List Nat), pc < 128 → (pcOf s pc).copying = true → ∃ t, exec (.reserveCopyDone pc bad) s = .next t ∧
    pcOf t pc = { pcOf s pc with copying := false } ∧ (∀ q, q ≠ pc → pcOf t q = pcOf s q) ∧ t.cel.mem = s.cel.mem ∧
    (∀ l, linePoison t l = (linePoison s l || (bad.contains l && linePc s l = pc)))) ∧
  (∀ (s : State) (who : Requester) (slot : Nat), slot < 256 → Reaches s who blobCtrl →
    let o := fun (opens : Bool) => (BlobOp.mk opens (rd36 s (celA 0x40)) (rd36 s (celA 0x48)) (rd36 s (celA 0x50)) slot s.att.blobCnt)
    (blobRefused s (o false) = true → Refuses s (.seal who slot) who true) ∧
    (blobRefused s (o true) = true → Refuses s (.unseal who slot) who true) ∧
    (blobRefused s (o false) = false → WriteOk s (.seal who slot) who (fun u => u.cel.blob = some (o false) ∧
      rdFld u blobStatus 0 2 = 1 ∧ u.att.blobCnt = s.att.blobCnt + 1 ∧
      rdReg u (celA 0x60) = BitVec.ofNat 32 s.att.blobCnt ∧ rdReg u (celA 0x64) = BitVec.ofNat 32 (s.att.blobCnt / 2 ^ 32) ∧
      u.cel = { s.cel with blob := u.cel.blob })) ∧
    (blobRefused s (o true) = false → WriteOk s (.unseal who slot) who (fun u => u.cel.blob = some (o true) ∧
      rdFld u blobStatus 0 2 = 1 ∧ u.att = s.att ∧ u.cel = { s.cel with blob := u.cel.blob }))) ∧
  (∀ (s : State) (o : BlobOp), s.cel.blob = some o →
    let ends := fun (status err : Nat) => ∃ t, exec .blobDone s = .next t ∧ t.cel.blob = none ∧
      rdReg t blobStatus = BitVec.ofNat 32 (status + 4 * err) ∧ t.cel.mem = s.cel.mem
    (mapGet none s.att.blobKeys o.slot = none → ends 3 3) ∧
    (∀ key, mapGet none s.att.blobKeys o.slot = some key →
      (o.opens = false → 2 ^ 32 ≤ s.att.blobSeed → ends 3 3) ∧
      (o.opens = false → s.att.blobSeed < 2 ^ 32 → rangePoison s o.src o.len = true → ends 3 1) ∧
      (o.opens = false → s.att.blobSeed < 2 ^ 32 → rangePoison s o.src o.len = false → o.dst % 64 = 0 →
        openSide s o.dst (o.len + 128) = true → ∃ t, exec .blobDone s = .next t ∧ t.cel.blob = none ∧
          rdReg t blobStatus = 2 ∧ celGet t o.dst 64 = blobHeader s o) ∧
      (o.opens = true → rangePoison s o.src (o.len + 128) = true → ends 3 1) ∧
      (o.opens = true → rangePoison s o.src (o.len + 128) = false →
        let h := celGet s o.src 64
        match headerGood h o, Config.gcmOpen key (blobIv h) h (celGet s (o.src + 64) o.len) (celGet s (o.src + 64 + o.len) 16) with
        | true, some _ => ∃ t, exec .blobDone s = .next t ∧ t.cel.blob = none ∧ rdReg t blobStatus = 2
        | _, _ => ends 3 2)))

/-! ### The attic (chapter 15) -/

/-- The attic mailbox (R602, R603, R605 to R615, R628, R629, R701). A doorbell submits the page with the next ticket, or sets FULL, and a
wrong length is discarded. A request that is refused is answered with its status and has no other effect. An accepted request has
the effect of its command and the answer of R614: what it stores of keys, lifecycle, lock, grants, challenge and log, and the
retirement, the BIST or the entry to Boot that it brings. -/
def Obligations.MailboxRequests : Prop :=
  (∀ (s : State) (len : Word), hostReach s = true →
    let n := len.toNat
    (64 ≤ n → n ≤ 4096 → n % 64 = 0 →
      (s.att.queue.length < 16 → ∃ t, exec (.mailboxDoorbell len) s = .next t ∧ t.att.queue = s.att.queue ++
          [{ ticket := s.att.nextTicket.toNat, who := .host, bytes := (List.range n).map (mapGet 0 s.hst.page) }] ∧
        t.att.nextTicket = s.att.nextTicket + 1 ∧ rdFld t (attA 0x18) 0 16 = s.att.nextTicket.toNat ∧
        rdBit t (attA 0x18) 16 = false ∧ t.hst = s.hst) ∧
      (16 ≤ s.att.queue.length → ∃ t, exec (.mailboxDoorbell len) s = .next t ∧ t.att = s.att ∧ rdBit t (attA 0x18) 16 = true)) ∧
    (¬ (64 ≤ n ∧ n ≤ 4096 ∧ n % 64 = 0) → ∃ t, exec (.mailboxDoorbell len) s = .next t ∧ t.att = s.att ∧
      rdBit t (hstA 0) 10 = true ∧ rdBit t (hstA 4) 8 = true)) ∧
  (∀ (s : State) (r : MbReq) (rest : List MbReq), s.att.queue = r :: rest → s.chip.devState ≠ .off →
    let b := r.bytes
    let a := s.att
    let does := fun (c : Instr) (status : Nat) (data : List Byte) (P : State → Prop) => MbServes s c r rest status data P
    (∀ c cmd st, (c, cmd) ∈ mbInstrs → mbCmd b = cmd → mbRefusal s r = some st → ∃ t, exec c s = .next t ∧ t.att.queue = rest ∧
      MbReplied s t r st [] ∧ t.att.nonce = a.nonce ∧ t.chip = s.chip ∧ t.cl = s.cl ∧ t.att.lifecycle = a.lifecycle ∧
      t.att.lcNext = a.lcNext ∧ t.att.imgKeys = a.imgKeys ∧ t.att.blobKeys = a.blobKeys ∧ t.att.grantsUntil = a.grantsUntil) ∧
    (mbRefusal s r = none →
      (mbCmd b = 0x01 → does .status 0 ((List.range 13).flatMap (fun i => leBytes 4
          ((attView { s with att := { a with queue := rest } } (4 * i)).getD (rdReg s (attA (4 * i)))).toNat)) (fun t => t.cl = s.cl)) ∧
      (mbCmd b = 0x02 →
        (1 ≤ mbArg b 2 2 → mbArg b 2 2 ≤ 256 → does .logRead 0 ((((logHeld s).drop (mbArg b 0 2)).take (mbArg b 2 2)).flatMap (fun i =>
          (List.range 4).flatMap (fun w => leBytes 4 (rdReg s (attA (0x1000 + 16 * (i % 256) + 4 * w))).toNat))) (fun t => t.cl = s.cl)) ∧
        (mbArg b 2 2 = 0 ∨ 256 < mbArg b 2 2 → does .logRead 5 [] (fun t => t.cl = s.cl))) ∧
      (mbCmd b = 0x03 → does .logClear 0 [] (fun t => logHeld t = [] ∧ logCount t = logCount s)) ∧
      (mbCmd b = 0x10 → ∃ x : List Byte, x.length = 32 ∧
        does .challenge 0 x (fun t => t.att.challenge = some (x, tb1Now s + 60 * secUnits))) ∧
      (mbCmd b = 0x11 →
        let k := mbBody b
        let good := allZero ((k.drop 0x29).take 23) && allZero ((k.drop 0xA0).take 32) && leAt k 0x20 4 = deviceId &&
          decide (leAt k 0x24 2 < 8) && decide (1 ≤ leAt k 0x26 2) && decide (leAt k 0x26 2 ≤ 1440) && a.challenge.any (fun q => q.1 = k.take 32) &&
          (tokenKey s (leAt k 0x28 1)).any (fun key => Config.ecdsaGood key (k.take 64) ((k.drop 0x40).take 96))
        ∃ st, does .debugAuth st [] (fun t => t.att.challenge = none ∧ (st = 0 ↔ good = true) ∧
          (if good then t.att.grantsUntil = some (tb1Now s + leAt k 0x26 2 * 60 * secUnits) ∧ rdFld t (attA 0) 16 3 = leAt k 0x24 2
           else t.att.grantsUntil = a.grantsUntil ∧ rdFld t (attA 0) 16 3 = rdFld s (attA 0) 16 3))) ∧
      (mbCmd b = 0x12 → does .debugRevoke 0 [] (fun t => t.att.grantsUntil = none ∧ rdFld t (attA 0) 16 3 = 0)) ∧
      (mbCmd b = 0x20 →
        (a.lifecycle = 0 → a.lcNext = 0 → does .provision 0 [] (fun t => t.att.lifecycle = 0 ∧ t.att.lcNext = 1 ∧
          t.att.ownerCmd = (mbBody b).take 96 ∧ t.att.ownerDbg = ((mbBody b).drop 96).take 96 ∧
          t.att.custShell = (let k := ((mbBody b).drop 192).take 96; if allZero k then [] else k))) ∧
        (¬ (a.lifecycle = 0 ∧ a.lcNext = 0) → does .provision 4 [] (fun t => t.att.lcNext = a.lcNext ∧ t.att.ownerCmd = a.ownerCmd))) ∧
      (mbCmd b = 0x21 → (a.lifecycle = 1 → a.lcNext = 1 → does .deploy 0 [] (fun t => t.att.lifecycle = 1 ∧ t.att.lcNext = 2)) ∧
        (¬ (a.lifecycle = 1 ∧ a.lcNext = 1) → does .deploy 4 [] (fun t => t.att.lcNext = a.lcNext))) ∧
      (mbCmd b = 0x22 → (a.lifecycle = 1 ∨ a.lifecycle = 2 → a.lcNext ≠ 3 → does .return 0 [] (fun t => t.att.lifecycle = a.lifecycle ∧
          t.att.lcNext = 3 ∧ t.att.imgKeys = [] ∧ t.att.blobKeys = [] ∧ t.att.grantsUntil = none ∧ rdFld t (attA 0) 16 3 = 0)) ∧
        (¬ ((a.lifecycle = 1 ∨ a.lifecycle = 2) ∧ a.lcNext ≠ 3) → does .return 4 [] (fun t => t.att.lcNext = a.lcNext))) ∧
      (mbCmd b = 0x23 → let v := mbArg b 0 4
        (a.minVer < v → v < 2 ^ 24 → a.raises ≠ 0 → does .setMinver 0 [] (fun t => t.att.minVer = v ∧ t.att.raises = a.raises - 1)) ∧
        (v ≤ a.minVer ∨ 2 ^ 24 ≤ v → does .setMinver 5 [] (fun t => t.att.minVer = a.minVer ∧ t.att.raises = a.raises))) ∧
      (mbCmd b = 0x30 → mbArg b 0 1 ≤ 1 → mbArg b 1 1 ≤ 15 → a.lifecycle ≠ 3 → a.lcNext ≠ 3 →
        match Config.unwrapKey ((mbBody b).take 136) with
        | some k => does .keyLoad 0 [] (fun t => mapGet none (if mbArg b 0 1 = 0 then t.att.imgKeys else t.att.blobKeys) (mbArg b 1 1) = some k)
        | none => does .keyLoad 7 [] (fun t => t.att.imgKeys = a.imgKeys ∧ t.att.blobKeys = a.blobKeys)) ∧
      (mbCmd b = 0x31 → mbArg b 0 1 ≤ 1 → mbArg b 1 1 ≤ 15 → does .keyClear 0 [] (fun t =>
        mapGet none (if mbArg b 0 1 = 0 then t.att.imgKeys else t.att.blobKeys) (mbArg b 1 1) = none)) ∧
      (mbCmd b = 0x40 → let cls := mbArg b 0 1
        let unit := mbArg b 2 2
        (unitInRange cls unit = false → does .retire 5 [] (fun t => t.chip = s.chip)) ∧
        (unitInRange cls unit = true →
          (unitRole s cls unit = .spare → does .retire 0 [] (fun t => unitRole t cls unit = .retired)) ∧
          (unitRole s cls unit = .retired ∨ unitRole s cls unit = .absent → does .retire 6 [] (fun t => t.chip = s.chip)) ∧
          (unitRole s cls unit = .active → hasSpare s cls unit = false → does .retire 6 [] (fun t => t.chip = s.chip)) ∧
          (unitRole s cls unit = .active → hasSpare s cls unit = true → s.chip.devState = .running → cls ≠ 4 →
            does .retire 0 [] (fun t => { cls := cls, unit := unit, resp := .retire } ∈ t.att.decisions)) ∧
          (∀ q m, cls = 0 → s.chip.devState ≠ .running → roleOf s unit = .active → spareOf s (unit / 17) = some q →
            logOf s unit = some m → does .retire 0 [] (fun t => physOf t m = q ∧ roleOf t unit = .retired ∧ roleOf t q = .active)))) ∧
      (mbCmd b = 0x41 → let cls := mbArg b 0 1
        let unit := mbArg b 2 2
        unitInRange cls unit = true →
        (unitRole s cls unit = .retired → a.bists.contains (cls, unit) = false → does .bist 0 [] (fun t => (cls, unit) ∈ t.att.bists ∧
          (cls = 0 → mapGet false t.chip.bistOpen unit = true))) ∧
        (unitRole s cls unit ≠ .retired → does .bist 6 [] (fun t => t.att.bists = a.bists))) ∧
      (mbCmd b = 0x42 → (s.chip.devState = .safe → ∃ t, exec .restart s = .next t ∧ EntersBoot s t) ∧
        (s.chip.devState ≠ .safe → does .restart 6 [] (fun t => t.chip = s.chip))) ∧
      (mbCmd b = 0x43 → (1 ≤ mbArg b 0 2 → mbArg b 0 2 ≤ 600 → does .lockOpen 0 [] (fun t =>
          t.att.lockUntil = some (tb1Now s + mbArg b 0 2 * secUnits) ∧ lockOpen t = true)) ∧
        (mbArg b 0 2 = 0 ∨ 600 < mbArg b 0 2 → does .lockOpen 5 [] (fun t => t.att.lockUntil = a.lockUntil))) ∧
      (mbCmd b = 0x44 → does .lockClose 0 [] (fun t => t.att.lockUntil = none))))

/-- Faults, scrubbing, BIST and upsets (R608, R614 to R631, R715). The attic decides on the oldest report: LOG kinds are logged; a first fault
gets its base response, a second in the window of 1 s RELOAD for classes 0, 1 and 5, and the third makes the unit permanent: retired,
or Safe. FAULT_CLASSIFY makes old entries transient. SCRUB_READ corrects a single error and repairs or reports any other. The voter
rebuilds the odd copy, condemns it at the third rebuild in 1 s, and without a majority, a ROM reference or a heartbeat the device goes
to Safe. BIST runs on retired units; one that passes takes a free spare position. A lock, a challenge and grants end in time. -/
def Obligations.FaultsAndScrubbing : Prop :=
  (∀ (s : State) (r : FaultRep) (rest : List FaultRep), s.att.reports = r :: rest →
    let old := s.att.hits.filter (fun h => h.cls = r.cls && h.unit = r.unit && decide (tb1Now s < h.time + secUnits))
    let fresh := old.all (fun h => !(h.epoch = r.epoch && h.gen = r.gen))
    let counted := fun (t : State) => t.att.hits.getLast? = some { cls := r.cls, unit := r.unit, epoch := r.epoch, gen := r.gen, time := tb1Now s }
    ((r.kind = 0x38 ∨ r.kind = 0x3A) → ∃ t, exec .faultReport s = .next t ∧ t.att.reports = rest ∧ t.att.hits = s.att.hits ∧
      t.chip = s.chip ∧ t.att.decisions = s.att.decisions ∧ (logCount s < 2 ^ 32 - 1 → logCount t = logCount s + 1)) ∧
    (r.kind ≠ 0x38 → r.kind ≠ 0x3A → s.att.bists.contains (r.cls, r.unit) = true → ∃ t, exec .faultReport s = .next t ∧
      t.att.reports = rest ∧ (r.cls, r.unit) ∉ t.att.bists ∧ t.att.hits = s.att.hits) ∧
    (r.kind ≠ 0x38 → r.kind ≠ 0x3A → s.att.bists.contains (r.cls, r.unit) = false → fresh = true →
      (old.length = 0 → ([0x03, 0x08, 0x09, 0x10, 0x30].contains r.kind = false ∨ s.chip.devState = .running) →
        ∃ t, exec .faultReport s = .next t ∧ t.att.reports = rest ∧ counted t ∧ t.chip = s.chip ∧
        (∃ q ∈ t.att.outcomes, q.cls = r.cls ∧ q.unit = r.unit ∧ q.time = tb1Now s) ∧
        ([0x03, 0x08, 0x09, 0x10, 0x30].contains r.kind = true →
          { cls := r.cls, unit := r.unit, resp := .reload } ∈ t.att.decisions)) ∧
      (old.length = 1 → s.chip.devState = .running → ∃ t, exec .faultReport s = .next t ∧ t.att.reports = rest ∧ counted t ∧
        t.chip = s.chip ∧ ([0, 1, 5].contains r.cls = true → { cls := r.cls, unit := r.unit, resp := .reload } ∈ t.att.decisions)) ∧
      (2 ≤ old.length → mayRetire s r.cls = true → unitRole s r.cls r.unit = .active → hasSpare s r.cls r.unit = true →
        s.chip.devState = .running → r.cls ≠ 4 → ∃ t, exec .faultReport s = .next t ∧ t.chip = s.chip ∧
          { cls := r.cls, unit := r.unit, resp := .retire, kind := some r.kind } ∈ t.att.decisions ∧ t.att.outcomes.all (fun q => !(q.cls = r.cls && q.unit = r.unit))) ∧
      (2 ≤ old.length → mayRetire s r.cls = false → s.chip.devState ≠ .off → s.chip.devState ≠ .safe → r.cls < 16 → r.unit < 4096 →
        ∃ t, exec .faultReport s = .next t ∧ EntersSafe s t 5 ∧
          rdFld t (attA 4) 0 4 = r.cls ∧ rdFld t (attA 4) 4 12 = r.unit ∧ rdFld t (attA 4) 16 8 = r.kind % 256) ∧
      (2 ≤ old.length → mayRetire s r.cls = true → unitRole s r.cls r.unit = .active → hasSpare s r.cls r.unit = false →
        s.chip.devState ≠ .off → s.chip.devState ≠ .safe → ∃ t, exec .faultReport s = .next t ∧ EntersSafe s t 4 ∧
          rdFld t (attA 4) 0 4 = r.cls ∧ rdFld t (attA 4) 4 12 = r.unit ∧ rdFld t (attA 4) 16 8 = r.kind % 256))) ∧
  (∀ s : State, ∃ t, exec .faultClassify s = .next t ∧
    t.att.outcomes = s.att.outcomes.filter (fun q => decide (tb1Now s < q.time + secUnits)) ∧
    rdFld t (attA 0x10) 0 16 = min 65535 (rdFld s (attA 0x10) 0 16 +
      s.att.outcomes.countP (fun q => decide (q.time + secUnits ≤ tb1Now s))) ∧ t.cl = s.cl ∧ t.chip = s.chip) ∧
  (∀ (s : State) (a : ScrubAt),
    (scrubCovers s a = false ∨ imageLoaded s = false ∨ scrubLook s a = .clean → exec (.scrubRead a) s = .next s) ∧
    (scrubCovers s a = true → imageLoaded s = true → scrubLook s a = .corrected → ∃ t, exec (.scrubRead a) s = .next t ∧
      rdFld t (attA 0xC) 0 16 = min 65535 (rdFld s (attA 0xC) 0 16 + 1) ∧ t.chip = s.chip ∧
      (s.chip.devState = .running → t.cl = s.cl) ∧
      (s.chip.devState ≠ .running → ∀ p n e, (a = .bp p n e → mapGet [] t.cl.bpFlips (kEntry p n e) = []) ∧
        (a = .we p n e → mapGet [] t.cl.weFlips (kWeEntry p n e) = []))) ∧
    (scrubCovers s a = true → imageLoaded s = true → scrubLook s a = .bad → ∃ t, exec (.scrubRead a) s = .next t ∧
      rdFld t (attA 0xC) 16 16 = min 65535 (rdFld s (attA 0xC) 16 16 + 1) ∧
      (s.chip.devState = .running → t.cl = s.cl ∧
        (∃ r, t.att.reports = s.att.reports ++ [r] ∧ r.kind = (scrubUnit a).2.2.1 ∧ r.unit = (scrubUnit a).2.1) ∧
        (s.spr.phase ≠ .rollback → (curEpoch s, 1) ∈ t.spr.fails)) ∧
      (s.chip.devState ≠ .running → t.att.reports = s.att.reports ∧ (logCount s < 2 ^ 32 - 1 → logCount t = logCount s + 1)))) ∧
  (∀ s : State, s.chip.devState ≠ .off → s.chip.devState ≠ .safe →
    (∃ t, exec (.sweepEnd .agree) s = .next t ∧ rdFld t (attA 8) 0 16 = (rdFld s (attA 8) 0 16 + 1) % 65536 ∧ t.chip = s.chip) ∧
    (∃ t, exec (.sweepEnd .disagree) s = .next t ∧ EntersSafe s t 1) ∧
    (∃ t, exec (.sweepEnd .romBad) s = .next t ∧ EntersSafe s t 2) ∧
    (∃ t, exec .scrubWatchdog s = .next t ∧ EntersSafe s t 3) ∧
    (∀ k, k < 3 → s.att.condemned = [] → s.att.rebuilding = [] → ∃ t, exec (.sweepEnd (.odd k)) s = .next t ∧
      t.att.rebuilding = [k] ∧ t.chip = s.chip ∧ rdFld t (attA 0) 12 2 = 2 ∧
      rdFld t (attA 8) 16 8 = min 255 (rdFld s (attA 8) 16 8 + 1) ∧ ∃ r, t.att.reports = s.att.reports ++ [r] ∧ r.kind = 0x3A) ∧
    (∀ k, k < 3 → k ∉ s.att.condemned → k ∉ s.att.rebuilding → (copiesIn s).length < 3 → ∃ t, exec (.sweepEnd (.odd k)) s = .next t ∧
      EntersSafe s t 1)) ∧
  (∀ (s : State) (k : Nat), k < 3 → s.att.rebuilding = [k] →
    let ts := (mapGet [] s.att.rebuilds k).filter (fun t => decide (tb1Now s < t + secUnits))
    ∃ t, exec (.scrubCopyRebuilt k) s = .next t ∧ t.att.rebuilding = [] ∧
      (if ts.length < 2 then t.att.condemned = s.att.condemned else t.att.condemned = s.att.condemned ++ [k] ∧ rdBit t (attA 8) (24 + k) = true)) ∧
  (∀ (s : State) (cls unit : Nat), unitRole s cls unit = .retired → s.chip.devState ≠ .off → s.chip.devState ≠ .boot →
    (s.att.flags.getLsbD 4 = true → s.att.bists.contains (cls, unit) = false → ∃ t, exec (.autoBist cls unit) s = .next t ∧
      (cls, unit) ∈ t.att.bists ∧ (cls = 0 → mapGet false t.chip.bistOpen unit = true)) ∧
    (s.att.bists = [(cls, unit)] →
      (∃ t, exec (.bistDone cls unit false) s = .next t ∧ t.att.bists = [] ∧ unitRole t cls unit = .retired) ∧
      (cls = 0 → s.chip.devState ≠ .running → s.att.passed = [] → spareOf s (unit / 17) = none → ∃ t,
        exec (.bistDone cls unit true) s = .next t ∧ t.att.bists = [] ∧ roleOf t unit = .spare ∧
        mapGet false t.chip.bistOpen unit = false ∧ t.att.passed = []) ∧
      (cls = 0 → s.att.passed = [] → spareOf s (unit / 17) ≠ none → ∃ t, exec (.bistDone cls unit true) s = .next t ∧
        roleOf t unit = .retired ∧ t.att.passed = [(0, unit)]))) ∧
  (∀ (s : State) (x : Nat),
    (s.att.lockUntil = some x → x ≤ tb1Now s → exec .lockExpiry s = .next { s with att := { s.att with lockUntil := none } }) ∧
    (∀ c, s.att.challenge = some (c, x) → x ≤ tb1Now s → exec .challengeExpiry s = .next { s with att := { s.att with challenge := none } }) ∧
    (s.att.grantsUntil = some x → x ≤ tb1Now s → ∃ t, exec .grantExpiry s = .next t ∧ t.att = { s.att with grantsUntil := none } ∧
      rdFld t (attA 0) 16 3 = 0 ∧ (∀ b, b ≠ attA 0 → rdReg t b = rdReg s b)) ∧
    (x > tb1Now s → (s.att.lockUntil = some x → exec .lockExpiry s = .next s) ∧
      (s.att.grantsUntil = some x → exec .grantExpiry s = .next s))) ∧
  (∀ (s : State) (p n e : Nat), s.chip.devState ≠ .off → p < 272 → n < 128 →
    (∀ b, e < 512 → b < 9 → ∃ t, exec (.softError (.pond p n e [b])) s = .next t ∧
      mapGet 0 t.cl.pond (kPond p n e) = mapGet 0 s.cl.pond (kPond p n e) ^^^ BitVec.ofNat 9 (2 ^ b) ∧
      (∀ k, k ≠ kPond p n e → mapGet 0 t.cl.pond k = mapGet 0 s.cl.pond k) ∧ t = { s with cl := { s.cl with pond := t.cl.pond } }) ∧
    (∀ b, e < 1024 → b < 80 → mapGet [] s.cl.bpFlips (kEntry p n e) = [] → ∃ t, exec (.softError (.bp p n e [b])) s = .next t ∧
      mapGet [] t.cl.bpFlips (kEntry p n e) = [b] ∧ t = { s with cl := { s.cl with bpFlips := t.cl.bpFlips } }))

/-! ### Trace and JTAG (chapter 16) -/

/-- Trace (R646, R654 to R661). A source names a cluster that no other enabled source names, and asks for SYNCT at its first instruction.
TRC_CTRL is refused where it takes a quad in use. The funnel sends ALIGN frames in four slots of 256, else 15 bytes of the next
source that holds 15, else all of the next that holds any, else an idle frame. A steward whose WFT waits stops its clock with PWR. A
traced steward in G whose GTRACE ends emits GIN at once. -/
def Obligations.TraceStream : Prop :=
  (∀ (s : State) (who : Requester) (k : Nat) (v : Word), k < 16 → Reaches s who (trcA (0x100 + 4 * k)) →
    let named := (List.range 16).any (fun j => j ≠ k && bit (trcCfg s j) 8 && fld (trcCfg s j) 0 8 = fld v 0 8)
    (named = true → Refuses s (.trcSrcWrite who k v) who true) ∧
    (named = false → WriteOk s (.trcSrcWrite who k v) who (fun u => trcCfg u k = (v &&& 0xFFFF03FF) ∧
      (∀ b, b ≠ trcA (0x100 + 4 * k) → rdReg u b = rdReg s b) ∧ (∀ j, j ≠ k → srcOf u j = srcOf s j) ∧
      (bit (trcCfg s k) 8 = false → (srcOf u k).needT = bit v 8 ∧ (srcOf u k).fifo = (srcOf s k).fifo) ∧
      (bit (trcCfg s k) 8 = true → bit v 8 = true → fld (trcCfg s k) 0 8 = fld v 0 8 → srcOf u k = srcOf s k) ∧
      u = { s with regs := u.regs, trc := u.trc }))) ∧
  (∀ (s : State) (who : Requester) (v : Word), Reaches s who (trcA 0) →
    let was := rdReg s (trcA 0)
    let moves := fld v 0 2 = 2 ∧ (fld was 0 2 ≠ 2 ∨ fld v 2 8 ≠ fld was 2 8)
    (moves → quadFree s (fld v 2 6) = false → Refuses s (.trcCtrlWrite who v) who true) ∧
    (¬ moves ∨ quadFree s (fld v 2 6) = true → WriteOk s (.trcCtrlWrite who v) who (fun u =>
      rdReg u (trcA 0) = (v &&& 0x3FF) ∧ OnlyRegs s u [trcA 0]))) ∧
  (∀ s : State,
    let port := rdFld s (trcA 0) 0 2
    let lane := if port = 2 then some (4 * rdFld s (trcA 0) 2 6 + s.trc.slot % 4) else none
    let sends := fun (frame : List Byte) (P : State → Prop) => ∃ t, exec .traceFrame s = .next t ∧
      t.outbox = .traceFrame lane frame :: s.outbox ∧ t.trc.slot = s.trc.slot + 1 ∧ P t ∧ t = { s with trc := t.trc, outbox := t.outbox }
    (port ≠ 1 → port ≠ 2 → exec .traceFrame s = .next s) ∧
    (port = 1 ∨ port = 2 →
      (s.trc.slot % 256 < 4 → sends (0x70#8 :: List.replicate 15 0xFF#8) (fun t => t.trc.srcs = s.trc.srcs)) ∧
      (4 ≤ s.trc.slot % 256 →
        (∀ k, nextSrc s (fun n => 15 ≤ n) = some k → sends (BitVec.ofNat 8 (k + 0x80) :: (srcOf s k).fifo.take 15)
          (fun t => (srcOf t k).fifo = (srcOf s k).fifo.drop 15 ∧ t.trc.last = k ∧ ∀ j, j ≠ k → srcOf t j = srcOf s j)) ∧
        (∀ k, nextSrc s (fun n => 15 ≤ n) = none → nextSrc s (fun n => 0 < n) = some k →
          sends (BitVec.ofNat 8 (k + 0x80) :: (srcOf s k).fifo ++ List.replicate (15 - (srcOf s k).fifo.length) 0#8)
            (fun t => (srcOf t k).fifo = [] ∧ t.trc.last = k ∧ ∀ j, j ≠ k → srcOf t j = srcOf s j)) ∧
        (nextSrc s (fun n => 15 ≤ n) = none → nextSrc s (fun n => 0 < n) = none → sends (List.replicate 16 0#8)
          (fun t => t.trc.srcs = s.trc.srcs))))) ∧
  (∀ (s : State) (p : Nat), stwAwake s p = true → (coreOf s p).run = .waiting → (coreOf s p).gated = false →
    ∃ t, exec (.lowPowerEntry p) s = .next t ∧ (coreOf t p).gated = true ∧ (coreOf t p).gatedAt = tb0Now s ∧
      (coreOf t p).run = .waiting ∧ (coreOf t p).pc = (coreOf s p).pc ∧ cyclesNow t p = cyclesNow s p ∧
      (∀ k, sourceFor s p = some k → excluded s p k = false → (srcOf s k).atoms = [] → (srcOf s k).drop = none →
        (srcOf s k).fifo.length ≤ 1000 → (srcOf t k).fifo = (srcOf s k).fifo ++ [0x72#8, 0#8] ++ leBytes 8 (cyclesNow s p)) ∧
      ∀ q, q ≠ p → coreOf t q = coreOf s q) ∧
  (∀ (s : State) (x k : Nat), k < 16 → s.att.grantsUntil = some x → x ≤ tb1Now s → s.att.lifecycle ≠ 0 → rdBit s (attA 0) 16 = true →
    bit (trcCfg s k) 8 = true → (coreOf s (physOf s (fld (trcCfg s k) 0 8))).priv = 2 → (srcOf s k).excl = none →
    (srcOf s k).atoms = [] → (srcOf s k).drop = none → (srcOf s k).fifo.length < 1024 →
    ∃ t, exec .grantExpiry s = .next t ∧ (srcOf t k).fifo = (srcOf s k).fifo ++ [0x73#8] ∧ (srcOf t k).excl.isSome = true)

/-- The TAP (R662 to R667, R712). Test-Logic-Reset selects IDCODE; HIGHZ, CLAMP and BYPASS select the bypass register; a boundary
instruction scans the cells, and one that drives the pins takes the lanes of every link that is up. DBGACC accesses a register under
the JTAG grant or is refused with STATUS 2, and a START while an access is incomplete is ignored. DBGMB fills and submits its
buffer; DBGSTAT shows the ticket, the flags, the grant and the device state. In Off the TAP does nothing. -/
def Obligations.JtagPort : Prop :=
  (∀ (s : State) (scan : Option BoundScan) (word : Word) (a : Nat) (f g : Bool), s.chip.devState = .off →
    exec .tapReset s = .next s ∧ exec .idcode s = .next s ∧ exec .highz s = .next s ∧ exec .clamp s = .next s ∧
    exec .bypass s = .next s ∧ exec .dbgstat s = .next s ∧ exec (.extest scan) s = .next s ∧ exec (.samplePreload scan) s = .next s ∧
    exec (.extestPulse scan) s = .next s ∧ exec (.extestTrain scan) s = .next s ∧ exec (.dbgacc word a f g) s = .next s ∧
    exec (.dbgmb word f g) s = .next s) ∧
  (∀ s : State, s.chip.devState ≠ .off →
    let j := s.trc.jtag
    let shows := fun (c : Instr) (ir dr : Nat) => exec c s = .next { s with trc := { s.trc with jtag := { j with ir := ir, dr := dr } } }
    shows .tapReset 0x02 0x17240C35 ∧ shows .idcode 0x02 0x17240C35 ∧ shows .bypass 0xFF 0 ∧
    shows .dbgstat 0x12 (j.ticket % 65536 + 2 ^ 16 * b2n j.full + 2 ^ 17 * b2n j.mbErr + 2 ^ 18 * b2n (rdBit s (attA 0) 18) +
      2 ^ 19 * stateCode s.chip.devState) ∧
    ((∀ l, l < 64 → linkState s l ≠ 8) → shows .highz 0x03 0 ∧ shows .clamp 0x04 0 ∧
      ∀ c ir, (c, ir) ∈ [(Instr.extest, 0x00), (Instr.extestPulse, 0x05), (Instr.extestTrain, 0x06), (Instr.samplePreload, 0x01)] →
        exec (c none) s = .next { s with trc := { s.trc with jtag := { j with ir := ir } } } ∧
        ∀ x : BoundScan, x.pins.length = 1217 → (∀ y, x.shift = some y → y.length = 1217) →
          ∃ t, exec (c (some x)) s = .next t ∧ t.trc.jtag.ir = ir ∧ t.trc.jtag.drive = t.trc.jtag.cells ∧
            (∀ i, i < 1217 → mapGet false t.trc.jtag.cells i = (x.shift.getD x.pins).getD i false) ∧ t = { s with trc := t.trc }) ∧
    (drivesPins j.ir = false → ∀ l, l < 64 → linkState s l = 8 →
      ∀ c ∈ [Instr.extest none, Instr.extestPulse none, Instr.extestTrain none, Instr.highz, Instr.clamp],
        ∃ t, exec c s = .next t ∧ linkState t l ≠ 8)) ∧
  (∀ (s : State) (data : Word) (a : Nat) (write : Bool), s.chip.devState ≠ .off → a < 2 ^ 40 →
    let j := s.trc.jtag
    (∃ t, exec (.dbgacc data a write false) s = .next t ∧ t.trc.jtag.dr = j.accData.toNat + 2 ^ 74 * (if j.accBusy then 3 else j.accStat) ∧
      t = { s with trc := t.trc }) ∧
    (j.accBusy = true → exec (.dbgacc data a write true) s = exec (.dbgacc data a write false) s) ∧
    (j.accBusy = false → granted s 2 = false → openToJtag s a write = false → ∃ t, exec (.dbgacc data a write true) s = .next t ∧
      t.trc.jtag.accStat = 2 ∧ t.trc.jtag.accBusy = false ∧ t = { s with trc := t.trc }) ∧
    (∀ r, j.accBusy = false → granted s 2 = true → Reaches s .jtag a → StoresOnly a → regRow a = some r → r.rule = .plain →
      ∃ t, exec (.dbgacc data a true true) s = .next t ∧ t.trc.jtag.accStat = 0 ∧ t.trc.jtag.accBusy = false ∧
        (∀ i, i < 32 → bit (rdReg t a) i = bitWritten r (lockOpen s) (rdReg s a) data i) ∧
        (∀ b, b ≠ a → rdReg t b = rdReg s b) ∧ t.chip = s.chip ∧ t.cel = s.cel)) ∧
  (∀ (s : State) (word : Word), s.chip.devState ≠ .off →
    let j := s.trc.jtag
    let mb := j.mb ++ leBytes 4 word.toNat
    (mb.length ≤ 4096 → ∃ t, exec (.dbgmb word false false) s = .next t ∧ t.trc.jtag.mb = mb ∧ t = { s with trc := t.trc }) ∧
    (4096 < mb.length → ∀ last, ∃ t, exec (.dbgmb word last false) s = .next t ∧ t.trc.jtag.mb = [] ∧ t.trc.jtag.mbErr = true ∧
      t.att = s.att) ∧
    (∃ t, exec (.dbgmb word false true) s = .next t ∧ t.trc.jtag.mb = [] ∧ t.att = s.att) ∧
    (mb.length ≤ 4096 → s.att.queue.length < 16 → ∃ t, exec (.dbgmb word true false) s = .next t ∧ t.trc.jtag.mb = [] ∧
      t.trc.jtag.ticket = s.att.nextTicket.toNat ∧ t.trc.jtag.full = false ∧
      t.att.queue = s.att.queue ++ [{ ticket := s.att.nextTicket.toNat, who := .host, bytes := mb }]) ∧
    (mb.length ≤ 4096 → 16 ≤ s.att.queue.length → ∃ t, exec (.dbgmb word true false) s = .next t ∧ t.trc.jtag.mb = [] ∧
      t.trc.jtag.full = true ∧ t.att = s.att))

/-! ### Package, power and host interface (chapter 17) -/

/-- Temperature, host interface, flash and I²C (R684, R691, R696, R701 to R708). A reading is stored; at T_WARN THERM_N is asserted, at T_TRIP
the device enters Safe and every shelf goes down under THERMHOLD, which clears when every sensor is cool. A host doorbell raises line
11. MSI-X messages leave where the vector is unmasked, or become pending; in D3hot none leaves. A flash operation runs under
the attic lock. The management target writes three registers and reads any. -/
def Obligations.HostAndThermal : Prop :=
  (∀ (s : State) (j : Nat) (t : BitVec 16), j < 24 → s.chip.devState ≠ .off →
    let safe := fun (u : State) => rdBit u (pwrA 0) 7 = true ∧ u.hst.thermHold = true ∧ rdBit u (hstA 4) 6 = true ∧
      (s.chip.devState ≠ .safe → EntersSafe s u 8) ∧ (∀ h, h < 16 → rdBit u (pwrStat h) 2 = true ∧
        (shelfOn s h = true → (gateOf u h).phase = .quiesce ∧ (gateOf u h).trip = true))
    (∃ u, exec (.thermalWarning j t) s = .next u ∧ rdReg u (tempReg j) = (0x80000000#32 ||| t.setWidth 32) ∧
      (warnAt j ≤ t.toInt → u.hst.therm = true ∧ (s.hst.therm = false → rdBit u (pwrA 0) 6 = true ∧ rdBit u (hstA 4) 6 = true)) ∧
      (tripAt j ≤ t.toInt → safe u)) ∧
    (∃ u, exec (.thermalTrip j t) s = .next u ∧ (if tripAt j ≤ t.toInt then safe u ∧ tempOf u j = some t.toInt else u = s)) ∧
    (s.hst.thermHold = true → (∀ i, i ≠ j → tempOf s i = none) → ∃ u, exec (.thermholdClear j t) s = .next u ∧
      (if t.toInt ≤ warnAt j - 12 then u.hst.thermHold = false ∧ u.hst.therm = false ∧ ∀ h, h < 16 → rdBit u (pwrStat h) 2 = false ∧
          ((gateOf s h).phase = .off → (gateOf s h).wake ≠ 0 → (gateOf u h).phase = .waking)
       else u = s))) ∧
  (∀ (s : State) (who : Requester) (m : Nat) (v : Word), m < 256 → Reaches s who (hstA (0x800 + 4 * m)) →
    WriteOk s (.hostDoorbell who m v) who (fun u => rdReg u (hstA (0x800 + 4 * m)) = v ∧
      (coreOf u (physOf s m)).irqPend.getLsbD 11 = true ∧ (∀ p, p ≠ physOf s m → coreOf u p = coreOf s p) ∧ u.cl = s.cl)) ∧
  (∀ (s : State) (who : Requester) (v : Word), Reaches s who (hstA 0x10) →
    let n := fld v 0 8
    (n < 64 → Refuses s (.fwirq who v) who true) ∧
    (64 ≤ n → s.hst.msixEn = false → WriteOk s (.fwirq who v) who (fun u => u = s)) ∧
    (64 ≤ n → s.hst.msixEn = true →
      (mapGet false s.hst.unmasked n = true → rdBit s (hstA 0) 11 = false →
        WriteOk s (.fwirq who v) who (fun u => u = { s with outbox := .msix n :: s.outbox })) ∧
      (mapGet false s.hst.unmasked n = false ∨ rdBit s (hstA 0) 11 = true →
        WriteOk s (.fwirq who v) who (fun u => mapGet false u.hst.msixPend n = true ∧ u.outbox = s.outbox)))) ∧
  (∀ s : State, s.hst.porst = false → s.hst.perst = false → s.hst.cfgReady = true → s.chip.devState ≠ .off →
    (s.hst.msixEn = false → ∃ t, exec (.msixEnable true) s = .next t ∧ t.hst.msixEn = true ∧ t.regs = s.regs ∧
      ∀ v, (v < 9 ∧ rdBit s (hstA 4) v = true) ∨ (∃ n, n < 32 ∧ v = 32 + n ∧ rdBit s (dmaA 4) n = true ∧ rdBit s (dmaReg n 0x20) 9 = true) →
        (mapGet false s.hst.unmasked v = true → rdBit s (hstA 0) 11 = false → .msix v ∈ t.outbox) ∧
        (mapGet false s.hst.unmasked v = false ∨ rdBit s (hstA 0) 11 = true → mapGet false t.hst.msixPend v = true)) ∧
    (s.hst.msixEn = true → exec (.msixEnable false) s = .next { s with hst := { s.hst with msixEn := false } }) ∧
    (∃ t, exec (.pciePowerState true) s = .next t ∧ rdBit t (hstA 0) 11 = true ∧ hostReach t = false ∧ t.cl = s.cl ∧ t.spr = s.spr) ∧
    (∃ t, exec (.pciePowerState false) s = .next t ∧ rdBit t (hstA 0) 11 = false ∧ hostReach t = true ∧
      ∀ v, s.hst.msixEn = true → mapGet false s.hst.msixPend v = true → mapGet false s.hst.unmasked v = true → .msix v ∈ t.outbox)) ∧
  (∀ (s : State) (who : Requester) (v : Word), Reaches s who (hstA 0x30) →
    (lockOpen s = true → s.hst.flash = false → imgState s ≠ 1 → WriteOk s (.flashGo who v) who (fun u => u.hst.flash = true ∧
      rdBit u (hstA 0x38) 0 = true ∧ rdReg u (hstA 0x30) = (v &&& 0xFF07FE) ∧
      ∀ b, b ≠ hstA 0x30 → b ≠ hstA 0x38 → rdReg u b = rdReg s b)) ∧
    (lockOpen s = false ∨ s.hst.flash = true ∨ imgState s = 1 → Refuses s (.flashGo who v) who true)) ∧
  (∀ (s : State) (data : List Byte),
    (s.hst.flash = true → ∃ t, exec (.flashDone data) s = .next t ∧ t.hst.flash = false ∧ rdBit t (hstA 0x38) 0 = false ∧
      rdBit t (hstA 0x38) 1 = true ∧
      (rdBit s (hstA 0x30) 1 = false → ∀ i, i < min 256 (rdFld s (hstA 0x3C) 0 9) →
        rdFld t (hstA (0x400 + 4 * (i / 4))) (8 * (i % 4)) 8 = (data.getD i 0).toNat) ∧
      (rdBit s (hstA 0x30) 1 = true → ∀ b, b ≠ hstA 0x38 → rdReg t b = rdReg s b)) ∧
    (s.hst.flash = false → exec (.flashDone data) s = .next s)) ∧
  (∀ (s : State) (a : Nat) (v : Word), s.chip.devState ≠ .off →
    let h := s.hst
    exec (.setaddr a) s = .next { s with hst := { h with i2cAddr := a % 2 ^ 40, i2cReply := [] } } ∧
    exec .state s = .next { s with hst := { h with i2cReply := leBytes 1 (stateCode s.chip.devState + 8 * b2n s.chip.loadErr +
      16 * b2n (faultN s) + 32 * b2n h.therm) } } ∧
    (h.i2cBusy = true → ∀ c ∈ [Instr.write v, Instr.read, Instr.i2cStretchTimeout],
      exec c s = .next { s with hst := { h with i2cStat := 3, i2cReply := [3#8] } }) ∧
    (h.i2cBusy = false → exec .i2cStretchTimeout s = .next s ∧
      (h.i2cAddr ∉ [imgA 0, sprA 0, hstA 8] → exec (.write v) s = .next { s with hst := { h with i2cStat := 2, i2cReply := [2#8] } }) ∧
      (h.i2cAddr = hstA 8 → s.chip.shellUp = true → ∃ t, exec (.write v) s = .next t ∧ rdFld t (hstA 8) 0 9 = fld v 0 9 ∧
        t.hst.i2cStat = 0 ∧ t.hst.i2cAddr = hstA 12 ∧ t.hst.i2cReply = [0#8] ∧ (∀ b, b ≠ hstA 8 → rdReg t b = rdReg s b)) ∧
      (h.i2cAddr = hstA 8 → ∃ t, exec .read s = .next t ∧ t.hst.i2cAddr = hstA 12 ∧ t.regs = s.regs ∧
        t.hst.i2cReply = 0#8 :: leBytes 4 (rdFld s (hstA 8) 0 9))))
end

