-- ==== Sys2Proof/Laws/Maps.lean ====
section
/-! SUPPORT. The laws of sparse maps: a read after a write, other keys, and the canonical form. -/

namespace Sys2Proof.Machine

variable {α : Type}

theorem mem_mapIns {m : SMap α} {k : Nat} {v : α} {q : Nat × α} : q ∈ mapIns m k v ↔ q = (k, v) ∨ q ∈ m := by
  induction m with
  | nil => simp [mapIns]
  | cons a m ih =>
    simp only [mapIns]
    split
    · simp
    · simp only [List.mem_cons, ih]; tauto

theorem mem_mapDel {m : SMap α} {k : Nat} {q : Nat × α} : q ∈ mapDel m k ↔ q ∈ m ∧ q.1 ≠ k := by
  simp [mapDel]

theorem mapIns_rising {m : SMap α} {k : Nat} {v : α} (h : m.Pairwise (fun a b => a.1 < b.1)) (hk : ∀ q ∈ m, q.1 ≠ k) :
    (mapIns m k v).Pairwise (fun a b => a.1 < b.1) := by
  induction m with
  | nil => simp [mapIns]
  | cons a m ih =>
    have ha := List.pairwise_cons.1 h
    simp only [mapIns]
    split
    · rename_i hlt
      refine List.pairwise_cons.2 ⟨?_, h⟩
      intro q hq
      rcases List.mem_cons.1 hq with rfl | hq
      · exact hlt
      · exact Nat.lt_trans hlt (ha.1 q hq)
    · rename_i hge
      refine List.pairwise_cons.2 ⟨?_, ih ha.2 (fun q hq => hk q (List.mem_cons_of_mem _ hq))⟩
      intro q hq
      rcases mem_mapIns.1 hq with rfl | hq
      · have := hk a (List.mem_cons_self ..)
        simp only; omega
      · exact ha.1 q hq

theorem mapDel_rising {m : SMap α} {k : Nat} (h : m.Pairwise (fun a b => a.1 < b.1)) :
    (mapDel m k).Pairwise (fun a b => a.1 < b.1) := h.filter _

variable [DecidableEq α]

/-- A write keeps the keys rising, and lists nothing but the pairs that were listed and the pair written. -/
theorem mapSet_rising {d v : α} {m : SMap α} {k : Nat} (h : m.Pairwise (fun a b => a.1 < b.1)) :
    (mapSet d m k v).Pairwise (fun a b => a.1 < b.1) := by
  unfold mapSet
  split
  · exact mapDel_rising h
  · exact mapIns_rising (mapDel_rising h) (fun q hq => (mem_mapDel.1 hq).2)

theorem mem_mapSet {d v : α} {m : SMap α} {k : Nat} {q : Nat × α} (h : q ∈ mapSet d m k v) :
    (q = (k, v) ∧ v ≠ d) ∨ (q ∈ m ∧ q.1 ≠ k) := by
  unfold mapSet at h
  split at h
  · exact Or.inr (mem_mapDel.1 h)
  · rename_i hv
    rcases mem_mapIns.1 h with rfl | h
    · exact Or.inl ⟨rfl, hv⟩
    · exact Or.inr (mem_mapDel.1 h)

/-- A write of memory keeps the canonical form. -/
theorem mapSet_wf {d v : α} {m : SMap α} {k : Nat} (h : mapWf d m) : mapWf d (mapSet d m k v) := by
  refine ⟨mapSet_rising h.1, fun q hq => ?_⟩
  rcases mem_mapSet hq with ⟨rfl, hv⟩ | ⟨hm, _⟩
  · exact hv
  · exact h.2 q hm

theorem mapSetAll_wf {d : α} {l : List (Nat × α)} {m : SMap α} (h : mapWf d m) : mapWf d (mapSetAll d m l) := by
  unfold mapSetAll
  induction l generalizing m with
  | nil => exact h
  | cons q l ih => exact ih (mapSet_wf h)

omit [DecidableEq α] in
theorem filter_wf {d : α} {m : SMap α} {p : Nat × α → Bool} (h : mapWf d m) : mapWf d (m.filter p) :=
  ⟨h.1.filter _, fun q hq => h.2 q (List.mem_filter.1 hq).1⟩

omit [DecidableEq α] in
theorem mapGet_mapDel_same {d : α} {m : SMap α} {k : Nat} : mapGet d (mapDel m k) k = d := by
  induction m with
  | nil => rfl
  | cons a m ih =>
    by_cases h : a.1 = k
    · simpa [mapDel, List.filter_cons, h] using ih
    · simpa [mapDel, List.filter_cons, h, mapGet] using ih

omit [DecidableEq α] in
theorem mapGet_mapDel_other {d : α} {m : SMap α} {k j : Nat} (h : j ≠ k) : mapGet d (mapDel m k) j = mapGet d m j := by
  induction m with
  | nil => rfl
  | cons a m ih =>
    by_cases ha : a.1 = k
    · have : a.1 ≠ j := by omega
      simpa [mapDel, List.filter_cons, ha, mapGet, this, Ne.symm h] using ih
    · by_cases hj : a.1 = j
      · simp [mapDel, mapGet, hj, h]
      · simpa [mapDel, List.filter_cons, ha, mapGet, hj] using ih

omit [DecidableEq α] in
theorem mapGet_mapIns_same {d : α} {m : SMap α} {k : Nat} {v : α} (h : ∀ q ∈ m, q.1 ≠ k) :
    mapGet d (mapIns m k v) k = v := by
  induction m with
  | nil => simp [mapIns, mapGet]
  | cons a m ih =>
    simp only [mapIns]
    split
    · simp [mapGet]
    · have := h a (List.mem_cons_self ..)
      simp only [mapGet, this, if_false]
      exact ih (fun q hq => h q (List.mem_cons_of_mem _ hq))

omit [DecidableEq α] in
theorem mapGet_mapIns_other {d : α} {m : SMap α} {k j : Nat} {v : α} (h : j ≠ k) :
    mapGet d (mapIns m k v) j = mapGet d m j := by
  induction m with
  | nil => simp [mapIns, mapGet, Ne.symm h]
  | cons a m ih =>
    simp only [mapIns]
    split
    · simp [mapGet, Ne.symm h]
    · simp only [mapGet, ih]

/-- A read of the key written gives the value written. -/
@[simp] theorem mapGet_mapSet_same {d v : α} {m : SMap α} {k : Nat} : mapGet d (mapSet d m k v) k = v := by
  unfold mapSet
  split
  · rename_i h; rw [mapGet_mapDel_same, h]
  · exact mapGet_mapIns_same (fun q hq => (mem_mapDel.1 hq).2)

/-- A read of another key gives what it gave. -/
theorem mapGet_mapSet_other {d d' v : α} {m : SMap α} {k j : Nat} (h : j ≠ k) :
    mapGet d (mapSet d' m k v) j = mapGet d m j := by
  unfold mapSet
  split
  · exact mapGet_mapDel_other h
  · rw [mapGet_mapIns_other h, mapGet_mapDel_other h]

/-! ### Registers -/

@[simp] theorem rdReg_wrReg_same (s : State) (a : Nat) (v : Word) : rdReg (wrReg s a v) a = v := mapGet_mapSet_same

theorem rdReg_wrReg_other (s : State) {a b : Nat} (v : Word) (h : b ≠ a) : rdReg (wrReg s a v) b = rdReg s b :=
  mapGet_mapSet_other h

/-- A write of a register keeps the canonical form of the register file. -/
theorem mapSet_regs {m : SMap Word} {a : Nat} {v : Word} (h : Registers.wf m) : Registers.wf (mapSet (regReset a) m a v) := by
  refine ⟨mapSet_rising h.1, fun q hq => ?_⟩
  rcases mem_mapSet hq with ⟨rfl, hv⟩ | ⟨hm, _⟩
  · exact hv
  · exact h.2 q hm

theorem wrReg_wf {s : State} {a : Nat} {v : Word} (h : Registers.wf s.regs) : Registers.wf (wrReg s a v).regs :=
  mapSet_regs h

end Sys2Proof.Machine
end

