-- ==== Sys2Proof/Laws/State.lean ====
section
/-! SUPPORT. What the named updates leave of each field of the state. -/

namespace Sys2Proof.Machine

@[simp] theorem wrReg_pending (s : State) (a : Nat) (v : Word) : (wrReg s a v).pending = s.pending := rfl
@[simp] theorem wrReg_chip (s : State) (a : Nat) (v : Word) : (wrReg s a v).chip = s.chip := rfl
@[simp] theorem wrReg_outbox (s : State) (a : Nat) (v : Word) : (wrReg s a v).outbox = s.outbox := rfl
@[simp] theorem wrReg_freeCtr (s : State) (a : Nat) (v : Word) : (wrReg s a v).freeCtr = s.freeCtr := rfl
@[simp] theorem wrReg_cl (s : State) (a : Nat) (v : Word) : (wrReg s a v).cl = s.cl := rfl
@[simp] theorem wrReg_spr (s : State) (a : Nat) (v : Word) : (wrReg s a v).spr = s.spr := rfl
@[simp] theorem wrReg_att (s : State) (a : Nat) (v : Word) : (wrReg s a v).att = s.att := rfl
@[simp] theorem wrReg_crt (s : State) (a : Nat) (v : Word) : (wrReg s a v).crt = s.crt := rfl
@[simp] theorem wrReg_tim (s : State) (a : Nat) (v : Word) : (wrReg s a v).tim = s.tim := rfl
@[simp] theorem wrReg_cel (s : State) (a : Nat) (v : Word) : (wrReg s a v).cel = s.cel := rfl
@[simp] theorem wrReg_cmp (s : State) (a : Nat) (v : Word) : (wrReg s a v).cmp = s.cmp := rfl
@[simp] theorem wrReg_lnk (s : State) (a : Nat) (v : Word) : (wrReg s a v).lnk = s.lnk := rfl
@[simp] theorem wrReg_prbs (s : State) (a : Nat) (v : Word) : (wrReg s a v).prbs = s.prbs := rfl
@[simp] theorem wrReg_hst (s : State) (a : Nat) (v : Word) : (wrReg s a v).hst = s.hst := rfl
@[simp] theorem wrReg_stw (s : State) (a : Nat) (v : Word) : (wrReg s a v).stw = s.stw := rfl
@[simp] theorem wrReg_noc (s : State) (a : Nat) (v : Word) : (wrReg s a v).noc = s.noc := rfl
@[simp] theorem wrReg_trc (s : State) (a : Nat) (v : Word) : (wrReg s a v).trc = s.trc := rfl
@[simp] theorem wrReg_ldr (s : State) (a : Nat) (v : Word) : (wrReg s a v).ldr = s.ldr := rfl
@[simp] theorem wrFld_pending (s : State) (a : Nat) (lo : Nat) (n : Nat) (x : Nat) : (wrFld s a lo n x).pending = s.pending := rfl
@[simp] theorem wrFld_chip (s : State) (a : Nat) (lo : Nat) (n : Nat) (x : Nat) : (wrFld s a lo n x).chip = s.chip := rfl
@[simp] theorem wrFld_outbox (s : State) (a : Nat) (lo : Nat) (n : Nat) (x : Nat) : (wrFld s a lo n x).outbox = s.outbox := rfl
@[simp] theorem wrFld_freeCtr (s : State) (a : Nat) (lo : Nat) (n : Nat) (x : Nat) : (wrFld s a lo n x).freeCtr = s.freeCtr := rfl
@[simp] theorem wrFld_cl (s : State) (a : Nat) (lo : Nat) (n : Nat) (x : Nat) : (wrFld s a lo n x).cl = s.cl := rfl
@[simp] theorem wrFld_spr (s : State) (a : Nat) (lo : Nat) (n : Nat) (x : Nat) : (wrFld s a lo n x).spr = s.spr := rfl
@[simp] theorem wrFld_att (s : State) (a : Nat) (lo : Nat) (n : Nat) (x : Nat) : (wrFld s a lo n x).att = s.att := rfl
@[simp] theorem wrFld_crt (s : State) (a : Nat) (lo : Nat) (n : Nat) (x : Nat) : (wrFld s a lo n x).crt = s.crt := rfl
@[simp] theorem wrFld_tim (s : State) (a : Nat) (lo : Nat) (n : Nat) (x : Nat) : (wrFld s a lo n x).tim = s.tim := rfl
@[simp] theorem wrFld_cel (s : State) (a : Nat) (lo : Nat) (n : Nat) (x : Nat) : (wrFld s a lo n x).cel = s.cel := rfl
@[simp] theorem wrFld_cmp (s : State) (a : Nat) (lo : Nat) (n : Nat) (x : Nat) : (wrFld s a lo n x).cmp = s.cmp := rfl
@[simp] theorem wrFld_lnk (s : State) (a : Nat) (lo : Nat) (n : Nat) (x : Nat) : (wrFld s a lo n x).lnk = s.lnk := rfl
@[simp] theorem wrFld_prbs (s : State) (a : Nat) (lo : Nat) (n : Nat) (x : Nat) : (wrFld s a lo n x).prbs = s.prbs := rfl
@[simp] theorem wrFld_hst (s : State) (a : Nat) (lo : Nat) (n : Nat) (x : Nat) : (wrFld s a lo n x).hst = s.hst := rfl
@[simp] theorem wrFld_stw (s : State) (a : Nat) (lo : Nat) (n : Nat) (x : Nat) : (wrFld s a lo n x).stw = s.stw := rfl
@[simp] theorem wrFld_noc (s : State) (a : Nat) (lo : Nat) (n : Nat) (x : Nat) : (wrFld s a lo n x).noc = s.noc := rfl
@[simp] theorem wrFld_trc (s : State) (a : Nat) (lo : Nat) (n : Nat) (x : Nat) : (wrFld s a lo n x).trc = s.trc := rfl
@[simp] theorem wrFld_ldr (s : State) (a : Nat) (lo : Nat) (n : Nat) (x : Nat) : (wrFld s a lo n x).ldr = s.ldr := rfl
@[simp] theorem setBit_pending (s : State) (a : Nat) (i : Nat) : (setBit s a i).pending = s.pending := rfl
@[simp] theorem setBit_chip (s : State) (a : Nat) (i : Nat) : (setBit s a i).chip = s.chip := rfl
@[simp] theorem setBit_outbox (s : State) (a : Nat) (i : Nat) : (setBit s a i).outbox = s.outbox := rfl
@[simp] theorem setBit_freeCtr (s : State) (a : Nat) (i : Nat) : (setBit s a i).freeCtr = s.freeCtr := rfl
@[simp] theorem setBit_cl (s : State) (a : Nat) (i : Nat) : (setBit s a i).cl = s.cl := rfl
@[simp] theorem setBit_spr (s : State) (a : Nat) (i : Nat) : (setBit s a i).spr = s.spr := rfl
@[simp] theorem setBit_att (s : State) (a : Nat) (i : Nat) : (setBit s a i).att = s.att := rfl
@[simp] theorem setBit_crt (s : State) (a : Nat) (i : Nat) : (setBit s a i).crt = s.crt := rfl
@[simp] theorem setBit_tim (s : State) (a : Nat) (i : Nat) : (setBit s a i).tim = s.tim := rfl
@[simp] theorem setBit_cel (s : State) (a : Nat) (i : Nat) : (setBit s a i).cel = s.cel := rfl
@[simp] theorem setBit_cmp (s : State) (a : Nat) (i : Nat) : (setBit s a i).cmp = s.cmp := rfl
@[simp] theorem setBit_lnk (s : State) (a : Nat) (i : Nat) : (setBit s a i).lnk = s.lnk := rfl
@[simp] theorem setBit_prbs (s : State) (a : Nat) (i : Nat) : (setBit s a i).prbs = s.prbs := rfl
@[simp] theorem setBit_hst (s : State) (a : Nat) (i : Nat) : (setBit s a i).hst = s.hst := rfl
@[simp] theorem setBit_stw (s : State) (a : Nat) (i : Nat) : (setBit s a i).stw = s.stw := rfl
@[simp] theorem setBit_noc (s : State) (a : Nat) (i : Nat) : (setBit s a i).noc = s.noc := rfl
@[simp] theorem setBit_trc (s : State) (a : Nat) (i : Nat) : (setBit s a i).trc = s.trc := rfl
@[simp] theorem setBit_ldr (s : State) (a : Nat) (i : Nat) : (setBit s a i).ldr = s.ldr := rfl
@[simp] theorem clrBit_pending (s : State) (a : Nat) (i : Nat) : (clrBit s a i).pending = s.pending := rfl
@[simp] theorem clrBit_chip (s : State) (a : Nat) (i : Nat) : (clrBit s a i).chip = s.chip := rfl
@[simp] theorem clrBit_outbox (s : State) (a : Nat) (i : Nat) : (clrBit s a i).outbox = s.outbox := rfl
@[simp] theorem clrBit_freeCtr (s : State) (a : Nat) (i : Nat) : (clrBit s a i).freeCtr = s.freeCtr := rfl
@[simp] theorem clrBit_cl (s : State) (a : Nat) (i : Nat) : (clrBit s a i).cl = s.cl := rfl
@[simp] theorem clrBit_spr (s : State) (a : Nat) (i : Nat) : (clrBit s a i).spr = s.spr := rfl
@[simp] theorem clrBit_att (s : State) (a : Nat) (i : Nat) : (clrBit s a i).att = s.att := rfl
@[simp] theorem clrBit_crt (s : State) (a : Nat) (i : Nat) : (clrBit s a i).crt = s.crt := rfl
@[simp] theorem clrBit_tim (s : State) (a : Nat) (i : Nat) : (clrBit s a i).tim = s.tim := rfl
@[simp] theorem clrBit_cel (s : State) (a : Nat) (i : Nat) : (clrBit s a i).cel = s.cel := rfl
@[simp] theorem clrBit_cmp (s : State) (a : Nat) (i : Nat) : (clrBit s a i).cmp = s.cmp := rfl
@[simp] theorem clrBit_lnk (s : State) (a : Nat) (i : Nat) : (clrBit s a i).lnk = s.lnk := rfl
@[simp] theorem clrBit_prbs (s : State) (a : Nat) (i : Nat) : (clrBit s a i).prbs = s.prbs := rfl
@[simp] theorem clrBit_hst (s : State) (a : Nat) (i : Nat) : (clrBit s a i).hst = s.hst := rfl
@[simp] theorem clrBit_stw (s : State) (a : Nat) (i : Nat) : (clrBit s a i).stw = s.stw := rfl
@[simp] theorem clrBit_noc (s : State) (a : Nat) (i : Nat) : (clrBit s a i).noc = s.noc := rfl
@[simp] theorem clrBit_trc (s : State) (a : Nat) (i : Nat) : (clrBit s a i).trc = s.trc := rfl
@[simp] theorem clrBit_ldr (s : State) (a : Nat) (i : Nat) : (clrBit s a i).ldr = s.ldr := rfl
@[simp] theorem resetDom_pending (d : Dom) (s : State) : (resetDom d s).pending = s.pending := rfl
@[simp] theorem resetDom_chip (d : Dom) (s : State) : (resetDom d s).chip = s.chip := rfl
@[simp] theorem resetDom_outbox (d : Dom) (s : State) : (resetDom d s).outbox = s.outbox := rfl
@[simp] theorem resetDom_freeCtr (d : Dom) (s : State) : (resetDom d s).freeCtr = s.freeCtr := rfl
@[simp] theorem resetDom_cl (d : Dom) (s : State) : (resetDom d s).cl = s.cl := rfl
@[simp] theorem resetDom_spr (d : Dom) (s : State) : (resetDom d s).spr = s.spr := rfl
@[simp] theorem resetDom_att (d : Dom) (s : State) : (resetDom d s).att = s.att := rfl
@[simp] theorem resetDom_crt (d : Dom) (s : State) : (resetDom d s).crt = s.crt := rfl
@[simp] theorem resetDom_tim (d : Dom) (s : State) : (resetDom d s).tim = s.tim := rfl
@[simp] theorem resetDom_cel (d : Dom) (s : State) : (resetDom d s).cel = s.cel := rfl
@[simp] theorem resetDom_cmp (d : Dom) (s : State) : (resetDom d s).cmp = s.cmp := rfl
@[simp] theorem resetDom_lnk (d : Dom) (s : State) : (resetDom d s).lnk = s.lnk := rfl
@[simp] theorem resetDom_prbs (d : Dom) (s : State) : (resetDom d s).prbs = s.prbs := rfl
@[simp] theorem resetDom_hst (d : Dom) (s : State) : (resetDom d s).hst = s.hst := rfl
@[simp] theorem resetDom_stw (d : Dom) (s : State) : (resetDom d s).stw = s.stw := rfl
@[simp] theorem resetDom_noc (d : Dom) (s : State) : (resetDom d s).noc = s.noc := rfl
@[simp] theorem resetDom_trc (d : Dom) (s : State) : (resetDom d s).trc = s.trc := rfl
@[simp] theorem resetDom_ldr (d : Dom) (s : State) : (resetDom d s).ldr = s.ldr := rfl
@[simp] theorem putGate_pending (h : Nat) (g : Gate) (s : State) : (putGate h g s).pending = s.pending := rfl
@[simp] theorem putGate_chip (h : Nat) (g : Gate) (s : State) : (putGate h g s).chip = s.chip := rfl
@[simp] theorem putGate_regs (h : Nat) (g : Gate) (s : State) : (putGate h g s).regs = s.regs := rfl
@[simp] theorem putGate_outbox (h : Nat) (g : Gate) (s : State) : (putGate h g s).outbox = s.outbox := rfl
@[simp] theorem putGate_freeCtr (h : Nat) (g : Gate) (s : State) : (putGate h g s).freeCtr = s.freeCtr := rfl
@[simp] theorem putGate_cl (h : Nat) (g : Gate) (s : State) : (putGate h g s).cl = s.cl := rfl
@[simp] theorem putGate_spr (h : Nat) (g : Gate) (s : State) : (putGate h g s).spr = s.spr := rfl
@[simp] theorem putGate_att (h : Nat) (g : Gate) (s : State) : (putGate h g s).att = s.att := rfl
@[simp] theorem putGate_crt (h : Nat) (g : Gate) (s : State) : (putGate h g s).crt = s.crt := rfl
@[simp] theorem putGate_tim (h : Nat) (g : Gate) (s : State) : (putGate h g s).tim = s.tim := rfl
@[simp] theorem putGate_cel (h : Nat) (g : Gate) (s : State) : (putGate h g s).cel = s.cel := rfl
@[simp] theorem putGate_cmp (h : Nat) (g : Gate) (s : State) : (putGate h g s).cmp = s.cmp := rfl
@[simp] theorem putGate_lnk (h : Nat) (g : Gate) (s : State) : (putGate h g s).lnk = s.lnk := rfl
@[simp] theorem putGate_prbs (h : Nat) (g : Gate) (s : State) : (putGate h g s).prbs = s.prbs := rfl
@[simp] theorem putGate_hst (h : Nat) (g : Gate) (s : State) : (putGate h g s).hst = s.hst := rfl
@[simp] theorem putGate_stw (h : Nat) (g : Gate) (s : State) : (putGate h g s).stw = s.stw := rfl
@[simp] theorem putGate_trc (h : Nat) (g : Gate) (s : State) : (putGate h g s).trc = s.trc := rfl
@[simp] theorem putGate_ldr (h : Nat) (g : Gate) (s : State) : (putGate h g s).ldr = s.ldr := rfl
@[simp] theorem report_pending (kind : Nat) (cls : Nat) (unit : Nat) (detail : Nat) (s : State) : (report kind cls unit detail s).pending = s.pending := rfl
@[simp] theorem report_chip (kind : Nat) (cls : Nat) (unit : Nat) (detail : Nat) (s : State) : (report kind cls unit detail s).chip = s.chip := rfl
@[simp] theorem report_regs (kind : Nat) (cls : Nat) (unit : Nat) (detail : Nat) (s : State) : (report kind cls unit detail s).regs = s.regs := rfl
@[simp] theorem report_outbox (kind : Nat) (cls : Nat) (unit : Nat) (detail : Nat) (s : State) : (report kind cls unit detail s).outbox = s.outbox := rfl
@[simp] theorem report_freeCtr (kind : Nat) (cls : Nat) (unit : Nat) (detail : Nat) (s : State) : (report kind cls unit detail s).freeCtr = s.freeCtr := rfl
@[simp] theorem report_cl (kind : Nat) (cls : Nat) (unit : Nat) (detail : Nat) (s : State) : (report kind cls unit detail s).cl = s.cl := rfl
@[simp] theorem report_spr (kind : Nat) (cls : Nat) (unit : Nat) (detail : Nat) (s : State) : (report kind cls unit detail s).spr = s.spr := rfl
@[simp] theorem report_crt (kind : Nat) (cls : Nat) (unit : Nat) (detail : Nat) (s : State) : (report kind cls unit detail s).crt = s.crt := rfl
@[simp] theorem report_tim (kind : Nat) (cls : Nat) (unit : Nat) (detail : Nat) (s : State) : (report kind cls unit detail s).tim = s.tim := rfl
@[simp] theorem report_cel (kind : Nat) (cls : Nat) (unit : Nat) (detail : Nat) (s : State) : (report kind cls unit detail s).cel = s.cel := rfl
@[simp] theorem report_cmp (kind : Nat) (cls : Nat) (unit : Nat) (detail : Nat) (s : State) : (report kind cls unit detail s).cmp = s.cmp := rfl
@[simp] theorem report_lnk (kind : Nat) (cls : Nat) (unit : Nat) (detail : Nat) (s : State) : (report kind cls unit detail s).lnk = s.lnk := rfl
@[simp] theorem report_prbs (kind : Nat) (cls : Nat) (unit : Nat) (detail : Nat) (s : State) : (report kind cls unit detail s).prbs = s.prbs := rfl
@[simp] theorem report_hst (kind : Nat) (cls : Nat) (unit : Nat) (detail : Nat) (s : State) : (report kind cls unit detail s).hst = s.hst := rfl
@[simp] theorem report_stw (kind : Nat) (cls : Nat) (unit : Nat) (detail : Nat) (s : State) : (report kind cls unit detail s).stw = s.stw := rfl
@[simp] theorem report_noc (kind : Nat) (cls : Nat) (unit : Nat) (detail : Nat) (s : State) : (report kind cls unit detail s).noc = s.noc := rfl
@[simp] theorem report_trc (kind : Nat) (cls : Nat) (unit : Nat) (detail : Nat) (s : State) : (report kind cls unit detail s).trc = s.trc := rfl
@[simp] theorem report_ldr (kind : Nat) (cls : Nat) (unit : Nat) (detail : Nat) (s : State) : (report kind cls unit detail s).ldr = s.ldr := rfl
@[simp] theorem pondWrite_pending (p : Nat) (n : Nat) (a : Nat) (v : Ctx) (s : State) : (pondWrite p n a v s).pending = s.pending := rfl
@[simp] theorem pondWrite_chip (p : Nat) (n : Nat) (a : Nat) (v : Ctx) (s : State) : (pondWrite p n a v s).chip = s.chip := rfl
@[simp] theorem pondWrite_regs (p : Nat) (n : Nat) (a : Nat) (v : Ctx) (s : State) : (pondWrite p n a v s).regs = s.regs := rfl
@[simp] theorem pondWrite_outbox (p : Nat) (n : Nat) (a : Nat) (v : Ctx) (s : State) : (pondWrite p n a v s).outbox = s.outbox := rfl
@[simp] theorem pondWrite_freeCtr (p : Nat) (n : Nat) (a : Nat) (v : Ctx) (s : State) : (pondWrite p n a v s).freeCtr = s.freeCtr := rfl
@[simp] theorem pondWrite_spr (p : Nat) (n : Nat) (a : Nat) (v : Ctx) (s : State) : (pondWrite p n a v s).spr = s.spr := rfl
@[simp] theorem pondWrite_att (p : Nat) (n : Nat) (a : Nat) (v : Ctx) (s : State) : (pondWrite p n a v s).att = s.att := rfl
@[simp] theorem pondWrite_crt (p : Nat) (n : Nat) (a : Nat) (v : Ctx) (s : State) : (pondWrite p n a v s).crt = s.crt := rfl
@[simp] theorem pondWrite_tim (p : Nat) (n : Nat) (a : Nat) (v : Ctx) (s : State) : (pondWrite p n a v s).tim = s.tim := rfl
@[simp] theorem pondWrite_cel (p : Nat) (n : Nat) (a : Nat) (v : Ctx) (s : State) : (pondWrite p n a v s).cel = s.cel := rfl
@[simp] theorem pondWrite_cmp (p : Nat) (n : Nat) (a : Nat) (v : Ctx) (s : State) : (pondWrite p n a v s).cmp = s.cmp := rfl
@[simp] theorem pondWrite_lnk (p : Nat) (n : Nat) (a : Nat) (v : Ctx) (s : State) : (pondWrite p n a v s).lnk = s.lnk := rfl
@[simp] theorem pondWrite_prbs (p : Nat) (n : Nat) (a : Nat) (v : Ctx) (s : State) : (pondWrite p n a v s).prbs = s.prbs := rfl
@[simp] theorem pondWrite_hst (p : Nat) (n : Nat) (a : Nat) (v : Ctx) (s : State) : (pondWrite p n a v s).hst = s.hst := rfl
@[simp] theorem pondWrite_stw (p : Nat) (n : Nat) (a : Nat) (v : Ctx) (s : State) : (pondWrite p n a v s).stw = s.stw := rfl
@[simp] theorem pondWrite_noc (p : Nat) (n : Nat) (a : Nat) (v : Ctx) (s : State) : (pondWrite p n a v s).noc = s.noc := rfl
@[simp] theorem pondWrite_trc (p : Nat) (n : Nat) (a : Nat) (v : Ctx) (s : State) : (pondWrite p n a v s).trc = s.trc := rfl
@[simp] theorem pondWrite_ldr (p : Nat) (n : Nat) (a : Nat) (v : Ctx) (s : State) : (pondWrite p n a v s).ldr = s.ldr := rfl
@[simp] theorem busPut_pending (m : Nat) (n : Nat) (t : Nat) (v : Ctx) (s : State) : (busPut m n t v s).pending = s.pending := rfl
@[simp] theorem busPut_chip (m : Nat) (n : Nat) (t : Nat) (v : Ctx) (s : State) : (busPut m n t v s).chip = s.chip := rfl
@[simp] theorem busPut_regs (m : Nat) (n : Nat) (t : Nat) (v : Ctx) (s : State) : (busPut m n t v s).regs = s.regs := rfl
@[simp] theorem busPut_outbox (m : Nat) (n : Nat) (t : Nat) (v : Ctx) (s : State) : (busPut m n t v s).outbox = s.outbox := rfl
@[simp] theorem busPut_freeCtr (m : Nat) (n : Nat) (t : Nat) (v : Ctx) (s : State) : (busPut m n t v s).freeCtr = s.freeCtr := rfl
@[simp] theorem busPut_spr (m : Nat) (n : Nat) (t : Nat) (v : Ctx) (s : State) : (busPut m n t v s).spr = s.spr := rfl
@[simp] theorem busPut_att (m : Nat) (n : Nat) (t : Nat) (v : Ctx) (s : State) : (busPut m n t v s).att = s.att := rfl
@[simp] theorem busPut_crt (m : Nat) (n : Nat) (t : Nat) (v : Ctx) (s : State) : (busPut m n t v s).crt = s.crt := rfl
@[simp] theorem busPut_tim (m : Nat) (n : Nat) (t : Nat) (v : Ctx) (s : State) : (busPut m n t v s).tim = s.tim := rfl
@[simp] theorem busPut_cel (m : Nat) (n : Nat) (t : Nat) (v : Ctx) (s : State) : (busPut m n t v s).cel = s.cel := rfl
@[simp] theorem busPut_cmp (m : Nat) (n : Nat) (t : Nat) (v : Ctx) (s : State) : (busPut m n t v s).cmp = s.cmp := rfl
@[simp] theorem busPut_lnk (m : Nat) (n : Nat) (t : Nat) (v : Ctx) (s : State) : (busPut m n t v s).lnk = s.lnk := rfl
@[simp] theorem busPut_prbs (m : Nat) (n : Nat) (t : Nat) (v : Ctx) (s : State) : (busPut m n t v s).prbs = s.prbs := rfl
@[simp] theorem busPut_hst (m : Nat) (n : Nat) (t : Nat) (v : Ctx) (s : State) : (busPut m n t v s).hst = s.hst := rfl
@[simp] theorem busPut_stw (m : Nat) (n : Nat) (t : Nat) (v : Ctx) (s : State) : (busPut m n t v s).stw = s.stw := rfl
@[simp] theorem busPut_noc (m : Nat) (n : Nat) (t : Nat) (v : Ctx) (s : State) : (busPut m n t v s).noc = s.noc := rfl
@[simp] theorem busPut_trc (m : Nat) (n : Nat) (t : Nat) (v : Ctx) (s : State) : (busPut m n t v s).trc = s.trc := rfl
@[simp] theorem busPut_ldr (m : Nat) (n : Nat) (t : Nat) (v : Ctx) (s : State) : (busPut m n t v s).ldr = s.ldr := rfl
@[simp] theorem putKey_pending (r : Nat) (k : RegionKey) (s : State) : (putKey r k s).pending = s.pending := rfl
@[simp] theorem putKey_chip (r : Nat) (k : RegionKey) (s : State) : (putKey r k s).chip = s.chip := rfl
@[simp] theorem putKey_regs (r : Nat) (k : RegionKey) (s : State) : (putKey r k s).regs = s.regs := rfl
@[simp] theorem putKey_outbox (r : Nat) (k : RegionKey) (s : State) : (putKey r k s).outbox = s.outbox := rfl
@[simp] theorem putKey_freeCtr (r : Nat) (k : RegionKey) (s : State) : (putKey r k s).freeCtr = s.freeCtr := rfl
@[simp] theorem putKey_cl (r : Nat) (k : RegionKey) (s : State) : (putKey r k s).cl = s.cl := rfl
@[simp] theorem putKey_spr (r : Nat) (k : RegionKey) (s : State) : (putKey r k s).spr = s.spr := rfl
@[simp] theorem putKey_att (r : Nat) (k : RegionKey) (s : State) : (putKey r k s).att = s.att := rfl
@[simp] theorem putKey_crt (r : Nat) (k : RegionKey) (s : State) : (putKey r k s).crt = s.crt := rfl
@[simp] theorem putKey_tim (r : Nat) (k : RegionKey) (s : State) : (putKey r k s).tim = s.tim := rfl
@[simp] theorem putKey_cmp (r : Nat) (k : RegionKey) (s : State) : (putKey r k s).cmp = s.cmp := rfl
@[simp] theorem putKey_lnk (r : Nat) (k : RegionKey) (s : State) : (putKey r k s).lnk = s.lnk := rfl
@[simp] theorem putKey_prbs (r : Nat) (k : RegionKey) (s : State) : (putKey r k s).prbs = s.prbs := rfl
@[simp] theorem putKey_hst (r : Nat) (k : RegionKey) (s : State) : (putKey r k s).hst = s.hst := rfl
@[simp] theorem putKey_stw (r : Nat) (k : RegionKey) (s : State) : (putKey r k s).stw = s.stw := rfl
@[simp] theorem putKey_noc (r : Nat) (k : RegionKey) (s : State) : (putKey r k s).noc = s.noc := rfl
@[simp] theorem putKey_trc (r : Nat) (k : RegionKey) (s : State) : (putKey r k s).trc = s.trc := rfl
@[simp] theorem putKey_ldr (r : Nat) (k : RegionKey) (s : State) : (putKey r k s).ldr = s.ldr := rfl
@[simp] theorem putPc_pending (pc : Nat) (x : PcState) (s : State) : (putPc pc x s).pending = s.pending := rfl
@[simp] theorem putPc_chip (pc : Nat) (x : PcState) (s : State) : (putPc pc x s).chip = s.chip := rfl
@[simp] theorem putPc_regs (pc : Nat) (x : PcState) (s : State) : (putPc pc x s).regs = s.regs := rfl
@[simp] theorem putPc_outbox (pc : Nat) (x : PcState) (s : State) : (putPc pc x s).outbox = s.outbox := rfl
@[simp] theorem putPc_freeCtr (pc : Nat) (x : PcState) (s : State) : (putPc pc x s).freeCtr = s.freeCtr := rfl
@[simp] theorem putPc_cl (pc : Nat) (x : PcState) (s : State) : (putPc pc x s).cl = s.cl := rfl
@[simp] theorem putPc_spr (pc : Nat) (x : PcState) (s : State) : (putPc pc x s).spr = s.spr := rfl
@[simp] theorem putPc_att (pc : Nat) (x : PcState) (s : State) : (putPc pc x s).att = s.att := rfl
@[simp] theorem putPc_crt (pc : Nat) (x : PcState) (s : State) : (putPc pc x s).crt = s.crt := rfl
@[simp] theorem putPc_tim (pc : Nat) (x : PcState) (s : State) : (putPc pc x s).tim = s.tim := rfl
@[simp] theorem putPc_cmp (pc : Nat) (x : PcState) (s : State) : (putPc pc x s).cmp = s.cmp := rfl
@[simp] theorem putPc_lnk (pc : Nat) (x : PcState) (s : State) : (putPc pc x s).lnk = s.lnk := rfl
@[simp] theorem putPc_prbs (pc : Nat) (x : PcState) (s : State) : (putPc pc x s).prbs = s.prbs := rfl
@[simp] theorem putPc_hst (pc : Nat) (x : PcState) (s : State) : (putPc pc x s).hst = s.hst := rfl
@[simp] theorem putPc_stw (pc : Nat) (x : PcState) (s : State) : (putPc pc x s).stw = s.stw := rfl
@[simp] theorem putPc_noc (pc : Nat) (x : PcState) (s : State) : (putPc pc x s).noc = s.noc := rfl
@[simp] theorem putPc_trc (pc : Nat) (x : PcState) (s : State) : (putPc pc x s).trc = s.trc := rfl
@[simp] theorem putPc_ldr (pc : Nat) (x : PcState) (s : State) : (putPc pc x s).ldr = s.ldr := rfl
@[simp] theorem setCtr_pending (l : Nat) (w : Nat) (s : State) : (setCtr l w s).pending = s.pending := rfl
@[simp] theorem setCtr_chip (l : Nat) (w : Nat) (s : State) : (setCtr l w s).chip = s.chip := rfl
@[simp] theorem setCtr_regs (l : Nat) (w : Nat) (s : State) : (setCtr l w s).regs = s.regs := rfl
@[simp] theorem setCtr_outbox (l : Nat) (w : Nat) (s : State) : (setCtr l w s).outbox = s.outbox := rfl
@[simp] theorem setCtr_freeCtr (l : Nat) (w : Nat) (s : State) : (setCtr l w s).freeCtr = s.freeCtr := rfl
@[simp] theorem setCtr_cl (l : Nat) (w : Nat) (s : State) : (setCtr l w s).cl = s.cl := rfl
@[simp] theorem setCtr_spr (l : Nat) (w : Nat) (s : State) : (setCtr l w s).spr = s.spr := rfl
@[simp] theorem setCtr_att (l : Nat) (w : Nat) (s : State) : (setCtr l w s).att = s.att := rfl
@[simp] theorem setCtr_crt (l : Nat) (w : Nat) (s : State) : (setCtr l w s).crt = s.crt := rfl
@[simp] theorem setCtr_tim (l : Nat) (w : Nat) (s : State) : (setCtr l w s).tim = s.tim := rfl
@[simp] theorem setCtr_cmp (l : Nat) (w : Nat) (s : State) : (setCtr l w s).cmp = s.cmp := rfl
@[simp] theorem setCtr_lnk (l : Nat) (w : Nat) (s : State) : (setCtr l w s).lnk = s.lnk := rfl
@[simp] theorem setCtr_prbs (l : Nat) (w : Nat) (s : State) : (setCtr l w s).prbs = s.prbs := rfl
@[simp] theorem setCtr_hst (l : Nat) (w : Nat) (s : State) : (setCtr l w s).hst = s.hst := rfl
@[simp] theorem setCtr_stw (l : Nat) (w : Nat) (s : State) : (setCtr l w s).stw = s.stw := rfl
@[simp] theorem setCtr_noc (l : Nat) (w : Nat) (s : State) : (setCtr l w s).noc = s.noc := rfl
@[simp] theorem setCtr_trc (l : Nat) (w : Nat) (s : State) : (setCtr l w s).trc = s.trc := rfl
@[simp] theorem setCtr_ldr (l : Nat) (w : Nat) (s : State) : (setCtr l w s).ldr = s.ldr := rfl
@[simp] theorem setPoison_pending (l : Nat) (b : Bool) (s : State) : (setPoison l b s).pending = s.pending := rfl
@[simp] theorem setPoison_chip (l : Nat) (b : Bool) (s : State) : (setPoison l b s).chip = s.chip := rfl
@[simp] theorem setPoison_regs (l : Nat) (b : Bool) (s : State) : (setPoison l b s).regs = s.regs := rfl
@[simp] theorem setPoison_outbox (l : Nat) (b : Bool) (s : State) : (setPoison l b s).outbox = s.outbox := rfl
@[simp] theorem setPoison_freeCtr (l : Nat) (b : Bool) (s : State) : (setPoison l b s).freeCtr = s.freeCtr := rfl
@[simp] theorem setPoison_cl (l : Nat) (b : Bool) (s : State) : (setPoison l b s).cl = s.cl := rfl
@[simp] theorem setPoison_spr (l : Nat) (b : Bool) (s : State) : (setPoison l b s).spr = s.spr := rfl
@[simp] theorem setPoison_att (l : Nat) (b : Bool) (s : State) : (setPoison l b s).att = s.att := rfl
@[simp] theorem setPoison_crt (l : Nat) (b : Bool) (s : State) : (setPoison l b s).crt = s.crt := rfl
@[simp] theorem setPoison_tim (l : Nat) (b : Bool) (s : State) : (setPoison l b s).tim = s.tim := rfl
@[simp] theorem setPoison_cmp (l : Nat) (b : Bool) (s : State) : (setPoison l b s).cmp = s.cmp := rfl
@[simp] theorem setPoison_lnk (l : Nat) (b : Bool) (s : State) : (setPoison l b s).lnk = s.lnk := rfl
@[simp] theorem setPoison_prbs (l : Nat) (b : Bool) (s : State) : (setPoison l b s).prbs = s.prbs := rfl
@[simp] theorem setPoison_hst (l : Nat) (b : Bool) (s : State) : (setPoison l b s).hst = s.hst := rfl
@[simp] theorem setPoison_stw (l : Nat) (b : Bool) (s : State) : (setPoison l b s).stw = s.stw := rfl
@[simp] theorem setPoison_noc (l : Nat) (b : Bool) (s : State) : (setPoison l b s).noc = s.noc := rfl
@[simp] theorem setPoison_trc (l : Nat) (b : Bool) (s : State) : (setPoison l b s).trc = s.trc := rfl
@[simp] theorem setPoison_ldr (l : Nat) (b : Bool) (s : State) : (setPoison l b s).ldr = s.ldr := rfl
@[simp] theorem memPut_pending (off : Nat) (bytes : List Byte) (s : State) : (memPut off bytes s).pending = s.pending := rfl
@[simp] theorem memPut_chip (off : Nat) (bytes : List Byte) (s : State) : (memPut off bytes s).chip = s.chip := rfl
@[simp] theorem memPut_regs (off : Nat) (bytes : List Byte) (s : State) : (memPut off bytes s).regs = s.regs := rfl
@[simp] theorem memPut_outbox (off : Nat) (bytes : List Byte) (s : State) : (memPut off bytes s).outbox = s.outbox := rfl
@[simp] theorem memPut_freeCtr (off : Nat) (bytes : List Byte) (s : State) : (memPut off bytes s).freeCtr = s.freeCtr := rfl
@[simp] theorem memPut_cl (off : Nat) (bytes : List Byte) (s : State) : (memPut off bytes s).cl = s.cl := rfl
@[simp] theorem memPut_spr (off : Nat) (bytes : List Byte) (s : State) : (memPut off bytes s).spr = s.spr := rfl
@[simp] theorem memPut_att (off : Nat) (bytes : List Byte) (s : State) : (memPut off bytes s).att = s.att := rfl
@[simp] theorem memPut_crt (off : Nat) (bytes : List Byte) (s : State) : (memPut off bytes s).crt = s.crt := rfl
@[simp] theorem memPut_tim (off : Nat) (bytes : List Byte) (s : State) : (memPut off bytes s).tim = s.tim := rfl
@[simp] theorem memPut_cmp (off : Nat) (bytes : List Byte) (s : State) : (memPut off bytes s).cmp = s.cmp := rfl
@[simp] theorem memPut_lnk (off : Nat) (bytes : List Byte) (s : State) : (memPut off bytes s).lnk = s.lnk := rfl
@[simp] theorem memPut_prbs (off : Nat) (bytes : List Byte) (s : State) : (memPut off bytes s).prbs = s.prbs := rfl
@[simp] theorem memPut_hst (off : Nat) (bytes : List Byte) (s : State) : (memPut off bytes s).hst = s.hst := rfl
@[simp] theorem memPut_stw (off : Nat) (bytes : List Byte) (s : State) : (memPut off bytes s).stw = s.stw := rfl
@[simp] theorem memPut_noc (off : Nat) (bytes : List Byte) (s : State) : (memPut off bytes s).noc = s.noc := rfl
@[simp] theorem memPut_trc (off : Nat) (bytes : List Byte) (s : State) : (memPut off bytes s).trc = s.trc := rfl
@[simp] theorem memPut_ldr (off : Nat) (bytes : List Byte) (s : State) : (memPut off bytes s).ldr = s.ldr := rfl
@[simp] theorem putLink_pending (l : Nat) (f : Link → Link) (s : State) : (putLink l f s).pending = s.pending := rfl
@[simp] theorem putLink_chip (l : Nat) (f : Link → Link) (s : State) : (putLink l f s).chip = s.chip := rfl
@[simp] theorem putLink_regs (l : Nat) (f : Link → Link) (s : State) : (putLink l f s).regs = s.regs := rfl
@[simp] theorem putLink_outbox (l : Nat) (f : Link → Link) (s : State) : (putLink l f s).outbox = s.outbox := rfl
@[simp] theorem putLink_freeCtr (l : Nat) (f : Link → Link) (s : State) : (putLink l f s).freeCtr = s.freeCtr := rfl
@[simp] theorem putLink_cl (l : Nat) (f : Link → Link) (s : State) : (putLink l f s).cl = s.cl := rfl
@[simp] theorem putLink_spr (l : Nat) (f : Link → Link) (s : State) : (putLink l f s).spr = s.spr := rfl
@[simp] theorem putLink_att (l : Nat) (f : Link → Link) (s : State) : (putLink l f s).att = s.att := rfl
@[simp] theorem putLink_crt (l : Nat) (f : Link → Link) (s : State) : (putLink l f s).crt = s.crt := rfl
@[simp] theorem putLink_tim (l : Nat) (f : Link → Link) (s : State) : (putLink l f s).tim = s.tim := rfl
@[simp] theorem putLink_cel (l : Nat) (f : Link → Link) (s : State) : (putLink l f s).cel = s.cel := rfl
@[simp] theorem putLink_cmp (l : Nat) (f : Link → Link) (s : State) : (putLink l f s).cmp = s.cmp := rfl
@[simp] theorem putLink_prbs (l : Nat) (f : Link → Link) (s : State) : (putLink l f s).prbs = s.prbs := rfl
@[simp] theorem putLink_hst (l : Nat) (f : Link → Link) (s : State) : (putLink l f s).hst = s.hst := rfl
@[simp] theorem putLink_stw (l : Nat) (f : Link → Link) (s : State) : (putLink l f s).stw = s.stw := rfl
@[simp] theorem putLink_noc (l : Nat) (f : Link → Link) (s : State) : (putLink l f s).noc = s.noc := rfl
@[simp] theorem putLink_trc (l : Nat) (f : Link → Link) (s : State) : (putLink l f s).trc = s.trc := rfl
@[simp] theorem putLink_ldr (l : Nat) (f : Link → Link) (s : State) : (putLink l f s).ldr = s.ldr := rfl
@[simp] theorem giveResp_pending (who : Requester) (st : RespStatus) (data : Word) (s : State) : (giveResp who st data s).pending = s.pending := rfl
@[simp] theorem giveResp_regs (who : Requester) (st : RespStatus) (data : Word) (s : State) : (giveResp who st data s).regs = s.regs := rfl
@[simp] theorem giveResp_outbox (who : Requester) (st : RespStatus) (data : Word) (s : State) : (giveResp who st data s).outbox = s.outbox := rfl
@[simp] theorem giveResp_freeCtr (who : Requester) (st : RespStatus) (data : Word) (s : State) : (giveResp who st data s).freeCtr = s.freeCtr := rfl
@[simp] theorem giveResp_cl (who : Requester) (st : RespStatus) (data : Word) (s : State) : (giveResp who st data s).cl = s.cl := rfl
@[simp] theorem giveResp_spr (who : Requester) (st : RespStatus) (data : Word) (s : State) : (giveResp who st data s).spr = s.spr := rfl
@[simp] theorem giveResp_att (who : Requester) (st : RespStatus) (data : Word) (s : State) : (giveResp who st data s).att = s.att := rfl
@[simp] theorem giveResp_crt (who : Requester) (st : RespStatus) (data : Word) (s : State) : (giveResp who st data s).crt = s.crt := rfl
@[simp] theorem giveResp_tim (who : Requester) (st : RespStatus) (data : Word) (s : State) : (giveResp who st data s).tim = s.tim := rfl
@[simp] theorem giveResp_cel (who : Requester) (st : RespStatus) (data : Word) (s : State) : (giveResp who st data s).cel = s.cel := rfl
@[simp] theorem giveResp_cmp (who : Requester) (st : RespStatus) (data : Word) (s : State) : (giveResp who st data s).cmp = s.cmp := rfl
@[simp] theorem giveResp_lnk (who : Requester) (st : RespStatus) (data : Word) (s : State) : (giveResp who st data s).lnk = s.lnk := rfl
@[simp] theorem giveResp_prbs (who : Requester) (st : RespStatus) (data : Word) (s : State) : (giveResp who st data s).prbs = s.prbs := rfl
@[simp] theorem giveResp_hst (who : Requester) (st : RespStatus) (data : Word) (s : State) : (giveResp who st data s).hst = s.hst := rfl
@[simp] theorem giveResp_stw (who : Requester) (st : RespStatus) (data : Word) (s : State) : (giveResp who st data s).stw = s.stw := rfl
@[simp] theorem giveResp_noc (who : Requester) (st : RespStatus) (data : Word) (s : State) : (giveResp who st data s).noc = s.noc := rfl
@[simp] theorem giveResp_trc (who : Requester) (st : RespStatus) (data : Word) (s : State) : (giveResp who st data s).trc = s.trc := rfl
@[simp] theorem giveResp_ldr (who : Requester) (st : RespStatus) (data : Word) (s : State) : (giveResp who st data s).ldr = s.ldr := rfl
@[simp] theorem putGen_pending (n : Nat) (g : PulseGen) (s : State) : (putGen n g s).pending = s.pending := rfl
@[simp] theorem putGen_chip (n : Nat) (g : PulseGen) (s : State) : (putGen n g s).chip = s.chip := rfl
@[simp] theorem putGen_regs (n : Nat) (g : PulseGen) (s : State) : (putGen n g s).regs = s.regs := rfl
@[simp] theorem putGen_outbox (n : Nat) (g : PulseGen) (s : State) : (putGen n g s).outbox = s.outbox := rfl
@[simp] theorem putGen_freeCtr (n : Nat) (g : PulseGen) (s : State) : (putGen n g s).freeCtr = s.freeCtr := rfl
@[simp] theorem putGen_cl (n : Nat) (g : PulseGen) (s : State) : (putGen n g s).cl = s.cl := rfl
@[simp] theorem putGen_spr (n : Nat) (g : PulseGen) (s : State) : (putGen n g s).spr = s.spr := rfl
@[simp] theorem putGen_att (n : Nat) (g : PulseGen) (s : State) : (putGen n g s).att = s.att := rfl
@[simp] theorem putGen_crt (n : Nat) (g : PulseGen) (s : State) : (putGen n g s).crt = s.crt := rfl
@[simp] theorem putGen_cel (n : Nat) (g : PulseGen) (s : State) : (putGen n g s).cel = s.cel := rfl
@[simp] theorem putGen_cmp (n : Nat) (g : PulseGen) (s : State) : (putGen n g s).cmp = s.cmp := rfl
@[simp] theorem putGen_lnk (n : Nat) (g : PulseGen) (s : State) : (putGen n g s).lnk = s.lnk := rfl
@[simp] theorem putGen_prbs (n : Nat) (g : PulseGen) (s : State) : (putGen n g s).prbs = s.prbs := rfl
@[simp] theorem putGen_hst (n : Nat) (g : PulseGen) (s : State) : (putGen n g s).hst = s.hst := rfl
@[simp] theorem putGen_stw (n : Nat) (g : PulseGen) (s : State) : (putGen n g s).stw = s.stw := rfl
@[simp] theorem putGen_noc (n : Nat) (g : PulseGen) (s : State) : (putGen n g s).noc = s.noc := rfl
@[simp] theorem putGen_trc (n : Nat) (g : PulseGen) (s : State) : (putGen n g s).trc = s.trc := rfl
@[simp] theorem putGen_ldr (n : Nat) (g : PulseGen) (s : State) : (putGen n g s).ldr = s.ldr := rfl
@[simp] theorem celAnswer_pending (w : CelWho) (l : Nat) (status : Nat) (data : List Byte) (s : State) : (celAnswer w l status data s).pending = s.pending := rfl
@[simp] theorem celAnswer_chip (w : CelWho) (l : Nat) (status : Nat) (data : List Byte) (s : State) : (celAnswer w l status data s).chip = s.chip := rfl
@[simp] theorem celAnswer_regs (w : CelWho) (l : Nat) (status : Nat) (data : List Byte) (s : State) : (celAnswer w l status data s).regs = s.regs := rfl
@[simp] theorem celAnswer_outbox (w : CelWho) (l : Nat) (status : Nat) (data : List Byte) (s : State) : (celAnswer w l status data s).outbox = s.outbox := rfl
@[simp] theorem celAnswer_freeCtr (w : CelWho) (l : Nat) (status : Nat) (data : List Byte) (s : State) : (celAnswer w l status data s).freeCtr = s.freeCtr := rfl
@[simp] theorem celAnswer_cl (w : CelWho) (l : Nat) (status : Nat) (data : List Byte) (s : State) : (celAnswer w l status data s).cl = s.cl := rfl
@[simp] theorem celAnswer_spr (w : CelWho) (l : Nat) (status : Nat) (data : List Byte) (s : State) : (celAnswer w l status data s).spr = s.spr := rfl
@[simp] theorem celAnswer_att (w : CelWho) (l : Nat) (status : Nat) (data : List Byte) (s : State) : (celAnswer w l status data s).att = s.att := rfl
@[simp] theorem celAnswer_crt (w : CelWho) (l : Nat) (status : Nat) (data : List Byte) (s : State) : (celAnswer w l status data s).crt = s.crt := rfl
@[simp] theorem celAnswer_tim (w : CelWho) (l : Nat) (status : Nat) (data : List Byte) (s : State) : (celAnswer w l status data s).tim = s.tim := rfl
@[simp] theorem celAnswer_cmp (w : CelWho) (l : Nat) (status : Nat) (data : List Byte) (s : State) : (celAnswer w l status data s).cmp = s.cmp := rfl
@[simp] theorem celAnswer_lnk (w : CelWho) (l : Nat) (status : Nat) (data : List Byte) (s : State) : (celAnswer w l status data s).lnk = s.lnk := rfl
@[simp] theorem celAnswer_prbs (w : CelWho) (l : Nat) (status : Nat) (data : List Byte) (s : State) : (celAnswer w l status data s).prbs = s.prbs := rfl
@[simp] theorem celAnswer_hst (w : CelWho) (l : Nat) (status : Nat) (data : List Byte) (s : State) : (celAnswer w l status data s).hst = s.hst := rfl
@[simp] theorem celAnswer_stw (w : CelWho) (l : Nat) (status : Nat) (data : List Byte) (s : State) : (celAnswer w l status data s).stw = s.stw := rfl
@[simp] theorem celAnswer_noc (w : CelWho) (l : Nat) (status : Nat) (data : List Byte) (s : State) : (celAnswer w l status data s).noc = s.noc := rfl
@[simp] theorem celAnswer_trc (w : CelWho) (l : Nat) (status : Nat) (data : List Byte) (s : State) : (celAnswer w l status data s).trc = s.trc := rfl
@[simp] theorem celAnswer_ldr (w : CelWho) (l : Nat) (status : Nat) (data : List Byte) (s : State) : (celAnswer w l status data s).ldr = s.ldr := rfl
@[simp] theorem putSched_pending (p : Nat) (x : Sched) (s : State) : (putSched p x s).pending = s.pending := rfl
@[simp] theorem putSched_chip (p : Nat) (x : Sched) (s : State) : (putSched p x s).chip = s.chip := rfl
@[simp] theorem putSched_regs (p : Nat) (x : Sched) (s : State) : (putSched p x s).regs = s.regs := rfl
@[simp] theorem putSched_outbox (p : Nat) (x : Sched) (s : State) : (putSched p x s).outbox = s.outbox := rfl
@[simp] theorem putSched_freeCtr (p : Nat) (x : Sched) (s : State) : (putSched p x s).freeCtr = s.freeCtr := rfl
@[simp] theorem putSched_cl (p : Nat) (x : Sched) (s : State) : (putSched p x s).cl = s.cl := rfl
@[simp] theorem putSched_spr (p : Nat) (x : Sched) (s : State) : (putSched p x s).spr = s.spr := rfl
@[simp] theorem putSched_att (p : Nat) (x : Sched) (s : State) : (putSched p x s).att = s.att := rfl
@[simp] theorem putSched_crt (p : Nat) (x : Sched) (s : State) : (putSched p x s).crt = s.crt := rfl
@[simp] theorem putSched_tim (p : Nat) (x : Sched) (s : State) : (putSched p x s).tim = s.tim := rfl
@[simp] theorem putSched_cel (p : Nat) (x : Sched) (s : State) : (putSched p x s).cel = s.cel := rfl
@[simp] theorem putSched_cmp (p : Nat) (x : Sched) (s : State) : (putSched p x s).cmp = s.cmp := rfl
@[simp] theorem putSched_lnk (p : Nat) (x : Sched) (s : State) : (putSched p x s).lnk = s.lnk := rfl
@[simp] theorem putSched_prbs (p : Nat) (x : Sched) (s : State) : (putSched p x s).prbs = s.prbs := rfl
@[simp] theorem putSched_hst (p : Nat) (x : Sched) (s : State) : (putSched p x s).hst = s.hst := rfl
@[simp] theorem putSched_noc (p : Nat) (x : Sched) (s : State) : (putSched p x s).noc = s.noc := rfl
@[simp] theorem putSched_trc (p : Nat) (x : Sched) (s : State) : (putSched p x s).trc = s.trc := rfl
@[simp] theorem putSched_ldr (p : Nat) (x : Sched) (s : State) : (putSched p x s).ldr = s.ldr := rfl
@[simp] theorem putCore_pending (p : Nat) (x : Steward) (s : State) : (putCore p x s).pending = s.pending := rfl
@[simp] theorem putCore_chip (p : Nat) (x : Steward) (s : State) : (putCore p x s).chip = s.chip := rfl
@[simp] theorem putCore_regs (p : Nat) (x : Steward) (s : State) : (putCore p x s).regs = s.regs := rfl
@[simp] theorem putCore_outbox (p : Nat) (x : Steward) (s : State) : (putCore p x s).outbox = s.outbox := rfl
@[simp] theorem putCore_freeCtr (p : Nat) (x : Steward) (s : State) : (putCore p x s).freeCtr = s.freeCtr := rfl
@[simp] theorem putCore_cl (p : Nat) (x : Steward) (s : State) : (putCore p x s).cl = s.cl := rfl
@[simp] theorem putCore_spr (p : Nat) (x : Steward) (s : State) : (putCore p x s).spr = s.spr := rfl
@[simp] theorem putCore_att (p : Nat) (x : Steward) (s : State) : (putCore p x s).att = s.att := rfl
@[simp] theorem putCore_crt (p : Nat) (x : Steward) (s : State) : (putCore p x s).crt = s.crt := rfl
@[simp] theorem putCore_tim (p : Nat) (x : Steward) (s : State) : (putCore p x s).tim = s.tim := rfl
@[simp] theorem putCore_cel (p : Nat) (x : Steward) (s : State) : (putCore p x s).cel = s.cel := rfl
@[simp] theorem putCore_cmp (p : Nat) (x : Steward) (s : State) : (putCore p x s).cmp = s.cmp := rfl
@[simp] theorem putCore_lnk (p : Nat) (x : Steward) (s : State) : (putCore p x s).lnk = s.lnk := rfl
@[simp] theorem putCore_prbs (p : Nat) (x : Steward) (s : State) : (putCore p x s).prbs = s.prbs := rfl
@[simp] theorem putCore_hst (p : Nat) (x : Steward) (s : State) : (putCore p x s).hst = s.hst := rfl
@[simp] theorem putCore_noc (p : Nat) (x : Steward) (s : State) : (putCore p x s).noc = s.noc := rfl
@[simp] theorem putCore_trc (p : Nat) (x : Steward) (s : State) : (putCore p x s).trc = s.trc := rfl
@[simp] theorem putCore_ldr (p : Nat) (x : Steward) (s : State) : (putCore p x s).ldr = s.ldr := rfl
@[simp] theorem putSrc_pending (k : Nat) (x : TrcSrc) (s : State) : (putSrc k x s).pending = s.pending := rfl
@[simp] theorem putSrc_chip (k : Nat) (x : TrcSrc) (s : State) : (putSrc k x s).chip = s.chip := rfl
@[simp] theorem putSrc_regs (k : Nat) (x : TrcSrc) (s : State) : (putSrc k x s).regs = s.regs := rfl
@[simp] theorem putSrc_outbox (k : Nat) (x : TrcSrc) (s : State) : (putSrc k x s).outbox = s.outbox := rfl
@[simp] theorem putSrc_freeCtr (k : Nat) (x : TrcSrc) (s : State) : (putSrc k x s).freeCtr = s.freeCtr := rfl
@[simp] theorem putSrc_cl (k : Nat) (x : TrcSrc) (s : State) : (putSrc k x s).cl = s.cl := rfl
@[simp] theorem putSrc_spr (k : Nat) (x : TrcSrc) (s : State) : (putSrc k x s).spr = s.spr := rfl
@[simp] theorem putSrc_att (k : Nat) (x : TrcSrc) (s : State) : (putSrc k x s).att = s.att := rfl
@[simp] theorem putSrc_crt (k : Nat) (x : TrcSrc) (s : State) : (putSrc k x s).crt = s.crt := rfl
@[simp] theorem putSrc_tim (k : Nat) (x : TrcSrc) (s : State) : (putSrc k x s).tim = s.tim := rfl
@[simp] theorem putSrc_cel (k : Nat) (x : TrcSrc) (s : State) : (putSrc k x s).cel = s.cel := rfl
@[simp] theorem putSrc_cmp (k : Nat) (x : TrcSrc) (s : State) : (putSrc k x s).cmp = s.cmp := rfl
@[simp] theorem putSrc_lnk (k : Nat) (x : TrcSrc) (s : State) : (putSrc k x s).lnk = s.lnk := rfl
@[simp] theorem putSrc_prbs (k : Nat) (x : TrcSrc) (s : State) : (putSrc k x s).prbs = s.prbs := rfl
@[simp] theorem putSrc_hst (k : Nat) (x : TrcSrc) (s : State) : (putSrc k x s).hst = s.hst := rfl
@[simp] theorem putSrc_stw (k : Nat) (x : TrcSrc) (s : State) : (putSrc k x s).stw = s.stw := rfl
@[simp] theorem putSrc_noc (k : Nat) (x : TrcSrc) (s : State) : (putSrc k x s).noc = s.noc := rfl
@[simp] theorem putSrc_ldr (k : Nat) (x : TrcSrc) (s : State) : (putSrc k x s).ldr = s.ldr := rfl
@[simp] theorem putCache_pending (l : Nat) (x : Option CacheLine) (s : State) : (putCache l x s).pending = s.pending := rfl
@[simp] theorem putCache_chip (l : Nat) (x : Option CacheLine) (s : State) : (putCache l x s).chip = s.chip := rfl
@[simp] theorem putCache_regs (l : Nat) (x : Option CacheLine) (s : State) : (putCache l x s).regs = s.regs := rfl
@[simp] theorem putCache_outbox (l : Nat) (x : Option CacheLine) (s : State) : (putCache l x s).outbox = s.outbox := rfl
@[simp] theorem putCache_freeCtr (l : Nat) (x : Option CacheLine) (s : State) : (putCache l x s).freeCtr = s.freeCtr := rfl
@[simp] theorem putCache_cl (l : Nat) (x : Option CacheLine) (s : State) : (putCache l x s).cl = s.cl := rfl
@[simp] theorem putCache_spr (l : Nat) (x : Option CacheLine) (s : State) : (putCache l x s).spr = s.spr := rfl
@[simp] theorem putCache_att (l : Nat) (x : Option CacheLine) (s : State) : (putCache l x s).att = s.att := rfl
@[simp] theorem putCache_crt (l : Nat) (x : Option CacheLine) (s : State) : (putCache l x s).crt = s.crt := rfl
@[simp] theorem putCache_tim (l : Nat) (x : Option CacheLine) (s : State) : (putCache l x s).tim = s.tim := rfl
@[simp] theorem putCache_cel (l : Nat) (x : Option CacheLine) (s : State) : (putCache l x s).cel = s.cel := rfl
@[simp] theorem putCache_cmp (l : Nat) (x : Option CacheLine) (s : State) : (putCache l x s).cmp = s.cmp := rfl
@[simp] theorem putCache_lnk (l : Nat) (x : Option CacheLine) (s : State) : (putCache l x s).lnk = s.lnk := rfl
@[simp] theorem putCache_prbs (l : Nat) (x : Option CacheLine) (s : State) : (putCache l x s).prbs = s.prbs := rfl
@[simp] theorem putCache_hst (l : Nat) (x : Option CacheLine) (s : State) : (putCache l x s).hst = s.hst := rfl
@[simp] theorem putCache_noc (l : Nat) (x : Option CacheLine) (s : State) : (putCache l x s).noc = s.noc := rfl
@[simp] theorem putCache_trc (l : Nat) (x : Option CacheLine) (s : State) : (putCache l x s).trc = s.trc := rfl
@[simp] theorem putCache_ldr (l : Nat) (x : Option CacheLine) (s : State) : (putCache l x s).ldr = s.ldr := rfl
@[simp] theorem putChan_pending (n : Nat) (x : DmaCh) (s : State) : (putChan n x s).pending = s.pending := rfl
@[simp] theorem putChan_chip (n : Nat) (x : DmaCh) (s : State) : (putChan n x s).chip = s.chip := rfl
@[simp] theorem putChan_regs (n : Nat) (x : DmaCh) (s : State) : (putChan n x s).regs = s.regs := rfl
@[simp] theorem putChan_outbox (n : Nat) (x : DmaCh) (s : State) : (putChan n x s).outbox = s.outbox := rfl
@[simp] theorem putChan_freeCtr (n : Nat) (x : DmaCh) (s : State) : (putChan n x s).freeCtr = s.freeCtr := rfl
@[simp] theorem putChan_cl (n : Nat) (x : DmaCh) (s : State) : (putChan n x s).cl = s.cl := rfl
@[simp] theorem putChan_spr (n : Nat) (x : DmaCh) (s : State) : (putChan n x s).spr = s.spr := rfl
@[simp] theorem putChan_att (n : Nat) (x : DmaCh) (s : State) : (putChan n x s).att = s.att := rfl
@[simp] theorem putChan_crt (n : Nat) (x : DmaCh) (s : State) : (putChan n x s).crt = s.crt := rfl
@[simp] theorem putChan_tim (n : Nat) (x : DmaCh) (s : State) : (putChan n x s).tim = s.tim := rfl
@[simp] theorem putChan_cel (n : Nat) (x : DmaCh) (s : State) : (putChan n x s).cel = s.cel := rfl
@[simp] theorem putChan_cmp (n : Nat) (x : DmaCh) (s : State) : (putChan n x s).cmp = s.cmp := rfl
@[simp] theorem putChan_lnk (n : Nat) (x : DmaCh) (s : State) : (putChan n x s).lnk = s.lnk := rfl
@[simp] theorem putChan_prbs (n : Nat) (x : DmaCh) (s : State) : (putChan n x s).prbs = s.prbs := rfl
@[simp] theorem putChan_hst (n : Nat) (x : DmaCh) (s : State) : (putChan n x s).hst = s.hst := rfl
@[simp] theorem putChan_stw (n : Nat) (x : DmaCh) (s : State) : (putChan n x s).stw = s.stw := rfl
@[simp] theorem putChan_trc (n : Nat) (x : DmaCh) (s : State) : (putChan n x s).trc = s.trc := rfl
@[simp] theorem putChan_ldr (n : Nat) (x : DmaCh) (s : State) : (putChan n x s).ldr = s.ldr := rfl
@[simp] theorem setResid_pending (n : Nat) (r : Nat) (s : State) : (setResid n r s).pending = s.pending := rfl
@[simp] theorem setResid_chip (n : Nat) (r : Nat) (s : State) : (setResid n r s).chip = s.chip := rfl
@[simp] theorem setResid_outbox (n : Nat) (r : Nat) (s : State) : (setResid n r s).outbox = s.outbox := rfl
@[simp] theorem setResid_freeCtr (n : Nat) (r : Nat) (s : State) : (setResid n r s).freeCtr = s.freeCtr := rfl
@[simp] theorem setResid_cl (n : Nat) (r : Nat) (s : State) : (setResid n r s).cl = s.cl := rfl
@[simp] theorem setResid_spr (n : Nat) (r : Nat) (s : State) : (setResid n r s).spr = s.spr := rfl
@[simp] theorem setResid_att (n : Nat) (r : Nat) (s : State) : (setResid n r s).att = s.att := rfl
@[simp] theorem setResid_crt (n : Nat) (r : Nat) (s : State) : (setResid n r s).crt = s.crt := rfl
@[simp] theorem setResid_tim (n : Nat) (r : Nat) (s : State) : (setResid n r s).tim = s.tim := rfl
@[simp] theorem setResid_cel (n : Nat) (r : Nat) (s : State) : (setResid n r s).cel = s.cel := rfl
@[simp] theorem setResid_cmp (n : Nat) (r : Nat) (s : State) : (setResid n r s).cmp = s.cmp := rfl
@[simp] theorem setResid_lnk (n : Nat) (r : Nat) (s : State) : (setResid n r s).lnk = s.lnk := rfl
@[simp] theorem setResid_prbs (n : Nat) (r : Nat) (s : State) : (setResid n r s).prbs = s.prbs := rfl
@[simp] theorem setResid_hst (n : Nat) (r : Nat) (s : State) : (setResid n r s).hst = s.hst := rfl
@[simp] theorem setResid_stw (n : Nat) (r : Nat) (s : State) : (setResid n r s).stw = s.stw := rfl
@[simp] theorem setResid_noc (n : Nat) (r : Nat) (s : State) : (setResid n r s).noc = s.noc := rfl
@[simp] theorem setResid_trc (n : Nat) (r : Nat) (s : State) : (setResid n r s).trc = s.trc := rfl
@[simp] theorem setResid_ldr (n : Nat) (r : Nat) (s : State) : (setResid n r s).ldr = s.ldr := rfl
@[simp] theorem setImg_pending (n : Nat) (s : State) : (setImg n s).pending = s.pending := rfl
@[simp] theorem setImg_chip (n : Nat) (s : State) : (setImg n s).chip = s.chip := rfl
@[simp] theorem setImg_outbox (n : Nat) (s : State) : (setImg n s).outbox = s.outbox := rfl
@[simp] theorem setImg_freeCtr (n : Nat) (s : State) : (setImg n s).freeCtr = s.freeCtr := rfl
@[simp] theorem setImg_cl (n : Nat) (s : State) : (setImg n s).cl = s.cl := rfl
@[simp] theorem setImg_spr (n : Nat) (s : State) : (setImg n s).spr = s.spr := rfl
@[simp] theorem setImg_att (n : Nat) (s : State) : (setImg n s).att = s.att := rfl
@[simp] theorem setImg_crt (n : Nat) (s : State) : (setImg n s).crt = s.crt := rfl
@[simp] theorem setImg_tim (n : Nat) (s : State) : (setImg n s).tim = s.tim := rfl
@[simp] theorem setImg_cel (n : Nat) (s : State) : (setImg n s).cel = s.cel := rfl
@[simp] theorem setImg_cmp (n : Nat) (s : State) : (setImg n s).cmp = s.cmp := rfl
@[simp] theorem setImg_lnk (n : Nat) (s : State) : (setImg n s).lnk = s.lnk := rfl
@[simp] theorem setImg_prbs (n : Nat) (s : State) : (setImg n s).prbs = s.prbs := rfl
@[simp] theorem setImg_hst (n : Nat) (s : State) : (setImg n s).hst = s.hst := rfl
@[simp] theorem setImg_stw (n : Nat) (s : State) : (setImg n s).stw = s.stw := rfl
@[simp] theorem setImg_noc (n : Nat) (s : State) : (setImg n s).noc = s.noc := rfl
@[simp] theorem setImg_trc (n : Nat) (s : State) : (setImg n s).trc = s.trc := rfl
@[simp] theorem setImg_ldr (n : Nat) (s : State) : (setImg n s).ldr = s.ldr := rfl
@[simp] theorem onLdr_pending (f : Loader → Loader) (s : State) : (onLdr f s).pending = s.pending := rfl
@[simp] theorem onLdr_chip (f : Loader → Loader) (s : State) : (onLdr f s).chip = s.chip := rfl
@[simp] theorem onLdr_regs (f : Loader → Loader) (s : State) : (onLdr f s).regs = s.regs := rfl
@[simp] theorem onLdr_outbox (f : Loader → Loader) (s : State) : (onLdr f s).outbox = s.outbox := rfl
@[simp] theorem onLdr_freeCtr (f : Loader → Loader) (s : State) : (onLdr f s).freeCtr = s.freeCtr := rfl
@[simp] theorem onLdr_cl (f : Loader → Loader) (s : State) : (onLdr f s).cl = s.cl := rfl
@[simp] theorem onLdr_spr (f : Loader → Loader) (s : State) : (onLdr f s).spr = s.spr := rfl
@[simp] theorem onLdr_att (f : Loader → Loader) (s : State) : (onLdr f s).att = s.att := rfl
@[simp] theorem onLdr_crt (f : Loader → Loader) (s : State) : (onLdr f s).crt = s.crt := rfl
@[simp] theorem onLdr_tim (f : Loader → Loader) (s : State) : (onLdr f s).tim = s.tim := rfl
@[simp] theorem onLdr_cel (f : Loader → Loader) (s : State) : (onLdr f s).cel = s.cel := rfl
@[simp] theorem onLdr_cmp (f : Loader → Loader) (s : State) : (onLdr f s).cmp = s.cmp := rfl
@[simp] theorem onLdr_lnk (f : Loader → Loader) (s : State) : (onLdr f s).lnk = s.lnk := rfl
@[simp] theorem onLdr_prbs (f : Loader → Loader) (s : State) : (onLdr f s).prbs = s.prbs := rfl
@[simp] theorem onLdr_hst (f : Loader → Loader) (s : State) : (onLdr f s).hst = s.hst := rfl
@[simp] theorem onLdr_stw (f : Loader → Loader) (s : State) : (onLdr f s).stw = s.stw := rfl
@[simp] theorem onLdr_noc (f : Loader → Loader) (s : State) : (onLdr f s).noc = s.noc := rfl
@[simp] theorem onLdr_trc (f : Loader → Loader) (s : State) : (onLdr f s).trc = s.trc := rfl
@[simp] theorem setBoot_pending (n : Nat) (s : State) : (setBoot n s).pending = s.pending := rfl
@[simp] theorem setBoot_chip (n : Nat) (s : State) : (setBoot n s).chip = s.chip := rfl
@[simp] theorem setBoot_regs (n : Nat) (s : State) : (setBoot n s).regs = s.regs := rfl
@[simp] theorem setBoot_outbox (n : Nat) (s : State) : (setBoot n s).outbox = s.outbox := rfl
@[simp] theorem setBoot_freeCtr (n : Nat) (s : State) : (setBoot n s).freeCtr = s.freeCtr := rfl
@[simp] theorem setBoot_cl (n : Nat) (s : State) : (setBoot n s).cl = s.cl := rfl
@[simp] theorem setBoot_spr (n : Nat) (s : State) : (setBoot n s).spr = s.spr := rfl
@[simp] theorem setBoot_att (n : Nat) (s : State) : (setBoot n s).att = s.att := rfl
@[simp] theorem setBoot_crt (n : Nat) (s : State) : (setBoot n s).crt = s.crt := rfl
@[simp] theorem setBoot_tim (n : Nat) (s : State) : (setBoot n s).tim = s.tim := rfl
@[simp] theorem setBoot_cel (n : Nat) (s : State) : (setBoot n s).cel = s.cel := rfl
@[simp] theorem setBoot_cmp (n : Nat) (s : State) : (setBoot n s).cmp = s.cmp := rfl
@[simp] theorem setBoot_lnk (n : Nat) (s : State) : (setBoot n s).lnk = s.lnk := rfl
@[simp] theorem setBoot_prbs (n : Nat) (s : State) : (setBoot n s).prbs = s.prbs := rfl
@[simp] theorem setBoot_hst (n : Nat) (s : State) : (setBoot n s).hst = s.hst := rfl
@[simp] theorem setBoot_stw (n : Nat) (s : State) : (setBoot n s).stw = s.stw := rfl
@[simp] theorem setBoot_noc (n : Nat) (s : State) : (setBoot n s).noc = s.noc := rfl
@[simp] theorem setBoot_trc (n : Nat) (s : State) : (setBoot n s).trc = s.trc := rfl
@[simp] theorem putRx_pending (src : Nat) (r : ShellRx) (s : State) : (putRx src r s).pending = s.pending := rfl
@[simp] theorem putRx_chip (src : Nat) (r : ShellRx) (s : State) : (putRx src r s).chip = s.chip := rfl
@[simp] theorem putRx_regs (src : Nat) (r : ShellRx) (s : State) : (putRx src r s).regs = s.regs := rfl
@[simp] theorem putRx_outbox (src : Nat) (r : ShellRx) (s : State) : (putRx src r s).outbox = s.outbox := rfl
@[simp] theorem putRx_freeCtr (src : Nat) (r : ShellRx) (s : State) : (putRx src r s).freeCtr = s.freeCtr := rfl
@[simp] theorem putRx_cl (src : Nat) (r : ShellRx) (s : State) : (putRx src r s).cl = s.cl := rfl
@[simp] theorem putRx_spr (src : Nat) (r : ShellRx) (s : State) : (putRx src r s).spr = s.spr := rfl
@[simp] theorem putRx_att (src : Nat) (r : ShellRx) (s : State) : (putRx src r s).att = s.att := rfl
@[simp] theorem putRx_crt (src : Nat) (r : ShellRx) (s : State) : (putRx src r s).crt = s.crt := rfl
@[simp] theorem putRx_tim (src : Nat) (r : ShellRx) (s : State) : (putRx src r s).tim = s.tim := rfl
@[simp] theorem putRx_cel (src : Nat) (r : ShellRx) (s : State) : (putRx src r s).cel = s.cel := rfl
@[simp] theorem putRx_cmp (src : Nat) (r : ShellRx) (s : State) : (putRx src r s).cmp = s.cmp := rfl
@[simp] theorem putRx_lnk (src : Nat) (r : ShellRx) (s : State) : (putRx src r s).lnk = s.lnk := rfl
@[simp] theorem putRx_prbs (src : Nat) (r : ShellRx) (s : State) : (putRx src r s).prbs = s.prbs := rfl
@[simp] theorem putRx_hst (src : Nat) (r : ShellRx) (s : State) : (putRx src r s).hst = s.hst := rfl
@[simp] theorem putRx_stw (src : Nat) (r : ShellRx) (s : State) : (putRx src r s).stw = s.stw := rfl
@[simp] theorem putRx_noc (src : Nat) (r : ShellRx) (s : State) : (putRx src r s).noc = s.noc := rfl
@[simp] theorem putRx_trc (src : Nat) (r : ShellRx) (s : State) : (putRx src r s).trc = s.trc := rfl
@[simp] theorem onAtt_pending (f : Attic → Attic) (s : State) : (onAtt f s).pending = s.pending := rfl
@[simp] theorem onAtt_chip (f : Attic → Attic) (s : State) : (onAtt f s).chip = s.chip := rfl
@[simp] theorem onAtt_regs (f : Attic → Attic) (s : State) : (onAtt f s).regs = s.regs := rfl
@[simp] theorem onAtt_outbox (f : Attic → Attic) (s : State) : (onAtt f s).outbox = s.outbox := rfl
@[simp] theorem onAtt_freeCtr (f : Attic → Attic) (s : State) : (onAtt f s).freeCtr = s.freeCtr := rfl
@[simp] theorem onAtt_cl (f : Attic → Attic) (s : State) : (onAtt f s).cl = s.cl := rfl
@[simp] theorem onAtt_spr (f : Attic → Attic) (s : State) : (onAtt f s).spr = s.spr := rfl
@[simp] theorem onAtt_crt (f : Attic → Attic) (s : State) : (onAtt f s).crt = s.crt := rfl
@[simp] theorem onAtt_tim (f : Attic → Attic) (s : State) : (onAtt f s).tim = s.tim := rfl
@[simp] theorem onAtt_cel (f : Attic → Attic) (s : State) : (onAtt f s).cel = s.cel := rfl
@[simp] theorem onAtt_cmp (f : Attic → Attic) (s : State) : (onAtt f s).cmp = s.cmp := rfl
@[simp] theorem onAtt_lnk (f : Attic → Attic) (s : State) : (onAtt f s).lnk = s.lnk := rfl
@[simp] theorem onAtt_prbs (f : Attic → Attic) (s : State) : (onAtt f s).prbs = s.prbs := rfl
@[simp] theorem onAtt_hst (f : Attic → Attic) (s : State) : (onAtt f s).hst = s.hst := rfl
@[simp] theorem onAtt_stw (f : Attic → Attic) (s : State) : (onAtt f s).stw = s.stw := rfl
@[simp] theorem onAtt_noc (f : Attic → Attic) (s : State) : (onAtt f s).noc = s.noc := rfl
@[simp] theorem onAtt_trc (f : Attic → Attic) (s : State) : (onAtt f s).trc = s.trc := rfl
@[simp] theorem onAtt_ldr (f : Attic → Attic) (s : State) : (onAtt f s).ldr = s.ldr := rfl
@[simp] theorem onSpr_pending (f : Spring → Spring) (s : State) : (onSpr f s).pending = s.pending := rfl
@[simp] theorem onSpr_chip (f : Spring → Spring) (s : State) : (onSpr f s).chip = s.chip := rfl
@[simp] theorem onSpr_regs (f : Spring → Spring) (s : State) : (onSpr f s).regs = s.regs := rfl
@[simp] theorem onSpr_outbox (f : Spring → Spring) (s : State) : (onSpr f s).outbox = s.outbox := rfl
@[simp] theorem onSpr_freeCtr (f : Spring → Spring) (s : State) : (onSpr f s).freeCtr = s.freeCtr := rfl
@[simp] theorem onSpr_cl (f : Spring → Spring) (s : State) : (onSpr f s).cl = s.cl := rfl
@[simp] theorem onSpr_att (f : Spring → Spring) (s : State) : (onSpr f s).att = s.att := rfl
@[simp] theorem onSpr_crt (f : Spring → Spring) (s : State) : (onSpr f s).crt = s.crt := rfl
@[simp] theorem onSpr_tim (f : Spring → Spring) (s : State) : (onSpr f s).tim = s.tim := rfl
@[simp] theorem onSpr_cel (f : Spring → Spring) (s : State) : (onSpr f s).cel = s.cel := rfl
@[simp] theorem onSpr_cmp (f : Spring → Spring) (s : State) : (onSpr f s).cmp = s.cmp := rfl
@[simp] theorem onSpr_lnk (f : Spring → Spring) (s : State) : (onSpr f s).lnk = s.lnk := rfl
@[simp] theorem onSpr_prbs (f : Spring → Spring) (s : State) : (onSpr f s).prbs = s.prbs := rfl
@[simp] theorem onSpr_hst (f : Spring → Spring) (s : State) : (onSpr f s).hst = s.hst := rfl
@[simp] theorem onSpr_stw (f : Spring → Spring) (s : State) : (onSpr f s).stw = s.stw := rfl
@[simp] theorem onSpr_noc (f : Spring → Spring) (s : State) : (onSpr f s).noc = s.noc := rfl
@[simp] theorem onSpr_trc (f : Spring → Spring) (s : State) : (onSpr f s).trc = s.trc := rfl
@[simp] theorem onSpr_ldr (f : Spring → Spring) (s : State) : (onSpr f s).ldr = s.ldr := rfl
@[simp] theorem onHst_pending (f : HostIf → HostIf) (s : State) : (onHst f s).pending = s.pending := rfl
@[simp] theorem onHst_chip (f : HostIf → HostIf) (s : State) : (onHst f s).chip = s.chip := rfl
@[simp] theorem onHst_regs (f : HostIf → HostIf) (s : State) : (onHst f s).regs = s.regs := rfl
@[simp] theorem onHst_outbox (f : HostIf → HostIf) (s : State) : (onHst f s).outbox = s.outbox := rfl
@[simp] theorem onHst_freeCtr (f : HostIf → HostIf) (s : State) : (onHst f s).freeCtr = s.freeCtr := rfl
@[simp] theorem onHst_cl (f : HostIf → HostIf) (s : State) : (onHst f s).cl = s.cl := rfl
@[simp] theorem onHst_spr (f : HostIf → HostIf) (s : State) : (onHst f s).spr = s.spr := rfl
@[simp] theorem onHst_att (f : HostIf → HostIf) (s : State) : (onHst f s).att = s.att := rfl
@[simp] theorem onHst_crt (f : HostIf → HostIf) (s : State) : (onHst f s).crt = s.crt := rfl
@[simp] theorem onHst_tim (f : HostIf → HostIf) (s : State) : (onHst f s).tim = s.tim := rfl
@[simp] theorem onHst_cel (f : HostIf → HostIf) (s : State) : (onHst f s).cel = s.cel := rfl
@[simp] theorem onHst_cmp (f : HostIf → HostIf) (s : State) : (onHst f s).cmp = s.cmp := rfl
@[simp] theorem onHst_lnk (f : HostIf → HostIf) (s : State) : (onHst f s).lnk = s.lnk := rfl
@[simp] theorem onHst_prbs (f : HostIf → HostIf) (s : State) : (onHst f s).prbs = s.prbs := rfl
@[simp] theorem onHst_stw (f : HostIf → HostIf) (s : State) : (onHst f s).stw = s.stw := rfl
@[simp] theorem onHst_noc (f : HostIf → HostIf) (s : State) : (onHst f s).noc = s.noc := rfl
@[simp] theorem onHst_trc (f : HostIf → HostIf) (s : State) : (onHst f s).trc = s.trc := rfl
@[simp] theorem onHst_ldr (f : HostIf → HostIf) (s : State) : (onHst f s).ldr = s.ldr := rfl
@[simp] theorem onJtag_pending (f : Jtag → Jtag) (s : State) : (onJtag f s).pending = s.pending := rfl
@[simp] theorem onJtag_chip (f : Jtag → Jtag) (s : State) : (onJtag f s).chip = s.chip := rfl
@[simp] theorem onJtag_regs (f : Jtag → Jtag) (s : State) : (onJtag f s).regs = s.regs := rfl
@[simp] theorem onJtag_outbox (f : Jtag → Jtag) (s : State) : (onJtag f s).outbox = s.outbox := rfl
@[simp] theorem onJtag_freeCtr (f : Jtag → Jtag) (s : State) : (onJtag f s).freeCtr = s.freeCtr := rfl
@[simp] theorem onJtag_cl (f : Jtag → Jtag) (s : State) : (onJtag f s).cl = s.cl := rfl
@[simp] theorem onJtag_spr (f : Jtag → Jtag) (s : State) : (onJtag f s).spr = s.spr := rfl
@[simp] theorem onJtag_att (f : Jtag → Jtag) (s : State) : (onJtag f s).att = s.att := rfl
@[simp] theorem onJtag_crt (f : Jtag → Jtag) (s : State) : (onJtag f s).crt = s.crt := rfl
@[simp] theorem onJtag_tim (f : Jtag → Jtag) (s : State) : (onJtag f s).tim = s.tim := rfl
@[simp] theorem onJtag_cel (f : Jtag → Jtag) (s : State) : (onJtag f s).cel = s.cel := rfl
@[simp] theorem onJtag_cmp (f : Jtag → Jtag) (s : State) : (onJtag f s).cmp = s.cmp := rfl
@[simp] theorem onJtag_lnk (f : Jtag → Jtag) (s : State) : (onJtag f s).lnk = s.lnk := rfl
@[simp] theorem onJtag_prbs (f : Jtag → Jtag) (s : State) : (onJtag f s).prbs = s.prbs := rfl
@[simp] theorem onJtag_hst (f : Jtag → Jtag) (s : State) : (onJtag f s).hst = s.hst := rfl
@[simp] theorem onJtag_stw (f : Jtag → Jtag) (s : State) : (onJtag f s).stw = s.stw := rfl
@[simp] theorem onJtag_noc (f : Jtag → Jtag) (s : State) : (onJtag f s).noc = s.noc := rfl
@[simp] theorem onJtag_ldr (f : Jtag → Jtag) (s : State) : (onJtag f s).ldr = s.ldr := rfl
@[simp] theorem putIc_pending (p : Nat) (l : Nat) (x : Option (List Byte)) (s : State) : (putIc p l x s).pending = s.pending := rfl
@[simp] theorem putIc_chip (p : Nat) (l : Nat) (x : Option (List Byte)) (s : State) : (putIc p l x s).chip = s.chip := rfl
@[simp] theorem putIc_regs (p : Nat) (l : Nat) (x : Option (List Byte)) (s : State) : (putIc p l x s).regs = s.regs := rfl
@[simp] theorem putIc_outbox (p : Nat) (l : Nat) (x : Option (List Byte)) (s : State) : (putIc p l x s).outbox = s.outbox := rfl
@[simp] theorem putIc_freeCtr (p : Nat) (l : Nat) (x : Option (List Byte)) (s : State) : (putIc p l x s).freeCtr = s.freeCtr := rfl
@[simp] theorem putIc_cl (p : Nat) (l : Nat) (x : Option (List Byte)) (s : State) : (putIc p l x s).cl = s.cl := rfl
@[simp] theorem putIc_spr (p : Nat) (l : Nat) (x : Option (List Byte)) (s : State) : (putIc p l x s).spr = s.spr := rfl
@[simp] theorem putIc_att (p : Nat) (l : Nat) (x : Option (List Byte)) (s : State) : (putIc p l x s).att = s.att := rfl
@[simp] theorem putIc_crt (p : Nat) (l : Nat) (x : Option (List Byte)) (s : State) : (putIc p l x s).crt = s.crt := rfl
@[simp] theorem putIc_tim (p : Nat) (l : Nat) (x : Option (List Byte)) (s : State) : (putIc p l x s).tim = s.tim := rfl
@[simp] theorem putIc_cel (p : Nat) (l : Nat) (x : Option (List Byte)) (s : State) : (putIc p l x s).cel = s.cel := rfl
@[simp] theorem putIc_cmp (p : Nat) (l : Nat) (x : Option (List Byte)) (s : State) : (putIc p l x s).cmp = s.cmp := rfl
@[simp] theorem putIc_lnk (p : Nat) (l : Nat) (x : Option (List Byte)) (s : State) : (putIc p l x s).lnk = s.lnk := rfl
@[simp] theorem putIc_prbs (p : Nat) (l : Nat) (x : Option (List Byte)) (s : State) : (putIc p l x s).prbs = s.prbs := rfl
@[simp] theorem putIc_hst (p : Nat) (l : Nat) (x : Option (List Byte)) (s : State) : (putIc p l x s).hst = s.hst := rfl
@[simp] theorem putIc_noc (p : Nat) (l : Nat) (x : Option (List Byte)) (s : State) : (putIc p l x s).noc = s.noc := rfl
@[simp] theorem putIc_trc (p : Nat) (l : Nat) (x : Option (List Byte)) (s : State) : (putIc p l x s).trc = s.trc := rfl
@[simp] theorem putIc_ldr (p : Nat) (l : Nat) (x : Option (List Byte)) (s : State) : (putIc p l x s).ldr = s.ldr := rfl

end Sys2Proof.Machine
end

