-- ==== Sys2Proof/Laws/Registers.lean ====
section
/-! SUPPORT. Fields and flags of registers: what a write of one field leaves of the others. -/

namespace Sys2Proof.Machine

/-- Bit `i` of a word after a write of field [lo + n - 1 : lo]. -/
theorem getLsbD_setFld {w : Nat} (v : BitVec w) (lo n x i : Nat) :
    (setFld v lo n x).getLsbD i =
      if lo ≤ i ∧ i < lo + n then decide (i < w) && x.testBit (i - lo) else v.getLsbD i := by
  unfold setFld
  simp only [BitVec.getLsbD_or, BitVec.getLsbD_and, BitVec.getLsbD_not, BitVec.getLsbD_ofNat, Nat.testBit_shiftLeft,
    Nat.testBit_two_pow_sub_one, Nat.testBit_mod_two_pow]
  by_cases hw : i < w
  · by_cases h1 : lo ≤ i
    · by_cases h2 : i < lo + n
      · have : i - lo < n := by omega
        simp [hw, h1, h2, this]
      · have : ¬ i - lo < n := by omega
        simp [hw, h1, h2, this]
    · simp [hw, h1]
  · have : v.getLsbD i = false := BitVec.getLsbD_of_ge v i (by omega)
    simp [hw, this]

theorem fld_testBit {w : Nat} (v : BitVec w) (lo n i : Nat) : (fld v lo n).testBit i = (decide (i < n) && v.getLsbD (lo + i)) := by
  unfold fld
  rw [Nat.testBit_mod_two_pow, Nat.testBit_shiftRight]
  rfl

theorem fld_setFld {w : Nat} (v : BitVec w) (lo n x : Nat) (h : lo + n ≤ w) : fld (setFld v lo n x) lo n = x % 2 ^ n := by
  apply Nat.eq_of_testBit_eq
  intro i
  rw [fld_testBit, getLsbD_setFld, Nat.testBit_mod_two_pow]
  by_cases hi : i < n
  · have a : lo + i < lo + n := by omega
    have b : lo + i < w := by omega
    simp [hi, b]
  · simp [hi]

/-- A field that does not meet the field written keeps its value. -/
theorem fld_setFld_other {w : Nat} (v : BitVec w) {lo n lo' n' : Nat} (x : Nat) (h : lo' + n' ≤ lo ∨ lo + n ≤ lo') :
    fld (setFld v lo n x) lo' n' = fld v lo' n' := by
  apply Nat.eq_of_testBit_eq
  intro i
  rw [fld_testBit, fld_testBit, getLsbD_setFld]
  by_cases hi : i < n'
  · have : ¬ (lo ≤ lo' + i ∧ lo' + i < lo + n) := by omega
    simp [this]
  · simp [hi]

theorem bit_setFld_other {w : Nat} (v : BitVec w) {lo n i : Nat} (x : Nat) (h : i < lo ∨ lo + n ≤ i) :
    bit (setFld v lo n x) i = bit v i := by
  have : ¬ (lo ≤ i ∧ i < lo + n) := by omega
  simp [bit, getLsbD_setFld, this]

/-! ### Registers of the state -/

@[simp] theorem rdReg_wrFld_same (s : State) (a lo n x : Nat) : rdReg (wrFld s a lo n x) a = setFld (rdReg s a) lo n x :=
  rdReg_wrReg_same _ _ _

theorem rdReg_wrFld_other (s : State) {a b : Nat} (lo n x : Nat) (h : b ≠ a) : rdReg (wrFld s a lo n x) b = rdReg s b :=
  rdReg_wrReg_other _ _ h

theorem rdFld_wrFld_same (s : State) (a lo n x : Nat) (h : lo + n ≤ 32) : rdFld (wrFld s a lo n x) a lo n = x % 2 ^ n := by
  unfold rdFld
  rw [rdReg_wrFld_same, fld_setFld _ _ _ _ h]

theorem rdFld_wrFld_other (s : State) (a : Nat) {lo n lo' n' : Nat} (x : Nat) (h : lo' + n' ≤ lo ∨ lo + n ≤ lo') :
    rdFld (wrFld s a lo n x) a lo' n' = rdFld s a lo' n' := by
  unfold rdFld
  rw [rdReg_wrFld_same, fld_setFld_other _ _ h]

theorem rdBit_wrFld_other (s : State) (a : Nat) {lo n i : Nat} (x : Nat) (h : i < lo ∨ lo + n ≤ i) :
    rdBit (wrFld s a lo n x) a i = rdBit s a i := by
  unfold rdBit
  rw [rdReg_wrFld_same, bit_setFld_other _ _ h]

theorem rdReg_setBit_other (s : State) {a b : Nat} (i : Nat) (h : b ≠ a) : rdReg (setBit s a i) b = rdReg s b :=
  rdReg_wrFld_other _ _ _ _ h

theorem rdReg_clrBit_other (s : State) {a b : Nat} (i : Nat) (h : b ≠ a) : rdReg (clrBit s a i) b = rdReg s b :=
  rdReg_wrFld_other _ _ _ _ h

theorem rdBit_setBit_same (s : State) (a : Nat) {i : Nat} (h : i < 32) : rdBit (setBit s a i) a i = true := by
  unfold rdBit setBit bit
  rw [rdReg_wrFld_same, getLsbD_setFld]
  simp [h]

theorem rdBit_clrBit_same (s : State) (a : Nat) {i : Nat} : rdBit (clrBit s a i) a i = false := by
  unfold rdBit clrBit bit
  rw [rdReg_wrFld_same, getLsbD_setFld]
  simp

theorem rdBit_setBit_other (s : State) (a : Nat) {i j : Nat} (h : j ≠ i) : rdBit (setBit s a i) a j = rdBit s a j :=
  rdBit_wrFld_other _ _ _ (by omega)

theorem rdBit_clrBit_other (s : State) (a : Nat) {i j : Nat} (h : j ≠ i) : rdBit (clrBit s a i) a j = rdBit s a j :=
  rdBit_wrFld_other _ _ _ (by omega)

end Sys2Proof.Machine
end

