-- ==== Sys2Proof/Laws/Access.lean ====
section
/-! SUPPORT. What an access that reaches its target does. -/

namespace Sys2Proof.Machine

/-- An access that reaches its target is performed there, whoever issues it. -/
theorem request_reaches {s : State} {who : Requester} {a : Nat} (h : Reaches s who a) (w : Bool) (v : Word) :
    request who a w v s = perform who (landing s a) w v s := by
  obtain ⟨h1, h2, h3, h4, h5, h6⟩ := h
  have hb : a < 2 ^ 40 := by
    rcases Nat.lt_or_ge a (2 ^ 40) with q | q
    · exact q
    · have : targetOf a = .unassigned := by
        unfold targetOf
        repeat' rw [if_neg (by omega)]
      rw [this] at h6
      exact h6.elim
  have ha : ¬ (who = .host ∧ 2 ^ 40 ≤ a) := fun q => by omega
  have hs : ¬ (a % 4 ≠ 0 ∨ (s.chip.shellUp = false ∧ beforeShell (targetOf a) = false)) := by
    rintro (q | ⟨q, r⟩)
    · exact q h3
    · rcases h4 with k | k
      · rw [q] at k; cases k
      · rw [r] at k; cases k
  unfold request
  rw [if_neg (by simp [h1]), if_neg ha]
  unfold ctl
  dsimp only
  rw [if_neg h2]
  unfold landing at h5 ⊢
  cases e : targetOf a with
  | unassigned => rw [e] at h6; exact h6.elim
  | reg x => unfold ctlLocal; dsimp only; rw [if_neg hs, e]; rfl
  | shelf x o =>
    rw [e] at h5
    unfold ctlLocal; dsimp only; rw [if_neg hs, e]
    unfold shelfOf at h5 ⊢
    dsimp only at h5 ⊢
    by_cases q : o = 0x600 ∨ o = 0x604
    · simp [q]
    · simp [q] at h5 ⊢; simp [h5]
  | cluster x o =>
    rw [e] at h5 h6
    unfold ctlLocal; dsimp only; rw [if_neg hs, e]
    have := h5 (x / 17) rfl
    simp only at h6
    simp [h6, shelfOf, this]
  | logical x o =>
    rw [e] at h5 h6
    simp only at h6
    have := h5 (physOf s x / 17) rfl
    dsimp only
    rw [if_neg (by simp [h6.1])]
    unfold ctlLocal; dsimp only; rw [if_neg hs, e]
    simp [h6.2, shelfOf, this]
  | cellar x => rw [e] at h6; exact h6.elim
  | remote x o => rw [e] at h6; exact h6.elim

/-- A write of a register of the always-on blocks is performed as `regWrite` says, and answered. -/
theorem request_reg {s : State} {who : Requester} {a : Nat} (h : Reaches s who a) (e : targetOf a = .reg a)
    (f : ¬ (imgA 0x8000 ≤ a ∧ a < imgA 0x10000)) (v : Word) :
    request who a true v s = answer who true (regWrite who a v s).1 0 (regWrite who a v s).2 := by
  rw [request_reaches h]
  unfold landing
  rw [e]
  simp only [perform, performStore, if_neg f]
  rfl

end Sys2Proof.Machine
end

