-- ==== Sys2Proof/Laws/Keeps.lean ====
section
/-! SUPPORT. `Keeps` composed: what a sequence, a choice or a loop of operations keeps. -/

namespace Sys2Proof.Machine

theorem Keeps.refl (s : State) : Keeps s s := ⟨rfl, id, id⟩

protected theorem Keeps.id {r s : State} (h : Keeps r s) : Keeps r (id s) := h

theorem Keeps.trans {r s t : State} (h : Keeps r s) (k : Keeps s t) : Keeps r t :=
  ⟨k.pending.trans h.pending, fun c => k.canon (h.canon c), fun m => k.map (h.map m)⟩

/-- A change of anything but the queue, where the registers and the cellar's memory keep their form. -/
theorem Keeps.upd {r s : State} (h : Keeps r s) {chip outbox freeCtr cl spr att crt tim cmp lnk prbs hst stw noc trc ldr}
    {regs : SMap Word} {cel : Cellar} (hr : Registers.wf s.regs → Registers.wf regs)
    (hc : Memory.wf s.cel.mem → Memory.wf cel.mem) (hm : chip.clusterMap = s.chip.clusterMap) :
    Keeps r (State.mk s.pending chip regs outbox freeCtr cl spr att crt tim cel cmp lnk prbs hst stw noc trc ldr) :=
  h.trans ⟨rfl, fun c => ⟨hr c.1, hc c.2⟩, fun k m hk => by
    have := k m hk
    simp only [physOf, hm] at this ⊢
    exact this⟩

/-- A logical cluster passes to another physical cluster of its shelf (R18). -/
theorem Keeps.remap {r s : State} (h : Keeps r s) {m q : Nat} (e : q / 17 = m / 16) :
    Keeps r { s with chip := { s.chip with clusterMap := mapSet (idMap m) s.chip.clusterMap m q } } :=
  h.trans ⟨rfl, id, fun k j hj => by
    have hk := k j hj
    simp only [physOf] at hk ⊢
    by_cases hjm : j = m
    · subst hjm
      rw [mapGet_mapSet_same]
      exact e
    · rw [mapGet_mapSet_other hjm]
      exact hk⟩

theorem Memory.wf_keep {m : List Host.Cell} (p : Nat → Bool) (h : Memory.wf m) : Memory.wf (mapKeep p m) := filter_wf h

theorem Memory.wf_nil : Memory.wf [] := ⟨List.Pairwise.nil, fun _ h => absurd h (List.not_mem_nil)⟩

theorem Registers.wf_filter {m : SMap Word} (p : Nat × Word → Bool) (h : Registers.wf m) : Registers.wf (m.filter p) :=
  ⟨h.1.filter _, fun q hq => h.2 q (List.mem_filter.1 hq).1⟩

theorem Registers.wf_keep {m : SMap Word} (p : Nat → Bool) (h : Registers.wf m) : Registers.wf (mapKeep p m) :=
  Registers.wf_filter _ h

theorem Registers.wf_nil : Registers.wf [] := ⟨List.Pairwise.nil, fun _ h => absurd h (List.not_mem_nil)⟩

theorem Keeps.wrReg {r s : State} (h : Keeps r s) (a : Nat) (v : Word) : Keeps r (wrReg s a v) :=
  h.trans ⟨rfl, fun c => ⟨wrReg_wf c.1, c.2⟩, id⟩

theorem Keeps.ite {r a b : State} {c : Prop} [Decidable c] (ha : Keeps r a) (hb : Keeps r b) : Keeps r (if c then a else b) := by
  split <;> assumption

theorem Keeps.ite_fst {α : Type} {r : State} {a b : State × α} {c : Prop} [Decidable c] (ha : Keeps r a.1) (hb : Keeps r b.1) :
    Keeps r (if c then a else b).1 := by
  split <;> assumption

theorem Keeps.ite_snd {α : Type} {r : State} {a b : α × State} {c : Prop} [Decidable c] (ha : Keeps r a.2) (hb : Keeps r b.2) :
    Keeps r (if c then a else b).2 := by
  split <;> assumption

theorem Keeps.whenDo {r s : State} {b : Bool} {f : State → State} (h : Keeps r s) (hf : ∀ x, Keeps r x → Keeps r (f x)) :
    Keeps r (whenDo b f s) := by
  cases b
  · exact h
  · exact hf s h

theorem Keeps.foldl {α : Type} {r : State} {f : State → α → State} (hf : ∀ x a, Keeps r x → Keeps r (f x a)) (l : List α) :
    ∀ {s : State}, Keeps r s → Keeps r (l.foldl f s) := by
  induction l with
  | nil => exact id
  | cons a l ih => exact fun h => ih (hf _ a h)

theorem Keeps.foldl_fst {α β : Type} {r : State} {f : State × β → α → State × β}
    (hf : ∀ x a, Keeps r x.1 → Keeps r (f x a).1) (l : List α) : ∀ {q : State × β}, Keeps r q.1 → Keeps r (l.foldl f q).1 := by
  induction l with
  | nil => exact id
  | cons a l ih => exact fun h => ih (hf _ a h)

theorem Keeps.foldl_snd {α β : Type} {r : State} {f : β × State → α → β × State}
    (hf : ∀ x a, Keeps r x.2 → Keeps r (f x a).2) (l : List α) : ∀ {q : β × State}, Keeps r q.2 → Keeps r (l.foldl f q).2 := by
  induction l with
  | nil => exact id
  | cons a l ih => exact fun h => ih (hf _ a h)

theorem Keeps.foldl_trd {α β γ : Type} {r : State} {f : β × γ × State → α → β × γ × State}
    (hf : ∀ x a, Keeps r x.2.2 → Keeps r (f x a).2.2) (l : List α) :
    ∀ {q : β × γ × State}, Keeps r q.2.2 → Keeps r (l.foldl f q).2.2 := by
  induction l with
  | nil => exact id
  | cons a l ih => exact fun h => ih (hf _ a h)

theorem Keeps.resetDom {r s : State} (h : Keeps r s) (d : Dom) : Keeps r (resetDom d s) :=
  h.trans ⟨rfl, fun c => ⟨⟨c.1.1.filter _, fun q hq => c.1.2 q (List.mem_filter.1 hq).1⟩, c.2⟩, id⟩

theorem Keeps.memPut {r s : State} (h : Keeps r s) (off : Nat) (b : List Byte) : Keeps r (memPut off b s) :=
  h.trans ⟨rfl, fun c => ⟨c.1, mapSetAll_wf c.2⟩, id⟩

end Sys2Proof.Machine
end

