-- ==== Sys2Proof/Laws/KeepsOps.lean ====
section
/-! SUPPORT. What every operation of Machine/Ops.lean keeps. -/

set_option linter.all false

namespace Sys2Proof.Machine

theorem wrFld_keeps {s₀ s : State} (hK : Keeps s₀ s) (a : Nat) (lo : Nat) (n : Nat) (x : Nat) : Keeps s₀ (wrFld s a lo n x) := by
  unfold wrFld
  repeat' (first | with_reducible assumption | with_reducible apply Keeps.wrReg | dsimp only)

theorem setBit_keeps {s₀ s : State} (hK : Keeps s₀ s) (a : Nat) (i : Nat) : Keeps s₀ (setBit s a i) := by
  unfold setBit
  repeat' (first | with_reducible assumption | with_reducible apply wrFld_keeps | dsimp only)

theorem clrBit_keeps {s₀ s : State} (hK : Keeps s₀ s) (a : Nat) (i : Nat) : Keeps s₀ (clrBit s a i) := by
  unfold clrBit
  repeat' (first | with_reducible assumption | with_reducible apply wrFld_keeps | dsimp only)

theorem incFld_keeps {s₀ s : State} (hK : Keeps s₀ s) (a : Nat) (lo : Nat) (n : Nat) : Keeps s₀ (incFld s a lo n) := by
  unfold incFld
  repeat' (first | with_reducible assumption | with_reducible apply wrFld_keeps | with_reducible apply Keeps.ite | dsimp only | split)

theorem takeFree_keepsP {s₀ s : State} (hK : Keeps s₀ s)  : Keeps s₀ (takeFree s).2 := by
  unfold takeFree
  repeat' (first | with_reducible assumption | dsimp only | fail_if_no_progress (with_reducible refine Keeps.upd ?_ (by exact id) (by exact id) (by exact rfl)))

theorem takeFree_keeps {s₀ s tK : State}  {xK} (hK : Keeps s₀ s) (eK : takeFree s = (xK, tK)) : Keeps s₀ tK := by
  have h := takeFree_keepsP hK 
  rw [eK] at h
  exact h

theorem sendSpring_keeps {s₀ s : State} (hK : Keeps s₀ s) (link : Nat) (msg : SpringMsg) : Keeps s₀ (sendSpring link msg s) := by
  unfold sendSpring
  repeat' (first | with_reducible assumption | dsimp only | fail_if_no_progress (with_reducible refine Keeps.upd ?_ (by exact id) (by exact id) (by exact rfl)))

theorem sendUp_keeps {s₀ s : State} (hK : Keeps s₀ s) (msg : SpringMsg) : Keeps s₀ (sendUp msg s) := by
  unfold sendUp
  repeat' (first | with_reducible assumption | with_reducible apply sendSpring_keeps | dsimp only | split)

theorem sendDown_keeps {s₀ s : State} (hK : Keeps s₀ s) (msg : SpringMsg) : Keeps s₀ (sendDown msg s) := by
  unfold sendDown
  repeat' (first | with_reducible assumption | with_reducible apply sendSpring_keeps | with_reducible refine Keeps.foldl (fun _ _ _ => ?_) _ ?_ | dsimp only)

theorem rootOrder_keeps {s₀ s : State} (hK : Keeps s₀ s) (msg : SpringMsg) : Keeps s₀ (rootOrder msg s) := by
  unfold rootOrder
  repeat' (first | with_reducible assumption | with_reducible apply sendDown_keeps | dsimp only | fail_if_no_progress (with_reducible refine Keeps.upd ?_ (by exact id) (by exact id) (by exact rfl)))

theorem issueRollback_keeps {s₀ s : State} (hK : Keeps s₀ s) (cause : Nat) (origin : Nat) (hold : Bool) : Keeps s₀ (issueRollback cause origin hold s) := by
  unfold issueRollback
  repeat' (first | with_reducible assumption | with_reducible apply wrFld_keeps | with_reducible apply rootOrder_keeps | with_reducible apply Keeps.ite | dsimp only | fail_if_no_progress (with_reducible refine Keeps.upd ?_ (by exact id) (by exact id) (by exact rfl)) | split)

theorem sendFail_keeps {s₀ s : State} (hK : Keeps s₀ s) (epoch : Nat) (cause : Nat) (origin : Nat) : Keeps s₀ (sendFail epoch cause origin s) := by
  unfold sendFail
  repeat' (first | with_reducible assumption | with_reducible apply issueRollback_keeps | with_reducible apply sendUp_keeps | with_reducible apply Keeps.ite | dsimp only | fail_if_no_progress (with_reducible refine Keeps.upd ?_ (by exact id) (by exact id) (by exact rfl)) | split)

theorem restartRollback_keeps {s₀ s : State} (hK : Keeps s₀ s) (hold : Bool) : Keeps s₀ (restartRollback hold s) := by
  unfold restartRollback
  repeat' (first | with_reducible assumption | with_reducible apply incFld_keeps | with_reducible apply wrFld_keeps | with_reducible apply rootOrder_keeps | dsimp only | fail_if_no_progress (with_reducible refine Keeps.upd ?_ (by exact id) (by exact id) (by exact rfl)) | split)

theorem rollbackFault_keeps {s₀ s : State} (hK : Keeps s₀ s) (cause : Nat) : Keeps s₀ (rollbackFault cause s) := by
  unfold rollbackFault
  repeat' (first | with_reducible assumption | with_reducible apply setBit_keeps | with_reducible apply restartRollback_keeps | with_reducible apply sendUp_keeps | with_reducible apply Keeps.ite | dsimp only | split)

theorem failFrom_keeps {s₀ s : State} (hK : Keeps s₀ s) (epoch : Nat) (cause : Nat) (origin : Nat) : Keeps s₀ (failFrom epoch cause origin s) := by
  unfold failFrom
  repeat' (first | with_reducible assumption | with_reducible apply rollbackFault_keeps | with_reducible apply sendFail_keeps | with_reducible apply Keeps.ite | dsimp only | fail_if_no_progress (with_reducible refine Keeps.upd ?_ (by exact id) (by exact id) (by exact rfl)) | split)

theorem failEpoch_keeps {s₀ s : State} (hK : Keeps s₀ s) (epoch : Nat) (cause : Nat) : Keeps s₀ (failEpoch epoch cause s) := by
  unfold failEpoch
  repeat' (first | with_reducible assumption | with_reducible apply failFrom_keeps | dsimp only)

theorem failNow_keeps {s₀ s : State} (hK : Keeps s₀ s) (cause : Nat) : Keeps s₀ (failNow cause s) := by
  unfold failNow
  repeat' (first | with_reducible assumption | with_reducible apply failEpoch_keeps | dsimp only)

theorem msix_keeps {s₀ s : State} (hK : Keeps s₀ s) (v : Nat) : Keeps s₀ (msix v s) := by
  unfold msix
  repeat' (first | with_reducible assumption | with_reducible apply Keeps.ite | dsimp only | fail_if_no_progress (with_reducible refine Keeps.upd ?_ (by exact id) (by exact id) (by exact rfl)) | split)

theorem putGate_keeps {s₀ s : State} (hK : Keeps s₀ s) (h : Nat) (g : Gate) : Keeps s₀ (putGate h g s) := by
  unfold putGate
  repeat' (first | with_reducible assumption | dsimp only | fail_if_no_progress (with_reducible refine Keeps.upd ?_ (by exact id) (by exact id) (by exact rfl)))

theorem wakeShelf_keeps {s₀ s : State} (hK : Keeps s₀ s) (h : Nat) (cause : Nat) : Keeps s₀ (wakeShelf h cause s) := by
  unfold wakeShelf
  repeat' (first | with_reducible assumption | with_reducible apply wrFld_keeps | with_reducible apply putGate_keeps | with_reducible apply incFld_keeps | with_reducible apply Keeps.ite | with_reducible refine Keeps.whenDo ?_ (fun _ _ => ?_) | dsimp only | fail_if_no_progress (with_reducible refine Keeps.upd ?_ (by exact id) (by exact id) (by exact rfl)) | split)

theorem wakeAll_keeps {s₀ s : State} (hK : Keeps s₀ s) (cause : Nat) : Keeps s₀ (wakeAll cause s) := by
  unfold wakeAll
  repeat' (first | with_reducible assumption | with_reducible apply wakeShelf_keeps | with_reducible refine Keeps.foldl (fun _ _ _ => ?_) _ ?_ | dsimp only)

theorem wakeLine_keeps {s₀ s : State} (hK : Keeps s₀ s) (i : Nat) (only : Nat → Bool) : Keeps s₀ (wakeLine i only s) := by
  unfold wakeLine
  repeat' (first | with_reducible assumption | with_reducible apply wakeShelf_keeps | with_reducible apply Keeps.ite | with_reducible refine Keeps.foldl (fun _ _ _ => ?_) _ ?_ | with_reducible refine Keeps.foldl_fst (fun _ _ _ => ?_) _ ?_ | with_reducible refine Keeps.foldl_snd (fun _ _ _ => ?_) _ ?_ | with_reducible refine Keeps.foldl_trd (fun _ _ _ => ?_) _ ?_ | dsimp only | split)

theorem irqAll_keeps {s₀ s : State} (hK : Keeps s₀ s) (i : Nat) : Keeps s₀ (irqAll i s) := by
  unfold irqAll
  repeat' (first | with_reducible assumption | with_reducible apply wakeLine_keeps | with_reducible apply Keeps.ite | dsimp only | fail_if_no_progress (with_reducible refine Keeps.upd ?_ (by exact id) (by exact id) (by exact rfl)) | split)

theorem hostEvent_keeps {s₀ s : State} (hK : Keeps s₀ s) (n : Nat) : Keeps s₀ (hostEvent n s) := by
  unfold hostEvent
  repeat' (first | with_reducible assumption | with_reducible apply irqAll_keeps | with_reducible apply msix_keeps | with_reducible apply setBit_keeps | with_reducible apply Keeps.ite | dsimp only | split)

theorem report_keeps {s₀ s : State} (hK : Keeps s₀ s) (kind : Nat) (cls : Nat) (unit : Nat) (detail : Nat) : Keeps s₀ (report kind cls unit detail s) := by
  unfold report
  repeat' (first | with_reducible assumption | dsimp only | fail_if_no_progress (with_reducible refine Keeps.upd ?_ (by exact id) (by exact id) (by exact rfl)) | split)

theorem reportFail_keeps {s₀ s : State} (hK : Keeps s₀ s) (kind : Nat) (cls : Nat) (unit : Nat) (detail : Nat) : Keeps s₀ (reportFail kind cls unit detail s) := by
  unfold reportFail
  repeat' (first | with_reducible assumption | with_reducible apply failNow_keeps | with_reducible apply report_keeps | dsimp only)

end Sys2Proof.Machine
end

