-- ==== Sys2Proof/Laws/KeepsOperands.lean ====
section
/-! SUPPORT. What every operation of Machine/Operands.lean keeps. -/

set_option linter.all false

namespace Sys2Proof.Machine

theorem pondWrite_keeps {s₀ s : State} (hK : Keeps s₀ s) (p : Nat) (n : Nat) (a : Nat) (v : Ctx) : Keeps s₀ (pondWrite p n a v s) := by
  unfold pondWrite
  repeat' (first | with_reducible assumption | dsimp only | fail_if_no_progress (with_reducible refine Keeps.upd ?_ (by exact id) (by exact id) (by exact rfl)))

theorem stateWrite_keeps {s₀ s : State} (hK : Keeps s₀ s) (p : Nat) (n : Nat) (f : Nat) (v : Ctx) : Keeps s₀ (stateWrite p n f v s) := by
  unfold stateWrite
  repeat' (first | with_reducible assumption | with_reducible apply pondWrite_keeps | with_reducible apply Keeps.ite | dsimp only | fail_if_no_progress (with_reducible refine Keeps.upd ?_ (by exact id) (by exact id) (by exact rfl)) | split)

end Sys2Proof.Machine
end

