-- ==== Sys2Proof/Laws/KeepsBoolean.lean ====
section
/-! SUPPORT. What every operation of Machine/Boolean.lean keeps. -/

set_option linter.all false

namespace Sys2Proof.Machine

theorem bpFlag_keeps {s₀ s : State} (hK : Keeps s₀ s) (p : Nat) (n : Nat) (flag : Nat) (kind : Nat) (detail : Nat) : Keeps s₀ (bpFlag p n flag kind detail s) := by
  unfold bpFlag
  repeat' (first | with_reducible assumption | with_reducible apply reportFail_keeps | with_reducible apply setBit_keeps | dsimp only)

theorem weFlag_keeps {s₀ s : State} (hK : Keeps s₀ s) (p : Nat) (e : Nat) (flag : Nat) (kind : Nat) : Keeps s₀ (weFlag p e flag kind s) := by
  unfold weFlag
  repeat' (first | with_reducible assumption | with_reducible apply reportFail_keeps | with_reducible apply setBit_keeps | dsimp only)

theorem fabFlag_keeps {s₀ s : State} (hK : Keeps s₀ s) (p : Nat) (flag : Nat) (kind : Nat) : Keeps s₀ (fabFlag p flag kind s) := by
  unfold fabFlag
  repeat' (first | with_reducible assumption | with_reducible apply reportFail_keeps | with_reducible apply setBit_keeps | dsimp only)

theorem noteConflict_keeps {s₀ s : State} (hK : Keeps s₀ s) (m : Nat) (t : Nat) : Keeps s₀ (noteConflict m t s) := by
  unfold noteConflict
  repeat' (first | with_reducible assumption | with_reducible apply fabFlag_keeps | with_reducible apply Keeps.wrReg | with_reducible apply Keeps.ite | dsimp only | fail_if_no_progress (with_reducible refine Keeps.upd ?_ (by exact id) (by exact id) (by exact rfl)) | split)

theorem borderTrack_keeps {s₀ s : State} (hK : Keeps s₀ s) (m : Nat) (slot : Nat) (t : Nat) : Keeps s₀ (borderTrack m slot t s) := by
  unfold borderTrack
  repeat' (first | with_reducible assumption | with_reducible apply Keeps.wrReg | with_reducible apply Keeps.ite | with_reducible refine Keeps.foldl (fun _ _ _ => ?_) _ ?_ | dsimp only | split)

theorem driveExport_keeps {s₀ s : State} (hK : Keeps s₀ s) (m : Nat) (n : Nat) (t : Nat) (x : Nat) (v : Ctx) : Keeps s₀ (driveExport m n t x v s) := by
  unfold driveExport
  repeat' (first | with_reducible assumption | with_reducible apply fabFlag_keeps | with_reducible apply borderTrack_keeps | with_reducible apply noteConflict_keeps | with_reducible apply Keeps.ite | with_reducible refine Keeps.whenDo ?_ (fun _ _ => ?_) | dsimp only | fail_if_no_progress (with_reducible refine Keeps.upd ?_ (by exact id) (by exact id) (by exact rfl)) | split)

theorem busPut_keeps {s₀ s : State} (hK : Keeps s₀ s) (m : Nat) (n : Nat) (t : Nat) (v : Ctx) : Keeps s₀ (busPut m n t v s) := by
  unfold busPut
  repeat' (first | with_reducible assumption | dsimp only | fail_if_no_progress (with_reducible refine Keeps.upd ?_ (by exact id) (by exact id) (by exact rfl)))

theorem bpStore_keeps {s₀ s : State} (hK : Keeps s₀ s) (p : Nat) (n : Nat) (d : BpDest) (v : Ctx) : Keeps s₀ (bpStore p n d v s) := by
  unfold bpStore
  repeat' (first | with_reducible assumption | with_reducible apply pondWrite_keeps | with_reducible apply stateWrite_keeps | dsimp only | split)

theorem bpSpecial_keeps {s₀ s : State} (hK : Keeps s₀ s) (p : Nat) (n : Nat) (w : BitVec 72) (v : Ctx) : Keeps s₀ (bpSpecial p n w v s) := by
  unfold bpSpecial
  repeat' (first | with_reducible assumption | with_reducible apply probe_keeps | dsimp only | fail_if_no_progress (with_reducible refine Keeps.upd ?_ (by exact id) (by exact id) (by exact rfl)) | split)

theorem bpReadFlags_keeps {s₀ s : State} (hK : Keeps s₀ s) (m : Nat) (n : Nat) (t : Nat) (w : BitVec 72) : Keeps s₀ (bpReadFlags m n t w s) := by
  unfold bpReadFlags
  repeat' (first | with_reducible assumption | with_reducible apply bpFlag_keeps | with_reducible apply weFlag_keeps | with_reducible refine Keeps.whenDo ?_ (fun _ _ => ?_) | with_reducible refine Keeps.foldl (fun _ _ _ => ?_) _ ?_ | dsimp only | split)

theorem bpRun_keeps {s₀ s : State} (hK : Keeps s₀ s) (m : Nat) (n : Nat) (t : Nat) (w : BitVec 72) : Keeps s₀ (bpRun m n t w s) := by
  unfold bpRun
  repeat' (first | with_reducible assumption | with_reducible apply bpReadFlags_keeps | with_reducible apply bpSpecial_keeps | with_reducible apply bpStore_keeps | with_reducible apply driveExport_keeps | with_reducible apply busPut_keeps | with_reducible apply Keeps.ite | dsimp only | split)

theorem bpNop_keeps {s₀ s : State} (hK : Keeps s₀ s) (m : Nat) (n : Nat) (t : Nat) : Keeps s₀ (bpNop m n t s) := by
  unfold bpNop
  repeat' (first | with_reducible assumption | with_reducible apply busPut_keeps | dsimp only)

theorem bpStep_keeps {s₀ s : State} (hK : Keeps s₀ s) (m : Nat) (n : Nat) (t : Nat) : Keeps s₀ (bpStep m n t s) := by
  unfold bpStep
  repeat' (first | with_reducible assumption | with_reducible apply bpNop_keeps | with_reducible apply bpFlag_keeps | with_reducible apply incFld_keeps | with_reducible apply bpRun_keeps | with_reducible apply Keeps.ite | with_reducible refine Keeps.whenDo ?_ (fun _ _ => ?_) | dsimp only | split)

theorem bpExec_keeps {s₀ s : State} (hK : Keeps s₀ s) (k : BpKind) (m : Nat) (n : Nat) (t : Nat) : Keeps s₀ (bpExec k m n t s) := by
  unfold bpExec
  repeat' (first | with_reducible assumption | with_reducible apply bpStep_keeps | with_reducible apply Keeps.ite | dsimp only | split)

theorem injWrite_keeps {s₀ s : State} (hK : Keeps s₀ s) (p : Nat) (n : Nat) (r : Nat) (v : Word) : Keeps s₀ (injWrite p n r v s) := by
  unfold injWrite
  repeat' (first | with_reducible assumption | with_reducible apply setBit_keeps | with_reducible apply Keeps.wrReg | with_reducible apply Keeps.ite | dsimp only | fail_if_no_progress (with_reducible refine Keeps.upd ?_ (by exact id) (by exact id) (by exact rfl)) | split)

end Sys2Proof.Machine
end

