-- ==== Sys2Proof/Laws/KeepsLog.lean ====
section
/-! SUPPORT. What every operation of Machine/Log.lean keeps. -/

set_option linter.all false

namespace Sys2Proof.Machine

theorem attLog_keeps {s₀ s : State} (hK : Keeps s₀ s) (e : LogEntry) : Keeps s₀ (attLog e s) := by
  unfold attLog
  repeat' (first | with_reducible assumption | with_reducible apply incFld_keeps | with_reducible apply Keeps.wrReg | with_reducible refine Keeps.foldl (fun _ _ _ => ?_) _ ?_ | dsimp only)

theorem setOutcome_keeps {s₀ s : State} (hK : Keeps s₀ s) (i : Nat) (o : Nat) : Keeps s₀ (setOutcome i o s) := by
  unfold setOutcome
  repeat' (first | with_reducible assumption | with_reducible apply wrFld_keeps | dsimp only)

end Sys2Proof.Machine
end

