-- ==== Sys2Proof/Laws/KeepsCellarOps.lean ====
section
/-! SUPPORT. What every operation of Machine/CellarOps.lean keeps. -/

set_option linter.all false

namespace Sys2Proof.Machine

theorem putKey_keeps {s₀ s : State} (hK : Keeps s₀ s) (r : Nat) (k : RegionKey) : Keeps s₀ (putKey r k s) := by
  unfold putKey
  repeat' (first | with_reducible assumption | dsimp only | fail_if_no_progress (with_reducible refine Keeps.upd ?_ (by exact id) (by exact id) (by exact rfl)))

theorem putPc_keeps {s₀ s : State} (hK : Keeps s₀ s) (pc : Nat) (x : PcState) : Keeps s₀ (putPc pc x s) := by
  unfold putPc
  repeat' (first | with_reducible assumption | dsimp only | fail_if_no_progress (with_reducible refine Keeps.upd ?_ (by (first | exact id | exact Registers.wf_filter _ | exact Registers.wf_keep _ | exact fun _ => Registers.wf_nil)) (by (first | exact id | exact Memory.wf_keep _ | exact fun _ => Memory.wf_nil)) (by exact rfl)))

theorem assignRegions_keeps {s₀ s : State} (hK : Keeps s₀ s) (p : Nat → Bool) (first : Nat) (n : Nat) : Keeps s₀ (assignRegions p first n s) := by
  unfold assignRegions
  repeat' (first | with_reducible assumption | with_reducible apply upset_keeps | with_reducible apply Keeps.ite | dsimp only | fail_if_no_progress (with_reducible refine Keeps.upd ?_ (by exact id) (by (first | exact id | exact Memory.wf_keep _ | exact fun _ => Memory.wf_nil)) (by exact rfl)) | split)

theorem layoutGeneral_keeps {s₀ s : State} (hK : Keeps s₀ s) (larder : Nat) (fw : Nat) (opn : Nat) : Keeps s₀ (layoutGeneral larder fw opn s) := by
  unfold layoutGeneral
  repeat' (first | with_reducible assumption | with_reducible apply assignRegions_keeps | with_reducible apply wrFld_keeps | dsimp only | fail_if_no_progress (with_reducible refine Keeps.upd ?_ (by exact id) (by exact id) (by exact rfl)))

theorem dropRegions_keeps {s₀ s : State} (hK : Keeps s₀ s) (p : Nat → Bool) : Keeps s₀ (dropRegions p s) := by
  unfold dropRegions
  repeat' (first | with_reducible assumption | with_reducible apply upset_keeps | dsimp only | fail_if_no_progress (with_reducible refine Keeps.upd ?_ (by exact id) (by (first | exact id | exact Memory.wf_keep _ | exact fun _ => Memory.wf_nil)) (by exact rfl)) | split)

theorem rekeyNext_keeps {s₀ s : State} (hK : Keeps s₀ s) (p : Nat) : Keeps s₀ (rekeyNext p s) := by
  unfold rekeyNext
  repeat' (first | with_reducible assumption | dsimp only | fail_if_no_progress (with_reducible refine Keeps.upd ?_ (by exact id) (by exact id) (by exact rfl)) | split)

theorem freeModelWindow_keeps {s₀ s : State} (hK : Keeps s₀ s)  : Keeps s₀ (freeModelWindow s) := by
  unfold freeModelWindow
  repeat' (first | with_reducible assumption | with_reducible apply dropRegions_keeps | with_reducible apply rekeyNext_keeps | with_reducible refine Keeps.foldl (fun _ _ _ => ?_) _ ?_ | dsimp only | fail_if_no_progress (with_reducible refine Keeps.upd ?_ (by exact id) (by exact id) (by exact rfl)))

theorem rekeyDue_keeps {s₀ s : State} (hK : Keeps s₀ s) (r : Nat) : Keeps s₀ (rekeyDue r s) := by
  unfold rekeyDue
  repeat' (first | with_reducible assumption | with_reducible apply setBit_keeps | with_reducible apply putKey_keeps | with_reducible apply rekeyNext_keeps | with_reducible apply Keeps.ite | dsimp only | fail_if_no_progress (with_reducible refine Keeps.upd ?_ (by exact id) (by exact id) (by exact rfl)) | split)

theorem setCtr_keeps {s₀ s : State} (hK : Keeps s₀ s) (l : Nat) (w : Nat) : Keeps s₀ (setCtr l w s) := by
  unfold setCtr
  repeat' (first | with_reducible assumption | dsimp only | fail_if_no_progress (with_reducible refine Keeps.upd ?_ (by exact id) (by exact id) (by exact rfl)))

theorem setPoison_keeps {s₀ s : State} (hK : Keeps s₀ s) (l : Nat) (b : Bool) : Keeps s₀ (setPoison l b s) := by
  unfold setPoison
  repeat' (first | with_reducible assumption | dsimp only | fail_if_no_progress (with_reducible refine Keeps.upd ?_ (by exact id) (by exact id) (by exact rfl)))

theorem advanceCtr_keeps {s₀ s : State} (hK : Keeps s₀ s) (l : Nat) : Keeps s₀ (advanceCtr l s) := by
  unfold advanceCtr
  repeat' (first | with_reducible assumption | with_reducible apply rekeyDue_keeps | with_reducible apply setCtr_keeps | with_reducible refine Keeps.whenDo ?_ (fun _ _ => ?_) | dsimp only)

theorem poisonLine_keeps {s₀ s : State} (hK : Keeps s₀ s) (l : Nat) (cause : Nat) : Keeps s₀ (poisonLine l cause s) := by
  unfold poisonLine
  repeat' (first | with_reducible assumption | with_reducible apply incFld_keeps | with_reducible apply setBit_keeps | with_reducible apply setPoison_keeps | with_reducible apply report_keeps | with_reducible apply Keeps.wrReg | with_reducible apply Keeps.ite | dsimp only | split)

theorem recoverLine_keeps {s₀ s : State} (hK : Keeps s₀ s) (l : Nat) : Keeps s₀ (recoverLine l s) := by
  unfold recoverLine
  repeat' (first | with_reducible assumption | with_reducible apply report_keeps | with_reducible apply incFld_keeps | with_reducible apply advanceCtr_keeps | with_reducible apply Keeps.ite | dsimp only | split)

theorem lineChecked_keeps {s₀ s : State} (hK : Keeps s₀ s) (l : Nat) (cause : Nat) (chk : Verdict) : Keeps s₀ (lineChecked l cause chk s) := by
  unfold lineChecked
  repeat' (first | with_reducible assumption | with_reducible apply recoverLine_keeps | with_reducible apply poisonLine_keeps | dsimp only | split)

theorem performWrite_keeps {s₀ s : State} (hK : Keeps s₀ s) (l : Nat) (ofs : Nat) (bytes : List Byte) : Keeps s₀ (performWrite l ofs bytes s) := by
  unfold performWrite
  repeat' (first | with_reducible assumption | with_reducible apply advanceCtr_keeps | with_reducible apply setPoison_keeps | with_reducible apply upset_keeps | with_reducible apply Keeps.ite | with_reducible apply Keeps.memPut | dsimp only | fail_if_no_progress (with_reducible refine Keeps.upd ?_ (by exact id) (by (first | exact id | exact Memory.wf_keep _ | exact fun _ => Memory.wf_nil)) (by exact rfl)) | split)

theorem refuseWrite_keeps {s₀ s : State} (hK : Keeps s₀ s) (l : Nat) : Keeps s₀ (refuseWrite l s) := by
  unfold refuseWrite
  repeat' (first | with_reducible assumption | with_reducible apply attLog_keeps | with_reducible apply setBit_keeps | dsimp only)

theorem lineWrite_keepsP {s₀ s : State} (hK : Keeps s₀ s) (who : CelWho) (l : Nat) (ofs : Nat) (bytes : List Byte) (chk : Verdict) : Keeps s₀ (lineWrite who l ofs bytes chk s).1 := by
  unfold lineWrite
  repeat' (first | with_reducible assumption | with_reducible apply refuseWrite_keeps | with_reducible apply poisonLine_keeps | with_reducible apply lineChecked_keeps | with_reducible apply performWrite_keeps | with_reducible apply Keeps.ite | with_reducible apply Keeps.ite_fst | with_reducible apply Keeps.ite_snd | dsimp only | fail_if_no_progress (with_reducible refine Keeps.upd ?_ (by exact id) (by exact id) (by exact rfl)) | split)

theorem lineWrite_keeps {s₀ s tK : State} {who : CelWho} {l : Nat} {ofs : Nat} {bytes : List Byte} {chk : Verdict} {xK} (hK : Keeps s₀ s) (eK : lineWrite who l ofs bytes chk s = (tK, xK)) : Keeps s₀ tK := by
  have h := lineWrite_keepsP hK who l ofs bytes chk
  rw [eK] at h
  exact h

theorem celPut_keeps {s₀ s : State} (hK : Keeps s₀ s) (who : CelWho) (off : Nat) (bytes : List Byte) : Keeps s₀ (celPut who off bytes s) := by
  unfold celPut
  repeat' (first | with_reducible assumption | with_reducible refine lineWrite_keeps ?_ (by assumption) | with_reducible apply lineWrite_keepsP | with_reducible refine Keeps.foldl (fun _ _ _ => ?_) _ ?_ | with_reducible refine Keeps.foldl_fst (fun _ _ _ => ?_) _ ?_ | with_reducible refine Keeps.foldl_snd (fun _ _ _ => ?_) _ ?_ | with_reducible refine Keeps.foldl_trd (fun _ _ _ => ?_) _ ?_ | dsimp only)

end Sys2Proof.Machine
end

