-- ==== Sys2Proof/Laws/KeepsStoreRoom.lean ====
section
/-! SUPPORT. What every operation of Machine/StoreRoom.lean keeps. -/

set_option linter.all false

namespace Sys2Proof.Machine

theorem rowWrite_keeps {s₀ s : State} (hK : Keeps s₀ s) (k : Nat) (lo : Nat) (n : Nat) (x : BitVec 64) : Keeps s₀ (rowWrite k lo n x s) := by
  unfold rowWrite
  repeat' (first | with_reducible assumption | dsimp only | fail_if_no_progress (with_reducible refine Keeps.upd ?_ (by exact id) (by exact id) (by exact rfl)) | split)

theorem rowKeep_keeps {s₀ s : State} (hK : Keeps s₀ s) (k : Nat) (t : Nat) : Keeps s₀ (rowKeep k t s) := by
  unfold rowKeep
  repeat' (first | with_reducible assumption | dsimp only | fail_if_no_progress (with_reducible refine Keeps.upd ?_ (by exact id) (by exact id) (by exact rfl)) | split)

theorem strFlag_keeps {s₀ s : State} (hK : Keeps s₀ s) (p : Nat) (r : Nat) (flag : Nat) (kind : Nat) : Keeps s₀ (strFlag p r flag kind s) := by
  unfold strFlag
  repeat' (first | with_reducible assumption | with_reducible apply reportFail_keeps | with_reducible apply setBit_keeps | dsimp only)

theorem rowEvents_keeps {s₀ s : State} (hK : Keeps s₀ s) (p : Nat) (r : Nat) (corr : Bool) (unc : Bool) : Keeps s₀ (rowEvents p r corr unc s) := by
  unfold rowEvents
  repeat' (first | with_reducible assumption | with_reducible apply strFlag_keeps | with_reducible apply incFld_keeps | with_reducible refine Keeps.whenDo ?_ (fun _ _ => ?_) | dsimp only)

theorem putFrames_keeps {s₀ s : State} (hK : Keeps s₀ s) (p : Nat) (r : Nat) (l : List Frame) : Keeps s₀ (putFrames p r l s) := by
  unfold putFrames
  repeat' (first | with_reducible assumption | with_reducible apply wrFld_keeps | dsimp only | fail_if_no_progress (with_reducible refine Keeps.upd ?_ (by exact id) (by exact id) (by exact rfl)))

theorem writeBack_keeps {s₀ s : State} (hK : Keeps s₀ s) (p : Nat) (r : Nat) (f : Frame) : Keeps s₀ (writeBack p r f s) := by
  unfold writeBack
  repeat' (first | with_reducible assumption | with_reducible apply celPut_keeps | dsimp only)

theorem openAlarm_keeps {s₀ s : State} (hK : Keeps s₀ s) (epoch : Nat) : Keeps s₀ (openAlarm epoch s) := by
  unfold openAlarm
  repeat' (first | with_reducible assumption | dsimp only | fail_if_no_progress (with_reducible refine Keeps.upd ?_ (by exact id) (by exact id) (by exact rfl)))

theorem pageMiss_keeps {s₀ s : State} (hK : Keeps s₀ s) (p : Nat) (r : Nat) (c : Nat) (page : Nat) : Keeps s₀ (pageMiss p r c page s) := by
  unfold pageMiss
  repeat' (first | with_reducible assumption | with_reducible apply incFld_keeps | with_reducible apply putFrames_keeps | with_reducible apply openAlarm_keeps | with_reducible apply failNow_keeps | with_reducible apply setBit_keeps | with_reducible apply writeBack_keeps | with_reducible apply Keeps.ite | with_reducible refine Keeps.whenDo ?_ (fun _ _ => ?_) | with_reducible refine Keeps.foldl (fun _ _ _ => ?_) _ ?_ | dsimp only | split)

theorem accessMiss_keeps {s₀ s : State} (hK : Keeps s₀ s) (p : Nat) (r : Nat) (missing : List (Nat × Nat)) : Keeps s₀ (accessMiss p r missing s) := by
  unfold accessMiss
  repeat' (first | with_reducible assumption | with_reducible apply incFld_keeps | with_reducible apply setBit_keeps | with_reducible apply pageMiss_keeps | with_reducible apply failNow_keeps | with_reducible apply Keeps.ite | with_reducible refine Keeps.foldl (fun _ _ _ => ?_) _ ?_ | with_reducible refine Keeps.foldl_fst (fun _ _ _ => ?_) _ ?_ | with_reducible refine Keeps.foldl_snd (fun _ _ _ => ?_) _ ?_ | with_reducible refine Keeps.foldl_trd (fun _ _ _ => ?_) _ ?_ | dsimp only | split)

theorem touchFrame_keeps {s₀ s : State} (hK : Keeps s₀ s) (p : Nat) (r : Nat) (idx : Nat) (wrote : Bool) : Keeps s₀ (touchFrame p r idx wrote s) := by
  unfold touchFrame
  repeat' (first | with_reducible assumption | with_reducible apply putFrames_keeps | with_reducible apply Keeps.ite | dsimp only | fail_if_no_progress (with_reducible refine Keeps.upd ?_ (by exact id) (by exact id) (by exact rfl)) | split)

theorem undoPush_keeps {s₀ s : State} (hK : Keeps s₀ s) (m : Nat) (r : Nat) (t : Nat) (e : EntryPos) (old : BitVec 64) : Keeps s₀ (undoPush m r t e old s) := by
  unfold undoPush
  repeat' (first | with_reducible assumption | with_reducible apply wrFld_keeps | with_reducible apply Keeps.ite | dsimp only | fail_if_no_progress (with_reducible refine Keeps.upd ?_ (by exact id) (by exact id) (by exact rfl)) | split)

theorem roomRead_keepsP {s₀ s : State} (hK : Keeps s₀ s) (m : Nat) (r : Nat) (t : Nat) (addr : Nat → Word) : Keeps s₀ (roomRead m r t addr s).2 := by
  unfold roomRead
  repeat' (first | with_reducible assumption | with_reducible apply setBit_keeps | with_reducible apply rowEvents_keeps | with_reducible apply touchFrame_keeps | with_reducible apply accessMiss_keeps | with_reducible apply Keeps.ite | with_reducible apply Keeps.ite_fst | with_reducible apply Keeps.ite_snd | with_reducible refine Keeps.whenDo ?_ (fun _ _ => ?_) | with_reducible refine Keeps.foldl (fun _ _ _ => ?_) _ ?_ | with_reducible refine Keeps.foldl_fst (fun _ _ _ => ?_) _ ?_ | with_reducible refine Keeps.foldl_snd (fun _ _ _ => ?_) _ ?_ | with_reducible refine Keeps.foldl_trd (fun _ _ _ => ?_) _ ?_ | dsimp only | split)

theorem roomRead_keeps {s₀ s tK : State} {m : Nat} {r : Nat} {t : Nat} {addr : Nat → Word} {xK} (hK : Keeps s₀ s) (eK : roomRead m r t addr s = (xK, tK)) : Keeps s₀ tK := by
  have h := roomRead_keepsP hK m r t addr
  rw [eK] at h
  exact h

theorem writeEntry_keeps {s₀ s : State} (hK : Keeps s₀ s) (m : Nat) (r : Nat) (q : Nat) (t : Nat) (e : EntryPos) (loc : Nat × Nat × Option Nat) (x : BitVec 64) : Keeps s₀ (writeEntry m r q t e loc x s) := by
  unfold writeEntry
  repeat' (first | with_reducible assumption | with_reducible apply touchFrame_keeps | with_reducible apply undoPush_keeps | with_reducible apply rowEvents_keeps | with_reducible apply rowWrite_keeps | with_reducible apply rowKeep_keeps | with_reducible apply Keeps.ite | dsimp only | fail_if_no_progress (with_reducible refine Keeps.upd ?_ (by exact id) (by exact id) (by exact rfl)) | split)

theorem roomWrite_keeps {s₀ s : State} (hK : Keeps s₀ s) (m : Nat) (r : Nat) (q : Nat) (t : Nat) (addr : Nat → Word) (data : Nat → BitVec 64) (en : Nat → Bool) : Keeps s₀ (roomWrite m r q t addr data en s) := by
  unfold roomWrite
  repeat' (first | with_reducible assumption | with_reducible apply setBit_keeps | with_reducible apply writeEntry_keeps | with_reducible apply failNow_keeps | with_reducible apply accessMiss_keeps | with_reducible apply Keeps.ite | with_reducible refine Keeps.whenDo ?_ (fun _ _ => ?_) | with_reducible refine Keeps.foldl (fun _ _ _ => ?_) _ ?_ | with_reducible refine Keeps.foldl_fst (fun _ _ _ => ?_) _ ?_ | with_reducible refine Keeps.foldl_snd (fun _ _ _ => ?_) _ ?_ | with_reducible refine Keeps.foldl_trd (fun _ _ _ => ?_) _ ?_ | dsimp only | split)

theorem fillRows_keeps {s₀ s : State} (hK : Keeps s₀ s) (p : Nat) (r : Nat) (f : Frame) : Keeps s₀ (fillRows p r f s) := by
  unfold fillRows
  repeat' (first | with_reducible assumption | with_reducible apply rowWrite_keeps | with_reducible refine Keeps.foldl (fun _ _ _ => ?_) _ ?_ | dsimp only)

theorem pageFillDone_keeps {s₀ s : State} (hK : Keeps s₀ s) (m : Nat) (r : Nat) (page : Nat) : Keeps s₀ (pageFillDone m r page s) := by
  unfold pageFillDone
  repeat' (first | with_reducible assumption | with_reducible apply fillRows_keeps | with_reducible apply putFrames_keeps | with_reducible apply Keeps.ite | dsimp only | fail_if_no_progress (with_reducible refine Keeps.upd ?_ (by exact id) (by exact id) (by exact rfl)) | split)

end Sys2Proof.Machine
end

