-- ==== Sys2Proof/Laws/KeepsWordEngine.lean ====
section
/-! SUPPORT. What every operation of Machine/WordEngine.lean keeps. -/

set_option linter.all false

namespace Sys2Proof.Machine

theorem macIssue_keeps {s₀ s : State} (hK : Keeps s₀ s) (m : Nat) (e : Nat) (t : Nat) (o : WeOp) (imm : Nat) (a : Nat → Word) (b : Nat → Word) : Keeps s₀ (macIssue m e t o imm a b s) := by
  unfold macIssue
  repeat' (first | with_reducible assumption | with_reducible apply Keeps.ite | dsimp only | fail_if_no_progress (with_reducible refine Keeps.upd ?_ (by exact id) (by exact id) (by exact rfl)) | split)

theorem roomIssue_keeps {s₀ s : State} (hK : Keeps s₀ s) (m : Nat) (e : Nat) (t : Nat) (o : WeOp) (w : BitVec 64) (a : Nat → Word) (b : Nat → Word) : Keeps s₀ (roomIssue m e t o w a b s) := by
  unfold roomIssue
  repeat' (first | with_reducible assumption | with_reducible apply weFlag_keeps | with_reducible refine roomRead_keeps ?_ (by assumption) | with_reducible apply roomRead_keepsP | with_reducible apply roomWrite_keeps | with_reducible apply Keeps.ite | dsimp only | fail_if_no_progress (with_reducible refine Keeps.upd ?_ (by exact id) (by exact id) (by exact rfl)) | split)

theorem putFlagF_keeps {s₀ s : State} (hK : Keeps s₀ s) (m : Nat) (e : Nat) (t : Nat) (v : Ctx) : Keeps s₀ (putFlagF m e t v s) := by
  unfold putFlagF
  repeat' (first | with_reducible assumption | dsimp only | fail_if_no_progress (with_reducible refine Keeps.upd ?_ (by exact id) (by exact id) (by exact rfl)) | split)

theorem putFlagCY_keeps {s₀ s : State} (hK : Keeps s₀ s) (m : Nat) (e : Nat) (v : Ctx) : Keeps s₀ (putFlagCY m e v s) := by
  unfold putFlagCY
  repeat' (first | with_reducible assumption | dsimp only | fail_if_no_progress (with_reducible refine Keeps.upd ?_ (by exact id) (by exact id) (by exact rfl)))

theorem weResults_keeps {s₀ s : State} (hK : Keeps s₀ s) (m : Nat) (e : Nat) (t : Nat) (w : BitVec 64) (res : Nat → Word) : Keeps s₀ (weResults m e t w res s) := by
  unfold weResults
  repeat' (first | with_reducible assumption | with_reducible apply Keeps.ite | dsimp only | fail_if_no_progress (with_reducible refine Keeps.upd ?_ (by (first | exact id | exact Registers.wf_filter _ | exact Registers.wf_keep _ | exact fun _ => Registers.wf_nil)) (by exact id) (by exact rfl)) | split)

theorem weChain_keeps {s₀ s : State} (hK : Keeps s₀ s) (m : Nat) (e : Nat) (t : Nat) (o : WeOp) (w : BitVec 64) (cy : Ctx) (eq : Ctx) : Keeps s₀ (weChain m e t o w cy eq s) := by
  unfold weChain
  repeat' (first | with_reducible assumption | with_reducible apply Keeps.ite | dsimp only | fail_if_no_progress (with_reducible refine Keeps.upd ?_ (by exact id) (by exact id) (by exact rfl)) | split)

theorem weRun_keeps {s₀ s : State} (hK : Keeps s₀ s) (m : Nat) (e : Nat) (t : Nat) (o : WeOp) (w : BitVec 64) : Keeps s₀ (weRun m e t o w s) := by
  unfold weRun
  repeat' (first | with_reducible assumption | with_reducible apply weFlag_keeps | with_reducible apply macIssue_keeps | with_reducible apply roomIssue_keeps | with_reducible apply putFlagCY_keeps | with_reducible apply putFlagF_keeps | with_reducible apply weChain_keeps | with_reducible apply weResults_keeps | with_reducible apply Keeps.ite | with_reducible refine Keeps.whenDo ?_ (fun _ _ => ?_) | dsimp only | split)

theorem weStep_keeps {s₀ s : State} (hK : Keeps s₀ s) (m : Nat) (e : Nat) (t : Nat) : Keeps s₀ (weStep m e t s) := by
  unfold weStep
  repeat' (first | with_reducible assumption | with_reducible apply weFlag_keeps | with_reducible apply incFld_keeps | with_reducible apply weRun_keeps | with_reducible refine Keeps.whenDo ?_ (fun _ _ => ?_) | dsimp only | split)

theorem weExec_keeps {s₀ s : State} (hK : Keeps s₀ s) (o : WeOp) (m : Nat) (e : Nat) (t : Nat) : Keeps s₀ (weExec o m e t s) := by
  unfold weExec
  repeat' (first | with_reducible assumption | with_reducible apply weStep_keeps | with_reducible apply Keeps.ite | dsimp only | split)

theorem macComplete_keeps {s₀ s : State} (hK : Keeps s₀ s) (m : Nat) (sl : Nat) (t : Nat) : Keeps s₀ (macComplete m sl t s) := by
  unfold macComplete
  repeat' (first | with_reducible assumption | with_reducible apply Keeps.ite | dsimp only | fail_if_no_progress (with_reducible refine Keeps.upd ?_ (by exact id) (by exact id) (by exact rfl)) | split)

theorem srdReady_keeps {s₀ s : State} (hK : Keeps s₀ s) (m : Nat) (r : Nat) (q : Nat) (t : Nat) : Keeps s₀ (srdReady m r q t s) := by
  unfold srdReady
  repeat' (first | with_reducible assumption | with_reducible apply Keeps.ite | dsimp only | fail_if_no_progress (with_reducible refine Keeps.upd ?_ (by exact id) (by exact id) (by exact rfl)) | split)

end Sys2Proof.Machine
end

