-- ==== Sys2Proof/Laws/KeepsCompare.lean ====
section
/-! SUPPORT. What every operation of Machine/Compare.lean keeps. -/

set_option linter.all false

namespace Sys2Proof.Machine

theorem putSettings_keeps {s₀ s : State} (hK : Keeps s₀ s) (f : Nat → Bool) (l : SMap Word) : Keeps s₀ (putSettings f l s) := by
  unfold putSettings
  repeat' (first | with_reducible assumption | with_reducible apply Keeps.wrReg | with_reducible refine Keeps.foldl (fun _ _ _ => ?_) _ ?_ | with_reducible refine Keeps.foldl_fst (fun _ _ _ => ?_) _ ?_ | with_reducible refine Keeps.foldl_snd (fun _ _ _ => ?_) _ ?_ | with_reducible refine Keeps.foldl_trd (fun _ _ _ => ?_) _ ?_ | dsimp only | fail_if_no_progress (with_reducible refine Keeps.upd ?_ (by (first | exact id | exact Registers.wf_filter _ | exact Registers.wf_keep _ | exact fun _ => Registers.wf_nil)) (by exact id) (by exact rfl)))

theorem sweepClear_keeps {s₀ s : State} (hK : Keeps s₀ s)  : Keeps s₀ (sweepClear s) := by
  unfold sweepClear
  repeat' (first | with_reducible assumption | dsimp only | fail_if_no_progress (with_reducible refine Keeps.upd ?_ (by exact id) (by exact id) (by exact rfl)))

theorem cmpApply_keeps {s₀ s : State} (hK : Keeps s₀ s) (a : Nat) (v : Word) : Keeps s₀ (cmpApply a v s) := by
  unfold cmpApply
  repeat' (first | with_reducible assumption | with_reducible apply sweepClear_keeps | with_reducible apply Keeps.wrReg | with_reducible apply Keeps.ite | dsimp only | split)

theorem wr48_keeps {s₀ s : State} (hK : Keeps s₀ s) (lo : Nat) (hi : Nat) (n : Nat) : Keeps s₀ (wr48 lo hi n s) := by
  unfold wr48
  repeat' (first | with_reducible assumption | with_reducible apply Keeps.wrReg | dsimp only)

theorem cmpPublish_keeps {s₀ s : State} (hK : Keeps s₀ s) (e : CmpLive) : Keeps s₀ (cmpPublish e s) := by
  unfold cmpPublish
  repeat' (first | with_reducible assumption | with_reducible apply wr48_keeps | with_reducible apply Keeps.wrReg | with_reducible refine Keeps.foldl (fun _ _ _ => ?_) _ ?_ | with_reducible refine Keeps.foldl_fst (fun _ _ _ => ?_) _ ?_ | with_reducible refine Keeps.foldl_snd (fun _ _ _ => ?_) _ ?_ | with_reducible refine Keeps.foldl_trd (fun _ _ _ => ?_) _ ?_ | dsimp only | fail_if_no_progress (with_reducible refine Keeps.upd ?_ (by (first | exact id | exact Registers.wf_filter _ | exact Registers.wf_keep _ | exact fun _ => Registers.wf_nil)) (by exact id) (by exact rfl)) | split)

theorem sampleSinks_keeps {s₀ s : State} (hK : Keeps s₀ s)  : Keeps s₀ (sampleSinks s) := by
  unfold sampleSinks
  repeat' (first | with_reducible assumption | with_reducible apply Keeps.ite | dsimp only | fail_if_no_progress (with_reducible refine Keeps.upd ?_ (by exact id) (by exact id) (by exact rfl)) | split)

theorem putRecord_keeps {s₀ s : State} (hK : Keeps s₀ s) (kind : RecKind) (source : Nat) (first : Bool) (cmpd : Ctx) (payload : BitVec 256) (aux : Nat) : Keeps s₀ (putRecord kind source first cmpd payload aux s) := by
  unfold putRecord
  repeat' (first | with_reducible assumption | with_reducible apply reportFail_keeps | with_reducible apply setBit_keeps | with_reducible apply Keeps.ite | dsimp only | fail_if_no_progress (with_reducible refine Keeps.upd ?_ (by exact id) (by exact id) (by exact rfl)) | split)

theorem withLive_keeps {s₀ s : State} (hK : Keeps s₀ s) (f : CmpLive → CmpLive) : Keeps s₀ (withLive f s) := by
  unfold withLive
  repeat' (first | with_reducible assumption | dsimp only | fail_if_no_progress (with_reducible refine Keeps.upd ?_ (by exact id) (by exact id) (by exact rfl)))

theorem portTick_keeps {s₀ s : State} (hK : Keeps s₀ s) (p : Nat) : Keeps s₀ (portTick p s) := by
  unfold portTick
  repeat' (first | with_reducible assumption | with_reducible apply withLive_keeps | with_reducible apply putRecord_keeps | with_reducible apply setBit_keeps | with_reducible apply Keeps.ite | with_reducible refine Keeps.whenDo ?_ (fun _ _ => ?_) | dsimp only | fail_if_no_progress (with_reducible refine Keeps.upd ?_ (by exact id) (by exact id) (by exact rfl)) | split)

theorem groupTick_keeps {s₀ s : State} (hK : Keeps s₀ s) (g : Nat) : Keeps s₀ (groupTick g s) := by
  unfold groupTick
  repeat' (first | with_reducible assumption | with_reducible apply withLive_keeps | with_reducible apply putRecord_keeps | with_reducible apply probe_keeps | with_reducible apply Keeps.ite | dsimp only | fail_if_no_progress (with_reducible refine Keeps.upd ?_ (by exact id) (by exact id) (by exact rfl)) | split)

theorem statusTick_keeps {s₀ s : State} (hK : Keeps s₀ s)  : Keeps s₀ (statusTick s) := by
  unfold statusTick
  repeat' (first | with_reducible assumption | with_reducible apply withLive_keeps | with_reducible apply putRecord_keeps | with_reducible apply Keeps.ite | dsimp only | fail_if_no_progress (with_reducible refine Keeps.upd ?_ (by exact id) (by exact id) (by exact rfl)) | split)

theorem countTick_keeps {s₀ s : State} (hK : Keeps s₀ s)  : Keeps s₀ (countTick s) := by
  unfold countTick
  repeat' (first | with_reducible assumption | with_reducible apply withLive_keeps | with_reducible apply setBit_keeps | with_reducible apply Keeps.ite | with_reducible refine Keeps.foldl (fun _ _ _ => ?_) _ ?_ | with_reducible refine Keeps.foldl_fst (fun _ _ _ => ?_) _ ?_ | with_reducible refine Keeps.foldl_snd (fun _ _ _ => ?_) _ ?_ | with_reducible refine Keeps.foldl_trd (fun _ _ _ => ?_) _ ?_ | dsimp only | fail_if_no_progress (with_reducible refine Keeps.upd ?_ (by exact id) (by exact id) (by exact rfl)) | split)

theorem cmpParity_keeps {s₀ s : State} (hK : Keeps s₀ s)  : Keeps s₀ (cmpParity s) := by
  unfold cmpParity
  repeat' (first | with_reducible assumption | with_reducible apply reportFail_keeps | with_reducible apply setBit_keeps | with_reducible refine Keeps.whenDo ?_ (fun _ _ => ?_) | dsimp only)

theorem cmpTick_keeps {s₀ s : State} (hK : Keeps s₀ s)  : Keeps s₀ (cmpTick s) := by
  unfold cmpTick
  repeat' (first | with_reducible assumption | with_reducible apply cmpParity_keeps | with_reducible apply sampleSinks_keeps | with_reducible apply countTick_keeps | with_reducible apply portTick_keeps | with_reducible apply withLive_keeps | with_reducible apply statusTick_keeps | with_reducible apply groupTick_keeps | with_reducible apply Keeps.ite | with_reducible refine Keeps.foldl (fun _ _ _ => ?_) _ ?_ | dsimp only | fail_if_no_progress (with_reducible refine Keeps.upd ?_ (by exact id) (by exact id) (by exact rfl)) | split)

theorem stageWriteDone_keeps {s₀ s : State} (hK : Keeps s₀ s) (ok : Bool) : Keeps s₀ (stageWriteDone ok s) := by
  unfold stageWriteDone
  repeat' (first | with_reducible assumption | with_reducible apply failEpoch_keeps | with_reducible apply report_keeps | with_reducible apply setBit_keeps | with_reducible apply Keeps.ite | dsimp only | fail_if_no_progress (with_reducible refine Keeps.upd ?_ (by exact id) (by exact id) (by exact rfl)) | split)

theorem cmpEpochEnd_keeps {s₀ s : State} (hK : Keeps s₀ s) (epoch : Nat) : Keeps s₀ (cmpEpochEnd epoch s) := by
  unfold cmpEpochEnd
  repeat' (first | with_reducible assumption | dsimp only | fail_if_no_progress (with_reducible refine Keeps.upd ?_ (by exact id) (by exact id) (by exact rfl)))

theorem cmpRestore_keeps {s₀ s : State} (hK : Keeps s₀ s) (j : Nat) : Keeps s₀ (cmpRestore j s) := by
  unfold cmpRestore
  repeat' (first | with_reducible assumption | with_reducible apply clrBit_keeps | dsimp only | fail_if_no_progress (with_reducible refine Keeps.upd ?_ (by exact id) (by exact id) (by exact rfl)))

theorem cmpStart_keeps {s₀ s : State} (hK : Keeps s₀ s)  : Keeps s₀ (cmpStart s) := by
  unfold cmpStart
  repeat' (first | with_reducible assumption | dsimp only | fail_if_no_progress (with_reducible refine Keeps.upd ?_ (by exact id) (by exact id) (by exact rfl)) | split)

theorem cmpResume_keeps {s₀ s : State} (hK : Keeps s₀ s)  : Keeps s₀ (cmpResume s) := by
  unfold cmpResume
  repeat' (first | with_reducible assumption | dsimp only | fail_if_no_progress (with_reducible refine Keeps.upd ?_ (by exact id) (by exact id) (by exact rfl)))

theorem setAcqState_keeps {s₀ s : State} (hK : Keeps s₀ s) (n : Nat) : Keeps s₀ (setAcqState n s) := by
  unfold setAcqState
  repeat' (first | with_reducible assumption | with_reducible apply wrFld_keeps | dsimp only)

theorem wrWord_keeps {s₀ s : State} (hK : Keeps s₀ s) (o : Nat) (n : Nat) : Keeps s₀ (wrWord o n s) := by
  unfold wrWord
  repeat' (first | with_reducible assumption | with_reducible apply Keeps.wrReg | dsimp only)

theorem acqArm_keeps {s₀ s : State} (hK : Keeps s₀ s)  : Keeps s₀ (acqArm s) := by
  unfold acqArm
  repeat' (first | with_reducible assumption | with_reducible apply wrWord_keeps | with_reducible apply Keeps.wrReg | with_reducible apply Keeps.ite | with_reducible refine Keeps.foldl (fun _ _ _ => ?_) _ ?_ | dsimp only | fail_if_no_progress (with_reducible refine Keeps.upd ?_ (by exact id) (by exact id) (by exact rfl)) | split)

theorem acqAccept_keeps {s₀ s : State} (hK : Keeps s₀ s) (tick : Nat) : Keeps s₀ (acqAccept tick s) := by
  unfold acqAccept
  repeat' (first | with_reducible assumption | with_reducible apply wrWord_keeps | with_reducible apply wr48_keeps | with_reducible apply wrFld_keeps | with_reducible apply setAcqState_keeps | with_reducible apply Keeps.ite | dsimp only | split)

theorem acqTrigger_keeps {s₀ s : State} (hK : Keeps s₀ s) (tick : Nat) : Keeps s₀ (acqTrigger tick s) := by
  unfold acqTrigger
  repeat' (first | with_reducible assumption | with_reducible apply acqAccept_keeps | with_reducible apply setBit_keeps | with_reducible apply Keeps.ite | dsimp only | split)

theorem acqStore_keeps {s₀ s : State} (hK : Keeps s₀ s) (slot : Nat) (r : CmpRec) : Keeps s₀ (acqStore slot r s) := by
  unfold acqStore
  repeat' (first | with_reducible assumption | with_reducible apply celPut_keeps | dsimp only)

theorem acqCount_keeps {s₀ s : State} (hK : Keeps s₀ s) (r : CmpRec) : Keeps s₀ (acqCount r s) := by
  unfold acqCount
  repeat' (first | with_reducible assumption | with_reducible apply wr48_keeps | with_reducible apply Keeps.ite | dsimp only | fail_if_no_progress (with_reducible refine Keeps.upd ?_ (by exact id) (by exact id) (by exact rfl)) | split)

theorem acqPre_keeps {s₀ s : State} (hK : Keeps s₀ s) (r : CmpRec) : Keeps s₀ (acqPre r s) := by
  unfold acqPre
  repeat' (first | with_reducible assumption | with_reducible apply incFld_keeps | with_reducible apply acqCount_keeps | with_reducible apply acqStore_keeps | with_reducible apply wrWord_keeps | with_reducible apply setAcqState_keeps | with_reducible apply Keeps.ite | dsimp only | fail_if_no_progress (with_reducible refine Keeps.upd ?_ (by exact id) (by exact id) (by exact rfl)) | split)

theorem acqPost_keeps {s₀ s : State} (hK : Keeps s₀ s) (r : CmpRec) : Keeps s₀ (acqPost r s) := by
  unfold acqPost
  repeat' (first | with_reducible assumption | with_reducible apply acqCount_keeps | with_reducible apply acqStore_keeps | with_reducible apply wrWord_keeps | with_reducible apply setAcqState_keeps | with_reducible apply Keeps.ite | dsimp only | fail_if_no_progress (with_reducible refine Keeps.upd ?_ (by exact id) (by exact id) (by exact rfl)) | split)

theorem acqRecord_keeps {s₀ s : State} (hK : Keeps s₀ s) (r : CmpRec) : Keeps s₀ (acqRecord r s) := by
  unfold acqRecord
  repeat' (first | with_reducible assumption | with_reducible apply acqTrigger_keeps | with_reducible apply acqPre_keeps | with_reducible apply acqPost_keeps | with_reducible apply incFld_keeps | dsimp only | split)

theorem acqApply_keeps {s₀ s : State} (hK : Keeps s₀ s) (a : Nat) (v : Word) : Keeps s₀ (acqApply a v s) := by
  unfold acqApply
  repeat' (first | with_reducible assumption | with_reducible apply setAcqState_keeps | with_reducible apply acqArm_keeps | with_reducible apply Keeps.wrReg | with_reducible apply Keeps.ite | dsimp only | split)

theorem acqPending_keeps {s₀ s : State} (hK : Keeps s₀ s) (epoch : Nat) : Keeps s₀ (acqPending epoch s) := by
  unfold acqPending
  repeat' (first | with_reducible assumption | with_reducible apply acqTrigger_keeps | with_reducible apply clrBit_keeps | with_reducible apply Keeps.ite | dsimp only | split)

theorem moverBegin_keeps {s₀ s : State} (hK : Keeps s₀ s) (epoch : Nat) : Keeps s₀ (moverBegin epoch s) := by
  unfold moverBegin
  repeat' (first | with_reducible assumption | with_reducible apply acqApply_keeps | with_reducible apply acqPending_keeps | with_reducible refine Keeps.foldl (fun _ _ _ => ?_) _ ?_ | with_reducible refine Keeps.foldl_fst (fun _ _ _ => ?_) _ ?_ | with_reducible refine Keeps.foldl_snd (fun _ _ _ => ?_) _ ?_ | with_reducible refine Keeps.foldl_trd (fun _ _ _ => ?_) _ ?_ | dsimp only | fail_if_no_progress (with_reducible refine Keeps.upd ?_ (by exact id) (by exact id) (by exact rfl)))

theorem moverNext_keeps {s₀ s : State} (hK : Keeps s₀ s)  : Keeps s₀ (moverNext s) := by
  unfold moverNext
  repeat' (first | with_reducible assumption | with_reducible apply moverBegin_keeps | dsimp only | fail_if_no_progress (with_reducible refine Keeps.upd ?_ (by exact id) (by exact id) (by exact rfl)) | split)

theorem bmapBuild_keeps {s₀ s : State} (hK : Keeps s₀ s) (r : CmpRec) : Keeps s₀ (bmapBuild r s) := by
  unfold bmapBuild
  repeat' (first | with_reducible assumption | with_reducible apply report_keeps | with_reducible apply setBit_keeps | with_reducible apply celPut_keeps | with_reducible apply Keeps.ite | dsimp only | split)

theorem moverRecord_keeps {s₀ s : State} (hK : Keeps s₀ s)  : Keeps s₀ (moverRecord s) := by
  unfold moverRecord
  repeat' (first | with_reducible assumption | with_reducible apply acqRecord_keeps | with_reducible apply report_keeps | with_reducible apply setBit_keeps | with_reducible apply bmapBuild_keeps | with_reducible apply Keeps.ite | dsimp only | fail_if_no_progress (with_reducible refine Keeps.upd ?_ (by exact id) (by exact id) (by exact rfl)) | split)

theorem moverFinish_keeps {s₀ s : State} (hK : Keeps s₀ s) (e : Nat) : Keeps s₀ (moverFinish e s) := by
  unfold moverFinish
  repeat' (first | with_reducible assumption | with_reducible apply acqTrigger_keeps | with_reducible apply Keeps.ite | dsimp only | fail_if_no_progress (with_reducible refine Keeps.upd ?_ (by exact id) (by exact id) (by exact rfl)) | split)

theorem cmpCommit_keeps {s₀ s : State} (hK : Keeps s₀ s) (k : Nat) : Keeps s₀ (cmpCommit k s) := by
  unfold cmpCommit
  repeat' (first | with_reducible assumption | with_reducible apply moverNext_keeps | with_reducible apply cmpPublish_keeps | dsimp only | fail_if_no_progress (with_reducible refine Keeps.upd ?_ (by exact id) (by exact id) (by exact rfl)))

theorem acqWrite_keeps {s₀ s : State} (hK : Keeps s₀ s) (a : Nat) (v : Word) : Keeps s₀ (acqWrite a v s) := by
  unfold acqWrite
  repeat' (first | with_reducible assumption | with_reducible apply idle_keeps | with_reducible apply acqApply_keeps | with_reducible apply setBit_keeps | with_reducible apply Keeps.ite | with_reducible refine Keeps.whenDo ?_ (fun _ _ => ?_) | dsimp only | fail_if_no_progress (with_reducible refine Keeps.upd ?_ (by exact id) (by exact id) (by exact rfl)) | split)

theorem cmpStagedWrite_keeps {s₀ s : State} (hK : Keeps s₀ s) (a : Nat) (v : Word) : Keeps s₀ (cmpStagedWrite a v s) := by
  unfold cmpStagedWrite
  repeat' (first | with_reducible assumption | with_reducible apply cmpApply_keeps | with_reducible apply Keeps.ite | dsimp only | fail_if_no_progress (with_reducible refine Keeps.upd ?_ (by exact id) (by exact id) (by exact rfl)) | split)

end Sys2Proof.Machine
end

