-- ==== Sys2Proof/Laws/KeepsStream.lean ====
section
/-! SUPPORT. What every operation of Machine/Stream.lean keeps. -/

set_option linter.all false

namespace Sys2Proof.Machine

theorem putLink_keeps {s₀ s : State} (hK : Keeps s₀ s) (l : Nat) (f : Link → Link) : Keeps s₀ (putLink l f s) := by
  unfold putLink
  repeat' (first | with_reducible assumption | dsimp only | fail_if_no_progress (with_reducible refine Keeps.upd ?_ (by exact id) (by exact id) (by exact rfl)))

theorem portShow_keeps {s₀ s : State} (hK : Keeps s₀ s) (l : Nat) : Keeps s₀ (portShow l s) := by
  unfold portShow
  repeat' (first | with_reducible assumption | with_reducible apply wr48_keeps | with_reducible apply Keeps.wrReg | dsimp only)

theorem showPorts_keeps {s₀ s : State} (hK : Keeps s₀ s)  : Keeps s₀ (showPorts s) := by
  unfold showPorts
  repeat' (first | with_reducible assumption | with_reducible apply portShow_keeps | with_reducible refine Keeps.foldl (fun _ _ _ => ?_) _ ?_ | dsimp only)

theorem portCount_keeps {s₀ s : State} (hK : Keeps s₀ s) (l : Nat) (o : Nat) (flag : Nat) : Keeps s₀ (portCount l o flag s) := by
  unfold portCount
  repeat' (first | with_reducible assumption | with_reducible apply incFld_keeps | with_reducible apply setBit_keeps | dsimp only)

theorem portAlarm_keeps {s₀ s : State} (hK : Keeps s₀ s) (l : Nat) (o : Nat) (flag : Nat) : Keeps s₀ (portAlarm l o flag s) := by
  unfold portAlarm
  repeat' (first | with_reducible assumption | with_reducible apply hostEvent_keeps | with_reducible apply portCount_keeps | dsimp only)

theorem frameDamaged_keeps {s₀ s : State} (hK : Keeps s₀ s) (l : Nat) (tick : Option Nat) : Keeps s₀ (frameDamaged l tick s) := by
  unfold frameDamaged
  repeat' (first | with_reducible assumption | with_reducible apply portCount_keeps | with_reducible apply putLink_keeps | with_reducible apply Keeps.ite | dsimp only | fail_if_no_progress (with_reducible refine Keeps.upd ?_ (by exact id) (by exact id) (by exact rfl)) | split)

theorem frameArrives_keeps {s₀ s : State} (hK : Keeps s₀ s) (l : Nat) (f : PartFrame) : Keeps s₀ (frameArrives l f s) := by
  unfold frameArrives
  repeat' (first | with_reducible assumption | with_reducible apply frameDamaged_keeps | with_reducible apply portAlarm_keeps | with_reducible apply portShow_keeps | with_reducible apply putLink_keeps | with_reducible apply Keeps.ite | dsimp only | fail_if_no_progress (with_reducible refine Keeps.upd ?_ (by exact id) (by exact id) (by exact rfl)) | split)

theorem dropPart_keeps {s₀ s : State} (hK : Keeps s₀ s) (l : Nat) : Keeps s₀ (dropPart l s) := by
  unfold dropPart
  repeat' (first | with_reducible assumption | with_reducible apply frameDamaged_keeps | with_reducible apply putLink_keeps | dsimp only | fail_if_no_progress (with_reducible refine Keeps.upd ?_ (by exact id) (by exact id) (by exact rfl)) | split)

theorem laneFault_keeps {s₀ s : State} (hK : Keeps s₀ s) (lane : Nat) (kind : Nat) : Keeps s₀ (laneFault lane kind s) := by
  unfold laneFault
  repeat' (first | with_reducible assumption | with_reducible apply report_keeps | dsimp only)

theorem streamCrc_keeps {s₀ s : State} (hK : Keeps s₀ s) (l : Nat) (lane : Nat) (tick : Option Nat) : Keeps s₀ (streamCrc l lane tick s) := by
  unfold streamCrc
  repeat' (first | with_reducible assumption | with_reducible apply incFld_keeps | with_reducible apply setBit_keeps | with_reducible apply dropPart_keeps | with_reducible apply frameDamaged_keeps | with_reducible apply failNow_keeps | with_reducible apply laneFault_keeps | dsimp only | split)

theorem streamSeq_keeps {s₀ s : State} (hK : Keeps s₀ s) (l : Nat) (seq : Nat) : Keeps s₀ (streamSeq l seq s) := by
  unfold streamSeq
  repeat' (first | with_reducible assumption | with_reducible apply dropPart_keeps | with_reducible apply setBit_keeps | with_reducible apply putLink_keeps | with_reducible refine Keeps.whenDo ?_ (fun _ _ => ?_) | dsimp only | fail_if_no_progress (with_reducible refine Keeps.upd ?_ (by exact id) (by exact id) (by exact rfl)))

theorem streamStart_keeps {s₀ s : State} (hK : Keeps s₀ s) (l : Nat) (seq : Nat) (tick : Nat) (fbytes : Nat) (control : BitVec 64) (lane : Nat) (good : Bool) : Keeps s₀ (streamStart l seq tick fbytes control lane good s) := by
  unfold streamStart
  repeat' (first | with_reducible assumption | with_reducible apply streamCrc_keeps | with_reducible apply dropPart_keeps | with_reducible apply streamSeq_keeps | with_reducible apply frameArrives_keeps | with_reducible apply putLink_keeps | with_reducible apply Keeps.ite | dsimp only | fail_if_no_progress (with_reducible refine Keeps.upd ?_ (by exact id) (by exact id) (by exact rfl)) | split)

theorem streamData_keeps {s₀ s : State} (hK : Keeps s₀ s) (l : Nat) (seq : Nat) (bytes : List Byte) (lane : Nat) (good : Bool) : Keeps s₀ (streamData l seq bytes lane good s) := by
  unfold streamData
  repeat' (first | with_reducible assumption | with_reducible apply streamCrc_keeps | with_reducible apply streamSeq_keeps | with_reducible apply frameArrives_keeps | with_reducible apply putLink_keeps | with_reducible apply Keeps.ite | dsimp only | fail_if_no_progress (with_reducible refine Keeps.upd ?_ (by exact id) (by exact id) (by exact rfl)) | split)

theorem placeStimulus_keeps {s₀ s : State} (hK : Keeps s₀ s) (data : Option (List Byte)) : Keeps s₀ (placeStimulus data s) := by
  unfold placeStimulus
  repeat' (first | with_reducible assumption | dsimp only | fail_if_no_progress (with_reducible refine Keeps.upd ?_ (by exact id) (by exact id) (by exact rfl)) | split)

theorem dropTaken_keeps {s₀ s : State} (hK : Keeps s₀ s)  : Keeps s₀ (dropTaken s) := by
  unfold dropTaken
  repeat' (first | with_reducible assumption | with_reducible apply putLink_keeps | with_reducible refine Keeps.foldl (fun _ _ _ => ?_) _ ?_ | with_reducible refine Keeps.foldl_fst (fun _ _ _ => ?_) _ ?_ | with_reducible refine Keeps.foldl_snd (fun _ _ _ => ?_) _ ?_ | with_reducible refine Keeps.foldl_trd (fun _ _ _ => ?_) _ ?_ | dsimp only | fail_if_no_progress (with_reducible refine Keeps.upd ?_ (by exact id) (by exact id) (by exact rfl)))

theorem inletTake_keeps {s₀ s : State} (hK : Keeps s₀ s) (n : Nat) : Keeps s₀ (inletTake n s) := by
  unfold inletTake
  repeat' (first | with_reducible assumption | with_reducible apply placeStimulus_keeps | with_reducible apply showPorts_keeps | with_reducible apply dropTaken_keeps | dsimp only | fail_if_no_progress (with_reducible refine Keeps.upd ?_ (by exact id) (by exact id) (by exact rfl)) | split)

end Sys2Proof.Machine
end

