-- ==== Sys2Proof/Laws/KeepsSafe.lean ====
section
/-! SUPPORT. What every operation of Machine/Safe.lean keeps. -/

set_option linter.all false

namespace Sys2Proof.Machine

theorem setPhase_keeps {s₀ s : State} (hK : Keeps s₀ s) (p : Phase) : Keeps s₀ (setPhase p s) := by
  unfold setPhase
  repeat' (first | with_reducible assumption | with_reducible apply hostEvent_keeps | with_reducible apply wrFld_keeps | with_reducible apply Keeps.ite | dsimp only | fail_if_no_progress (with_reducible refine Keeps.upd ?_ (by exact id) (by exact id) (by exact rfl)) | split)

theorem pulsesLow_keeps {s₀ s : State} (hK : Keeps s₀ s)  : Keeps s₀ (pulsesLow s) := by
  unfold pulsesLow
  repeat' (first | with_reducible assumption | with_reducible apply clrBit_keeps | with_reducible refine Keeps.foldl (fun _ _ _ => ?_) _ ?_ | with_reducible refine Keeps.foldl_fst (fun _ _ _ => ?_) _ ?_ | with_reducible refine Keeps.foldl_snd (fun _ _ _ => ?_) _ ?_ | with_reducible refine Keeps.foldl_trd (fun _ _ _ => ?_) _ ?_ | dsimp only | fail_if_no_progress (with_reducible refine Keeps.upd ?_ (by exact id) (by exact id) (by exact rfl)))

theorem enterSafe_keeps {s₀ s : State} (hK : Keeps s₀ s) (cause : SafeCause) (cls : Nat) (unit : Nat) (kind : Nat) : Keeps s₀ (enterSafe cause cls unit kind s) := by
  unfold enterSafe
  repeat' (first | with_reducible assumption | with_reducible apply wrFld_keeps | with_reducible apply attLog_keeps | with_reducible apply failNow_keeps | with_reducible apply idle_keeps | with_reducible apply hostEvent_keeps | with_reducible apply pulsesLow_keeps | with_reducible apply Keeps.wrReg | with_reducible apply Keeps.ite | dsimp only | fail_if_no_progress (with_reducible refine Keeps.upd ?_ (by exact id) (by exact id) (by exact rfl)) | split)

theorem enterSafeOpen_keeps {s₀ s : State} (hK : Keeps s₀ s) (cause : SafeCause) (cls : Option Nat) (unit : Option Nat) : Keeps s₀ (enterSafeOpen cause cls unit s) := by
  unfold enterSafeOpen
  repeat' (first | with_reducible assumption | with_reducible refine takeFree_keeps ?_ (by assumption) | with_reducible apply takeFree_keepsP | with_reducible apply enterSafe_keeps | with_reducible apply Keeps.ite | dsimp only | split)

end Sys2Proof.Machine
end

