-- ==== Sys2Proof/Laws/KeepsTick.lean ====
section
/-! SUPPORT. What every operation of Machine/Tick.lean keeps. -/

set_option linter.all false

namespace Sys2Proof.Machine

theorem enterEntry_keeps {s₀ s : State} (hK : Keeps s₀ s) (i : Nat) : Keeps s₀ (enterEntry i s) := by
  unfold enterEntry
  repeat' (first | with_reducible assumption | with_reducible apply failNow_keeps | with_reducible apply setBit_keeps | with_reducible refine Keeps.whenDo ?_ (fun _ _ => ?_) | dsimp only | fail_if_no_progress (with_reducible refine Keeps.upd ?_ (by exact id) (by exact id) (by exact rfl)) | split)

theorem rootHold_keeps {s₀ s : State} (hK : Keeps s₀ s) (cause : Nat) : Keeps s₀ (rootHold cause s) := by
  unfold rootHold
  repeat' (first | with_reducible assumption | with_reducible apply rootOrder_keeps | dsimp only)

theorem rootDecide_keeps {s₀ s : State} (hK : Keeps s₀ s)  : Keeps s₀ (rootDecide s) := by
  unfold rootDecide
  repeat' (first | with_reducible assumption | with_reducible apply rootOrder_keeps | with_reducible apply Keeps.ite | dsimp only | split)

theorem decideLate_keeps {s₀ s : State} (hK : Keeps s₀ s) (e : Nat) : Keeps s₀ (decideLate e s) := by
  unfold decideLate
  repeat' (first | with_reducible assumption | with_reducible apply failEpoch_keeps | with_reducible apply setBit_keeps | dsimp only)

theorem timeReach_keeps {s₀ s : State} (hK : Keeps s₀ s) (t : Nat) : Keeps s₀ (timeReach t s) := by
  unfold timeReach
  repeat' (first | with_reducible assumption | with_reducible apply Keeps.ite | dsimp only | fail_if_no_progress (with_reducible refine Keeps.upd ?_ (by exact id) (by exact id) (by exact rfl)) | split)

theorem clearTick_keeps {s₀ s : State} (hK : Keeps s₀ s)  : Keeps s₀ (clearTick s) := by
  unfold clearTick
  repeat' (first | with_reducible assumption | dsimp only | fail_if_no_progress (with_reducible refine Keeps.upd ?_ (by exact id) (by exact id) (by exact rfl)))

theorem requestBank_keeps {s₀ s : State} (hK : Keeps s₀ s)  : Keeps s₀ (requestBank s) := by
  unfold requestBank
  repeat' (first | with_reducible assumption | with_reducible apply Keeps.ite | dsimp only | fail_if_no_progress (with_reducible refine Keeps.upd ?_ (by exact id) (by exact id) (by exact rfl)) | split)

theorem tickBegin_keeps {s₀ s : State} (hK : Keeps s₀ s)  : Keeps s₀ (tickBegin s) := by
  unfold tickBegin
  repeat' (first | with_reducible assumption | with_reducible apply rootDecide_keeps | with_reducible apply inletTake_keeps | with_reducible apply clearTick_keeps | with_reducible apply decideLate_keeps | with_reducible apply requestBank_keeps | with_reducible refine Keeps.whenDo ?_ (fun _ _ => ?_) | dsimp only | fail_if_no_progress (with_reducible refine Keeps.upd ?_ (by exact id) (by exact id) (by exact rfl)))

theorem tickStartEv_keeps {s₀ s : State} (hK : Keeps s₀ s) (delta : Int) : Keeps s₀ (tickStartEv delta s) := by
  unfold tickStartEv
  repeat' (first | with_reducible assumption | with_reducible apply timeReach_keeps | with_reducible apply tickBegin_keeps | with_reducible apply reportFail_keeps | with_reducible apply setBit_keeps | with_reducible apply Keeps.ite | with_reducible refine Keeps.whenDo ?_ (fun _ _ => ?_) | dsimp only | split)

theorem completeOps_keeps {s₀ s : State} (hK : Keeps s₀ s)  : Keeps s₀ (completeOps s) := by
  unfold completeOps
  repeat' (first | with_reducible assumption | with_reducible apply macComplete_keeps | with_reducible apply srdReady_keeps | with_reducible refine Keeps.foldl (fun _ _ _ => ?_) _ ?_ | dsimp only)

theorem fabTick_keeps {s₀ s : State} (hK : Keeps s₀ s) (m : Nat) : Keeps s₀ (fabTick m s) := by
  unfold fabTick
  repeat' (first | with_reducible assumption | with_reducible apply fabFlag_keeps | with_reducible refine Keeps.whenDo ?_ (fun _ _ => ?_) | dsimp only)

theorem shfTick_keeps {s₀ s : State} (hK : Keeps s₀ s) (h : Nat) : Keeps s₀ (shfTick h s) := by
  unfold shfTick
  repeat' (first | with_reducible assumption | with_reducible apply reportFail_keeps | with_reducible apply setBit_keeps | with_reducible refine Keeps.whenDo ?_ (fun _ _ => ?_) | dsimp only)

theorem injectTick_keeps {s₀ s : State} (hK : Keeps s₀ s)  : Keeps s₀ (injectTick s) := by
  unfold injectTick
  repeat' (first | with_reducible assumption | with_reducible apply setBit_keeps | with_reducible refine Keeps.whenDo ?_ (fun _ _ => ?_) | with_reducible refine Keeps.foldl (fun _ _ _ => ?_) _ ?_ | with_reducible refine Keeps.foldl_fst (fun _ _ _ => ?_) _ ?_ | with_reducible refine Keeps.foldl_snd (fun _ _ _ => ?_) _ ?_ | with_reducible refine Keeps.foldl_trd (fun _ _ _ => ?_) _ ?_ | dsimp only | split)

theorem flopTick_keeps {s₀ s : State} (hK : Keeps s₀ s)  : Keeps s₀ (flopTick s) := by
  unfold flopTick
  repeat' (first | with_reducible assumption | with_reducible apply Keeps.ite | with_reducible refine Keeps.foldl (fun _ _ _ => ?_) _ ?_ | with_reducible refine Keeps.foldl_fst (fun _ _ _ => ?_) _ ?_ | with_reducible refine Keeps.foldl_snd (fun _ _ _ => ?_) _ ?_ | with_reducible refine Keeps.foldl_trd (fun _ _ _ => ?_) _ ?_ | dsimp only | fail_if_no_progress (with_reducible refine Keeps.upd ?_ (by exact id) (by exact id) (by exact rfl)) | split)

theorem advanceTick_keeps {s₀ s : State} (hK : Keeps s₀ s)  : Keeps s₀ (advanceTick s) := by
  unfold advanceTick
  repeat' (first | with_reducible assumption | with_reducible apply enterEntry_keeps | with_reducible apply Keeps.ite | dsimp only | fail_if_no_progress (with_reducible refine Keeps.upd ?_ (by exact id) (by exact id) (by exact rfl)) | split)

theorem scrubWriteBack_keeps {s₀ s : State} (hK : Keeps s₀ s) (we : Bool) (k : Nat) : Keeps s₀ (scrubWriteBack we k s) := by
  unfold scrubWriteBack
  repeat' (first | with_reducible assumption | with_reducible apply Keeps.ite | dsimp only | fail_if_no_progress (with_reducible refine Keeps.upd ?_ (by exact id) (by exact id) (by exact rfl)) | split)

theorem scrubFixes_keeps {s₀ s : State} (hK : Keeps s₀ s)  : Keeps s₀ (scrubFixes s) := by
  unfold scrubFixes
  repeat' (first | with_reducible assumption | with_reducible apply scrubWriteBack_keeps | with_reducible refine Keeps.foldl (fun _ _ _ => ?_) _ ?_ | with_reducible refine Keeps.foldl_fst (fun _ _ _ => ?_) _ ?_ | with_reducible refine Keeps.foldl_snd (fun _ _ _ => ?_) _ ?_ | with_reducible refine Keeps.foldl_trd (fun _ _ _ => ?_) _ ?_ | dsimp only | fail_if_no_progress (with_reducible refine Keeps.upd ?_ (by exact id) (by exact id) (by exact rfl)))

theorem tickOverhead_keeps {s₀ s : State} (hK : Keeps s₀ s)  : Keeps s₀ (tickOverhead s) := by
  unfold tickOverhead
  repeat' (first | with_reducible assumption | with_reducible apply shfTick_keeps | with_reducible apply fabTick_keeps | with_reducible apply completeOps_keeps | with_reducible apply advanceTick_keeps | with_reducible apply flopTick_keeps | with_reducible apply injectTick_keeps | with_reducible apply cmpTick_keeps | with_reducible apply scrubFixes_keeps | with_reducible apply probe_keeps | with_reducible apply idle_keeps | with_reducible apply Keeps.ite | with_reducible refine Keeps.foldl (fun _ _ _ => ?_) _ ?_ | dsimp only | fail_if_no_progress (with_reducible refine Keeps.upd ?_ (by exact id) (by exact id) (by exact rfl)) | split)

end Sys2Proof.Machine
end

