-- ==== Sys2Proof/Laws/KeepsSpring.lean ====
section
/-! SUPPORT. What every operation of Machine/Spring.lean keeps. -/

set_option linter.all false

namespace Sys2Proof.Machine

theorem timeCrc_keeps {s₀ s : State} (hK : Keeps s₀ s) (h : SpringHdr) : Keeps s₀ (timeCrc h s) := by
  unfold timeCrc
  repeat' (first | with_reducible assumption | with_reducible apply incFld_keeps | with_reducible apply setBit_keeps | with_reducible apply failNow_keeps | with_reducible apply laneFault_keeps | dsimp only)

theorem timeSeq_keeps {s₀ s : State} (hK : Keeps s₀ s) (l : Nat) (seq : Nat) : Keeps s₀ (timeSeq l seq s) := by
  unfold timeSeq
  repeat' (first | with_reducible assumption | with_reducible apply failNow_keeps | with_reducible apply setBit_keeps | with_reducible refine Keeps.whenDo ?_ (fun _ _ => ?_) | dsimp only | fail_if_no_progress (with_reducible refine Keeps.upd ?_ (by exact id) (by exact id) (by exact rfl)))

theorem springFlit_keepsP {s₀ s : State} (hK : Keeps s₀ s) (links : List Nat) (h : SpringHdr) : Keeps s₀ (springFlit links h s).1 := by
  unfold springFlit
  repeat' (first | with_reducible assumption | with_reducible apply timeCrc_keeps | with_reducible apply timeSeq_keeps | with_reducible apply Keeps.ite | with_reducible apply Keeps.ite_fst | with_reducible apply Keeps.ite_snd | dsimp only | split)

theorem springFlit_keeps {s₀ s tK : State} {links : List Nat} {h : SpringHdr} {xK} (hK : Keeps s₀ s) (eK : springFlit links h s = (tK, xK)) : Keeps s₀ tK := by
  have h := springFlit_keepsP hK links h
  rw [eK] at h
  exact h

theorem fromChild_keepsP {s₀ s : State} (hK : Keeps s₀ s) (h : SpringHdr) : Keeps s₀ (fromChild h s).1 := by
  unfold fromChild
  repeat' (first | with_reducible assumption | with_reducible refine springFlit_keeps ?_ (by assumption) | with_reducible apply springFlit_keepsP | dsimp only)

theorem fromChild_keeps {s₀ s tK : State} {h : SpringHdr} {xK} (hK : Keeps s₀ s) (eK : fromChild h s = (tK, xK)) : Keeps s₀ tK := by
  have h := fromChild_keepsP hK h
  rw [eK] at h
  exact h

theorem fromHead_keepsP {s₀ s : State} (hK : Keeps s₀ s) (h : Option SpringHdr) (msg : SpringMsg) : Keeps s₀ (fromHead h msg s).1 := by
  unfold fromHead
  repeat' (first | with_reducible assumption | with_reducible refine springFlit_keeps ?_ (by assumption) | with_reducible apply springFlit_keepsP | with_reducible apply sendDown_keeps | with_reducible apply Keeps.ite | with_reducible apply Keeps.ite_fst | with_reducible apply Keeps.ite_snd | dsimp only | fail_if_no_progress (with_reducible refine Keeps.upd ?_ (by exact id) (by exact id) (by exact rfl)) | split)

theorem fromHead_keeps {s₀ s tK : State} {h : Option SpringHdr} {msg : SpringMsg} {xK} (hK : Keeps s₀ s) (eK : fromHead h msg s = (tK, xK)) : Keeps s₀ tK := by
  have h := fromHead_keepsP hK h msg
  rw [eK] at h
  exact h

theorem actOn_keeps {s₀ : State} {r : State × Bool} {f : State → State} (h : Keeps s₀ r.1)
    (hf : ∀ x, Keeps s₀ x → Keeps s₀ (f x)) : Keeps s₀ (actOn r f) := by
  unfold actOn
  split
  · exact hf _ h
  · exact h

theorem restoreFlops_keeps {s₀ s : State} (hK : Keeps s₀ s) (flops : SMap Ctx) (keep : Nat → Bool) : Keeps s₀ (restoreFlops flops keep s) := by
  unfold restoreFlops
  repeat' (first | with_reducible assumption | with_reducible apply Keeps.ite | with_reducible refine Keeps.foldl (fun _ _ _ => ?_) _ ?_ | with_reducible refine Keeps.foldl_fst (fun _ _ _ => ?_) _ ?_ | with_reducible refine Keeps.foldl_snd (fun _ _ _ => ?_) _ ?_ | with_reducible refine Keeps.foldl_trd (fun _ _ _ => ?_) _ ?_ | dsimp only | fail_if_no_progress (with_reducible refine Keeps.upd ?_ (by exact id) (by exact id) (by exact rfl)) | split)

theorem setBank_keeps {s₀ s : State} (hK : Keeps s₀ s) (b : Nat) : Keeps s₀ (setBank b s) := by
  unfold setBank
  repeat' (first | with_reducible assumption | with_reducible apply wrFld_keeps | with_reducible refine Keeps.foldl (fun _ _ _ => ?_) _ ?_ | dsimp only | fail_if_no_progress (with_reducible refine Keeps.upd ?_ (by exact id) (by exact id) (by exact rfl)))

theorem setCen_keeps {s₀ s : State} (hK : Keeps s₀ s) (v : Ctx) : Keeps s₀ (setCen v s) := by
  unfold setCen
  repeat' (first | with_reducible assumption | dsimp only | fail_if_no_progress (with_reducible refine Keeps.upd ?_ (by exact id) (by exact id) (by exact rfl)))

theorem freshRun_keeps {s₀ s : State} (hK : Keeps s₀ s)  : Keeps s₀ (freshRun s) := by
  unfold freshRun
  repeat' (first | with_reducible assumption | with_reducible apply idle_keeps | dsimp only | fail_if_no_progress (with_reducible refine Keeps.upd ?_ (by exact id) (by exact id) (by exact rfl)))

theorem setSegment_keeps {s₀ s : State} (hK : Keeps s₀ s) (ts : Nat) (first : Nat) : Keeps s₀ (setSegment ts first s) := by
  unfold setSegment
  repeat' (first | with_reducible assumption | dsimp only | fail_if_no_progress (with_reducible refine Keeps.upd ?_ (by exact id) (by exact id) (by exact rfl)))

theorem startReady_keeps {s₀ s : State} (hK : Keeps s₀ s) (ts : Nat) (first : Nat) : Keeps s₀ (startReady ts first s) := by
  unfold startReady
  repeat' (first | with_reducible assumption | with_reducible apply setSegment_keeps | with_reducible apply freshRun_keeps | with_reducible apply cmpStart_keeps | with_reducible apply enterEntry_keeps | with_reducible apply setBank_keeps | with_reducible apply showPorts_keeps | with_reducible apply Keeps.ite | dsimp only | fail_if_no_progress (with_reducible refine Keeps.upd ?_ (by exact id) (by exact id) (by exact rfl)) | split)

theorem startHeld_keeps {s₀ s : State} (hK : Keeps s₀ s) (ts : Nat) (first : Nat) : Keeps s₀ (startHeld ts first s) := by
  unfold startHeld
  repeat' (first | with_reducible assumption | with_reducible apply setSegment_keeps | with_reducible apply freshRun_keeps | with_reducible apply cmpResume_keeps | with_reducible apply showPorts_keeps | with_reducible apply Keeps.ite | with_reducible refine Keeps.foldl (fun _ _ _ => ?_) _ ?_ | dsimp only | fail_if_no_progress (with_reducible refine Keeps.upd ?_ (by exact id) (by exact id) (by exact rfl)) | split)

theorem startEv_keeps {s₀ s : State} (hK : Keeps s₀ s) (h : Option SpringHdr) (ts : Nat) (first : Nat) : Keeps s₀ (startEv h ts first s) := by
  unfold startEv
  repeat' (first | with_reducible assumption | with_reducible refine actOn_keeps ?_ (fun _ _ => ?_) | with_reducible refine fromHead_keeps ?_ (by assumption) | with_reducible apply fromHead_keepsP | with_reducible apply startReady_keeps | with_reducible apply startHeld_keeps | dsimp only | split)

theorem runSegmentStart_keeps {s₀ s : State} (hK : Keeps s₀ s)  : Keeps s₀ (runSegmentStart s) := by
  unfold runSegmentStart
  repeat' (first | with_reducible assumption | with_reducible apply timeReach_keeps | with_reducible apply rollbackFault_keeps | with_reducible apply tickBegin_keeps | with_reducible apply setPhase_keeps | with_reducible apply Keeps.ite | dsimp only | fail_if_no_progress (with_reducible refine Keeps.upd ?_ (by exact id) (by exact id) (by exact rfl)) | split)

theorem decideEv_keeps {s₀ s : State} (hK : Keeps s₀ s) (h : Option SpringHdr) (v : BitVec 16) (m : Nat) : Keeps s₀ (decideEv h v m s) := by
  unfold decideEv
  repeat' (first | with_reducible assumption | with_reducible refine actOn_keeps ?_ (fun _ _ => ?_) | with_reducible refine fromHead_keeps ?_ (by assumption) | with_reducible apply fromHead_keepsP | with_reducible apply decideLate_keeps | with_reducible apply Keeps.ite | dsimp only | fail_if_no_progress (with_reducible refine Keeps.upd ?_ (by exact id) (by exact id) (by exact rfl)) | split)

theorem cenEv_keeps {s₀ s : State} (hK : Keeps s₀ s) (h : Option SpringHdr) (v : Ctx) (e : Nat) : Keeps s₀ (cenEv h v e s) := by
  unfold cenEv
  repeat' (first | with_reducible assumption | with_reducible refine actOn_keeps ?_ (fun _ _ => ?_) | with_reducible refine fromHead_keeps ?_ (by assumption) | with_reducible apply fromHead_keepsP | with_reducible apply setCen_keeps | dsimp only | fail_if_no_progress (with_reducible refine Keeps.upd ?_ (by exact id) (by exact id) (by exact rfl)) | split)

theorem enterHeld_keeps {s₀ s : State} (hK : Keeps s₀ s)  : Keeps s₀ (enterHeld s) := by
  unfold enterHeld
  repeat' (first | with_reducible assumption | with_reducible apply idle_keeps | with_reducible apply showPorts_keeps | with_reducible apply setPhase_keeps | dsimp only | fail_if_no_progress (with_reducible refine Keeps.upd ?_ (by exact id) (by exact id) (by exact rfl)))

theorem checkHold_keeps {s₀ s : State} (hK : Keeps s₀ s)  : Keeps s₀ (checkHold s) := by
  unfold checkHold
  repeat' (first | with_reducible assumption | with_reducible apply idle_keeps | with_reducible apply enterHeld_keeps | with_reducible apply setPhase_keeps | with_reducible apply Keeps.ite | dsimp only | split)

theorem holdEv_keeps {s₀ s : State} (hK : Keeps s₀ s) (h : Option SpringHdr) (epoch : Nat) (cause : Nat) : Keeps s₀ (holdEv h epoch cause s) := by
  unfold holdEv
  repeat' (first | with_reducible assumption | with_reducible refine actOn_keeps ?_ (fun _ _ => ?_) | with_reducible refine fromHead_keeps ?_ (by assumption) | with_reducible apply fromHead_keepsP | with_reducible apply checkHold_keeps | with_reducible apply Keeps.ite | dsimp only | fail_if_no_progress (with_reducible refine Keeps.upd ?_ (by exact id) (by exact id) (by exact rfl)) | split)

theorem rootCommit_keeps {s₀ s : State} (hK : Keeps s₀ s)  : Keeps s₀ (rootCommit s) := by
  unfold rootCommit
  repeat' (first | with_reducible assumption | with_reducible apply rootOrder_keeps | with_reducible refine Keeps.whenDo ?_ (fun _ _ => ?_) | dsimp only | split)

theorem sendPass_keeps {s₀ s : State} (hK : Keeps s₀ s) (k : Nat) : Keeps s₀ (sendPass k s) := by
  unfold sendPass
  repeat' (first | with_reducible assumption | with_reducible apply rootCommit_keeps | with_reducible apply sendUp_keeps | with_reducible apply Keeps.ite | dsimp only | fail_if_no_progress (with_reducible refine Keeps.upd ?_ (by exact id) (by exact id) (by exact rfl)) | split)

theorem voteEv_keeps {s₀ s : State} (hK : Keeps s₀ s) (h : SpringHdr) (k : Nat) (pass : Bool) (stop : Bool) (cause : Nat) (dev : Nat) : Keeps s₀ (voteEv h k pass stop cause dev s) := by
  unfold voteEv
  repeat' (first | with_reducible assumption | with_reducible refine actOn_keeps ?_ (fun _ _ => ?_) | with_reducible refine fromChild_keeps ?_ (by assumption) | with_reducible apply fromChild_keepsP | with_reducible apply sendFail_keeps | with_reducible apply Keeps.ite | dsimp only | fail_if_no_progress (with_reducible refine Keeps.upd ?_ (by exact id) (by exact id) (by exact rfl)) | split)

theorem voteTimeout_keeps {s₀ s : State} (hK : Keeps s₀ s)  : Keeps s₀ (voteTimeout s) := by
  unfold voteTimeout
  repeat' (first | with_reducible assumption | with_reducible apply idle_keeps | with_reducible apply timeReach_keeps | with_reducible apply issueRollback_keeps | with_reducible apply setBit_keeps | with_reducible apply Keeps.ite | dsimp only | fail_if_no_progress (with_reducible refine Keeps.upd ?_ (by exact id) (by exact id) (by exact rfl)) | split)

theorem ckptResponse_keeps {s₀ s : State} (hK : Keeps s₀ s) (part : Nat) (epoch : Nat) (n : Nat) (ok : Bool) : Keeps s₀ (ckptResponse part epoch n ok s) := by
  unfold ckptResponse
  repeat' (first | with_reducible assumption | with_reducible apply failEpoch_keeps | with_reducible apply report_keeps | with_reducible apply Keeps.ite | dsimp only | fail_if_no_progress (with_reducible refine Keeps.upd ?_ (by exact id) (by exact id) (by exact rfl)) | split)

theorem drainLate_keeps {s₀ s : State} (hK : Keeps s₀ s) (k : Nat) : Keeps s₀ (drainLate k s) := by
  unfold drainLate
  repeat' (first | with_reducible assumption | with_reducible apply failEpoch_keeps | with_reducible apply setBit_keeps | with_reducible apply Keeps.ite | dsimp only | split)

theorem restoreDone_keeps {s₀ s : State} (hK : Keeps s₀ s)  : Keeps s₀ (restoreDone s) := by
  unfold restoreDone
  repeat' (first | with_reducible assumption | with_reducible apply sendUp_keeps | with_reducible apply enterHeld_keeps | with_reducible apply setBit_keeps | with_reducible apply Keeps.ite | with_reducible refine Keeps.whenDo ?_ (fun _ _ => ?_) | dsimp only | fail_if_no_progress (with_reducible refine Keeps.upd ?_ (by exact id) (by exact id) (by exact rfl)) | split)

theorem rbDoneEv_keeps {s₀ s : State} (hK : Keeps s₀ s) (h : SpringHdr) : Keeps s₀ (rbDoneEv h s) := by
  unfold rbDoneEv
  repeat' (first | with_reducible assumption | with_reducible refine actOn_keeps ?_ (fun _ _ => ?_) | with_reducible refine fromChild_keeps ?_ (by assumption) | with_reducible apply fromChild_keepsP | with_reducible apply Keeps.ite | dsimp only | fail_if_no_progress (with_reducible refine Keeps.upd ?_ (by exact id) (by exact id) (by exact rfl)) | split)

theorem rbFailEv_keeps {s₀ s : State} (hK : Keeps s₀ s) (h : SpringHdr) (cause : Nat) : Keeps s₀ (rbFailEv h cause s) := by
  unfold rbFailEv
  repeat' (first | with_reducible assumption | with_reducible refine actOn_keeps ?_ (fun _ _ => ?_) | with_reducible refine fromChild_keeps ?_ (by assumption) | with_reducible apply fromChild_keepsP | with_reducible apply restartRollback_keeps | with_reducible apply sendUp_keeps | with_reducible apply Keeps.ite | dsimp only | split)

end Sys2Proof.Machine
end

