-- ==== Sys2Proof/Laws/KeepsLinks.lean ====
section
/-! SUPPORT. What every operation of Machine/Links.lean keeps. -/

set_option linter.all false

namespace Sys2Proof.Machine

theorem setLinkState_keeps {s₀ s : State} (hK : Keeps s₀ s) (l : Nat) (n : Nat) : Keeps s₀ (setLinkState l n s) := by
  unfold setLinkState
  repeat' (first | with_reducible assumption | with_reducible apply wrFld_keeps | dsimp only)

theorem childGone_keeps {s₀ s : State} (hK : Keeps s₀ s) (i : Nat) : Keeps s₀ (childGone i s) := by
  unfold childGone
  repeat' (first | with_reducible assumption | with_reducible apply setBit_keeps | with_reducible apply Keeps.ite | dsimp only | fail_if_no_progress (with_reducible refine Keeps.upd ?_ (by exact id) (by exact id) (by exact rfl)) | split)

theorem leaveUp_keeps {s₀ s : State} (hK : Keeps s₀ s) (l : Nat) : Keeps s₀ (leaveUp l s) := by
  unfold leaveUp
  repeat' (first | with_reducible assumption | with_reducible apply putLink_keeps | with_reducible apply childGone_keeps | with_reducible apply failFrom_keeps | with_reducible apply Keeps.ite | with_reducible refine Keeps.whenDo ?_ (fun _ _ => ?_) | dsimp only | fail_if_no_progress (with_reducible refine Keeps.upd ?_ (by exact id) (by exact id) (by exact rfl)) | split)

theorem beginTraining_keeps {s₀ s : State} (hK : Keeps s₀ s) (l : Nat) : Keeps s₀ (beginTraining l s) := by
  unfold beginTraining
  repeat' (first | with_reducible assumption | with_reducible apply putLink_keeps | with_reducible apply leaveUp_keeps | with_reducible apply setLinkState_keeps | dsimp only | fail_if_no_progress (with_reducible refine Keeps.upd ?_ (by exact id) (by exact id) (by exact rfl)) | split)

theorem trainFail_keeps {s₀ s : State} (hK : Keeps s₀ s) (l : Nat) (cause : Nat) : Keeps s₀ (trainFail l cause s) := by
  unfold trainFail
  repeat' (first | with_reducible assumption | with_reducible apply wrFld_keeps | with_reducible apply setLinkState_keeps | with_reducible apply leaveUp_keeps | with_reducible apply beginTraining_keeps | with_reducible apply Keeps.ite | dsimp only | split)

theorem linkDown_keeps {s₀ s : State} (hK : Keeps s₀ s) (l : Nat) (cause : Nat) : Keeps s₀ (linkDown l cause s) := by
  unfold linkDown
  repeat' (first | with_reducible assumption | with_reducible apply beginTraining_keeps | with_reducible apply wrFld_keeps | dsimp only)

theorem trainCrc_keeps {s₀ s : State} (hK : Keeps s₀ s) (l : Nat) : Keeps s₀ (trainCrc l s) := by
  unfold trainCrc
  repeat' (first | with_reducible assumption | with_reducible apply putLink_keeps | with_reducible apply trainFail_keeps | with_reducible apply Keeps.ite | dsimp only | fail_if_no_progress (with_reducible refine Keeps.upd ?_ (by exact id) (by exact id) (by exact rfl)) | split)

theorem ts1_keeps {s₀ s : State} (hK : Keeps s₀ s) (l : Nat) (t : TrainSet) : Keeps s₀ (ts1 l t s) := by
  unfold ts1
  repeat' (first | with_reducible assumption | with_reducible apply trainCrc_keeps | with_reducible apply putLink_keeps | with_reducible apply Keeps.ite | dsimp only | fail_if_no_progress (with_reducible refine Keeps.upd ?_ (by exact id) (by exact id) (by exact rfl)) | split)

theorem ts2_keeps {s₀ s : State} (hK : Keeps s₀ s) (l : Nat) (t : TrainSet) : Keeps s₀ (ts2 l t s) := by
  unfold ts2
  repeat' (first | with_reducible assumption | with_reducible apply trainCrc_keeps | with_reducible apply trainFail_keeps | with_reducible apply putLink_keeps | with_reducible apply wrFld_keeps | with_reducible apply Keeps.ite | dsimp only | fail_if_no_progress (with_reducible refine Keeps.upd ?_ (by exact id) (by exact id) (by exact rfl)) | split)

theorem markEv_keeps {s₀ s : State} (hK : Keeps s₀ s) (l : Nat) (stamp : Nat) (step : Nat) : Keeps s₀ (markEv l stamp step s) := by
  unfold markEv
  repeat' (first | with_reducible assumption | with_reducible apply putLink_keeps | with_reducible apply Keeps.ite | dsimp only | fail_if_no_progress (with_reducible refine Keeps.upd ?_ (by exact id) (by exact id) (by exact rfl)) | split)

theorem markReturn_keeps {s₀ s : State} (hK : Keeps s₀ s) (l : Nat) (stamp : Nat) (step : Nat) : Keeps s₀ (markReturn l stamp step s) := by
  unfold markReturn
  repeat' (first | with_reducible assumption | with_reducible apply putLink_keeps | with_reducible apply markEcho_keeps | with_reducible apply Keeps.ite | dsimp only | fail_if_no_progress (with_reducible refine Keeps.upd ?_ (by exact id) (by exact id) (by exact rfl)) | split)

theorem markEcho_keeps {s₀ s : State} (hK : Keeps s₀ s) (l : Nat) (r : Nat) : Keeps s₀ (markEcho l r s) := by
  unfold markEcho
  repeat' (first | with_reducible assumption | with_reducible apply trainFail_keeps | with_reducible apply putLink_keeps | with_reducible apply Keeps.wrReg | with_reducible apply Keeps.ite | dsimp only | fail_if_no_progress (with_reducible refine Keeps.upd ?_ (by exact id) (by exact id) (by exact rfl)) | split)

theorem sendServiceFrom_keeps {s₀ s : State} (hK : Keeps s₀ s) (src : Nat) (l : Nat) (opc : Nat) (dst : Nat) (body : List Byte) : Keeps s₀ (sendServiceFrom src l opc dst body s) := by
  unfold sendServiceFrom
  repeat' (first | with_reducible assumption | with_reducible apply putLink_keeps | with_reducible apply Keeps.ite | dsimp only | fail_if_no_progress (with_reducible refine Keeps.upd ?_ (by exact id) (by exact id) (by exact rfl)) | split)

theorem sendService_keeps {s₀ s : State} (hK : Keeps s₀ s) (l : Nat) (opc : Nat) (dst : Nat) (body : List Byte) : Keeps s₀ (sendService l opc dst body s) :=
  sendServiceFrom_keeps hK _ l opc dst body

theorem sendServiceDown_keeps {s₀ s : State} (hK : Keeps s₀ s) (opc : Nat) (dst : Nat) (body : List Byte) : Keeps s₀ (sendServiceDown opc dst body s) := by
  unfold sendServiceDown
  repeat' (first | with_reducible assumption | with_reducible apply sendService_keeps | with_reducible refine Keeps.foldl (fun _ _ _ => ?_) _ ?_ | dsimp only)

theorem sendServiceUp_keeps {s₀ s : State} (hK : Keeps s₀ s) (opc : Nat) (dst : Nat) (body : List Byte) : Keeps s₀ (sendServiceUp opc dst body s) := by
  unfold sendServiceUp
  repeat' (first | with_reducible assumption | with_reducible apply sendService_keeps | dsimp only | split)

theorem resendRollback_keeps {s₀ s : State} (hK : Keeps s₀ s) (l : Nat) : Keeps s₀ (resendRollback l s) := by
  unfold resendRollback
  repeat' (first | with_reducible assumption | with_reducible apply sendSpring_keeps | with_reducible refine Keeps.whenDo ?_ (fun _ _ => ?_) | dsimp only | split)

theorem lateChild_keeps {s₀ s : State} (hK : Keeps s₀ s) (l : Nat) : Keeps s₀ (lateChild l s) := by
  unfold lateChild
  repeat' (first | with_reducible assumption | with_reducible apply setBit_keeps | with_reducible apply Keeps.ite | with_reducible refine Keeps.whenDo ?_ (fun _ _ => ?_) | dsimp only | fail_if_no_progress (with_reducible refine Keeps.upd ?_ (by exact id) (by exact id) (by exact rfl)) | split)

theorem probeChild_keeps {s₀ s : State} (hK : Keeps s₀ s) (l : Nat) : Keeps s₀ (probeChild l s) := by
  unfold probeChild
  repeat' (first | with_reducible assumption | with_reducible apply sendService_keeps | with_reducible apply Keeps.ite | dsimp only | split)

theorem enterUp_keeps {s₀ s : State} (hK : Keeps s₀ s) (l : Nat) : Keeps s₀ (enterUp l s) := by
  unfold enterUp
  repeat' (first | with_reducible assumption | with_reducible apply wrFld_keeps | with_reducible apply setLinkState_keeps | with_reducible apply putLink_keeps | with_reducible apply portShow_keeps | with_reducible apply probeChild_keeps | with_reducible apply resendRollback_keeps | with_reducible apply lateChild_keeps | with_reducible apply Keeps.ite | dsimp only | fail_if_no_progress (with_reducible refine Keeps.upd ?_ (by exact id) (by exact id) (by exact rfl)) | split)

theorem pinDone_keeps {s₀ s : State} (hK : Keeps s₀ s) (l : Nat) (lam : Nat) : Keeps s₀ (pinDone l lam s) := by
  unfold pinDone
  repeat' (first | with_reducible assumption | with_reducible apply wrFld_keeps | with_reducible apply trainFail_keeps | with_reducible apply enterUp_keeps | with_reducible apply Keeps.ite | dsimp only | split)

theorem linkStateDone_keeps {s₀ s : State} (hK : Keeps s₀ s) (l : Nat) (lam : Nat) : Keeps s₀ (linkStateDone l lam s) := by
  unfold linkStateDone
  repeat' (first | with_reducible assumption | with_reducible apply setLinkState_keeps | with_reducible apply enterUp_keeps | with_reducible apply pinDone_keeps | with_reducible apply Keeps.ite | dsimp only | split)

theorem linkStageTimeout_keeps {s₀ s : State} (hK : Keeps s₀ s) (l : Nat) : Keeps s₀ (linkStageTimeout l s) := by
  unfold linkStageTimeout
  repeat' (first | with_reducible assumption | with_reducible apply trainFail_keeps | with_reducible apply Keeps.ite | dsimp only | split)

theorem retrain_keeps {s₀ s : State} (hK : Keeps s₀ s) (l : Nat) : Keeps s₀ (retrain l s) := by
  unfold retrain
  repeat' (first | with_reducible assumption | with_reducible apply beginTraining_keeps | with_reducible apply wrFld_keeps | with_reducible apply Keeps.ite | dsimp only | split)

theorem laneLockLost_keeps {s₀ s : State} (hK : Keeps s₀ s) (p : Nat) : Keeps s₀ (laneLockLost p s) := by
  unfold laneLockLost
  repeat' (first | with_reducible assumption | with_reducible apply wrFld_keeps | with_reducible apply reportFail_keeps | with_reducible apply linkDown_keeps | with_reducible apply Keeps.ite | dsimp only | split)

theorem laneCrc_keeps {s₀ s : State} (hK : Keeps s₀ s) (p : Nat) : Keeps s₀ (laneCrc p s) := by
  unfold laneCrc
  repeat' (first | with_reducible assumption | with_reducible apply incFld_keeps | dsimp only)

theorem signalEv_keeps {s₀ s : State} (hK : Keeps s₀ s) (l : Nat) (slot : Nat) (bundle : Nat) (items : List (Bool × Ctx)) (lam : Nat) (lane : Nat) (good : Bool) : Keeps s₀ (signalEv l slot bundle items lam lane good s) := by
  unfold signalEv
  repeat' (first | with_reducible assumption | with_reducible apply failNow_keeps | with_reducible apply laneFault_keeps | with_reducible apply laneCrc_keeps | with_reducible apply setBit_keeps | with_reducible apply wrFld_keeps | with_reducible apply hostEvent_keeps | with_reducible apply putLink_keeps | with_reducible apply Keeps.ite | with_reducible refine Keeps.whenDo ?_ (fun _ _ => ?_) | dsimp only | fail_if_no_progress (with_reducible refine Keeps.upd ?_ (by exact id) (by exact id) (by exact rfl)) | split)

theorem latchWrite_keeps {s₀ s : State} (hK : Keeps s₀ s) (i : Nat) (t : Nat) (v : Ctx) : Keeps s₀ (latchWrite i t v s) := by
  unfold latchWrite
  repeat' (first | with_reducible assumption | with_reducible apply Keeps.ite | dsimp only | fail_if_no_progress (with_reducible refine Keeps.upd ?_ (by exact id) (by exact id) (by exact rfl)) | split)

theorem etxFault_keeps {s₀ s : State} (hK : Keeps s₀ s) (l : Nat) : Keeps s₀ (etxFault l s) := by
  unfold etxFault
  repeat' (first | with_reducible assumption | with_reducible apply report_keeps | with_reducible apply setBit_keeps | with_reducible apply failNow_keeps | dsimp only)

theorem signalRelease_keeps {s₀ s : State} (hK : Keeps s₀ s) (l : Nat) (slot : Nat) (step : Nat) (t : Nat) : Keeps s₀ (signalRelease l slot step t s) := by
  unfold signalRelease
  repeat' (first | with_reducible assumption | with_reducible apply etxFault_keeps | with_reducible apply latchWrite_keeps | with_reducible apply failNow_keeps | with_reducible apply setBit_keeps | with_reducible apply putLink_keeps | with_reducible apply Keeps.ite | with_reducible refine Keeps.whenDo ?_ (fun _ _ => ?_) | dsimp only | fail_if_no_progress (with_reducible refine Keeps.upd ?_ (by exact id) (by exact id) (by exact rfl)) | split)

theorem svcResend_keeps {s₀ s : State} (hK : Keeps s₀ s) (l : Nat) : Keeps s₀ (svcResend l s) := by
  unfold svcResend
  repeat' (first | with_reducible assumption | with_reducible apply linkDown_keeps | with_reducible apply putLink_keeps | with_reducible apply setBit_keeps | with_reducible apply Keeps.wrReg | with_reducible apply Keeps.ite | dsimp only | fail_if_no_progress (with_reducible refine Keeps.upd ?_ (by exact id) (by exact id) (by exact rfl)) | split)

theorem serviceEv_keeps {s₀ s : State} (hK : Keeps s₀ s) (l : Nat) (seq : Nat) (som : Bool) (eom : Bool) (body : List Byte) (lane : Nat) (good : Bool) : Keeps s₀ (serviceEv l seq som eom body lane good s) := by
  unfold serviceEv
  repeat' (first | with_reducible assumption | with_reducible apply putLink_keeps | with_reducible apply report_keeps | with_reducible apply laneCrc_keeps | with_reducible apply Keeps.ite | dsimp only | fail_if_no_progress (with_reducible refine Keeps.upd ?_ (by exact id) (by exact id) (by exact rfl)) | split)

theorem farChanged_keeps {s₀ s : State} (hK : Keeps s₀ s) (l : Nat) (dev : Nat) : Keeps s₀ (farChanged l dev s) := by
  unfold farChanged
  repeat' (first | with_reducible assumption | with_reducible apply putLink_keeps | with_reducible apply setBit_keeps | with_reducible refine Keeps.whenDo ?_ (fun _ _ => ?_) | dsimp only | fail_if_no_progress (with_reducible refine Keeps.upd ?_ (by exact id) (by exact id) (by exact rfl)))

theorem mgmtEv_keeps {s₀ s : State} (hK : Keeps s₀ s) (l : Nat) (ack : Nat) (nak : Bool) (dstate : Nat) (dev : Nat) (commit : Nat) (lane : Nat) (good : Bool) : Keeps s₀ (mgmtEv l ack nak dstate dev commit lane good s) := by
  unfold mgmtEv
  repeat' (first | with_reducible assumption | with_reducible apply laneCrc_keeps | with_reducible apply putLink_keeps | with_reducible apply svcResend_keeps | with_reducible apply farChanged_keeps | with_reducible apply Keeps.ite | with_reducible refine Keeps.whenDo ?_ (fun _ _ => ?_) | dsimp only | fail_if_no_progress (with_reducible refine Keeps.upd ?_ (by exact id) (by exact id) (by exact rfl)) | split)

theorem reservedFlit_keeps {s₀ s : State} (hK : Keeps s₀ s) (l : Nat) (lane : Nat) (kind : Nat) : Keeps s₀ (reservedFlit l lane kind s) := by
  unfold reservedFlit
  repeat' (first | with_reducible assumption | with_reducible apply failNow_keeps | with_reducible apply laneFault_keeps | with_reducible apply laneCrc_keeps | with_reducible apply streamCrc_keeps | with_reducible apply timeCrc_keeps | with_reducible apply Keeps.ite | dsimp only | split)

theorem sendMgmt_keeps {s₀ s : State} (hK : Keeps s₀ s) (l : Nat) (cmd : Nat) (clane : Nat) (cid : Nat) : Keeps s₀ (sendMgmt l cmd clane cid s) := by
  unfold sendMgmt
  repeat' (first | with_reducible assumption | dsimp only | fail_if_no_progress (with_reducible refine Keeps.upd ?_ (by exact id) (by exact id) (by exact rfl)))

theorem sendCmd_keeps {s₀ s : State} (hK : Keeps s₀ s) (l : Nat) (cmd : Nat) (clane : Nat) : Keeps s₀ (sendCmd l cmd clane s) := by
  unfold sendCmd
  repeat' (first | with_reducible assumption | with_reducible apply putLink_keeps | with_reducible apply sendMgmt_keeps | dsimp only | fail_if_no_progress (with_reducible refine Keeps.upd ?_ (by exact id) (by exact id) (by exact rfl)) | split)

theorem swapEv_keeps {s₀ s : State} (hK : Keeps s₀ s) (l : Nat) (lane : Nat) (cid : Nat) (step : Nat) : Keeps s₀ (swapEv l lane cid step s) := by
  unfold swapEv
  repeat' (first | with_reducible assumption | with_reducible apply sendMgmt_keeps | with_reducible apply putLink_keeps | with_reducible apply Keeps.ite | dsimp only | fail_if_no_progress (with_reducible refine Keeps.upd ?_ (by exact id) (by exact id) (by exact rfl)) | split)

theorem swapAck_keeps {s₀ s : State} (hK : Keeps s₀ s) (l : Nat) (cid : Nat) (step : Nat) : Keeps s₀ (swapAck l cid step s) := by
  unfold swapAck
  repeat' (first | with_reducible assumption | with_reducible apply putLink_keeps | with_reducible apply Keeps.ite | dsimp only | fail_if_no_progress (with_reducible refine Keeps.upd ?_ (by exact id) (by exact id) (by exact rfl)) | split)

theorem makeSpare_keeps {s₀ s : State} (hK : Keeps s₀ s) (l : Nat) (p : Nat) : Keeps s₀ (makeSpare l p s) := by
  unfold makeSpare
  repeat' (first | with_reducible assumption | with_reducible apply wrFld_keeps | dsimp only)

theorem retireLane_keeps {s₀ s : State} (hK : Keeps s₀ s) (l : Nat) (p : Nat) : Keeps s₀ (retireLane l p s) := by
  unfold retireLane
  repeat' (first | with_reducible assumption | with_reducible apply wrFld_keeps | dsimp only)

theorem swapLanes_keeps {s₀ s : State} (hK : Keeps s₀ s) (l : Nat) (i : Nat) : Keeps s₀ (swapLanes l i s) := by
  unfold swapLanes
  repeat' (first | with_reducible assumption | with_reducible apply retireLane_keeps | with_reducible apply wrFld_keeps | with_reducible apply incFld_keeps | dsimp only | split)

theorem swapSwitch_keeps {s₀ s : State} (hK : Keeps s₀ s) (l : Nat) : Keeps s₀ (swapSwitch l s) := by
  unfold swapSwitch
  repeat' (first | with_reducible assumption | with_reducible apply setBit_keeps | with_reducible apply swapLanes_keeps | with_reducible apply putLink_keeps | with_reducible apply Keeps.ite | dsimp only | fail_if_no_progress (with_reducible refine Keeps.upd ?_ (by exact id) (by exact id) (by exact rfl)) | split)

theorem bistOn_keeps {s₀ s : State} (hK : Keeps s₀ s) (l : Nat) (p : Nat) (cid : Nat) : Keeps s₀ (bistOn l p cid s) := by
  unfold bistOn
  repeat' (first | with_reducible assumption | with_reducible apply sendMgmt_keeps | with_reducible apply putLink_keeps | with_reducible apply Keeps.ite | dsimp only | fail_if_no_progress (with_reducible refine Keeps.upd ?_ (by exact id) (by exact id) (by exact rfl)) | split)

theorem laneReturn_keeps {s₀ s : State} (hK : Keeps s₀ s) (l : Nat) : Keeps s₀ (laneReturn l s) := by
  unfold laneReturn
  repeat' (first | with_reducible assumption | with_reducible apply makeSpare_keeps | with_reducible apply Keeps.ite | dsimp only | split)

theorem laneReturns_keeps {s₀ s : State} (hK : Keeps s₀ s)  : Keeps s₀ (laneReturns s) := by
  unfold laneReturns
  repeat' (first | with_reducible assumption | with_reducible apply laneReturn_keeps | with_reducible refine Keeps.foldl (fun _ _ _ => ?_) _ ?_ | dsimp only)

theorem laneBistDone_keeps {s₀ s : State} (hK : Keeps s₀ s) (p : Nat) (errors : Nat) : Keeps s₀ (laneBistDone p errors s) := by
  unfold laneBistDone
  repeat' (first | with_reducible assumption | with_reducible apply sendCmd_keeps | with_reducible apply putLink_keeps | with_reducible apply setBit_keeps | with_reducible apply wrFld_keeps | with_reducible apply laneReturn_keeps | with_reducible apply Keeps.ite | dsimp only | fail_if_no_progress (with_reducible refine Keeps.upd ?_ (by exact id) (by exact id) (by exact rfl)) | split)

theorem loopOn_keeps {s₀ s : State} (hK : Keeps s₀ s) (depth : Nat) (l : Nat) (lane : Nat) (cid : Nat) : Keeps s₀ (loopOn depth l lane cid s) := by
  unfold loopOn
  repeat' (first | with_reducible assumption | with_reducible apply sendMgmt_keeps | with_reducible apply putLink_keeps | with_reducible apply Keeps.ite | dsimp only | fail_if_no_progress (with_reducible refine Keeps.upd ?_ (by exact id) (by exact id) (by exact rfl)) | split)

theorem loopOff_keeps {s₀ s : State} (hK : Keeps s₀ s) (depth : Nat) (l : Nat) (lane : Nat) (cid : Nat) : Keeps s₀ (loopOff depth l lane cid s) := by
  unfold loopOff
  repeat' (first | with_reducible assumption | with_reducible apply sendMgmt_keeps | with_reducible apply putLink_keeps | with_reducible apply Keeps.ite | with_reducible refine Keeps.whenDo ?_ (fun _ _ => ?_) | dsimp only | fail_if_no_progress (with_reducible refine Keeps.upd ?_ (by exact id) (by exact id) (by exact rfl)) | split)

theorem cmdAck_keeps {s₀ s : State} (hK : Keeps s₀ s) (l : Nat) (cid : Nat) : Keeps s₀ (cmdAck l cid s) := by
  unfold cmdAck
  repeat' (first | with_reducible assumption | with_reducible apply putLink_keeps | with_reducible apply Keeps.ite | dsimp only | fail_if_no_progress (with_reducible refine Keeps.upd ?_ (by exact id) (by exact id) (by exact rfl)) | split)

theorem cmdRefuse_keeps {s₀ s : State} (hK : Keeps s₀ s) (l : Nat) (cid : Nat) : Keeps s₀ (cmdRefuse l cid s) := by
  unfold cmdRefuse
  repeat' (first | with_reducible assumption | with_reducible apply putLink_keeps | dsimp only | fail_if_no_progress (with_reducible refine Keeps.upd ?_ (by exact id) (by exact id) (by exact rfl)) | split)

theorem laneCntClr_keeps {s₀ s : State} (hK : Keeps s₀ s) (p : Nat) : Keeps s₀ (laneCntClr p s) := by
  unfold laneCntClr
  repeat' (first | with_reducible assumption | with_reducible apply Keeps.wrReg | with_reducible refine Keeps.foldl (fun _ _ _ => ?_) _ ?_ | dsimp only)

theorem laneCtrlWrite_keeps {s₀ s : State} (hK : Keeps s₀ s) (p : Nat) (v : Word) : Keeps s₀ (laneCtrlWrite p v s) := by
  unfold laneCtrlWrite
  repeat' (first | with_reducible assumption | with_reducible apply wrFld_keeps | with_reducible apply laneCntClr_keeps | with_reducible apply Keeps.wrReg | with_reducible apply Keeps.ite | with_reducible refine Keeps.whenDo ?_ (fun _ _ => ?_) | dsimp only | fail_if_no_progress (with_reducible refine Keeps.upd ?_ (by exact id) (by exact id) (by exact rfl)) | split)

theorem loopbackWrite_keeps {s₀ s : State} (hK : Keeps s₀ s) (l : Nat) (v : Word) : Keeps s₀ (loopbackWrite l v s) := by
  unfold loopbackWrite
  repeat' (first | with_reducible assumption | with_reducible apply sendCmd_keeps | with_reducible apply setLinkState_keeps | with_reducible apply Keeps.wrReg | with_reducible apply Keeps.ite | dsimp only | split)

theorem prbsBit_keeps {s₀ s : State} (hK : Keeps s₀ s) (p : Nat) (taps : Nat × Nat) (b : Bool) : Keeps s₀ (prbsBit p taps b s) := by
  unfold prbsBit
  repeat' (first | with_reducible assumption | with_reducible apply incFld_keeps | with_reducible apply wrFld_keeps | with_reducible apply Keeps.wrReg | with_reducible apply Keeps.ite | with_reducible refine Keeps.whenDo ?_ (fun _ _ => ?_) | dsimp only | fail_if_no_progress (with_reducible refine Keeps.upd ?_ (by exact id) (by exact id) (by exact rfl)) | split)

theorem prbsReceive_keeps {s₀ s : State} (hK : Keeps s₀ s) (p : Nat) (bits : List Bool) : Keeps s₀ (prbsReceive p bits s) := by
  unfold prbsReceive
  repeat' (first | with_reducible assumption | with_reducible apply prbsBit_keeps | with_reducible apply Keeps.ite | with_reducible refine Keeps.foldl (fun _ _ _ => ?_) _ ?_ | dsimp only | split)

end Sys2Proof.Machine
end

