-- ==== Sys2Proof/Laws/KeepsCrate.lean ====
section
/-! SUPPORT. What every operation of Machine/Crate.lean keeps. -/

set_option linter.all false

namespace Sys2Proof.Machine

theorem setEnum_keeps {s₀ s : State} (hK : Keeps s₀ s) (n : Nat) : Keeps s₀ (setEnum n s) := by
  unfold setEnum
  repeat' (first | with_reducible assumption | with_reducible apply wrFld_keeps | dsimp only)

theorem giveResp_keeps {s₀ s : State} (hK : Keeps s₀ s) (who : Requester) (st : RespStatus) (data : Word) : Keeps s₀ (giveResp who st data s) := by
  unfold giveResp
  repeat' (first | with_reducible assumption | dsimp only | fail_if_no_progress (with_reducible refine Keeps.upd ?_ (by exact id) (by exact id) (by exact rfl)))

theorem answer_keeps {s₀ s : State} (hK : Keeps s₀ s) (who : Requester) (write : Bool) (st : RespStatus) (data : Word) : Keeps s₀ (answer who write st data s) := by
  unfold answer
  repeat' (first | with_reducible assumption | with_reducible apply giveResp_keeps | with_reducible apply hostEvent_keeps | with_reducible apply setBit_keeps | with_reducible apply sendService_keeps | with_reducible apply Keeps.ite | dsimp only | fail_if_no_progress (with_reducible refine Keeps.upd ?_ (by exact id) (by exact id) (by exact rfl)) | split)

theorem remoteIssue_keeps {s₀ s : State} (hK : Keeps s₀ s) (who : Requester) (dev : Nat) (addr : Nat) (write : Bool) (data : Word) : Keeps s₀ (remoteIssue who dev addr write data s) := by
  unfold remoteIssue
  repeat' (first | with_reducible assumption | with_reducible apply sendService_keeps | with_reducible apply answer_keeps | with_reducible apply Keeps.ite | dsimp only | fail_if_no_progress (with_reducible refine Keeps.upd ?_ (by exact id) (by exact id) (by exact rfl)) | split)

theorem sendCount_keeps {s₀ s : State} (hK : Keeps s₀ s) (busy : Bool) (missing : Bool) (tooMany : Bool) (size : Nat) (depth : Nat) (tsub : Nat) : Keeps s₀ (sendCount busy missing tooMany size depth tsub s) := by
  unfold sendCount
  repeat' (first | with_reducible assumption | with_reducible apply sendServiceUp_keeps | dsimp only)

theorem enumFail_keeps {s₀ s : State} (hK : Keeps s₀ s) (cause : Nat) : Keeps s₀ (enumFail cause s) := by
  unfold enumFail
  repeat' (first | with_reducible assumption | with_reducible apply wrFld_keeps | with_reducible apply setEnum_keeps | with_reducible apply hostEvent_keeps | with_reducible apply sendServiceDown_keeps | dsimp only)

theorem assignDone_keeps {s₀ s : State} (hK : Keeps s₀ s)  : Keeps s₀ (assignDone s) := by
  unfold assignDone
  repeat' (first | with_reducible assumption | with_reducible apply setEnum_keeps | with_reducible apply hostEvent_keeps | with_reducible apply sendServiceUp_keeps | with_reducible apply Keeps.ite | dsimp only | split)

theorem assign_keeps {s₀ s : State} (hK : Keeps s₀ s) (base : Nat) (ndev : Nat) (depth : Nat) (arrive : Nat) (ttree : Nat) : Keeps s₀ (assign base ndev depth arrive ttree s) := by
  unfold assign
  repeat' (first | with_reducible assumption | with_reducible apply wrFld_keeps | with_reducible apply setEnum_keeps | with_reducible apply sendService_keeps | with_reducible apply assignDone_keeps | with_reducible refine Keeps.foldl (fun _ _ _ => ?_) _ ?_ | with_reducible refine Keeps.foldl_fst (fun _ _ _ => ?_) _ ?_ | with_reducible refine Keeps.foldl_snd (fun _ _ _ => ?_) _ ?_ | with_reducible refine Keeps.foldl_trd (fun _ _ _ => ?_) _ ?_ | dsimp only)

theorem rootDecideCount_keeps {s₀ s : State} (hK : Keeps s₀ s) (busy : Bool) (tooMany : Bool) (size : Nat) (tsub : Nat) : Keeps s₀ (rootDecideCount busy tooMany size tsub s) := by
  unfold rootDecideCount
  repeat' (first | with_reducible assumption | with_reducible apply enumFail_keeps | with_reducible apply assign_keeps | with_reducible apply Keeps.ite | dsimp only | split)

theorem countDone_keeps {s₀ s : State} (hK : Keeps s₀ s)  : Keeps s₀ (countDone s) := by
  unfold countDone
  repeat' (first | with_reducible assumption | with_reducible apply setBit_keeps | with_reducible apply wrFld_keeps | with_reducible apply rootDecideCount_keeps | with_reducible apply sendCount_keeps | with_reducible apply Keeps.wrReg | with_reducible apply Keeps.ite | with_reducible refine Keeps.foldl (fun _ _ _ => ?_) _ ?_ | dsimp only | fail_if_no_progress (with_reducible refine Keeps.upd ?_ (by exact id) (by exact id) (by exact rfl)) | split)

theorem probe_keeps {s₀ s : State} (hK : Keeps s₀ s) (g : Nat) : Keeps s₀ (probe g s) := by
  unfold probe
  repeat' (first | with_reducible assumption | with_reducible apply clrBit_keeps | with_reducible apply wrFld_keeps | with_reducible apply setEnum_keeps | with_reducible apply sendService_keeps | with_reducible apply countDone_keeps | with_reducible apply sendCount_keeps | with_reducible apply Keeps.wrReg | with_reducible apply Keeps.ite | with_reducible refine Keeps.whenDo ?_ (fun _ _ => ?_) | with_reducible refine Keeps.foldl (fun _ _ _ => ?_) _ ?_ | dsimp only | fail_if_no_progress (with_reducible refine Keeps.upd ?_ (by exact id) (by exact id) (by exact rfl)) | split)

theorem enumStart_keeps {s₀ s : State} (hK : Keeps s₀ s)  : Keeps s₀ (enumStart s) := by
  unfold enumStart
  repeat' (first | with_reducible assumption | with_reducible apply probe_keeps | dsimp only)

theorem blankFromBoot_keeps {s₀ s : State} (hK : Keeps s₀ s)  : Keeps s₀ (blankFromBoot s) := by
  unfold blankFromBoot
  repeat' (first | with_reducible assumption | with_reducible apply enumStart_keeps | with_reducible apply probe_keeps | with_reducible apply Keeps.ite | dsimp only | split)

theorem enCount_keeps {s₀ s : State} (hK : Keeps s₀ s) (l : Nat) (g : Nat) (a : ChildAns) : Keeps s₀ (enCount l g a s) := by
  unfold enCount
  repeat' (first | with_reducible assumption | with_reducible apply countDone_keeps | with_reducible apply Keeps.ite | with_reducible refine Keeps.whenDo ?_ (fun _ _ => ?_) | dsimp only | fail_if_no_progress (with_reducible refine Keeps.upd ?_ (by exact id) (by exact id) (by exact rfl)) | split)

theorem enDone_keeps {s₀ s : State} (hK : Keeps s₀ s) (l : Nat) (g : Nat) : Keeps s₀ (enDone l g s) := by
  unfold enDone
  repeat' (first | with_reducible assumption | with_reducible apply assignDone_keeps | with_reducible apply Keeps.ite | dsimp only | fail_if_no_progress (with_reducible refine Keeps.upd ?_ (by exact id) (by exact id) (by exact rfl)) | split)

theorem enFail_keeps {s₀ s : State} (hK : Keeps s₀ s) (l : Nat) (g : Nat) (cause : Nat) : Keeps s₀ (enFail l g cause s) := by
  unfold enFail
  repeat' (first | with_reducible assumption | with_reducible apply wrFld_keeps | with_reducible apply setEnum_keeps | with_reducible apply clrBit_keeps | with_reducible apply hostEvent_keeps | with_reducible apply sendServiceDown_keeps | with_reducible apply Keeps.ite | dsimp only | split)

theorem substatEv_keeps {s₀ s : State} (hK : Keeps s₀ s) (l : Nat) (w : Word) : Keeps s₀ (substatEv l w s) := by
  unfold substatEv
  repeat' (first | with_reducible assumption | dsimp only | fail_if_no_progress (with_reducible refine Keeps.upd ?_ (by exact id) (by exact id) (by exact rfl)) | split)

theorem substatPeriod_keeps {s₀ s : State} (hK : Keeps s₀ s)  : Keeps s₀ (substatPeriod s) := by
  unfold substatPeriod
  repeat' (first | with_reducible assumption | with_reducible apply sendServiceUp_keeps | with_reducible apply Keeps.ite | dsimp only | split)

end Sys2Proof.Machine
end

