-- ==== Sys2Proof/Laws/KeepsTime.lean ====
section
/-! SUPPORT. What every operation of Machine/Time.lean keeps. -/

set_option linter.all false

namespace Sys2Proof.Machine

theorem putGen_keeps {s₀ s : State} (hK : Keeps s₀ s) (n : Nat) (g : PulseGen) : Keeps s₀ (putGen n g s) := by
  unfold putGen
  repeat' (first | with_reducible assumption | dsimp only | fail_if_no_progress (with_reducible refine Keeps.upd ?_ (by exact id) (by exact id) (by exact rfl)))

theorem plsEndTrain_keeps {s₀ s : State} (hK : Keeps s₀ s) (n : Nat) : Keeps s₀ (plsEndTrain n s) := by
  unfold plsEndTrain
  repeat' (first | with_reducible assumption | with_reducible apply clrBit_keeps | with_reducible apply setBit_keeps | with_reducible apply Keeps.ite | dsimp only | split)

theorem plsSkip_keeps {s₀ s : State} (hK : Keeps s₀ s) (n : Nat) (i : Nat) : Keeps s₀ (plsSkip n i s) := by
  unfold plsSkip
  repeat' (first | with_reducible assumption | with_reducible apply plsEndTrain_keeps | with_reducible apply wrFld_keeps | with_reducible apply putGen_keeps | with_reducible apply Keeps.ite | dsimp only | fail_if_no_progress (with_reducible refine Keeps.upd ?_ (by exact id) (by exact id) (by exact rfl)) | split)

theorem plsStepped_keeps {s₀ s : State} (hK : Keeps s₀ s) (base : Nat) : Keeps s₀ (plsStepped base s) := by
  unfold plsStepped
  repeat' (first | with_reducible assumption | with_reducible apply plsSkip_keeps | with_reducible apply Keeps.ite | with_reducible refine Keeps.foldl (fun _ _ _ => ?_) _ ?_ | dsimp only | split)

theorem pulseArm_keeps {s₀ s : State} (hK : Keeps s₀ s) (n : Nat) (v : Word) : Keeps s₀ (pulseArm n v s) := by
  unfold pulseArm
  repeat' (first | with_reducible assumption | with_reducible apply putGen_keeps | with_reducible apply setBit_keeps | with_reducible apply clrBit_keeps | with_reducible apply plsSkip_keeps | with_reducible apply Keeps.wrReg | with_reducible apply Keeps.ite | dsimp only | fail_if_no_progress (with_reducible refine Keeps.upd ?_ (by exact id) (by exact id) (by exact rfl)) | split)

theorem pulseDisarm_keeps {s₀ s : State} (hK : Keeps s₀ s) (n : Nat) (v : Word) : Keeps s₀ (pulseDisarm n v s) := by
  unfold pulseDisarm
  repeat' (first | with_reducible assumption | with_reducible apply Keeps.wrReg | with_reducible apply Keeps.ite | dsimp only | split)

theorem pulseEdge_keeps {s₀ s : State} (hK : Keeps s₀ s) (n : Nat) : Keeps s₀ (pulseEdge n s) := by
  unfold pulseEdge
  repeat' (first | with_reducible assumption | with_reducible apply timeReach_keeps | with_reducible apply plsEndTrain_keeps | with_reducible apply setBit_keeps | with_reducible apply putGen_keeps | with_reducible apply Keeps.ite | dsimp only | fail_if_no_progress (with_reducible refine Keeps.upd ?_ (by exact id) (by exact id) (by exact rfl)) | split)

theorem pulseEnd_keeps {s₀ s : State} (hK : Keeps s₀ s) (n : Nat) : Keeps s₀ (pulseEnd n s) := by
  unfold pulseEnd
  repeat' (first | with_reducible assumption | with_reducible apply clrBit_keeps | with_reducible apply putGen_keeps | with_reducible apply timeReach_keeps | with_reducible apply Keeps.ite | dsimp only | fail_if_no_progress (with_reducible refine Keeps.upd ?_ (by exact id) (by exact id) (by exact rfl)) | split)

theorem wrTime_keeps {s₀ s : State} (hK : Keeps s₀ s) (a : Nat) (t : Nat) : Keeps s₀ (wrTime a t s) := by
  unfold wrTime
  repeat' (first | with_reducible assumption | with_reducible apply Keeps.wrReg | dsimp only)

theorem lawForce_keeps {s₀ s : State} (hK : Keeps s₀ s) (k : Nat) : Keeps s₀ (lawForce k s) := by
  unfold lawForce
  repeat' (first | with_reducible assumption | with_reducible apply clrBit_keeps | with_reducible apply setBit_keeps | with_reducible apply plsStepped_keeps | with_reducible apply Keeps.ite | dsimp only | fail_if_no_progress (with_reducible refine Keeps.upd ?_ (by exact id) (by exact id) (by exact rfl)) | split)

theorem lawSend_keeps {s₀ s : State} (hK : Keeps s₀ s) (k : Nat) : Keeps s₀ (lawSend k s) := by
  unfold lawSend
  repeat' (first | with_reducible assumption | with_reducible apply remoteIssue_keeps | with_reducible apply Keeps.ite | with_reducible refine Keeps.foldl (fun _ _ _ => ?_) _ ?_ | dsimp only | split)

theorem lawArm_keeps {s₀ s : State} (hK : Keeps s₀ s) (k : Nat) : Keeps s₀ (lawArm k s) := by
  unfold lawArm
  repeat' (first | with_reducible assumption | with_reducible apply setBit_keeps | with_reducible apply lawSend_keeps | with_reducible apply lawForce_keeps | with_reducible apply Keeps.ite | dsimp only | split)

theorem lawInForce_keeps {s₀ s : State} (hK : Keeps s₀ s) (k : Nat) : Keeps s₀ (lawInForce k s) := by
  unfold lawInForce
  repeat' (first | with_reducible assumption | with_reducible apply lawForce_keeps | with_reducible apply timeReach_keeps | with_reducible apply Keeps.ite | dsimp only | split)

theorem sampleEv_keeps {s₀ s : State} (hK : Keeps s₀ s) (l : Nat) (seq : Nat) (t1 : Nat) (t2 : Nat) (t3 : Nat) (t4 : Nat) (lane : Nat) (good : Bool) : Keeps s₀ (sampleEv l seq t1 t2 t3 t4 lane good s) := by
  unfold sampleEv
  repeat' (first | with_reducible assumption | with_reducible apply timeCrc_keeps | with_reducible apply timeSeq_keeps | with_reducible apply Keeps.ite | dsimp only | fail_if_no_progress (with_reducible refine Keeps.upd ?_ (by exact id) (by exact id) (by exact rfl)) | split)

theorem holdover_keeps {s₀ s : State} (hK : Keeps s₀ s)  : Keeps s₀ (holdover s) := by
  unfold holdover
  repeat' (first | with_reducible assumption | with_reducible apply clrBit_keeps | with_reducible apply setBit_keeps | with_reducible apply wrFld_keeps | with_reducible apply rootHold_keeps | with_reducible apply sendUp_keeps | with_reducible apply Keeps.ite | with_reducible refine Keeps.whenDo ?_ (fun _ _ => ?_) | dsimp only | fail_if_no_progress (with_reducible refine Keeps.upd ?_ (by exact id) (by exact id) (by exact rfl)) | split)

theorem servo_keeps {s₀ s : State} (hK : Keeps s₀ s) (th : Int) : Keeps s₀ (servo th s) := by
  unfold servo
  repeat' (first | with_reducible assumption | with_reducible apply plsStepped_keeps | with_reducible apply setBit_keeps | with_reducible apply Keeps.wrReg | with_reducible apply Keeps.ite | dsimp only | fail_if_no_progress (with_reducible refine Keeps.upd ?_ (by exact id) (by exact id) (by exact rfl)) | split)

theorem comparePaths_keeps {s₀ s : State} (hK : Keeps s₀ s)  : Keeps s₀ (comparePaths s) := by
  unfold comparePaths
  repeat' (first | with_reducible assumption | with_reducible apply setBit_keeps | with_reducible apply Keeps.wrReg | with_reducible apply Keeps.ite | dsimp only | fail_if_no_progress (with_reducible refine Keeps.upd ?_ (by exact id) (by exact id) (by exact rfl)) | split)

theorem frameMeans_keeps {s₀ s : State} (hK : Keeps s₀ s) (ppb : Int) : Keeps s₀ (frameMeans ppb s) := by
  unfold frameMeans
  repeat' (first | with_reducible assumption | with_reducible apply clrBit_keeps | with_reducible apply setBit_keeps | with_reducible apply Keeps.ite | with_reducible refine Keeps.whenDo ?_ (fun _ _ => ?_) | dsimp only | fail_if_no_progress (with_reducible refine Keeps.upd ?_ (by exact id) (by exact id) (by exact rfl)) | split)

theorem showMeans_keeps {s₀ s : State} (hK : Keeps s₀ s)  : Keeps s₀ (showMeans s) := by
  unfold showMeans
  repeat' (first | with_reducible assumption | with_reducible apply Keeps.wrReg | dsimp only)

theorem usePrim_keeps {s₀ s : State} (hK : Keeps s₀ s)  : Keeps s₀ (usePrim s) := by
  unfold usePrim
  repeat' (first | with_reducible assumption | with_reducible apply servo_keeps | dsimp only | split)

theorem useSec_keeps {s₀ s : State} (hK : Keeps s₀ s)  : Keeps s₀ (useSec s) := by
  unfold useSec
  repeat' (first | with_reducible assumption | with_reducible apply servo_keeps | dsimp only | split)

theorem framePath_keeps {s₀ s : State} (hK : Keeps s₀ s) (path : Nat) (lostP : Bool) (changed : Bool) (valid : Bool) (csOld : Word) : Keeps s₀ (framePath path lostP changed valid csOld s) := by
  unfold framePath
  repeat' (first | with_reducible assumption | with_reducible apply holdover_keeps | with_reducible apply useSec_keeps | with_reducible apply usePrim_keeps | with_reducible apply wrFld_keeps | with_reducible apply hostEvent_keeps | with_reducible apply setBit_keeps | with_reducible apply Keeps.wrReg | with_reducible apply Keeps.ite | dsimp only | split)

theorem judgePaths_keeps {s₀ s : State} (hK : Keeps s₀ s) (path : Nat) (changed : Bool) : Keeps s₀ (judgePaths path changed s) := by
  unfold judgePaths
  repeat' (first | with_reducible assumption | with_reducible apply comparePaths_keeps | with_reducible apply Keeps.ite | dsimp only | split)

theorem linkFrame_keeps {s₀ s0 : State} (hK : Keeps s₀ s0) (ppb : Int) : Keeps s₀ (linkFrame ppb s0) := by
  unfold linkFrame
  repeat' (first | with_reducible assumption | with_reducible apply timeReach_keeps | with_reducible apply setBit_keeps | with_reducible apply wrFld_keeps | with_reducible apply frameMeans_keeps | with_reducible apply judgePaths_keeps | with_reducible apply showMeans_keeps | with_reducible apply usePrim_keeps | with_reducible apply framePath_keeps | with_reducible apply Keeps.ite | with_reducible refine Keeps.whenDo ?_ (fun _ _ => ?_) | dsimp only | fail_if_no_progress (with_reducible refine Keeps.upd ?_ (by exact id) (by exact id) (by exact rfl)) | split)

theorem revertWrite_keeps {s₀ s : State} (hK : Keeps s₀ s)  : Keeps s₀ (revertWrite s) := by
  unfold revertWrite
  repeat' (first | with_reducible assumption | with_reducible apply Keeps.ite | dsimp only | fail_if_no_progress (with_reducible refine Keeps.upd ?_ (by exact id) (by exact id) (by exact rfl)) | split)

theorem ppsLaw_keeps {s₀ s : State} (hK : Keeps s₀ s) (p : Nat) (e : Int) (ref : Int) : Keeps s₀ (ppsLaw p e ref s) := by
  unfold ppsLaw
  repeat' (first | with_reducible assumption | with_reducible apply wrTime_keeps | with_reducible apply lawArm_keeps | with_reducible apply clrBit_keeps | with_reducible apply Keeps.wrReg | with_reducible apply Keeps.ite | dsimp only | split)

theorem ppsEdge_keeps {s₀ s0 : State} (hK : Keeps s₀ s0) (t : Nat) (ref : Int) : Keeps s₀ (ppsEdge t ref s0) := by
  unfold ppsEdge
  repeat' (first | with_reducible assumption | with_reducible apply timeReach_keeps | with_reducible apply setBit_keeps | with_reducible apply wrTime_keeps | with_reducible apply ppsLaw_keeps | with_reducible apply Keeps.wrReg | with_reducible apply Keeps.ite | with_reducible refine Keeps.whenDo ?_ (fun _ _ => ?_) | dsimp only | fail_if_no_progress (with_reducible refine Keeps.upd ?_ (by exact id) (by exact id) (by exact rfl)) | split)

theorem ppsLoss_keeps {s₀ s : State} (hK : Keeps s₀ s)  : Keeps s₀ (ppsLoss s) := by
  unfold ppsLoss
  repeat' (first | with_reducible assumption | with_reducible apply clrBit_keeps | with_reducible apply Keeps.ite | dsimp only | fail_if_no_progress (with_reducible refine Keeps.upd ?_ (by exact id) (by exact id) (by exact rfl)) | split)

theorem pllLockLoss_keeps {s₀ s : State} (hK : Keeps s₀ s)  : Keeps s₀ (pllLockLoss s) := by
  unfold pllLockLoss
  repeat' (first | with_reducible assumption | with_reducible apply clrBit_keeps | with_reducible apply enterSafe_keeps | with_reducible apply enterSafeOpen_keeps | with_reducible apply Keeps.ite | dsimp only | split)

theorem timCapture_keeps {s₀ s : State} (hK : Keeps s₀ s)  : Keeps s₀ (timCapture s) := by
  unfold timCapture
  repeat' (first | with_reducible assumption | dsimp only | fail_if_no_progress (with_reducible refine Keeps.upd ?_ (by exact id) (by exact id) (by exact rfl)))

end Sys2Proof.Machine
end

