-- ==== Sys2Proof/Laws/KeepsCellar.lean ====
section
/-! SUPPORT. What every operation of Machine/Cellar.lean keeps. -/

set_option linter.all false

namespace Sys2Proof.Machine

theorem celAnswer_keeps {s₀ s : State} (hK : Keeps s₀ s) (w : CelWho) (l : Nat) (status : Nat) (data : List Byte) : Keeps s₀ (celAnswer w l status data s) := by
  unfold celAnswer
  repeat' (first | with_reducible assumption | dsimp only | fail_if_no_progress (with_reducible refine Keeps.upd ?_ (by exact id) (by exact id) (by exact rfl)))

theorem freeBytes_keepsP {s₀ s : State} (hK : Keeps s₀ s) (n : Nat) : Keeps s₀ (freeBytes n s).2 := by
  unfold freeBytes
  repeat' (first | with_reducible assumption | with_reducible refine takeFree_keeps ?_ (by assumption) | with_reducible apply takeFree_keepsP | dsimp only | split)

theorem freeBytes_keeps {s₀ s tK : State} {n : Nat} {xK} (hK : Keeps s₀ s) (eK : freeBytes n s = (xK, tK)) : Keeps s₀ tK := by
  have h := freeBytes_keepsP hK n
  rw [eK] at h
  exact h

theorem openWindow_keeps {s₀ s : State} (hK : Keeps s₀ s) (w : CelWho) : Keeps s₀ (openWindow w s) := by
  unfold openWindow
  repeat' (first | with_reducible assumption | with_reducible apply openAlarm_keeps | dsimp only | fail_if_no_progress (with_reducible refine Keeps.upd ?_ (by exact id) (by exact id) (by exact rfl)) | split)

theorem readLine_keepsP {s₀ s : State} (hK : Keeps s₀ s) (w : CelWho) (l : Nat) (chk : Verdict) : Keeps s₀ (readLine w l chk s).2.2 := by
  unfold readLine
  repeat' (first | with_reducible assumption | with_reducible refine freeBytes_keeps ?_ (by assumption) | with_reducible apply freeBytes_keepsP | with_reducible apply openWindow_keeps | with_reducible apply lineChecked_keeps | with_reducible apply Keeps.ite | with_reducible apply Keeps.ite_fst | with_reducible apply Keeps.ite_snd | dsimp only | split)

theorem readLine_keeps {s₀ s tK : State} {w : CelWho} {l : Nat} {chk : Verdict} {xK yK} (hK : Keeps s₀ s) (eK : readLine w l chk s = (xK, yK, tK)) : Keeps s₀ tK := by
  have h := readLine_keepsP hK w l chk
  rw [eK] at h
  exact h

theorem cellarRead_keeps {s₀ s : State} (hK : Keeps s₀ s) (w : CelWho) (l : Nat) (chk : Verdict) : Keeps s₀ (cellarRead w l chk s) := by
  unfold cellarRead
  repeat' (first | with_reducible assumption | with_reducible refine readLine_keeps ?_ (by assumption) | with_reducible apply readLine_keepsP | with_reducible apply celAnswer_keeps | dsimp only | split)

theorem closeWindow_keeps {s₀ s : State} (hK : Keeps s₀ s) (epoch : Option Nat) : Keeps s₀ (closeWindow epoch s) := by
  unfold closeWindow
  repeat' (first | with_reducible assumption | dsimp only | fail_if_no_progress (with_reducible refine Keeps.upd ?_ (by exact id) (by exact id) (by exact rfl)) | split)

theorem lateAlarm_keeps {s₀ s : State} (hK : Keeps s₀ s) (epoch : Option Nat) (l : Nat) : Keeps s₀ (lateAlarm epoch l s) := by
  unfold lateAlarm
  repeat' (first | with_reducible assumption | with_reducible apply report_keeps | with_reducible apply incFld_keeps | with_reducible apply setBit_keeps | with_reducible apply rollbackFault_keeps | with_reducible apply failEpoch_keeps | with_reducible apply Keeps.ite | dsimp only | fail_if_no_progress (with_reducible refine Keeps.upd ?_ (by exact id) (by exact id) (by exact rfl)) | split)

theorem tagVerdict_keeps {s₀ s : State} (hK : Keeps s₀ s) (epoch : Option Nat) (l : Nat) (chk : Verdict) : Keeps s₀ (tagVerdict epoch l chk s) := by
  unfold tagVerdict
  repeat' (first | with_reducible assumption | with_reducible apply closeWindow_keeps | with_reducible apply lateAlarm_keeps | with_reducible apply lineChecked_keeps | with_reducible apply Keeps.ite | dsimp only | split)

theorem writeLine_keepsP {s₀ s : State} (hK : Keeps s₀ s) (w : CelWho) (l : Nat) (ofs : Nat) (bytes : List Byte) (chk : Verdict) : Keeps s₀ (writeLine w l ofs bytes chk s).1 := by
  unfold writeLine
  repeat' (first | with_reducible assumption | with_reducible apply setBit_keeps | with_reducible refine lineWrite_keeps ?_ (by assumption) | with_reducible apply lineWrite_keepsP | with_reducible apply Keeps.ite | with_reducible apply Keeps.ite_fst | with_reducible apply Keeps.ite_snd | dsimp only | split)

theorem writeLine_keeps {s₀ s tK : State} {w : CelWho} {l : Nat} {ofs : Nat} {bytes : List Byte} {chk : Verdict} {xK} (hK : Keeps s₀ s) (eK : writeLine w l ofs bytes chk s = (tK, xK)) : Keeps s₀ tK := by
  have h := writeLine_keepsP hK w l ofs bytes chk
  rw [eK] at h
  exact h

theorem cellarWrite_keeps {s₀ s : State} (hK : Keeps s₀ s) (w : CelWho) (l : Nat) (ofs : Nat) (bytes : List Byte) (chk : Verdict) : Keeps s₀ (cellarWrite w l ofs bytes chk s) := by
  unfold cellarWrite
  repeat' (first | with_reducible assumption | with_reducible refine writeLine_keeps ?_ (by assumption) | with_reducible apply writeLine_keepsP | with_reducible apply celAnswer_keeps | with_reducible apply Keeps.ite | dsimp only | split)

theorem releaseHeld_keeps {s₀ s : State} (hK : Keeps s₀ s) (l : Nat) : Keeps s₀ (releaseHeld l s) := by
  unfold releaseHeld
  repeat' (first | with_reducible assumption | with_reducible apply celAnswer_keeps | with_reducible apply performWrite_keeps | with_reducible refine Keeps.foldl (fun _ _ _ => ?_) _ ?_ | dsimp only | fail_if_no_progress (with_reducible refine Keeps.upd ?_ (by exact id) (by exact id) (by exact rfl)))

theorem rekeyLine_keeps {s₀ s : State} (hK : Keeps s₀ s) (l : Nat) (chk : Verdict) : Keeps s₀ (rekeyLine l chk s) := by
  unfold rekeyLine
  repeat' (first | with_reducible assumption | with_reducible apply setCtr_keeps | with_reducible apply lineChecked_keeps | with_reducible apply Keeps.ite | dsimp only | split)

theorem rekeyStep_keeps {s₀ s : State} (hK : Keeps s₀ s) (p : Nat) (chk : Verdict) : Keeps s₀ (rekeyStep p chk s) := by
  unfold rekeyStep
  repeat' (first | with_reducible assumption | with_reducible apply rekeyLine_keeps | with_reducible apply releaseHeld_keeps | with_reducible apply Keeps.ite | dsimp only | fail_if_no_progress (with_reducible refine Keeps.upd ?_ (by exact id) (by exact id) (by exact rfl)) | split)

theorem rekeyDone_keeps {s₀ s : State} (hK : Keeps s₀ s) (p : Nat) : Keeps s₀ (rekeyDone p s) := by
  unfold rekeyDone
  repeat' (first | with_reducible assumption | with_reducible apply incFld_keeps | with_reducible apply putKey_keeps | with_reducible apply rekeyNext_keeps | with_reducible apply Keeps.ite | dsimp only | fail_if_no_progress (with_reducible refine Keeps.upd ?_ (by exact id) (by exact id) (by exact rfl)) | split)

theorem resealStart_keeps {s₀ s : State} (hK : Keeps s₀ s)  : Keeps s₀ (resealStart s) := by
  unfold resealStart
  repeat' (first | with_reducible assumption | with_reducible apply incFld_keeps | with_reducible apply rekeyNext_keeps | with_reducible apply Keeps.ite | dsimp only | fail_if_no_progress (with_reducible refine Keeps.upd ?_ (by exact id) (by exact id) (by exact rfl)) | split)

theorem resealDone_keeps {s₀ s : State} (hK : Keeps s₀ s)  : Keeps s₀ (resealDone s) := by
  unfold resealDone
  repeat' (first | with_reducible assumption | with_reducible apply clrBit_keeps | with_reducible apply Keeps.ite | dsimp only | fail_if_no_progress (with_reducible refine Keeps.upd ?_ (by exact id) (by exact id) (by exact rfl)) | split)

theorem sealCellar_keeps {s₀ s : State} (hK : Keeps s₀ s)  : Keeps s₀ (sealCellar s) := by
  unfold sealCellar
  repeat' (first | with_reducible assumption | with_reducible apply incFld_keeps | with_reducible apply setBit_keeps | with_reducible apply upset_keeps | dsimp only | fail_if_no_progress (with_reducible refine Keeps.upd ?_ (by exact id) (by (first | exact id | exact Memory.wf_keep _ | exact fun _ => Memory.wf_nil)) (by exact rfl)))

theorem placePcs_keeps {s₀ s : State} (hK : Keeps s₀ s)  : Keeps s₀ (placePcs s) := by
  unfold placePcs
  repeat' (first | with_reducible assumption | with_reducible apply putPc_keeps | with_reducible apply Keeps.ite | with_reducible refine Keeps.foldl (fun _ _ _ => ?_) _ ?_ | dsimp only | split)

theorem retirePc_keeps {s₀ s : State} (hK : Keeps s₀ s) (pc : Nat) : Keeps s₀ (retirePc pc s) := by
  unfold retirePc
  repeat' (first | with_reducible assumption | with_reducible apply putPc_keeps | with_reducible apply Keeps.ite | dsimp only | fail_if_no_progress (with_reducible refine Keeps.upd ?_ (by exact id) (by exact id) (by exact rfl)) | split)

theorem reserveCopyDone_keeps {s₀ s : State} (hK : Keeps s₀ s) (pc : Nat) (bad : List Nat) : Keeps s₀ (reserveCopyDone pc bad s) := by
  unfold reserveCopyDone
  repeat' (first | with_reducible assumption | with_reducible apply poisonLine_keeps | with_reducible apply putPc_keeps | with_reducible apply Keeps.ite | with_reducible refine Keeps.foldl (fun _ _ _ => ?_) _ ?_ | dsimp only | fail_if_no_progress (with_reducible refine Keeps.upd ?_ (by exact id) (by exact id) (by exact rfl)) | split)

theorem blobCtrlWrite_keeps {s₀ s tK : State} {v : Word}  (hK : Keeps s₀ s) (eK : blobCtrlWrite v s = some tK) : Keeps s₀ tK := by
  unfold blobCtrlWrite at eK
  (try dsimp only at eK)
  (repeat' split at eK) <;> (first | cases eK | skip) <;> repeat' (first | with_reducible assumption | with_reducible apply Keeps.wrReg | with_reducible apply Keeps.ite | dsimp only | fail_if_no_progress (with_reducible refine Keeps.upd ?_ (by exact id) (by exact id) (by exact rfl)) | split)

theorem blobEnd_keeps {s₀ s : State} (hK : Keeps s₀ s) (status : Nat) (err : Nat) : Keeps s₀ (blobEnd status err s) := by
  unfold blobEnd
  repeat' (first | with_reducible assumption | with_reducible apply Keeps.wrReg | dsimp only | fail_if_no_progress (with_reducible refine Keeps.upd ?_ (by exact id) (by exact id) (by exact rfl)))

theorem blobDone_keeps {s₀ s : State} (hK : Keeps s₀ s)  : Keeps s₀ (blobDone s) := by
  unfold blobDone
  repeat' (first | with_reducible assumption | with_reducible apply blobEnd_keeps | with_reducible apply celPut_keeps | with_reducible apply Keeps.ite | dsimp only | split)

end Sys2Proof.Machine
end

