-- ==== Sys2Proof/Laws/KeepsTasks.lean ====
section
/-! SUPPORT. What every operation of Machine/Tasks.lean keeps. -/

set_option linter.all false

namespace Sys2Proof.Machine

theorem putSched_keeps {s₀ s : State} (hK : Keeps s₀ s) (p : Nat) (x : Sched) : Keeps s₀ (putSched p x s) := by
  unfold putSched
  repeat' (first | with_reducible assumption | dsimp only | fail_if_no_progress (with_reducible refine Keeps.upd ?_ (by exact id) (by exact id) (by exact rfl)))

theorem putCore_keeps {s₀ s : State} (hK : Keeps s₀ s) (p : Nat) (x : Steward) : Keeps s₀ (putCore p x s) := by
  unfold putCore
  repeat' (first | with_reducible assumption | dsimp only | fail_if_no_progress (with_reducible refine Keeps.upd ?_ (by exact id) (by exact id) (by exact rfl)))

theorem raiseLine_keeps {s₀ s : State} (hK : Keeps s₀ s) (p : Nat) (line : Nat) : Keeps s₀ (raiseLine p line s) := by
  unfold raiseLine
  repeat' (first | with_reducible assumption | with_reducible apply wakeLine_keeps | with_reducible apply putCore_keeps | dsimp only | fail_if_no_progress (with_reducible refine Keeps.upd ?_ (by exact id) (by exact id) (by exact rfl)))

theorem commitSched_keeps {s₀ s : State} (hK : Keeps s₀ s) (p : Nat) (x : Sched) : Keeps s₀ (commitSched p x s) := by
  unfold commitSched
  repeat' (first | with_reducible assumption | with_reducible apply raiseLine_keeps | with_reducible apply putSched_keeps | with_reducible refine Keeps.whenDo ?_ (fun _ _ => ?_) | dsimp only)

theorem postRefused_keeps {s₀ s : State} (hK : Keeps s₀ s) (p : Nat) (f : Nat) : Keeps s₀ (postRefused p f s) := by
  unfold postRefused
  repeat' (first | with_reducible assumption | with_reducible apply incFld_keeps | with_reducible apply setBit_keeps | dsimp only)

theorem schedPost_keepsP {s₀ s : State} (hK : Keeps s₀ s) (p : Nat) (f : Nat) (item : Word) : Keeps s₀ (schedPost p f item s).2 := by
  unfold schedPost
  repeat' (first | with_reducible assumption | with_reducible apply postRefused_keeps | with_reducible apply commitSched_keeps | with_reducible apply Keeps.ite | with_reducible apply Keeps.ite_fst | with_reducible apply Keeps.ite_snd | dsimp only | fail_if_no_progress (with_reducible refine Keeps.upd ?_ (by exact id) (by exact id) (by exact rfl)) | split)

theorem schedPost_keeps {s₀ s tK : State} {p : Nat} {f : Nat} {item : Word} {xK} (hK : Keeps s₀ s) (eK : schedPost p f item s = (xK, tK)) : Keeps s₀ tK := by
  have h := schedPost_keepsP hK p f item
  rw [eK] at h
  exact h

theorem itemLost_keeps {s₀ s : State} (hK : Keeps s₀ s) (p : Nat) (f : Nat) : Keeps s₀ (itemLost p f s) := by
  unfold itemLost
  repeat' (first | with_reducible assumption | with_reducible apply report_keeps | with_reducible apply setBit_keeps | dsimp only)

theorem readHead_keepsP {s₀ s : State} (hK : Keeps s₀ s) (p : Nat) (f : Nat) (n : Nat) : Keeps s₀ (readHead p f n s).2 := by
  induction n generalizing s p f with
  | zero => exact hK
  | succ n ih =>
    unfold readHead
    repeat' (first | with_reducible assumption | with_reducible apply ih | with_reducible apply putSched_keeps | with_reducible apply itemLost_keeps | with_reducible apply Keeps.ite | with_reducible apply Keeps.ite_fst | with_reducible apply Keeps.ite_snd | dsimp only | fail_if_no_progress (with_reducible refine Keeps.upd ?_ (by exact id) (by exact id) (by exact rfl)) | split)

theorem readHead_keeps {s₀ s tK : State} {p : Nat} {f : Nat} {n : Nat} {xK} (hK : Keeps s₀ s) (eK : readHead p f n s = (xK, tK)) : Keeps s₀ tK := by
  have h := readHead_keepsP hK p f n
  rw [eK] at h
  exact h

theorem schedClaim_keepsP {s₀ s : State} (hK : Keeps s₀ s) (p : Nat) (slot : Nat) (f : Nat) : Keeps s₀ (schedClaim p slot f s).2 := by
  unfold schedClaim
  repeat' (first | with_reducible assumption | with_reducible refine readHead_keeps ?_ (by assumption) | with_reducible apply readHead_keepsP | with_reducible apply putSched_keeps | with_reducible apply Keeps.ite | with_reducible apply Keeps.ite_fst | with_reducible apply Keeps.ite_snd | dsimp only | fail_if_no_progress (with_reducible refine Keeps.upd ?_ (by exact id) (by exact id) (by exact rfl)) | split)

theorem schedClaim_keeps {s₀ s tK : State} {p : Nat} {slot : Nat} {f : Nat} {xK} (hK : Keeps s₀ s) (eK : schedClaim p slot f s = (xK, tK)) : Keeps s₀ tK := by
  have h := schedClaim_keepsP hK p slot f
  rw [eK] at h
  exact h

theorem schedRelease_keeps {s₀ s tK : State} {p : Nat} {slot : Nat} {f : Nat}  (hK : Keeps s₀ s) (eK : schedRelease p slot f s = some tK) : Keeps s₀ tK := by
  unfold schedRelease at eK
  (try dsimp only at eK)
  (repeat' split at eK) <;> (first | cases eK | skip) <;> repeat' (first | with_reducible assumption | with_reducible apply commitSched_keeps | with_reducible apply Keeps.ite | dsimp only | split)

theorem tskCmd_keeps {s₀ s tK : State} {p : Nat} {v : Word} (hK : Keeps s₀ s) (eK : tskCmd p v s = some tK) : Keeps s₀ tK := by
  obtain ⟨x, _, rfl⟩ := Option.map_eq_some_iff.1 eK
  exact commitSched_keeps hK _ _

theorem tskClear_keeps {s₀ s : State} (hK : Keeps s₀ s) (p : Nat) : Keeps s₀ (tskClear p s) := by
  unfold tskClear
  repeat' (first | with_reducible assumption | with_reducible apply putSched_keeps | with_reducible apply Keeps.wrReg | with_reducible refine Keeps.foldl (fun _ _ _ => ?_) _ ?_ | dsimp only | fail_if_no_progress (with_reducible refine Keeps.upd ?_ (by exact id) (by exact id) (by exact rfl)))

theorem tskCtrlWrite_keeps {s₀ s : State} (hK : Keeps s₀ s) (p : Nat) (v : Word) : Keeps s₀ (tskCtrlWrite p v s) := by
  unfold tskCtrlWrite
  repeat' (first | with_reducible assumption | with_reducible apply tskClear_keeps | with_reducible apply Keeps.wrReg | with_reducible refine Keeps.whenDo ?_ (fun _ _ => ?_) | dsimp only)

theorem schedRestart_keeps {s₀ s : State} (hK : Keeps s₀ s) (p : Nat) : Keeps s₀ (schedRestart p s) := by
  unfold schedRestart
  repeat' (first | with_reducible assumption | with_reducible apply putSched_keeps | dsimp only | fail_if_no_progress (with_reducible refine Keeps.upd ?_ (by exact id) (by exact id) (by exact rfl)))

theorem schedMove_keeps {s₀ s : State} (hK : Keeps s₀ s) (p : Nat) (q : Nat) : Keeps s₀ (schedMove p q s) := by
  unfold schedMove
  repeat' (first | with_reducible assumption | with_reducible apply report_keeps | with_reducible apply setBit_keeps | with_reducible apply putSched_keeps | with_reducible apply Keeps.wrReg | with_reducible apply Keeps.ite | with_reducible refine Keeps.foldl (fun _ _ _ => ?_) _ ?_ | with_reducible refine Keeps.foldl_fst (fun _ _ _ => ?_) _ ?_ | with_reducible refine Keeps.foldl_snd (fun _ _ _ => ?_) _ ?_ | with_reducible refine Keeps.foldl_trd (fun _ _ _ => ?_) _ ?_ | dsimp only | fail_if_no_progress (with_reducible refine Keeps.upd ?_ (by exact id) (by exact id) (by exact rfl)) | split)

theorem deadlineMiss_keeps {s₀ s : State} (hK : Keeps s₀ s) (p : Nat) (i : Nat) : Keeps s₀ (deadlineMiss p i s) := by
  unfold deadlineMiss
  repeat' (first | with_reducible assumption | with_reducible apply incFld_keeps | with_reducible apply setBit_keeps | with_reducible apply putSched_keeps | with_reducible apply Keeps.ite | dsimp only | fail_if_no_progress (with_reducible refine Keeps.upd ?_ (by exact id) (by exact id) (by exact rfl)) | split)

theorem nigorTick_keeps {s₀ s : State} (hK : Keeps s₀ s) (p : Nat) : Keeps s₀ (nigorTick p s) := by
  unfold nigorTick
  repeat' (first | with_reducible assumption | with_reducible apply wakeShelf_keeps | with_reducible apply raiseLine_keeps | with_reducible apply commitSched_keeps | with_reducible apply Keeps.wrReg | with_reducible apply Keeps.ite | with_reducible refine Keeps.whenDo ?_ (fun _ _ => ?_) | with_reducible refine Keeps.foldl (fun _ _ _ => ?_) _ ?_ | with_reducible refine Keeps.foldl_fst (fun _ _ _ => ?_) _ ?_ | with_reducible refine Keeps.foldl_snd (fun _ _ _ => ?_) _ ?_ | with_reducible refine Keeps.foldl_trd (fun _ _ _ => ?_) _ ?_ | dsimp only | fail_if_no_progress (with_reducible refine Keeps.upd ?_ (by exact id) (by exact id) (by exact rfl)) | split)

theorem tskNtickWrite_keeps {s₀ s tK : State} {p : Nat} {v : Word}  (hK : Keeps s₀ s) (eK : tskNtickWrite p v s = some tK) : Keeps s₀ tK := by
  unfold tskNtickWrite at eK
  (try dsimp only at eK)
  (repeat' split at eK) <;> (first | cases eK | skip) <;> repeat' (first | with_reducible assumption | with_reducible apply putSched_keeps | with_reducible apply Keeps.wrReg | with_reducible apply Keeps.ite | dsimp only | fail_if_no_progress (with_reducible refine Keeps.upd ?_ (by exact id) (by exact id) (by exact rfl)) | split)

theorem tskLimitWrite_keeps {s₀ s tK : State} {p : Nat} {f : Nat} {v : Word}  (hK : Keeps s₀ s) (eK : tskLimitWrite p f v s = some tK) : Keeps s₀ tK := by
  unfold tskLimitWrite at eK
  (try dsimp only at eK)
  (repeat' split at eK) <;> (first | cases eK | skip) <;> repeat' (first | with_reducible assumption | with_reducible apply Keeps.wrReg | with_reducible apply Keeps.ite | dsimp only | split)

theorem moverPost_keeps {s₀ s : State} (hK : Keeps s₀ s) (p : Nat) (f : Nat) (item : Word) : Keeps s₀ (moverPost p f item s) := by
  unfold moverPost
  repeat' (first | with_reducible assumption | with_reducible refine schedPost_keeps ?_ (by assumption) | with_reducible apply schedPost_keepsP | with_reducible apply wakeShelf_keeps | with_reducible apply putGate_keeps | with_reducible apply Keeps.ite | dsimp only | fail_if_no_progress (with_reducible refine Keeps.upd ?_ (by exact id) (by exact id) (by exact rfl)) | split)

theorem moverEpochDone_keeps {s₀ s : State} (hK : Keeps s₀ s)  : Keeps s₀ (moverEpochDone s) := by
  unfold moverEpochDone
  repeat' (first | with_reducible assumption | with_reducible apply moverFinish_keeps | with_reducible apply moverPost_keeps | with_reducible apply moverNext_keeps | with_reducible apply Keeps.ite | with_reducible refine Keeps.foldl (fun _ _ _ => ?_) _ ?_ | dsimp only | split)

end Sys2Proof.Machine
end

