-- ==== Sys2Proof/Laws/KeepsTrace.lean ====
section
/-! SUPPORT. What every operation of Machine/Trace.lean keeps. -/

set_option linter.all false

namespace Sys2Proof.Machine

theorem putSrc_keeps {s₀ s : State} (hK : Keeps s₀ s) (k : Nat) (x : TrcSrc) : Keeps s₀ (putSrc k x s) := by
  unfold putSrc
  repeat' (first | with_reducible assumption | dsimp only | fail_if_no_progress (with_reducible refine Keeps.upd ?_ (by exact id) (by exact id) (by exact rfl)))

theorem emit_keeps {s₀ s : State} (hK : Keeps s₀ s) (k : Nat) (bytes : List Byte) : Keeps s₀ (emit k bytes s) := by
  unfold emit
  repeat' (first | with_reducible assumption | with_reducible apply putSrc_keeps | with_reducible apply Keeps.ite | dsimp only | fail_if_no_progress (with_reducible refine Keeps.upd ?_ (by exact id) (by exact id) (by exact rfl)) | split)

theorem emitCyc_keeps {s₀ s : State} (hK : Keeps s₀ s) (p : Nat) (k : Nat) : Keeps s₀ (emitCyc p k s) := by
  unfold emitCyc
  repeat' (first | with_reducible assumption | with_reducible apply emit_keeps | with_reducible apply putSrc_keeps | with_reducible apply Keeps.ite | dsimp only | fail_if_no_progress (with_reducible refine Keeps.upd ?_ (by exact id) (by exact id) (by exact rfl)) | split)

theorem closeAtoms_keeps {s₀ s : State} (hK : Keeps s₀ s) (p : Nat) (k : Nat) : Keeps s₀ (closeAtoms p k s) := by
  unfold closeAtoms
  repeat' (first | with_reducible assumption | with_reducible apply emit_keeps | with_reducible apply emitCyc_keeps | with_reducible apply putSrc_keeps | with_reducible apply Keeps.ite | dsimp only | fail_if_no_progress (with_reducible refine Keeps.upd ?_ (by exact id) (by exact id) (by exact rfl)) | split)

theorem emitAtom_keeps {s₀ s : State} (hK : Keeps s₀ s) (p : Nat) (k : Nat) (b : Bool) : Keeps s₀ (emitAtom p k b s) := by
  unfold emitAtom
  repeat' (first | with_reducible assumption | with_reducible apply putSrc_keeps | with_reducible apply closeAtoms_keeps | with_reducible apply Keeps.ite | dsimp only | fail_if_no_progress (with_reducible refine Keeps.upd ?_ (by exact id) (by exact id) (by exact rfl)) | split)

theorem emitInd_keeps {s₀ s : State} (hK : Keeps s₀ s) (p : Nat) (k : Nat) (t : Word) : Keeps s₀ (emitInd p k t s) := by
  unfold emitInd
  repeat' (first | with_reducible assumption | with_reducible apply emitCyc_keeps | with_reducible apply closeAtoms_keeps | with_reducible apply emit_keeps | with_reducible apply putSrc_keeps | dsimp only | fail_if_no_progress (with_reducible refine Keeps.upd ?_ (by exact id) (by exact id) (by exact rfl)))

theorem emitExc_keeps {s₀ s : State} (hK : Keeps s₀ s) (p : Nat) (k : Nat) (epc : Word) (cause : Nat) (line : Nat) : Keeps s₀ (emitExc p k epc cause line s) := by
  unfold emitExc
  repeat' (first | with_reducible assumption | with_reducible apply emitCyc_keeps | with_reducible apply closeAtoms_keeps | with_reducible apply emit_keeps | with_reducible apply putSrc_keeps | dsimp only | fail_if_no_progress (with_reducible refine Keeps.upd ?_ (by exact id) (by exact id) (by exact rfl)))

theorem emitSync_keeps {s₀ s : State} (hK : Keeps s₀ s) (timed : Bool) (p : Nat) (k : Nat) : Keeps s₀ (emitSync timed p k s) := by
  unfold emitSync
  repeat' (first | with_reducible assumption | with_reducible apply putSrc_keeps | with_reducible apply emit_keeps | with_reducible apply Keeps.ite | dsimp only | fail_if_no_progress (with_reducible refine Keeps.upd ?_ (by exact id) (by exact id) (by exact rfl)) | split)

theorem emitPwr_keeps {s₀ s : State} (hK : Keeps s₀ s) (reason : Nat) (p : Nat) (k : Nat) : Keeps s₀ (emitPwr reason p k s) := by
  unfold emitPwr
  repeat' (first | with_reducible assumption | with_reducible apply closeAtoms_keeps | with_reducible apply emit_keeps | with_reducible apply putSrc_keeps | dsimp only | fail_if_no_progress (with_reducible refine Keeps.upd ?_ (by exact id) (by exact id) (by exact rfl)))

theorem traced_keeps {s₀ s : State} {p : Nat} {f : Nat → State → State} (h : Keeps s₀ s)
    (hf : ∀ k x, Keeps s₀ x → Keeps s₀ (f k x)) : Keeps s₀ (traced p f s) := by
  unfold traced
  repeat' (first | assumption | exact hf _ _ h | split)

theorem emitGin_keeps {s₀ s : State} (hK : Keeps s₀ s) (p : Nat) (k : Nat) : Keeps s₀ (emitGin p k s) := by
  unfold emitGin
  repeat' (first | with_reducible assumption | with_reducible apply closeAtoms_keeps | with_reducible apply emit_keeps | with_reducible apply putSrc_keeps | dsimp only | fail_if_no_progress (with_reducible refine Keeps.upd ?_ (by exact id) (by exact id) (by exact rfl)))

theorem emitGout_keeps {s₀ s : State} (hK : Keeps s₀ s) (p : Nat) (k : Nat) : Keeps s₀ (emitGout p k s) := by
  unfold emitGout
  repeat' (first | with_reducible assumption | with_reducible apply emit_keeps | with_reducible apply putSrc_keeps | dsimp only | fail_if_no_progress (with_reducible refine Keeps.upd ?_ (by exact id) (by exact id) (by exact rfl)) | split)

theorem traceGrantEnds_keeps {s₀ s : State} (hK : Keeps s₀ s)  : Keeps s₀ (traceGrantEnds s) := by
  unfold traceGrantEnds
  repeat' (first | with_reducible assumption | with_reducible apply emitGin_keeps | with_reducible apply Keeps.ite | with_reducible refine Keeps.foldl (fun _ _ _ => ?_) _ ?_ | dsimp only | split)

theorem recoverDrop_keeps {s₀ s : State} (hK : Keeps s₀ s) (k : Nat) : Keeps s₀ (recoverDrop k s) := by
  unfold recoverDrop
  repeat' (first | with_reducible assumption | with_reducible apply putSrc_keeps | with_reducible apply setBit_keeps | with_reducible apply emit_keeps | with_reducible apply Keeps.wrReg | with_reducible apply Keeps.ite | dsimp only | fail_if_no_progress (with_reducible refine Keeps.upd ?_ (by exact id) (by exact id) (by exact rfl)) | split)

theorem traceBoundary_keeps {s₀ s : State} (hK : Keeps s₀ s) (p : Nat) : Keeps s₀ (traceBoundary p s) := by
  unfold traceBoundary
  repeat' (first | with_reducible assumption | with_reducible refine traced_keeps ?_ (fun _ _ _ => ?_) | with_reducible apply recoverDrop_keeps | with_reducible apply emitSync_keeps | with_reducible apply closeAtoms_keeps | with_reducible apply Keeps.ite | dsimp only | split)

theorem trcSrcWrite_keeps {s₀ s tK : State} {k : Nat} {v : Word}  (hK : Keeps s₀ s) (eK : trcSrcWrite k v s = some tK) : Keeps s₀ tK := by
  unfold trcSrcWrite at eK
  (try dsimp only at eK)
  (repeat' split at eK) <;> (first | cases eK | skip) <;> repeat' (first | with_reducible assumption | with_reducible apply closeAtoms_keeps | with_reducible apply putSrc_keeps | with_reducible apply Keeps.wrReg | with_reducible apply Keeps.ite | dsimp only | fail_if_no_progress (with_reducible refine Keeps.upd ?_ (by exact id) (by exact id) (by exact rfl)) | split)

theorem trcCtrlWrite_keeps {s₀ s tK : State} {v : Word}  (hK : Keeps s₀ s) (eK : trcCtrlWrite v s = some tK) : Keeps s₀ tK := by
  unfold trcCtrlWrite at eK
  (try dsimp only at eK)
  (repeat' split at eK) <;> (first | cases eK | skip) <;> repeat' (first | with_reducible assumption | with_reducible apply Keeps.wrReg | with_reducible apply Keeps.ite | dsimp only | split)

theorem traceFrame_keeps {s₀ s : State} (hK : Keeps s₀ s)  : Keeps s₀ (traceFrame s) := by
  unfold traceFrame
  repeat' (first | with_reducible assumption | with_reducible apply putSrc_keeps | with_reducible apply Keeps.ite | dsimp only | fail_if_no_progress (with_reducible refine Keeps.upd ?_ (by exact id) (by exact id) (by exact rfl)) | split)

end Sys2Proof.Machine
end

