-- ==== Sys2Proof/Laws/KeepsSteward.lean ====
section
/-! SUPPORT. What every operation of Machine/Steward.lean keeps. -/

set_option linter.all false

namespace Sys2Proof.Machine

theorem irqClear_keeps {s₀ s : State} (hK : Keeps s₀ s) (p : Nat) (v : Word) : Keeps s₀ (irqClear p v s) := by
  unfold irqClear
  repeat' (first | with_reducible assumption | with_reducible apply putCore_keeps | dsimp only | fail_if_no_progress (with_reducible refine Keeps.upd ?_ (by exact id) (by exact id) (by exact rfl)))

theorem stopClock_keeps {s₀ s : State} (hK : Keeps s₀ s) (reason : Nat) (p : Nat) : Keeps s₀ (stopClock reason p s) := by
  unfold stopClock
  repeat' (first | with_reducible assumption | with_reducible refine traced_keeps ?_ (fun _ _ _ => ?_) | with_reducible apply emitPwr_keeps | with_reducible apply putCore_keeps | with_reducible apply Keeps.ite | dsimp only | fail_if_no_progress (with_reducible refine Keeps.upd ?_ (by exact id) (by exact id) (by exact rfl)) | split)

theorem startClock_keeps {s₀ s : State} (hK : Keeps s₀ s) (p : Nat) : Keeps s₀ (startClock p s) := by
  unfold startClock
  repeat' (first | with_reducible assumption | with_reducible apply putCore_keeps | with_reducible apply Keeps.ite | dsimp only | fail_if_no_progress (with_reducible refine Keeps.upd ?_ (by exact id) (by exact id) (by exact rfl)) | split)

theorem putCache_keeps {s₀ s : State} (hK : Keeps s₀ s) (l : Nat) (x : Option CacheLine) : Keeps s₀ (putCache l x s) := by
  unfold putCache
  repeat' (first | with_reducible assumption | dsimp only | fail_if_no_progress (with_reducible refine Keeps.upd ?_ (by exact id) (by exact id) (by exact rfl)))

theorem dirtyLost_keeps {s₀ s : State} (hK : Keeps s₀ s) (p : Nat) : Keeps s₀ (dirtyLost p s) := by
  unfold dirtyLost
  repeat' (first | with_reducible assumption | with_reducible apply report_keeps | with_reducible apply setBit_keeps | dsimp only)

theorem writeBackLine_keeps {s₀ s : State} (hK : Keeps s₀ s) (p : Nat) (l : Nat) (x : CacheLine) : Keeps s₀ (writeBackLine p l x s) := by
  unfold writeBackLine
  repeat' (first | with_reducible assumption | with_reducible apply raiseLine_keeps | with_reducible apply dirtyLost_keeps | with_reducible refine lineWrite_keeps ?_ (by assumption) | with_reducible apply lineWrite_keepsP | with_reducible apply Keeps.ite | dsimp only | split)

theorem evictData_keeps {s₀ s : State} (hK : Keeps s₀ s) (p : Nat) (l : Nat) : Keeps s₀ (evictData p l s) := by
  unfold evictData
  repeat' (first | with_reducible assumption | with_reducible apply putCache_keeps | with_reducible apply Keeps.ite | dsimp only | fail_if_no_progress (with_reducible refine Keeps.upd ?_ (by exact id) (by exact id) (by exact rfl)) | split)

theorem evictL2_keeps {s₀ s : State} (hK : Keeps s₀ s) (h : Nat) (l : Nat) : Keeps s₀ (evictL2 h l s) := by
  unfold evictL2
  repeat' (first | with_reducible assumption | with_reducible apply putCache_keeps | with_reducible apply writeBackLine_keeps | with_reducible apply Keeps.ite | dsimp only | fail_if_no_progress (with_reducible refine Keeps.upd ?_ (by exact id) (by exact id) (by exact rfl)) | split)

theorem makeRoom_keeps {s₀ s : State} (hK : Keeps s₀ s) (p : Nat) (l : Nat) : Keeps s₀ (makeRoom p l s) := by
  unfold makeRoom
  repeat' (first | with_reducible assumption | with_reducible refine takeFree_keeps ?_ (by assumption) | with_reducible apply takeFree_keepsP | with_reducible apply evictData_keeps | with_reducible apply evictL2_keeps | with_reducible apply Keeps.ite | dsimp only | split)

theorem allocLine_keeps {s₀ s : State} (hK : Keeps s₀ s) (p : Nat) (l : Nat) (data : List Byte) : Keeps s₀ (allocLine p l data s) := by
  unfold allocLine
  repeat' (first | with_reducible assumption | with_reducible apply makeRoom_keeps | with_reducible apply putCache_keeps | dsimp only)

theorem reachLine_keepsP {s₀ s : State} (hK : Keeps s₀ s) (p : Nat) (l : Nat) : Keeps s₀ (reachLine p l s).2 := by
  unfold reachLine
  repeat' (first | with_reducible assumption | with_reducible apply dirtyLost_keeps | with_reducible apply putCache_keeps | with_reducible apply makeRoom_keeps | with_reducible apply Keeps.ite | with_reducible apply Keeps.ite_fst | with_reducible apply Keeps.ite_snd | dsimp only | fail_if_no_progress (with_reducible refine Keeps.upd ?_ (by exact id) (by exact id) (by exact rfl)) | split)

theorem reachLine_keeps {s₀ s tK : State} {p : Nat} {l : Nat} {xK} (hK : Keeps s₀ s) (eK : reachLine p l s = (xK, tK)) : Keeps s₀ tK := by
  have h := reachLine_keepsP hK p l
  rw [eK] at h
  exact h

theorem storeLine_keeps {s₀ s : State} (hK : Keeps s₀ s) (p : Nat) (l : Nat) (ofs : Nat) (bytes : List Byte) : Keeps s₀ (storeLine p l ofs bytes s) := by
  unfold storeLine
  repeat' (first | with_reducible assumption | with_reducible apply putCache_keeps | dsimp only | fail_if_no_progress (with_reducible refine Keeps.upd ?_ (by exact id) (by exact id) (by exact rfl)) | split)

theorem cleanLine_keeps {s₀ s : State} (hK : Keeps s₀ s) (p : Nat) (l : Nat) : Keeps s₀ (cleanLine p l s) := by
  unfold cleanLine
  repeat' (first | with_reducible assumption | with_reducible apply writeBackLine_keeps | with_reducible apply putCache_keeps | with_reducible apply Keeps.ite | dsimp only | fail_if_no_progress (with_reducible refine Keeps.upd ?_ (by exact id) (by exact id) (by exact rfl)) | split)

theorem dropLine_keeps {s₀ s : State} (hK : Keeps s₀ s) (p : Nat) (l : Nat) : Keeps s₀ (dropLine p l s) := by
  unfold dropLine
  repeat' (first | with_reducible assumption | with_reducible apply putCache_keeps | with_reducible apply Keeps.ite | dsimp only | fail_if_no_progress (with_reducible refine Keeps.upd ?_ (by exact id) (by exact id) (by exact rfl)) | split)

theorem flushCore_keeps {s₀ s : State} (hK : Keeps s₀ s) (p : Nat) : Keeps s₀ (flushCore p s) := by
  unfold flushCore
  repeat' (first | with_reducible assumption | with_reducible apply cleanLine_keeps | with_reducible apply evictData_keeps | with_reducible apply Keeps.ite | with_reducible refine Keeps.foldl (fun _ _ _ => ?_) _ ?_ | with_reducible refine Keeps.foldl_fst (fun _ _ _ => ?_) _ ?_ | with_reducible refine Keeps.foldl_snd (fun _ _ _ => ?_) _ ?_ | with_reducible refine Keeps.foldl_trd (fun _ _ _ => ?_) _ ?_ | dsimp only | fail_if_no_progress (with_reducible refine Keeps.upd ?_ (by exact id) (by exact id) (by exact rfl)) | split)

theorem flushShelf_keeps {s₀ s : State} (hK : Keeps s₀ s) (h : Nat) : Keeps s₀ (flushShelf h s) := by
  unfold flushShelf
  repeat' (first | with_reducible assumption | with_reducible apply evictL2_keeps | with_reducible refine Keeps.foldl (fun _ _ _ => ?_) _ ?_ | with_reducible refine Keeps.foldl_fst (fun _ _ _ => ?_) _ ?_ | with_reducible refine Keeps.foldl_snd (fun _ _ _ => ?_) _ ?_ | with_reducible refine Keeps.foldl_trd (fun _ _ _ => ?_) _ ?_ | dsimp only)

theorem dropCaches_keeps {s₀ s : State} (hK : Keeps s₀ s)  : Keeps s₀ (dropCaches s) := by
  unfold dropCaches
  repeat' (first | with_reducible assumption | dsimp only | fail_if_no_progress (with_reducible refine Keeps.upd ?_ (by exact id) (by exact id) (by exact rfl)))

theorem dropAccess_keeps {s₀ s : State} (hK : Keeps s₀ s) (p : Nat) : Keeps s₀ (dropAccess p s) := by
  unfold dropAccess
  repeat' (first | with_reducible assumption | with_reducible apply Keeps.ite | dsimp only | fail_if_no_progress (with_reducible refine Keeps.upd ?_ (by exact id) (by exact id) (by exact rfl)) | split)

theorem gcallAbort_keeps {s₀ s : State} (hK : Keeps s₀ s) (p : Nat) (last : Nat) : Keeps s₀ (gcallAbort p last s) := by
  unfold gcallAbort
  repeat' (first | with_reducible assumption | with_reducible apply emitGout_keeps | with_reducible apply putCache_keeps | with_reducible apply report_keeps | with_reducible apply setBit_keeps | with_reducible apply putCore_keeps | with_reducible apply dropAccess_keeps | with_reducible apply stopClock_keeps | with_reducible apply traceBoundary_keeps | with_reducible apply Keeps.ite | with_reducible refine Keeps.whenDo ?_ (fun _ _ => ?_) | with_reducible refine Keeps.foldl (fun _ _ _ => ?_) _ ?_ | with_reducible refine Keeps.foldl_fst (fun _ _ _ => ?_) _ ?_ | with_reducible refine Keeps.foldl_snd (fun _ _ _ => ?_) _ ?_ | with_reducible refine Keeps.foldl_trd (fun _ _ _ => ?_) _ ?_ | dsimp only | fail_if_no_progress (with_reducible refine Keeps.upd ?_ (by exact id) (by exact id) (by exact rfl)) | split)

theorem doubleFault_keeps {s₀ s : State} (hK : Keeps s₀ s) (p : Nat) : Keeps s₀ (doubleFault p s) := by
  unfold doubleFault
  repeat' (first | with_reducible assumption | with_reducible apply setBit_keeps | with_reducible apply putCore_keeps | with_reducible apply stopClock_keeps | with_reducible apply report_keeps | with_reducible apply hostEvent_keeps | dsimp only | fail_if_no_progress (with_reducible refine Keeps.upd ?_ (by exact id) (by exact id) (by exact rfl)) | split)

theorem takeException_keeps {s₀ s : State} (hK : Keeps s₀ s) (p : Nat) (k : Cause) (info : Nat) (line : Nat) (addr : Nat) : Keeps s₀ (takeException p k info line addr s) := by
  unfold takeException
  repeat' (first | with_reducible assumption | with_reducible apply gcallAbort_keeps | with_reducible apply doubleFault_keeps | with_reducible refine traced_keeps ?_ (fun _ _ _ => ?_) | with_reducible apply emitExc_keeps | with_reducible apply emitInd_keeps | with_reducible apply putCore_keeps | with_reducible apply Keeps.ite | dsimp only | fail_if_no_progress (with_reducible refine Keeps.upd ?_ (by exact id) (by exact id) (by exact rfl)) | split)

theorem startCore_keeps {s₀ s : State} (hK : Keeps s₀ s) (p : Nat) : Keeps s₀ (startCore p s) := by
  unfold startCore
  repeat' (first | with_reducible assumption | with_reducible apply putCore_keeps | with_reducible apply dropAccess_keeps | with_reducible apply putSrc_keeps | dsimp only | fail_if_no_progress (with_reducible refine Keeps.upd ?_ (by exact id) (by exact id) (by exact rfl)) | split)

theorem restartCore_keeps {s₀ s : State} (hK : Keeps s₀ s) (p : Nat) : Keeps s₀ (restartCore p s) := by
  unfold restartCore
  repeat' (first | with_reducible assumption | with_reducible apply startCore_keeps | with_reducible apply schedRestart_keeps | with_reducible apply flushCore_keeps | with_reducible apply stopClock_keeps | with_reducible apply Keeps.ite | dsimp only | split)

theorem haltCore_keeps {s₀ s : State} (hK : Keeps s₀ s) (p : Nat) : Keeps s₀ (haltCore p s) := by
  unfold haltCore
  repeat' (first | with_reducible assumption | with_reducible apply stopClock_keeps | with_reducible apply putCore_keeps | with_reducible apply Keeps.ite | dsimp only | fail_if_no_progress (with_reducible refine Keeps.upd ?_ (by exact id) (by exact id) (by exact rfl)) | split)

theorem resumeCore_keeps {s₀ s : State} (hK : Keeps s₀ s) (p : Nat) : Keeps s₀ (resumeCore p s) := by
  unfold resumeCore
  repeat' (first | with_reducible assumption | with_reducible apply startClock_keeps | with_reducible apply putCore_keeps | with_reducible apply Keeps.ite | dsimp only | fail_if_no_progress (with_reducible refine Keeps.upd ?_ (by exact id) (by exact id) (by exact rfl)) | split)

theorem stwCtrlWrite_keeps {s₀ s : State} (hK : Keeps s₀ s) (p : Nat) (v : Word) : Keeps s₀ (stwCtrlWrite p v s) := by
  unfold stwCtrlWrite
  repeat' (first | with_reducible assumption | with_reducible apply restartCore_keeps | with_reducible apply haltCore_keeps | with_reducible apply resumeCore_keeps | with_reducible apply Keeps.wrReg | with_reducible apply Keeps.ite | with_reducible refine Keeps.whenDo ?_ (fun _ _ => ?_) | dsimp only | split)

theorem retireCore_keeps {s₀ s : State} (hK : Keeps s₀ s) (p : Nat) : Keeps s₀ (retireCore p s) := by
  unfold retireCore
  repeat' (first | with_reducible assumption | with_reducible apply stopClock_keeps | with_reducible apply dropAccess_keeps | with_reducible apply flushCore_keeps | with_reducible apply putCore_keeps | with_reducible refine Keeps.whenDo ?_ (fun _ _ => ?_) | dsimp only | fail_if_no_progress (with_reducible refine Keeps.upd ?_ (by exact id) (by exact id) (by exact rfl)))

theorem takeOverCore_keeps {s₀ s : State} (hK : Keeps s₀ s) (q : Nat) : Keeps s₀ (takeOverCore q s) := by
  unfold takeOverCore
  repeat' (first | with_reducible assumption | with_reducible apply setBit_keeps | with_reducible apply startCore_keeps | dsimp only)

theorem doorbellWrite_keeps {s₀ s : State} (hK : Keeps s₀ s) (p : Nat) (v : Word) : Keeps s₀ (doorbellWrite p v s) := by
  unfold doorbellWrite
  repeat' (first | with_reducible assumption | with_reducible apply raiseLine_keeps | with_reducible apply Keeps.ite | with_reducible refine Keeps.foldl (fun _ _ _ => ?_) _ ?_ | dsimp only | split)

theorem stwDbgWrite_keeps {s₀ s tK : State} {p : Nat} {o : Nat} {v : Word}  (hK : Keeps s₀ s) (eK : stwDbgWrite p o v s = some tK) : Keeps s₀ tK := by
  unfold stwDbgWrite at eK
  (try dsimp only at eK)
  (repeat' split at eK) <;> (first | cases eK | skip) <;> repeat' (first | with_reducible assumption | with_reducible apply putCore_keeps | with_reducible apply Keeps.ite | dsimp only | fail_if_no_progress (with_reducible refine Keeps.upd ?_ (by exact id) (by exact id) (by exact rfl)) | split)

end Sys2Proof.Machine
end

