-- ==== Sys2Proof/Laws/KeepsNoc.lean ====
section
/-! SUPPORT. What every operation of Machine/Noc.lean keeps. -/

set_option linter.all false

namespace Sys2Proof.Machine

theorem switchWrite_keeps {s₀ s tK : State} {v : Word}  (hK : Keeps s₀ s) (eK : switchWrite v s = some tK) : Keeps s₀ tK := by
  unfold switchWrite at eK
  (try dsimp only at eK)
  (repeat' split at eK) <;> (first | cases eK | skip) <;> repeat' (first | with_reducible assumption | with_reducible apply setBit_keeps | with_reducible apply Keeps.ite | dsimp only | split)

theorem routeCheckDone_keeps {s₀ s : State} (hK : Keeps s₀ s)  : Keeps s₀ (routeCheckDone s) := by
  unfold routeCheckDone
  repeat' (first | with_reducible assumption | with_reducible apply clrBit_keeps | with_reducible apply setBit_keeps | with_reducible apply Keeps.ite | dsimp only | split)

theorem generationDrained_keeps {s₀ s : State} (hK : Keeps s₀ s)  : Keeps s₀ (generationDrained s) := by
  unfold generationDrained
  repeat' (first | with_reducible assumption | with_reducible apply incFld_keeps | with_reducible apply wrFld_keeps | with_reducible apply clrBit_keeps | with_reducible apply Keeps.ite | dsimp only | split)

theorem bankWrite_keeps {s₀ s tK : State} {o : Nat} {v : Word}  (hK : Keeps s₀ s) (eK : bankWrite o v s = some tK) : Keeps s₀ tK := by
  unfold bankWrite at eK
  (try dsimp only at eK)
  (repeat' split at eK) <;> (first | cases eK | skip) <;> repeat' (first | with_reducible assumption | with_reducible apply Keeps.ite | with_reducible refine Keeps.foldl (fun _ _ _ => ?_) _ ?_ | with_reducible refine Keeps.foldl_fst (fun _ _ _ => ?_) _ ?_ | with_reducible refine Keeps.foldl_snd (fun _ _ _ => ?_) _ ?_ | with_reducible refine Keeps.foldl_trd (fun _ _ _ => ?_) _ ?_ | dsimp only | fail_if_no_progress (with_reducible refine Keeps.upd ?_ (by exact id) (by exact id) (by exact rfl)) | split)

theorem noRoute_keeps {s₀ s : State} (hK : Keeps s₀ s) (src : Nat) (dst : Nat) (net : Nat) (router : Nat) : Keeps s₀ (noRoute src dst net router s) := by
  unfold noRoute
  repeat' (first | with_reducible assumption | with_reducible apply setBit_keeps | with_reducible apply Keeps.wrReg | with_reducible apply Keeps.ite | dsimp only | split)

theorem responseFlit_keeps {s₀ s : State} (hK : Keeps s₀ s) (dst : Nat) : Keeps s₀ (responseFlit dst s) := by
  unfold responseFlit
  repeat' (first | with_reducible assumption | with_reducible apply noRoute_keeps | with_reducible apply Keeps.ite | dsimp only | fail_if_no_progress (with_reducible refine Keeps.upd ?_ (by exact id) (by exact id) (by exact rfl)) | split)

theorem shelfQuiesce_keeps {s₀ s : State} (hK : Keeps s₀ s) (h : Nat) (trip : Bool) : Keeps s₀ (shelfQuiesce h trip s) := by
  unfold shelfQuiesce
  repeat' (first | with_reducible assumption | with_reducible apply putGate_keeps | with_reducible apply Keeps.ite | dsimp only | fail_if_no_progress (with_reducible refine Keeps.upd ?_ (by exact id) (by exact id) (by exact rfl)) | split)

theorem shelfAuto_keeps {s₀ s : State} (hK : Keeps s₀ s) (h : Nat) : Keeps s₀ (shelfAuto h s) := by
  unfold shelfAuto
  repeat' (first | with_reducible assumption | with_reducible apply shelfQuiesce_keeps | with_reducible apply setBit_keeps | with_reducible apply Keeps.ite | with_reducible refine Keeps.whenDo ?_ (fun _ _ => ?_) | dsimp only | split)

theorem pwrCtrlWrite_keeps {s₀ s tK : State} {h : Nat} {v : Word}  (hK : Keeps s₀ s) (eK : pwrCtrlWrite h v s = some tK) : Keeps s₀ tK := by
  unfold pwrCtrlWrite at eK
  (try dsimp only at eK)
  (repeat' split at eK) <;> (first | cases eK | skip) <;> repeat' (first | with_reducible assumption | with_reducible apply wakeShelf_keeps | with_reducible apply shelfQuiesce_keeps | with_reducible apply Keeps.wrReg | with_reducible apply Keeps.ite | dsimp only | split)

theorem shelfClocks_keeps {s₀ s : State} (hK : Keeps s₀ s) (run : Bool) (h : Nat) : Keeps s₀ (shelfClocks run h s) := by
  unfold shelfClocks
  repeat' (first | with_reducible assumption | with_reducible apply startClock_keeps | with_reducible apply stopClock_keeps | with_reducible apply Keeps.ite | with_reducible refine Keeps.foldl (fun _ _ _ => ?_) _ ?_ | dsimp only | split)

theorem shelfPhase_keepsP {s₀ s : State} (hK : Keeps s₀ s) (h : Nat) (ok : Bool) : Keeps s₀ (shelfPhase h ok s).1 := by
  unfold shelfPhase
  repeat' (first | with_reducible assumption | with_reducible apply clrBit_keeps | with_reducible apply shelfClocks_keeps | with_reducible apply putGate_keeps | with_reducible apply incFld_keeps | with_reducible apply flushShelf_keeps | with_reducible apply wrFld_keeps | with_reducible apply report_keeps | with_reducible apply setBit_keeps | with_reducible apply Keeps.ite | with_reducible apply Keeps.ite_fst | with_reducible apply Keeps.ite_snd | dsimp only | fail_if_no_progress (with_reducible refine Keeps.upd ?_ (by exact id) (by exact id) (by exact rfl)) | split)

theorem shelfPhase_keeps {s₀ s tK : State} {h : Nat} {ok : Bool} {xK} (hK : Keeps s₀ s) (eK : shelfPhase h ok s = (tK, xK)) : Keeps s₀ tK := by
  have h := shelfPhase_keepsP hK h ok
  rw [eK] at h
  exact h

theorem tripShelves_keeps {s₀ s : State} (hK : Keeps s₀ s)  : Keeps s₀ (tripShelves s) := by
  unfold tripShelves
  repeat' (first | with_reducible assumption | with_reducible apply shelfQuiesce_keeps | with_reducible apply setBit_keeps | with_reducible refine Keeps.foldl (fun _ _ _ => ?_) _ ?_ | dsimp only)

theorem clearThermHold_keeps {s₀ s : State} (hK : Keeps s₀ s)  : Keeps s₀ (clearThermHold s) := by
  unfold clearThermHold
  repeat' (first | with_reducible assumption | with_reducible apply clrBit_keeps | with_reducible apply putGate_keeps | with_reducible apply wakeShelf_keeps | with_reducible apply Keeps.ite | with_reducible refine Keeps.foldl (fun _ _ _ => ?_) _ ?_ | dsimp only | fail_if_no_progress (with_reducible refine Keeps.upd ?_ (by exact id) (by exact id) (by exact rfl)) | split)

end Sys2Proof.Machine
end

