-- ==== Sys2Proof/Laws/KeepsDma.lean ====
section
/-! SUPPORT. What every operation of Machine/Dma.lean keeps. -/

set_option linter.all false

namespace Sys2Proof.Machine

theorem putChan_keeps {s₀ s : State} (hK : Keeps s₀ s) (n : Nat) (x : DmaCh) : Keeps s₀ (putChan n x s) := by
  unfold putChan
  repeat' (first | with_reducible assumption | dsimp only | fail_if_no_progress (with_reducible refine Keeps.upd ?_ (by exact id) (by exact id) (by exact rfl)))

theorem setResid_keeps {s₀ s : State} (hK : Keeps s₀ s) (n : Nat) (r : Nat) : Keeps s₀ (setResid n r s) := by
  unfold setResid
  repeat' (first | with_reducible assumption | with_reducible apply Keeps.wrReg | dsimp only)

theorem dmaEnd_keeps {s₀ s : State} (hK : Keeps s₀ s) (n : Nat) (st : DmaSt) (err : Nat) : Keeps s₀ (dmaEnd n st err s) := by
  unfold dmaEnd
  repeat' (first | with_reducible assumption | with_reducible apply putChan_keeps | with_reducible apply wrFld_keeps | with_reducible apply setBit_keeps | with_reducible apply raiseLine_keeps | with_reducible apply msix_keeps | with_reducible refine Keeps.whenDo ?_ (fun _ _ => ?_) | dsimp only | fail_if_no_progress (with_reducible refine Keeps.upd ?_ (by exact id) (by exact id) (by exact rfl)) | split)

theorem dmaGo_keeps {s₀ s : State} (hK : Keeps s₀ s) (n : Nat) : Keeps s₀ (dmaGo n s) := by
  unfold dmaGo
  repeat' (first | with_reducible assumption | with_reducible apply setResid_keeps | with_reducible apply putChan_keeps | with_reducible apply Keeps.wrReg | dsimp only | fail_if_no_progress (with_reducible refine Keeps.upd ?_ (by exact id) (by exact id) (by exact rfl)))

theorem dmaStop_keeps {s₀ s : State} (hK : Keeps s₀ s) (n : Nat) (st : DmaSt) (err : Nat) : Keeps s₀ (dmaStop n st err s) := by
  unfold dmaStop
  repeat' (first | with_reducible assumption | with_reducible apply dmaEnd_keeps | with_reducible apply putChan_keeps | with_reducible apply Keeps.ite | dsimp only | fail_if_no_progress (with_reducible refine Keeps.upd ?_ (by exact id) (by exact id) (by exact rfl)) | split)

theorem dmaAbort_keeps {s₀ s : State} (hK : Keeps s₀ s) (n : Nat) : Keeps s₀ (dmaAbort n s) := by
  unfold dmaAbort
  repeat' (first | with_reducible assumption | with_reducible apply dmaEnd_keeps | with_reducible apply dmaStop_keeps | with_reducible apply setBit_keeps | dsimp only | split)

theorem dmaCtrlWrite_keeps {s₀ s tK : State} {n : Nat} {v : Word}  (hK : Keeps s₀ s) (eK : dmaCtrlWrite n v s = some tK) : Keeps s₀ tK := by
  unfold dmaCtrlWrite at eK
  (try dsimp only at eK)
  (repeat' split at eK) <;> (first | cases eK | skip) <;> repeat' (first | with_reducible assumption | with_reducible apply dmaAbort_keeps | with_reducible apply dmaGo_keeps | with_reducible apply Keeps.wrReg | with_reducible apply Keeps.ite | dsimp only | split)

theorem dmaAck_keeps {s₀ s : State} (hK : Keeps s₀ s) (n : Nat) (v : Word) : Keeps s₀ (dmaAck n v s) := by
  unfold dmaAck
  repeat' (first | with_reducible assumption | with_reducible apply putChan_keeps | dsimp only | split)

theorem dmaSideWrite_keeps {s₀ s tK : State} {n : Nat} {o : Nat} {v : Word}  (hK : Keeps s₀ s) (eK : dmaSideWrite n o v s = some tK) : Keeps s₀ tK := by
  unfold dmaSideWrite at eK
  (try dsimp only at eK)
  (repeat' split at eK) <;> (first | cases eK | skip) <;> repeat' (first | with_reducible assumption | with_reducible apply Keeps.wrReg | with_reducible apply Keeps.ite | dsimp only | split)

theorem dmaPerst_keeps {s₀ s : State} (hK : Keeps s₀ s)  : Keeps s₀ (dmaPerst s) := by
  unfold dmaPerst
  repeat' (first | with_reducible assumption | with_reducible apply dmaEnd_keeps | with_reducible apply dmaStop_keeps | with_reducible apply Keeps.ite | with_reducible refine Keeps.foldl (fun _ _ _ => ?_) _ ?_ | dsimp only | split)

theorem dmaRetire_keeps {s₀ s : State} (hK : Keeps s₀ s) (n : Nat) : Keeps s₀ (dmaRetire n s) := by
  unfold dmaRetire
  repeat' (first | with_reducible assumption | with_reducible apply dmaStop_keeps | with_reducible apply dmaEnd_keeps | dsimp only | split)

theorem dmaActive_keeps {s₀ s : State} (hK : Keeps s₀ s) (n : Nat) : Keeps s₀ (dmaActive n s) := by
  unfold dmaActive
  repeat' (first | with_reducible assumption | with_reducible apply putChan_keeps | with_reducible apply Keeps.ite | dsimp only | fail_if_no_progress (with_reducible refine Keeps.upd ?_ (by exact id) (by exact id) (by exact rfl)) | split)

end Sys2Proof.Machine
end

