-- ==== Sys2Proof/Laws/KeepsImage.lean ====
section
/-! SUPPORT. What every operation of Machine/Image.lean keeps. -/

set_option linter.all false

namespace Sys2Proof.Machine

theorem ldReg_keeps {s₀ s : State} (hK : Keeps s₀ s) (a : Nat) (v : Nat) : Keeps s₀ (ldReg a v s) := by
  unfold ldReg
  repeat' (first | with_reducible assumption | with_reducible apply Keeps.wrReg | dsimp only | fail_if_no_progress (with_reducible refine Keeps.upd ?_ (by exact id) (by exact id) (by exact rfl)) | split)

theorem ldWords_keeps {s₀ s : State} (hK : Keeps s₀ s) (t : List Byte) (at0 : Nat) (n : Nat) (addr : Nat → Nat) : Keeps s₀ (ldWords t at0 n addr s) := by
  unfold ldWords
  repeat' (first | with_reducible assumption | with_reducible apply ldReg_keeps | with_reducible refine Keeps.foldl (fun _ _ _ => ?_) _ ?_ | dsimp only)

theorem putBpEntry_keeps {s₀ s : State} (hK : Keeps s₀ s) (k : Nat) (w : BitVec 72) : Keeps s₀ (putBpEntry k w s) := by
  unfold putBpEntry
  repeat' (first | with_reducible assumption | dsimp only | fail_if_no_progress (with_reducible refine Keeps.upd ?_ (by exact id) (by exact id) (by exact rfl)))

theorem putWeEntry_keeps {s₀ s : State} (hK : Keeps s₀ s) (k : Nat) (w : BitVec 64) : Keeps s₀ (putWeEntry k w s) := by
  unfold putWeEntry
  repeat' (first | with_reducible assumption | dsimp only | fail_if_no_progress (with_reducible refine Keeps.upd ?_ (by exact id) (by exact id) (by exact rfl)))

theorem ldBpi_keeps {s₀ s : State} (hK : Keeps s₀ s) (p : Nat) (e : ImgSect) (t : List Byte) : Keeps s₀ (ldBpi p e t s) := by
  unfold ldBpi
  repeat' (first | with_reducible assumption | with_reducible apply putBpEntry_keeps | with_reducible refine Keeps.foldl (fun _ _ _ => ?_) _ ?_ | dsimp only)

theorem ldWen_keeps {s₀ s : State} (hK : Keeps s₀ s) (p : Nat) (e : ImgSect) (t : List Byte) : Keeps s₀ (ldWen p e t s) := by
  unfold ldWen
  repeat' (first | with_reducible assumption | with_reducible apply putWeEntry_keeps | with_reducible refine Keeps.foldl (fun _ _ _ => ?_) _ ?_ | dsimp only)

theorem ldBpc_keeps {s₀ s : State} (hK : Keeps s₀ s) (p : Nat) (t : List Byte) : Keeps s₀ (ldBpc p t s) := by
  unfold ldBpc
  repeat' (first | with_reducible assumption | with_reducible apply ldWords_keeps | with_reducible refine Keeps.foldl (fun _ _ _ => ?_) _ ?_ | dsimp only | split)

theorem ldWenCfg_keeps {s₀ s : State} (hK : Keeps s₀ s) (p : Nat) (t : List Byte) : Keeps s₀ (ldWenCfg p t s) := by
  unfold ldWenCfg
  repeat' (first | with_reducible assumption | with_reducible apply ldWords_keeps | with_reducible apply Keeps.ite | with_reducible refine Keeps.foldl (fun _ _ _ => ?_) _ ?_ | dsimp only | split)

theorem ldFab_keeps {s₀ s : State} (hK : Keeps s₀ s) (p : Nat) (t : List Byte) : Keeps s₀ (ldFab p t s) := by
  unfold ldFab
  repeat' (first | with_reducible assumption | with_reducible apply ldWords_keeps | with_reducible apply Keeps.ite | dsimp only | split)

theorem ldFlops_keeps {s₀ s : State} (hK : Keeps s₀ s) (p : Nat) (t : List Byte) : Keeps s₀ (ldFlops p t s) := by
  unfold ldFlops
  repeat' (first | with_reducible assumption | with_reducible apply pondWrite_keeps | with_reducible refine Keeps.foldl (fun _ _ _ => ?_) _ ?_ | dsimp only)

theorem ldRows_keeps {s₀ s : State} (hK : Keeps s₀ s) (p : Nat) (r : Nat) (ofs : Nat) (t : List Byte) : Keeps s₀ (ldRows p r ofs t s) := by
  unfold ldRows
  repeat' (first | with_reducible assumption | with_reducible apply rowWrite_keeps | with_reducible refine Keeps.foldl (fun _ _ _ => ?_) _ ?_ | with_reducible refine Keeps.foldl_fst (fun _ _ _ => ?_) _ ?_ | with_reducible refine Keeps.foldl_snd (fun _ _ _ => ?_) _ ?_ | with_reducible refine Keeps.foldl_trd (fun _ _ _ => ?_) _ ?_ | dsimp only)

theorem ldDecl_keeps {s₀ s : State} (hK : Keeps s₀ s) (p : Nat) (t : List Byte) : Keeps s₀ (ldDecl p t s) := by
  unfold ldDecl
  repeat' (first | with_reducible assumption | with_reducible apply ldReg_keeps | with_reducible refine Keeps.foldl (fun _ _ _ => ?_) _ ?_ | with_reducible refine Keeps.foldl_fst (fun _ _ _ => ?_) _ ?_ | with_reducible refine Keeps.foldl_snd (fun _ _ _ => ?_) _ ?_ | with_reducible refine Keeps.foldl_trd (fun _ _ _ => ?_) _ ?_ | dsimp only)

theorem ldScript_keeps {s₀ s : State} (hK : Keeps s₀ s) (t : List Byte) : Keeps s₀ (ldScript t s) := by
  unfold ldScript
  repeat' (first | with_reducible assumption | with_reducible apply ldWords_keeps | dsimp only | fail_if_no_progress (with_reducible refine Keeps.upd ?_ (by exact id) (by exact id) (by exact rfl)))

theorem ldLinkRec_keeps {s₀ s : State} (hK : Keeps s₀ s) (t : List Byte) : Keeps s₀ (ldLinkRec t s) := by
  unfold ldLinkRec
  repeat' (first | with_reducible assumption | with_reducible apply ldWords_keeps | with_reducible refine Keeps.foldl (fun _ _ _ => ?_) _ ?_ | with_reducible refine Keeps.foldl_fst (fun _ _ _ => ?_) _ ?_ | with_reducible refine Keeps.foldl_snd (fun _ _ _ => ?_) _ ?_ | with_reducible refine Keeps.foldl_trd (fun _ _ _ => ?_) _ ?_ | dsimp only | fail_if_no_progress (with_reducible refine Keeps.upd ?_ (by exact id) (by exact id) (by exact rfl)))

theorem ldStreamMap_keeps {s₀ s : State} (hK : Keeps s₀ s) (l : Nat) (t : List Byte) : Keeps s₀ (ldStreamMap l t s) := by
  unfold ldStreamMap
  repeat' (first | with_reducible assumption | with_reducible apply putLink_keeps | with_reducible apply Keeps.wrReg | dsimp only | fail_if_no_progress (with_reducible refine Keeps.upd ?_ (by exact id) (by exact id) (by exact rfl)))

theorem ldCmpMap_keeps {s₀ s : State} (hK : Keeps s₀ s) (t : List Byte) : Keeps s₀ (ldCmpMap t s) := by
  unfold ldCmpMap
  repeat' (first | with_reducible assumption | with_reducible apply ldWords_keeps | dsimp only)

theorem ldBorder_keeps {s₀ s : State} (hK : Keeps s₀ s) (h : Nat) (t : List Byte) : Keeps s₀ (ldBorder h t s) := by
  unfold ldBorder
  repeat' (first | with_reducible assumption | with_reducible apply ldWords_keeps | with_reducible apply wrFld_keeps | dsimp only | fail_if_no_progress (with_reducible refine Keeps.upd ?_ (by (first | exact id | exact Registers.wf_filter _ | exact Registers.wf_keep _ | exact fun _ => Registers.wf_nil)) (by exact id) (by exact rfl)))

theorem ldPages_keeps {s₀ s : State} (hK : Keeps s₀ s) (p : Nat) (r : Nat) (page : Nat) (t : List Byte) : Keeps s₀ (ldPages p r page t s) := by
  unfold ldPages
  repeat' (first | with_reducible assumption | with_reducible apply celPut_keeps | dsimp only)

theorem ldSection_keeps {s₀ s : State} (hK : Keeps s₀ s) (q : Staged) : Keeps s₀ (ldSection q s) := by
  unfold ldSection
  repeat' (first | with_reducible assumption | with_reducible apply ldReg_keeps | with_reducible apply ldWords_keeps | with_reducible apply ldScript_keeps | with_reducible apply ldLinkRec_keeps | with_reducible apply ldStreamMap_keeps | with_reducible apply ldCmpMap_keeps | with_reducible apply ldBpi_keeps | with_reducible apply ldBpc_keeps | with_reducible apply ldFlops_keeps | with_reducible apply ldWen_keeps | with_reducible apply ldWenCfg_keeps | with_reducible apply ldDecl_keeps | with_reducible apply ldRows_keeps | with_reducible apply ldFab_keeps | with_reducible apply ldBorder_keeps | with_reducible apply Keeps.ite | dsimp only | split)

theorem loadFrame_keeps {s₀ s : State} (hK : Keeps s₀ s) (p : Nat) (r : Nat) (f : Frame) : Keeps s₀ (loadFrame p r f s) := by
  unfold loadFrame
  repeat' (first | with_reducible assumption | with_reducible apply ldRows_keeps | dsimp only)

theorem fillInitial_keeps {s₀ s : State} (hK : Keeps s₀ s) (q : Staged) : Keeps s₀ (fillInitial q s) := by
  unfold fillInitial
  repeat' (first | with_reducible assumption | with_reducible apply loadFrame_keeps | with_reducible apply putFrames_keeps | with_reducible apply Keeps.ite | with_reducible refine Keeps.foldl (fun _ _ _ => ?_) _ ?_ | with_reducible refine Keeps.foldl_fst (fun _ _ _ => ?_) _ ?_ | with_reducible refine Keeps.foldl_snd (fun _ _ _ => ?_) _ ?_ | with_reducible refine Keeps.foldl_trd (fun _ _ _ => ?_) _ ?_ | dsimp only | split)

end Sys2Proof.Machine
end

