-- ==== Sys2Proof/Laws/KeepsImageChecks.lean ====
section
/-! SUPPORT. What every operation of Machine/ImageChecks.lean keeps. -/

set_option linter.all false

namespace Sys2Proof.Machine

theorem trialState_keeps {s₀ s : State} (hK : Keeps s₀ s) (st : List Staged) : Keeps s₀ (trialState st s) := by
  unfold trialState
  repeat' (first | with_reducible assumption | with_reducible apply ldSection_keeps | with_reducible refine Keeps.foldl (fun _ _ _ => ?_) _ ?_ | with_reducible apply Keeps.resetDom | dsimp only | fail_if_no_progress (with_reducible refine Keeps.upd ?_ (by exact id) (by exact id) (by exact rfl)) | split)

theorem reloadTrial_keeps {s₀ s : State} (hK : Keeps s₀ s) (st : List Staged) : Keeps s₀ (reloadTrial st s) := by
  unfold reloadTrial
  repeat' (first | with_reducible assumption | with_reducible apply ldSection_keeps | with_reducible refine Keeps.foldl (fun _ _ _ => ?_) _ ?_ | dsimp only)

end Sys2Proof.Machine
end

