-- ==== Sys2Proof/Laws/KeepsLoader.lean ====
section
/-! SUPPORT. What every operation of Machine/Loader.lean keeps. -/

set_option linter.all false

namespace Sys2Proof.Machine

theorem setImg_keeps {s₀ s : State} (hK : Keeps s₀ s) (n : Nat) : Keeps s₀ (setImg n s) := by
  unfold setImg
  repeat' (first | with_reducible assumption | with_reducible apply wrFld_keeps | dsimp only)

theorem onLdr_keeps {s₀ s : State} (hK : Keeps s₀ s) (f : Loader → Loader) : Keeps s₀ (onLdr f s) := by
  unfold onLdr
  repeat' (first | with_reducible assumption | dsimp only | fail_if_no_progress (with_reducible refine Keeps.upd ?_ (by exact id) (by exact id) (by exact rfl)))

theorem openFeed_keeps {s₀ s : State} (hK : Keeps s₀ s)  : Keeps s₀ (openFeed s) := by
  unfold openFeed
  repeat' (first | with_reducible assumption | with_reducible apply setBit_keeps | with_reducible apply wr48_keeps | dsimp only)

theorem closeFeed_keeps {s₀ s : State} (hK : Keeps s₀ s)  : Keeps s₀ (closeFeed s) := by
  unfold closeFeed
  repeat' (first | with_reducible assumption | with_reducible apply clrBit_keeps | dsimp only)

theorem captureErr_keeps {s₀ s : State} (hK : Keeps s₀ s) (e : LdErr) : Keeps s₀ (captureErr e s) := by
  unfold captureErr
  repeat' (first | with_reducible assumption | with_reducible apply Keeps.wrReg | dsimp only)

theorem clearErr_keeps {s₀ s : State} (hK : Keeps s₀ s)  : Keeps s₀ (clearErr s) := by
  unfold clearErr
  repeat' (first | with_reducible assumption | with_reducible apply Keeps.wrReg | dsimp only)

theorem imageReset_keeps {s₀ s : State} (hK : Keeps s₀ s)  : Keeps s₀ (imageReset s) := by
  unfold imageReset
  repeat' (first | with_reducible assumption | with_reducible apply Keeps.resetDom | dsimp only | fail_if_no_progress (with_reducible refine Keeps.upd ?_ (by exact id) (by exact id) (by exact rfl)))

theorem idlePorts_keeps {s₀ s : State} (hK : Keeps s₀ s)  : Keeps s₀ (idlePorts s) := by
  unfold idlePorts
  repeat' (first | with_reducible assumption | with_reducible apply setLinkState_keeps | with_reducible apply leaveUp_keeps | with_reducible refine Keeps.foldl (fun _ _ _ => ?_) _ ?_ | dsimp only)

theorem enterLoading_keeps {s₀ s : State} (hK : Keeps s₀ s)  : Keeps s₀ (enterLoading s) := by
  unfold enterLoading
  repeat' (first | with_reducible assumption | with_reducible apply wakeAll_keeps | with_reducible apply imageReset_keeps | with_reducible apply idlePorts_keeps | with_reducible apply setImg_keeps | with_reducible apply resealStart_keeps | with_reducible apply freeModelWindow_keeps | dsimp only | fail_if_no_progress (with_reducible refine Keeps.upd ?_ (by exact id) (by exact id) (by exact rfl)) | split)

theorem ldAbort_keeps {s₀ s : State} (hK : Keeps s₀ s) (e : LdErr) : Keeps s₀ (ldAbort e s) := by
  unfold ldAbort
  repeat' (first | with_reducible assumption | with_reducible apply hostEvent_keeps | with_reducible apply captureErr_keeps | with_reducible apply setImg_keeps | with_reducible apply onLdr_keeps | with_reducible apply closeFeed_keeps | with_reducible apply setBit_keeps | with_reducible apply idlePorts_keeps | with_reducible apply Keeps.ite | dsimp only | fail_if_no_progress (with_reducible refine Keeps.upd ?_ (by exact id) (by exact id) (by exact rfl)) | split)

theorem rlAbort_keeps {s₀ s : State} (hK : Keeps s₀ s) (e : LdErr) : Keeps s₀ (rlAbort e s) := by
  unfold rlAbort
  repeat' (first | with_reducible assumption | with_reducible apply hostEvent_keeps | with_reducible apply captureErr_keeps | with_reducible apply setBit_keeps | with_reducible apply setImg_keeps | with_reducible apply onLdr_keeps | with_reducible apply closeFeed_keeps | dsimp only | fail_if_no_progress (with_reducible refine Keeps.upd ?_ (by exact id) (by exact id) (by exact rfl)))

theorem rootAbort_keeps {s₀ s : State} (hK : Keeps s₀ s) (e : LdErr) : Keeps s₀ (rootAbort e s) := by
  unfold rootAbort
  repeat' (first | with_reducible assumption | with_reducible apply ldAbort_keeps | with_reducible apply sendServiceDown_keeps | with_reducible apply sendService_keeps | with_reducible apply rlAbort_keeps | with_reducible apply Keeps.ite | dsimp only | split)

theorem sendVote_keeps {s₀ s : State} (hK : Keeps s₀ s) (v : Option LdErr) : Keeps s₀ (sendVote v s) := by
  unfold sendVote
  repeat' (first | with_reducible assumption | with_reducible apply sendServiceUp_keeps | with_reducible apply onLdr_keeps | dsimp only | fail_if_no_progress (with_reducible refine Keeps.upd ?_ (by exact id) (by exact id) (by exact rfl)))

theorem ldFail_keeps {s₀ s : State} (hK : Keeps s₀ s) (e : LdErr) : Keeps s₀ (ldFail e s) := by
  unfold ldFail
  repeat' (first | with_reducible assumption | with_reducible apply onLdr_keeps | with_reducible apply rootAbort_keeps | with_reducible apply rlAbort_keeps | with_reducible apply sendVote_keeps | with_reducible apply Keeps.ite | dsimp only | fail_if_no_progress (with_reducible refine Keeps.upd ?_ (by exact id) (by exact id) (by exact rfl)) | split)

theorem ldFailCode_keeps {s₀ s : State} (hK : Keeps s₀ s) (code : Nat) : Keeps s₀ (ldFailCode code s) := by
  unfold ldFailCode
  repeat' (first | with_reducible assumption | with_reducible apply ldFail_keeps | dsimp only)

theorem placeReserved_keeps {s₀ s : State} (hK : Keeps s₀ s) (areas : List Area) (seg : Nat) (top : Nat) (parts : List Nat) (arrays : List (Nat × Nat × Nat × Nat)) : Keeps s₀ (placeReserved areas seg top parts arrays s) := by
  unfold placeReserved
  repeat' (first | with_reducible assumption | with_reducible apply assignRegions_keeps | with_reducible apply onLdr_keeps | with_reducible apply Keeps.wrReg | with_reducible apply Keeps.ite | with_reducible refine Keeps.foldl (fun _ _ _ => ?_) _ ?_ | with_reducible refine Keeps.foldl_fst (fun _ _ _ => ?_) _ ?_ | with_reducible refine Keeps.foldl_snd (fun _ _ _ => ?_) _ ?_ | with_reducible refine Keeps.foldl_trd (fun _ _ _ => ?_) _ ?_ | dsimp only | fail_if_no_progress (with_reducible refine Keeps.upd ?_ (by exact id) (by exact id) (by exact rfl)) | split)

theorem reservePlace_keeps {s₀ s : State} (hK : Keeps s₀ s) : Keeps s₀ (reservePlace s) :=
  placeReserved_keeps hK _ _ _ _ _

theorem reserveStep_keeps {s₀ s : State} (hK : Keeps s₀ s)  : Keeps s₀ (reserveStep s) := by
  unfold reserveStep
  repeat' (first | with_reducible assumption | with_reducible apply ldFailCode_keeps | with_reducible apply reservePlace_keeps | dsimp only | split)

theorem sectionEnd_keeps {s₀ s : State} (hK : Keeps s₀ s) (h : ImgHdr) (e : ImgSect) : Keeps s₀ (sectionEnd h e s) := by
  unfold sectionEnd
  repeat' (first | with_reducible assumption | with_reducible apply onLdr_keeps | with_reducible apply ldFail_keeps | with_reducible apply celPut_keeps | with_reducible apply Keeps.ite | dsimp only | fail_if_no_progress (with_reducible refine Keeps.upd ?_ (by exact id) (by exact id) (by exact rfl)) | split)

theorem ldStep_keeps {s₀ s : State} (hK : Keeps s₀ s)  : Keeps s₀ (ldStep s) := by
  unfold ldStep
  repeat' (first | with_reducible assumption | with_reducible apply ldFailCode_keeps | with_reducible apply wakeShelf_keeps | with_reducible apply onLdr_keeps | with_reducible apply ldFail_keeps | with_reducible apply reserveStep_keeps | with_reducible apply sectionEnd_keeps | with_reducible apply setImg_keeps | with_reducible apply Keeps.ite | with_reducible refine Keeps.whenDo ?_ (fun _ _ => ?_) | dsimp only | fail_if_no_progress (with_reducible refine Keeps.upd ?_ (by exact id) (by exact id) (by exact rfl)) | split)

theorem ldRun_keeps {s₀ s : State} (hK : Keeps s₀ s)  : Keeps s₀ (ldRun s) := by
  unfold ldRun
  repeat' (first | with_reducible assumption | with_reducible apply ldStep_keeps | with_reducible refine Keeps.foldl (fun _ _ _ => ?_) _ ?_ | dsimp only)

theorem streamIn_keeps {s₀ s : State} (hK : Keeps s₀ s) (bytes : List Byte) : Keeps s₀ (streamIn bytes s) := by
  unfold streamIn
  repeat' (first | with_reducible assumption | with_reducible apply onLdr_keeps | with_reducible apply ldRun_keeps | with_reducible apply setImg_keeps | with_reducible refine Keeps.whenDo ?_ (fun _ _ => ?_) | dsimp only | fail_if_no_progress (with_reducible refine Keeps.upd ?_ (by exact id) (by exact id) (by exact rfl)))

theorem relayService_keeps {s₀ s : State} (hK : Keeps s₀ s) (l : Nat) (opc : Nat) (src : Nat) (dst : Nat) (body : List Byte) : Keeps s₀ (relayService l opc src dst body s) :=
  sendServiceFrom_keeps hK src l opc dst body

theorem relayUp_keeps {s₀ s : State} (hK : Keeps s₀ s) (opc : Nat) (src : Nat) (dst : Nat) (body : List Byte) : Keeps s₀ (relayUp opc src dst body s) := by
  unfold relayUp
  repeat' (first | with_reducible assumption | with_reducible apply relayService_keeps | dsimp only | split)

theorem ldBegin_keeps {s₀ s : State} (hK : Keeps s₀ s) (l : Nat) (kind : Nat) (target : Nat) : Keeps s₀ (ldBegin l kind target s) := by
  unfold ldBegin
  repeat' (first | with_reducible assumption | with_reducible apply sendServiceDown_keeps | with_reducible apply sendServiceUp_keeps | with_reducible apply enterLoading_keeps | with_reducible apply relayService_keeps | with_reducible apply setImg_keeps | with_reducible apply onLdr_keeps | with_reducible apply Keeps.ite | dsimp only | fail_if_no_progress (with_reducible refine Keeps.upd ?_ (by exact id) (by exact id) (by exact rfl)) | split)

theorem ldAck_keeps {s₀ s : State} (hK : Keeps s₀ s) (l : Nat) (src : Nat) : Keeps s₀ (ldAck l src s) := by
  unfold ldAck
  repeat' (first | with_reducible assumption | with_reducible apply relayUp_keeps | with_reducible apply onLdr_keeps | with_reducible apply openFeed_keeps | with_reducible apply Keeps.ite | dsimp only | fail_if_no_progress (with_reducible refine Keeps.upd ?_ (by exact id) (by exact id) (by exact rfl)) | split)

theorem ldData_keeps {s₀ s : State} (hK : Keeps s₀ s) (l : Nat) (off : Nat) (dst : Nat) (bytes : List Byte) : Keeps s₀ (ldData l off dst bytes s) := by
  unfold ldData
  repeat' (first | with_reducible assumption | with_reducible apply sendServiceDown_keeps | with_reducible apply streamIn_keeps | with_reducible apply relayService_keeps | with_reducible apply Keeps.ite | dsimp only | split)

theorem rootLoad_keeps {s₀ s tK : State}   (hK : Keeps s₀ s) (eK : rootLoad s = some tK) : Keeps s₀ tK := by
  unfold rootLoad at eK
  (try dsimp only at eK)
  (repeat' split at eK) <;> (first | cases eK | skip) <;> repeat' (first | with_reducible assumption | with_reducible apply sendServiceDown_keeps | with_reducible apply onLdr_keeps | with_reducible apply enterLoading_keeps | with_reducible apply openFeed_keeps | with_reducible apply Keeps.ite | with_reducible refine Keeps.whenDo ?_ (fun _ _ => ?_) | dsimp only | fail_if_no_progress (with_reducible refine Keeps.upd ?_ (by exact id) (by exact id) (by exact rfl)) | split)

theorem rootReload_keeps {s₀ s tK : State}   (hK : Keeps s₀ s) (eK : rootReload s = some tK) : Keeps s₀ tK := by
  unfold rootReload at eK
  (try dsimp only at eK)
  (repeat' split at eK) <;> (first | cases eK | skip) <;> repeat' (first | with_reducible assumption | with_reducible apply openFeed_keeps | with_reducible apply onLdr_keeps | with_reducible apply Keeps.ite | dsimp only | fail_if_no_progress (with_reducible refine Keeps.upd ?_ (by exact id) (by exact id) (by exact rfl)) | split)

theorem rootAbortReq_keeps {s₀ s : State} {f : State → State} (h : Keeps s₀ s)
    (hf : ∀ x, Keeps s₀ x → Keeps s₀ (f x)) : Keeps s₀ (rootAbortReq f s) := by
  unfold rootAbortReq
  repeat' (first | with_reducible assumption | with_reducible apply hf | with_reducible apply setBit_keeps | with_reducible apply rootAbort_keeps | with_reducible apply sendService_keeps | split)

theorem rootForward_keeps {s₀ s : State} (hK : Keeps s₀ s) (off : Nat) (bytes : List Byte) : Keeps s₀ (rootForward off bytes s) := by
  unfold rootForward
  repeat' (first | with_reducible assumption | with_reducible apply streamIn_keeps | with_reducible apply sendServiceDown_keeps | with_reducible apply sendService_keeps | with_reducible apply rootAbort_keeps | with_reducible apply onLdr_keeps | with_reducible apply setImg_keeps | with_reducible apply Keeps.ite | dsimp only | fail_if_no_progress (with_reducible refine Keeps.upd ?_ (by exact id) (by exact id) (by exact rfl)) | split)

theorem feedWrite_keeps {s₀ s tK : State} {ofs : Nat} {bytes : List Byte}  (hK : Keeps s₀ s) (eK : feedWrite ofs bytes s = some tK) : Keeps s₀ tK := by
  unfold feedWrite at eK
  (try dsimp only at eK)
  (repeat' split at eK) <;> (first | cases eK | skip) <;> repeat' (first | with_reducible assumption | with_reducible apply onLdr_keeps | with_reducible apply wr48_keeps | with_reducible apply rootAbort_keeps | with_reducible apply rootForward_keeps | with_reducible apply Keeps.ite | dsimp only | fail_if_no_progress (with_reducible refine Keeps.upd ?_ (by exact id) (by exact id) (by exact rfl)) | split)

theorem rootLdCommit_keeps {s₀ s : State} {f : State → State} (h : Keeps s₀ s)
    (hf : ∀ x, Keeps s₀ x → Keeps s₀ (f x)) : Keeps s₀ (rootLdCommit f s) :=
  hf _ (sendServiceDown_keeps (closeFeed_keeps (onLdr_keeps h _)) _ _ _)

theorem voteIfDone_keeps {s₀ s : State} {f : State → State} (h : Keeps s₀ s)
    (hf : ∀ x, Keeps s₀ x → Keeps s₀ (f x)) : Keeps s₀ (voteIfDone f s) := by
  unfold voteIfDone
  dsimp only
  split
  · split
    · exact rootLdCommit_keeps (onLdr_keeps h _) hf
    · exact sendVote_keeps h _
  · exact h

theorem writeSections_keeps {s₀ s : State} (hK : Keeps s₀ s) (l : List Staged) : Keeps s₀ (writeSections l s) := by
  unfold writeSections
  repeat' (first | with_reducible assumption | with_reducible apply ldSection_keeps | with_reducible refine Keeps.foldl (fun _ _ _ => ?_) _ ?_ | dsimp only)

theorem ldCommit_keeps {s₀ s : State} (hK : Keeps s₀ s) (bad : Option Nat) : Keeps s₀ (ldCommit bad s) := by
  unfold ldCommit
  repeat' (first | with_reducible assumption | with_reducible apply Keeps.id | with_reducible apply poisonLine_keeps | with_reducible apply rootAbort_keeps | with_reducible apply sendVote_keeps | with_reducible apply fillInitial_keeps | with_reducible apply writeSections_keeps | with_reducible apply onLdr_keeps | with_reducible apply beginTraining_keeps | with_reducible apply setImg_keeps | with_reducible apply Keeps.wrReg | with_reducible apply Keeps.ite | with_reducible refine Keeps.foldl (fun _ _ _ => ?_) _ ?_ | dsimp only | fail_if_no_progress (with_reducible refine Keeps.upd ?_ (by exact id) (by exact id) (by exact rfl)) | split)

theorem ldCommitMsg_keeps {s₀ s : State} (hK : Keeps s₀ s) (l : Nat) (bad : Option Nat) : Keeps s₀ (ldCommitMsg l bad s) := by
  unfold ldCommitMsg
  repeat' (first | with_reducible assumption | with_reducible apply ldCommit_keeps | with_reducible apply sendServiceDown_keeps | with_reducible apply Keeps.ite | dsimp only | split)

theorem loadChecksDone_keeps {s₀ s : State} (hK : Keeps s₀ s)  : Keeps s₀ (loadChecksDone s) := by
  unfold loadChecksDone
  repeat' (first | with_reducible assumption | with_reducible apply Keeps.id | with_reducible apply ldFail_keeps | with_reducible refine voteIfDone_keeps ?_ (fun _ _ => ?_) | with_reducible apply setImg_keeps | with_reducible apply onLdr_keeps | with_reducible apply Keeps.ite | dsimp only | fail_if_no_progress (with_reducible refine Keeps.upd ?_ (by exact id) (by exact id) (by exact rfl)) | split)

theorem ldVote_keeps {s₀ s : State} (hK : Keeps s₀ s) (l : Nat) (src : Nat) (v : Option LdErr) : Keeps s₀ (ldVote l src v s) := by
  unfold ldVote
  repeat' (first | with_reducible assumption | with_reducible apply Keeps.id | with_reducible apply rootAbort_keeps | with_reducible apply sendVote_keeps | with_reducible refine voteIfDone_keeps ?_ (fun _ _ => ?_) | with_reducible apply onLdr_keeps | with_reducible apply relayUp_keeps | with_reducible apply Keeps.ite | dsimp only | fail_if_no_progress (with_reducible refine Keeps.upd ?_ (by exact id) (by exact id) (by exact rfl)) | split)

theorem loadDone_keeps {s₀ s : State} (hK : Keeps s₀ s)  : Keeps s₀ (loadDone s) := by
  unfold loadDone
  repeat' (first | with_reducible assumption | with_reducible apply hostEvent_keeps | with_reducible apply clrBit_keeps | with_reducible apply clearErr_keeps | with_reducible apply setImg_keeps | dsimp only | fail_if_no_progress (with_reducible refine Keeps.upd ?_ (by exact id) (by exact id) (by exact rfl)))

theorem noteReady_keeps {s₀ s : State} (hK : Keeps s₀ s) (src : Nat) : Keeps s₀ (noteReady src s) := by
  unfold noteReady
  repeat' (first | with_reducible assumption | with_reducible apply onLdr_keeps | with_reducible apply loadDone_keeps | with_reducible apply Keeps.ite | dsimp only | fail_if_no_progress (with_reducible refine Keeps.upd ?_ (by exact id) (by exact id) (by exact rfl)) | split)

theorem ldReady_keeps {s₀ s : State} (hK : Keeps s₀ s) (l : Nat) (src : Nat) : Keeps s₀ (ldReady l src s) := by
  unfold ldReady
  repeat' (first | with_reducible assumption | with_reducible apply relayUp_keeps | with_reducible apply noteReady_keeps | with_reducible apply closeFeed_keeps | with_reducible apply onLdr_keeps | with_reducible apply Keeps.ite | dsimp only | fail_if_no_progress (with_reducible refine Keeps.upd ?_ (by exact id) (by exact id) (by exact rfl)) | split)

theorem enterReady_keeps {s₀ s : State} (hK : Keeps s₀ s)  : Keeps s₀ (enterReady s) := by
  unfold enterReady
  repeat' (first | with_reducible assumption | with_reducible apply rootAbort_keeps | with_reducible apply sendVote_keeps | with_reducible apply showPorts_keeps | with_reducible apply noteReady_keeps | with_reducible apply sendServiceUp_keeps | with_reducible apply loadDone_keeps | with_reducible apply Keeps.ite | dsimp only | fail_if_no_progress (with_reducible refine Keeps.upd ?_ (by exact id) (by exact id) (by exact rfl)) | split)

theorem watchTree_keeps {s₀ before after : State} (h : Keeps s₀ after) : Keeps s₀ (watchTree before after) := by
  unfold watchTree
  dsimp only
  split
  · exact ldFailCode_keeps h _
  · exact h

theorem feedReset_keeps {s₀ s : State} (hK : Keeps s₀ s)  : Keeps s₀ (feedReset s) := by
  unfold feedReset
  repeat' (first | with_reducible assumption | with_reducible apply rootAbort_keeps | with_reducible refine Keeps.whenDo ?_ (fun _ _ => ?_) | dsimp only)

theorem clearShelf_keeps {s₀ s : State} (hK : Keeps s₀ s) (h : Nat) : Keeps s₀ (clearShelf h s) := by
  unfold clearShelf
  repeat' (first | with_reducible assumption | dsimp only | fail_if_no_progress (with_reducible refine Keeps.upd ?_ (by (first | exact id | exact Registers.wf_filter _ | exact Registers.wf_keep _ | exact fun _ => Registers.wf_nil)) (by exact id) (by exact rfl)))

theorem reinitArrays_keeps {s₀ s : State} (hK : Keeps s₀ s) (st : List Staged) : Keeps s₀ (reinitArrays st s) := by
  unfold reinitArrays
  repeat' (first | with_reducible assumption | with_reducible apply ldPages_keeps | with_reducible apply Keeps.ite | with_reducible refine Keeps.foldl (fun _ _ _ => ?_) _ ?_ | with_reducible refine Keeps.foldl_fst (fun _ _ _ => ?_) _ ?_ | with_reducible refine Keeps.foldl_snd (fun _ _ _ => ?_) _ ?_ | with_reducible refine Keeps.foldl_trd (fun _ _ _ => ?_) _ ?_ | dsimp only | fail_if_no_progress (with_reducible refine Keeps.upd ?_ (by exact id) (by (first | exact id | exact Memory.wf_keep _ | exact fun _ => Memory.wf_nil)) (by exact rfl)) | split)

theorem reloadWrite_keeps {s₀ s : State} (hK : Keeps s₀ s)  : Keeps s₀ (reloadWrite s) := by
  unfold reloadWrite
  repeat' (first | with_reducible assumption | with_reducible apply clearShelf_keeps | with_reducible apply writeSections_keeps | with_reducible apply setImg_keeps | with_reducible apply fillInitial_keeps | with_reducible apply reinitArrays_keeps | with_reducible refine Keeps.foldl (fun _ _ _ => ?_) _ ?_ | dsimp only)

theorem rejoinShelf_keeps {s₀ s : State} (hK : Keeps s₀ s)  : Keeps s₀ (rejoinShelf s) := by
  unfold rejoinShelf
  repeat' (first | with_reducible assumption | with_reducible apply clrBit_keeps | with_reducible apply writeSections_keeps | dsimp only)

theorem takeResident_keeps {s₀ s : State} (hK : Keeps s₀ s) (st : List Staged) : Keeps s₀ (takeResident st s) := by
  unfold takeResident
  repeat' (first | with_reducible assumption | with_reducible apply onLdr_keeps | dsimp only | fail_if_no_progress (with_reducible refine Keeps.upd ?_ (by exact id) (by exact id) (by exact rfl)))

theorem reloadEnd_keeps {s₀ s : State} (hK : Keeps s₀ s)  : Keeps s₀ (reloadEnd s) := by
  unfold reloadEnd
  repeat' (first | with_reducible assumption | with_reducible apply hostEvent_keeps | with_reducible apply clearErr_keeps | with_reducible apply setImg_keeps | with_reducible apply onLdr_keeps | with_reducible apply closeFeed_keeps | with_reducible apply sendServiceUp_keeps | with_reducible apply Keeps.ite | dsimp only | fail_if_no_progress (with_reducible refine Keeps.upd ?_ (by exact id) (by exact id) (by exact rfl)) | split)

theorem reloadVerified_keeps {s₀ s : State} (hK : Keeps s₀ s)  : Keeps s₀ (reloadVerified s) := by
  unfold reloadVerified
  repeat' (first | with_reducible assumption | with_reducible apply ldFail_keeps | with_reducible apply onLdr_keeps | with_reducible apply closeFeed_keeps | with_reducible apply sendVote_keeps | with_reducible apply reloadWrite_keeps | with_reducible apply setImg_keeps | with_reducible apply setBit_keeps | with_reducible apply wr48_keeps | with_reducible apply Keeps.wrReg | with_reducible apply Keeps.ite | dsimp only | fail_if_no_progress (with_reducible refine Keeps.upd ?_ (by exact id) (by exact id) (by exact rfl)) | split)

theorem reloadWritesDone_keeps {s₀ s : State} (hK : Keeps s₀ s)  : Keeps s₀ (reloadWritesDone s) := by
  unfold reloadWritesDone
  repeat' (first | with_reducible assumption | with_reducible apply setImg_keeps | with_reducible apply setBit_keeps | with_reducible apply wr48_keeps | with_reducible apply reloadEnd_keeps | with_reducible apply takeResident_keeps | with_reducible apply rejoinShelf_keeps | with_reducible apply Keeps.ite | dsimp only | split)

theorem reloadAbandon_keeps {s₀ s : State} (hK : Keeps s₀ s)  : Keeps s₀ (reloadAbandon s) := by
  unfold reloadAbandon
  repeat' (first | with_reducible assumption | with_reducible apply wrFld_keeps | with_reducible apply rlAbort_keeps | with_reducible apply sendVote_keeps | with_reducible apply setBit_keeps | with_reducible apply Keeps.ite | dsimp only | split)

theorem ldAbortMsg_keeps {s₀ s : State} (hK : Keeps s₀ s) (l : Nat) (dst : Nat) (e : LdErr) : Keeps s₀ (ldAbortMsg l dst e s) := by
  unfold ldAbortMsg
  repeat' (first | with_reducible assumption | with_reducible apply ldAbort_keeps | with_reducible apply sendServiceDown_keeps | with_reducible apply relayService_keeps | with_reducible apply reloadAbandon_keeps | with_reducible apply rlAbort_keeps | with_reducible apply Keeps.ite | dsimp only | split)

theorem reloadBoundary_keeps {s₀ s : State} (hK : Keeps s₀ s) (e : Nat) : Keeps s₀ (reloadBoundary e s) := by
  unfold reloadBoundary
  repeat' (first | with_reducible assumption | with_reducible apply wrFld_keeps | with_reducible apply reloadEnd_keeps | with_reducible apply onLdr_keeps | with_reducible apply rejoinShelf_keeps | with_reducible apply clrBit_keeps | with_reducible apply Keeps.ite | dsimp only | fail_if_no_progress (with_reducible refine Keeps.upd ?_ (by exact id) (by exact id) (by exact rfl)) | split)

theorem reloadCommit_keeps {s₀ s : State} (hK : Keeps s₀ s) (k : Nat) : Keeps s₀ (reloadCommit k s) := by
  unfold reloadCommit
  repeat' (first | with_reducible assumption | with_reducible apply reloadWrite_keeps | with_reducible apply takeResident_keeps | with_reducible apply Keeps.ite | dsimp only | split)

theorem repairCluster_keeps {s₀ s : State} (hK : Keeps s₀ s) (m : Nat) : Keeps s₀ (repairCluster m s) := by
  unfold repairCluster
  repeat' (first | with_reducible assumption | with_reducible apply ldSection_keeps | with_reducible refine Keeps.foldl (fun _ _ _ => ?_) _ ?_ | dsimp only)

end Sys2Proof.Machine
end

