-- ==== Sys2Proof/Laws/KeepsRetire.lean ====
section
/-! SUPPORT. What every operation of Machine/Retire.lean keeps. -/

set_option linter.all false

namespace Sys2Proof.Machine

theorem setRole_keeps {s₀ s : State} (hK : Keeps s₀ s) (p : Nat) (r : Role) : Keeps s₀ (setRole p r s) := by
  unfold setRole
  repeat' (first | with_reducible assumption | dsimp only | fail_if_no_progress (with_reducible refine Keeps.upd ?_ (by exact id) (by exact id) (by exact rfl)))

theorem foldl_regs {f : Nat → Nat} (l : SMap Word) (m : SMap Word) (h : Registers.wf m) :
    Registers.wf (l.foldl (fun acc x => mapSet (regReset (f x.1)) acc (f x.1) x.2) m) := by
  induction l generalizing m with
  | nil => exact h
  | cons a l ih => exact ih _ (mapSet_regs h)

theorem copyRegs_wf {p q : Nat} {m : SMap Word} (h : Registers.wf m) : Registers.wf (copyRegs p q m) := by
  unfold copyRegs
  dsimp only
  exact foldl_regs _ _ (Registers.wf_filter _ h)

theorem copyCluster_keeps {s₀ s : State} (hK : Keeps s₀ s) (p : Nat) (q : Nat) : Keeps s₀ (copyCluster p q s) := by
  unfold copyCluster
  repeat' (first | with_reducible assumption | with_reducible apply setBit_keeps | with_reducible apply Keeps.ite | with_reducible refine Keeps.whenDo ?_ (fun _ _ => ?_) | dsimp only | fail_if_no_progress (with_reducible refine Keeps.upd ?_ (by (first | exact id | exact copyRegs_wf | exact Registers.wf_filter _ | exact Registers.wf_keep _ | exact fun _ => Registers.wf_nil)) (by exact id) (by exact rfl)) | split)

theorem unitLog_keeps {s₀ s : State} (hK : Keeps s₀ s) (kind : Nat) (resp : Nat) (cls : Nat) (unit : Nat) : Keeps s₀ (unitLog kind resp cls unit s) := by
  unfold unitLog
  repeat' (first | with_reducible assumption | with_reducible apply attLog_keeps | dsimp only)

theorem moveCluster_keeps {s₀ s : State} {p q m : Nat} (hK : Keeps s₀ s) (e : q / 17 = m / 16) :
    Keeps s₀ (moveCluster p q m s) := by
  unfold moveCluster
  refine takeOverCore_keeps (Keeps.whenDo (repairCluster_keeps (Keeps.remap ?_ e) _) fun _ h => setBank_keeps h _) _
  exact setRole_keeps (setRole_keeps (retireCore_keeps (schedMove_keeps (copyCluster_keeps hK _ _) _ _) _) _ _) _ _

theorem spareOf_shelf {s : State} {h q : Nat} (e : spareOf s h = some q) : q / 17 = h := by
  have := List.mem_of_find?_eq_some e
  simp only [List.mem_range'_1] at this
  omega

theorem logOf_shelf {s : State} {p m : Nat} (e : logOf s p = some m) : m / 16 = p / 17 := by
  obtain ⟨i, hi, h⟩ := List.exists_of_findSome?_eq_some e
  simp only [List.mem_range] at hi
  dsimp only at h
  split at h
  · cases h
    omega
  · cases h

theorem retireCluster_keeps {s₀ s : State} (hK : Keeps s₀ s) (p : Nat) : Keeps s₀ (retireCluster p s) := by
  unfold retireCluster
  split
  · exact hK
  · exact setRole_keeps hK _ _
  · split
    · rename_i e f
      exact moveCluster_keeps hK ((spareOf_shelf e).trans (logOf_shelf f).symm)
    · exact hK

theorem retireLaneUnit_keeps {s₀ s : State} (hK : Keeps s₀ s) (p : Nat) : Keeps s₀ (retireLaneUnit p s) := by
  unfold retireLaneUnit
  repeat' (first | with_reducible assumption | with_reducible apply sendCmd_keeps | with_reducible apply swapLanes_keeps | with_reducible apply clrBit_keeps | with_reducible apply retireLane_keeps | with_reducible apply Keeps.ite | dsimp only | split)

theorem retireUnit_keeps {s₀ s : State} (hK : Keeps s₀ s) (cls : Nat) (unit : Nat) : Keeps s₀ (retireUnit cls unit s) := by
  unfold retireUnit
  repeat' (first | with_reducible assumption | with_reducible apply retireCluster_keeps | with_reducible apply retireLaneUnit_keeps | with_reducible apply retirePc_keeps | with_reducible apply dmaRetire_keeps | with_reducible apply unitLog_keeps | dsimp only | fail_if_no_progress (with_reducible refine Keeps.upd ?_ (by exact id) (by exact id) (by exact rfl)) | split)

theorem takePosition_keeps {s₀ s : State} (hK : Keeps s₀ s) (cls : Nat) (unit : Nat) : Keeps s₀ (takePosition cls unit s) := by
  unfold takePosition
  repeat' (first | with_reducible assumption | with_reducible apply setRole_keeps | with_reducible apply makeSpare_keeps | with_reducible apply putPc_keeps | with_reducible apply putChan_keeps | with_reducible apply unitLog_keeps | dsimp only | fail_if_no_progress (with_reducible refine Keeps.upd ?_ (by (first | exact id | exact copyRegs_wf | exact Registers.wf_filter _ | exact Registers.wf_keep _ | exact fun _ => Registers.wf_nil)) (by (first | exact id | exact copyRegs_wf | exact Memory.wf_keep _ | exact fun _ => Memory.wf_nil)) (by exact rfl)) | split)

theorem fillPositions_keeps {s₀ s : State} (hK : Keeps s₀ s)  : Keeps s₀ (fillPositions s) := by
  unfold fillPositions
  repeat' (first | with_reducible assumption | with_reducible apply takePosition_keeps | with_reducible apply Keeps.ite | with_reducible refine Keeps.foldl (fun _ _ _ => ?_) _ ?_ | with_reducible refine Keeps.foldl_fst (fun _ _ _ => ?_) _ ?_ | with_reducible refine Keeps.foldl_snd (fun _ _ _ => ?_) _ ?_ | with_reducible refine Keeps.foldl_trd (fun _ _ _ => ?_) _ ?_ | dsimp only | split)

end Sys2Proof.Machine
end

