-- ==== Sys2Proof/Laws/KeepsBoot.lean ====
section
/-! SUPPORT. What every operation of Machine/Boot.lean keeps. -/

set_option linter.all false

namespace Sys2Proof.Machine

theorem hostReset_keeps {s₀ s : State} (hK : Keeps s₀ s)  : Keeps s₀ (hostReset s) := by
  unfold hostReset
  repeat' (first | with_reducible assumption | with_reducible apply Keeps.resetDom | dsimp only | fail_if_no_progress (with_reducible refine Keeps.upd ?_ (by exact id) (by exact id) (by exact rfl)))

theorem State.reset_regs_wf : Registers.wf State.reset.regs := Registers.wf_nil

theorem State.reset_mem_wf : Memory.wf State.reset.cel.mem := Memory.wf_nil

/-- The map of an unfused device: each shelf's logical clusters are served by its first sixteen. -/
theorem State.reset_map : MapOk State.reset := fun m _ => by
  show (idMap m) / 17 = m / 16
  unfold idMap
  omega

theorem porstAssert_keeps {s₀ s : State} (hK : Keeps s₀ s) : Keeps s₀ (porstAssert s) :=
  hK.trans ⟨rfl, fun _ => ⟨State.reset_regs_wf, State.reset_mem_wf⟩, fun _ => State.reset_map⟩

theorem enterBoot_keeps {s₀ s : State} (hK : Keeps s₀ s)  : Keeps s₀ (enterBoot s) := by
  unfold enterBoot
  repeat' (first | with_reducible assumption | with_reducible apply imageReset_keeps | with_reducible apply wrFld_keeps | with_reducible apply setBit_keeps | with_reducible apply wakeAll_keeps | with_reducible apply Keeps.ite | with_reducible refine Keeps.whenDo ?_ (fun _ _ => ?_) | with_reducible refine Keeps.foldl (fun _ _ _ => ?_) _ ?_ | with_reducible apply Keeps.resetDom | dsimp only | fail_if_no_progress (with_reducible refine Keeps.upd ?_ (by exact id) (by exact id) (by exact rfl)) | split)

theorem porstRelease_keeps {s₀ s : State} (hK : Keeps s₀ s)  : Keeps s₀ (porstRelease s) := by
  unfold porstRelease
  repeat' (first | with_reducible assumption | with_reducible refine takeFree_keeps ?_ (by assumption) | with_reducible apply takeFree_keepsP | with_reducible apply enterBoot_keeps | with_reducible apply Keeps.ite | dsimp only | fail_if_no_progress (with_reducible refine Keeps.upd ?_ (by exact id) (by exact id) (by exact rfl)) | split)

theorem perstAssert_keeps {s₀ s : State} (hK : Keeps s₀ s)  : Keeps s₀ (perstAssert s) := by
  unfold perstAssert
  repeat' (first | with_reducible assumption | with_reducible apply hostReset_keeps | with_reducible apply feedReset_keeps | with_reducible apply dmaPerst_keeps | with_reducible apply Keeps.ite | dsimp only | fail_if_no_progress (with_reducible refine Keeps.upd ?_ (by exact id) (by exact id) (by exact rfl)) | split)

theorem configReady_keeps {s₀ s : State} (hK : Keeps s₀ s)  : Keeps s₀ (configReady s) := by
  unfold configReady
  repeat' (first | with_reducible assumption | with_reducible apply Keeps.ite | dsimp only | fail_if_no_progress (with_reducible refine Keeps.upd ?_ (by exact id) (by exact id) (by exact rfl)) | split)

theorem setBoot_keeps {s₀ s : State} (hK : Keeps s₀ s) (n : Nat) : Keeps s₀ (setBoot n s) := by
  unfold setBoot
  repeat' (first | with_reducible assumption | with_reducible apply onLdr_keeps | dsimp only | fail_if_no_progress (with_reducible refine Keeps.upd ?_ (by exact id) (by exact id) (by exact rfl)))

theorem putRx_keeps {s₀ s : State} (hK : Keeps s₀ s) (src : Nat) (r : ShellRx) : Keeps s₀ (putRx src r s) := by
  unfold putRx
  repeat' (first | with_reducible assumption | with_reducible apply onLdr_keeps | dsimp only | fail_if_no_progress (with_reducible refine Keeps.upd ?_ (by exact id) (by exact id) (by exact rfl)))

theorem shellStage_keeps {s₀ s : State} (hK : Keeps s₀ s) (flash : Bool) : Keeps s₀ (shellStage flash s) := by
  unfold shellStage
  repeat' (first | with_reducible assumption | with_reducible apply setBoot_keeps | with_reducible apply putRx_keeps | with_reducible apply setImg_keeps | with_reducible apply Keeps.ite | dsimp only | fail_if_no_progress (with_reducible refine Keeps.upd ?_ (by exact id) (by exact id) (by exact rfl)) | split)

theorem enterBlank_keeps {s₀ s : State} (hK : Keeps s₀ s)  : Keeps s₀ (enterBlank s) := by
  unfold enterBlank
  repeat' (first | with_reducible assumption | with_reducible apply blankFromBoot_keeps | with_reducible apply setBoot_keeps | dsimp only | fail_if_no_progress (with_reducible refine Keeps.upd ?_ (by exact id) (by exact id) (by exact rfl)))

theorem clockLocked_keeps {s₀ s : State} (hK : Keeps s₀ s)  : Keeps s₀ (clockLocked s) := by
  unfold clockLocked
  repeat' (first | with_reducible assumption | with_reducible apply setBit_keeps | dsimp only | fail_if_no_progress (with_reducible refine Keeps.upd ?_ (by exact id) (by exact id) (by exact rfl)))

theorem cellarStage_keeps {s₀ s : State} (hK : Keeps s₀ s)  : Keeps s₀ (cellarStage s) := by
  unfold cellarStage
  repeat' (first | with_reducible assumption | with_reducible apply layoutGeneral_keeps | with_reducible apply placePcs_keeps | with_reducible apply sealCellar_keeps | dsimp only)

theorem bootStageDone_keeps {s₀ s : State} (hK : Keeps s₀ s) (flash : Bool) : Keeps s₀ (bootStageDone flash s) := by
  unfold bootStageDone
  repeat' (first | with_reducible assumption | with_reducible apply setBoot_keeps | with_reducible apply setBit_keeps | with_reducible apply clockLocked_keeps | with_reducible apply shellStage_keeps | with_reducible apply cellarStage_keeps | with_reducible apply enterBlank_keeps | with_reducible apply Keeps.ite | dsimp only | split)

theorem bootStageTimeout_keeps {s₀ s : State} (hK : Keeps s₀ s)  : Keeps s₀ (bootStageTimeout s) := by
  unfold bootStageTimeout
  repeat' (first | with_reducible assumption | with_reducible apply enterSafe_keeps | with_reducible apply enterSafeOpen_keeps | with_reducible apply setBoot_keeps | with_reducible apply Keeps.ite | dsimp only | split)

theorem placeLanes_keeps {s₀ s : State} (hK : Keeps s₀ s) (k : MapLink) : Keeps s₀ (placeLanes k s) := by
  unfold placeLanes
  repeat' (first | with_reducible assumption | with_reducible apply wrFld_keeps | with_reducible apply retireLane_keeps | with_reducible apply Keeps.wrReg | with_reducible apply Keeps.ite | with_reducible refine Keeps.foldl (fun _ _ _ => ?_) _ ?_ | dsimp only | split)

theorem placeLink_keeps {s₀ s : State} (hK : Keeps s₀ s) (k : MapLink) : Keeps s₀ (placeLink k s) := by
  unfold placeLink
  repeat' (first | with_reducible assumption | with_reducible apply placeLanes_keeps | with_reducible apply Keeps.wrReg | with_reducible apply Keeps.ite | dsimp only | split)

theorem takeLinkMap_keeps {s₀ s : State} (hK : Keeps s₀ s) (ks : List MapLink) : Keeps s₀ (takeLinkMap ks s) := by
  unfold takeLinkMap
  repeat' (first | with_reducible assumption | with_reducible apply setLinkState_keeps | with_reducible apply placeLink_keeps | with_reducible apply beginTraining_keeps | with_reducible refine Keeps.foldl (fun _ _ _ => ?_) _ ?_ | dsimp only | fail_if_no_progress (with_reducible refine Keeps.upd ?_ (by exact id) (by exact id) (by exact rfl)))

theorem takeCrate_keeps {s₀ s : State} (hK : Keeps s₀ s) (c : CrateRec) : Keeps s₀ (takeCrate c s) := by
  unfold takeCrate
  repeat' (first | with_reducible assumption | with_reducible apply wrFld_keeps | dsimp only | fail_if_no_progress (with_reducible refine Keeps.upd ?_ (by exact id) (by exact id) (by exact rfl)))

theorem takeTime_keeps {s₀ s : State} (hK : Keeps s₀ s) (t : List Byte) : Keeps s₀ (takeTime t s) := by
  unfold takeTime
  repeat' (first | with_reducible assumption | with_reducible apply Keeps.wrReg | with_reducible apply Keeps.ite | with_reducible refine Keeps.foldl (fun _ _ _ => ?_) _ ?_ | with_reducible refine Keeps.foldl_fst (fun _ _ _ => ?_) _ ?_ | with_reducible refine Keeps.foldl_snd (fun _ _ _ => ?_) _ ?_ | with_reducible refine Keeps.foldl_trd (fun _ _ _ => ?_) _ ?_ | dsimp only | fail_if_no_progress (with_reducible refine Keeps.upd ?_ (by exact id) (by exact id) (by exact rfl)) | split)

theorem takeFirmware_keeps {s₀ s : State} (hK : Keeps s₀ s) (t : Option (List Byte)) : Keeps s₀ (takeFirmware t s) := by
  unfold takeFirmware
  repeat' (first | with_reducible assumption | with_reducible apply celPut_keeps | with_reducible apply Keeps.wrReg | with_reducible apply Keeps.ite | with_reducible refine Keeps.foldl (fun _ _ _ => ?_) _ ?_ | dsimp only | fail_if_no_progress (with_reducible refine Keeps.upd ?_ (by exact id) (by (first | exact id | exact Memory.wf_keep _ | exact fun _ => Memory.wf_nil)) (by exact rfl)) | split)

theorem startStewards_keeps {s₀ s : State} (hK : Keeps s₀ s) (fw : Bool) : Keeps s₀ (startStewards fw s) := by
  unfold startStewards
  repeat' (first | with_reducible assumption | with_reducible apply dropCaches_keeps | with_reducible apply startCore_keeps | with_reducible apply Keeps.ite | with_reducible refine Keeps.foldl (fun _ _ _ => ?_) _ ?_ | dsimp only | split)

theorem preRetire_keeps {s₀ s : State} (hK : Keeps s₀ s) (u : Nat × Nat) : Keeps s₀ (preRetire u s) := by
  unfold preRetire
  repeat' (first | with_reducible assumption | with_reducible apply retireUnit_keeps | with_reducible apply unitLog_keeps | with_reducible apply Keeps.ite | dsimp only | split)

theorem takePolicy_keeps {s₀ s : State} (hK : Keeps s₀ s) (t : Option (List Byte)) : Keeps s₀ (takePolicy t s) := by
  unfold takePolicy
  repeat' (first | with_reducible assumption | with_reducible apply preRetire_keeps | with_reducible refine Keeps.foldl (fun _ _ _ => ?_) _ ?_ | dsimp only | fail_if_no_progress (with_reducible refine Keeps.upd ?_ (by exact id) (by exact id) (by exact rfl)) | split)

theorem takeIo_keeps {s₀ s : State} (hK : Keeps s₀ s) (t : Option (List Byte)) : Keeps s₀ (takeIo t s) := by
  unfold takeIo
  repeat' (first | with_reducible assumption | with_reducible apply Keeps.wrReg | dsimp only | fail_if_no_progress (with_reducible refine Keeps.upd ?_ (by exact id) (by exact id) (by exact rfl)) | split)

theorem takeShell_keeps {s₀ s : State} (hK : Keeps s₀ s) (src : Nat) (b : List Byte) (rs : List ShellRec) : Keeps s₀ (takeShell src b rs s) := by
  unfold takeShell
  repeat' (first | with_reducible assumption | with_reducible apply takeCrate_keeps | with_reducible apply takeLinkMap_keeps | with_reducible apply takeTime_keeps | with_reducible apply setBit_keeps | with_reducible apply wrFld_keeps | with_reducible apply layoutGeneral_keeps | with_reducible apply takeIo_keeps | with_reducible apply startStewards_keeps | with_reducible apply takeFirmware_keeps | with_reducible apply setImg_keeps | with_reducible apply closeFeed_keeps | with_reducible apply onLdr_keeps | with_reducible apply takePolicy_keeps | with_reducible apply Keeps.wrReg | with_reducible refine Keeps.whenDo ?_ (fun _ _ => ?_) | with_reducible refine Keeps.foldl (fun _ _ _ => ?_) _ ?_ | with_reducible refine Keeps.foldl_fst (fun _ _ _ => ?_) _ ?_ | with_reducible refine Keeps.foldl_snd (fun _ _ _ => ?_) _ ?_ | with_reducible refine Keeps.foldl_trd (fun _ _ _ => ?_) _ ?_ | dsimp only | fail_if_no_progress (with_reducible refine Keeps.upd ?_ (by exact id) (by exact id) (by exact rfl)) | split)

theorem shellFail_keeps {s₀ s : State} (hK : Keeps s₀ s) (src : Nat) (code : Nat) : Keeps s₀ (shellFail src code s) := by
  unfold shellFail
  repeat' (first | with_reducible assumption | with_reducible apply captureErr_keeps | with_reducible apply putRx_keeps | with_reducible apply onLdr_keeps | with_reducible apply setImg_keeps | with_reducible apply closeFeed_keeps | with_reducible apply Keeps.ite | with_reducible refine Keeps.whenDo ?_ (fun _ _ => ?_) | dsimp only | fail_if_no_progress (with_reducible refine Keeps.upd ?_ (by exact id) (by exact id) (by exact rfl)) | split)

theorem shellTake_keeps {s₀ s : State} (hK : Keeps s₀ s) (src : Nat) (f : List Byte) : Keeps s₀ (shellTake src f s) := by
  unfold shellTake
  repeat' (first | with_reducible assumption | with_reducible apply putRx_keeps | with_reducible apply shellFail_keeps | with_reducible apply setImg_keeps | with_reducible apply onLdr_keeps | with_reducible apply Keeps.ite | dsimp only | fail_if_no_progress (with_reducible refine Keeps.upd ?_ (by exact id) (by exact id) (by exact rfl)) | split)

theorem shellFrame_keeps {s₀ s : State} (hK : Keeps s₀ s) (src : Nat) (l : Nat) (flash : List Byte) : Keeps s₀ (shellFrame src l flash s) := by
  unfold shellFrame
  repeat' (first | with_reducible assumption | with_reducible apply shellTake_keeps | with_reducible apply shellFail_keeps | with_reducible apply putRx_keeps | with_reducible apply sendService_keeps | with_reducible apply Keeps.ite | dsimp only | fail_if_no_progress (with_reducible refine Keeps.upd ?_ (by exact id) (by exact id) (by exact rfl)) | split)

theorem shFrame_keeps {s₀ s : State} (hK : Keeps s₀ s) (l : Nat) (index : Nat) (frame : List Byte) : Keeps s₀ (shFrame l index frame s) := by
  unfold shFrame
  repeat' (first | with_reducible assumption | with_reducible apply putRx_keeps | with_reducible apply Keeps.ite | dsimp only | fail_if_no_progress (with_reducible refine Keeps.upd ?_ (by exact id) (by exact id) (by exact rfl)) | split)

theorem sendFrame_keeps {s₀ s : State} (hK : Keeps s₀ s) (l : Nat) (i : Nat) (b : List Byte) : Keeps s₀ (sendFrame l i b s) := by
  unfold sendFrame
  repeat' (first | with_reducible assumption | with_reducible apply sendService_keeps | dsimp only)

theorem serveChild_keeps {s₀ s : State} (hK : Keeps s₀ s) (l : Nat) : Keeps s₀ (serveChild l s) := by
  unfold serveChild
  repeat' (first | with_reducible assumption | with_reducible apply sendFrame_keeps | with_reducible refine Keeps.foldl (fun _ _ _ => ?_) _ ?_ | with_reducible refine Keeps.foldl_fst (fun _ _ _ => ?_) _ ?_ | with_reducible refine Keeps.foldl_snd (fun _ _ _ => ?_) _ ?_ | with_reducible refine Keeps.foldl_trd (fun _ _ _ => ?_) _ ?_ | dsimp only | split)

theorem shReq_keeps {s₀ s : State} (hK : Keeps s₀ s) (l : Nat) (index : Nat) : Keeps s₀ (shReq l index s) := by
  unfold shReq
  repeat' (first | with_reducible assumption | with_reducible apply sendFrame_keeps | with_reducible apply Keeps.ite | dsimp only | split)

theorem shellVerified_keeps {s₀ s : State} (hK : Keeps s₀ s)  : Keeps s₀ (shellVerified s) := by
  unfold shellVerified
  repeat' (first | with_reducible assumption | with_reducible apply shellFail_keeps | with_reducible apply takeShell_keeps | with_reducible apply Keeps.ite | dsimp only | split)

theorem linkTrained_keeps {s₀ s : State} (hK : Keeps s₀ s) (l : Nat) (lam : Nat) (boot : Bool) : Keeps s₀ (linkTrained l lam boot s) := by
  unfold linkTrained
  repeat' (first | with_reducible assumption | with_reducible apply serveChild_keeps | with_reducible apply setLinkState_keeps | with_reducible apply putLink_keeps | with_reducible apply beginTraining_keeps | with_reducible apply watchTree_keeps | with_reducible apply linkStateDone_keeps | with_reducible apply Keeps.ite | dsimp only | split)

theorem reqRejected_keeps {s₀ s : State} (hK : Keeps s₀ s)  : Keeps s₀ (reqRejected s) := by
  unfold reqRejected
  repeat' (first | with_reducible assumption | with_reducible apply setBit_keeps | dsimp only)

theorem loadRequest_keeps {s₀ s : State} {b : Nat} {f : State → Option State} (h : Keeps s₀ s)
    (hf : ∀ x y, Keeps s₀ x → f x = some y → Keeps s₀ y) : Keeps s₀ (loadRequest b f s) := by
  unfold loadRequest
  split
  · exact reqRejected_keeps h
  · split
    · cases e : f s with
      | none => exact reqRejected_keeps h
      | some y => exact hf _ _ h e
    · exact remoteIssue_keeps h _ _ _ _ _

theorem imgLoad_keeps {s₀ s : State} (hK : Keeps s₀ s)  : Keeps s₀ (imgLoad s) := by
  unfold imgLoad
  repeat' (first | with_reducible assumption | with_reducible refine loadRequest_keeps ?_ (fun _ _ _ _ => ?_) | with_reducible refine rootLoad_keeps ?_ (by assumption) | dsimp only)

theorem imgReload_keeps {s₀ s : State} (hK : Keeps s₀ s)  : Keeps s₀ (imgReload s) := by
  unfold imgReload
  repeat' (first | with_reducible assumption | with_reducible refine loadRequest_keeps ?_ (fun _ _ _ _ => ?_) | with_reducible refine rootReload_keeps ?_ (by assumption) | dsimp only)

theorem imgAbort_keeps {s₀ s : State} (hK : Keeps s₀ s)  : Keeps s₀ (imgAbort s) := by
  unfold imgAbort
  repeat' (first | with_reducible assumption | with_reducible refine rootAbortReq_keeps ?_ (fun _ _ => ?_) | with_reducible apply reloadAbandon_keeps | with_reducible apply setBit_keeps | with_reducible apply remoteIssue_keeps | with_reducible apply Keeps.ite | dsimp only | split)

theorem imgShellFeed_keeps {s₀ s : State} (hK : Keeps s₀ s)  : Keeps s₀ (imgShellFeed s) := by
  unfold imgShellFeed
  repeat' (first | with_reducible assumption | with_reducible apply openFeed_keeps | with_reducible apply putRx_keeps | with_reducible apply Keeps.ite | dsimp only | fail_if_no_progress (with_reducible refine Keeps.upd ?_ (by exact id) (by exact id) (by exact rfl)) | split)

theorem imgReboot_keeps {s₀ s : State} (hK : Keeps s₀ s)  : Keeps s₀ (imgReboot s) := by
  unfold imgReboot
  repeat' (first | with_reducible assumption | with_reducible apply enterBoot_keeps | with_reducible apply Keeps.ite | dsimp only | split)

theorem imgCtrlWrite_keeps {s₀ s : State} (hK : Keeps s₀ s) (v : Word) : Keeps s₀ (imgCtrlWrite v s) := by
  unfold imgCtrlWrite
  repeat' (first | with_reducible assumption | with_reducible apply imgLoad_keeps | with_reducible apply imgReload_keeps | with_reducible apply imgAbort_keeps | with_reducible apply imgShellFeed_keeps | with_reducible apply imgReboot_keeps | with_reducible refine Keeps.whenDo ?_ (fun _ _ => ?_) | dsimp only)

end Sys2Proof.Machine
end

