-- ==== Sys2Proof/Laws/KeepsAttic.lean ====
section
/-! SUPPORT. What every operation of Machine/Attic.lean keeps. -/

set_option linter.all false

namespace Sys2Proof.Machine

theorem onAtt_keeps {s₀ s : State} (hK : Keeps s₀ s) (f : Attic → Attic) : Keeps s₀ (onAtt f s) := by
  unfold onAtt
  repeat' (first | with_reducible assumption | dsimp only | fail_if_no_progress (with_reducible refine Keeps.upd ?_ (by exact id) (by exact id) (by exact rfl)))

theorem repairUnit_keeps {s₀ s : State} (hK : Keeps s₀ s) (cls : Nat) (unit : Nat) : Keeps s₀ (repairUnit cls unit s) := by
  unfold repairUnit
  repeat' (first | with_reducible assumption | with_reducible apply ldSection_keeps | with_reducible apply repairCluster_keeps | with_reducible apply ldWords_keeps | with_reducible apply Keeps.ite | with_reducible refine Keeps.foldl (fun _ _ _ => ?_) _ ?_ | dsimp only | split)

theorem requestRollback_keeps {s₀ s : State} (hK : Keeps s₀ s) (cause : Nat) : Keeps s₀ (requestRollback cause s) := by
  unfold requestRollback
  repeat' (first | with_reducible assumption | with_reducible apply issueRollback_keeps | with_reducible apply sendUp_keeps | with_reducible apply Keeps.ite | dsimp only | split)

theorem decideLater_keeps {s₀ s : State} (hK : Keeps s₀ s) (d : Decision) : Keeps s₀ (decideLater d s) := by
  unfold decideLater
  repeat' (first | with_reducible assumption | with_reducible apply onAtt_keeps | with_reducible apply Keeps.ite | dsimp only | fail_if_no_progress (with_reducible refine Keeps.upd ?_ (by exact id) (by exact id) (by exact rfl)) | split)

theorem classifyUnit_keeps {s₀ s : State} (hK : Keeps s₀ s) (permanent : Bool) (p : PendingOutcome → Bool) : Keeps s₀ (classifyUnit permanent p s) := by
  unfold classifyUnit
  repeat' (first | with_reducible assumption | with_reducible apply incFld_keeps | with_reducible apply setOutcome_keeps | with_reducible apply onAtt_keeps | with_reducible apply Keeps.ite | with_reducible refine Keeps.foldl (fun _ _ _ => ?_) _ ?_ | dsimp only | fail_if_no_progress (with_reducible refine Keeps.upd ?_ (by exact id) (by exact id) (by exact rfl)) | split)

theorem retireActive_keeps {s₀ s : State} (hK : Keeps s₀ s) (cls : Nat) (unit : Nat) (kind : Option Nat) (coming : Bool) : Keeps s₀ (retireActive cls unit kind coming s) := by
  unfold retireActive
  repeat' (first | with_reducible assumption | with_reducible apply retireUnit_keeps | with_reducible apply decideLater_keeps | with_reducible apply requestRollback_keeps | with_reducible apply Keeps.ite | with_reducible refine Keeps.whenDo ?_ (fun _ _ => ?_) | dsimp only | split)

theorem permanentUnit_keeps {s₀ s : State} (hK : Keeps s₀ s) (cls : Nat) (unit : Nat) (kind : Nat) (coming : Bool) : Keeps s₀ (permanentUnit cls unit kind coming s) := by
  unfold permanentUnit
  repeat' (first | with_reducible assumption | with_reducible apply classifyUnit_keeps | with_reducible apply enterSafe_keeps | with_reducible apply enterSafeOpen_keeps | with_reducible apply retireUnit_keeps | with_reducible apply retireActive_keeps | with_reducible apply Keeps.ite | dsimp only | split)

theorem logFault_keeps {s₀ s : State} (hK : Keeps s₀ s) (r : FaultRep) (resp : Response) (n : Nat) (pending : Bool) : Keeps s₀ (logFault r resp n pending s) := by
  unfold logFault
  repeat' (first | with_reducible assumption | with_reducible apply attLog_keeps | with_reducible apply onAtt_keeps | with_reducible apply Keeps.ite | dsimp only | fail_if_no_progress (with_reducible refine Keeps.upd ?_ (by exact id) (by exact id) (by exact rfl)) | split)

theorem bistEnd_keeps {s₀ s : State} (hK : Keeps s₀ s) (cls : Nat) (unit : Nat) : Keeps s₀ (bistEnd cls unit s) := by
  unfold bistEnd
  repeat' (first | with_reducible assumption | with_reducible apply onAtt_keeps | with_reducible apply Keeps.ite | dsimp only | fail_if_no_progress (with_reducible refine Keeps.upd ?_ (by exact id) (by exact id) (by exact rfl)) | split)

theorem faultDecide_keeps {s₀ s : State} (hK : Keeps s₀ s) (r : FaultRep) : Keeps s₀ (faultDecide r s) := by
  unfold faultDecide
  repeat' (first | with_reducible assumption | with_reducible apply logFault_keeps | with_reducible apply bistEnd_keeps | with_reducible apply onAtt_keeps | with_reducible apply permanentUnit_keeps | with_reducible apply requestRollback_keeps | with_reducible apply decideLater_keeps | with_reducible apply repairUnit_keeps | with_reducible apply Keeps.ite | with_reducible refine Keeps.whenDo ?_ (fun _ _ => ?_) | dsimp only | fail_if_no_progress (with_reducible refine Keeps.upd ?_ (by exact id) (by exact id) (by exact rfl)) | split)

theorem faultReport_keeps {s₀ s : State} (hK : Keeps s₀ s)  : Keeps s₀ (faultReport s) := by
  unfold faultReport
  repeat' (first | with_reducible assumption | with_reducible apply faultDecide_keeps | with_reducible apply onAtt_keeps | dsimp only | fail_if_no_progress (with_reducible refine Keeps.upd ?_ (by exact id) (by exact id) (by exact rfl)) | split)

theorem faultClassify_keeps {s₀ s : State} (hK : Keeps s₀ s)  : Keeps s₀ (faultClassify s) := by
  unfold faultClassify
  repeat' (first | with_reducible assumption | with_reducible apply classifyUnit_keeps | dsimp only)

theorem carryOut_keeps {s₀ s : State} (hK : Keeps s₀ s)  : Keeps s₀ (carryOut s) := by
  unfold carryOut
  repeat' (first | with_reducible assumption | with_reducible apply onAtt_keeps | with_reducible apply repairUnit_keeps | with_reducible apply retireUnit_keeps | with_reducible apply enterSafe_keeps | with_reducible apply enterSafeOpen_keeps | with_reducible apply Keeps.ite | with_reducible refine Keeps.foldl (fun _ _ _ => ?_) _ ?_ | dsimp only | fail_if_no_progress (with_reducible refine Keeps.upd ?_ (by exact id) (by exact id) (by exact rfl)) | split)

theorem bistStart_keeps {s₀ s : State} (hK : Keeps s₀ s) (cls : Nat) (unit : Nat) : Keeps s₀ (bistStart cls unit s) := by
  unfold bistStart
  repeat' (first | with_reducible assumption | with_reducible apply onAtt_keeps | with_reducible apply wakeShelf_keeps | with_reducible apply sendCmd_keeps | with_reducible apply putLink_keeps | with_reducible refine Keeps.whenDo ?_ (fun _ _ => ?_) | dsimp only | fail_if_no_progress (with_reducible refine Keeps.upd ?_ (by exact id) (by exact id) (by exact rfl)) | split)

theorem bistPass_keeps {s₀ s : State} (hK : Keeps s₀ s) (cls : Nat) (unit : Nat) : Keeps s₀ (bistPass cls unit s) := by
  unfold bistPass
  repeat' (first | with_reducible assumption | with_reducible apply onAtt_keeps | with_reducible apply fillPositions_keeps | with_reducible apply unitLog_keeps | with_reducible apply Keeps.ite | with_reducible refine Keeps.whenDo ?_ (fun _ _ => ?_) | dsimp only | fail_if_no_progress (with_reducible refine Keeps.upd ?_ (by exact id) (by exact id) (by exact rfl)) | split)

theorem bistDone_keeps {s₀ s : State} (hK : Keeps s₀ s) (cls : Nat) (unit : Nat) (ok : Bool) : Keeps s₀ (bistDone cls unit ok s) := by
  unfold bistDone
  repeat' (first | with_reducible assumption | with_reducible apply bistEnd_keeps | with_reducible apply setBit_keeps | with_reducible apply putPc_keeps | with_reducible apply bistPass_keeps | with_reducible apply Keeps.ite | dsimp only | fail_if_no_progress (with_reducible refine Keeps.upd ?_ (by exact id) (by exact id) (by exact rfl)) | split)

theorem laneBistEnd_keeps {s₀ s : State} (hK : Keeps s₀ s) (p : Nat) (errors : Nat) : Keeps s₀ (laneBistEnd p errors s) := by
  unfold laneBistEnd
  repeat' (first | with_reducible assumption | with_reducible apply sendCmd_keeps | with_reducible apply putLink_keeps | with_reducible apply setBit_keeps | with_reducible apply bistDone_keeps | with_reducible apply clrBit_keeps | with_reducible apply laneBistDone_keeps | with_reducible apply Keeps.ite | dsimp only | fail_if_no_progress (with_reducible refine Keeps.upd ?_ (by exact id) (by exact id) (by exact rfl)) | split)

theorem autoBist_keeps {s₀ s : State} (hK : Keeps s₀ s) (cls : Nat) (unit : Nat) : Keeps s₀ (autoBist cls unit s) := by
  unfold autoBist
  repeat' (first | with_reducible assumption | with_reducible apply bistStart_keeps | with_reducible apply Keeps.ite | dsimp only | split)

theorem scrubRead_keeps {s₀ s : State} (hK : Keeps s₀ s) (a : ScrubAt) : Keeps s₀ (scrubRead a s) := by
  unfold scrubRead
  repeat' (first | with_reducible assumption | with_reducible apply incFld_keeps | with_reducible apply onAtt_keeps | with_reducible apply scrubWriteBack_keeps | with_reducible apply reportFail_keeps | with_reducible apply attLog_keeps | with_reducible apply repairUnit_keeps | with_reducible apply Keeps.ite | dsimp only | fail_if_no_progress (with_reducible refine Keeps.upd ?_ (by exact id) (by exact id) (by exact rfl)) | split)

theorem showVote_keeps {s₀ s : State} (hK : Keeps s₀ s)  : Keeps s₀ (showVote s) := by
  unfold showVote
  repeat' (first | with_reducible assumption | with_reducible apply wrFld_keeps | dsimp only)

theorem sweepEnd_keeps {s₀ s : State} (hK : Keeps s₀ s) (v : ScrubVote) : Keeps s₀ (sweepEnd v s) := by
  unfold sweepEnd
  repeat' (first | with_reducible assumption | with_reducible apply wrFld_keeps | with_reducible apply enterSafe_keeps | with_reducible apply enterSafeOpen_keeps | with_reducible apply showVote_keeps | with_reducible apply report_keeps | with_reducible apply onAtt_keeps | with_reducible apply incFld_keeps | with_reducible apply Keeps.ite | dsimp only | fail_if_no_progress (with_reducible refine Keeps.upd ?_ (by exact id) (by exact id) (by exact rfl)) | split)

theorem copyRebuilt_keeps {s₀ s : State} (hK : Keeps s₀ s) (k : Nat) : Keeps s₀ (copyRebuilt k s) := by
  unfold copyRebuilt
  repeat' (first | with_reducible assumption | with_reducible apply onAtt_keeps | with_reducible apply showVote_keeps | with_reducible apply setBit_keeps | with_reducible apply Keeps.ite | dsimp only | fail_if_no_progress (with_reducible refine Keeps.upd ?_ (by exact id) (by exact id) (by exact rfl)) | split)

theorem setGrants_keeps {s₀ s : State} (hK : Keeps s₀ s) (n : Nat) : Keeps s₀ (setGrants n s) := by
  unfold setGrants whenDo
  dsimp only
  split
  · exact traceGrantEnds_keeps (wrFld_keeps hK _ _ _ _)
  · exact wrFld_keeps hK _ _ _ _

theorem endGrants_keeps {s₀ s : State} (hK : Keeps s₀ s)  : Keeps s₀ (endGrants s) := by
  unfold endGrants
  exact onAtt_keeps (setGrants_keeps hK 0) _

theorem submitMb_keepsP {s₀ s : State} (hK : Keeps s₀ s) (who : MbWho) (bytes : List Byte) : Keeps s₀ (submitMb who bytes s).1 := by
  unfold submitMb
  repeat' (first | with_reducible assumption | with_reducible apply setBit_keeps | with_reducible apply onAtt_keeps | with_reducible apply clrBit_keeps | with_reducible apply wrFld_keeps | with_reducible apply Keeps.ite | with_reducible apply Keeps.ite_fst | with_reducible apply Keeps.ite_snd | dsimp only | fail_if_no_progress (with_reducible refine Keeps.upd ?_ (by exact id) (by exact id) (by exact rfl)) | split)

theorem submitMb_keeps {s₀ s tK : State} {who : MbWho} {bytes : List Byte} {xK} (hK : Keeps s₀ s) (eK : submitMb who bytes s = (tK, xK)) : Keeps s₀ tK := by
  have h := submitMb_keepsP hK who bytes
  rw [eK] at h
  exact h

theorem mbStatus_keepsP {s₀ s : State} (hK : Keeps s₀ s)  : Keeps s₀ (mbStatus s).2.2 := by
  unfold mbStatus
  repeat' (first | with_reducible assumption | dsimp only)

theorem mbStatus_keeps {s₀ s tK : State}  {xK yK} (hK : Keeps s₀ s) (eK : mbStatus s = (xK, yK, tK)) : Keeps s₀ tK := by
  have h := mbStatus_keepsP hK 
  rw [eK] at h
  exact h

theorem mbLogRead_keepsP {s₀ s : State} (hK : Keeps s₀ s) (b : List Byte) : Keeps s₀ (mbLogRead b s).2.2 := by
  unfold mbLogRead
  repeat' (first | with_reducible assumption | with_reducible apply Keeps.ite | with_reducible apply Keeps.ite_fst | with_reducible apply Keeps.ite_snd | dsimp only | split)

theorem mbLogRead_keeps {s₀ s tK : State} {b : List Byte} {xK yK} (hK : Keeps s₀ s) (eK : mbLogRead b s = (xK, yK, tK)) : Keeps s₀ tK := by
  have h := mbLogRead_keepsP hK b
  rw [eK] at h
  exact h

theorem mbLogClear_keepsP {s₀ s : State} (hK : Keeps s₀ s)  : Keeps s₀ (mbLogClear s).2.2 := by
  unfold mbLogClear
  repeat' (first | with_reducible assumption | with_reducible apply onAtt_keeps | dsimp only | fail_if_no_progress (with_reducible refine Keeps.upd ?_ (by (first | exact id | exact Registers.wf_filter _ | exact Registers.wf_keep _ | exact fun _ => Registers.wf_nil)) (by exact id) (by exact rfl)))

theorem mbLogClear_keeps {s₀ s tK : State}  {xK yK} (hK : Keeps s₀ s) (eK : mbLogClear s = (xK, yK, tK)) : Keeps s₀ tK := by
  have h := mbLogClear_keepsP hK 
  rw [eK] at h
  exact h

theorem mbChallenge_keepsP {s₀ s : State} (hK : Keeps s₀ s)  : Keeps s₀ (mbChallenge s).2.2 := by
  unfold mbChallenge
  repeat' (first | with_reducible assumption | with_reducible refine takeFree_keeps ?_ (by assumption) | with_reducible apply takeFree_keepsP | with_reducible apply onAtt_keeps | dsimp only | fail_if_no_progress (with_reducible refine Keeps.upd ?_ (by exact id) (by exact id) (by exact rfl)) | split)

theorem mbChallenge_keeps {s₀ s tK : State}  {xK yK} (hK : Keeps s₀ s) (eK : mbChallenge s = (xK, yK, tK)) : Keeps s₀ tK := by
  have h := mbChallenge_keepsP hK 
  rw [eK] at h
  exact h

theorem mbDebugAuth_keepsP {s₀ s : State} (hK : Keeps s₀ s) (b : List Byte) : Keeps s₀ (mbDebugAuth b s).2.2 := by
  unfold mbDebugAuth
  repeat' (first | with_reducible assumption | with_reducible apply onAtt_keeps | with_reducible apply setGrants_keeps | with_reducible apply wrFld_keeps | with_reducible apply Keeps.ite | with_reducible apply Keeps.ite_fst | with_reducible apply Keeps.ite_snd | dsimp only | fail_if_no_progress (with_reducible refine Keeps.upd ?_ (by exact id) (by exact id) (by exact rfl)) | split)

theorem mbDebugAuth_keeps {s₀ s tK : State} {b : List Byte} {xK yK} (hK : Keeps s₀ s) (eK : mbDebugAuth b s = (xK, yK, tK)) : Keeps s₀ tK := by
  have h := mbDebugAuth_keepsP hK b
  rw [eK] at h
  exact h

theorem mbProvision_keepsP {s₀ s : State} (hK : Keeps s₀ s) (b : List Byte) : Keeps s₀ (mbProvision b s).2.2 := by
  unfold mbProvision
  repeat' (first | with_reducible assumption | with_reducible apply onAtt_keeps | with_reducible apply Keeps.ite | with_reducible apply Keeps.ite_fst | with_reducible apply Keeps.ite_snd | dsimp only | fail_if_no_progress (with_reducible refine Keeps.upd ?_ (by exact id) (by exact id) (by exact rfl)) | split)

theorem mbProvision_keeps {s₀ s tK : State} {b : List Byte} {xK yK} (hK : Keeps s₀ s) (eK : mbProvision b s = (xK, yK, tK)) : Keeps s₀ tK := by
  have h := mbProvision_keepsP hK b
  rw [eK] at h
  exact h

theorem mbDeploy_keepsP {s₀ s : State} (hK : Keeps s₀ s)  : Keeps s₀ (mbDeploy s).2.2 := by
  unfold mbDeploy
  repeat' (first | with_reducible assumption | with_reducible apply onAtt_keeps | with_reducible apply Keeps.ite | with_reducible apply Keeps.ite_fst | with_reducible apply Keeps.ite_snd | dsimp only | fail_if_no_progress (with_reducible refine Keeps.upd ?_ (by exact id) (by exact id) (by exact rfl)) | split)

theorem mbDeploy_keeps {s₀ s tK : State}  {xK yK} (hK : Keeps s₀ s) (eK : mbDeploy s = (xK, yK, tK)) : Keeps s₀ tK := by
  have h := mbDeploy_keepsP hK 
  rw [eK] at h
  exact h

theorem mbReturn_keepsP {s₀ s : State} (hK : Keeps s₀ s)  : Keeps s₀ (mbReturn s).2.2 := by
  unfold mbReturn
  repeat' (first | with_reducible assumption | with_reducible apply endGrants_keeps | with_reducible apply onAtt_keeps | with_reducible apply Keeps.ite | with_reducible apply Keeps.ite_fst | with_reducible apply Keeps.ite_snd | dsimp only | fail_if_no_progress (with_reducible refine Keeps.upd ?_ (by exact id) (by exact id) (by exact rfl)) | split)

theorem mbReturn_keeps {s₀ s tK : State}  {xK yK} (hK : Keeps s₀ s) (eK : mbReturn s = (xK, yK, tK)) : Keeps s₀ tK := by
  have h := mbReturn_keepsP hK 
  rw [eK] at h
  exact h

theorem mbSetMinver_keepsP {s₀ s : State} (hK : Keeps s₀ s) (b : List Byte) : Keeps s₀ (mbSetMinver b s).2.2 := by
  unfold mbSetMinver
  repeat' (first | with_reducible assumption | with_reducible apply onAtt_keeps | with_reducible apply Keeps.ite | with_reducible apply Keeps.ite_fst | with_reducible apply Keeps.ite_snd | dsimp only | fail_if_no_progress (with_reducible refine Keeps.upd ?_ (by exact id) (by exact id) (by exact rfl)) | split)

theorem mbSetMinver_keeps {s₀ s tK : State} {b : List Byte} {xK yK} (hK : Keeps s₀ s) (eK : mbSetMinver b s = (xK, yK, tK)) : Keeps s₀ tK := by
  have h := mbSetMinver_keepsP hK b
  rw [eK] at h
  exact h

theorem putKeySlot_keeps {s₀ s : State} (hK : Keeps s₀ s) (b : List Byte) (k : Option (BitVec 256)) : Keeps s₀ (putKeySlot b k s) := by
  unfold putKeySlot
  repeat' (first | with_reducible assumption | with_reducible apply onAtt_keeps | with_reducible apply Keeps.ite | dsimp only | fail_if_no_progress (with_reducible refine Keeps.upd ?_ (by exact id) (by exact id) (by exact rfl)) | split)

theorem mbKeyLoad_keepsP {s₀ s : State} (hK : Keeps s₀ s) (b : List Byte) : Keeps s₀ (mbKeyLoad b s).2.2 := by
  unfold mbKeyLoad
  repeat' (first | with_reducible assumption | with_reducible apply putKeySlot_keeps | with_reducible apply Keeps.ite | with_reducible apply Keeps.ite_fst | with_reducible apply Keeps.ite_snd | dsimp only | split)

theorem mbKeyLoad_keeps {s₀ s tK : State} {b : List Byte} {xK yK} (hK : Keeps s₀ s) (eK : mbKeyLoad b s = (xK, yK, tK)) : Keeps s₀ tK := by
  have h := mbKeyLoad_keepsP hK b
  rw [eK] at h
  exact h

theorem mbKeyClear_keepsP {s₀ s : State} (hK : Keeps s₀ s) (b : List Byte) : Keeps s₀ (mbKeyClear b s).2.2 := by
  unfold mbKeyClear
  repeat' (first | with_reducible assumption | with_reducible apply putKeySlot_keeps | with_reducible apply Keeps.ite | with_reducible apply Keeps.ite_fst | with_reducible apply Keeps.ite_snd | dsimp only | split)

theorem mbKeyClear_keeps {s₀ s tK : State} {b : List Byte} {xK yK} (hK : Keeps s₀ s) (eK : mbKeyClear b s = (xK, yK, tK)) : Keeps s₀ tK := by
  have h := mbKeyClear_keepsP hK b
  rw [eK] at h
  exact h

theorem mbRetire_keepsP {s₀ s : State} (hK : Keeps s₀ s) (b : List Byte) : Keeps s₀ (mbRetire b s).2.2 := by
  unfold mbRetire
  repeat' (first | with_reducible assumption | with_reducible apply retireUnit_keeps | with_reducible apply retireActive_keeps | with_reducible apply Keeps.ite | with_reducible apply Keeps.ite_fst | with_reducible apply Keeps.ite_snd | dsimp only | split)

theorem mbRetire_keeps {s₀ s tK : State} {b : List Byte} {xK yK} (hK : Keeps s₀ s) (eK : mbRetire b s = (xK, yK, tK)) : Keeps s₀ tK := by
  have h := mbRetire_keepsP hK b
  rw [eK] at h
  exact h

theorem mbBist_keepsP {s₀ s : State} (hK : Keeps s₀ s) (b : List Byte) : Keeps s₀ (mbBist b s).2.2 := by
  unfold mbBist
  repeat' (first | with_reducible assumption | with_reducible apply bistStart_keeps | with_reducible apply Keeps.ite | with_reducible apply Keeps.ite_fst | with_reducible apply Keeps.ite_snd | dsimp only | split)

theorem mbBist_keeps {s₀ s tK : State} {b : List Byte} {xK yK} (hK : Keeps s₀ s) (eK : mbBist b s = (xK, yK, tK)) : Keeps s₀ tK := by
  have h := mbBist_keepsP hK b
  rw [eK] at h
  exact h

theorem mbRestart_keepsP {s₀ s : State} (hK : Keeps s₀ s)  : Keeps s₀ (mbRestart s).2.2 := by
  unfold mbRestart
  repeat' (first | with_reducible assumption | with_reducible apply Keeps.ite | with_reducible apply Keeps.ite_fst | with_reducible apply Keeps.ite_snd | dsimp only | split)

theorem mbRestart_keeps {s₀ s tK : State}  {xK yK} (hK : Keeps s₀ s) (eK : mbRestart s = (xK, yK, tK)) : Keeps s₀ tK := by
  have h := mbRestart_keepsP hK 
  rw [eK] at h
  exact h

theorem mbLockOpen_keepsP {s₀ s : State} (hK : Keeps s₀ s) (b : List Byte) : Keeps s₀ (mbLockOpen b s).2.2 := by
  unfold mbLockOpen
  repeat' (first | with_reducible assumption | with_reducible apply onAtt_keeps | with_reducible apply Keeps.ite | with_reducible apply Keeps.ite_fst | with_reducible apply Keeps.ite_snd | dsimp only | fail_if_no_progress (with_reducible refine Keeps.upd ?_ (by exact id) (by exact id) (by exact rfl)) | split)

theorem mbLockOpen_keeps {s₀ s tK : State} {b : List Byte} {xK yK} (hK : Keeps s₀ s) (eK : mbLockOpen b s = (xK, yK, tK)) : Keeps s₀ tK := by
  have h := mbLockOpen_keepsP hK b
  rw [eK] at h
  exact h

theorem mbSignal_keeps {s₀ s : State} (hK : Keeps s₀ s) (who : MbWho) : Keeps s₀ (mbSignal who s) := by
  unfold mbSignal
  repeat' (first | with_reducible assumption | with_reducible apply hostEvent_keeps | with_reducible apply raiseLine_keeps | dsimp only | split)

theorem mbComplete_keeps {s₀ : State} {r : MbReq} {a : Bool} {o : MbOut} (h : Keeps s₀ o.2.2) : Keeps s₀ (mbComplete r a o) := by
  obtain ⟨st, d, s⟩ := o
  unfold mbComplete
  dsimp only
  refine mbSignal_keeps ?_ _
  repeat' (first | with_reducible assumption | with_reducible apply wrFld_keeps | with_reducible apply celPut_keeps | with_reducible apply onAtt_keeps | with_reducible apply attLog_keeps | with_reducible refine Keeps.whenDo ?_ (fun _ _ => ?_) | with_reducible apply Keeps.ite)

theorem serveMb_keeps {s₀ s : State} {cmd : Nat} {f : List Byte → State → MbOut} (h : Keeps s₀ s)
    (hf : ∀ b x, Keeps s₀ x → Keeps s₀ (f b x).2.2) : Keeps s₀ (serveMb cmd f s) := by
  unfold serveMb
  split
  · exact h
  · dsimp only
    split
    · exact h
    · split
      · refine mbComplete_keeps ?_; dsimp only; exact onAtt_keeps h _
      · refine mbComplete_keeps (hf _ _ ?_); exact onAtt_keeps h _

end Sys2Proof.Machine
end

