-- ==== Sys2Proof/Laws/KeepsEpochEvents.lean ====
section
/-! SUPPORT. What every operation of Machine/EpochEvents.lean keeps. -/

set_option linter.all false

namespace Sys2Proof.Machine

theorem onSpr_keeps {s₀ s : State} (hK : Keeps s₀ s) (f : Spring → Spring) : Keeps s₀ (onSpr f s) := by
  unfold onSpr
  repeat' (first | with_reducible assumption | dsimp only | fail_if_no_progress (with_reducible refine Keeps.upd ?_ (by exact id) (by exact id) (by exact rfl)))

theorem showInjPend_keeps {s₀ s : State} (hK : Keeps s₀ s)  : Keeps s₀ (showInjPend s) := by
  unfold showInjPend
  repeat' (first | with_reducible assumption | with_reducible apply clrBit_keeps | with_reducible apply Keeps.ite | with_reducible refine Keeps.foldl (fun _ _ _ => ?_) _ ?_ | with_reducible refine Keeps.foldl_fst (fun _ _ _ => ?_) _ ?_ | with_reducible refine Keeps.foldl_snd (fun _ _ _ => ?_) _ ?_ | with_reducible refine Keeps.foldl_trd (fun _ _ _ => ?_) _ ?_ | dsimp only | split)

theorem nextStaged_keeps {s₀ s : State} (hK : Keeps s₀ s)  : Keeps s₀ (nextStaged s) := by
  unfold nextStaged
  repeat' (first | with_reducible assumption | with_reducible apply showInjPend_keeps | dsimp only | fail_if_no_progress (with_reducible refine Keeps.upd ?_ (by exact id) (by exact id) (by exact rfl)))

theorem recordedSettings_keeps {s₀ s : State} (hK : Keeps s₀ s) (r : EpochRec) : Keeps s₀ (recordedSettings r s) := by
  unfold recordedSettings
  repeat' (first | with_reducible assumption | with_reducible apply putSettings_keeps | with_reducible apply setCen_keeps | with_reducible apply cmpApply_keeps | with_reducible refine Keeps.foldl (fun _ _ _ => ?_) _ ?_ | with_reducible refine Keeps.foldl_fst (fun _ _ _ => ?_) _ ?_ | with_reducible refine Keeps.foldl_snd (fun _ _ _ => ?_) _ ?_ | with_reducible refine Keeps.foldl_trd (fun _ _ _ => ?_) _ ?_ | dsimp only | fail_if_no_progress (with_reducible refine Keeps.upd ?_ (by (first | exact id | exact Registers.wf_filter _ | exact Registers.wf_keep _ | exact fun _ => Registers.wf_nil)) (by exact id) (by exact rfl)))

theorem takeBank_keeps {s₀ s : State} (hK : Keeps s₀ s) (b : Nat) : Keeps s₀ (takeBank b s) := by
  unfold takeBank
  repeat' (first | with_reducible assumption | with_reducible apply setBank_keeps | with_reducible apply Keeps.ite | dsimp only | split)

theorem freshSettings_keeps {s₀ s : State} (hK : Keeps s₀ s) (e : Nat) : Keeps s₀ (freshSettings e s) := by
  unfold freshSettings
  repeat' (first | with_reducible assumption | with_reducible apply recordedSettings_keeps | with_reducible apply cmpApply_keeps | with_reducible apply setCen_keeps | with_reducible apply takeBank_keeps | with_reducible apply Keeps.wrReg | with_reducible refine Keeps.foldl (fun _ _ _ => ?_) _ ?_ | with_reducible refine Keeps.foldl_fst (fun _ _ _ => ?_) _ ?_ | with_reducible refine Keeps.foldl_snd (fun _ _ _ => ?_) _ ?_ | with_reducible refine Keeps.foldl_trd (fun _ _ _ => ?_) _ ?_ | dsimp only | fail_if_no_progress (with_reducible refine Keeps.upd ?_ (by exact id) (by exact id) (by exact rfl)) | split)

theorem putRecordOf_keeps {s₀ s : State} (hK : Keeps s₀ s) (r : EpochRec) : Keeps s₀ (putRecordOf r s) := by
  unfold putRecordOf
  repeat' (first | with_reducible assumption | with_reducible apply onSpr_keeps | dsimp only | fail_if_no_progress (with_reducible refine Keeps.upd ?_ (by exact id) (by exact id) (by exact rfl)))

theorem nextEpoch_keeps {s₀ s : State} (hK : Keeps s₀ s) (e : Nat) : Keeps s₀ (nextEpoch e s) := by
  unfold nextEpoch
  repeat' (first | with_reducible assumption | with_reducible apply onSpr_keeps | with_reducible apply takeBank_keeps | with_reducible apply recordedSettings_keeps | with_reducible apply putRecordOf_keeps | with_reducible apply freshSettings_keeps | with_reducible apply Keeps.ite | dsimp only | fail_if_no_progress (with_reducible refine Keeps.upd ?_ (by exact id) (by exact id) (by exact rfl)) | split)

theorem boundaryExtension_keeps {s₀ s : State} (hK : Keeps s₀ s)  : Keeps s₀ (boundaryExtension s) := by
  unfold boundaryExtension
  repeat' (first | with_reducible assumption | with_reducible apply onSpr_keeps | with_reducible apply idle_keeps | with_reducible apply nextStaged_keeps | with_reducible apply nextEpoch_keeps | with_reducible apply cmpEpochEnd_keeps | with_reducible apply clrBit_keeps | with_reducible apply reloadBoundary_keeps | with_reducible apply laneReturns_keeps | with_reducible apply fillPositions_keeps | with_reducible apply setPhase_keeps | with_reducible apply checkHold_keeps | with_reducible apply Keeps.wrReg | with_reducible apply Keeps.ite | dsimp only | fail_if_no_progress (with_reducible refine Keeps.upd ?_ (by exact id) (by exact id) (by exact rfl)) | split)

theorem portResults_keeps {s₀ s : State} (hK : Keeps s₀ s) (l : Nat) (words : List (BitVec 64)) : Keeps s₀ (portResults l words s) := by
  unfold portResults
  repeat' (first | with_reducible assumption | with_reducible apply putLink_keeps | with_reducible refine Keeps.foldl (fun _ _ _ => ?_) _ ?_ | with_reducible refine Keeps.foldl_fst (fun _ _ _ => ?_) _ ?_ | with_reducible refine Keeps.foldl_snd (fun _ _ _ => ?_) _ ?_ | with_reducible refine Keeps.foldl_trd (fun _ _ _ => ?_) _ ?_ | dsimp only | fail_if_no_progress (with_reducible refine Keeps.upd ?_ (by exact id) (by exact id) (by exact rfl)))

theorem sendResults_keeps {s₀ s : State} (hK : Keeps s₀ s) (k : Nat) : Keeps s₀ (sendResults k s) := by
  unfold sendResults
  repeat' (first | with_reducible assumption | with_reducible apply portResults_keeps | with_reducible refine Keeps.foldl (fun _ _ _ => ?_) _ ?_ | dsimp only)

theorem commitEpoch_keeps {s₀ s : State} (hK : Keeps s₀ s) (k : Nat) : Keeps s₀ (commitEpoch k s) := by
  unfold commitEpoch
  repeat' (first | with_reducible assumption | with_reducible apply cmpCommit_keeps | with_reducible apply sendResults_keeps | with_reducible apply reloadCommit_keeps | with_reducible apply irqAll_keeps | dsimp only | fail_if_no_progress (with_reducible refine Keeps.upd ?_ (by exact id) (by exact id) (by exact rfl)))

theorem undoOne_keeps {s₀ s : State} (hK : Keeps s₀ s) (u : UndoRec) : Keeps s₀ (undoOne u s) := by
  unfold undoOne
  repeat' (first | with_reducible assumption | with_reducible apply rowWrite_keeps | with_reducible apply Keeps.ite | dsimp only | split)

theorem undoFrom_keeps {s₀ s : State} (hK : Keeps s₀ s) (j : Nat) : Keeps s₀ (undoFrom j s) := by
  unfold undoFrom
  repeat' (first | with_reducible assumption | with_reducible apply undoOne_keeps | with_reducible refine Keeps.foldl (fun _ _ _ => ?_) _ ?_ | dsimp only | fail_if_no_progress (with_reducible refine Keeps.upd ?_ (by exact id) (by exact id) (by exact rfl)))

theorem restoreModel_keeps {s₀ s : State} (hK : Keeps s₀ s) (j : Nat) : Keeps s₀ (restoreModel j s) := by
  unfold restoreModel
  repeat' (first | with_reducible assumption | with_reducible apply restoreFlops_keeps | with_reducible apply setImg_keeps | with_reducible apply reloadWrite_keeps | with_reducible apply Keeps.ite | dsimp only | fail_if_no_progress (with_reducible refine Keeps.upd ?_ (by exact id) (by exact id) (by exact rfl)) | split)

theorem restorePosition_keeps {s₀ s : State} (hK : Keeps s₀ s) (j : Nat) : Keeps s₀ (restorePosition j s) := by
  unfold restorePosition
  repeat' (first | with_reducible assumption | with_reducible apply onSpr_keeps | with_reducible apply idle_keeps | dsimp only | fail_if_no_progress (with_reducible refine Keeps.upd ?_ (by exact id) (by exact id) (by exact rfl)) | split)

theorem stopTicks_keeps {s₀ s : State} (hK : Keeps s₀ s)  : Keeps s₀ (stopTicks s) := by
  unfold stopTicks
  repeat' (first | with_reducible assumption | with_reducible apply probe_keeps | with_reducible apply idle_keeps | dsimp only | fail_if_no_progress (with_reducible refine Keeps.upd ?_ (by exact id) (by exact id) (by exact rfl)))

theorem restoreTo_keeps {s₀ s : State} (hK : Keeps s₀ s) (j : Nat) : Keeps s₀ (restoreTo j s) := by
  unfold restoreTo
  repeat' (first | with_reducible assumption | with_reducible apply restorePosition_keeps | with_reducible apply cmpRestore_keeps | with_reducible apply restoreModel_keeps | with_reducible apply undoFrom_keeps | with_reducible apply stopTicks_keeps | dsimp only)

theorem stopCommit_keeps {s₀ s : State} (hK : Keeps s₀ s) (k : Nat) : Keeps s₀ (stopCommit k s) := by
  unfold stopCommit
  repeat' (first | with_reducible assumption | with_reducible apply wrFld_keeps | with_reducible apply restoreTo_keeps | with_reducible apply carryOut_keeps | with_reducible apply enterHeld_keeps | with_reducible apply Keeps.ite | dsimp only | split)

theorem fromHeadGen_keepsP {s₀ s : State} (hK : Keeps s₀ s) (h : Option SpringHdr) (msg : SpringMsg) : Keeps s₀ (fromHeadGen h msg s).1 := by
  unfold fromHeadGen
  repeat' (first | with_reducible assumption | with_reducible refine fromHead_keeps ?_ (by assumption) | with_reducible apply fromHead_keepsP | with_reducible refine springFlit_keeps ?_ (by assumption) | with_reducible apply springFlit_keepsP | with_reducible apply Keeps.ite | with_reducible apply Keeps.ite_fst | with_reducible apply Keeps.ite_snd | dsimp only | split)

theorem fromHeadGen_keeps {s₀ s tK : State} {h : Option SpringHdr} {msg : SpringMsg} {xK} (hK : Keeps s₀ s) (eK : fromHeadGen h msg s = (tK, xK)) : Keeps s₀ tK := by
  have h := fromHeadGen_keepsP hK h msg
  rw [eK] at h
  exact h

theorem commitEv_keeps {s₀ s : State} (hK : Keeps s₀ s) (h : Option SpringHdr) (k : Nat) (stop : Bool) : Keeps s₀ (commitEv h k stop s) := by
  unfold commitEv
  repeat' (first | with_reducible assumption | with_reducible refine actOn_keeps ?_ (fun _ _ => ?_) | with_reducible refine fromHeadGen_keeps ?_ (by assumption) | with_reducible apply fromHeadGen_keepsP | with_reducible apply commitEpoch_keeps | with_reducible apply stopCommit_keeps | with_reducible apply rootCommit_keeps | with_reducible apply checkHold_keeps | with_reducible apply Keeps.ite | dsimp only | split)

theorem rollbackTo_keeps {s₀ s : State} (hK : Keeps s₀ s) (j : Nat) (ts : Nat) (cause : Nat) (origin : Nat) (hold : Bool) : Keeps s₀ (rollbackTo j ts cause origin hold s) := by
  unfold rollbackTo
  repeat' (first | with_reducible assumption | with_reducible apply commitEpoch_keeps | with_reducible apply incFld_keeps | with_reducible apply wrFld_keeps | with_reducible apply setPhase_keeps | with_reducible apply restoreTo_keeps | with_reducible apply onSpr_keeps | with_reducible apply takeBank_keeps | with_reducible apply recordedSettings_keeps | with_reducible apply showPorts_keeps | with_reducible apply carryOut_keeps | with_reducible apply Keeps.ite | with_reducible refine Keeps.foldl (fun _ _ _ => ?_) _ ?_ | dsimp only | fail_if_no_progress (with_reducible refine Keeps.upd ?_ (by exact id) (by exact id) (by exact rfl)) | split)

theorem safeRollback_keeps {s₀ s : State} (hK : Keeps s₀ s) (j : Nat) (ts : Nat) (cause : Nat) (origin : Nat) (hold : Bool) : Keeps s₀ (safeRollback j ts cause origin hold s) := by
  unfold safeRollback
  repeat' (first | with_reducible assumption | with_reducible apply onSpr_keeps | dsimp only | fail_if_no_progress (with_reducible refine Keeps.upd ?_ (by exact id) (by exact id) (by exact rfl)))

theorem rollbackEv_keeps {s₀ s : State} (hK : Keeps s₀ s) (h : Option SpringHdr) (j : Nat) (ts : Nat) (cause : Nat) (origin : Nat) (hold : Bool) : Keeps s₀ (rollbackEv h j ts cause origin hold s) := by
  unfold rollbackEv
  repeat' (first | with_reducible assumption | with_reducible apply onSpr_keeps | with_reducible apply rollbackTo_keeps | with_reducible apply safeRollback_keeps | with_reducible refine actOn_keeps ?_ (fun _ _ => ?_) | with_reducible refine springFlit_keeps ?_ (by assumption) | with_reducible apply springFlit_keepsP | with_reducible apply wrFld_keeps | with_reducible apply sendDown_keeps | with_reducible refine fromHead_keeps ?_ (by assumption) | with_reducible apply fromHead_keepsP | with_reducible apply Keeps.ite | dsimp only | fail_if_no_progress (with_reducible refine Keeps.upd ?_ (by exact id) (by exact id) (by exact rfl)) | split)

theorem rootReject_keeps {s₀ s : State} (hK : Keeps s₀ s) (kind : ReqKind) (dev : Nat) : Keeps s₀ (rootReject kind dev s) := by
  unfold rootReject
  repeat' (first | with_reducible assumption | with_reducible apply rootOrder_keeps | dsimp only)

theorem rootStart_keeps {s₀ s : State} (hK : Keeps s₀ s) (first : BitVec 48) : Keeps s₀ (rootStart first s) := by
  unfold rootStart
  repeat' (first | with_reducible assumption | with_reducible apply rootOrder_keeps | dsimp only)

theorem rootRequest_keeps {s₀ s : State} (hK : Keeps s₀ s) (kind : ReqKind) (value : BitVec 8) (dev : Nat) : Keeps s₀ (rootRequest kind value dev s) := by
  unfold rootRequest
  repeat' (first | with_reducible assumption | with_reducible apply rootStart_keeps | with_reducible apply rootReject_keeps | with_reducible apply setBit_keeps | with_reducible apply rootHold_keeps | with_reducible apply rootOrder_keeps | with_reducible apply issueRollback_keeps | with_reducible apply Keeps.ite | with_reducible refine Keeps.whenDo ?_ (fun _ _ => ?_) | dsimp only | split)

theorem sprRequest_keeps {s₀ s : State} (hK : Keeps s₀ s) (kind : ReqKind) (value : BitVec 8) : Keeps s₀ (sprRequest kind value s) := by
  unfold sprRequest
  repeat' (first | with_reducible assumption | with_reducible apply rootRequest_keeps | with_reducible apply sendUp_keeps | with_reducible apply Keeps.ite | dsimp only | split)

theorem reqEv_keeps {s₀ s : State} (hK : Keeps s₀ s) (h : SpringHdr) (kind : ReqKind) (value : BitVec 8) (dev : Nat) : Keeps s₀ (reqEv h kind value dev s) := by
  unfold reqEv
  repeat' (first | with_reducible assumption | with_reducible refine actOn_keeps ?_ (fun _ _ => ?_) | with_reducible refine fromChild_keeps ?_ (by assumption) | with_reducible apply fromChild_keepsP | with_reducible apply rootRequest_keeps | with_reducible apply sendUp_keeps | with_reducible apply Keeps.ite | dsimp only | split)

theorem rejectEv_keeps {s₀ s : State} (hK : Keeps s₀ s) (h : Option SpringHdr) (dev : Nat) (kind : ReqKind) : Keeps s₀ (rejectEv h dev kind s) := by
  unfold rejectEv
  repeat' (first | with_reducible assumption | with_reducible refine actOn_keeps ?_ (fun _ _ => ?_) | with_reducible refine fromHead_keeps ?_ (by assumption) | with_reducible apply fromHead_keepsP | with_reducible apply setBit_keeps | with_reducible apply Keeps.ite | with_reducible refine Keeps.whenDo ?_ (fun _ _ => ?_) | dsimp only | split)

theorem sprCtrlWrite_keeps {s₀ s : State} (hK : Keeps s₀ s) (v : Word) : Keeps s₀ (sprCtrlWrite v s) := by
  unfold sprCtrlWrite
  repeat' (first | with_reducible assumption | with_reducible apply sprRequest_keeps | with_reducible apply setBit_keeps | dsimp only | split)

theorem sprCenWrite_keeps {s₀ s : State} (hK : Keeps s₀ s) (v : Word) : Keeps s₀ (sprCenWrite v s) := by
  unfold sprCenWrite
  repeat' (first | with_reducible assumption | with_reducible apply sprRequest_keeps | with_reducible apply wrFld_keeps | dsimp only)

end Sys2Proof.Machine
end

