-- ==== Sys2Proof/Laws/KeepsPower.lean ====
section
/-! SUPPORT. What every operation of Machine/Power.lean keeps. -/

set_option linter.all false

namespace Sys2Proof.Machine

theorem onHst_keeps {s₀ s : State} (hK : Keeps s₀ s) (f : HostIf → HostIf) : Keeps s₀ (onHst f s) := by
  unfold onHst
  repeat' (first | with_reducible assumption | dsimp only | fail_if_no_progress (with_reducible refine Keeps.upd ?_ (by exact id) (by exact id) (by exact rfl)))

theorem setTherm_keeps {s₀ s : State} (hK : Keeps s₀ s) (b : Bool) : Keeps s₀ (setTherm b s) := by
  unfold setTherm
  repeat' (first | with_reducible assumption | with_reducible apply hostEvent_keeps | with_reducible apply wrFld_keeps | with_reducible apply onHst_keeps | with_reducible apply Keeps.ite | dsimp only | fail_if_no_progress (with_reducible refine Keeps.upd ?_ (by exact id) (by exact id) (by exact rfl)) | split)

theorem thermalTrip_keeps {s₀ s : State} (hK : Keeps s₀ s) : Keeps s₀ (thermalTrip s) := by
  unfold thermalTrip
  repeat' (first | with_reducible assumption | with_reducible apply setBit_keeps | with_reducible apply onHst_keeps | with_reducible apply hostEvent_keeps | with_reducible apply tripShelves_keeps | with_reducible apply enterSafe_keeps | with_reducible apply enterSafeOpen_keeps | dsimp only | fail_if_no_progress (with_reducible refine Keeps.upd ?_ (by exact id) (by exact id) (by exact rfl)))

theorem sensorRead_keeps {s₀ s : State} (hK : Keeps s₀ s) (j : Nat) (t : BitVec 16) : Keeps s₀ (sensorRead j t s) := by
  unfold sensorRead
  repeat' (first | with_reducible assumption | with_reducible apply wrFld_keeps | with_reducible apply setTherm_keeps | with_reducible apply thermalTrip_keeps | with_reducible apply clearThermHold_keeps | with_reducible apply onHst_keeps | with_reducible apply Keeps.wrReg | with_reducible apply Keeps.ite | with_reducible refine Keeps.whenDo ?_ (fun _ _ => ?_) | dsimp only | fail_if_no_progress (with_reducible refine Keeps.upd ?_ (by exact id) (by exact id) (by exact rfl)) | split)

theorem pwrView_keeps {r s t : State} {o : Nat} {w : Word} (h : Keeps r s) (e : pwrView s o = some (w, t)) : Keeps r t := by
  unfold pwrView at e
  dsimp only at e
  (repeat' split at e) <;> cases e <;> first | exact h | exact takeFree_keepsP h | (refine takeFree_keeps h ?_; assumption)

theorem hostStatus_keepsP {s₀ s : State} (hK : Keeps s₀ s) (byHost : Bool) : Keeps s₀ (hostStatus byHost s).2 := by
  unfold hostStatus
  repeat' (first | with_reducible assumption | with_reducible refine takeFree_keeps ?_ (by assumption) | with_reducible apply takeFree_keepsP | with_reducible apply Keeps.ite | with_reducible apply Keeps.ite_fst | with_reducible apply Keeps.ite_snd | dsimp only | split)

theorem hostStatus_keeps {s₀ s tK : State} {byHost : Bool} {xK} (hK : Keeps s₀ s) (eK : hostStatus byHost s = (xK, tK)) : Keeps s₀ tK := by
  have h := hostStatus_keepsP hK byHost
  rw [eK] at h
  exact h

theorem hostError_keeps {s₀ s : State} (hK : Keeps s₀ s) (write : Bool) : Keeps s₀ (hostError write s) := by
  unfold hostError
  repeat' (first | with_reducible assumption | with_reducible apply hostEvent_keeps | with_reducible apply setBit_keeps | with_reducible apply Keeps.ite | dsimp only | split)

theorem sendPending_keeps {s₀ s : State} (hK : Keeps s₀ s)  : Keeps s₀ (sendPending s) := by
  unfold sendPending
  repeat' (first | with_reducible assumption | with_reducible apply msix_keeps | with_reducible refine Keeps.foldl (fun _ _ _ => ?_) _ ?_ | with_reducible refine Keeps.foldl_fst (fun _ _ _ => ?_) _ ?_ | with_reducible refine Keeps.foldl_snd (fun _ _ _ => ?_) _ ?_ | with_reducible refine Keeps.foldl_trd (fun _ _ _ => ?_) _ ?_ | dsimp only | fail_if_no_progress (with_reducible refine Keeps.upd ?_ (by exact id) (by exact id) (by exact rfl)))

theorem pciePower_keeps {s₀ s : State} (hK : Keeps s₀ s) (d3 : Bool) : Keeps s₀ (pciePower d3 s) := by
  unfold pciePower
  repeat' (first | with_reducible assumption | with_reducible apply setBit_keeps | with_reducible apply sendPending_keeps | with_reducible apply clrBit_keeps | with_reducible apply Keeps.ite | dsimp only | split)

theorem msixEnable_keeps {s₀ s : State} (hK : Keeps s₀ s) (on : Bool) : Keeps s₀ (msixEnable on s) := by
  unfold msixEnable
  repeat' (first | with_reducible assumption | with_reducible apply onHst_keeps | with_reducible apply msix_keeps | with_reducible apply Keeps.ite | with_reducible refine Keeps.foldl (fun _ _ _ => ?_) _ ?_ | dsimp only | fail_if_no_progress (with_reducible refine Keeps.upd ?_ (by exact id) (by exact id) (by exact rfl)) | split)

theorem fwirqWrite_keeps {s₀ s tK : State} {v : Word}  (hK : Keeps s₀ s) (eK : fwirqWrite v s = some tK) : Keeps s₀ tK := by
  unfold fwirqWrite at eK
  (try dsimp only at eK)
  (repeat' split at eK) <;> (first | cases eK | skip) <;> repeat' (first | with_reducible assumption | with_reducible apply msix_keeps | with_reducible apply Keeps.ite | dsimp only | split)

theorem hdbWrite_keeps {s₀ s : State} (hK : Keeps s₀ s) (m : Nat) (v : Word) : Keeps s₀ (hdbWrite m v s) := by
  unfold hdbWrite
  repeat' (first | with_reducible assumption | with_reducible apply raiseLine_keeps | with_reducible apply Keeps.wrReg | dsimp only)

theorem mailboxDoorbell_keeps {s₀ s : State} (hK : Keeps s₀ s) (len : Nat) : Keeps s₀ (mailboxDoorbell len s) := by
  unfold mailboxDoorbell
  repeat' (first | with_reducible assumption | with_reducible refine submitMb_keeps ?_ (by assumption) | with_reducible apply submitMb_keepsP | with_reducible apply hostError_keeps | with_reducible apply Keeps.ite | dsimp only | split)

theorem maskWrite_keeps {s₀ s : State} (hK : Keeps s₀ s) (v : Nat) (masked : Bool) : Keeps s₀ (maskWrite v masked s) := by
  unfold maskWrite
  repeat' (first | with_reducible assumption | with_reducible apply onHst_keeps | with_reducible apply msix_keeps | with_reducible apply Keeps.ite | dsimp only | fail_if_no_progress (with_reducible refine Keeps.upd ?_ (by exact id) (by exact id) (by exact rfl)) | split)

theorem bar4Write_keeps {s₀ s : State} (hK : Keeps s₀ s) (o : Nat) (v : Word) : Keeps s₀ (bar4Write o v s) := by
  unfold bar4Write
  repeat' (first | with_reducible assumption | with_reducible apply maskWrite_keeps | with_reducible apply onHst_keeps | with_reducible apply mailboxDoorbell_keeps | with_reducible apply hdbWrite_keeps | with_reducible apply hostError_keeps | with_reducible apply Keeps.ite | dsimp only | fail_if_no_progress (with_reducible refine Keeps.upd ?_ (by exact id) (by exact id) (by exact rfl)) | split)

theorem flCtrlWrite_keeps {s₀ s tK : State} {v : Word}  (hK : Keeps s₀ s) (eK : flCtrlWrite v s = some tK) : Keeps s₀ tK := by
  unfold flCtrlWrite at eK
  (try dsimp only at eK)
  (repeat' split at eK) <;> (first | cases eK | skip) <;> repeat' (first | with_reducible assumption | with_reducible apply setBit_keeps | with_reducible apply onHst_keeps | with_reducible apply Keeps.wrReg | with_reducible apply Keeps.ite | dsimp only | fail_if_no_progress (with_reducible refine Keeps.upd ?_ (by exact id) (by exact id) (by exact rfl)) | split)

theorem flashDone_keeps {s₀ s : State} (hK : Keeps s₀ s) (data : List Byte) : Keeps s₀ (flashDone data s) := by
  unfold flashDone
  repeat' (first | with_reducible assumption | with_reducible apply wrFld_keeps | with_reducible apply setBit_keeps | with_reducible apply clrBit_keeps | with_reducible apply onHst_keeps | with_reducible apply Keeps.ite | with_reducible refine Keeps.foldl (fun _ _ _ => ?_) _ ?_ | dsimp only | fail_if_no_progress (with_reducible refine Keeps.upd ?_ (by exact id) (by exact id) (by exact rfl)) | split)

theorem gpioIn_keepsP {s₀ s : State} (hK : Keeps s₀ s)  : Keeps s₀ (gpioIn s).2 := by
  unfold gpioIn
  repeat' (first | with_reducible assumption | with_reducible refine takeFree_keeps ?_ (by assumption) | with_reducible apply takeFree_keepsP | with_reducible refine Keeps.foldl (fun _ _ _ => ?_) _ ?_ | with_reducible refine Keeps.foldl_fst (fun _ _ _ => ?_) _ ?_ | with_reducible refine Keeps.foldl_snd (fun _ _ _ => ?_) _ ?_ | with_reducible refine Keeps.foldl_trd (fun _ _ _ => ?_) _ ?_ | dsimp only | split)

theorem gpioIn_keeps {s₀ s tK : State}  {xK} (hK : Keeps s₀ s) (eK : gpioIn s = (xK, tK)) : Keeps s₀ tK := by
  have h := gpioIn_keepsP hK 
  rw [eK] at h
  exact h

theorem gpioEdge_keeps {s₀ s : State} (hK : Keeps s₀ s) (i : Nat) : Keeps s₀ (gpioEdge i s) := by
  unfold gpioEdge
  repeat' (first | with_reducible assumption | with_reducible apply setBit_keeps | with_reducible apply Keeps.ite | with_reducible refine Keeps.whenDo ?_ (fun _ _ => ?_) | dsimp only | split)

end Sys2Proof.Machine
end

