-- ==== Sys2Proof/Laws/KeepsWindow.lean ====
section
/-! SUPPORT. What every operation of Machine/Window.lean keeps. -/

set_option linter.all false

namespace Sys2Proof.Machine

theorem readErr_keepsP {s₀ s : State} (hK : Keeps s₀ s)  : Keeps s₀ (readErr s).2.2 := by
  unfold readErr
  repeat' (first | with_reducible assumption | dsimp only)

theorem readErr_keeps {s₀ s tK : State}  {xK yK} (hK : Keeps s₀ s) (eK : readErr s = (xK, yK, tK)) : Keeps s₀ tK := by
  have h := readErr_keepsP hK 
  rw [eK] at h
  exact h

theorem writeErr_keepsP {s₀ s : State} (hK : Keeps s₀ s)  : Keeps s₀ (writeErr s).2 := by
  unfold writeErr
  repeat' (first | with_reducible assumption | dsimp only)

theorem writeErr_keeps {s₀ s tK : State}  {xK} (hK : Keeps s₀ s) (eK : writeErr s = (xK, tK)) : Keeps s₀ tK := by
  have h := writeErr_keepsP hK 
  rw [eK] at h
  exact h

theorem writeOpt_keepsP {s₀ s : State} {r : Option State} (h : Keeps s₀ s) (hr : ∀ t, r = some t → Keeps s₀ t) :
    Keeps s₀ (writeOpt s r).2 := by
  unfold writeOpt
  split
  · exact hr _ rfl
  · exact h

theorem flopPut_keeps {s₀ s : State} (hK : Keeps s₀ s) (p : Nat) (n : Nat) (f : Nat) (sel : Ctx) (v : Ctx) : Keeps s₀ (flopPut p n f sel v s) := by
  unfold flopPut
  repeat' (first | with_reducible assumption | with_reducible apply pondWrite_keeps | dsimp only)

theorem modelPut_keeps {s₀ s : State} (hK : Keeps s₀ s) (m : ModelWord) (x : Word) : Keeps s₀ (modelPut m x s) := by
  unfold modelPut
  repeat' (first | with_reducible assumption | with_reducible apply pondWrite_keeps | with_reducible apply flopPut_keeps | with_reducible apply rowWrite_keeps | with_reducible apply Keeps.ite | dsimp only | fail_if_no_progress (with_reducible refine Keeps.upd ?_ (by exact id) (by exact id) (by exact rfl)) | split)

theorem captureWords_keeps {s₀ s : State} (hK : Keeps s₀ s) (ws : List (Nat × Word)) : Keeps s₀ (captureWords ws s) := by
  unfold captureWords
  repeat' (first | with_reducible assumption | dsimp only | fail_if_no_progress (with_reducible refine Keeps.upd ?_ (by exact id) (by exact id) (by exact rfl)))

theorem modelRead_keepsP {s₀ s : State} (hK : Keeps s₀ s) (a : Nat) (h : Nat) (m : ModelWord) : Keeps s₀ (modelRead a h m s).2.2 := by
  unfold modelRead
  repeat' (first | with_reducible assumption | with_reducible refine readErr_keeps ?_ (by assumption) | with_reducible apply readErr_keepsP | with_reducible apply captureWords_keeps | with_reducible apply Keeps.ite | with_reducible apply Keeps.ite_fst | with_reducible apply Keeps.ite_snd | dsimp only | split)

theorem modelRead_keeps {s₀ s tK : State} {a : Nat} {h : Nat} {m : ModelWord} {xK yK} (hK : Keeps s₀ s) (eK : modelRead a h m s = (xK, yK, tK)) : Keeps s₀ tK := by
  have h := modelRead_keepsP hK a h m
  rw [eK] at h
  exact h

theorem modelWrite_keepsP {s₀ s : State} (hK : Keeps s₀ s) (m : ModelWord) (x : Word) : Keeps s₀ (modelWrite m x s).2 := by
  unfold modelWrite
  repeat' (first | with_reducible assumption | with_reducible apply modelPut_keeps | with_reducible refine writeErr_keeps ?_ (by assumption) | with_reducible apply writeErr_keepsP | with_reducible apply Keeps.ite | with_reducible apply Keeps.ite_fst | with_reducible apply Keeps.ite_snd | dsimp only | split)

theorem modelWrite_keeps {s₀ s tK : State} {m : ModelWord} {x : Word} {xK} (hK : Keeps s₀ s) (eK : modelWrite m x s = (xK, tK)) : Keeps s₀ tK := by
  have h := modelWrite_keepsP hK m x
  rw [eK] at h
  exact h

end Sys2Proof.Machine
end

