-- ==== Sys2Proof/Laws/KeepsRegAccess.lean ====
section
/-! SUPPORT. What every operation of Machine/RegAccess.lean keeps. -/

set_option linter.all false

namespace Sys2Proof.Machine

theorem shown_word {r s t : State} {v : Option Word} {w : Word} (h : Keeps r s) (e : shown s v = .word w t) : Keeps r t := by
  unfold shown at e
  split at e <;> cases e
  exact h

/-- The state that a read leaves. -/
def Shown.after : Shown → State → State
  | .word _ t, _ => t
  | _, s => s

theorem after_ite {r s : State} {c : Prop} [Decidable c] {x y : Shown} (h : Keeps r (x.after s)) (k : Keeps r (y.after s)) :
    Keeps r ((if c then x else y).after s) := by
  split <;> assumption

theorem after_shown {r s : State} {v : Option Word} (h : Keeps r s) : Keeps r ((shown s v).after s) := by
  cases v <;> exact h

theorem regView_after {r s : State} {who : Requester} {a : Nat} (h : Keeps r s) : Keeps r ((regView who a s).after s) := by
  unfold regView
  dsimp only
  repeat' (first | with_reducible apply after_ite | with_reducible exact after_shown h | split)
  all_goals first
    | exact h
    | exact hostStatus_keepsP h _
    | exact gpioIn_keepsP h
    | (rename_i e; exact pwrView_keeps h e)

theorem regView_word {r s t : State} {who : Requester} {a : Nat} {w : Word} (h : Keeps r s) (e : regView who a s = .word w t) :
    Keeps r t := by
  have k := regView_after (who := who) (a := a) h
  rw [e] at k
  exact k

theorem regRead1_keepsP {s₀ s : State} (hK : Keeps s₀ s) (who : Requester) (a : Nat) : Keeps s₀ (regRead1 who a s).2.2 := by
  unfold regRead1
  repeat' (first | with_reducible assumption | with_reducible refine readErr_keeps ?_ (by assumption) | with_reducible apply readErr_keepsP | with_reducible refine regView_word ?_ (by assumption) | dsimp only | split)

theorem regRead1_keeps {s₀ s tK : State} {who : Requester} {a : Nat} {xK yK} (hK : Keeps s₀ s) (eK : regRead1 who a s = (xK, yK, tK)) : Keeps s₀ tK := by
  have h := regRead1_keepsP hK who a
  rw [eK] at h
  exact h

theorem regRead_keepsP {s₀ s : State} (hK : Keeps s₀ s) (who : Requester) (a : Nat) : Keeps s₀ (regRead who a s).2.2 := by
  unfold regRead
  repeat' (first | with_reducible assumption | with_reducible apply timCapture_keeps | with_reducible refine regRead1_keeps ?_ (by assumption) | with_reducible apply regRead1_keepsP | with_reducible apply captureWords_keeps | with_reducible apply Keeps.ite | with_reducible apply Keeps.ite_fst | with_reducible apply Keeps.ite_snd | dsimp only | split)

theorem regRead_keeps {s₀ s tK : State} {who : Requester} {a : Nat} {xK yK} (hK : Keeps s₀ s) (eK : regRead who a s = (xK, yK, tK)) : Keeps s₀ tK := by
  have h := regRead_keepsP hK who a
  rw [eK] at h
  exact h

theorem storeReg_keeps {s₀ s : State} (hK : Keeps s₀ s) (r : RegRow) (a : Nat) (v : Word) : Keeps s₀ (storeReg r a v s) := by
  unfold storeReg
  repeat' (first | with_reducible assumption | with_reducible apply Keeps.wrReg | with_reducible apply Keeps.ite | dsimp only | fail_if_no_progress (with_reducible refine Keeps.upd ?_ (by exact id) (by exact id) (by exact rfl)) | split)

theorem plsCtrlWrite_keeps {s₀ s tK : State} {n : Nat} {v : Word}  (hK : Keeps s₀ s) (eK : plsCtrlWrite n v s = some tK) : Keeps s₀ tK := by
  unfold plsCtrlWrite at eK
  (try dsimp only at eK)
  (repeat' split at eK) <;> (first | cases eK | skip) <;> repeat' (first | with_reducible assumption | with_reducible apply pulseDisarm_keeps | with_reducible apply pulseArm_keeps | with_reducible apply Keeps.wrReg | with_reducible apply Keeps.ite | dsimp only | split)

theorem timWrite_keepsP {s₀ s : State} (hK : Keeps s₀ s) (r : RegRow) (o : Nat) (v : Word) : Keeps s₀ (timWrite r o v s).2 := by
  unfold timWrite
  repeat' (first | with_reducible assumption | with_reducible apply revertWrite_keeps | with_reducible apply lawArm_keeps | with_reducible apply clrBit_keeps | with_reducible refine writeErr_keeps ?_ (by assumption) | with_reducible apply writeErr_keepsP | with_reducible apply storeReg_keeps | with_reducible refine writeOpt_keepsP ?_ (fun _ _ => ?_) | with_reducible refine plsCtrlWrite_keeps ?_ (by assumption) | with_reducible apply Keeps.ite | with_reducible apply Keeps.ite_fst | with_reducible apply Keeps.ite_snd | with_reducible refine Keeps.whenDo ?_ (fun _ _ => ?_) | dsimp only | split)

theorem timWrite_keeps {s₀ s tK : State} {r : RegRow} {o : Nat} {v : Word} {xK} (hK : Keeps s₀ s) (eK : timWrite r o v s = (xK, tK)) : Keeps s₀ tK := by
  have h := timWrite_keepsP hK r o v
  rw [eK] at h
  exact h

theorem imgWrite_keepsP {s₀ s : State} (hK : Keeps s₀ s) (who : Requester) (r : RegRow) (o : Nat) (v : Word) : Keeps s₀ (imgWrite who r o v s).2 := by
  unfold imgWrite
  repeat' (first | with_reducible assumption | with_reducible refine writeErr_keeps ?_ (by assumption) | with_reducible apply writeErr_keepsP | with_reducible apply imgCtrlWrite_keeps | with_reducible apply storeReg_keeps | with_reducible apply Keeps.ite | with_reducible apply Keeps.ite_fst | with_reducible apply Keeps.ite_snd | dsimp only | split)

theorem imgWrite_keeps {s₀ s tK : State} {who : Requester} {r : RegRow} {o : Nat} {v : Word} {xK} (hK : Keeps s₀ s) (eK : imgWrite who r o v s = (xK, tK)) : Keeps s₀ tK := by
  have h := imgWrite_keepsP hK who r o v
  rw [eK] at h
  exact h

theorem cmpWrite_keepsP {s₀ s : State} (hK : Keeps s₀ s) (r : RegRow) (o : Nat) (v : Word) : Keeps s₀ (cmpWrite r o v s).2 := by
  unfold cmpWrite
  repeat' (first | with_reducible assumption | with_reducible apply acqWrite_keeps | with_reducible apply cmpStagedWrite_keeps | with_reducible refine writeErr_keeps ?_ (by assumption) | with_reducible apply writeErr_keepsP | with_reducible apply storeReg_keeps | with_reducible apply Keeps.ite | with_reducible apply Keeps.ite_fst | with_reducible apply Keeps.ite_snd | dsimp only | split)

theorem cmpWrite_keeps {s₀ s tK : State} {r : RegRow} {o : Nat} {v : Word} {xK} (hK : Keeps s₀ s) (eK : cmpWrite r o v s = (xK, tK)) : Keeps s₀ tK := by
  have h := cmpWrite_keepsP hK r o v
  rw [eK] at h
  exact h

theorem dmaWrite_keepsP {s₀ s : State} (hK : Keeps s₀ s) (r : RegRow) (o : Nat) (v : Word) : Keeps s₀ (dmaWrite r o v s).2 := by
  unfold dmaWrite
  repeat' (first | with_reducible assumption | with_reducible refine writeOpt_keepsP ?_ (fun _ _ => ?_) | with_reducible refine dmaCtrlWrite_keeps ?_ (by assumption) | with_reducible refine dmaSideWrite_keeps ?_ (by assumption) | with_reducible apply dmaAck_keeps | with_reducible apply storeReg_keeps | with_reducible apply Keeps.ite | with_reducible apply Keeps.ite_fst | with_reducible apply Keeps.ite_snd | dsimp only | split)

theorem dmaWrite_keeps {s₀ s tK : State} {r : RegRow} {o : Nat} {v : Word} {xK} (hK : Keeps s₀ s) (eK : dmaWrite r o v s = (xK, tK)) : Keeps s₀ tK := by
  have h := dmaWrite_keepsP hK r o v
  rw [eK] at h
  exact h

theorem nocWrite_keepsP {s₀ s : State} (hK : Keeps s₀ s) (r : RegRow) (o : Nat) (v : Word) : Keeps s₀ (nocWrite r o v s).2 := by
  unfold nocWrite
  repeat' (first | with_reducible assumption | with_reducible refine writeOpt_keepsP ?_ (fun _ _ => ?_) | with_reducible refine switchWrite_keeps ?_ (by assumption) | with_reducible refine bankWrite_keeps ?_ (by assumption) | with_reducible apply storeReg_keeps | with_reducible apply Keeps.ite | with_reducible apply Keeps.ite_fst | with_reducible apply Keeps.ite_snd | dsimp only | split)

theorem nocWrite_keeps {s₀ s tK : State} {r : RegRow} {o : Nat} {v : Word} {xK} (hK : Keeps s₀ s) (eK : nocWrite r o v s = (xK, tK)) : Keeps s₀ tK := by
  have h := nocWrite_keepsP hK r o v
  rw [eK] at h
  exact h

theorem celWrite_keepsP {s₀ s : State} (hK : Keeps s₀ s) (r : RegRow) (o : Nat) (v : Word) : Keeps s₀ (celWrite r o v s).2 := by
  unfold celWrite
  repeat' (first | with_reducible assumption | with_reducible refine writeOpt_keepsP ?_ (fun _ _ => ?_) | with_reducible refine blobCtrlWrite_keeps ?_ (by assumption) | with_reducible refine writeErr_keeps ?_ (by assumption) | with_reducible apply writeErr_keepsP | with_reducible apply storeReg_keeps | with_reducible apply Keeps.ite | with_reducible apply Keeps.ite_fst | with_reducible apply Keeps.ite_snd | dsimp only | split)

theorem celWrite_keeps {s₀ s tK : State} {r : RegRow} {o : Nat} {v : Word} {xK} (hK : Keeps s₀ s) (eK : celWrite r o v s = (xK, tK)) : Keeps s₀ tK := by
  have h := celWrite_keepsP hK r o v
  rw [eK] at h
  exact h

theorem trcWrite_keepsP {s₀ s : State} (hK : Keeps s₀ s) (r : RegRow) (o : Nat) (v : Word) : Keeps s₀ (trcWrite r o v s).2 := by
  unfold trcWrite
  repeat' (first | with_reducible assumption | with_reducible refine writeOpt_keepsP ?_ (fun _ _ => ?_) | with_reducible refine trcCtrlWrite_keeps ?_ (by assumption) | with_reducible refine trcSrcWrite_keeps ?_ (by assumption) | with_reducible apply storeReg_keeps | with_reducible apply Keeps.ite | with_reducible apply Keeps.ite_fst | with_reducible apply Keeps.ite_snd | dsimp only | split)

theorem trcWrite_keeps {s₀ s tK : State} {r : RegRow} {o : Nat} {v : Word} {xK} (hK : Keeps s₀ s) (eK : trcWrite r o v s = (xK, tK)) : Keeps s₀ tK := by
  have h := trcWrite_keepsP hK r o v
  rw [eK] at h
  exact h

theorem enumWrite_keeps {s₀ s tK : State} {v : Word}  (hK : Keeps s₀ s) (eK : enumWrite v s = some tK) : Keeps s₀ tK := by
  unfold enumWrite at eK
  (try dsimp only at eK)
  (repeat' split at eK) <;> (first | cases eK | skip) <;> repeat' (first | with_reducible assumption | with_reducible apply enumStart_keeps | with_reducible apply Keeps.ite | dsimp only | split)

theorem hstWrite_keepsP {s₀ s : State} (hK : Keeps s₀ s) (r : RegRow) (o : Nat) (v : Word) : Keeps s₀ (hstWrite r o v s).2 := by
  unfold hstWrite
  repeat' (first | with_reducible assumption | with_reducible refine writeOpt_keepsP ?_ (fun _ _ => ?_) | with_reducible refine fwirqWrite_keeps ?_ (by assumption) | with_reducible refine flCtrlWrite_keeps ?_ (by assumption) | with_reducible refine enumWrite_keeps ?_ (by assumption) | with_reducible apply hdbWrite_keeps | with_reducible apply storeReg_keeps | with_reducible apply Keeps.ite | with_reducible apply Keeps.ite_fst | with_reducible apply Keeps.ite_snd | dsimp only | split)

theorem hstWrite_keeps {s₀ s tK : State} {r : RegRow} {o : Nat} {v : Word} {xK} (hK : Keeps s₀ s) (eK : hstWrite r o v s = (xK, tK)) : Keeps s₀ tK := by
  have h := hstWrite_keepsP hK r o v
  rw [eK] at h
  exact h

theorem linkCtrlWrite_keeps {s₀ s tK : State} {l : Nat} {v : Word}  (hK : Keeps s₀ s) (eK : linkCtrlWrite l v s = some tK) : Keeps s₀ tK := by
  unfold linkCtrlWrite at eK
  (try dsimp only at eK)
  (repeat' split at eK) <;> (first | cases eK | skip) <;> repeat' (first | with_reducible assumption | with_reducible apply watchTree_keeps | with_reducible apply retrain_keeps | with_reducible apply loopbackWrite_keeps | with_reducible apply Keeps.ite | with_reducible refine Keeps.whenDo ?_ (fun _ _ => ?_) | dsimp only | split)

theorem linkWrite_keepsP {s₀ s : State} (hK : Keeps s₀ s) (r : RegRow) (l : Nat) (o : Nat) (v : Word) : Keeps s₀ (linkWrite r l o v s).2 := by
  unfold linkWrite
  repeat' (first | with_reducible assumption | with_reducible refine writeOpt_keepsP ?_ (fun _ _ => ?_) | with_reducible refine linkCtrlWrite_keeps ?_ (by assumption) | with_reducible refine writeErr_keeps ?_ (by assumption) | with_reducible apply writeErr_keepsP | with_reducible apply storeReg_keeps | with_reducible apply Keeps.ite | with_reducible apply Keeps.ite_fst | with_reducible apply Keeps.ite_snd | dsimp only | split)

theorem linkWrite_keeps {s₀ s tK : State} {r : RegRow} {l : Nat} {o : Nat} {v : Word} {xK} (hK : Keeps s₀ s) (eK : linkWrite r l o v s = (xK, tK)) : Keeps s₀ tK := by
  have h := linkWrite_keepsP hK r l o v
  rw [eK] at h
  exact h

theorem laneWrite_keepsP {s₀ s : State} (hK : Keeps s₀ s) (r : RegRow) (p : Nat) (o : Nat) (v : Word) : Keeps s₀ (laneWrite r p o v s).2 := by
  unfold laneWrite
  repeat' (first | with_reducible assumption | with_reducible refine writeErr_keeps ?_ (by assumption) | with_reducible apply writeErr_keepsP | with_reducible apply laneCtrlWrite_keeps | with_reducible apply storeReg_keeps | with_reducible apply Keeps.ite | with_reducible apply Keeps.ite_fst | with_reducible apply Keeps.ite_snd | dsimp only | split)

theorem laneWrite_keeps {s₀ s tK : State} {r : RegRow} {p : Nat} {o : Nat} {v : Word} {xK} (hK : Keeps s₀ s) (eK : laneWrite r p o v s = (xK, tK)) : Keeps s₀ tK := by
  have h := laneWrite_keepsP hK r p o v
  rw [eK] at h
  exact h

theorem shelfWrite_keepsP {s₀ s : State} (hK : Keeps s₀ s) (r : RegRow) (h : Nat) (o : Nat) (v : Word) : Keeps s₀ (shelfWrite r h o v s).2 := by
  unfold shelfWrite
  repeat' (first | with_reducible assumption | with_reducible refine writeOpt_keepsP ?_ (fun _ _ => ?_) | with_reducible refine pwrCtrlWrite_keeps ?_ (by assumption) | with_reducible refine writeErr_keeps ?_ (by assumption) | with_reducible apply writeErr_keepsP | with_reducible apply storeReg_keeps | with_reducible apply Keeps.ite | with_reducible apply Keeps.ite_fst | with_reducible apply Keeps.ite_snd | dsimp only | split)

theorem shelfWrite_keeps {s₀ s tK : State} {r : RegRow} {h : Nat} {o : Nat} {v : Word} {xK} (hK : Keeps s₀ s) (eK : shelfWrite r h o v s = (xK, tK)) : Keeps s₀ tK := by
  have h := shelfWrite_keepsP hK r h o v
  rw [eK] at h
  exact h

theorem bpcWrite_keepsP {s₀ s : State} (hK : Keeps s₀ s) (r : RegRow) (p : Nat) (n : Nat) (x : Nat) (v : Word) : Keeps s₀ (bpcWrite r p n x v s).2 := by
  unfold bpcWrite
  repeat' (first | with_reducible assumption | with_reducible apply injWrite_keeps | with_reducible refine writeErr_keeps ?_ (by assumption) | with_reducible apply writeErr_keepsP | with_reducible apply storeReg_keeps | with_reducible apply wrFld_keeps | with_reducible apply Keeps.ite | with_reducible apply Keeps.ite_fst | with_reducible apply Keeps.ite_snd | with_reducible refine Keeps.whenDo ?_ (fun _ _ => ?_) | dsimp only | split)

theorem bpcWrite_keeps {s₀ s tK : State} {r : RegRow} {p : Nat} {n : Nat} {x : Nat} {v : Word} {xK} (hK : Keeps s₀ s) (eK : bpcWrite r p n x v s = (xK, tK)) : Keeps s₀ tK := by
  have h := bpcWrite_keepsP hK r p n x v
  rw [eK] at h
  exact h

theorem wenWrite_keepsP {s₀ s : State} (hK : Keeps s₀ s) (r : RegRow) (p : Nat) (e : Nat) (x : Nat) (v : Word) : Keeps s₀ (wenWrite r p e x v s).2 := by
  unfold wenWrite
  repeat' (first | with_reducible assumption | with_reducible refine writeErr_keeps ?_ (by assumption) | with_reducible apply writeErr_keepsP | with_reducible apply storeReg_keeps | with_reducible apply wrFld_keeps | with_reducible apply Keeps.wrReg | with_reducible apply Keeps.ite | with_reducible apply Keeps.ite_fst | with_reducible apply Keeps.ite_snd | with_reducible refine Keeps.whenDo ?_ (fun _ _ => ?_) | dsimp only | split)

theorem wenWrite_keeps {s₀ s tK : State} {r : RegRow} {p : Nat} {e : Nat} {x : Nat} {v : Word} {xK} (hK : Keeps s₀ s) (eK : wenWrite r p e x v s = (xK, tK)) : Keeps s₀ tK := by
  have h := wenWrite_keepsP hK r p e x v
  rw [eK] at h
  exact h

theorem stwWrite_keepsP {s₀ s : State} (hK : Keeps s₀ s) (r : RegRow) (p : Nat) (x : Nat) (v : Word) : Keeps s₀ (stwWrite r p x v s).2 := by
  unfold stwWrite
  repeat' (first | with_reducible assumption | with_reducible apply stwCtrlWrite_keeps | with_reducible apply doorbellWrite_keeps | with_reducible refine writeOpt_keepsP ?_ (fun _ _ => ?_) | with_reducible refine stwDbgWrite_keeps ?_ (by assumption) | with_reducible apply storeReg_keeps | with_reducible apply Keeps.ite | with_reducible apply Keeps.ite_fst | with_reducible apply Keeps.ite_snd | dsimp only | split)

theorem stwWrite_keeps {s₀ s tK : State} {r : RegRow} {p : Nat} {x : Nat} {v : Word} {xK} (hK : Keeps s₀ s) (eK : stwWrite r p x v s = (xK, tK)) : Keeps s₀ tK := by
  have h := stwWrite_keepsP hK r p x v
  rw [eK] at h
  exact h

theorem tskWrite_keepsP {s₀ s : State} (hK : Keeps s₀ s) (who : Requester) (r : RegRow) (p : Nat) (x : Nat) (v : Word) : Keeps s₀ (tskWrite who r p x v s).2 := by
  unfold tskWrite
  repeat' (first | with_reducible assumption | with_reducible apply tskCtrlWrite_keeps | with_reducible apply storeReg_keeps | with_reducible refine writeErr_keeps ?_ (by assumption) | with_reducible apply writeErr_keepsP | with_reducible refine writeOpt_keepsP ?_ (fun _ _ => ?_) | with_reducible refine tskCmd_keeps ?_ (by assumption) | with_reducible refine tskNtickWrite_keeps ?_ (by assumption) | with_reducible refine tskLimitWrite_keeps ?_ (by assumption) | with_reducible refine schedPost_keeps ?_ (by assumption) | with_reducible apply schedPost_keepsP | with_reducible apply Keeps.ite | with_reducible apply Keeps.ite_fst | with_reducible apply Keeps.ite_snd | dsimp only | split)

theorem tskWrite_keeps {s₀ s tK : State} {who : Requester} {r : RegRow} {p : Nat} {x : Nat} {v : Word} {xK} (hK : Keeps s₀ s) (eK : tskWrite who r p x v s = (xK, tK)) : Keeps s₀ tK := by
  have h := tskWrite_keepsP hK who r p x v
  rw [eK] at h
  exact h

theorem clusterWrite_keepsP {s₀ s : State} (hK : Keeps s₀ s) (who : Requester) (r : RegRow) (p : Nat) (o : Nat) (v : Word) : Keeps s₀ (clusterWrite who r p o v s).2 := by
  unfold clusterWrite
  repeat' (first | with_reducible assumption | with_reducible refine bpcWrite_keeps ?_ (by assumption) | with_reducible apply bpcWrite_keepsP | with_reducible refine wenWrite_keeps ?_ (by assumption) | with_reducible apply wenWrite_keepsP | with_reducible refine stwWrite_keeps ?_ (by assumption) | with_reducible apply stwWrite_keepsP | with_reducible refine tskWrite_keeps ?_ (by assumption) | with_reducible apply tskWrite_keepsP | with_reducible apply storeReg_keeps | with_reducible apply Keeps.ite | with_reducible apply Keeps.ite_fst | with_reducible apply Keeps.ite_snd | dsimp only | split)

theorem clusterWrite_keeps {s₀ s tK : State} {who : Requester} {r : RegRow} {p : Nat} {o : Nat} {v : Word} {xK} (hK : Keeps s₀ s) (eK : clusterWrite who r p o v s = (xK, tK)) : Keeps s₀ tK := by
  have h := clusterWrite_keepsP hK who r p o v
  rw [eK] at h
  exact h

theorem regWrite_keepsP {s₀ s : State} (hK : Keeps s₀ s) (who : Requester) (a : Nat) (v : Word) : Keeps s₀ (regWrite who a v s).2 := by
  unfold regWrite
  repeat' (first | with_reducible assumption | with_reducible refine writeErr_keeps ?_ (by assumption) | with_reducible apply writeErr_keepsP | with_reducible apply sprCtrlWrite_keeps | with_reducible apply sprCenWrite_keeps | with_reducible apply storeReg_keeps | with_reducible refine imgWrite_keeps ?_ (by assumption) | with_reducible apply imgWrite_keepsP | with_reducible refine timWrite_keeps ?_ (by assumption) | with_reducible apply timWrite_keepsP | with_reducible refine cmpWrite_keeps ?_ (by assumption) | with_reducible apply cmpWrite_keepsP | with_reducible refine dmaWrite_keeps ?_ (by assumption) | with_reducible apply dmaWrite_keepsP | with_reducible refine nocWrite_keeps ?_ (by assumption) | with_reducible apply nocWrite_keepsP | with_reducible refine celWrite_keeps ?_ (by assumption) | with_reducible apply celWrite_keepsP | with_reducible refine trcWrite_keeps ?_ (by assumption) | with_reducible apply trcWrite_keepsP | with_reducible refine hstWrite_keeps ?_ (by assumption) | with_reducible apply hstWrite_keepsP | with_reducible refine laneWrite_keeps ?_ (by assumption) | with_reducible apply laneWrite_keepsP | with_reducible refine linkWrite_keeps ?_ (by assumption) | with_reducible apply linkWrite_keepsP | with_reducible refine shelfWrite_keeps ?_ (by assumption) | with_reducible apply shelfWrite_keepsP | with_reducible refine clusterWrite_keeps ?_ (by assumption) | with_reducible apply clusterWrite_keepsP | with_reducible apply Keeps.ite | with_reducible apply Keeps.ite_fst | with_reducible apply Keeps.ite_snd | dsimp only | split)

theorem regWrite_keeps {s₀ s tK : State} {who : Requester} {a : Nat} {v : Word} {xK} (hK : Keeps s₀ s) (eK : regWrite who a v s = (xK, tK)) : Keeps s₀ tK := by
  have h := regWrite_keepsP hK who a v
  rw [eK] at h
  exact h

end Sys2Proof.Machine
end

