-- ==== Sys2Proof/Laws/KeepsAccess.lean ====
section
/-! SUPPORT. What every operation of Machine/Access.lean keeps. -/

set_option linter.all false

namespace Sys2Proof.Machine

theorem celCtlRead_keepsP {s₀ s : State} (hK : Keeps s₀ s) (who : Requester) (off : Nat) : Keeps s₀ (celCtlRead who off s).2.2 := by
  unfold celCtlRead
  repeat' (first | with_reducible assumption | with_reducible refine readLine_keeps ?_ (by assumption) | with_reducible apply readLine_keepsP | dsimp only | split)

theorem celCtlRead_keeps {s₀ s tK : State} {who : Requester} {off : Nat} {xK yK} (hK : Keeps s₀ s) (eK : celCtlRead who off s = (xK, yK, tK)) : Keeps s₀ tK := by
  have h := celCtlRead_keepsP hK who off
  rw [eK] at h
  exact h

theorem celCtlWrite_keepsP {s₀ s : State} (hK : Keeps s₀ s) (who : Requester) (off : Nat) (v : Word) : Keeps s₀ (celCtlWrite who off v s).2 := by
  unfold celCtlWrite
  repeat' (first | with_reducible assumption | with_reducible refine writeLine_keeps ?_ (by assumption) | with_reducible apply writeLine_keepsP | dsimp only | split)

theorem celCtlWrite_keeps {s₀ s tK : State} {who : Requester} {off : Nat} {v : Word} {xK} (hK : Keeps s₀ s) (eK : celCtlWrite who off v s = (xK, tK)) : Keeps s₀ tK := by
  have h := celCtlWrite_keepsP hK who off v
  rw [eK] at h
  exact h

theorem performRead_keepsP {s₀ s : State} (hK : Keeps s₀ s) (who : Requester) (t : Target) : Keeps s₀ (performRead who t s).2.2 := by
  unfold performRead
  repeat' (first | with_reducible assumption | with_reducible refine regRead_keeps ?_ (by assumption) | with_reducible apply regRead_keepsP | with_reducible refine modelRead_keeps ?_ (by assumption) | with_reducible apply modelRead_keepsP | with_reducible refine celCtlRead_keeps ?_ (by assumption) | with_reducible apply celCtlRead_keepsP | with_reducible refine readErr_keeps ?_ (by assumption) | with_reducible apply readErr_keepsP | with_reducible apply Keeps.ite | with_reducible apply Keeps.ite_fst | with_reducible apply Keeps.ite_snd | dsimp only | split)

theorem performRead_keeps {s₀ s tK : State} {who : Requester} {t : Target} {xK yK} (hK : Keeps s₀ s) (eK : performRead who t s = (xK, yK, tK)) : Keeps s₀ tK := by
  have h := performRead_keepsP hK who t
  rw [eK] at h
  exact h

theorem performStore_keepsP {s₀ s : State} (hK : Keeps s₀ s) (who : Requester) (t : Target) (v : Word) : Keeps s₀ (performStore who t v s).2 := by
  unfold performStore
  repeat' (first | with_reducible assumption | with_reducible refine writeOpt_keepsP ?_ (fun _ _ => ?_) | with_reducible refine feedWrite_keeps ?_ (by assumption) | with_reducible refine regWrite_keeps ?_ (by assumption) | with_reducible apply regWrite_keepsP | with_reducible refine modelWrite_keeps ?_ (by assumption) | with_reducible apply modelWrite_keepsP | with_reducible refine celCtlWrite_keeps ?_ (by assumption) | with_reducible apply celCtlWrite_keepsP | with_reducible refine writeErr_keeps ?_ (by assumption) | with_reducible apply writeErr_keepsP | with_reducible apply Keeps.ite | with_reducible apply Keeps.ite_fst | with_reducible apply Keeps.ite_snd | dsimp only | split)

theorem performStore_keeps {s₀ s tK : State} {who : Requester} {t : Target} {v : Word} {xK} (hK : Keeps s₀ s) (eK : performStore who t v s = (xK, tK)) : Keeps s₀ tK := by
  have h := performStore_keepsP hK who t v
  rw [eK] at h
  exact h

theorem perform_keeps {s₀ s : State} (hK : Keeps s₀ s) (who : Requester) (t : Target) (write : Bool) (v : Word) : Keeps s₀ (perform who t write v s) := by
  unfold perform
  repeat' (first | with_reducible assumption | with_reducible refine performStore_keeps ?_ (by assumption) | with_reducible apply performStore_keepsP | with_reducible apply answer_keeps | with_reducible refine performRead_keeps ?_ (by assumption) | with_reducible apply performRead_keepsP | with_reducible apply Keeps.ite | dsimp only | split)

theorem gateHold_keeps {s₀ s : State} (hK : Keeps s₀ s) (h : Nat) (q : GateReq) : Keeps s₀ (gateHold h q s) := by
  unfold gateHold
  repeat' (first | with_reducible assumption | with_reducible apply answer_keeps | with_reducible apply wakeShelf_keeps | with_reducible apply putGate_keeps | with_reducible apply Keeps.ite | dsimp only | fail_if_no_progress (with_reducible refine Keeps.upd ?_ (by exact id) (by exact id) (by exact rfl)) | split)

theorem ctlLocal_keeps {s₀ s : State} (hK : Keeps s₀ s) (who : Requester) (a : Nat) (write : Bool) (v : Word) : Keeps s₀ (ctlLocal who a write v s) := by
  unfold ctlLocal
  repeat' (first | with_reducible assumption | with_reducible apply answer_keeps | with_reducible apply perform_keeps | with_reducible apply gateHold_keeps | with_reducible apply Keeps.ite | dsimp only | split)

theorem deliver_keeps {s₀ s : State} (hK : Keeps s₀ s) (q : GateReq) : Keeps s₀ (deliver q s) := by
  unfold deliver
  repeat' (first | with_reducible assumption | with_reducible apply perform_keeps | with_reducible apply answer_keeps | with_reducible apply Keeps.ite | dsimp only | split)

theorem ctl_keeps {s₀ s : State} (hK : Keeps s₀ s) (who : Requester) (a : Nat) (write : Bool) (v : Word) : Keeps s₀ (ctl who a write v s) := by
  unfold ctl
  repeat' (first | with_reducible assumption | with_reducible apply answer_keeps | with_reducible apply ctlLocal_keeps | with_reducible apply remoteIssue_keeps | with_reducible apply Keeps.ite | dsimp only | split)

theorem request_keeps {s₀ s : State} (hK : Keeps s₀ s) (who : Requester) (a : Nat) (write : Bool) (v : Word) : Keeps s₀ (request who a write v s) := by
  unfold request
  repeat' (first | with_reducible assumption | with_reducible apply answer_keeps | with_reducible apply bar4Write_keeps | with_reducible apply giveResp_keeps | with_reducible apply ctl_keeps | with_reducible apply Keeps.ite | dsimp only | split)

theorem requestLen_keeps {s₀ s : State} (hK : Keeps s₀ s) (who : Requester) (a : Nat) (len : Nat) (write : Bool) (v : Word) : Keeps s₀ (requestLen who a len write v s) := by
  unfold requestLen
  repeat' (first | with_reducible assumption | with_reducible apply request_keeps | with_reducible apply answer_keeps | with_reducible apply Keeps.ite | dsimp only | split)

theorem remoteTimeout_keeps {s₀ s : State} (hK : Keeps s₀ s) (tag : Nat) : Keeps s₀ (remoteTimeout tag s) := by
  unfold remoteTimeout
  repeat' (first | with_reducible assumption | with_reducible apply answer_keeps | dsimp only | fail_if_no_progress (with_reducible refine Keeps.upd ?_ (by exact id) (by exact id) (by exact rfl)) | split)

theorem rreq_keeps {s₀ s : State} (hK : Keeps s₀ s) (l : Nat) (src : Nat) (dst : Nat) (addr : Nat) (write : Bool) (tag : Nat) (v : Word) : Keeps s₀ (rreq l src dst addr write tag v s) := by
  unfold rreq
  repeat' (first | with_reducible assumption | with_reducible apply ctl_keeps | with_reducible apply sendService_keeps | with_reducible apply sendServiceFrom_keeps | with_reducible apply answer_keeps | with_reducible apply Keeps.ite | dsimp only | split)

theorem rrsp_keeps {s₀ s : State} (hK : Keeps s₀ s) (l : Nat) (dst : Nat) (tag : Nat) (bad : Bool) (v : Word) : Keeps s₀ (rrsp l dst tag bad v s) := by
  unfold rrsp
  repeat' (first | with_reducible assumption | with_reducible apply answer_keeps | with_reducible apply sendService_keeps | with_reducible apply sendServiceFrom_keeps | with_reducible apply Keeps.ite | dsimp only | fail_if_no_progress (with_reducible refine Keeps.upd ?_ (by exact id) (by exact id) (by exact rfl)) | split)

theorem feedRequest_keeps {s₀ s : State} (hK : Keeps s₀ s) (who : Requester) (ofs : Nat) (bytes : List Byte) : Keeps s₀ (feedRequest who ofs bytes s) := by
  unfold feedRequest
  repeat' (first | with_reducible assumption | with_reducible apply answer_keeps | with_reducible refine feedWrite_keeps ?_ (by assumption) | with_reducible apply Keeps.ite | dsimp only | split)

theorem tskRequest_keeps {s₀ s : State} (hK : Keeps s₀ s) (p : Nat) (op : Nat) (target : Nat) (arg : Word) : Keeps s₀ (tskRequest p op target arg s) := by
  unfold tskRequest
  repeat' (first | with_reducible assumption | with_reducible apply request_keeps | with_reducible apply Keeps.ite | dsimp only | split)

theorem shelfPhaseDone_keeps {s₀ s : State} (hK : Keeps s₀ s) (h : Nat) (ok : Bool) : Keeps s₀ (shelfPhaseDone h ok s) := by
  unfold shelfPhaseDone
  repeat' (first | with_reducible assumption | with_reducible refine shelfPhase_keeps ?_ (by assumption) | with_reducible apply shelfPhase_keepsP | with_reducible apply answer_keeps | with_reducible apply deliver_keeps | with_reducible refine Keeps.foldl (fun _ _ _ => ?_) _ ?_ | with_reducible refine Keeps.foldl_fst (fun _ _ _ => ?_) _ ?_ | with_reducible refine Keeps.foldl_snd (fun _ _ _ => ?_) _ ?_ | with_reducible refine Keeps.foldl_trd (fun _ _ _ => ?_) _ ?_ | dsimp only | split)

theorem takeResp_keeps {s₀ s tK : State} {who : Requester} {xK : Resp} (hK : Keeps s₀ s) (eK : takeResp who s = some (xK, tK)) :
    Keeps s₀ tK := by
  obtain ⟨r, _, e⟩ := Option.map_eq_some_iff.1 eK
  cases e
  exact Keeps.upd hK (fun x => x) (fun x => x) rfl

theorem ctlSync_keepsP {s₀ s : State} (hK : Keeps s₀ s) (who : Requester) (a : Nat) (write : Bool) (v : Word) : Keeps s₀ (ctlSync who a write v s).2 := by
  unfold ctlSync
  repeat' (first | with_reducible assumption | with_reducible refine takeResp_keeps ?_ (by assumption) | with_reducible apply ctl_keeps | with_reducible apply Keeps.ite | with_reducible apply Keeps.ite_fst | with_reducible apply Keeps.ite_snd | dsimp only | split)

theorem ctlSync_keeps {s₀ s tK : State} {who : Requester} {a : Nat} {write : Bool} {v : Word} {xK} (hK : Keeps s₀ s) (eK : ctlSync who a write v s = (xK, tK)) : Keeps s₀ tK := by
  have h := ctlSync_keepsP hK who a write v
  rw [eK] at h
  exact h

end Sys2Proof.Machine
end

