-- ==== Sys2Proof/Laws/KeepsPorts.lean ====
section
/-! SUPPORT. What every operation of Machine/Ports.lean keeps. -/

set_option linter.all false

namespace Sys2Proof.Machine

theorem dmaLine_keepsP {s₀ s : State} (hK : Keeps s₀ s) (n : Nat) (l : Nat) (chk : Verdict) : Keeps s₀ (dmaLine n l chk s).2.2 := by
  unfold dmaLine
  repeat' (first | with_reducible assumption | with_reducible refine freeBytes_keeps ?_ (by assumption) | with_reducible apply freeBytes_keepsP | with_reducible refine readLine_keeps ?_ (by assumption) | with_reducible apply readLine_keepsP | with_reducible apply Keeps.ite | with_reducible apply Keeps.ite_fst | with_reducible apply Keeps.ite_snd | dsimp only | split)

theorem dmaLine_keeps {s₀ s tK : State} {n : Nat} {l : Nat} {chk : Verdict} {xK yK} (hK : Keeps s₀ s) (eK : dmaLine n l chk s = (xK, yK, tK)) : Keeps s₀ tK := by
  have h := dmaLine_keepsP hK n l chk
  rw [eK] at h
  exact h

theorem dmaLines_keepsP {s₀ s : State} (hK : Keeps s₀ s) (n : Nat) (off : Nat) (len : Nat) (chk : Verdict) : Keeps s₀ (dmaLines n off len chk s).2.2 := by
  unfold dmaLines
  repeat' (first | with_reducible assumption | with_reducible refine dmaLine_keeps ?_ (by assumption) | with_reducible apply dmaLine_keepsP | with_reducible apply Keeps.ite | with_reducible apply Keeps.ite_fst | with_reducible apply Keeps.ite_snd | with_reducible refine Keeps.foldl (fun _ _ _ => ?_) _ ?_ | with_reducible refine Keeps.foldl_fst (fun _ _ _ => ?_) _ ?_ | with_reducible refine Keeps.foldl_snd (fun _ _ _ => ?_) _ ?_ | with_reducible refine Keeps.foldl_trd (fun _ _ _ => ?_) _ ?_ | dsimp only | split)

theorem dmaLines_keeps {s₀ s tK : State} {n : Nat} {off : Nat} {len : Nat} {chk : Verdict} {xK yK} (hK : Keeps s₀ s) (eK : dmaLines n off len chk s = (xK, yK, tK)) : Keeps s₀ tK := by
  have h := dmaLines_keepsP hK n off len chk
  rw [eK] at h
  exact h

theorem dmaTake_keeps {s₀ s : State} (hK : Keeps s₀ s) (n : Nat) (bytes : List Byte) : Keeps s₀ (dmaTake n bytes s) := by
  unfold dmaTake
  repeat' (first | with_reducible assumption | with_reducible apply putChan_keeps | dsimp only | fail_if_no_progress (with_reducible refine Keeps.upd ?_ (by exact id) (by exact id) (by exact rfl)))

theorem dmaReadLines_keeps {s₀ s : State} (hK : Keeps s₀ s) (n : Nat) (off : Nat) (len : Nat) (chk : Verdict) : Keeps s₀ (dmaReadLines n off len chk s) := by
  unfold dmaReadLines
  repeat' (first | with_reducible assumption | with_reducible refine dmaLines_keeps ?_ (by assumption) | with_reducible apply dmaLines_keepsP | with_reducible apply dmaTake_keeps | with_reducible apply dmaStop_keeps | dsimp only | split)

theorem dmaReadReg_keeps {s₀ s : State} (hK : Keeps s₀ s) (n : Nat) (a : Nat) : Keeps s₀ (dmaReadReg n a s) := by
  unfold dmaReadReg
  repeat' (first | with_reducible assumption | with_reducible refine ctlSync_keeps ?_ (by assumption) | with_reducible apply ctlSync_keepsP | with_reducible apply dmaTake_keeps | with_reducible apply dmaStop_keeps | with_reducible apply Keeps.ite | dsimp only | split)

theorem dmaReadResp_keeps {s₀ s : State} (hK : Keeps s₀ s) (n : Nat) (data : List Byte) (bad : Bool) (chk : Verdict) : Keeps s₀ (dmaReadResp n data bad chk s) := by
  unfold dmaReadResp
  repeat' (first | with_reducible assumption | with_reducible apply dmaStop_keeps | with_reducible apply dmaTake_keeps | with_reducible apply dmaReadLines_keeps | with_reducible apply dmaReadReg_keeps | with_reducible apply Keeps.ite | dsimp only | split)

theorem dmaWrote_keeps {s₀ s : State} (hK : Keeps s₀ s) (n : Nat) (len : Nat) : Keeps s₀ (dmaWrote n len s) := by
  unfold dmaWrote
  repeat' (first | with_reducible assumption | with_reducible apply setResid_keeps | with_reducible apply putChan_keeps | with_reducible apply dmaEnd_keeps | with_reducible apply Keeps.ite | with_reducible refine Keeps.whenDo ?_ (fun _ _ => ?_) | dsimp only | fail_if_no_progress (with_reducible refine Keeps.upd ?_ (by exact id) (by exact id) (by exact rfl)) | split)

theorem dmaFailed_keeps {s₀ s : State} (hK : Keeps s₀ s) (n : Nat) (len : Nat) (err : Nat) : Keeps s₀ (dmaFailed n len err s) := by
  unfold dmaFailed
  repeat' (first | with_reducible assumption | with_reducible apply dmaWrote_keeps | with_reducible apply putChan_keeps | with_reducible apply Keeps.ite | dsimp only | fail_if_no_progress (with_reducible refine Keeps.upd ?_ (by exact id) (by exact id) (by exact rfl)) | split)

theorem dmaPut_keepsP {s₀ s : State} (hK : Keeps s₀ s) (n : Nat) (off : Nat) (bytes : List Byte) (chk : Verdict) : Keeps s₀ (dmaPut n off bytes chk s).2 := by
  unfold dmaPut
  repeat' (first | with_reducible assumption | with_reducible refine writeLine_keeps ?_ (by assumption) | with_reducible apply writeLine_keepsP | with_reducible apply Keeps.ite | with_reducible apply Keeps.ite_fst | with_reducible apply Keeps.ite_snd | with_reducible refine Keeps.foldl (fun _ _ _ => ?_) _ ?_ | with_reducible refine Keeps.foldl_fst (fun _ _ _ => ?_) _ ?_ | with_reducible refine Keeps.foldl_snd (fun _ _ _ => ?_) _ ?_ | with_reducible refine Keeps.foldl_trd (fun _ _ _ => ?_) _ ?_ | dsimp only | split)

theorem dmaPut_keeps {s₀ s tK : State} {n : Nat} {off : Nat} {bytes : List Byte} {chk : Verdict} {xK} (hK : Keeps s₀ s) (eK : dmaPut n off bytes chk s = (xK, tK)) : Keeps s₀ tK := by
  have h := dmaPut_keepsP hK n off bytes chk
  rw [eK] at h
  exact h

theorem dmaWriteLines_keeps {s₀ s : State} (hK : Keeps s₀ s) (n : Nat) (off : Nat) (bytes : List Byte) (chk : Verdict) : Keeps s₀ (dmaWriteLines n off bytes chk s) := by
  unfold dmaWriteLines
  repeat' (first | with_reducible assumption | with_reducible refine dmaPut_keeps ?_ (by assumption) | with_reducible apply dmaPut_keepsP | with_reducible apply dmaWrote_keeps | with_reducible apply dmaFailed_keeps | dsimp only | split)

theorem dmaWriteReg_keeps {s₀ s : State} (hK : Keeps s₀ s) (n : Nat) (a : Nat) (bytes : List Byte) : Keeps s₀ (dmaWriteReg n a bytes s) := by
  unfold dmaWriteReg
  repeat' (first | with_reducible assumption | with_reducible refine ctlSync_keeps ?_ (by assumption) | with_reducible apply ctlSync_keepsP | with_reducible apply dmaWrote_keeps | with_reducible apply dmaFailed_keeps | with_reducible apply Keeps.ite | dsimp only | split)

theorem dmaWriteResp_keeps {s₀ s : State} (hK : Keeps s₀ s) (n : Nat) (chk : Verdict) : Keeps s₀ (dmaWriteResp n chk s) := by
  unfold dmaWriteResp
  repeat' (first | with_reducible assumption | with_reducible apply dmaWrote_keeps | with_reducible apply dmaFailed_keeps | with_reducible apply dmaWriteLines_keeps | with_reducible apply dmaWriteReg_keeps | with_reducible apply Keeps.ite | dsimp only | fail_if_no_progress (with_reducible refine Keeps.upd ?_ (by exact id) (by exact id) (by exact rfl)) | split)

theorem onJtag_keeps {s₀ s : State} (hK : Keeps s₀ s) (f : Jtag → Jtag) : Keeps s₀ (onJtag f s) := by
  unfold onJtag
  repeat' (first | with_reducible assumption | dsimp only | fail_if_no_progress (with_reducible refine Keeps.upd ?_ (by exact id) (by exact id) (by exact rfl)))

theorem loseLanes_keeps {s₀ s : State} (hK : Keeps s₀ s)  : Keeps s₀ (loseLanes s) := by
  unfold loseLanes
  repeat' (first | with_reducible assumption | with_reducible apply watchTree_keeps | with_reducible apply linkDown_keeps | with_reducible apply Keeps.ite | with_reducible refine Keeps.foldl (fun _ _ _ => ?_) _ ?_ | dsimp only | split)

theorem tapSelect_keeps {s₀ s : State} (hK : Keeps s₀ s) (ir : Nat) : Keeps s₀ (tapSelect ir s) := by
  unfold tapSelect
  repeat' (first | with_reducible assumption | with_reducible apply loseLanes_keeps | with_reducible apply onJtag_keeps | with_reducible refine Keeps.whenDo ?_ (fun _ _ => ?_) | dsimp only | fail_if_no_progress (with_reducible refine Keeps.upd ?_ (by exact id) (by exact id) (by exact rfl)))

theorem boundaryScan_keeps {s₀ s : State} (hK : Keeps s₀ s) (pins : List Bool) (shift : Option (List Bool)) : Keeps s₀ (boundaryScan pins shift s) := by
  unfold boundaryScan
  repeat' (first | with_reducible assumption | with_reducible apply onJtag_keeps | dsimp only | fail_if_no_progress (with_reducible refine Keeps.upd ?_ (by exact id) (by exact id) (by exact rfl)) | split)

theorem tapBoundary_keeps {s₀ s : State} (hK : Keeps s₀ s) (ir : Nat) (scan : Option BoundScan) : Keeps s₀ (tapBoundary ir scan s) := by
  unfold tapBoundary
  repeat' (first | with_reducible assumption | with_reducible apply tapSelect_keeps | with_reducible apply boundaryScan_keeps | with_reducible apply Keeps.ite | dsimp only | split)

theorem tapPlain_keeps {s₀ s : State} (hK : Keeps s₀ s) (ir : Nat) (v : Nat) : Keeps s₀ (tapPlain ir v s) := by
  unfold tapPlain
  repeat' (first | with_reducible assumption | with_reducible apply onJtag_keeps | with_reducible apply tapSelect_keeps | with_reducible apply Keeps.ite | dsimp only | fail_if_no_progress (with_reducible refine Keeps.upd ?_ (by exact id) (by exact id) (by exact rfl)) | split)

theorem dbgUpdate_keeps {s₀ s : State} (hK : Keeps s₀ s) (data : Word) (addr : Nat) (write : Bool) (start : Bool) : Keeps s₀ (dbgUpdate data addr write start s) := by
  unfold dbgUpdate
  repeat' (first | with_reducible assumption | with_reducible apply ctl_keeps | with_reducible apply onJtag_keeps | with_reducible apply Keeps.ite | dsimp only | fail_if_no_progress (with_reducible refine Keeps.upd ?_ (by exact id) (by exact id) (by exact rfl)) | split)

theorem dbgAcc_keeps {s₀ s : State} (hK : Keeps s₀ s) (data : Word) (addr : Nat) (write : Bool) (start : Bool) : Keeps s₀ (dbgAcc data addr write start s) := by
  unfold dbgAcc
  repeat' (first | with_reducible assumption | with_reducible apply dbgUpdate_keeps | with_reducible apply tapPlain_keeps | with_reducible apply Keeps.ite | dsimp only | split)

theorem dbgMbUpdate_keeps {s₀ s : State} (hK : Keeps s₀ s) (word : Word) (last : Bool) (discard : Bool) : Keeps s₀ (dbgMbUpdate word last discard s) := by
  unfold dbgMbUpdate
  repeat' (first | with_reducible assumption | with_reducible apply onJtag_keeps | with_reducible refine submitMb_keeps ?_ (by assumption) | with_reducible apply submitMb_keepsP | with_reducible apply Keeps.ite | dsimp only | fail_if_no_progress (with_reducible refine Keeps.upd ?_ (by exact id) (by exact id) (by exact rfl)) | split)

theorem i2cIssue_keeps {s₀ s : State} (hK : Keeps s₀ s) (write : Bool) (v : Word) : Keeps s₀ (i2cIssue write v s) := by
  unfold i2cIssue
  repeat' (first | with_reducible assumption | with_reducible apply ctl_keeps | with_reducible apply onHst_keeps | dsimp only | fail_if_no_progress (with_reducible refine Keeps.upd ?_ (by exact id) (by exact id) (by exact rfl)))

theorem i2cSay_keeps {s₀ s : State} (hK : Keeps s₀ s) (status : Nat) : Keeps s₀ (i2cSay status s) := by
  unfold i2cSay
  repeat' (first | with_reducible assumption | with_reducible apply onHst_keeps | dsimp only | fail_if_no_progress (with_reducible refine Keeps.upd ?_ (by exact id) (by exact id) (by exact rfl)))

theorem i2cWrite_keeps {s₀ s : State} (hK : Keeps s₀ s) (v : Word) : Keeps s₀ (i2cWrite v s) := by
  unfold i2cWrite
  repeat' (first | with_reducible assumption | with_reducible apply i2cSay_keeps | with_reducible apply i2cIssue_keeps | with_reducible apply Keeps.ite | dsimp only | split)

theorem i2cRead_keeps {s₀ s : State} (hK : Keeps s₀ s)  : Keeps s₀ (i2cRead s) := by
  unfold i2cRead
  repeat' (first | with_reducible assumption | with_reducible apply i2cSay_keeps | with_reducible apply i2cIssue_keeps | with_reducible apply Keeps.ite | dsimp only | split)

end Sys2Proof.Machine
end

