-- ==== Sys2Proof/Laws/KeepsStewardOps.lean ====
section
/-! SUPPORT. What every operation of Machine/StewardOps.lean keeps. -/

set_option linter.all false

namespace Sys2Proof.Machine

theorem putIc_keeps {s₀ s : State} (hK : Keeps s₀ s) (p : Nat) (l : Nat) (x : Option (List Byte)) : Keeps s₀ (putIc p l x s) := by
  unfold putIc
  repeat' (first | with_reducible assumption | dsimp only | fail_if_no_progress (with_reducible refine Keeps.upd ?_ (by exact id) (by exact id) (by exact rfl)))

theorem fillIc_keeps {s₀ s : State} (hK : Keeps s₀ s) (p : Nat) (l : Nat) (data : List Byte) : Keeps s₀ (fillIc p l data s) := by
  unfold fillIc
  repeat' (first | with_reducible assumption | with_reducible refine takeFree_keeps ?_ (by assumption) | with_reducible apply takeFree_keepsP | with_reducible apply putIc_keeps | with_reducible apply Keeps.ite | dsimp only | split)

end Sys2Proof.Machine
end

