-- ==== Sys2Proof/Laws/KeepsStewardExec.lean ====
section
/-! SUPPORT. What every operation of Machine/StewardExec.lean keeps. -/

set_option linter.all false

namespace Sys2Proof.Machine

theorem stwDone_keeps {s₀ s : State} (hK : Keeps s₀ s) (p : Nat) (f : Steward → Steward) : Keeps s₀ (stwDone p f s) := by
  unfold stwDone
  repeat' (first | with_reducible assumption | with_reducible apply putCore_keeps | dsimp only | fail_if_no_progress (with_reducible refine Keeps.upd ?_ (by exact id) (by exact id) (by exact rfl)))

theorem stwGive_keeps {s₀ s : State} (hK : Keeps s₀ s) (p : Nat) (rd : Nat) (v : Word) : Keeps s₀ (stwGive p rd v s) := by
  unfold stwGive
  repeat' (first | with_reducible assumption | with_reducible apply stwDone_keeps | dsimp only)

theorem stwGoto_keeps {s₀ s : State} (hK : Keeps s₀ s) (p : Nat) (t : Word) : Keeps s₀ (stwGoto p t s) := by
  unfold stwGoto
  repeat' (first | with_reducible assumption | with_reducible apply putCore_keeps | dsimp only | fail_if_no_progress (with_reducible refine Keeps.upd ?_ (by exact id) (by exact id) (by exact rfl)))

theorem uncached_keeps {s₀ s : State} {p va a : Nat} {w : Bool} {v : Word} {f : Word → State → State} (h : Keeps s₀ s)
    (hf : ∀ d x, Keeps s₀ x → Keeps s₀ (f d x)) : Keeps s₀ (uncached p va a w v f s) := by
  have k := ctlSync_keepsP h (.core p) a w v
  unfold uncached
  split <;> rename_i e <;> rw [e] at k
  · exact k
  · split
    · split
      · exact hf _ _ k
      · exact k
    · exact takeException_keeps k _ _ _ _ _
    · exact takeException_keeps k _ _ _ _ _

theorem withLine_keeps {s₀ s : State} {p va a : Nat} {f : List Byte → State → State} (h : Keeps s₀ s)
    (hf : ∀ d x, Keeps s₀ x → Keeps s₀ (f d x)) : Keeps s₀ (withLine p va a f s) := by
  have k := reachLine_keepsP h p (a / 64)
  unfold withLine
  split <;> rename_i e <;> rw [e] at k
  · exact hf _ _ k
  · exact putCore_keeps k _ _
  · exact takeException_keeps k _ _ _ _ _

theorem stwLoad_keeps {s₀ s : State} (hK : Keeps s₀ s) (p : Nat) (va : Nat) (n : Nat) (rd : Nat) (ext : Nat → Word) : Keeps s₀ (stwLoad p va n rd ext s) := by
  unfold stwLoad
  repeat' (first | with_reducible assumption | with_reducible apply takeException_keeps | with_reducible apply ctl_keeps | with_reducible refine uncached_keeps ?_ (fun _ _ _ => ?_) | with_reducible apply stwGive_keeps | with_reducible refine withLine_keeps ?_ (fun _ _ _ => ?_) | with_reducible apply Keeps.ite | dsimp only | split)

theorem stwStore_keeps {s₀ s : State} (hK : Keeps s₀ s) (p : Nat) (va : Nat) (n : Nat) (v : Word) : Keeps s₀ (stwStore p va n v s) := by
  unfold stwStore
  repeat' (first | with_reducible assumption | with_reducible apply Keeps.id | with_reducible apply takeException_keeps | with_reducible apply ctl_keeps | with_reducible refine uncached_keeps ?_ (fun _ _ _ => ?_) | with_reducible apply stwDone_keeps | with_reducible refine withLine_keeps ?_ (fun _ _ _ => ?_) | with_reducible apply storeLine_keeps | with_reducible apply Keeps.ite | dsimp only | split)

theorem stwAmo_keeps {s₀ s : State} (hK : Keeps s₀ s) (p : Nat) (va : Nat) (fn : Nat) (rd : Nat) (b : Word) : Keeps s₀ (stwAmo p va fn rd b s) := by
  unfold stwAmo
  repeat' (first | with_reducible assumption | with_reducible apply takeException_keeps | with_reducible refine withLine_keeps ?_ (fun _ _ _ => ?_) | with_reducible apply stwGive_keeps | with_reducible apply storeLine_keeps | with_reducible apply Keeps.ite | dsimp only | split)

theorem cmoLine_keeps {s₀ s : State} (hK : Keeps s₀ s) (p : Nat) (fn : Nat) (l : Nat) : Keeps s₀ (cmoLine p fn l s) := by
  unfold cmoLine
  repeat' (first | with_reducible assumption | with_reducible apply cleanLine_keeps | with_reducible apply dropLine_keeps | with_reducible apply putIc_keeps | dsimp only | split)

theorem stwCmo_keeps {s₀ s : State} (hK : Keeps s₀ s) (p : Nat) (va : Nat) (fn : Nat) : Keeps s₀ (stwCmo p va fn s) := by
  unfold stwCmo
  repeat' (first | with_reducible assumption | with_reducible apply Keeps.id | with_reducible apply takeException_keeps | with_reducible apply ctl_keeps | with_reducible apply stwDone_keeps | with_reducible apply cmoLine_keeps | with_reducible apply Keeps.ite | dsimp only | split)

theorem traceCond_keeps {s₀ s : State} (hK : Keeps s₀ s) (p : Nat) (i : StwIns) (taken : Bool) : Keeps s₀ (traceCond p i taken s) := by
  unfold traceCond
  repeat' (first | with_reducible assumption | with_reducible refine traced_keeps ?_ (fun _ _ _ => ?_) | with_reducible apply emitAtom_keeps | with_reducible apply Keeps.ite | dsimp only | split)

theorem traceInd_keeps {s₀ s : State} (hK : Keeps s₀ s) (p : Nat) (t : Word) : Keeps s₀ (traceInd p t s) := by
  unfold traceInd
  repeat' (first | with_reducible assumption | with_reducible refine traced_keeps ?_ (fun _ _ _ => ?_) | with_reducible apply emitInd_keeps | dsimp only)

theorem stwJr_keeps {s₀ s : State} (hK : Keeps s₀ s) (p : Nat) (i : StwIns) (t : Word) : Keeps s₀ (stwJr p i t s) := by
  unfold stwJr
  repeat' (first | with_reducible assumption | with_reducible apply takeException_keeps | with_reducible apply stwGoto_keeps | with_reducible apply putCore_keeps | with_reducible apply traceInd_keeps | with_reducible apply traceCond_keeps | with_reducible apply Keeps.ite | dsimp only | split)

theorem stwRfe_keeps {s₀ s : State} (hK : Keeps s₀ s) (p : Nat) : Keeps s₀ (stwRfe p s) := by
  unfold stwRfe
  repeat' (first | with_reducible assumption | with_reducible apply traceInd_keeps | with_reducible apply putCore_keeps | with_reducible apply Keeps.ite | dsimp only | split)

theorem stwGcall_keeps {s₀ s : State} (hK : Keeps s₀ s) (p : Nat) (n : Nat) : Keeps s₀ (stwGcall p n s) := by
  unfold stwGcall
  repeat' (first | with_reducible assumption | with_reducible refine traced_keeps ?_ (fun _ _ _ => ?_) | with_reducible apply emitGin_keeps | with_reducible apply putCore_keeps | with_reducible apply Keeps.ite | dsimp only | fail_if_no_progress (with_reducible refine Keeps.upd ?_ (by exact id) (by exact id) (by exact rfl)) | split)

theorem stwGret_keeps {s₀ s : State} (hK : Keeps s₀ s) (p : Nat) : Keeps s₀ (stwGret p s) := by
  unfold stwGret
  repeat' (first | with_reducible assumption | with_reducible apply emitGout_keeps | with_reducible apply traceInd_keeps | with_reducible apply putCore_keeps | with_reducible apply traceBoundary_keeps | with_reducible apply stopClock_keeps | with_reducible apply Keeps.ite | dsimp only | fail_if_no_progress (with_reducible refine Keeps.upd ?_ (by exact id) (by exact id) (by exact rfl)) | split)

theorem stwWft_keeps {s₀ s : State} (hK : Keeps s₀ s) (p : Nat) (kind : Nat) (rd : Nat) (v : Word) : Keeps s₀ (stwWft p kind rd v s) := by
  unfold stwWft
  repeat' (first | with_reducible assumption | with_reducible apply stwGive_keeps | with_reducible apply putCore_keeps | with_reducible apply Keeps.ite | dsimp only | fail_if_no_progress (with_reducible refine Keeps.upd ?_ (by exact id) (by exact id) (by exact rfl)) | split)

theorem stwPost_keeps {s₀ s : State} (hK : Keeps s₀ s) (p : Nat) (rd : Nat) (ra : Word) (item : Word) : Keeps s₀ (stwPost p rd ra item s) := by
  unfold stwPost
  repeat' (first | with_reducible assumption | with_reducible apply stwGive_keeps | with_reducible refine schedPost_keeps ?_ (by assumption) | with_reducible apply schedPost_keepsP | with_reducible apply wakeShelf_keeps | with_reducible apply Keeps.ite | dsimp only | split)

theorem stwFclaim_keeps {s₀ s : State} (hK : Keeps s₀ s) (p : Nat) (rd : Nat) (pd : Nat) (ra : Word) : Keeps s₀ (stwFclaim p rd pd ra s) := by
  unfold stwFclaim
  repeat' (first | with_reducible assumption | with_reducible apply takeException_keeps | with_reducible refine schedClaim_keeps ?_ (by assumption) | with_reducible apply schedClaim_keepsP | with_reducible apply stwDone_keeps | with_reducible apply Keeps.ite | dsimp only | split)

theorem stwFrel_keeps {s₀ s : State} (hK : Keeps s₀ s) (p : Nat) (ra : Word) : Keeps s₀ (stwFrel p ra s) := by
  unfold stwFrel
  repeat' (first | with_reducible assumption | with_reducible apply Keeps.id | with_reducible apply takeException_keeps | with_reducible refine schedRelease_keeps ?_ (by assumption) | with_reducible apply stwDone_keeps | with_reducible apply Keeps.ite | dsimp only | split)

theorem requestBytes_keepsP {s₀ s : State} (hK : Keeps s₀ s) (p : Nat) (a : Nat) (n : Nat) : Keeps s₀ (requestBytes p a n s).2.2 := by
  unfold requestBytes
  repeat' (first | with_reducible assumption | with_reducible refine readLine_keeps ?_ (by assumption) | with_reducible apply readLine_keepsP | with_reducible apply Keeps.ite | with_reducible apply Keeps.ite_fst | with_reducible apply Keeps.ite_snd | with_reducible refine Keeps.foldl (fun _ _ _ => ?_) _ ?_ | with_reducible refine Keeps.foldl_fst (fun _ _ _ => ?_) _ ?_ | with_reducible refine Keeps.foldl_snd (fun _ _ _ => ?_) _ ?_ | with_reducible refine Keeps.foldl_trd (fun _ _ _ => ?_) _ ?_ | dsimp only | split)

theorem requestBytes_keeps {s₀ s tK : State} {p : Nat} {a : Nat} {n : Nat} {xK yK} (hK : Keeps s₀ s) (eK : requestBytes p a n s = (xK, yK, tK)) : Keeps s₀ tK := by
  have h := requestBytes_keepsP hK p a n
  rw [eK] at h
  exact h

theorem stwAmb_keeps {s₀ s : State} (hK : Keeps s₀ s) (p : Nat) (rd : Nat) (va : Nat) (len : Nat) : Keeps s₀ (stwAmb p rd va len s) := by
  unfold stwAmb
  repeat' (first | with_reducible assumption | with_reducible apply takeException_keeps | with_reducible apply stwGive_keeps | with_reducible refine requestBytes_keeps ?_ (by assumption) | with_reducible apply requestBytes_keepsP | with_reducible refine submitMb_keeps ?_ (by assumption) | with_reducible apply submitMb_keepsP | with_reducible apply Keeps.ite | dsimp only | split)

theorem stwSkip_keeps {s₀ s : State} (hK : Keeps s₀ s) (p : Nat) (i : StwIns) : Keeps s₀ (stwSkip p i s) := by
  unfold stwSkip
  repeat' (first | with_reducible assumption | with_reducible apply Keeps.id | with_reducible apply stwDone_keeps | with_reducible apply traceCond_keeps | dsimp only | split)

theorem stwDo_keeps {s₀ s : State} (hK : Keeps s₀ s) (p : Nat) (i : StwIns) : Keeps s₀ (stwDo p i s) := by
  unfold stwDo
  repeat' (first | with_reducible assumption | with_reducible apply Keeps.id | with_reducible apply stwGive_keeps | with_reducible apply stwDone_keeps | with_reducible apply stwLoad_keeps | with_reducible apply stwStore_keeps | with_reducible apply stwAmo_keeps | with_reducible apply stwCmo_keeps | with_reducible apply stwGoto_keeps | with_reducible apply traceCond_keeps | with_reducible apply putCore_keeps | with_reducible apply stwJr_keeps | with_reducible apply takeException_keeps | with_reducible apply stwRfe_keeps | with_reducible apply irqClear_keeps | with_reducible apply stwGcall_keeps | with_reducible apply stwGret_keeps | with_reducible apply stwWft_keeps | with_reducible apply stwPost_keeps | with_reducible apply stwFclaim_keeps | with_reducible apply stwFrel_keeps | with_reducible apply stwAmb_keeps | with_reducible refine Keeps.whenDo ?_ (fun _ _ => ?_) | dsimp only | split)

theorem stwStep_keeps {s₀ s : State} (hK : Keeps s₀ s) (row : StwRow) (p : Nat) : Keeps s₀ (stwStep row p s) := by
  unfold stwStep
  repeat' (first | with_reducible assumption | with_reducible apply takeException_keeps | with_reducible apply traceBoundary_keeps | with_reducible apply putCore_keeps | with_reducible apply stwSkip_keeps | with_reducible apply stwDo_keeps | with_reducible apply Keeps.ite | dsimp only | fail_if_no_progress (with_reducible refine Keeps.upd ?_ (by exact id) (by exact id) (by exact rfl)) | split)

theorem lineFill_keeps {s₀ s : State} (hK : Keeps s₀ s) (p : Nat) (chk : Verdict) (alarm : Bool) : Keeps s₀ (lineFill p chk alarm s) := by
  unfold lineFill
  repeat' (first | with_reducible assumption | with_reducible apply putCore_keeps | with_reducible apply takeException_keeps | with_reducible apply traceBoundary_keeps | with_reducible refine readLine_keeps ?_ (by assumption) | with_reducible apply readLine_keepsP | with_reducible apply fillIc_keeps | with_reducible apply allocLine_keeps | with_reducible apply Keeps.ite | dsimp only | fail_if_no_progress (with_reducible refine Keeps.upd ?_ (by exact id) (by exact id) (by exact rfl)) | split)

theorem gcallTimeout_keeps {s₀ s : State} (hK : Keeps s₀ s) (p : Nat) : Keeps s₀ (gcallTimeout p s) := by
  unfold gcallTimeout
  repeat' (first | with_reducible assumption | with_reducible apply gcallAbort_keeps | with_reducible apply Keeps.ite | dsimp only | split)

theorem wftRelease_keeps {s₀ s : State} (hK : Keeps s₀ s) (p : Nat) : Keeps s₀ (wftRelease p s) := by
  unfold wftRelease
  repeat' (first | with_reducible assumption | with_reducible apply wakeShelf_keeps | with_reducible apply startClock_keeps | with_reducible apply stwGive_keeps | with_reducible apply putCore_keeps | with_reducible apply Keeps.ite | dsimp only | fail_if_no_progress (with_reducible refine Keeps.upd ?_ (by exact id) (by exact id) (by exact rfl)) | split)

theorem interrupt_keeps {s₀ s : State} (hK : Keeps s₀ s) (p : Nat) : Keeps s₀ (interrupt p s) := by
  unfold interrupt
  repeat' (first | with_reducible assumption | with_reducible apply takeException_keeps | with_reducible apply traceBoundary_keeps | with_reducible apply startClock_keeps | with_reducible apply Keeps.ite | dsimp only | split)

theorem lowPower_keeps {s₀ s : State} (hK : Keeps s₀ s) (p : Nat) : Keeps s₀ (lowPower p s) := by
  unfold lowPower
  repeat' (first | with_reducible assumption | with_reducible apply stopClock_keeps | with_reducible apply Keeps.ite | dsimp only | split)

end Sys2Proof.Machine
end

