-- ==== Sys2Proof/Laws/KeepsSoftError.lean ====
section
/-! SUPPORT. What every operation of Machine/SoftError.lean keeps. -/

set_option linter.all false

namespace Sys2Proof.Machine

theorem upsetTable_keeps {s₀ s : State} (hK : Keeps s₀ s) (a : Nat) (bits : List Nat) : Keeps s₀ (upsetTable a bits s) := by
  unfold upsetTable
  repeat' (first | with_reducible assumption | with_reducible apply etxFault_keeps | with_reducible apply Keeps.wrReg | with_reducible apply Keeps.ite | dsimp only | fail_if_no_progress (with_reducible refine Keeps.upd ?_ (by exact id) (by exact id) (by exact rfl)) | split)

theorem upsetCache_keeps {s₀ s : State} (hK : Keeps s₀ s) (l : Nat) (n : Nat) : Keeps s₀ (upsetCache l n s) := by
  unfold upsetCache
  repeat' (first | with_reducible assumption | with_reducible apply putCache_keeps | dsimp only | fail_if_no_progress (with_reducible refine Keeps.upd ?_ (by exact id) (by exact id) (by exact rfl)) | split)

theorem upsetPool_keeps {s₀ s : State} (hK : Keeps s₀ s) (p : Nat) (f : Nat) (i : Nat) (n : Nat) : Keeps s₀ (upsetPool p f i n s) := by
  unfold upsetPool
  repeat' (first | with_reducible assumption | with_reducible apply putSched_keeps | with_reducible apply Keeps.ite | dsimp only | fail_if_no_progress (with_reducible refine Keeps.upd ?_ (by exact id) (by exact id) (by exact rfl)) | split)

theorem upsetLine_keeps {s₀ s : State} (hK : Keeps s₀ s) (l : Nat) (bits : List Nat) : Keeps s₀ (upsetLine l bits s) := by
  unfold upsetLine
  repeat' (first | with_reducible assumption | with_reducible apply upset_keeps | with_reducible refine Keeps.foldl (fun _ _ _ => ?_) _ ?_ | with_reducible refine Keeps.foldl_fst (fun _ _ _ => ?_) _ ?_ | with_reducible refine Keeps.foldl_snd (fun _ _ _ => ?_) _ ?_ | with_reducible refine Keeps.foldl_trd (fun _ _ _ => ?_) _ ?_ | with_reducible apply Keeps.memPut | dsimp only | fail_if_no_progress (with_reducible refine Keeps.upd ?_ (by exact id) (by (first | exact id | exact Memory.wf_keep _ | exact fun _ => Memory.wf_nil)) (by exact rfl)))

theorem upset_keeps {s₀ s : State} (hK : Keeps s₀ s) (u : Upset) : Keeps s₀ (upset u s) := by
  unfold upset
  repeat' (first | with_reducible assumption | with_reducible apply upsetTable_keeps | with_reducible apply upsetCache_keeps | with_reducible apply putIc_keeps | with_reducible apply upsetPool_keeps | with_reducible apply upsetLine_keeps | with_reducible apply Keeps.ite | dsimp only | fail_if_no_progress (with_reducible refine Keeps.upd ?_ (by exact id) (by exact id) (by exact rfl)) | split)

end Sys2Proof.Machine
end

