-- ==== Sys2Proof/Laws/KeepsIdle.lean ====
section
/-! SUPPORT. What every operation of Machine/Idle.lean keeps. -/

set_option linter.all false

namespace Sys2Proof.Machine

theorem idle_keeps {s₀ s : State} (hK : Keeps s₀ s)  : Keeps s₀ (idle s) := by
  unfold idle
  repeat' (first | with_reducible assumption | with_reducible apply Keeps.ite | dsimp only | fail_if_no_progress (with_reducible refine Keeps.upd ?_ (by exact id) (by exact id) (by exact rfl)) | split)

end Sys2Proof.Machine
end

