-- ==== Sys2Proof/Tests/Slice0.lean ====
section
/-! SUPPORT. Tests: ill-formed commands that the check refuses, worked examples of the manual, and for every statement of
Obligations.lean that has hypotheses a state that meets them, at the edges of the ranges where they have one. -/

namespace Sys2Proof.Tests

open Sys2Proof Sys2Proof.Machine

set_option Elab.async false

/-- A small state in a device state, with the shell in effect. -/
def dev (d : DevState) : State := { State.reset with chip := { Chip.reset with devState := d, shellUp := true } }
def nx (o : Out) (s : State) : State := match o with | .next t => t | _ => s
def isNext (o : Out) : Bool := match o with | .next _ => true | _ => false

/-- The conditions of `Reaches`, as a Bool. -/
def reachB (s : State) (who : Requester) (a : Nat) : Bool :=
  canIssue s who && decide (s.chip.devState ≠ .off) && decide (a % 4 = 0) &&
    (s.chip.shellUp || beforeShell (targetOf a)) &&
    (match shelfOf (landing s a) with
     | some h => shelfOn s h
     | none => true) &&
    (match targetOf a with
     | .reg _ | .shelf _ _ => true
     | .cluster p _ => physOpen s p
     | .logical m _ => !fromRemote who && !mapGet false s.chip.bistOpen (physOf s m)
     | _ => false)

theorem reaches_of {s : State} {who : Requester} {a : Nat} (h : reachB s who a = true) : Reaches s who a := by
  unfold reachB at h
  simp only [Bool.and_eq_true, decide_eq_true_eq] at h
  obtain ⟨⟨⟨⟨⟨h1, h2⟩, h3⟩, h4⟩, h5⟩, h6⟩ := h
  refine ⟨h1, h2, h3, by simpa using h4, ?_, ?_⟩
  · intro x hx; rw [hx] at h5; exact h5
  · revert h6; cases targetOf a <;> simp

theorem foldl_lt {α : Type} (f : Nat → α → Nat) (n : Nat) (hf : ∀ c a, c < n → f c a < n) :
    ∀ (l : List α) (c : Nat), c < n → l.foldl f c < n
  | [], _, h => h
  | a :: l, c, h => foldl_lt f n hf l (f c a) (hf c a h)
theorem crc32_lt (l : List Byte) : crc32 l < 2 ^ 32 := by
  unfold crc32
  refine Nat.xor_lt_two_pow (foldl_lt _ _ (fun c b h => foldl_lt _ _ (fun x _ h => ?_) _ _ ?_) _ _ (by decide)) (by decide)
  · dsimp only; split
    · exact Nat.xor_lt_two_pow (by omega) (by decide)
    · omega
  · exact Nat.xor_lt_two_pow h (by have := b.isLt; omega)
theorem leNat_leBytes4 (n : Nat) (h : n < 2 ^ 32) : leNat (leBytes 4 n) = n := by
  simp [leNat, leBytes, List.range, List.range.loop, List.foldr]
  omega
theorem frameGood_of (d : List Byte) (hl : d.length = 4096) : frameGood (d ++ leBytes 4 (crc32 d)) = true := by
  have h4 : (leBytes 4 (crc32 d)).length = 4 := by simp [leBytes]
  simp only [frameGood, Bool.and_eq_true, decide_eq_true_eq, List.length_append, hl, h4, true_and, List.take_left' hl]
  unfold leAt
  rw [List.drop_left' hl, List.take_of_length_le (by omega), leNat_leBytes4 _ (crc32_lt d)]
theorem frameGood_frameOf (b : List Byte) (i : Nat) : frameGood (frameOf b i) = true := by
  unfold frameOf
  exact frameGood_of _ (by simp)

/-! ### The block, and control accesses -/

theorem witness_StepRunsFront : ({ dev .ready with pending := [.tapReset, .idcode] } : State).pending = .tapReset :: [.idcode] := rfl

/-- A device whose TB0 runs, with RATE 0. -/
def clocked : State := setBit (dev .ready) timStat 0
theorem witness_Idle : State.reset.pending = [] ∧ tb0Runs State.reset = false ∧ tb0Runs clocked = true ∧
    sreg clocked (timA 0x5C) = 0 ∧ clocked.tim.tb0 < 2 ^ 48 := by decide +kernel

theorem witness_MisalignedAccess : canIssue (dev .ready) .i2c = true ∧ (dev .ready).chip.devState ≠ .off ∧
    hstA 0 + 1 < 2 ^ 40 ∧ (hstA 0 + 1) % 4 ≠ 0 ∧ ¬ (2 = 4) := by decide +kernel
theorem witness_HostDoorbell : reachB (dev .ready) .i2c (hstA 0x800) = true ∧ reachB (dev .ready) .i2c (hstA (0x800 + 4 * 255)) = true ∧
    hostReach { dev .ready with hst := { (dev .ready).hst with porst := false, perst := false, cfgReady := true } } = true := by
  decide +kernel
theorem witness_HostDoorbell_reaches : Reaches (dev .ready) .i2c (hstA (0x800 + 4 * 255)) := reaches_of (by decide +kernel)

/-- Registers that only store, at the edges of their ranges. -/
theorem witness_RegisterWrite : ∀ a ∈ [sprA 4, sprA 0xC, sprA 0x60, dmaA 0, dmaA 4, hstA 0, hstA 4, hstA 0x2C, hstA 0x40, pwrA 0, pwrA 0x15C],
    reachB (dev .ready) .i2c a = true ∧ StoresOnly a ∧ (regRow a).any (fun r => r.rule = .plain) = true := by
  unfold StoresOnly; decide +kernel
theorem witness_RegisterWrite_reaches : Reaches (dev .ready) .i2c (sprA 0xC) := reaches_of (by decide +kernel)

/-- The three reasons of a refusal, and a write of the ATT block: no address lies in a remote window. -/
theorem witness_IllegalAccess : canIssue (dev .ready) .i2c = true ∧ (dev .ready).chip.devState ≠ .off ∧
    targetOf (sprA 0xC) = .reg (sprA 0xC) ∧ targetOf (sprA 0xE) = .reg (sprA 0xE) ∧ (sprA 0xE) % 4 ≠ 0 ∧ targetOf 0xB0000 = .unassigned ∧
    targetOf 0x3FFFFFFFFC = .unassigned ∧ targetOf 0xFFFC = .reg 0xFFFC := by decide +kernel

theorem witness_WideReads : reachB (dev .ready) .i2c (sprA 0x30) = true ∧ reachB (dev .ready) .i2c (sprA 0x34) = true ∧
    reachB (dev .ready) .i2c (sprA 0x3C) = true ∧ isTimNow (timA 0x14) = true ∧ timA 0x14 ≠ timA 0x10 ∧
    reachB (dev .ready) .i2c (timA 0x14) = true ∧ reachB (dev .ready) .i2c (timA 0x10) = true := by decide +kernel

/-- The last entries of the last cluster that is active at reset. -/
theorem witness_ModelState : ∀ d ∈ [DevState.ready, .held, .running, .loading, .blank, .boot, .safe],
    reachB (dev d) .i2c (physA 270 (0x200000 + 127 * 0x800 + 4 * 255)) = true ∧
    reachB (dev d) .i2c (physA 270 (0x260000 + 7 * 0x4000 + 0x2000 + 64 * 7 + 4 * 15)) = true ∧
    reachB (dev d) .i2c (physA 270 (127 * 0x4000 + 16 * 1023 + 8)) = true ∧ pondBadPar (pondRaw (dev d) 270 127 255) = false ∧
    detached (dev d) (270 / 17) = false ∧ mapGet [] (dev d).cl.bpFlips (kEntry 270 127 1023) = [] := by decide +kernel

/-- Shelf 15 is ON, OFF, and OFF under THERMHOLD. -/
def shelfOff : State := putGate 15 { Gate.reset with phase := .off } (dev .ready)
theorem witness_Gate : canIssue (dev .ready) .i2c = true ∧ canIssue shelfOff .i2c = true ∧ shelfOn (dev .ready) 15 = true ∧
    (gateOf shelfOff 15).phase = .off ∧ thermHold shelfOff 15 = false ∧ shelfOff.chip.shellUp = true ∧ shelfOff.chip.devState = .ready ∧
    (gateOf (setBit shelfOff (pwrStat 15) 2) 15).phase ≠ .on ∧ thermHold (setBit shelfOff (pwrStat 15) 2) 15 = true ∧
    canIssue (setBit shelfOff (pwrStat 15) 2) .i2c = true := by decide +kernel

/-- A device with address 5, whose head is reached on link 2. -/
def addressed : State :=
  let s := wrReg (wrReg (dev .ready) (hstA 0x104) 0x1005) (hstA 0x108) 0x00010000
  { s with crt := { s.crt with uplink := some 2 } }
theorem witness_Remote : canIssue addressed .i2c = true ∧ addressed.chip.devState ≠ .off ∧ fromRemote .i2c = false ∧
    assigned addressed = true ∧ addressed.chip.shellUp = true ∧ remoteBase addressed .i2c + 5 = devAddr addressed ∧ devAddr addressed < 4096 ∧
    remoteBase addressed .i2c + 191 < 4096 ∧ remoteBase addressed .i2c + 191 ≠ devAddr addressed ∧
    routeTo addressed (remoteBase addressed .i2c + 191) = .link 2 := by decide +kernel
/-- A base at which the windows reach past device 4,095. -/
def farBase : State := wrReg (dev .ready) (hstA 0x40) 4000
theorem witness_Remote_past : canIssue farBase .i2c = true ∧ farBase.chip.devState ≠ .off ∧
    4095 < remoteBase farBase .i2c + 96 ∧ remoteBase farBase .i2c + 95 = 4095 := by decide +kernel
/-- A link in service, and an access that waits for its answer. -/
def waiting : State :=
  let s := { addressed with chip := { addressed.chip with remote := [{ who := .i2c, tag := 9, dev := 7, addr := 0, write := false, data := 0, issued := 0 }] } }
  wrFld s (linkA 2 0xC) 0 4 8
theorem witness_Requests : serviceOpen waiting 2 = true ∧ waiting.chip.devState ≠ .off ∧ assigned waiting = true ∧
    waiting.chip.remote = [{ who := .i2c, tag := 9, dev := 7, addr := 0, write := false, data := 0, issued := 0 }] ∧ routeTo waiting 7 = .link 2 := by decide +kernel
theorem witness_Response : ({ dev .ready with chip := { (dev .ready).chip with resps := [⟨.i2c, .ok, 0⟩] } } : State).chip.resps = [] ++ [⟨.i2c, .ok, 0⟩] ∧
    waitsForIt .i2c = false ∧ nodeOf (dev .ready) .i2c < 556 := by decide +kernel

/-! ### Boolean processors and word engines -/

/-- A tick of class 0 runs, 64 steps long. -/
def ticking : State :=
  let d := dev .running
  { d with spr := { d.spr with pos := .schedule, cls := 0, cen := 0xFF }, regs := [(sprA 0x10, 0x00400190)] }
/-- A BP instruction word by its fields (R45). -/
def bpWord (lut a b c d dst we mode exp : Nat) : BitVec 72 :=
  BitVec.ofNat 72 (lut * 2 ^ 56 + a * 2 ^ 46 + b * 2 ^ 36 + c * 2 ^ 26 + d * 2 ^ 16 + dst * 2 ^ 7 + we * 2 ^ 6 + mode * 2 ^ 4 + exp)
/-- BP 127 of logical cluster 255, which physical cluster 270 serves, has a word for step 63. -/
def withBp (w : BitVec 72) : State :=
  { ticking with cl := { ticking.cl with bpMem := mapSet 0 ticking.cl.bpMem (kEntry 270 127 (bpEntryAddr ticking 270 127 63)) w } }
def wPlain : BitVec 72 := bpWord 0xCAFE 770 771 772 776 9 1 0 0
def wState : BitVec 72 := bpWord 0xCAFE 770 771 772 776 300 1 1 0
def wInject : BitVec 72 := bpWord 0xCAFE 770 771 772 776 9 1 2 0

theorem witness_Lut : inSchedule ticking 255 63 = true ∧ (127 < 128) ∧
    mapGet 0#72 ticking.cl.bpMem (kEntry (physOf ticking 255) 127 (bpEntryAddr ticking (physOf ticking 255) 127 63)) = 0#72 ∧
    mapGet [] ticking.cl.bpFlips (kEntry (physOf ticking 255) 127 (bpEntryAddr ticking (physOf ticking 255) 127 63)) = [] := by decide +kernel
theorem witness_Lut_runs : ∀ q ∈ [(wPlain, BpKind.plain), (wState, .stateWrite), (wInject, .inject)],
    BpRuns (withBp q.1) 255 127 63 q.1 ∧ bpKind q.1 = q.2 := by dsimp only [BpRuns]; decide +kernel
/-- The inject registers arm step 63. -/
def injecting : State := wrReg (wrReg (wrReg (withBp wInject) (bpcA 270 127 0) 0x1FF) (bpcA 270 127 4) 0xFF) (bpcA 270 127 8) 0x8001003F
theorem witness_Inject : BpRuns injecting 255 127 63 wInject ∧ injectHits injecting 270 127 63 = true ∧
    injectHits (withBp wInject) 270 127 63 = false := by dsimp only [BpRuns]; decide +kernel
theorem witness_Special : ∀ q ∈ [(bpWord 5 770 771 772 0 9 1 3 0, BpKind.sel), (bpWord 0x2403 776 0 0 0 9 1 3 0, .rowcopy),
    (bpWord 0x1000 771 0 0 0 9 0 3 0, .swaphint), (bpWord 0x3011 771 0 0 0 9 0 3 0, .probe)],
    BpRuns (withBp q.1) 255 127 63 q.1 ∧ bpKind q.1 = q.2 := by dsimp only [BpRuns]; decide +kernel
/-- Two inverted bits in an entry; an illegal combination. -/
def flipped : State :=
  { withBp wPlain with cl := { (withBp wPlain).cl with bpFlips := [(kEntry 270 127 (bpEntryAddr ticking 270 127 63), [0, 79])] } }
theorem witness_Faulty : inSchedule flipped 255 63 = true ∧ physOf flipped 255 = 270 ∧
    mapGet 0#72 flipped.cl.bpMem (kEntry 270 127 (bpEntryAddr flipped 270 127 63)) = wPlain ∧ bpKind wPlain = .plain ∧
    mapGet [] flipped.cl.bpFlips (kEntry 270 127 (bpEntryAddr flipped 270 127 63)) = [0, 79] ∧
    bpKind (bpWord 0 0 0 0 0 300 1 0 0) = .plain ∧ bpIllegal (bpWord 0 0 0 0 0 300 1 0 0) = true := by decide +kernel
theorem witness_InjectAndCounterWrites : ∀ d ∈ [DevState.ready, .held, .running],
    physOf (dev d) 255 < 272 ∧ (dev d).spr.pos ≠ .extension ∧
    reachB (dev d) .i2c (logA 255 (0x290000 + 127 * 0x200 + 4 * 2)) = true ∧ reachB (dev d) .i2c (logA 255 (0x290000 + 127 * 0x200 + 0x18)) = true ∧
    reachB (dev d) .i2c (logA 255 (0x260000 + 7 * 0x4000 + 0x220C)) = true ∧
    reachB (dev d) .i2c (logA 255 (0x260000 + 3 * 0x4000 + 0x2808)) = true := by decide +kernel

/-- A word-engine instruction by its fields (R92). -/
def weWord (op rd wr cin cout sa sb imm : Nat) : BitVec 64 :=
  BitVec.ofNat 64 (op * 2 ^ 58 + rd * 2 ^ 54 + wr * 2 ^ 53 + cin * 2 ^ 51 + cout * 2 ^ 50 + sa * 2 ^ 42 + sb * 2 ^ 34 + imm)
/-- Engine 7 of logical cluster 255 has a word for step 63, and its store rooms are 32 bits wide. -/
def withWe (w : BitVec 64) : State :=
  let s := wrReg ticking (wenA 270 0 0x2800) 32
  { s with cl := { s.cl with weMem := mapSet 0 s.cl.weMem (kWeEntry 270 7 (weEntryAddr s 270 7 63)) w } }
theorem witness_WordEngine : ∀ q ∈ [(WeOp.oNop, weWord 0 3 0 0 0 0 0 0), (.oMov, weWord 3 3 1 0 0 1 0 0), (.oAnd, weWord 4 3 1 0 0 1 2 0),
      (.oRol, weWord 0xB 3 1 0 0 1 2 0), (.oClz, weWord 0xD 3 1 0 0 1 0 0), (.oSel, weWord 0xE 3 1 0 0 1 2 0)],
    WeRuns (withWe q.2) 255 7 63 q.1 q.2 := by dsimp only [WeRuns]; decide +kernel
/-- Carry in 0, 1 and the flag; a compare takes 1 or the chain. -/
theorem witness_AddSub : ∀ q ∈ [(WeOp.oAdd, weWord 1 3 1 0 0 1 2 0, 0), (.oSub, weWord 2 3 1 1 0 1 2 0, 1), (.oSub, weWord 2 3 1 3 1 1 2 0, 3),
      (.oCeq, weWord 0x10 3 1 1 0 1 2 0, 1), (.oCges, weWord 0x15 3 1 1 0 1 2 0, 1)],
    WeRuns (withWe q.2.1) 255 7 63 q.1 q.2.1 ∧ weCin q.2.1 = q.2.2 := by dsimp only [WeRuns]; decide +kernel
/-- The predecessor of a chain drives a carry. -/
def chained (w : BitVec 64) : State :=
  { withWe w with cl := { (withWe w).cl with chain := [(kWeT 255 6 63, some { kind := .add, carry := 0x0F, eq := 0xF0 })] } }
theorem witness_Chain : ∃ op ∈ List.range 32, WeRuns (chained (weWord op 3 1 2 1 1 2 0)) 255 7 63 .oAdd (weWord op 3 1 2 1 1 2 0) ∧
    weCin (weWord op 3 1 2 1 1 2 0) = 2 ∧
    chainIn (chained (weWord op 3 1 2 1 1 2 0)) 255 7 63 = some { kind := .add, carry := 0x0F, eq := 0xF0 } ∧ chainKind .oAdd = .add := by
  dsimp only [WeRuns]; decide +kernel
theorem witness_Mac : ∀ q ∈ [WeOp.oMul, .oMac, .oMacc], ∃ op ∈ List.range 64,
    WeRuns (withWe (weWord op 0 0 0 0 1 2 3)) 255 7 63 q (weWord op 0 0 0 0 1 2 3) ∧
    issueLost (withWe (weWord op 0 0 0 0 1 2 3)) 255 7 63 = false := by dsimp only [WeRuns]; decide +kernel
def macPending : State :=
  { ticking with cl := { ticking.cl with macOps := [{ cluster := 255, slice := 1, issued := 63, engine := 7, vals := [1], done := false }] } }
theorem witness_MacUpdate : macPending.cl.macOps.find? (fun x => x.cluster = 255 ∧ x.slice = 1 ∧ x.issued = 63) =
    some { cluster := 255, slice := 1, issued := 63, engine := 7, vals := [1], done := false } := by decide +kernel
def srdWord : BitVec 64 := weWord 0x1C 0 0 0 0 1 0 0
def swrWord : BitVec 64 := weWord 0x1D 4 0 0 0 1 2 0
theorem witness_StoreRoom_srd : WeRuns (withWe srdWord) 255 7 63 .oSrd srdWord ∧ issueLost (withWe srdWord) 255 7 63 = false ∧
    roomWidth (withWe srdWord) 270 0 ≠ 0 ∧ roomPaged (withWe srdWord) 270 0 = false ∧ roomShared (withWe srdWord) 270 0 = false ∧
    (∀ c, c < 8 → (weA (withWe srdWord) 255 7 63 srdWord c).toNat < roomEntries (withWe srdWord) 270 0) := by
  dsimp only [WeRuns]; decide +kernel
theorem witness_StoreRoom_rows (k : Nat) :
    rowAt (withWe srdWord) k 63 = ((rowAt (withWe srdWord) k 63).1, false, false) := rfl
theorem witness_StoreRoom_swr : WeRuns (withWe swrWord) 255 7 63 .oSwr swrWord ∧ issueLost (withWe swrWord) 255 7 63 = false ∧
    roomWidth (withWe swrWord) 270 0 ≤ 64 ∧ roomWidth (withWe swrWord) 270 0 ≠ 0 ∧ roomPaged (withWe swrWord) 270 0 = false ∧
    roomShared (withWe swrWord) 270 0 = false ∧ undoFits (withWe swrWord) 255 63 8 = true ∧ (withWe swrWord).cl.port1Wr = [] ∧
    (∀ c, c < 8 → (weA (withWe swrWord) 255 7 63 swrWord c).toNat < roomEntries (withWe swrWord) 270 0) := by
  dsimp only [WeRuns]; decide +kernel
theorem witness_StoreRoom_flips (k : Nat) : mapGet [] (withWe swrWord).cl.rowFlips k = [] ∧ mapGet false (withWe swrWord).cl.rowBad k = false :=
  ⟨rfl, rfl⟩
def reading : State :=
  { ticking with cl := { ticking.cl with
    srdOps := [{ cluster := 255, room := 3, port := 1, issued := 61, engine := 7, vals := [1], done := false }]
    frames := [(kRoom 270 3, [{ idx := 31, ctx := 7, page := 9, filling := true, dirty := false, wEpoch := none, pinFill := none, lru := 0 }])] } }
theorem witness_StoreRoom_ready : reading.cl.srdOps.find? (fun x => x.cluster = 255 ∧ x.room = 3 ∧ x.port = 1 ∧ x.issued = 61) =
    some { cluster := 255, room := 3, port := 1, issued := 61, engine := 7, vals := [1], done := false } ∧
    ((framesOf reading (physOf reading 255) 3).find? (fun g => g.page = 9 ∧ g.filling = true)).any (fun f => f.idx < 32) = true := by
  decide +kernel

/-! ### Ticks, epochs and commit -/

/-- A device in the tree: link 2 leads to its head, link 3 to its child; both run. -/
def leaf (d : DevState) : State :=
  let s := dev d
  setBit (wrFld (wrFld { s with crt := { s.crt with uplink := some 2, children := [3] } } (linkA 2 0xC) 0 4 8) (linkA 3 0xC) 0 4 8) (hstA 0x118) 0
/-- The root of a domain of one device. -/
def root (d : DevState) : State := { dev d with crt := { (dev d).crt with isRoot := true } }
def spr (f : Spring → Spring) (s : State) : State := { s with spr := f s.spr }
def fromTop : SpringHdr := { link := 2, seq := 0, gen := 0 }
def fromKid : SpringHdr := { link := 3, seq := 0, gen := 0 }

theorem flitGood_top (d : DevState) (h : d = .running ∨ d = .ready ∨ d = .held) : FlitGood (leaf d) (leaf d).crt.uplink.toList fromTop := by
  unfold FlitGood; rcases h with rfl | rfl | rfl <;> decide +kernel
theorem headSays_leaf (d : DevState) (h : d = .running ∨ d = .ready ∨ d = .held) (m : SpringMsg) :
    HeadSays (leaf d) (some fromTop) m (sendDown m (afterFlit (leaf d) fromTop)) := .inl ⟨fromTop, rfl, flitGood_top d h, rfl⟩
theorem childSays_leaf : ChildSays (leaf .running) fromKid (afterFlit (leaf .running) fromKid) := by
  refine ⟨?_, rfl⟩; unfold FlitGood; decide +kernel

/-- Ticks run; the script's entry has ticks left, or none. -/
def run1 : State := spr (fun x => { x with phase := .firstRun }) (root .running)
theorem witness_TickStarts : tickAllowed run1 = true ∧ curEpoch run1 = 0 := by decide +kernel
def mid (left : Nat) : State := spr (fun x => { x with phase := .firstRun, pos := .schedule, left := left, tick := 255 }) (root .running)
theorem witness_TickEnds : ∀ l ∈ [0, 1, 2 ^ 16], (mid l).chip.devState = .running ∧ (mid l).spr.pos = .schedule ∧ (mid l).cl.written = [] ∧
    (mid l).spr.left = l := by decide +kernel
theorem witness_TickEnds_written : mapWf false (mid 0).cl.written := by unfold mapWf; decide +kernel
theorem witness_Script : ∀ k ∈ [0, 1, 2, 3], ∀ i ∈ [0, 127],
    bit (rdReg (wrReg (dev .ready) (sprA (0x404 + 8 * i)) (BitVec.ofNat 32 (k + 0x7F00 &&& 0x7FFF))) (sprA (0x404 + 8 * i))) 15 = false ∧
    fld (rdReg (wrReg (dev .ready) (sprA (0x404 + 8 * i)) (BitVec.ofNat 32 (k + 0x7F00 &&& 0x7FFF))) (sprA (0x404 + 8 * i))) 0 3 = k := by
  decide +kernel

/-- The boundary of epoch 0, with a staged inject value and checkpoint work; later, an epoch whose undo log is late. -/
def boundary : State :=
  let s := spr (fun x => { x with phase := .firstRun, pos := .extension, tick := 256 }) (root .running)
  { s with cl := { s.cl with injStaged := [(bpcA 0 0 0, 0x1FF)] } }
theorem witness_Checkpoint : boundary.chip.devState = .running ∧ boundary.spr.pos = .extension ∧ boundary.spr.replayEnd ≤ curEpoch boundary ∧
    boundary.ldr.kind = 0 ∧ boundary.spr.holdAt = none ∧ boundary.att.passed = [] ∧ recOfEpoch boundary (curEpoch boundary) = none ∧
    boundary.cl.injStaged.Pairwise (fun a b => a.1 < b.1) ∧ (∀ q ∈ boundary.cl.injStaged, isInjectReg q.1 = true) ∧
    (∀ q ∈ boundary.cmp.staged, isCmpSetting q.1 = true) := by decide +kernel
/-- A compare record of an epoch. -/
def rec (e : Nat) (tick : BitVec 48) : CmpRec :=
  { kind := .port, source := 0, replay := false, first := true, post := false, tb0t := false, tick := tick, time := 0, cmpd := 1, payload := 0,
    aux := 0, epoch := e, idx := 0 }
def late : State :=
  let w : CkptWork := { epoch := 0, snapshot := true, undo := true, inlet := true }
  let s := spr (fun x => { x with phase := .firstRun, tick := 600, ckpt := [w] }) (root .running)
  { s with cmp := { s.cmp with queue := [rec 2 512] } }
theorem witness_Vote : late.cmp.queue = [rec 2 512] ∧ ∃ k ∈ [0], late.chip.devState = .running ∧ late.spr.phase ≠ .rollback ∧ epochEnded late (k + 1) = true ∧
    (∃ w ∈ late.spr.ckpt, w.epoch = k ∧ w.undo = true) := by decide +kernel
def voting : State := spr (fun x => { x with phase := .firstRun, tick := 512 }) (root .running)
theorem witness_SendPass : voting.spr.commit.toNat ≤ 0 ∧ passReady voting 0 = true ∧ (0, true) ∉ voting.spr.sent ∧ (0, false) ∉ voting.spr.sent ∧
    voting.crt.isRoot = true ∧ voting.crt.uplink = none ∧ 0 = voting.spr.commit.toNat ∧ rollbackPending voting = false ∧ voting.spr.orders = [] ∧
    voting.spr.armed = false ∧ voting.spr.phase ≠ .stopping ∧ voting.spr.pos = .idle ∧ voting.spr.commit.toNat + 2 ≤ curEpoch voting := by
  decide +kernel
def votingLeaf : State := spr (fun x => { x with phase := .firstRun, tick := 512, votes := [⟨3, 0, true, false, 0, 0⟩] }) (leaf .running)
theorem witness_SendPass_leaf : passReady votingLeaf 0 = true ∧ votingLeaf.crt.isRoot = false ∧ votingLeaf.crt.uplink = some 2 ∧
    votingLeaf.spr.commit.toNat + 2 ≤ curEpoch votingLeaf ∧ (0, false) ∉ votingLeaf.spr.sent ∧ (leaf .running).spr.phase ≠ .rollback ∧
    fromKid.gen = (leaf .running).spr.gen := by decide +kernel
theorem witness_Commit : HeadSays (leaf .running) (some fromTop) (.commit 0 true) (sendDown (.commit 0 true) (afterFlit (leaf .running) fromTop)) ∧
    (∀ q, some fromTop = some q → q.gen = (leaf .running).spr.gen) ∧ (leaf .running).spr.phase ≠ .rollback ∧
    0 = (leaf .running).spr.commit.toNat ∧ (leaf .running).ldr.kind = 0 ∧ (leaf .running).ldr.pendingRes = [] ∧
    (leaf .running).spr.holdAt = none ∧ shelfRewritten (leaf .running) 1 = false ∧ (leaf .running).att.decisions = [] :=
  ⟨headSays_leaf _ (.inl rfl) _, by rintro q ⟨⟩; rfl, by decide +kernel⟩
theorem witness_RunControl : HeadSays (leaf .ready) (some fromTop) (.start 0 0#48) (sendDown (.start 0 0#48) (afterFlit (leaf .ready) fromTop)) ∧
    HeadSays (leaf .running) (some fromTop) (.decide 1 1) (sendDown (.decide 1 1) (afterFlit (leaf .running) fromTop)) ∧
    tickBegun (leaf .running) 0 = false ∧
    HeadSays (leaf .held) (some fromTop) (.cen 0xFF 1) (sendDown (.cen 0xFF 1) (afterFlit (leaf .held) fromTop)) ∧
    HeadSays (leaf .running) (some fromTop) (.hold 0 0) (sendDown (.hold 0 0) (afterFlit (leaf .running) fromTop)) ∧
    curEpoch (leaf .running) ≤ 0 :=
  ⟨headSays_leaf _ (by simp) _, headSays_leaf _ (by simp) _, by decide +kernel, headSays_leaf _ (by simp) _, headSays_leaf _ (by simp) _,
    by decide +kernel⟩
def armed : State := setBit (spr (fun x => { x with armed := true, segStart := 1000 }) (root .running)) (timA 4) 1
theorem witness_RunSegment : armed.chip.devState = .running ∧ armed.spr.armed = true ∧ rdBit armed (timA 4) 1 = true ∧ armed.spr.rb = none ∧
    armed.spr.replayEnd ≤ curEpoch armed := by decide +kernel
def ordered : State := spr (fun x => { x with orders := [.rollback 0 50 15 4095 true] }) (root .running)
theorem witness_Rollback : ordered.crt.isRoot = true ∧ (.rollback ordered.spr.commit.toNat 50 15 4095 true) ∈ ordered.spr.orders ∧
    ordered.att.decisions = [] ∧ ordered.spr.commit.toNat * epochLen ordered < 2 ^ 48 ∧
    shelfRewritten ordered ordered.spr.commit.toNat = false ∧ ordered.spr.epochRecs = [] := by decide +kernel
def restoring (hold : Bool) (s : State) : State :=
  spr (fun x => { x with phase := .rollback, rb := some { target := 0, start := 50, cause := 5, origin := 0, hold := hold, restored := true, done := false } }) s
theorem witness_RestoreDone : ∀ h ∈ [true, false], (restoring h (root .running)).spr.phase = .rollback ∧ fillsDone (restoring h (root .running)) = true ∧
    (restoring h (root .running)).cel.restoreOpen = 0 ∧ presentLinks (restoring h (root .running)) = [] ∧
    (restoring h (root .running)).chip.devState ≠ .safe := by decide +kernel
theorem witness_RbDone : ChildSays (restoring false (leaf .running)) fromKid (afterFlit (restoring false (leaf .running)) fromKid) ∧
    fromKid.gen = (restoring false (leaf .running)).spr.gen ∧ (restoring false (leaf .running)).spr.rb.isSome = true ∧
    fromKid.link ∉ (restoring false (leaf .running)).spr.rbDone ∧ (restoring false (leaf .running)).crt.isRoot = false := by
  refine ⟨⟨?_, rfl⟩, ?_⟩
  · unfold FlitGood; decide +kernel
  · decide +kernel
theorem witness_RbFail_root : let s := restoring false { leaf .running with crt := { (leaf .running).crt with isRoot := true, uplink := none } }
    ChildSays s fromKid (afterFlit s fromKid) ∧ s.crt.isRoot = true := by
  refine ⟨⟨?_, rfl⟩, ?_⟩
  · unfold FlitGood; decide +kernel
  · decide +kernel
theorem witness_Requests_root : reachB (leaf .ready) .i2c (sprA 0) = true ∧ (leaf .ready).crt.isRoot = false ∧
    reachB (leaf .ready) .i2c (sprA 0x20) = true ∧ reachB run1 .i2c (sprA 0) = true ∧ run1.crt.isRoot = true ∧ run1.crt.children = [] ∧
    run1.chip.devState = .running ∧ run1.spr.orders = [] ∧ run1.spr.phase ≠ .rollback ∧ run1.spr.holdAt = none ∧
    reachB run1 .i2c (sprA 0x20) = true ∧ (leaf .running).crt.isRoot = false := by decide +kernel
theorem witness_Reject (k : ReqKind) :
    HeadSays (leaf .ready) (some fromTop) (.reject (devAddr (leaf .ready)) k) (sendDown (.reject (devAddr (leaf .ready)) k) (afterFlit (leaf .ready) fromTop)) ∧
    HeadSays (leaf .ready) (some fromTop) (.reject (devAddr (leaf .ready) + 1) k) (sendDown (.reject (devAddr (leaf .ready) + 1) k) (afterFlit (leaf .ready) fromTop)) ∧
    devAddr (leaf .ready) + 1 ≠ devAddr (leaf .ready) := ⟨headSays_leaf _ (by simp) _, headSays_leaf _ (by simp) _, by omega⟩

/-! ### Boot, the shell and the loader -/

def ldr (f : Loader → Loader) (s : State) : State := { s with ldr := f s.ldr }
def shellDown (s : State) : State := { s with chip := { s.chip with shellUp := false } }

theorem witness_Resets : State.reset.chip.devState = .off ∧ (dev .ready).chip.devState ≠ .off ∧
    (∀ d ∈ [DevState.boot, .blank, .ready, .held, .running], reachB (dev d) .i2c (imgA 0) = true) ∧ (dev .running).spr.waiting = false ∧
    feedIsOpen (dev .ready) = false ∧ (∀ n, n < 32 → dmaBusy (dev .ready) n = false) ∧
    ({ (dev .ready).hst with porst := false, perst := false } : HostIf).porst = false := by decide +kernel
theorem witness_BootStages : ∀ n ∈ [1, 2, 3, 4, 5], (ldr (fun l => { l with boot := n }) (dev .boot)).chip.devState = .boot ∧
    (ldr (fun l => { l with boot := n }) (dev .boot)).ldr.boot = n ∧ treeSettled (ldr (fun l => { l with boot := n }) (dev .boot)) = true ∧
    treeSettled (wrFld (ldr (fun l => { l with boot := n }) (dev .boot)) (linkA 63 0) 0 2 1) = false := by decide +kernel

/-- A shell header of 64 bytes whose shell fills one frame with its signature. -/
def shellHead : List Byte := shellMagic ++ leBytes 2 0x100 ++ leBytes 2 0 ++ leBytes 4 64 ++ List.replicate 48 0#8
/-- A reception of the primary or backup copy. -/
def fetching (src tries : Nat) : State :=
  setImg 1 (ldr (fun l => { l with boot := 4, rx := [(src, { ShellRx.reset with live := true, tries := tries })] }) (dev .boot))
theorem witness_ShellFrame : ∀ src ∈ [0, 1], ∀ n ∈ [0, 3], (fetching src n).chip.devState = .boot ∧ (fetching src n).ldr.boot = 4 ∧
    (fetching src n).ldr.checking = none ∧ imgState (fetching src n) = 1 ∧ (rxOf (fetching src n) src).live = true ∧
    (rxOf (fetching src n) src).tries = n ∧ frameGood [] = false := by decide +kernel
theorem witness_ShellFrame_good : frameGood (frameOf shellHead 0) = true := frameGood_frameOf _ _
theorem witness_ShellFrame_head : shellHdrGood ((frameOf shellHead 0).take 4096) = true ∧ shellFrames ((frameOf shellHead 0).take 4096) = 1 := by
  decide +kernel
def fromHead : State := setImg 2 (ldr (fun l => { l with boot := 4, rx := [(2, { ShellRx.reset with live := true, buf := List.replicate 4100 0#8, tries := 2 })] }) (dev .boot))
theorem witness_ShellFrame_bad : imgState fromHead = 2 ∧ 4100 ≤ (rxOf fromHead 2).buf.length ∧ (rxOf fromHead 2).tries < 3 := by decide +kernel
theorem witness_ShellFrame_crc : leAt (List.replicate 4100 0#8) 4096 4 = 0 := by decide +kernel
/-- A link in boot service mode, with a child's shell to serve. -/
def bootLink : State := wrFld (shellDown (dev .boot)) (linkA 63 0xC) 0 4 10
def serving : State := wrFld (ldr (fun l => { l with serve := [(63, [1])] }) (dev .boot)) (linkA 63 0xC) 0 4 10
theorem witness_Frames : bootLink.chip.devState = .boot ∧ bootLink.chip.shellUp = false ∧ linkState bootLink 63 = 10 ∧
    bootLink.ldr.checking = none ∧ reachB bootLink .i2c (imgA 0) = true ∧ serving.ldr.serve = [(63, [1])] ∧ serving.chip.shellUp = true ∧
    linkState serving 63 = 10 := by decide +kernel
theorem witness_ShellVerified : ∀ src ∈ [0, 3],
    (ldr (fun l => { l with boot := 4, checking := some src }) (dev .boot)).ldr.checking = some src ∧
    (ldr (fun l => { l with boot := 4, checking := some src }) (dev .boot)).ldr.boot = 4 := by decide +kernel

/-- The root after an enumeration that found one device. -/
def rooted (d : DevState) : State := wrFld (setEnum 3 (root d)) crtDomain 0 13 1
theorem witness_Load : reachB (rooted .blank) .i2c (imgA 0) = true ∧ (rooted .blank).crt.isRoot = true ∧ (rooted .blank).ldr.domain = 0 ∧
    enumState (rooted .blank) = 3 ∧ domainLoadable (rooted .blank) = true ∧ domainSize (rooted .blank) = 1 ∧
    rootLoad (rooted .running) = none ∧ reachB (rooted .running) .i2c (imgA 0) = true := by decide +kernel
def loading (sent : Bool) : State :=
  openFeed (ldr (fun l => { l with domain := 1, kind := 1, sent := sent, acks := [0] }) (wrFld (rooted .loading) crtDomain 0 13 2))
theorem witness_Abort : reachB (loading true) .i2c (imgA 0) = true ∧ (loading true).ldr.domain = 1 ∧ (loading true).ldr.sent = true ∧
    (loading false).ldr.kind = 1 ∧ (loading false).ldr.sent = false := by decide +kernel
theorem witness_Forward : reachB addressed .i2c (imgA 0) = true ∧ addressed.crt.isRoot = false ∧ routeTo addressed 0 = .link 2 := by decide +kernel
theorem witness_Feed : canIssue (dev .ready) .i2c = true ∧ feedIsOpen (dev .ready) = false ∧ feedIsOpen (loading false) = true ∧
    feedPos (loading false) + 4 < 2 ^ 48 ∧ 4 ≤ feedCredit (loading false) ∧ (loading false).ldr.stream.length + 4 < 256 ∧
    feedIsOpen (openFeed (dev .boot)) = true ∧ canIssue (openFeed (dev .boot)) .i2c = true ∧ feedPos (openFeed (dev .boot)) = 0 := by
  decide +kernel
/-- All the credit is used: a child has not acknowledged anything. -/
theorem witness_Feed_full : feedCredit (loading false) < 2 ^ 28 + 4 ∧ canIssue (loading false) .i2c = true := by decide +kernel

theorem witness_LdBegin : (∀ d ∈ [DevState.blank, .ready, .held, .running], fromUp (leaf d) 2 = true ∧ (leaf d).ldr.kind = 0) ∧
    routeTo addressed 5 = .self ∧ fromUp (wrFld addressed (linkA 2 0xC) 0 4 8) 2 = true ∧
    routeTo (wrFld addressed (linkA 2 0xC) 0 4 8) 7 = .link 2 := by decide +kernel
/-- The root of two devices; the child is on link 3. -/
def parent (d : DevState) : State :=
  let s := wrFld (leaf d) crtDomain 0 13 2
  { s with crt := { s.crt with isRoot := true, uplink := none } }
theorem witness_LdAck : fromDown (ldr (fun l => { l with domain := 1, acks := [0] }) (parent .loading)) 3 = true ∧
    domainSize (parent .loading) = 2 ∧ fromDown (leaf .loading) 3 = true ∧ (leaf .loading).crt.uplink = some 2 := by decide +kernel
def receiving : State := setImg 4 (ldr (fun l => { l with kind := 1 }) (leaf .loading))
def reloading : State := setImg 12 (ldr (fun l => { l with kind := 2 }) (wrFld addressed (linkA 2 0xC) 0 4 8))
theorem witness_LdData : fromUp receiving 2 = true ∧ receiving.ldr.kind = 1 ∧ imgState receiving = 4 ∧ receiving.ldr.stream.length + 255 < 256 ∧
    fromUp reloading 2 = true ∧ reloading.ldr.kind = 2 ∧ routeTo reloading (devAddr reloading) = .self ∧ devAddr reloading ≠ 0xFFF ∧
    imgState reloading = 12 := by decide +kernel
theorem witness_Timeouts : (loading false).crt.isRoot = true ∧ (loading false).ldr.acks.length < domainSize (loading false) ∧
    feedIsOpen (loading false) = true ∧ (ldr (fun l => { l with waiting := true }) (loading false)).chip.devState = .loading ∧
    (ldr (fun l => { l with waiting := true }) receiving).ldr.waiting = true ∧ receiving.crt.isRoot = false := by decide +kernel
theorem witness_LoadChecks : (∀ s ∈ [setImg 6 receiving, setImg 6 (ldr (fun l => { l with kind := 1, domain := 1 }) (parent .loading))],
    s.ldr.kind = 1 ∧ imgState s = 6 ∧ s.ldr.mine = none ∧ s.ldr.voted = false ∧
    (∀ l ∈ presentLinks (ldr (fun l => { l with votes := [(3, none)] }) s), (l, none) ∈ (ldr (fun l => { l with votes := [(3, none)] }) s).ldr.votes)) := by
  decide +kernel
theorem witness_LdVote : fromDown receiving 3 = true ∧ receiving.ldr.waiting = false ∧ receiving.ldr.mine = none ∧ receiving.ldr.voted = false ∧
    fromDown (ldr (fun l => { l with kind := 1, domain := 1 }) (parent .loading)) 3 = true ∧
    fromUp (ldr (fun l => { l with mine := some none }) receiving) 2 = true := by decide +kernel
theorem witness_EnterReady : ∀ s ∈ [ldr (fun l => { l with waiting := true }) (rooted .loading), ldr (fun l => { l with waiting := true }) receiving],
    s.ldr.waiting = true ∧ s.chip.devState = .loading ∧ (∀ l, l < 64 → linkMode s l ≠ 0 → linkReady s l = true) ∧ grantMismatch s = none ∧
    s.ldr.readys = [] := by decide +kernel
theorem witness_LdReady : fromDown (ldr (fun l => { l with domain := 1 }) (parent .loading)) 3 = true ∧
    (ldr (fun l => { l with domain := 2, target := some 7 }) (parent .loading)).ldr.target = some 7 := by decide +kernel

/-- A shelf reload whose image has come, in each state that takes one. -/
def reloadEnd (st : Nat) (d : DevState) : State := setImg st (ldr (fun l => { l with kind := 2, tblDone := true }) (leaf d))
theorem witness_Reload : ∀ d ∈ [DevState.ready, .held, .running], imgState (reloadEnd 12 d) = 12 ∧ (reloadEnd 12 d).ldr.mine = none ∧
    (imgHdr (reloadEnd 12 d).ldr.stream).nsect ≤ (reloadEnd 12 d).ldr.ended ∧ afterNextX129 (reloadEnd 12 d) < 2 ^ 48 ∧
    imgState (reloadEnd 14 d) = 14 ∧ (reloadEnd 14 d).crt.isRoot = false := by decide +kernel
theorem witness_Border : ∀ k ∈ [0, 0x3FFF], (regRow (shfA 15 (0x10000 + 4 * k))).isSome = true →
    reachB (dev .ready) .i2c (shfA 15 (0x10000 + 4 * k)) = true ∧ detached (dev .ready) 15 = false ∧
    detached (setBit (dev .ready) (shfA 15 0x500) 16) 15 = true := by decide +kernel
theorem witness_Border_row : (regRow (shfA 15 0x10000)).any (fun r => ruleOpen r (dev .ready)) = true ∧
    (regRow (shfA 15 (0x10000 + 4 * 0x3FFF))).isSome = true := by decide +kernel

/-! ### Compare and acquisition -/

/-- The mover takes one record while acquisition stands in state `st`: the ring holds 1,024 slots, PRE is 4. -/
def moving (st : Nat) (r : CmpRec) : State :=
  let s := setAcqState st (wrReg (wrReg (wrReg (dev .running) (cmpA 4) 1024) (cmpA 0x38) 1) (cmpA 8) 2)
  { s with cmp := { s.cmp with moving := some 2, stage := [r], pre := 4 } }
theorem witness_Mover : ∀ st ∈ [0, 1, 2, 3, 4], let s := moving st (rec 2 512)
    s.cmp.moving = some 2 ∧ s.cmp.stage = [rec 2 512] ∧ rdFld s (cmpA 0x10) 4 3 = 0 ∧ acqState s = st ∧ acqTotal s + 1 < 2 ^ 48 ∧
    celPoisoned s (stageOffset s (rec 2 512)) = false ∧ s.cmp.pre ≠ 0 ∧ lineCtr s ((rdFld s (cmpA 8) 0 26 * 1024) / 64) < 0xFFF00000 ∧
    lineCtr s ((rdFld s (cmpA 8) 0 26 * 1024 + 64 * (rdReg s (cmpA 0x2C)).toNat) / 64) < 0xFFF00000 := by decide +kernel
theorem witness_Mover_poison : let s := moving 0 (rec 2 512)
    celPoisoned { s with cel := { s.cel with poison := [(stageOffset s (rec 2 512) / 64, true)] } } (stageOffset s (rec 2 512)) = true := by
  decide +kernel
theorem witness_Mover_bitmap : let s := wrReg (moving 1 { rec 2 512 with kind := .bmap, aux := 9 }) (cmpA 0xE0) 0xA5
    2 ^ rdFld s (cmpA 0xE0) 5 3 = 32 ∧ s.cmp.stage.map (fun r => r.kind) = [.bmap] ∧
    celPoisoned s (rdFld s (cmpA 0xE4) 0 26 * 1024 + 9 * 32) = false ∧ s.cel.upset = [] ∧ s.cel.ctr = [] := by decide +kernel
/-- The epoch of the mover has no record left; a failing record of context 7 was moved. -/
def moved (en : Bool) : State :=
  let s := wrReg (setBit (dev .running) (tskA 0 0) 0) (cmpA 0xC) (if en then 0xF800 else 0)
  { s with cmp := { s.cmp with moving := some 2, gained := 1#8 <<< 7 } }
theorem witness_MoverDone : ∀ en ∈ [true, false], let s := moved en
    s.cmp.moving = some 2 ∧ s.cmp.stage = [] ∧ rdFld s (cmpA 0x10) 4 3 = 0 ∧ s.cmp.moveQ = [] ∧ rdBit s (cmpA 0xC) 15 = en ∧
    s.cmp.gained = 1#8 <<< 7 := by decide +kernel
theorem witness_MoverDone_post : let s := moved true
    let p := physOf s (rdFld s (cmpA 0xC) 0 8)
    let f := rdFld s (cmpA 0xC) 8 7 + 7
    f = 127 ∧ shelfOn s (p / 17) = true ∧ rdBit s (tskA p 0) 0 = true ∧ (flowOf (schedOf s p) f).items.length < flowLimit s p f ∧
    poolCount (schedOf s p) < 4096 := by decide +kernel

theorem witness_Controls : ∀ s ∈ [dev .ready, dev .held, dev .running], s.cmp.moving = none ∧ s.spr.pos ≠ .extension ∧
    ∀ a ∈ [cmpA 0x10, cmpA 0x14, cmpA 0x24, cmpA 0x70, cmpA 0xC, cmpA 0x5C, cmpA 0x1004, cmpA 0x1FF8], reachB s .i2c a = true := by decide +kernel
theorem witness_Settings : isCmpSetting (cmpA 0x5C) = true ∧ isCmpSetting (cmpA 0x1004) = true ∧ isCmpSetting (cmpA 0x1FF8) = true ∧
    (moving 0 (rec 2 512)).cmp.moving ≠ none ∧ reachB (moving 0 (rec 2 512)) .i2c (cmpA 0x10) = true := by decide +kernel
theorem witness_Notify : bit 0xF900#32 15 = true ∧ 120 < fld 0xF900#32 8 7 ∧ fld 0xF800#32 8 7 ≤ 120 ∧ bit 0x7F00#32 15 = false := by decide +kernel
theorem witness_GpioEdge : (dev .boot).chip.devState ≠ .off ∧ rdBit (dev .boot) (hstA 0x20) 15 = false ∧
    rdFld (wrReg (wrReg (dev .held) (cmpA 0x10) 0x40) (cmpA 0x1C) 15) (cmpA 0x10) 4 3 = 4 := by decide +kernel

/-! ### Links -/

/-- Link 63 in mode `m` (1 tree link, 2 stream port) and state `st`, with TARGET 88, MARGIN 8, LAT 6 and SLACK_MIN 255. -/
def linked (d : DevState) (m st : Nat) : State :=
  let s := wrReg (wrReg (dev d) (linkA 63 4) 0x06080058) (linkA 63 8) 0x10FF0000
  wrFld (wrFld s (linkA 63 0) 0 2 m) (linkA 63 0xC) 0 4 st
def ts (good : Bool) : TrainSet :=
  { good := good, shape := ownShape (linked .ready 1 4) 63, rate := 0, target := 88, slots := 5, device := 9, link := 2, lane := 0 }
theorem witness_Training : ∀ m ∈ [1, 2], ∀ st ∈ [1, 2, 3, 4, 5, 6, 7], training (linked .ready m st) 63 = true ∧
    rdFld (linked .ready m st) (linkA 63 0xC) 8 2 < 3 ∧ linkState (linked .ready m st) 63 = st ∧ linkMode (linked .ready m st) 63 = m := by
  decide +kernel
theorem witness_Ts2 : (ts true).shape % 64 = ownShape (linked .ready 1 4) 63 ∧ (ts true).rate = rdFld (linked .ready 1 4) (linkA 63 0) 3 2 ∧
    (ts true).target = rdFld (linked .ready 1 4) (linkA 63 4) 0 16 ∧ (linkOf (linked .ready 1 4) 63).badBlocks < 15 ∧
    (linkOf (putLink 63 (fun k => { k with badBlocks := 15, agreed := true, measured := true, marks := [(7, 0)] }) (linked .ready 1 4)) 63).badBlocks = 15 ∧
    (7, 64 - 64) ∈ (linkOf (putLink 63 (fun k => { k with marks := [(7, 0)] }) (linked .ready 1 4)) 63).marks := by decide +kernel
/-- Both outcomes of the echo and of PIN at their limits. -/
theorem witness_Latency : rdFld (linked .ready 1 5) (linkA 63 4) 0 16 = 88 ∧ ¬ (88 < (165 - 64 + 1) / 2 + 6 + 23 + 8) ∧ 88 < (167 - 64 + 1) / 2 + 6 + 23 + 8 ∧
    rdFld (linked .ready 1 7) (linkA 63 4) 16 8 = 8 ∧ ¬ (88 < 80 + 8) ∧ 88 < 81 + 8 ∧
    rdFld (wrFld (linked .ready 1 7) (linkA 63 4) 0 16 400) (linkA 63 4) 0 16 - 143 = 257 := by decide +kernel
def bootMode : State := shellDown (dev .boot)
theorem witness_BootLink : linkMode bootMode 15 = 0 ∧ bootMode.chip.shellUp = false ∧ reachB (linked .ready 1 9) .i2c (linkA 63 0x10) = true ∧
    linkState (linked .ready 1 9) 63 = 9 ∧ rdReg (linked .ready 1 9) (linkA 63 0x10) = 0 ∧
    rdBit (setBit (linked .ready 1 6) (timA 4) 1) (timA 4) 1 = true ∧ linkState (setBit (linked .ready 1 6) (timA 4) 1) 63 = 6 := by decide +kernel
/-- Lane 255 serves link 63 as its logical lane 2. -/
def laned (role : Nat) (s : State) : State := wrReg s (laneA 255 4) (BitVec.ofNat 32 (4 * role + 16 * 63 + 1024 * 2))
theorem witness_LaneLost : let s := laned 1 (linked .ready 1 8)
    rdFld s (laneA 255 4) 2 2 = 1 ∧ rdFld s (laneA 255 4) 4 6 = 63 ∧ linkState s 63 = 8 ∧ linkMode s 63 ≠ 0 ∧ rdBit s (linkA 63 0x1C) 30 = false ∧
    s.ldr.kind = 0 ∧ s.chip.devState ≠ .running := by decide +kernel

theorem witness_Signal : (List.replicate 24 (true, 5#8)).length = 24 ∧ 87 ≤ rdFld (linked .running 1 8) (linkA 63 4) 0 16 ∧
    rdFld (linked .running 1 8) (linkA 63 4) 0 16 - 87 < 2 ∧ latchGate (linked .running 1 8) = false ∧
    (linked .running 1 8).spr.phase ≠ .rollback ∧
    15 < rdFld (linked .running 1 8) (linkA 63 8) 24 6 ∧ rdBit (linked .running 1 8) (linkA 63 0x10) 1 = false ∧
    (linkOf (linked .running 1 8) 63).items = [] := by decide +kernel
theorem witness_Signal_gate : ∃ s ∈ [linked .loading 1 8, linked .blank 1 8, spr (fun x => { x with phase := .rollback }) (linked .running 1 8)],
    latchGate s = true := by decide +kernel
theorem witness_Signal_item : let s := putLink 63 (fun k => { k with items := [{ slot := 15, step := 7, valid := true, value := 5 }] }) (linked .running 1 8)
    (linkOf s 63).items = [{ slot := 15, step := 7, valid := true, value := 5 }] ∧ latchGate s = false := by decide +kernel
/-- A stream port of 40-byte frames; a frame has come but for its last flit. -/
def port (d : DevState) : State := wrReg (linked d 2 8) (linkA 63 0x100) 40
theorem witness_Stream : portUp (port .ready) 63 = true ∧ (linkOf (port .ready) 63).part = none ∧ portBytes (port .ready) 63 = 40 ∧
    limitValid (port .ready) = true ∧ limitValid (port .blank) = false ∧ (port .ready).spr.taken ≤ 0 ∧ 0 ≤ streamLimit (port .ready) ∧
    (List.replicate 28 0#8).length + 28 = 28 * ((40 + 27) / 28) ∧ portBytes (linked .ready 2 8) 63 = 0 ∧
    streamLimit (port .ready) < 2 ^ 48 - 1 ∧ 4 < (spr (fun x => { x with taken := 5 }) (port .ready)).spr.taken ∧
    portUp (port .blank) 63 = true := by decide +kernel
theorem witness_Service : serviceOpen (linked .ready 1 8) 63 = true ∧ (linkOf (linked .ready 1 8) 63).svcRx = 0 ∧
    timeOpen (linked .ready 1 8) 63 = true ∧ (putLink 63 (fun k => { k with svcOpen := true }) (linked .ready 1 8)).ldr.kind = 0 := by decide +kernel
def unacked (tries : Nat) : State := putLink 63 (fun k => { k with svcOut := [⟨7, true, true, []⟩], svcTries := tries }) (linked .ready 1 8)
theorem witness_Resend : ∀ n ∈ [0, 14, 15], serviceOpen (unacked n) 63 = true ∧ (linkOf (unacked n) 63).svcOut ≠ [] ∧ (unacked n).ldr.kind = 0 ∧
    (linkOf (unacked n) 63).svcTries = n ∧ (unacked n).crt.uplink ≠ some 63 ∧
    (linkOf (unacked n) 63).svcOut.findIdx? (fun f => f.seq = 7) = some 0 := by decide +kernel

/-- A link with lane 4 in service, spare 255 and a swap or command that waits. -/
def swapping : State :=
  let s := putLink 63 (fun k => { k with swap := some (2, 975), cmd := some { cmd := 1, clane := 2, cid := 0 } }) (linked .ready 1 8)
  wrReg (wrReg s (linkA 63 0x1C) 0x400000FF) (laneA 4 4) (BitVec.ofNat 32 (4 + 16 * 63 + 1024 * 2))
theorem witness_Spare : mgmtOpen swapping 63 = true ∧ rdBit swapping (linkA 63 0x1C) 30 = true ∧
    (linkOf swapping 63).cmd = some { cmd := 1, clane := 2, cid := 0 } ∧ (linkOf swapping 63).swap = some (2, 975) ∧
    rdFld swapping (linkA 63 0x1C) 0 8 = 255 ∧ lanesOf swapping 63 1 = [(4, 2)] ∧ rdFld swapping (linkA 63 0x1C) 16 14 < 16383 := by decide +kernel
def testing : State := laned 3 (putLink 63 (fun k => { k with bist := some 255 }) (linked .ready 1 8))
theorem witness_LaneBist : rdFld testing (laneA 255 4) 2 2 = 3 ∧ rdFld testing (laneA 255 4) 4 6 = 63 ∧ (linkOf testing 63).bist = some 255 ∧
    (∀ k, k < 64 → k ≠ 63 → (linkOf testing k).bist ≠ some 255) ∧ rdBit testing (linkA 63 0x1C) 30 = false ∧ testing.chip.devState ≠ .running ∧
    rdFld testing (laneA 0 4) 2 2 ≠ 3 := by decide +kernel
theorem witness_LaneBist_others : ∀ q, q < 256 → q ≠ 255 → rdFld testing (laneA q 4) 2 2 = 0 := by decide +kernel
theorem witness_Loop : mgmtOpen (linked .ready 1 8) 63 = true ∧ carriesModel (linked .ready 1 8) 63 = false ∧
    mgmtOpen (linked .running 1 8) 63 = true ∧ carriesModel (linked .running 1 8) 63 = true ∧
    (linkOf (putLink 63 (fun k => { k with farLoop := some (2, 1) }) (linked .ready 1 8)) 63).farLoop = some (2, 1) := by decide +kernel
theorem witness_LaneCtrl : let s := laned 1 (linked .ready 1 8)
    reachB s .i2c (laneA 255 0) = true ∧ laneFree s 255 = false ∧ laneFree s 254 = true ∧ rdReg s (laneA 255 0) = 0 ∧
    reachB s .i2c (linkA 63 0x10) = true ∧ reachB s .i2c (linkA 63 0x104) = true ∧ rdFld s (linkA 63 0x10) 2 2 = 0 ∧ linkState s 63 = 8 := by
  decide +kernel
theorem witness_Loopback : ∀ st ∈ [0, 9], linkState (linked .ready 1 st) 63 = st ∧ reachB (linked .ready 1 st) .i2c (linkA 63 0x10) = true ∧
    rdReg (linked .ready 1 st) (linkA 63 0x10) = 0 ∧ fld 4#32 2 2 = 1 := by decide +kernel
theorem witness_Prbs : ∀ k ∈ [1, 4], (prbsTaps (rdFld (wrReg (dev .ready) (laneA 255 0) (BitVec.ofNat 32 (256 * k))) (laneA 255 0) 8 3)).isSome = true := by
  decide +kernel

/-! ### Crates -/

/-- A device that its head on link 2 enumerates, without children, or with one child on link 3. -/
def counted (d : DevState) (kids : List Nat) : State :=
  wrFld (wrFld { dev d with crt := { (dev d).crt with uplink := some 2, children := kids, probing := !kids.isEmpty } } (linkA 3 0xC) 0 4 8) (linkA 2 0xC) 0 4 8
theorem witness_EnProbe : ∀ d ∈ [DevState.boot, .blank, .ready, .running, .safe], ∀ k ∈ [[], [3]], (counted d k).crt.isRoot = false ∧
    (counted d k).crt.uplink = some 2 ∧ linkState (counted d k) 3 = 8 := by decide +kernel
def kid : ChildAns := { busy := false, missing := true, tooMany := false, size := 4095, depth := 14, tsub := 100 }
theorem witness_EnCount : let s := counted .blank [3]
    s.crt.probing = true ∧ assigned s = false ∧ linkTarget s 3 + 991 + kid.tsub < 65536 ∧ kid.depth < 15 ∧ linkState s 3 = 8 ∧ kid.size ≤ 4095 ∧
    s.crt.answers = [] ∧ rdReg s (hstA 0x118) = 0 ∧ rdReg s (hstA 0x11C) = 0 := by decide +kernel
theorem witness_EnCount_bits (i : Nat) : isPresent (counted .blank [3]) i = false ∧ rdBit (counted .blank [3]) (hstA 0x11C) i = false := by
  have h := witness_EnCount
  constructor
  · simp [isPresent, rdBit, h.2.2.2.2.2.2.2.1, bit]
  · simp [rdBit, h.2.2.2.2.2.2.2.2, bit]
theorem witness_EnAssign : presentIdx (counted .blank []) = [] ∧ (counted .blank []).crt.uplink = some 2 := by decide +kernel
theorem witness_EnDone : let s := setBit (setEnum 2 (counted .blank [3])) (hstA 0x118) 0
    childIndex s 3 = some 0 ∧ enumState s = 2 ∧ isPresent s 0 = true ∧ 0 ∉ s.crt.done ∧ (∀ j ∈ presentIdx s, j = 0 ∨ j ∈ s.crt.done) := by
  decide +kernel
theorem witness_Enum : reachB (root .blank) .i2c (hstA 0x100) = true ∧ enumState (root .blank) = 0 ∧ (root .blank).crt.children = [] ∧
    (root .blank).crt.expect ≤ 1 ∧ 1 < ({ (root .blank).crt with expect := 3 } : Crate).expect ∧ reachB (root .ready) .i2c (hstA 0x100) = true := by
  decide +kernel
theorem witness_Substat : let s := setBit (counted .ready [3]) (hstA 0x118) 0
    childIndex s 3 = some 0 ∧ linkState s 3 = 8 ∧ s.chip.shellUp = true ∧ 0 < s.crt.children.length ∧ isPresent s 0 = true := by decide +kernel

/-! ### Time -/

/-- A device whose upstream link 3 is UP and has one estimate `e`, fifteen frames in lock. -/
def timed (d : DevState) (e : Int) : State :=
  let s := dev d
  wrFld (wrReg { s with crt := { s.crt with uplink := some 3 }, tim := { s.tim with prim := { s.tim.prim with est := [e] }, inLock := 15 } }
    (linkA 3 0) 1) (linkA 3 0xC) 0 4 8
theorem witness_Sample : linkMode (timed .ready 0) 3 = 1 ∧ timeOpen (timed .ready 0) 3 = true ∧ (timed .ready 0).crt.uplink = some 3 ∧
    0 = mapGet 0 (timed .ready 0).spr.rxSeq 3 ∧ ((4074 : Int) - 3000 - (2000 - 1000) - 0) % 2 = 0 := by decide +kernel
/-- In lock, out of lock, and a jam at the limit of 10 ns. -/
theorem witness_Frame : ∀ e ∈ [(0 : Int), 655360, 655361, -700000], let s := timed .ready e
    s.chip.devState ≠ .off ∧ s.crt.isRoot = false ∧ linkState s 3 = 8 ∧ rdFld s timStat 2 2 = 0 ∧ s.tim.prim.est = [e] ∧ s.tim.prim.theta = none ∧
    s.tim.changed = false ∧ s.tim.revert = false ∧ rdFld s (timA 0x68) 0 2 = 0 ∧ (rdReg s (timA 0x64)).toNat < 2 ^ 31 ∧ 15 ≤ s.tim.inLock ∧
    rdBit s timStat 12 = false := by decide +kernel
theorem witness_Frame_lost : linkState (wrFld (timed .running 0) (linkA 3 0xC) 0 4 1) 3 ≠ 8 ∧
    rdFld (wrFld (timed .running 0) (linkA 3 0xC) 0 4 1) timStat 2 2 = 0 ∧ (timed .running 0).tim.revert = false := by decide +kernel
theorem witness_Frame_root : (setBit (root .ready) timStat 0).crt.isRoot = true ∧ rdBit (setBit (root .ready) timStat 0) timStat 0 = true ∧
    reachB (dev .ready) .i2c (timA 0) = true ∧ reachB (dev .running) .i2c (timA 0) = true := by decide +kernel
/-- A law whose ANCHOR is ahead, now, or past. -/
theorem witness_Law : ∀ k ∈ [1, 3], reachB (dev .ready) .i2c (lawA k 0x1C) = true ∧ rdBit (dev .ready) (lawA k 0x1C) 0 = false ∧
    (dev .ready).crt.isRoot = false ∧ tb0Now (dev .ready) ≤ rdTime (dev .ready) (lawA k 0) ∧
    rdTime (timeReach 99 (dev .ready)) (lawA k 0) < tb0Now (timeReach 99 (dev .ready)) ∧
    reachB (timeReach 99 (dev .ready)) .i2c (lawA k 0x1C) = true ∧ rdBit (setBit (dev .ready) (lawA k 0x1C) 0) (lawA k 0x1C) 0 = true ∧
    tb0Now (setBit (dev .ready) (lawA k 0x1C) 0) ≤ rdTime (setBit (dev .ready) (lawA k 0x1C) 0) (lawA k 0) := by decide +kernel
theorem witness_Pps : let s := wrReg (root .ready) (timA 0x68) 0x100
    s.chip.devState ≠ .off ∧ s.chip.shellUp = true ∧ s.tim.ppsDelay = 0 ∧ tb0Now s ≤ 65536000 ∧ 65536000 + 65535 * 1000 * 65536 < 2 ^ 48 * secUnits ∧
    s.crt.isRoot = true ∧ rdBit s (timA 0x68) 8 = true ∧ assigned s = false ∧ rdBit s (timA 0x74) 31 = false ∧ 1 ≤ rdFld s (timA 0x6C) 0 16 ∧
    (rdReg s (timA 0x64)).toNat < 2 ^ 31 := by decide +kernel
theorem witness_Pps_second : rdFld (wrReg (dev .ready) (timA 0x68) 2) (timA 0x68) 0 2 = 2 ∧ (wrReg (dev .ready) (timA 0x68) 2).tim.ppsDelay = 0 ∧
    ({ (root .ready).tim with ppsSeen := true } : TimeKeep).ppsSeen = true := by decide +kernel
/-- Generator 7 with WIDTH and PERIOD in units of 50 ps, and the high word of START. -/
def pulsing (w p start : Nat) (d : DevState) : State :=
  wrReg (wrReg (wrReg (dev d) (plsA 7 4) (BitVec.ofNat 32 start)) (plsA 7 0x14) (BitVec.ofNat 32 w)) (plsA 7 0xC) (BitVec.ofNat 32 p)
/-- Accepted at the limits of WIDTH and PERIOD, and refused just below them. -/
theorem witness_PulseArm : (∀ d ∈ [DevState.ready, .running, .held], ∀ p ∈ [0, 40], reachB (pulsing 20 p 16 d) .i2c (plsCtrl 7) = true ∧
      rdBit (pulsing 20 p 16 d) (plsCtrl 7) 0 = false ∧ 20 ≤ plsWidthRaw (pulsing 20 p 16 d) 7 ∧
      (plsPeriodRaw (pulsing 20 p 16 d) 7 = 0 ∨ plsWidthRaw (pulsing 20 p 16 d) 7 + 20 ≤ plsPeriodRaw (pulsing 20 p 16 d) 7) ∧
      tb0Now (pulsing 20 p 16 d) + 131072000 ≤ plsStart (pulsing 20 p 16 d) 7 ∧ plsStart (pulsing 20 p 0 d) 7 < tb0Now (pulsing 20 p 0 d) + 131072000) ∧
    plsWidthRaw (pulsing 19 0 16 .ready) 7 = 19 ∧ plsPeriodRaw (pulsing 20 39 16 .ready) 7 = 39 ∧ (dev .ready).tim.laws = [] := by decide +kernel
theorem witness_PulseRun : let s := setBit (pulsing 20 40 16 .ready) (plsCtrl 7) 0
    rdBit s (plsCtrl 7) 0 = true ∧ rdFld s (plsCtrl 7) 1 2 = 0 ∧ rdFld s (plsCtrl 7) 1 3 = 0 ∧ reachB s .i2c (plsCtrl 7) = true ∧
    plsPeriodRaw s 7 ≠ 0 ∧ (∀ n ∈ [0, 1, 2], plsCount (wrReg s (plsA 7 0x18) (BitVec.ofNat 32 n)) 7 = n) ∧
    (genOf (putGen 7 { PulseGen.reset with high := true } s) 7).high = true := by decide +kernel

/-! ### Stewards -/

/-- An instruction word: OP and four fields below it. -/
def stwWord (op a b c d : Nat) : Nat := op * 2 ^ 22 + a * 2 ^ 17 + b * 2 ^ 12 + c * 2 ^ 7 + d
/-- Steward 0 in K, at PC 0x40 of a firmware area of 1 MB, whose instruction cache holds the line of PC with word `w`. -/
def atWord (w : Nat) (f : Steward → Steward) : State :=
  putCore 0 (f { Steward.reset with pc := 0x40, run := .executing, parked := false, gated := false, gpr := [(1, 7), (2, 0xFFFFFFFD)] })
    (putIc 0 ((genBase * 2 ^ 20 + 0x40) / 64) (some (leBytes 4 w ++ List.replicate 60 0#8)) (wrReg (dev .ready) (stwA 0 0x30) 1))
def runsAs (s : State) (p : Nat) (row : StwRow) (w : Word) : Bool :=
  stwReady s p && decide (stwFetch s p = .word w) && decide (stwDecode w = some { row := row, word := w }) &&
    condHolds (coreOf s p) w && !stwPriv (coreOf s p) { row := row, word := w }
theorem stwRuns_of {s : State} {p : Nat} {row : StwRow} {w : Word} (h : runsAs s p row w = true) :
    StwRuns s p row { row := row, word := w } := by
  unfold runsAs at h
  simp only [Bool.and_eq_true, decide_eq_true_eq, Bool.not_eq_true'] at h
  exact ⟨h.1.1.1.1, w, h.1.1.1.2, h.1.1.2, rfl, h.1.2, h.2⟩

/-- A word of each row, RD 3, RA 1, RB 2 where it has them. -/
def sampleWord (row : StwRow) : Nat :=
  match row with
  | .alu fn => stwWord 0 3 1 (if fn < 0x14 then 2 else 0) fn
  | .addi => stwWord 1 3 1 0 5 | .andi => stwWord 2 3 1 0 5 | .ori => stwWord 3 3 1 0 5 | .xori => stwWord 4 3 1 0 5
  | .slli => stwWord 5 3 1 0 5 | .srli => stwWord 6 3 1 0 5 | .srai => stwWord 7 3 1 0 5
  | .lui => stwWord 8 3 1 0 5 | .llo => stwWord 9 3 1 0 5
  | .cmp => stwWord 0xA 8 1 2 0 | .cmpi => stwWord 0xB 8 1 2 0 | .plog => stwWord 0xC 9 0 0 0
  | .lw => stwWord 0x10 3 24 1 0 | .lh => stwWord 0x11 3 24 1 2 | .lhu => stwWord 0x12 3 24 1 2
  | .lb => stwWord 0x13 3 24 1 63 | .lbu => stwWord 0x14 3 24 1 63
  | .sw => stwWord 0x15 3 24 1 60 | .sh => stwWord 0x16 3 24 1 2 | .sb => stwWord 0x17 3 24 1 63
  | .amo fn => stwWord 0x18 3 24 2 fn | .fence fn => stwWord 0x19 0 0 0 fn | .cmo fn => stwWord 0x1A 0 24 0 fn
  | .b => stwWord 0x20 0 0 0 3 | .bl => stwWord 0x21 0 0 0 3 | .jr => stwWord 0x22 3 24 0 0
  | .sys => stwWord 0x28 0 0 0 5 | .rfe => stwWord 0x29 0 0 0 0 | .mfsr => stwWord 0x2A 3 0 0 2 | .mtsr => stwWord 0x2B 0 1 0 0x30
  | .gcall => stwWord 0x2C 0 0 0 3 | .gret => stwWord 0x2D 0 0 0 0 | .brk => stwWord 0x2E 0 0 0 5
  | .wft => stwWord 0x30 3 24 0 0 | .post => stwWord 0x31 3 1 2 0 | .fclaim => stwWord 0x32 3 1 0 0 | .frel => stwWord 0x33 0 1 0 0
  | .amb => stwWord 0x34 3 24 2 0
def here (row : StwRow) (f : Steward → Steward) : State := atWord (sampleWord row) f
def inG (c : Steward) : Steward := { c with priv := 2, gepsr := 2, gcall := some { ie := true, exl := false, cycle := 0 } }

/-- Every row but GRET runs in K with EXL 0, and every row but GCALL in G. -/
theorem witness_StwRuns : ∀ q ∈ stwInstrs,
    (q.2 ≠ .gret → runsAs (here q.2 id) 0 q.2 (BitVec.ofNat 32 (sampleWord q.2)) = true ∧ (coreOf (here q.2 id) 0).exl = false) ∧
    (q.2 ≠ .gcall → runsAs (here q.2 inG) 0 q.2 (BitVec.ofNat 32 (sampleWord q.2)) = true ∧ (coreOf (here q.2 inG) 0).haltDue = false) := by
  decide +kernel
theorem witness_StwRuns_prop : StwRuns (here .lui id) 0 .lui { row := .lui, word := BitVec.ofNat 32 (sampleWord .lui) } :=
  stwRuns_of (by decide +kernel)
/-- A fetch that is denied, one that no cache holds, a word that does not decode, another row, a condition that fails, and a level
too low. -/
theorem witness_StewardIssue : stwReady (here .b id) 0 = true ∧
    stwFetch (here .b (fun c => { c with pc := 0xF0000000 })) 0 = .denied ∧ stwReady (here .b (fun c => { c with pc := 0xF0000000, exl := true })) 0 = true ∧
    stwFetch (here .b (fun c => { c with pc := 0x80 })) 0 = .miss ((genBase * 2 ^ 20 + 0x80) / 64) ∧
    stwFetch (atWord 0x0FFFFFFF id) 0 = .word 0x0FFFFFFF ∧ stwDecode 0x0FFFFFFF = none ∧
    (stwDecode (BitVec.ofNat 32 (sampleWord .b))).map (fun i => i.row) = some .b ∧
    condHolds (coreOf (here .b id) 0) (BitVec.ofNat 32 (2 ^ 31 + sampleWord .b)) = false ∧
    stwPriv (coreOf (here .gret id) 0) { row := .gret, word := BitVec.ofNat 32 (sampleWord .gret) } = true := by decide +kernel
/-- Division by 0 and the quotient of the two extremes. -/
theorem witness_StwAlu : stwAlu 0x0D 0x80000000 0xFFFFFFFF = 0x80000000 ∧ stwAlu 0x0F 0x80000000 0xFFFFFFFF = 0 ∧ stwAlu 0x0C 5 0 = 0xFFFFFFFF ∧
    stwAlu 0x15 1 0 = 31 := by decide +kernel

/-- The line of address 128 of the firmware area. -/
def line128 : Nat := (genBase * 2 ^ 20 + 128) / 64
def held (x : CacheLine) (s : State) : State := putCache line128 (some x) s
def clean0 : CacheLine := { data := List.replicate 64 9#8, dirty := false, shelves := [0], hold := [0], owner := none, flips := 0 }
def memRow (row : StwRow) : State := held clean0 (here row (fun c => { c with gpr := [(24, 0), (3, 0x1234)] }))
theorem witness_HoldsLine : HoldsLine (memRow .lw) 0 line128 clean0 := by
  unfold HoldsLine; decide +kernel
/-- A load of address 128 and its neighbours in the line, from the firmware area. -/
theorem witness_StewardMemory : cachedAt (memRow .lw) 0 (localAt (memRow .lw) 0 128) = some (genBase * 2 ^ 20 + 128) ∧
    cachedAt (memRow .lw) 0 (localAt (memRow .lw) 0 191) = some (genBase * 2 ^ 20 + 191) ∧ (genBase * 2 ^ 20 + 191) / 64 = line128 ∧
    dataAllowed (memRow .lw) 0 128 true = true ∧ dataAllowed (memRow .lw) 0 128 false = true ∧ dataAllowed (memRow .lw) 0 0xF0000000 false = false ∧
    dataAllowed (memRow .sb) 0 0x70000000 true = true ∧ cachedAt (memRow .sb) 0 (localAt (memRow .sb) 0 0x70000000) = none ∧
    cacheLine (here .lw id) ((genBase * 2 ^ 20 + 128) / 64) = none := by decide +kernel
theorem witness_Jr : (∀ n ∈ [64, 66], gRead (coreOf (here .jr (fun c => { c with gpr := [(1, BitVec.ofNat 32 n)] })) 0) 1 = BitVec.ofNat 32 n) ∧
    (64 : Word).toNat % 4 = 0 ∧ (66 : Word).toNat % 4 ≠ 0 := by decide +kernel
theorem witness_Mtsr : ({ row := .mtsr, word := BitVec.ofNat 32 (sampleWord .mtsr) } : StwIns).imm12 = 0x030 ∧
    stwDecode (BitVec.ofNat 32 (stwWord 0x2B 0 1 0 5)) = some { row := .mtsr, word := BitVec.ofNat 32 (stwWord 0x2B 0 1 0 5) } := by decide +kernel
/-- WFT at the count, and one tick below it. -/
theorem witness_Wft : ∀ n ∈ [0, 1], let s := { here .wft (fun c => { c with gpr := [(24, 0)] }) with chip := { Chip.reset with devState := .running, shellUp := true } }
    s.chip.devState = .running ∧ (0 ≤ (s.spr.tick.setWidth 32 - 0 : Word).toInt) ∧ (s.spr.tick.setWidth 32 - 1 : Word).toInt < 0 ∧ wftReached s 0 (BitVec.ofNat 32 n) = decide (n = 0) := by
  decide +kernel
def enabled (n : Nat) (row : StwRow) (ra : Word) : State :=
  putSched 0 (putFlow 17 { items := List.replicate n { value := 5, flips := 0 }, holder := none } Sched.reset)
    (wrReg (here row (fun c => { c with gpr := [(1, ra)] })) (tskA 0 0) 1)
/-- A POST to an empty flow and to one at its limit. -/
theorem witness_Post : let s := enabled 0 .post 0x10011
    fld (0x10011 : Word) 7 1 = 0 ∧ fld (0x10011 : Word) 17 15 = 0 ∧ bit (0x10011 : Word) 16 = true ∧ mapGet false s.chip.bistOpen 0 = false ∧ shelfOn s 0 = true ∧
    rdBit s (tskA 0 0) 0 = true ∧ roleOf s 0 = .active ∧ (flowOf (schedOf s 0) 17).items.length < flowLimit s 0 17 ∧ poolCount (schedOf s 0) < 4096 ∧
    flowLimit (wrReg (enabled 1 .post 0x10011) (tskA 0 0x488) 1) 0 17 ≤ (flowOf (schedOf (enabled 1 .post 0x10011) 0) 17).items.length := by decide +kernel
theorem witness_Frel : fld (17 : Word) 7 25 = 0 ∧ fld (128 : Word) 7 25 ≠ 0 ∧
    (flowOf (schedOf (putSched 0 (putFlow 17 { items := [{ value := 5, flips := 0 }], holder := some 0 } Sched.reset) (here .frel id)) 0) 17).holder =
      some (coreOf (here .frel id) 0).thread ∧ (flowOf (schedOf (here .frel id) 0) 17).holder ≠ some (coreOf (here .frel id) 0).thread := by decide +kernel
theorem witness_Amb : let s := memRow .amb
    localAt s 0 128 = .fwa 128 ∧ dataAllowed s 0 128 false = true ∧ 128 < rdFld s (stwA 0 0x30) 0 10 * 2 ^ 20 ∧ cacheLine s ((genBase * 2 ^ 20 + 128) / 64) = some clean0 ∧
    s.att.queue.length < 16 := by decide +kernel
/-- The cellar laid out with one region of firmware. -/
def laidOut (s : State) : State := { wrReg s celPlan 0x20 with cel := { s.cel with laid := true } }
def missing (i : Bool) : State := laidOut (here .lw (fun c => { c with miss := some { addr := 128, line := line128, instr := i } }))
theorem witness_LineFill : ∀ i ∈ [true, false], stwAwake (missing i) 0 = true ∧ (coreOf (missing i) 0).miss = some { addr := 128, line := line128, instr := i } ∧
    (coreOf (missing i) 0).exl = false ∧ (readLine (.steward 0 false) line128 .pass (missing i)).1 = 0 := by decide +kernel
theorem witness_Interrupt : let s := here .b (fun c => { c with ie := true, irqEn := 0x80000000, irqPend := 0x80000000 })
    stwAwake s 0 = true ∧ (coreOf s 0).run = .executing ∧ (coreOf s 0).miss = none ∧ inAccess s 0 = false ∧ dueLine s 0 = some 31 ∧ (coreOf s 0).gated = false := by
  decide +kernel
theorem witness_GcallTimeout : let s := timeReach (2 ^ 40) (here .gret (fun c => { inG c with cycleAt := some 0 }))
    stwAwake s 0 = true ∧ (coreOf s 0).gcall = some { ie := true, exl := false, cycle := 0 } ∧ (coreOf s 0).haltDue = false ∧ 1000000 ≤ cyclesNow s 0 := by
  decide +kernel
theorem witness_WftRelease : ∀ v ∈ [0, 1], let s := { here .wft (fun c => { c with run := .waiting, await := some (0, BitVec.ofNat 32 v, 3) }) with chip := { Chip.reset with devState := .running, shellUp := true } }
    (coreOf s 0).run = .waiting ∧ (coreOf s 0).await = some (0, BitVec.ofNat 32 v, 3) ∧ (coreOf s 0).gated = false ∧ shelfOn s 0 = true ∧ wftReached s 0 (BitVec.ofNat 32 v) = decide (v = 0) := by
  decide +kernel
/-- Executing, in G without authorisation, halted by HALT and stopped. -/
theorem witness_Halt : (∀ f ∈ [id, inG, fun c => { c with run := .halted }, fun c => { c with run := .stopped }], ∀ q ∈ [stwA 0 0, stwA 0 0xC, stwA 0 0x40100, stwA 0 (0x40100 + 4 * 23)],
      reachB (here .b f) .i2c q = true) ∧ granted { here .b inG with att := { (here .b inG).att with lifecycle := 1 } } 1 = false ∧ (coreOf (here .b inG) 0).priv = 2 ∧ roleOf (here .b id) 0 = .active ∧
    reachB (dev .running) .i2c (stwA 270 0) = true ∧
    rdBit (setBit (here .b (fun c => { c with run := .halted })) (stwA 0 0) 0) (stwA 0 0) 0 = true ∧
    dbgOpen (here .b (fun c => { c with run := .halted })) 0 = true ∧ dbgOpen (here .b id) 0 = false := by decide +kernel

/-! ### Task schedulers -/

/-- Steward 0's scheduler with slot 3 in a state. -/
def slotIs (st : Nat) : State := putSched 0 (putSlot 3 { Slot.reset with state := st } Sched.reset) (wrReg (dev .ready) (tskA 0 0) 1)
theorem witness_SchedulerCommands : ∀ st ∈ [0, 1, 2, 3, 4], reachB (slotIs st) (.steward 0) (tskA 0 0x10) = true ∧
    reachB (slotIs st) (.steward 0) (tskA 0 0x14) = true ∧ (slotOf (schedOf (slotIs st) 0) 3).state = st ∧
    (runSlot (schedOf (slotIs st) 0) = if st = 2 then some 3 else none) ∧ (slotOf (schedOf (slotIs st) 0) 63).state = 0 := by decide +kernel
theorem witness_SchedulerCommands_prop : Reaches (slotIs 1) (.steward 0) (tskA 0 0x10) := reaches_of (by decide +kernel)
/-- WAIT for a flow that is claimable, for one that is not, for ticks alone, and for nothing. -/
theorem witness_Wait : claimable (flowOf (schedOf (enabled 1 .post 0) 0) 17) = true ∧ claimable (flowOf (schedOf (slotIs 1) 0) 17) = false ∧
    bit (0x591 : Word) 7 = true ∧ fld (0x591 : Word) 0 7 = 17 ∧ fld (0x591 : Word) 8 24 = 5 ∧ bit (0x500 : Word) 7 = false ∧
    bit (0x11 : Word) 7 = false ∧ fld (0x11 : Word) 8 24 = 0 := by decide +kernel
/-- Slot 3 waits for flow 17, which is empty. -/
def waiter17 : State := putSched 0 (putSlot 3 { Slot.reset with state := 3, flowEn := true, flow := 17 } Sched.reset) (wrReg (dev .ready) (tskA 0 0) 1)
theorem witness_TskPost : reachB waiter17 .i2c (tskA 0 (0x1000 + 4 * 17)) = true ∧ rdBit waiter17 (tskA 0 0) 0 = true ∧
    (flowOf (schedOf waiter17 0) 17).items.length < flowLimit waiter17 0 17 ∧ poolCount (schedOf waiter17 0) < 4096 ∧
    (flowOf (schedOf waiter17 0) 17).items = [] ∧ (flowOf (schedOf waiter17 0) 17).holder = none ∧
    earliestOf (schedOf waiter17 0) (waiters (schedOf waiter17 0) 17) = some 3 ∧ reachB waiter17 .i2c (tskA 0 (0x1000 + 4 * 127)) = true ∧
    reachB waiter17 .i2c (tskA 0 0) = true := by decide +kernel
/-- The scheduler is disabled; a flow at its limit. -/
theorem witness_TskPost_refused : rdBit (wrReg (slotIs 1) (tskA 0 0) 0) (tskA 0 0) 0 = false ∧ reachB (wrReg (slotIs 1) (tskA 0 0) 0) .i2c (tskA 0 0x1044) = true ∧
    reachB (wrReg (enabled 1 .post 0) (tskA 0 0x488) 1) .i2c (tskA 0 0x1044) = true ∧
    flowLimit (wrReg (enabled 1 .post 0) (tskA 0 0x488) 1) 0 17 ≤ (flowOf (schedOf (wrReg (enabled 1 .post 0) (tskA 0 0x488) 1) 0) 17).items.length := by
  decide +kernel
/-- A deadline just behind TSK_NOW, and one that is now. -/
theorem witness_DeadlineMiss : ∀ st ∈ [1, 2], ∀ d ∈ [0xFFFFFFFF, 0], let s := putSched 0 (putSlot 3 { Slot.reset with state := st, deadline := BitVec.ofNat 32 d } Sched.reset) (dev .ready)
    shelfOn s 0 = true ∧ (slotOf (schedOf s 0) 3).state = st ∧ (slotOf (schedOf s 0) 3).miss = false ∧
    (tskNow s - (slotOf (schedOf s 0) 3).deadline).toInt = if d = 0 then 0 else 1 := by decide +kernel
/-- One boundary of 100 ns has passed; an entry that expires and one that does not. -/
theorem witness_NigorTick : ∀ n ∈ [1, 2], let s := putSched 0 { Sched.reset with delays := [(BitVec.ofNat 32 n, 3)] } (wrReg (timeReach (100 * 65536) (dev .ready)) (tskA 0 0x18) 100)
    shelfOn s 0 = true ∧ rdFld s (tskA 0 0x18) 0 20 ≠ 0 ∧ (schedOf s 0).bound < tb1Now s / (rdFld s (tskA 0 0x18) 0 20 * 65536) ∧
    (schedOf s 0).delays = [(BitVec.ofNat 32 n, 3)] ∧ rdReg s (tskA 0 0x1C) = 0 ∧ tb1Now s / (rdFld s (tskA 0 0x18) 0 20 * 65536) = 1 := by
  decide +kernel

/-! ### Control network, shelf domains and DMA -/

theorem witness_Noc : reachB (dev .ready) .i2c (nocA 4) = true ∧ rdBit (dev .ready) nocStatus 1 = false ∧
    reachB (setBit (dev .ready) nocStatus 1) .i2c (nocA 4) = true ∧ rdBit (setBit (dev .ready) nocStatus 1) nocStatus 1 = true ∧
    rdBit (setBit (dev .ready) nocStatus 5) nocStatus 5 = true := by decide +kernel
/-- A bank whose router 0 sends node 17 nowhere. -/
theorem witness_Bank : routeOk (dev .ready) 1 17 12 0 [] false = true ∧
    routeOk { dev .ready with noc := { (dev .ready).noc with banks := [(bankKey 1 0 17, 31)] } } 1 17 12 0 [] false = false := by decide +kernel
/-- A shelf domain whose stewards may sleep, in a phase. -/
def shelf (h : Nat) (g : Gate) : State := putGate h g (wrReg (dev .ready) (pwrCtrl h) 0)
theorem witness_ShelfEligible : ∀ h ∈ [0, 15], shelfOn (shelf h Gate.reset) h = true ∧ shelfEligible (shelf h Gate.reset) h = true ∧
    rdBit (shelf h Gate.reset) (pwrCtrl h) 0 = false ∧ rdBit (setBit (shelf h Gate.reset) (pwrCtrl h) 0) (pwrCtrl h) 0 = true ∧
    shelfEligible (setBit (shelf h Gate.reset) (pwrCtrl h) 0) h = true ∧ reachB (shelf h Gate.reset) .i2c (pwrCtrl h) = true ∧
    shelfEligible (dev .safe) h = false ∧ reachB (dev .safe) .i2c (pwrCtrl h) = true := by decide +kernel
theorem witness_ShelfPhases : ∀ ph ∈ [Phases.on, .quiesce, .retain, .falling, .off, .waking], ∀ w ∈ [0, 7],
    (gateOf (shelf 15 { Gate.reset with phase := ph, wake := w }) 15).phase = ph ∧ (gateOf (shelf 15 { Gate.reset with phase := ph, wake := w }) 15).wake = w ∧
    reachB (shelf 15 { Gate.reset with phase := ph, wake := w }) .i2c (pwrCtrl 15) = true ∧ thermHold (shelf 15 { Gate.reset with phase := ph, wake := w }) 15 = false ∧
    (gateOf (shelf 15 { Gate.reset with phase := ph, wake := w, trip := true, revert := true }) 15).revert = true := by decide +kernel

/-- Channel `n` set to copy 4096 bytes from host memory to an open region, or the other way. -/
def channel (n : Nat) (x : DmaCh) (ctrl : Nat) (src dst : Nat) : State :=
  let w := fun (o v : Nat) (s : State) => wrReg s (dmaReg n o) (BitVec.ofNat 32 v)
  putChan n x (w 0 (src % 2 ^ 32) (w 4 (src / 2 ^ 32) (w 8 (dst % 2 ^ 32) (w 0xC (dst / 2 ^ 32) (w 0x10 4096 (w 0x18 ctrl (dev .ready)))))))
def chSt (st : DmaSt) : DmaCh := { DmaCh.reset with st := st }
theorem witness_DmaGo : ∀ n ∈ [0, 31], reachB (channel n DmaCh.reset 0 0 0x1000000000) .i2c (dmaReg n 0x18) = true ∧
    reachB (channel n DmaCh.reset 0 0 0x1000000000) .i2c (dmaReg n 0x1C) = true ∧
    dmaBusy (channel n DmaCh.reset 0 0 0x1000000000) n = false ∧ goAllowed (channel n DmaCh.reset 0 0 0x1000000000) n 0x105 = true ∧
    goAllowed (channel n DmaCh.reset 0 0 0x1000000000) n 5 = false ∧ goAllowed (channel n DmaCh.reset 0 0 0x10FFFFFFFC) n 0x105 = false := by decide +kernel
theorem witness_DmaStates : ∀ st ∈ [DmaSt.idle, .queued, .active, .done, .aborted, .err, .retired],
    reachB (channel 31 (chSt st) 0 0 0) .i2c (dmaReg 31 0x18) = true ∧ (chanOf (channel 31 (chSt st) 0 0 0) 31).st = st ∧
    reachB (channel 31 (chSt st) 0 0 0) .i2c (dmaReg 31 0x1C) = true ∧ (chanOf (channel 31 { chSt .active with lake := [1] } 0 0 0) 31).lake ≠ [] := by
  decide +kernel
def queuedIn (lake busy : Nat) : State :=
  { channel 31 (chSt .queued) (256 * lake) 0 0 with noc := { (putChan 30 (chSt .active) (channel 31 (chSt .queued) (256 * lake) 0 0)).noc with queue := [31, 2] }
                                                    regs := (wrReg (channel 31 (chSt .queued) (256 * lake) 0 0) (dmaReg 30 0x18) (BitVec.ofNat 32 (256 * busy))).regs }
/-- The lake has just enough units for the channel, and one too few. -/
theorem witness_DmaActive : (queuedIn 4 60).noc.queue = [31, 2] ∧ dmaLake (queuedIn 4 60) 31 = 4 ∧ lakeFree (queuedIn 4 60) = 4 ∧ lakeFree (queuedIn 4 61) = 3 := by
  decide +kernel
theorem witness_DmaRead : dmaReads (channel 31 (chSt .active) 0x104 0 0x1000000000) 31 = true ∧ rdBit (channel 31 (chSt .active) 0x104 0 0) (dmaReg 31 0x18) 2 = true ∧
    (List.replicate 512 (0 : Byte)).length = min (min (dmaCount (channel 31 (chSt .active) 0x104 0 0) 31) (512 - 0)) 4096 ∧
    dmaReads (channel 31 { chSt .active with lake := [7] } 0x104 0 0) 31 = true := by decide +kernel
/-- The last line that a channel reaches as memory (R551), in an area of the model window, sealed and written. -/
def farLine : Nat := 4095 * 16384 + 16383
def sealing (s : State) : State := setCtr farLine 5 { s with cel := { s.cel with areas := [{ first := 4095, count := 1, pool := 1 }] } }
theorem witness_DmaRead_sealed : let s := { sealing (channel 31 { chSt .active with readOfs := 4032, lake := List.replicate 63 1 } 0x100 0 0) with regs := (channel 31 (chSt .active) 0x100 (0x1000000000 + farLine * 64 - 4032) 0).regs }
    dmaReads s 31 = true ∧ rdBit s (dmaReg 31 0x18) 2 = false ∧ inCellar (dmaAddr s 31 0) = true ∧ lineSealed s farLine = true ∧ lineCtr s farLine ≠ 0 ∧
    (sideAt (rdBit s (dmaReg 31 0x18) 4) (dmaAddr s 31 0) (chanOf s 31).readOfs) % 0x1000000000 = farLine * 64 := by decide +kernel
theorem witness_DmaWrite : let s := channel 31 { chSt .active with lake := List.replicate 16 3, doneOfs := 4080 } 0x108 0 0
    (chanOf s 31).st = .active ∧ (chanOf s 31).lake ≠ [] ∧ rdBit s (dmaReg 31 0x18) 3 = true ∧ writeFailed (chanOf s 31) = false ∧
    min (chanOf s 31).lake.length (512 - sideAt (rdBit s (dmaReg 31 0x18) 5) (dmaAddr s 31 8) (chanOf s 31).doneOfs % 512) = (chanOf s 31).lake.length ∧
    (chanOf s 31).ending = none ∧ dmaCount s 31 ≤ 4080 + 16 := by decide +kernel
theorem witness_DmaWrite_sealed : let s := sealing (channel 31 { chSt .active with lake := List.replicate 16 3 } 0x100 0 (0x1000000000 + farLine * 64))
    (chanOf s 31).st = .active ∧ rdBit s (dmaReg 31 0x18) 3 = false ∧ inCellar (dmaAddr s 31 8) = true ∧ lineSealed s farLine = true ∧ writeFailed (chanOf s 31) = false ∧
    sideAt (rdBit s (dmaReg 31 0x18) 5) (dmaAddr s 31 8) 0 % 0x1000000000 = farLine * 64 := by decide +kernel

/-! ### The cellar -/

/-- The last line of the guarded region. -/
def sealedLine : Nat := (genBase + 1) * 16384 + 16383
def guarded (s : State) : State := setCtr sealedLine 5 (laidOut s)
theorem witness_CellarRead : reaches (dev .ready) .host (lineRegion sealedLine) = false ∧ reaches (guarded (dev .ready)) .host (lineRegion sealedLine) = true ∧
    lineSealed (guarded (dev .ready)) sealedLine = true ∧ cipherView .host = true ∧ speculative .spring = true ∧ cipherView .loader = false ∧
    speculative .loader = false ∧ lineCtr (guarded (dev .ready)) sealedLine = 5 ∧ lineCtr (laidOut (dev .ready)) sealedLine = 0 ∧
    linePoison (guarded (dev .ready)) sealedLine = false ∧ linePoison (setPoison sealedLine true (guarded (dev .ready))) sealedLine = true ∧
    (∀ v ∈ [Verdict.pass, .recovered, .fails], lineVerdict (guarded (dev .ready)) sealedLine v = v) := by decide +kernel
/-- A read of an open region, which has no counter. -/
def openRegion (s : State) : State := { wrReg s celPlan 0x10020 with cel := { s.cel with laid := true } }
def openLine : Nat := (genBase + 2) * 16384
theorem witness_CellarRead_open : lineSealed (openRegion (dev .ready)) openLine = false ∧ reaches (openRegion (dev .ready)) .host (lineRegion openLine) = true := by
  decide +kernel
def windowed : State := { guarded (dev .running) with spr := { (dev .running).spr with alarms := [(3, 1)], phase := .firstRun } }
theorem witness_TagVerdict : windowOpen (some 3) windowed = true ∧ windowOpen (some 3) (dev .running) = false ∧ lineVerdict windowed sealedLine .fails ≠ .pass ∧
    windowed.chip.devState = .running ∧ windowed.spr.phase ≠ .rollback ∧ windowOpen none { windowed with cel := { windowed.cel with restoreOpen := 1 } } = true := by
  decide +kernel
/-- The counters at which a re-key is asked for, the last write is done and a write is held; an exhausted generation. -/
theorem witness_CellarWrite : ∀ c ∈ [0, 0xFFF00000, 0xFFFFFFFE, 0xFFFFFFFF], let s := setCtr sealedLine c (laidOut (dev .ready))
    reaches s .loader (lineRegion sealedLine) = true ∧ lineSealed s sealedLine = true ∧ lineCtr s sealedLine = c ∧ (regionKey s (lineRegion sealedLine)).gen ≠ 0xFFFF ∧
    (regionKey s (lineRegion sealedLine)).exh = false ∧ (List.replicate 64 (0 : Byte)).length = 64 ∧ 63 + [(5 : Byte)].length ≤ 64 ∧
    (regionKey (putKey (lineRegion sealedLine) { RegionKey.reset with gen := 0xFFFF, exh := true } s) (lineRegion sealedLine)) = { RegionKey.reset with gen := 0xFFFF, exh := true } := by
  decide +kernel
def rekeying (i : Nat) : State := { guarded (dev .ready) with cel := { (guarded (dev .ready)).cel with rkNow := [(0, some (genBase + 1, i))], rkQueue := [(0, [genBase])] } }
theorem witness_Rekey : ∀ i ∈ [0, 16383, 16384], mapGet none (rekeying i).cel.rkNow 0 = some (genBase + 1, i) ∧
    copyPauses (rekeying i) (16384 * (genBase + 1) + i) = false ∧ (rekeying i).cel.held = [] := by decide +kernel
theorem witness_Rekey_paused : let s := putPc (linePc (rekeying 0) (16384 * (genBase + 1))) { PcState.reset with copying := true } (rekeying 0)
    copyPauses s (16384 * (genBase + 1)) = true ∧ mapGet none s.cel.rkNow 0 = some (genBase + 1, 0) := by decide +kernel
theorem witness_Reseal : { (dev .ready).cel with reseal := true }.reseal = true ∧ (dev .ready).cel.keys.any (fun q => q.2.old) = false ∧
    (dev .ready).cel.reseal = false ∧ (pcOf (putPc 127 { PcState.reset with copying := true } (dev .ready)) 127).copying = true := by decide +kernel
/-- A blob operation of 64 bytes between the last sealed general region and the open area. -/
def blobbing (src dst : Nat) : State :=
  let w := fun (o v : Nat) (s : State) => wrReg s (celA o) (BitVec.ofNat 32 v)
  let s := w 0x40 (src % 2 ^ 32) (w 0x44 (src / 2 ^ 32) (w 0x48 (dst % 2 ^ 32) (w 0x4C (dst / 2 ^ 32) (w 0x50 64 (openRegion (dev .ready))))))
  { s with att := { s.att with blobKeys := [(255, some 7)] } }
def blobOp (o : Bool) (src dst : Nat) : BlobOp := { opens := o, src := src, dst := dst, len := 64, slot := 255, count := 0 }
def sealedByte : Nat := (genBase + 5) * 2 ^ 20
def openByte : Nat := (genBase + 2) * 2 ^ 20
theorem witness_Blob : reachB (blobbing sealedByte openByte) .i2c blobCtrl = true ∧ blobRefused (blobbing sealedByte openByte) (blobOp false sealedByte openByte) = false ∧
    rd36 (blobbing sealedByte openByte) (celA 0x40) = sealedByte ∧ rd36 (blobbing sealedByte openByte) (celA 0x48) = openByte ∧
    rd36 (blobbing sealedByte openByte) (celA 0x50) = 64 ∧ (blobbing sealedByte openByte).att.blobCnt = 0 ∧
    blobRefused (blobbing openByte sealedByte) (blobOp true openByte sealedByte) = false ∧ blobRefused (dev .ready) (blobOp true 0 0) = true ∧
    blobRefused (dev .ready) (blobOp false 0 0) = true := by decide +kernel
theorem witness_BlobDone : let s := { blobbing sealedByte openByte with cel := { (blobbing sealedByte openByte).cel with blob := some (blobOp false sealedByte openByte) } }
    s.cel.blob = some (blobOp false sealedByte openByte) ∧ mapGet none s.att.blobKeys 255 = some 7 ∧ s.att.blobSeed < 2 ^ 32 ∧ rangePoison s sealedByte 64 = false ∧
    openByte % 64 = 0 ∧ openSide s openByte 192 = true ∧ rangePoison s openByte 192 = false ∧ mapGet none s.att.blobKeys 0 = none ∧
    rangePoison (setPoison (sealedByte / 64) true s) sealedByte 64 = true ∧ rangePoison (setPoison (openByte / 64 + 2) true s) openByte 192 = true ∧
    headerGood (celGet s openByte 64) (blobOp true openByte sealedByte) = false := by decide +kernel

/-! ### The attic -/

def onAttic (f : Attic → Attic) (s : State) : State := { s with att := f s.att }
def hosted (s : State) : State := { s with hst := { s.hst with porst := false, perst := false, cfgReady := true } }
def req0 (cmd : Nat) : MbReq := { ticket := cmd, who := .host, bytes := [] }
theorem witness_Doorbell : hostReach (hosted (dev .blank)) = true ∧ (hosted (dev .blank)).att.queue.length < 16 ∧ (64 : Word).toNat = 64 ∧ (4096 : Word).toNat % 64 = 0 ∧
    ¬ (64 ≤ (4160 : Word).toNat ∧ (4160 : Word).toNat ≤ 4096 ∧ (4160 : Word).toNat % 64 = 0) ∧
    16 ≤ (onAttic (fun a => { a with queue := List.replicate 16 (req0 1) }) (hosted (dev .blank))).att.queue.length := by decide +kernel

/-- An unsigned request of the host: a command and its arguments, an empty body. -/
def request (cmd : Nat) (args : List Byte) : List Byte :=
  [0x53, 0x56, 0x5A, 0x4D] ++ leBytes 2 cmd ++ leBytes 2 (64 + roundUpTo (mbBodyLen cmd) 64) ++ [0, 0, 0, 0] ++ leBytes 4 deviceId ++ leBytes 8 0 ++
    leBytes 8 ((genBase + 2) * 2 ^ 20) ++ leBytes 4 4096 ++ args ++ List.replicate (28 - args.length + roundUpTo (mbBodyLen cmd) 64) 0#8
theorem request_id (cmd : Nat) (args : List Byte) : leAt (request cmd args) 0x0C 4 = deviceId := by
  have h : ((request cmd args).drop 0x0C).take 4 = leBytes 4 deviceId := rfl
  unfold leAt
  rw [h, leNat_leBytes4]
  exact Nat.mod_lt _ (by decide)
theorem request_format (cmd : Nat) (h : cmd ∈ mbCommands) : mbFormat (request cmd []) = true := by
  unfold mbFormat
  dsimp only
  rw [request_id]
  simp only [decide_true]
  revert cmd
  decide +kernel
theorem request_good (s : State) (b : List Byte) (hl : s.att.lifecycle = 0) (hb : mbFormat b = true) (hk : mbKind b = 0) :
    mbRefusal s { ticket := 0, who := .host, bytes := b } = none := by
  simp [mbRefusal, hb, hk, needsSig, hl, sigAccepted, sigVerifies, signerFits]
/-- Every command is served in lifecycle Blank, and refused with STATUS 1 where its bytes are no request. -/
theorem witness_Mailbox : (∀ q ∈ mbInstrs, mbRefusal (dev .blank) { ticket := 0, who := .host, bytes := request q.2 [] } = none ∧ mbCmd (request q.2 []) = q.2) ∧
    (∀ q ∈ mbInstrs, mbRefusal (dev .blank) { ticket := 0, who := .host, bytes := leBytes 4 0 ++ leBytes 2 q.2 ++ List.replicate 58 0#8 } = some 1 ∧
      mbCmd (leBytes 4 0 ++ leBytes 2 q.2 ++ List.replicate 58 0#8) = q.2) ∧
    (onAttic (fun a => { a with queue := [req0 1] }) (dev .blank)).att.queue = [req0 1] := by
  refine ⟨fun q h => ⟨request_good _ _ rfl (request_format _ ?_) rfl, ?_⟩, by decide +kernel, rfl⟩
  · revert q; decide +kernel
  · revert q; decide +kernel
/-- The arguments at their limits: LOG_READ of 1 and 256 entries, SET_MINVER, a key slot, the last cluster and lane, a lock of 600 s. -/
theorem witness_MailboxArgs : ∀ q ∈ [(0x02, leBytes 2 0 ++ leBytes 2 1), (0x02, leBytes 2 0 ++ leBytes 2 256), (0x02, leBytes 4 0), (0x23, leBytes 4 (2 ^ 24 - 1)), (0x23, leBytes 4 0),
      (0x30, [1, 15]), (0x31, [0, 15]), (0x40, [0, 0] ++ leBytes 2 271), (0x40, [0, 0] ++ leBytes 2 272), (0x41, [2, 0] ++ leBytes 2 255), (0x43, leBytes 2 600),
      (0x43, leBytes 2 601)],
    mbRefusal (dev .ready) { ticket := 0, who := .host, bytes := request q.1 q.2 } = none ∧ mbArg (request q.1 q.2) 0 4 = leNat ((q.2 ++ [0, 0]).take 4) := by
  intro q h
  refine ⟨request_good _ _ rfl ?_ rfl, ?_⟩
  · unfold mbFormat
    dsimp only
    rw [request_id]
    simp only [decide_true]
    revert q
    decide +kernel
  · revert q; decide +kernel
theorem witness_Retire : let s := dev .ready
    unitInRange 0 271 = true ∧ unitInRange 0 272 = false ∧ unitRole s 0 0 = .active ∧ hasSpare s 0 0 = true ∧ spareOf s 0 = some 16 ∧ logOf s 0 = some 0 ∧
    unitRole s 0 16 = .spare ∧ hasSpare (setRole 16 .retired s) 0 0 = false ∧ unitRole (setRole 16 .retired s) 0 16 = .retired ∧ unitRole s 2 255 = .absent ∧
    s.att.bists.contains (0, 16) = false ∧ s.att.lifecycle = 0 ∧ s.att.lcNext = 0 ∧ s.att.raises ≠ 0 ∧ s.att.minVer < 2 ^ 24 - 1 := by decide +kernel
theorem witness_Lifecycles : ∀ l ∈ [0, 1, 2, 3], ∀ n ∈ [0, 1, 2, 3], (onAttic (fun a => { a with lifecycle := l, lcNext := n }) (dev .safe)).att.lifecycle = l ∧
    (onAttic (fun a => { a with lifecycle := l, lcNext := n }) (dev .safe)).att.lcNext = n ∧ (onAttic (fun a => { a with lifecycle := l }) (dev .safe)).chip.devState = .safe := by
  decide +kernel

def rep (kind cls unit : Nat) : FaultRep := { kind := kind, cls := cls, unit := unit, detail := 0, epoch := 9, gen := 0 }
/-- `n` faults of a unit within the last second, of other epochs, before the one reported. -/
def faulty (n kind cls unit : Nat) (d : DevState) : State :=
  onAttic (fun a => { a with reports := [rep kind cls unit], hits := (List.range n).map (fun e => { cls := cls, unit := unit, epoch := e, gen := 0, time := 0 }) }) (dev d)
theorem witness_FaultReport : ∀ n ∈ [0, 1, 2], ∀ d ∈ [DevState.running, .ready], let s := faulty n 0x09 0 5 d
    s.att.reports = [rep 0x09 0 5] ∧ (s.att.hits.filter (fun h => h.cls = 0 && h.unit = 5 && decide (tb1Now s < h.time + secUnits))).length = n ∧
    s.att.hits.all (fun h => !(h.epoch = 9 && h.gen = 0)) = true ∧ s.att.bists.contains (0, 5) = false ∧ unitRole s 0 5 = .active ∧ hasSpare s 0 5 = true ∧
    mayRetire s 0 = true ∧ mayRetire s 1 = false ∧ s.chip.devState = d ∧ hasSpare (setRole 16 .retired s) 0 5 = false ∧
    (onAttic (fun a => { a with bists := [(0, 5)] }) s).att.bists.contains (0, 5) = true := by decide +kernel
theorem witness_FaultClassify : let s := onAttic (fun a => { a with outcomes := [{ index := 0, cls := 0, unit := 5, time := 0 }] }) (timeReach secUnits (dev .running))
    s.att.outcomes.countP (fun q => decide (q.time + secUnits ≤ tb1Now s)) = 1 ∧ s.att.outcomes.countP (fun q => decide (q.time + secUnits ≤ tb1Now (dev .running))) = 1 - 1 := by
  decide +kernel
/-- An entry with one and with two bits inverted. -/
def inverted (d : DevState) (l : List Nat) : State := { dev d with cl := { (dev d).cl with bpFlips := mapSet [] [] (kEntry 0 127 1023) l } }
theorem witness_ScrubRead : ∀ d ∈ [DevState.running, .ready], scrubCovers (inverted d []) (.bp 0 127 1023) = true ∧ imageLoaded (inverted d []) = true ∧
    scrubLook (inverted d []) (.bp 0 127 1023) = .clean ∧ scrubLook (inverted d [71]) (.bp 0 127 1023) = .corrected ∧
    scrubLook (inverted d [0, 71]) (.bp 0 127 1023) = .bad ∧ scrubCovers (inverted d []) (.bp 272 0 0) = false ∧ imageLoaded (dev .blank) = false := by decide +kernel
theorem witness_Sweep : (dev .ready).att.condemned = [] ∧ (dev .ready).att.rebuilding = [] ∧
    (copiesIn (onAttic (fun a => { a with condemned := [0] }) (dev .ready))).length < 3 ∧ 2 ∉ (onAttic (fun a => { a with condemned := [0] }) (dev .ready)).att.condemned := by
  decide +kernel
theorem witness_Rebuilt : ∀ l ∈ [[0], [0, 0]], let s := onAttic (fun a => { a with rebuilding := [2], rebuilds := [(2, l)] }) (dev .ready)
    s.att.rebuilding = [2] ∧ ((mapGet [] s.att.rebuilds 2).filter (fun t => decide (tb1Now s < t + secUnits))).length = l.length := by decide +kernel
theorem witness_Bist : let s := onAttic (fun a => { a with bists := [(0, 16)], flags := 0x1F }) (setRole 16 .retired (dev .ready))
    unitRole s 0 16 = .retired ∧ s.att.flags.getLsbD 4 = true ∧ s.att.bists = [(0, 16)] ∧ s.att.passed = [] ∧ spareOf s 0 = none ∧
    (onAttic (fun a => { a with bists := [] }) s).att.bists.contains (0, 16) = false ∧
    spareOf (setRole 0 .retired (dev .ready)) 0 ≠ none ∧ unitRole (setRole 0 .retired (dev .ready)) 0 0 = .retired := by decide +kernel
/-- A time that is now, and one that is to come. -/
theorem witness_Expiry : ∀ x ∈ [0, 1], let s := onAttic (fun a => { a with lockUntil := some x, challenge := some ([], x), grantsUntil := some x }) (dev .ready)
    s.att.lockUntil = some x ∧ s.att.challenge = some ([], x) ∧ s.att.grantsUntil = some x ∧ (x ≤ tb1Now s ↔ x = 0) := by decide +kernel
theorem witness_SoftError : (dev .ready).chip.devState ≠ .off ∧ mapGet [] (dev .ready).cl.bpFlips (kEntry 271 127 1023) = [] := by decide +kernel

/-! ### Trace, JTAG, host and temperature -/

def tracing (k : Nat) (v : Nat) (s : State) : State := wrReg s (trcA (0x100 + 4 * k)) (BitVec.ofNat 32 v)
theorem witness_TrcSrc : ∀ k ∈ [0, 15], reachB (tracing 7 0x1FF (dev .ready)) .i2c (trcA (0x100 + 4 * k)) = true ∧
    (List.range 16).any (fun j => j ≠ k && bit (trcCfg (tracing 7 0x1FF (dev .ready)) j) 8 && fld (trcCfg (tracing 7 0x1FF (dev .ready)) j) 0 8 = fld (0x1FF : Word) 0 8) = true ∧
    (List.range 16).any (fun j => j ≠ k && bit (trcCfg (tracing 7 0x1FF (dev .ready)) j) 8 && fld (trcCfg (tracing 7 0x1FF (dev .ready)) j) 0 8 = fld (0x105 : Word) 0 8) = false ∧
    bit (trcCfg (tracing 15 0x105 (dev .ready)) 15) 8 = true ∧ bit (trcCfg (dev .ready) k) 8 = false := by decide +kernel
theorem witness_TrcCtrl : reachB (dev .ready) .i2c (trcA 0) = true ∧ quadFree (dev .ready) 63 = true ∧ quadFree (wrFld (dev .ready) (laneA 255 4) 2 2 1) 63 = false ∧
    reachB (wrFld (dev .ready) (laneA 255 4) 2 2 1) .i2c (trcA 0) = true ∧ fld (0xFE : Word) 0 2 = 2 ∧ fld (0xFE : Word) 2 6 = 63 ∧
    fld (rdReg (dev .ready) (trcA 0)) 0 2 ≠ 2 := by decide +kernel
/-- The funnel in the slots around an ALIGN frame, with 0, 14 and 15 bytes in the FIFO of source 3. -/
def funnel (port slot n : Nat) : State :=
  let s := putSrc 3 { TrcSrc.reset with fifo := List.replicate n 9#8 } (wrReg (dev .running) (trcA 0) (BitVec.ofNat 32 port))
  { s with trc := { s.trc with slot := slot } }
theorem witness_TraceFrame : ∀ port ∈ [1, 2], ∀ slot ∈ [3, 4, 259, 260], rdFld (funnel port slot 0) (trcA 0) 0 2 = port ∧ (funnel port slot 0).trc.slot = slot ∧
    nextSrc (funnel port slot 15) (fun n => 15 ≤ n) = some 3 ∧ nextSrc (funnel port slot 14) (fun n => 15 ≤ n) = none ∧
    nextSrc (funnel port slot 14) (fun n => 0 < n) = some 3 ∧ nextSrc (funnel port slot 0) (fun n => 0 < n) = none ∧
    rdFld (funnel 0 slot 0) (trcA 0) 0 2 = 0 := by decide +kernel
theorem witness_LowPower : let s := tracing 0 0x100 (putCore 0 { Steward.reset with run := .waiting, gated := false, parked := false } (dev .running))
    stwAwake s 0 = true ∧ (coreOf s 0).run = .waiting ∧ (coreOf s 0).gated = false ∧ sourceFor s 0 = some 0 ∧ excluded s 0 0 = false ∧ (srcOf s 0).atoms = [] ∧
    (srcOf s 0).drop = none ∧ (srcOf s 0).fifo.length ≤ 1000 := by decide +kernel
theorem witness_GrantExpiry : let s := tracing 15 0x100 (setBit (putCore 0 { Steward.reset with priv := 2 } { dev .ready with att := { (dev .ready).att with lifecycle := 1, grantsUntil := some 0 } }) (attA 0) 16)
    s.att.grantsUntil = some 0 ∧ 0 ≤ tb1Now s ∧ s.att.lifecycle ≠ 0 ∧ rdBit s (attA 0) 16 = true ∧ bit (trcCfg s 15) 8 = true ∧
    (coreOf s (physOf s (fld (trcCfg s 15) 0 8))).priv = 2 ∧ (srcOf s 15).excl = none ∧ (srcOf s 15).atoms = [] ∧ (srcOf s 15).drop = none ∧
    (srcOf s 15).fifo.length < 1024 := by decide +kernel
def tapped (f : Jtag → Jtag) (s : State) : State := { s with trc := { s.trc with jtag := f s.trc.jtag } }
theorem witness_Jtag : State.reset.chip.devState = .off ∧ (dev .blank).chip.devState ≠ .off ∧ (∀ l, l < 64 → linkState (dev .blank) l ≠ 8) ∧
    drivesPins (dev .blank).trc.jtag.ir = false ∧ linkState (wrFld (dev .ready) (linkA 63 0xC) 0 4 8) 63 = 8 ∧ (List.replicate 1217 true).length = 1217 := by decide +kernel
theorem witness_Dbgacc : (dev .ready).trc.jtag.accBusy = false ∧ (tapped (fun j => { j with accBusy := true }) (dev .ready)).trc.jtag.accBusy = true ∧
    granted (dev .ready) 2 = true ∧ granted { dev .ready with att := { (dev .ready).att with lifecycle := 2 } } 2 = false ∧
    openToJtag (dev .ready) (sprA 4) true = false ∧ reachB (dev .ready) .jtag (hstA 0x20) = true ∧ (regRow (hstA 0x20)).any (fun r => r.rule = .plain) = true := by decide +kernel
theorem witness_Dbgacc_stores : StoresOnly (hstA 0x20) := by unfold StoresOnly; decide +kernel
theorem witness_Dbgmb : ∀ n ∈ [1022, 1023, 1024], let s := tapped (fun j => { j with mb := List.replicate (4 * n) 0#8 }) (dev .ready)
    ((s.trc.jtag.mb ++ leBytes 4 (5 : Word).toNat).length ≤ 4096 ↔ n ≤ 1023) ∧ s.att.queue.length < 16 ∧
    16 ≤ ({ s.att with queue := List.replicate 16 (req0 1) } : Attic).queue.length := by decide +kernel

/-- A reading above T_TRIP and one below T_WARN - 3 °C in either grade. -/
theorem witness_Thermal (j : Nat) (hj : j < 24) : tripAt j ≤ (600 : BitVec 16).toInt ∧ warnAt j ≤ (600 : BitVec 16).toInt ∧ (0 : BitVec 16).toInt ≤ warnAt j - 12 := by
  unfold tripAt warnAt thresholds
  cases Config.gradeE <;> revert j <;> decide +kernel
def hot : State := { dev .safe with hst := { (dev .safe).hst with thermHold := true, therm := true } }
theorem witness_Thermhold : hot.hst.thermHold = true ∧ (∀ i, i < 24 → i ≠ 23 → tempOf hot i = none) ∧ (dev .ready).hst.therm = false ∧
    (gateOf (putGate 15 { Gate.reset with phase := .off, wake := 1 } hot) 15).wake ≠ 0 := by decide +kernel
theorem witness_HostDoorbell_all : ∀ m ∈ [0, 255], reachB (dev .ready) .i2c (hstA (0x800 + 4 * m)) = true := by decide +kernel
def vectors (en un d3 : Bool) (v : Nat) : State :=
  let s := if d3 then setBit (hosted (dev .ready)) (hstA 0) 11 else hosted (dev .ready)
  { s with hst := { s.hst with msixEn := en, unmasked := mapSet false [] v un, msixPend := [(v, true)] } }
theorem witness_Fwirq : ∀ en ∈ [true, false], ∀ un ∈ [true, false], ∀ d3 ∈ [true, false], reachB (vectors en un d3 64) .i2c (hstA 0x10) = true ∧
    (vectors en un d3 64).hst.msixEn = en ∧ mapGet false (vectors en un d3 64).hst.unmasked 64 = un ∧ rdBit (vectors en un d3 64) (hstA 0) 11 = d3 ∧
    fld (64 : Word) 0 8 = 64 ∧ fld (63 : Word) 0 8 = 63 ∧ mapGet false (vectors en un d3 63).hst.msixPend 63 = true := by decide +kernel
theorem witness_Msix : (vectors false true false 8).hst.porst = false ∧ (vectors false true false 8).hst.perst = false ∧ (vectors false true false 8).hst.cfgReady = true ∧
    rdBit (setBit (vectors false true false 8) (hstA 4) 8) (hstA 4) 8 = true ∧ rdBit (setBit (vectors false true false 63) (dmaA 4) 31) (dmaA 4) 31 = true := by decide +kernel
theorem witness_Flash : reachB (setImg 10 (dev .ready)) .i2c (hstA 0x30) = true ∧ lockOpen (setImg 10 (dev .ready)) = true ∧
    lockOpen (onAttic (fun a => { a with lifecycle := 2 }) (dev .ready)) = false ∧ (setImg 10 (dev .ready)).hst.flash = false ∧ imgState (setImg 10 (dev .ready)) ≠ 1 ∧ imgState (setImg 1 (dev .ready)) = 1 ∧
    reachB (onAttic (fun a => { a with lifecycle := 2 }) (dev .ready)) .i2c (hstA 0x30) = true ∧
    ({ (dev .ready).hst with flash := true } : HostIf).flash = true := by decide +kernel
theorem witness_I2c : (dev .ready).hst.i2cBusy = false ∧ (dev .ready).hst.i2cAddr ∉ [imgA 0, sprA 0, hstA 8] ∧ (dev .ready).chip.shellUp = true ∧
    ({ (dev .ready).hst with i2cBusy := true } : HostIf).i2cBusy = true ∧ ({ (dev .ready).hst with i2cAddr := hstA 8 } : HostIf).i2cAddr = hstA 8 := by decide +kernel

/-! ### The invariant -/

theorem witness_Canon : Canon State.reset ∧ MapOk State.reset ∧ step State.reset = .next State.reset := by
  refine ⟨⟨⟨by simp [State.reset], by simp [State.reset]⟩, by simp [Memory.wf, mapWf, State.reset, Cellar.reset]⟩, ?_, rfl⟩
  intro m h
  simp [physOf, State.reset, Chip.reset, mapGet, idMap]
  omega

/-! ### Well-formed commands: one ill-formed term for each check, which the check refuses, beside one that it accepts -/

def someHdr : SpringHdr := { link := 63, seq := 0, gen := 0 }
def someTs : TrainSet := { lane := 255, shape := 0, rate := 0, target := 0, slots := 0, device := 4095, link := 63, good := true }
/-- The last operand of each kind, and the one behind it. -/
theorem test_wellformed_refuses :
    [Instr.plain 256 0 0, .plain 0 128 0, .plain 0 0 1024, .weAdd 0 8 0, .aluAdd 272, .strCntClr .host 0 4, .bpcInjWrite .host 0 0 3 0,
     .ldAck 64 0, .laneLockLost 256, .shelfPhaseDone 16 true, .borderModeWrite .host 0 16384 0, .signalItemRelease 0 32 0 0,
     .cellarRead .host (2 ^ 30) .pass, .reserveCopyDone 128 [], .rekeyDone 4, .pulseEdge 8, .lawInForce 0, .lawInForce 4, .dmaChannelActive 32,
     .free 0 64, .flush 0 128, .gpioRisingEdge 16, .thermalWarning 24 0, .trcSrcWrite .host 16 0, .remoteAccess .host 192 0 false 0,
     .remoteAccess .host 0 (2 ^ 32) false 0, .responseFlit 1024, .gateRequest .host (2 ^ 40 + 2 ^ 16) false 0, .seal .host 256,
     .arm (.steward 272) 0, .arm (.core 272) 0, .arm (.dma 32) 0, .arm (.remote 4096 0) 0, .arm (.remote 0 65536) 0, .stwDbgWrite .host 0 0x100000 0,
     .rbDone { someHdr with link := 64 }, .rbDone { someHdr with lane := 256 }, .ts1 0 { someTs with lane := 256 },
     .ts1 0 { someTs with device := 4096 }, .ts1 0 { someTs with link := 64 }, .scrubRead (.bp 272 0 0), .scrubRead (.bp 0 128 0),
     .scrubRead (.we 0 8 0), .scrubRead (.table (2 ^ 40 + 2 ^ 16)), .softError (.bp 0 0 0 [80]), .softError (.pond 0 0 512 []),
     .softError (.pond 0 0 0 [9]), .softError (.we 0 0 0 [72]), .softError (.row 0 4 0 []), .softError (.row 0 0 4096 []), .softError (.row 0 0 0 [72]),
     .softError (.table 0 [33]), .softError (.cache 0 577), .softError (.icache 272 0), .softError (.pool 0 0 4096 0), .softError (.pool 0 0 0 40),
     .softError (.cellar 0 [512]), .feedWrite .host 0 [], .feedWrite .host 0 [1, 2, 3], .ldData 0 0 0 [], .cellarWrite .host 0 0 [] .pass].all
      (fun i => !i.wf) = true := by decide +kernel
theorem test_wellformed_accepts :
    [Instr.plain 255 127 1023, .weAdd 255 7 1023, .aluAdd 271, .strCntClr .host 255 3, .bpcInjWrite .host 255 127 2 0, .ldAck 63 0, .laneLockLost 255,
     .shelfPhaseDone 15 true, .borderModeWrite .host 15 16383 0, .signalItemRelease 63 31 0 1023, .cellarRead .host (2 ^ 30 - 1) .pass,
     .reserveCopyDone 127 [], .rekeyDone 3, .pulseEdge 7, .lawInForce 1, .lawInForce 3, .dmaChannelActive 31, .free 271 63, .flush 271 127,
     .gpioRisingEdge 15, .thermalWarning 23 0, .trcSrcWrite .host 15 0, .remoteAccess .host 191 (2 ^ 32 - 1) false 0, .responseFlit 1023,
     .gateRequest .host (2 ^ 40 + 2 ^ 16 - 1) false 0, .seal .host 255, .arm (.remote 4095 65535) 0, .rbDone someHdr, .ts1 63 someTs,
     .scrubRead (.bp 271 127 1023), .softError (.bp 271 127 1023 [79]), .softError (.cache (2 ^ 30 - 1) 576), .feedWrite .host 0 [1, 2, 3, 4],
     .ldData 63 0 0 [1]].all (fun i => i.wf) = true := by decide +kernel

/-! ### Worked examples of the manual -/

/-- The example of the four-step fragment (chapter 02): the fields of the step-1 instruction of BP 6. -/
theorem test_bp_fields : let w := 0x000681503C030081D0#72
    bpLut w = 6 ∧ bpA w = 517 ∧ bpB w = 259 ∧ bpC w = 768 ∧ bpD w = 768 ∧ bpDst w = 259 ∧ bpWe w = true ∧ bpMode w = 1 ∧ bpExp w = 0 ∧ bpKind w = .stateWrite := by
  decide +kernel
/-- The same fragment: y = (a AND b) OR c, z = y XOR q, w = NOT z, u = w OR y. -/
theorem test_bp_results : bpResult (bpWord 0x00F8 256 257 258 768 20 1 0 0) 0xF0 0xCC 0x01 0 = 0xC1 ∧
    bpResult (bpWord 0x0006 517 259 768 768 259 1 1 0) 0xC1 0x0F 0 0 = 0xCE ∧ bpResult (bpWord 1 387 768 768 768 0 0 2 0) 0xCE 0 0 0 = 0x31 ∧
    bpResult (bpWord 0x000E 518 20 768 768 0 0 0 1) 0x31 0xC1 0 0 = 0xF1 := by decide +kernel
/-- The 96-bit add (chapter 03): the fields of the first word, and the three sums with their carries. -/
theorem test_we_fields : let w := 0x04E4040800000000#64
    weOpOf (weCode w) = some .oAdd ∧ weRd w = 3 ∧ weWr w = true ∧ weCin w = 0 ∧ weCout w = true ∧ weSa w = 1 ∧ weSb w = 2 ∧ weImm w = 0 := by decide +kernel
theorem test_we_add96 : weAlu .oAdd 0xFFFFFFFF 1 false false = 0 ∧ weCarry .oAdd 0xFFFFFFFF 1 false = true ∧ weAlu .oAdd 0xFFFFFFFF 0 true false = 0 ∧
    weCarry .oAdd 0xFFFFFFFF 0 true = true ∧ weAlu .oAdd 1 0 true false = 2 := by decide +kernel
/-- The record example of chapter 11: every word decodes to its instruction. -/
theorem test_stw_words : [0x02024008, 0x02425C00, 0x06801002, 0x040A1000, 0x040C1004, 0x008E500F, 0x02D07001, 0x9C402300].map
      (fun n => (stwDecode (BitVec.ofNat 32 n)).map (fun i => i.row)) =
    [some .lui, some .llo, some (.cmo 2), some .lw, some .lw, some .andi, some .cmpi, some .post] := by decide +kernel
theorem test_stw_lui_llo : let i : StwIns := { row := .lui, word := 0x02024008 }
    let j : StwIns := { row := .llo, word := 0x02425C00 }
    i.rd = 1 ∧ stwResult i 0 0 0 = 0x20040000 ∧ j.rd = 1 ∧ stwResult j 0 0 0x20040000 = 0x20045C00 := by decide +kernel
theorem test_stw_fields : let p : StwIns := { row := .post, word := 0x9C402300 }
    p.pen = true ∧ fld p.word 28 2 = 1 ∧ p.rd = 0 ∧ p.ra = 2 ∧ p.rb = 6 ∧ (let c : StwIns := { row := .cmpi, word := 0x02D07001 }
    c.pd = 1 ∧ c.cc = 0 ∧ c.ra = 7 ∧ c.imm12s = 1) := by decide +kernel
/-- The addresses of BPC_INJ_EN (chapter 17), FAB_WIN_9 and HSL_ETX_12 (chapter 04). -/
theorem test_addresses : targetOf 0x132294A00 = .logical 200 (0x290000 + 37 * 0x200) ∧ targetOf 0x12D2A1224 = .logical 180 0x2A1224 ∧
    linkA 5 (0x800 + 48) = 0x01805830 := by decide +kernel
/-- The bitmap line of chapter 14: region, entry and pseudo-channel in the acquisition pool, and the address of its ciphertext. -/
theorem test_bitmap_line : let s := { dev .running with cel := { (dev .running).cel with areas := [{ first := 48, count := 16, pool := 2 }] } }
    lineRegion 860997 = 52 ∧ 860997 % 16384 = 9029 ∧ lineEntry s 860997 = 5 ∧ linePc s 860997 = 43 ∧ targetOf 0x100348D140 = .cellar (860997 * 64) := by decide +kernel
/-- The timed train of chapter 10: START, PERIOD and WIDTH as the registers give them. -/
theorem test_pulse_train : let w := fun (o v : Nat) (s : State) => wrReg s (plsA 3 o) (BitVec.ofNat 32 v)
    let s := w 0 0xB2800000 (w 4 0xB3000EE6 (w 8 0x0000713F (w 0xC 0x01312D00 (w 0x14 0x9C40 (dev .ready)))))
    plsStart s 3 = (1900000000 * 1000000000 + 250000000) * 65536 ∧ plsPeriodRaw s 3 = 20000000 ∧ plsWidthRaw s 3 = 40000 := by decide +kernel
/-- The value that a CRC-32 of this polynomial gives for the digits 1 to 9 (general knowledge, not of the manual). -/
theorem test_crc32 : crc32 [0x31, 0x32, 0x33, 0x34, 0x35, 0x36, 0x37, 0x38, 0x39] = 0xCBF43926 := by decide +kernel

/-! ### Single commands -/

def after (c : Instr) (s : State) : State := nx (exec c s) s
theorem test_addi : gRead (coreOf (after (.addi 0) (here .addi id)) 0) 3 = 12 ∧ (coreOf (after (.addi 0) (here .addi id)) 0).pc = 0x44 := by decide +kernel
theorem test_divs_rems : gRead (coreOf (after (.divs 0) (here (.alu 0x0D) id)) 0) 3 = 0xFFFFFFFE ∧ gRead (coreOf (after (.rems 0) (here (.alu 0x0F) id)) 0) 3 = 1 := by
  decide +kernel
theorem test_sys : let c := coreOf (after (.sys 0) (here .sys id)) 0
    c.esr = 0x00050009 ∧ c.epc = 0x40 ∧ c.exl = true ∧ c.pc = c.evec := by decide +kernel
theorem test_sw : let s := after (.sw 0) (memRow .sw)
    ((cacheLine s line128).bind (fun x => x.owner)).map (fun q => (q.2.drop 60).take 4) = some [0x34, 0x12, 0, 0] := by decide +kernel
theorem test_gcall : (coreOf (after (.gcall 0) (here .gcall id)) 0).pc = 0xF00000C0 ∧ (coreOf (after (.gcall 0) (here .gcall id)) 0).gra = 0x44 := by decide +kernel
/-- A post to flow 17 wakes slot 3 (chapter 12): READY, WHY FLOW. -/
theorem test_post_wakes : let x := schedOf (after (.tskPost .i2c 0 17 0x12C40) waiter17) 0
    (slotOf x 3).state = 1 ∧ (slotOf x 3).why = 1 ∧ (flowOf x 17).items = [{ value := 0x12C40, flips := 0 }] := by decide +kernel
theorem test_idcode : (after .tapReset (dev .blank)).trc.jtag.dr = 0x17240C35 := by decide +kernel
theorem test_step_front : step { dev .ready with pending := [.tapReset, .idcode] } = exec .tapReset { dev .ready with pending := [.idcode] } := rfl

end Sys2Proof.Tests
end

section
/-! PROOFS. Writes of registers that only store their bits (R6). -/

namespace Sys2Proof.Machine

/-- R6, bit by bit: `storeReg` leaves at its address what `bitWritten` says. -/
theorem bit_rdReg_storeReg (r : RegRow) (a : Nat) (v : Word) (s : State) {i : Nat} (hi : i < 32) :
    bit (rdReg (storeReg r a v s) a) i = bitWritten r (lockOpen s) (rdReg s a) v i := by
  have mask : (r.rw ||| if lockOpen s then r.rwl else 0).testBit i = (r.rw.testBit i || (lockOpen s && r.rwl.testBit i)) := by
    cases lockOpen s <;> simp
  rw [show rdReg (storeReg r a v s) a = _ from rdReg_wrReg_same s a _]
  simp only [bit, bitWritten, BitVec.getLsbD_or, BitVec.getLsbD_and, BitVec.getLsbD_not, BitVec.getLsbD_ofNat, mask, hi,
    decide_true, Bool.true_and]
  cases r.rw.testBit i || (lockOpen s && r.rwl.testBit i) <;> cases v.getLsbD i <;> simp

/-- `storeReg` leaves every other register and every other piece of state. -/
theorem storeReg_onlyRegs (r : RegRow) (a : Nat) (v : Word) (s : State) : OnlyRegs s (storeReg r a v s) [a] := by
  refine ⟨fun b hb => ?_, rfl⟩
  have hne : b ≠ a := fun e => hb (by simp [e])
  exact ⟨rdReg_wrReg_other s _ hne, mapGet_mapDel_other hne⟩

/-- The addresses of `StoresOnly` are those of always-on blocks, outside the feed window. -/
theorem StoresOnly.targetOf_eq {a : Nat} (h : StoresOnly a) : targetOf a = .reg a ∧ ¬ (imgA 0x8000 ≤ a ∧ a < imgA 0x10000) := by
  simp only [StoresOnly, sprA, imgA, dmaA, pwrA, hstA] at h ⊢
  exact ⟨if_pos (by omega), by omega⟩

/-- The DMA block below its channels only stores. -/
theorem dmaWrite_below_channels (r : RegRow) {o : Nat} (h : o < 0x100) (v : Word) (s : State) :
    dmaWrite r o v s = (.ok, storeReg r (dmaA o) v s) := if_neg (by omega)

/-- The host block below 0x100 only stores, but for FWIRQ and the flash. -/
theorem hstWrite_below_crate (r : RegRow) {o : Nat} (h : o < 0x100) (h1 : o ≠ 0x10) (h2 : o ≠ 0x30) (v : Word) (s : State) :
    hstWrite r o v s = (.ok, storeReg r (hstA o) v s) := by
  unfold hstWrite
  rw [if_neg h1, if_neg h2, if_neg (by omega), if_neg (by omega)]

/-- A write of a register that only stores is accepted and does nothing but store, in each block of `StoresOnly`. -/
theorem regWrite_storesOnly {a : Nat} {r : RegRow} (h : StoresOnly a) (hr : regRow a = some r) (hp : r.rule = .plain)
    (who : Requester) (v : Word) (s : State) : regWrite who a v s = (.ok, storeReg r a v s) := by
  have takes : ruleOpen r s = true := by simp [ruleOpen, hp]
  simp only [StoresOnly, sprA, imgA, dmaA, pwrA, hstA] at h
  unfold regWrite
  simp only [hr, takes, Bool.true_eq_false, or_false]
  rw [if_neg (by omega)]
  rcases h with spr | dma | pwr | hst
  · rw [if_pos (by omega)]
    split
    · omega
    · omega
    · rfl
  · iterate 4 rw [if_neg (by omega)]
    rw [if_pos (by omega), dmaWrite_below_channels r (by omega), show dmaA (a - 0x50000) = a from Nat.add_sub_cancel' dma.1]
  · iterate 9 rw [if_neg (by omega)]
    rw [if_pos (by omega)]
  · obtain ⟨low, high, notFwirq, notFlash⟩ := hst
    iterate 8 rw [if_neg (by omega)]
    rw [if_pos (by omega), hstWrite_below_crate r (by omega) (by omega) (by omega),
      show hstA (a - 0x90000) = a from Nat.add_sub_cancel' low]

end Sys2Proof.Machine

open Sys2Proof Sys2Proof.Machine

/-- Settles O8: the access reaches its register (`request_reg`), the write of which is one `storeReg` (`regWrite_storesOnly`). -/
theorem registerWriteStoresByType : Obligations.RegisterWriteStoresByType := by
  intro s who a v r hreach hst hrow hrule
  obtain ⟨htarget, hfeed⟩ := hst.targetOf_eq
  refine ⟨storeReg r a v s, ?_, storeReg_onlyRegs r a v s, fun i hi => bit_rdReg_storeReg r a v s hi⟩
  have hexec : exec (.regWrite who a 4 v) s = .next (request who a true v s) := rfl
  rw [hexec, request_reg hreach htarget hfeed, regWrite_storesOnly hst hrow hrule]

end

section
/-! PROOFS. Every command completes and keeps the queue, the canonical form and the map of the clusters (R17, R18). -/

namespace Sys2Proof.Machine

/-- The outcome is a next state, which keeps what every command keeps. -/
def Completes (s : State) (o : Out) : Prop := ∃ t, o = .next t ∧ Keeps s t

theorem Completes.next {s t : State} (h : Keeps s t) : Completes s (.next t) := ⟨t, rfl, h⟩

/-! ### Commands that are control accesses -/

theorem writeAt_completes (who : Requester) (a : Nat) (v : Word) (s : State) : Completes s (writeAt who a v s) :=
  .next (request_keeps (.refl s) ..)

/-- The access goes through a cluster window, or there is none. -/
theorem execModelStateAccess_completes (who : Requester) (a : Nat) (write : Bool) (v : Word) (s : State) :
    Completes s (execModelStateAccess who a write v s) := by
  unfold execModelStateAccess
  refine .next ?_
  split
  · exact request_keeps (.refl s) ..
  · exact request_keeps (.refl s) ..
  · exact .refl s

/-- The access is of a shelf domain, or there is none. -/
theorem execGateRequest_completes (who : Requester) (a : Nat) (write : Bool) (v : Word) (s : State) :
    Completes s (execGateRequest who a write v s) := by
  unfold execGateRequest
  refine .next ?_
  split
  · exact request_keeps (.refl s) ..
  · exact request_keeps (.refl s) ..
  · exact request_keeps (.refl s) ..
  · exact .refl s

/-! ### Every command -/

/-- A command is one operation of its unit, or that operation under a condition without which the state stays: each operation
keeps (Laws/Keeps*.lean). The cases stand in the order of the commands' chapters. -/
theorem exec_completes (c : Instr) (s : State) : Completes s (exec c s) := by
  have k : Keeps s s := .refl s
  match c with
  -- Resets and Boot (chapter 06, 17)
  | .porstAssert => exact .next (porstAssert_keeps k)
  | .porstRelease => exact .next (porstRelease_keeps k)
  | .perstAssert => exact .next (perstAssert_keeps k)
  | .configReady => exact .next (configReady_keeps k)
  | .bootStageDone .. => exact .next (bootStageDone_keeps k ..)
  | .bootStageTimeout => exact .next (bootStageTimeout_keeps k)
  | .shellFrame .. => exact .next (shellFrame_keeps k ..)
  | .shellVerified => exact .next (shellVerified_keeps k)
  -- Control accesses (chapter 01)
  | .regWrite .. | .wideReadCapture .. => exact .next (requestLen_keeps k ..)
  | .timNowCapture .. => exact .next (request_keeps k ..)
  | .modelStateAccess .. => exact execModelStateAccess_completes ..
  | .remoteAccess .. => exact .next (.ite (request_keeps k ..) k)
  | .remoteAccessTimeout .. => exact .next (remoteTimeout_keeps k ..)
  | .responseFlit .. => exact .next (responseFlit_keeps k ..)
  -- Ticks and Boolean processors (chapters 02, 05)
  | .tickStart .. => exact .next (tickStartEv_keeps k ..)
  | .plain .. | .nop .. | .stateWrite .. | .injectPoint .. | .sel .. | .swaphint .. | .rowcopy .. | .probe .. =>
    exact .next (bpExec_keeps k ..)
  | .bpcInjWrite .. | .bpcCntClr .. => exact .next (.ite (request_keeps k ..) k)
  -- Word engines and store rooms (chapter 03)
  | .weNop .. | .weAdd .. | .weSub .. | .weMov .. | .weAnd .. | .weOr .. | .weXor .. | .weAndn .. | .weShl .. | .weShr .. |
    .weSar .. | .weRol .. | .wePopc .. | .weClz .. | .weSel .. | .weCeq .. | .weCne .. | .weCltu .. | .weCgeu .. |
    .weClts .. | .weCges .. | .weMul .. | .weMac .. | .weMacc .. | .weSrd .. | .weSwr .. =>
    exact .next (weExec_keeps k ..)
  | .macUpdateComplete .. => exact .next (macComplete_keeps k ..)
  | .srdDataReady .. => exact .next (srdReady_keeps k ..)
  | .pageFillDone .. => exact .next (.ite (pageFillDone_keeps k ..) k)
  | .wenCntClr .. | .strCntClr .. => exact .next (.ite (request_keeps k ..) k)
  -- Epochs, the spring and rollback (chapter 05)
  | .tickOverhead => exact .next (tickOverhead_keeps k)
  | .stageWriteDone .. => exact .next (stageWriteDone_keeps k ..)
  | .boundaryExtension => exact .next (boundaryExtension_keeps k)
  | .ckptWriteResponse .. => exact .next (ckptResponse_keeps k ..)
  | .drainLate .. => exact .next (drainLate_keeps k ..)
  | .sendPassVote .. => exact .next (sendPass_keeps k ..)
  | .voteTimeout => exact .next (voteTimeout_keeps k)
  | .start .. => exact .next (startEv_keeps k ..)
  | .runSegmentStart => exact .next (runSegmentStart_keeps k)
  | .decide .. => exact .next (decideEv_keeps k ..)
  | .cen .. => exact .next (cenEv_keeps k ..)
  | .hold .. => exact .next (holdEv_keeps k ..)
  | .vote .. => exact .next (voteEv_keeps k ..)
  | .commit .. => exact .next (commitEv_keeps k ..)
  | .rollback .. => exact .next (rollbackEv_keeps k ..)
  | .restoreDone => exact .next (restoreDone_keeps k)
  | .rbDone .. => exact .next (rbDoneEv_keeps k ..)
  | .rbFail .. => exact .next (rbFailEv_keeps k ..)
  | .req .. => exact .next (reqEv_keeps k ..)
  | .reject .. => exact .next (rejectEv_keeps k ..)
  | .sprCtrlRun .. | .sprCtrlHold .. | .sprCtrlResume .. | .sprCtrlForceRb .. | .sprCenWrite .. => exact writeAt_completes ..
  -- Loading (chapter 06)
  | .load .. | .reload .. | .abort .. | .shellFeed .. | .reboot .. | .borderModeWrite .. => exact writeAt_completes ..
  | .feedWrite .. => exact .next (feedRequest_keeps k ..)
  | .ldBegin .. => exact .next (ldBegin_keeps k ..)
  | .ldAck .. => exact .next (ldAck_keeps k ..)
  | .ldAckTimeout | .loadStallTimeout => exact .next (.ite (rootAbort_keeps k ..) k)
  | .ldData .. => exact .next (ldData_keeps k ..)
  | .loadChecksDone => exact .next (loadChecksDone_keeps k)
  | .ldVote .. => exact .next (ldVote_keeps k ..)
  | .ldCommit .. => exact .next (ldCommitMsg_keeps k ..)
  | .enterReady => exact .next (enterReady_keeps k)
  | .ldReady .. => exact .next (ldReady_keeps k ..)
  | .ldAbort .. => exact .next (ldAbortMsg_keeps k ..)
  | .linkWaitTimeout => exact .next (.ite (.ite (rootAbort_keeps k ..) (sendVote_keeps k ..)) k)
  | .reloadVerified => exact .next (reloadVerified_keeps k)
  | .reloadWritesDone => exact .next (reloadWritesDone_keeps k)
  -- Shell delivery and remote accesses (chapters 06, 08, 09)
  | .shFrame .. => exact .next (shFrame_keeps k ..)
  | .shReq .. => exact .next (shReq_keeps k ..)
  | .rreq .. => exact .next (rreq_keeps k ..)
  | .rrsp .. => exact .next (rrsp_keeps k ..)
  -- Compare and acquisition (chapter 07)
  | .moverRecord => exact .next (moverRecord_keeps k)
  | .moverEpochDone => exact .next (moverEpochDone_keeps k)
  | .arm .. | .disarm .. | .trig .. | .sweepClr .. | .cmpNotifyWrite .. => exact writeAt_completes ..
  | .acqControlWrite .. | .cmpStagedWrite .. => exact .next (.ite (request_keeps k ..) k)
  | .gpioRisingEdge .. => exact .next (gpioEdge_keeps k ..)
  -- Hersel links (chapter 08)
  | .ts1 .. => exact .next (ts1_keeps k ..)
  | .ts2 .. => exact .next (ts2_keeps k ..)
  | .mark .. => exact .next (markEv_keeps k ..)
  | .markReturn .. => exact .next (markReturn_keeps k ..)
  | .markEcho .. => exact .next (markEcho_keeps k ..)
  | .linkStateDone .. => exact .next (linkTrained_keeps k ..)
  | .linkStageTimeout .. => exact .next (watchTree_keeps (linkStageTimeout_keeps k ..))
  | .retrain .. | .laneCtrlWrite .. | .laneCntClr .. | .linkLoopbackWrite .. | .spWmWrite .. =>
    exact .next (.ite (request_keeps k ..) k)
  | .laneLockLost .. => exact .next (watchTree_keeps (laneLockLost_keeps k ..))
  | .signal .. => exact .next (signalEv_keeps k ..)
  | .signalItemRelease .. => exact .next (signalRelease_keeps k ..)
  | .streamStart .. => exact .next (streamStart_keeps k ..)
  | .streamData .. => exact .next (streamData_keeps k ..)
  | .service .. => exact .next (serviceEv_keeps k ..)
  | .serviceResendTimeout .. => exact .next (.ite (watchTree_keeps (svcResend_keeps k ..)) k)
  | .sample .. => exact .next (sampleEv_keeps k ..)
  | .mgmt .. => exact .next (mgmtEv_keeps k ..)
  | .idle .. => exact .next (.ite (laneCrc_keeps k ..) k)
  | .reservedFlit .. => exact .next (reservedFlit_keeps k ..)
  | .swap .. => exact .next (swapEv_keeps k ..)
  | .swapAck .. => exact .next (swapAck_keeps k ..)
  | .swapSwitch .. => exact .next (.ite (swapSwitch_keeps k ..) k)
  | .bistOn .. => exact .next (bistOn_keeps k ..)
  | .bistOff .. => exact .next (.ite (sendMgmt_keeps (putLink_keeps k ..) ..) k)
  | .laneBistDone .. => exact .next (laneBistEnd_keeps k ..)
  | .lb2On .. | .lb3On .. => exact .next (loopOn_keeps k ..)
  | .lb2Off .. | .lb3Off .. => exact .next (loopOff_keeps k ..)
  | .cmdAck .. => exact .next (cmdAck_keeps k ..)
  | .cmdRefuse .. => exact .next (cmdRefuse_keeps k ..)
  -- Crates (chapter 09)
  | .enProbe .. => exact .next (.ite (probe_keeps k ..) k)
  | .enCount .. => exact .next (enCount_keeps k ..)
  | .enumChildTimeout => exact .next (.ite (countDone_keeps k) k)
  | .enAssign .. => exact .next (.ite (assign_keeps k ..) k)
  | .enDone .. => exact .next (enDone_keeps k ..)
  | .enFail .. => exact .next (enFail_keeps k ..)
  | .substat .. => exact .next (substatEv_keeps k ..)
  | .substatPeriod => exact .next (substatPeriod_keeps k)
  | .substatTimeout .. => exact .next (.ite (childGone_keeps k ..) k)
  | .enum .. => exact writeAt_completes ..
  -- Time (chapter 10)
  | .pllLockLoss => exact .next (pllLockLoss_keeps k)
  | .linkFrame .. => exact .next (linkFrame_keeps k ..)
  | .revert .. => exact writeAt_completes ..
  | .lawArm .. | .pulseArm .. | .pulseDisarm .. => exact .next (.ite (request_keeps k ..) k)
  | .lawInForce .. => exact .next (lawInForce_keeps k ..)
  | .ppsEdge .. => exact .next (ppsEdge_keeps k ..)
  | .ppsLoss => exact .next (ppsLoss_keeps k)
  | .pulseEdge .. => exact .next (pulseEdge_keeps k ..)
  | .pulseEnd .. => exact .next (pulseEnd_keeps k ..)
  -- Steward instructions (chapter 11)
  | .aluAdd .. | .aluSub .. | .aluAnd .. | .aluOr .. | .aluXor .. | .aluAndn .. | .sll .. | .srl .. | .sra .. | .mul .. |
    .mulhu .. | .mulhs .. | .divu .. | .divs .. | .remu .. | .rems .. | .min .. | .max .. | .minu .. | .maxu .. | .popc .. |
    .clz .. | .addi .. | .andi .. | .ori .. | .xori .. | .slli .. | .srli .. | .srai .. | .lui .. | .llo .. | .cmp .. |
    .cmpi .. | .plog .. | .lw .. | .lh .. | .lhu .. | .lb .. | .lbu .. | .sw .. | .sh .. | .sb .. | .amoSwap .. | .amoAdd ..
    | .amoAnd .. | .amoOr .. | .fence .. | .instructionSync .. | .cmoClean .. | .cmoInvalidate .. | .cmoCleanInvalidate .. |
    .cmoInvalidateIline .. | .b .. | .bl .. | .jr .. | .sys .. | .rfe .. | .mfsr .. | .mtsr .. | .gcall .. | .gret .. |
    .brk .. | .wft .. | .post .. | .fclaim .. | .frel .. | .amb .. =>
    exact .next (stwStep_keeps k ..)
  | .lineFill .. => exact .next (lineFill_keeps k ..)
  | .gcallTimeout .. => exact .next (gcallTimeout_keeps k ..)
  | .wftRelease .. => exact .next (.ite (wftRelease_keeps k ..) k)
  -- Steward events (chapters 11, 16)
  | .interrupt .. => exact .next (interrupt_keeps k ..)
  | .halt .. | .haltClear .. | .stwRestart .. | .stewardDoorbell .. | .stwDbgWrite .. =>
    exact .next (.ite (request_keeps k ..) k)
  -- The task scheduler (chapter 12)
  | .create .. | .free .. | .dispatch .. | .yield .. | .block .. | .unblock .. | .setdl .. | .wait .. | .flush .. =>
    exact .next (tskRequest_keeps k ..)
  | .tskClr .. | .tskPost .. => exact .next (.ite (request_keeps k ..) k)
  | .deadlineMiss .. => exact .next (.ite (deadlineMiss_keeps k ..) k)
  | .nigorTick .. => exact .next (.ite (nigorTick_keeps k ..) k)
  -- Control network, shelf power and DMA (chapters 13, 17)
  | .gateRequest .. => exact execGateRequest_completes ..
  | .switch .. => exact writeAt_completes ..
  | .routeCheckDone => exact .next (routeCheckDone_keeps k)
  | .generationDrained => exact .next (generationDrained_keeps k)
  | .shelfPhaseDone .. => exact .next (.ite (shelfPhaseDone_keeps k ..) k)
  | .shelfEligible .. => exact .next (shelfAuto_keeps k ..)
  | .shelfDown .. | .shelfUp .. | .dmaGo .. | .dmaAbort .. | .dmaAck .. => exact .next (.ite (request_keeps k ..) k)
  | .dmaChannelActive .. => exact .next (dmaActive_keeps k ..)
  | .dmaReadResponse .. => exact .next (.ite (dmaReadResp_keeps k ..) k)
  | .dmaWriteResponse .. => exact .next (.ite (dmaWriteResp_keeps k ..) k)
  -- The cellar (chapter 14)
  | .cellarRead .. => exact .next (cellarRead_keeps k ..)
  | .tagVerdict .. => exact .next (tagVerdict_keeps k ..)
  | .cellarWrite .. => exact .next (cellarWrite_keeps k ..)
  | .rekeyDone .. => exact .next (.ite (rekeyDone_keeps k ..) k)
  | .resealDone => exact .next (resealDone_keeps k)
  | .reserveCopyDone .. => exact .next (reserveCopyDone_keeps k ..)
  | .seal .. | .unseal .. => exact writeAt_completes ..
  | .blobDone => exact .next (blobDone_keeps k)
  -- The attic (chapter 15)
  | .mailboxDoorbell .. => exact .next (.ite (bar4Write_keeps k ..) k)
  | .status => exact .next (serveMb_keeps k fun _ _ h => mbStatus_keepsP h)
  | .logRead => exact .next (serveMb_keeps k fun _ _ h => mbLogRead_keepsP h ..)
  | .logClear => exact .next (serveMb_keeps k fun _ _ h => mbLogClear_keepsP h)
  | .challenge => exact .next (serveMb_keeps k fun _ _ h => mbChallenge_keepsP h)
  | .debugAuth => exact .next (serveMb_keeps k fun _ _ h => mbDebugAuth_keepsP h ..)
  | .debugRevoke => exact .next (serveMb_keeps k fun _ _ h => endGrants_keeps h)
  | .provision => exact .next (serveMb_keeps k fun _ _ h => mbProvision_keepsP h ..)
  | .deploy => exact .next (serveMb_keeps k fun _ _ h => mbDeploy_keepsP h)
  | .return => exact .next (serveMb_keeps k fun _ _ h => mbReturn_keepsP h)
  | .setMinver => exact .next (serveMb_keeps k fun _ _ h => mbSetMinver_keepsP h ..)
  | .keyLoad => exact .next (serveMb_keeps k fun _ _ h => mbKeyLoad_keepsP h ..)
  | .keyClear => exact .next (serveMb_keeps k fun _ _ h => mbKeyClear_keepsP h ..)
  | .retire => exact .next (serveMb_keeps k fun _ _ h => mbRetire_keepsP h ..)
  | .bist => exact .next (serveMb_keeps k fun _ _ h => mbBist_keepsP h ..)
  | .restart => exact .next (.whenDo (serveMb_keeps k fun _ _ h => mbRestart_keepsP h) fun _ h => enterBoot_keeps h)
  | .lockOpen => exact .next (serveMb_keeps k fun _ _ h => mbLockOpen_keepsP h ..)
  | .lockClose => exact .next (serveMb_keeps k fun _ _ h => by dsimp only; exact onAtt_keeps h _)
  | .lockExpiry | .challengeExpiry => exact .next (.ite (onAtt_keeps k ..) k)
  | .grantExpiry => exact .next (.ite (endGrants_keeps k) k)
  | .scrubRead .. => exact .next (scrubRead_keeps k ..)
  | .sweepEnd .. => exact .next (sweepEnd_keeps k ..)
  | .scrubCopyRebuilt .. => exact .next (copyRebuilt_keeps k ..)
  | .scrubWatchdog => exact .next (enterSafeOpen_keeps k ..)
  | .faultReport => exact .next (faultReport_keeps k)
  | .faultClassify => exact .next (faultClassify_keeps k)
  | .autoBist .. => exact .next (autoBist_keeps k ..)
  | .bistDone .. => exact .next (bistDone_keeps k ..)
  -- Trace and JTAG (chapter 16)
  | .traceFrame => exact .next (traceFrame_keeps k)
  | .trcSrcWrite .. => exact .next (.ite (request_keeps k ..) k)
  | .trcCtrlWrite .. => exact writeAt_completes ..
  | .tapReset | .idcode | .highz | .clamp | .dbgstat | .bypass => exact .next (tapPlain_keeps k ..)
  | .extest .. | .samplePreload .. | .extestPulse .. | .extestTrain .. => exact .next (tapBoundary_keeps k ..)
  | .dbgacc .. => exact .next (dbgAcc_keeps k ..)
  | .dbgmb .. => exact .next (.ite (dbgMbUpdate_keeps (tapPlain_keeps k ..) ..) k)
  -- Power, the host and the management target (chapter 17)
  | .thermalWarning .. | .thermalTrip .. | .thermholdClear .. => exact .next (.ite (sensorRead_keeps k ..) k)
  | .hostDoorbell .. => exact .next (.ite (request_keeps k ..) k)
  | .fwirq .. | .flashGo .. => exact writeAt_completes ..
  | .msixEnable .. => exact .next (msixEnable_keeps k ..)
  | .flashDone .. => exact .next (flashDone_keeps k ..)
  | .setaddr .. | .state => exact .next (.ite k (onHst_keeps k ..))
  | .write .. => exact .next (i2cWrite_keeps k ..)
  | .read => exact .next (i2cRead_keeps k)
  | .i2cStretchTimeout => exact .next (.ite (i2cSay_keeps k ..) k)
  -- Other events
  | .perstRelease => exact .next (.upd k id id rfl)
  | .lowPowerEntry .. => exact .next (lowPower_keeps k ..)
  | .prbsReceive .. => exact .next (prbsReceive_keeps k ..)
  | .softError .. => exact .next (.ite k (upset_keeps k ..))
  | .rekeyLine .. => exact .next (.ite (rekeyStep_keeps k ..) k)
  | .pciePowerState .. => exact .next (pciePower_keeps k ..)

/-! ### Steps -/

theorem step_of_pending_nil {s : State} (h : s.pending = []) : step s = .next (idle s) := by
  unfold step
  rw [h]

theorem step_of_pending_cons {s : State} {c : Instr} {rest : List Instr} (h : s.pending = c :: rest) :
    step s = exec c { s with pending := rest } := by
  unfold step
  rw [h]

/-- Taking the front command off the queue leaves the invariant as it was, so a step keeps what its command keeps. -/
theorem step_keeps {s s' : State} (h : step s = .next s') : Keeps { s with pending := s.pending.tail } s' := by
  cases hq : s.pending with
  | nil =>
    rw [step_of_pending_nil hq] at h
    cases h
    rw [List.tail_nil, ← hq]
    exact idle_keeps (.refl s)
  | cons c rest =>
    rw [step_of_pending_cons hq] at h
    obtain ⟨t, hnext, hkeeps⟩ := exec_completes c { s with pending := rest }
    rw [hnext] at h
    cases h
    exact hkeeps

end Sys2Proof.Machine

open Sys2Proof Sys2Proof.Machine

/-- Settles O3: `exec_completes`. That a command completes also where it cannot occur is the model's choice (log entries 3
and 110). -/
theorem everyCommandCompletesAndKeeps : Obligations.EveryCommandCompletesAndKeeps := exec_completes

/-- Settles O4: the invariant of a state is that of the state without its front command, which the step keeps (`step_keeps`). -/
theorem stepKeepsInvariant : Obligations.StepKeepsInvariant := by
  intro s s' hcanon hmap h
  obtain ⟨pending, canon, map⟩ := step_keeps h
  exact ⟨canon hcanon, map hmap, pending⟩

end

section
/-! PROOFS. The state right after reset (R17). -/

namespace Sys2Proof.Machine

theorem State.reset_physOf (m : Nat) : physOf State.reset m = 17 * (m / 16) + m % 16 := rfl

theorem State.reset_roleOf (p : Nat) : roleOf State.reset p = if p % 17 = 16 then .spare else .active := rfl

theorem State.reset_rdReg (a : Nat) : rdReg State.reset a = regReset a := rfl

end Sys2Proof.Machine

open Sys2Proof Sys2Proof.Machine

/-- Settles O5: the maps of the reset state list nothing, so each entry is its default. That the device is Off is the model's
reading of what lies before PORST_RELEASE (log entry 11). -/
theorem resetState : Obligations.ResetState := by
  refine ⟨⟨State.reset_regs_wf, State.reset_mem_wf⟩, State.reset_map, ?queue, ?map, ?roles, State.reset_rdReg, ?off⟩
  case queue => rfl
  case map => exact fun m _ => State.reset_physOf m
  case roles => exact fun p _ => State.reset_roleOf p
  case off => rfl

end

section
/-! PROOFS. Remote accesses and the requests of other devices (R40 to R42, R410, R412), and the answers that leave (R531). -/

namespace Sys2Proof.Machine

/-! ### Bytes and service messages -/

@[simp] theorem length_leBytes (n v : Nat) : (leBytes n v).length = n := by simp [leBytes]

@[simp] theorem sendServiceFrom_chip (src l opc dst : Nat) (body : List Byte) (s : State) :
    (sendServiceFrom src l opc dst body s).chip = s.chip := rfl

@[simp] theorem sendServiceFrom_regs (src l opc dst : Nat) (body : List Byte) (s : State) :
    (sendServiceFrom src l opc dst body s).regs = s.regs := rfl

@[simp] theorem sendServiceFrom_cl (src l opc dst : Nat) (body : List Byte) (s : State) :
    (sendServiceFrom src l opc dst body s).cl = s.cl := rfl

@[simp] theorem sendServiceFrom_cel (src l opc dst : Nat) (body : List Byte) (s : State) :
    (sendServiceFrom src l opc dst body s).cel = s.cel := rfl

@[simp] theorem sendServiceFrom_outbox (src l opc dst : Nat) (body : List Byte) (s : State) :
    (sendServiceFrom src l opc dst body s).outbox = .service l opc src dst body :: s.outbox := rfl

theorem linkOf_sendServiceFrom_other (src opc dst : Nat) (body : List Byte) (s : State) {l j : Nat} (h : j ≠ l) :
    linkOf (sendServiceFrom src l opc dst body s) j = linkOf s j :=
  mapGet_mapSet_other h

theorem sendService_assigned {s : State} (h : assigned s = true) (l opc dst : Nat) (body : List Byte) :
    sendService l opc dst body s = sendServiceFrom (devAddr s) l opc dst body s := by
  unfold sendService
  rw [if_pos h]

theorem routeTo_devAddr {s : State} (h : assigned s = true) : routeTo s (devAddr s) = .self := by
  simp [routeTo, h]

/-! ### Remote windows (R40, R41) -/

/-- The address of offset `o` of remote window `w` (R32). -/
abbrev remoteAddr (w o : Nat) : Nat := 0x4000000000 + w * 2 ^ 32 + o

theorem targetOf_remoteAddr {w o : Nat} (hw : w < 192) (ho : o < 2 ^ 32) : targetOf (remoteAddr w o) = .remote w o := by
  unfold targetOf remoteAddr
  iterate 5 rw [if_neg (by omega)]
  rw [if_pos (by omega)]
  congr 1 <;> omega

/-- REMOTE_ACCESS is a control access of its window. -/
theorem exec_remoteAccess {s : State} {who : Requester} {w o : Nat} (hw : w < 192) (ho : o < 2 ^ 32)
    (hissue : canIssue s who = true) (write : Bool) (v : Word) :
    exec (.remoteAccess who w o write v) s = .next (ctl who (remoteAddr w o) write v s) := by
  have notBar4 : ¬ (who = .host ∧ 2 ^ 40 ≤ remoteAddr w o) := by unfold remoteAddr; omega
  show execRemoteAccess who w o write v s = _
  unfold execRemoteAccess request
  rw [if_pos ⟨hw, ho⟩, if_neg (by simp [hissue]), if_neg notBar4]

/-- An access of this device through a remote window: refused, for the device itself, or issued on the way to another. -/
theorem ctl_remoteAddr {s : State} {who : Requester} {w o : Nat} (hw : w < 192) (ho : o < 2 ^ 32)
    (hon : s.chip.devState ≠ .off) (hnear : fromRemote who = false) (write : Bool) (v : Word) :
    ctl who (remoteAddr w o) write v s =
      if 4095 < remoteBase s who + w ∨ assigned s = false ∨ o % 4 ≠ 0 ∨ s.chip.shellUp = false then
        answer who write .error 0 s
      else if remoteBase s who + w = devAddr s then ctlLocal who o write v s
      else remoteIssue who (remoteBase s who + w) o write v s := by
  unfold ctl
  rw [if_neg hon, targetOf_remoteAddr hw ho]
  simp [hnear]

/-- The body of RREQ begins with the address, the direction and the TAG (R362). -/
theorem rreqBody_header (a tag : Nat) (write : Bool) (rest : List Byte) :
    let body := leBytes 5 a ++ leBytes 1 (b2n write) ++ leBytes 2 tag ++ rest
    body.take 5 = leBytes 5 a ∧ (body.drop 5).take 3 = leBytes 1 (b2n write) ++ leBytes 2 tag := by
  simp only [List.append_assoc]
  refine ⟨List.take_left' (by simp), ?_⟩
  rw [List.drop_left' (by simp), ← List.append_assoc]
  exact List.take_left' (by simp)

/-- An access issued to another device is kept, takes the next TAG, and travels as RREQ (R41, R410). -/
theorem remoteIssue_link {s : State} {dev l : Nat} (hroute : routeTo s dev = .link l) (hassigned : assigned s = true)
    (who : Requester) (a : Nat) (write : Bool) (v : Word) :
    ∃ r : RemoteAcc, ∃ rest : List Byte, r.who = who ∧ r.tag = s.chip.nextTag ∧ r.dev = dev ∧ r.addr = a ∧
      r.write = write ∧ r.data = v ∧
      remoteIssue who dev a write v s =
        sendServiceFrom (devAddr s) l 1 dev (leBytes 5 a ++ leBytes 1 (b2n write) ++ leBytes 2 s.chip.nextTag ++ rest)
          { s with chip := { s.chip with remote := s.chip.remote ++ [r], nextTag := (s.chip.nextTag + 1) % 65536 } } := by
  unfold remoteIssue
  rw [hroute]
  exact ⟨_, _, rfl, rfl, rfl, rfl, rfl, rfl, sendService_assigned (by exact hassigned) ..⟩

/-! ### Completion of remote accesses (R41, R412) -/

theorem remoteTimeout_oldest {s : State} {r : RemoteAcc} {l : List RemoteAcc} (h : s.chip.remote = r :: l) :
    remoteTimeout r.tag s = answer r.who r.write .error 0 { s with chip := { s.chip with remote := l } } := by
  simp [remoteTimeout, h]

theorem rrsp_oldest {s : State} {r : RemoteAcc} {l : List RemoteAcc} (h : s.chip.remote = r :: l) {k : Nat}
    (hopen : serviceOpen s k = true) (hon : s.chip.devState ≠ .off) (hassigned : assigned s = true) (bad : Bool) (v : Word) :
    rrsp k (devAddr s) r.tag bad v s =
      answer r.who r.write (if bad then .error else .ok) v { s with chip := { s.chip with remote := l } } := by
  simp [rrsp, routeTo_devAddr, hopen, hon, hassigned, h]

/-! ### Requests of other devices (R42, R410) -/

theorem rreq_here {s : State} {l src tag : Nat} (hopen : serviceOpen s l = true) (hon : s.chip.devState ≠ .off)
    (hassigned : assigned s = true) (hsrc : src < 4096) (htag : tag < 65536) (a : Nat) (write : Bool) (v : Word) :
    rreq l src (devAddr s) a write tag v s = ctl (.remote src tag) a write v s := by
  simp [rreq, routeTo_devAddr, hopen, hon, hassigned, Nat.mod_eq_of_lt hsrc, Nat.mod_eq_of_lt htag]

theorem rreq_onward {s : State} {l k src dst : Nat} (hopen : serviceOpen s l = true) (hon : s.chip.devState ≠ .off)
    (hassigned : assigned s = true) (hroute : routeTo s dst = .link k) (hsrc : src < 4096) (a tag : Nat) (write : Bool)
    (v : Word) :
    rreq l src dst a write tag v s =
      sendServiceFrom src k 1 dst (leBytes 5 a ++ leBytes 1 (b2n write) ++ leBytes 2 tag ++ leBytes 4 v.toNat) s := by
  simp [rreq, hopen, hon, hassigned, hroute, Nat.mod_eq_of_lt hsrc]

/-! ### Answers at their node (R531) -/

theorem responseFlit_oldest {s : State} {rs : List Resp} {r : Resp} (h : s.chip.resps = rs ++ [r])
    (hwaits : waitsForIt r.who = false) (hnode : nodeOf s r.who < 556) :
    responseFlit (nodeOf s r.who) s = { s with
      outbox := .response (nodeOf s r.who) (statCode r.status) r.data :: s.outbox
      chip := { s.chip with resps := rs } } := by
  unfold responseFlit
  rw [if_neg (by omega)]
  simp [h, hwaits]

end Sys2Proof.Machine

open Sys2Proof Sys2Proof.Machine

/-- Settles O13: a window access is `ctl_remoteAddr`, which issues it by `remoteIssue_link`; it completes by
`remoteTimeout_oldest` or `rrsp_oldest`. Requests of other devices are `rreq_here` and `rreq_onward`, answers that leave
`responseFlit_oldest`. -/
theorem remoteAccessesAndRequests : Obligations.RemoteAccessesAndRequests := by
  refine ⟨⟨?window, ?timeout, ?response⟩, ?here, ?onward, ?flit⟩
  case window =>
    intro s who w o write v hw ho hissue hon hnear
    unfold Refuses
    rw [exec_remoteAccess hw ho hissue, ctl_remoteAddr hw ho hon hnear]
    refine ⟨fun hfar => by rw [if_pos (.inl hfar)], fun hassigned hup halign hself hdev => ?_,
      fun l hassigned hup halign hdev hother hroute => ?_⟩
    · rw [if_neg (by simp [hassigned, hup, halign]; omega), if_pos hself]
    · obtain ⟨r, rest, hwho, htag, hrdev, haddr, hwrite, hdata, hissued⟩ :=
        remoteIssue_link hroute hassigned who o write v
      rw [if_neg (by simp [hassigned, hup, halign]; omega), if_neg hother, hissued]
      refine ⟨_, r, rfl, ?_, hwho, htag, hrdev, haddr, hwrite, hdata, ?_, ?_, ?_, ?_, ?_, _, sendServiceFrom_outbox ..,
        rreqBody_header o s.chip.nextTag write rest⟩ <;> simp
  case timeout =>
    intro s r l h
    exact congrArg Host.Outcome.next (remoteTimeout_oldest h)
  case response =>
    intro s r l k bad v h hopen hon hassigned
    exact congrArg Host.Outcome.next (rrsp_oldest h hopen hon hassigned bad v)
  case here =>
    intro s l src a tag write v hopen hon hassigned hsrc htag
    exact congrArg Host.Outcome.next (rreq_here hopen hon hassigned hsrc htag a write v)
  case onward =>
    intro s l k src dst a tag write v hopen hon hassigned hroute hsrc
    have honward := rreq_onward hopen hon hassigned hroute hsrc a tag write v
    exact ⟨_, _, congrArg Host.Outcome.next honward, sendServiceFrom_outbox .., by simp, sendServiceFrom_regs ..,
      sendServiceFrom_chip .., sendServiceFrom_cl .., sendServiceFrom_cel .., fun j hj => linkOf_sendServiceFrom_other _ _ _ _ s hj⟩
  case flit =>
    intro s rs r h hwaits hnode
    exact congrArg Host.Outcome.next (responseFlit_oldest h hwaits hnode)

end

section
/-! PROOFS. A fault that fails the current epoch: the report of its unit, and the spring's answer (R188, R197, R203, R620). -/

namespace Sys2Proof.Machine

/-- From `s` to `u` only the spring acts: its own state, the messages that leave, and registers below those of the loader. -/
def SpringActs (s u : State) : Prop :=
  u = { s with regs := u.regs, outbox := u.outbox, spr := u.spr } ∧ ∀ b, imgA 0 ≤ b → rdReg u b = rdReg s b

theorem SpringActs.refl (s : State) : SpringActs s s := ⟨rfl, fun _ _ => rfl⟩

theorem SpringActs.trans {s u v : State} (h : SpringActs s u) (k : SpringActs u v) : SpringActs s v := by
  obtain ⟨hu, hregs⟩ := h
  obtain ⟨hv, kregs⟩ := k
  refine ⟨?_, fun b hb => (kregs b hb).trans (hregs b hb)⟩
  rw [hv, hu]

theorem SpringActs.cl {s u : State} (h : SpringActs s u) : u.cl = s.cl := by rw [h.1]
theorem SpringActs.att {s u : State} (h : SpringActs s u) : u.att = s.att := by rw [h.1]
theorem SpringActs.cel {s u : State} (h : SpringActs s u) : u.cel = s.cel := by rw [h.1]
theorem SpringActs.stw {s u : State} (h : SpringActs s u) : u.stw = s.stw := by rw [h.1]


theorem springActs_wrReg (s : State) {a : Nat} (v : Word) (h : a < imgA 0) : SpringActs s (wrReg s a v) :=
  ⟨rfl, fun b hb => rdReg_wrReg_other s v (by omega)⟩

theorem springActs_wrFld (s : State) {a : Nat} (lo n x : Nat) (h : a < imgA 0) : SpringActs s (wrFld s a lo n x) :=
  springActs_wrReg s _ h

theorem springActs_incFld (s : State) {a : Nat} (lo n : Nat) (h : a < imgA 0) : SpringActs s (incFld s a lo n) := by
  unfold incFld
  dsimp only
  split
  · exact springActs_wrFld s _ _ _ h
  · exact .refl s

theorem springActs_sendSpring (l : Nat) (msg : SpringMsg) (s : State) : SpringActs s (sendSpring l msg s) :=
  ⟨rfl, fun _ _ => rfl⟩

theorem springActs_sendUp (msg : SpringMsg) (s : State) : SpringActs s (sendUp msg s) := by
  unfold sendUp
  split
  · exact springActs_sendSpring _ msg s
  · exact .refl s

theorem springActs_sendDown (msg : SpringMsg) (s : State) : SpringActs s (sendDown msg s) := by
  unfold sendDown
  generalize presentLinks s = links
  induction links generalizing s with
  | nil => exact .refl s
  | cons l links ih => exact (springActs_sendSpring l msg s).trans (ih _)

theorem springActs_rootOrder (msg : SpringMsg) (s : State) : SpringActs s (rootOrder msg s) :=
  (springActs_sendDown msg s).trans ⟨rfl, fun _ _ => rfl⟩

theorem springActs_issueRollback (cause origin : Nat) (hold : Bool) (s : State) :
    SpringActs s (issueRollback cause origin hold s) := by
  unfold issueRollback
  split
  · exact .refl s
  · exact .trans (.trans ⟨rfl, fun _ _ => rfl⟩ (springActs_wrFld _ 16 8 _ (by decide))) (springActs_rootOrder _ _)

theorem springActs_sendFail (epoch cause origin : Nat) (s : State) : SpringActs s (sendFail epoch cause origin s) := by
  unfold sendFail
  split
  · exact .refl s
  · refine .trans (u := { s with spr := { s.spr with sent := s.spr.sent ++ [(epoch, false)] } }) ⟨rfl, fun _ _ => rfl⟩ ?_
    split
    · exact springActs_issueRollback _ _ _ _
    · exact springActs_sendUp _ _

theorem springActs_restartRollback (hold : Bool) (s : State) : SpringActs s (restartRollback hold s) := by
  have hcause : sprA 0x54 < imgA 0 := by decide
  have hcount : sprA 0x50 < imgA 0 := by decide
  unfold restartRollback
  split
  · exact .refl s
  · dsimp only
    refine .trans ?_ (springActs_rootOrder _ _)
    refine .trans ?_ (springActs_incFld _ 16 16 hcount)
    refine .trans ?_ (springActs_wrFld _ 16 8 _ hcause)
    exact ⟨rfl, fun _ _ => rfl⟩

theorem springActs_rollbackFault (cause : Nat) (s : State) : SpringActs s (rollbackFault cause s) := by
  have hstatus : sprA 4 < imgA 0 := by decide
  unfold rollbackFault
  dsimp only
  refine (springActs_wrFld s 14 1 1 hstatus).trans ?_
  split
  · exact springActs_restartRollback _ _
  · exact springActs_sendUp _ _

/-- The failure of the current epoch's check is an act of the spring alone (R188, R197, R203). -/
theorem springActs_failNow (cause : Nat) (s : State) : SpringActs s (failNow cause s) := by
  unfold failNow failEpoch failFrom
  split
  · exact .refl s
  split
  · exact springActs_rollbackFault cause s
  · exact .trans ⟨rfl, fun _ _ => rfl⟩ (springActs_sendFail _ _ _ _)

/-- A reported fault joins the reports of the attic; beside that the spring acts (R620). -/
theorem springActs_reportFail (kind cls unit detail : Nat) (s : State) :
    SpringActs (report kind cls unit detail s) (reportFail kind cls unit detail s) := springActs_failNow 1 _

/-- `u` has one report more than `s`, of a kind, a unit and a detail (R620). -/
def Reports (s u : State) (kind unit detail : Nat) : Prop :=
  ∃ r, u.att.reports = s.att.reports ++ [r] ∧ r.kind = kind ∧ r.unit = unit ∧ r.detail = detail

theorem reportFail_reports {s x : State} (h : x.att = s.att) (kind cls unit detail : Nat) :
    Reports s (reportFail kind cls unit detail x) kind unit detail := by
  unfold Reports
  rw [(springActs_reportFail kind cls unit detail x).att, ← h]
  exact ⟨_, rfl, rfl, rfl, rfl⟩

@[simp] theorem reportFail_cl (kind cls unit detail : Nat) (s : State) : (reportFail kind cls unit detail s).cl = s.cl :=
  (springActs_reportFail ..).cl

@[simp] theorem reportFail_cel (kind cls unit detail : Nat) (s : State) : (reportFail kind cls unit detail s).cel = s.cel :=
  (springActs_reportFail ..).cel

@[simp] theorem reportFail_stw (kind cls unit detail : Nat) (s : State) : (reportFail kind cls unit detail s).stw = s.stw :=
  (springActs_reportFail ..).stw

theorem rdReg_reportFail (kind cls unit detail : Nat) (s : State) {b : Nat} (h : imgA 0 ≤ b) :
    rdReg (reportFail kind cls unit detail s) b = rdReg s b := (springActs_reportFail ..).2 b h

/-! ### Failing flags of the Boolean processors and of the fabric (R73, R156, R158) -/

@[simp] theorem fabFlag_cl (p flag kind : Nat) (s : State) : (fabFlag p flag kind s).cl = s.cl := by
  rw [fabFlag, reportFail_cl, setBit_cl]
@[simp] theorem fabFlag_cel (p flag kind : Nat) (s : State) : (fabFlag p flag kind s).cel = s.cel := by
  rw [fabFlag, reportFail_cel, setBit_cel]
@[simp] theorem fabFlag_stw (p flag kind : Nat) (s : State) : (fabFlag p flag kind s).stw = s.stw := by
  rw [fabFlag, reportFail_stw, setBit_stw]

@[simp] theorem bpFlag_cl (p n flag kind detail : Nat) (s : State) : (bpFlag p n flag kind detail s).cl = s.cl := by
  rw [bpFlag, reportFail_cl, setBit_cl]

theorem bpFlag_reports (p n flag kind detail : Nat) (s : State) : Reports s (bpFlag p n flag kind detail s) kind p detail := by
  rw [bpFlag]
  exact reportFail_reports (setBit_att ..) kind 0 p detail

/-- The flag of BPC_STATUS is set, also after what the failing check does. -/
theorem rdBit_bpFlag (p n kind detail : Nat) (s : State) {flag : Nat} (h : flag < 32) :
    rdBit (bpFlag p n flag kind detail s) (bpcA p n 0x18) flag = true := by
  have himg : imgA 0 ≤ bpcA p n 0x18 := by simp only [imgA, bpcA, physA]; omega
  unfold rdBit bpFlag
  rw [rdReg_reportFail _ _ _ _ _ himg]
  exact rdBit_setBit_same s _ h

end Sys2Proof.Machine
end

section
/-! PROOFS. Values of eight contexts, and what a write of a pond entry or of a flop leaves (R53, R62, R63). -/

namespace Sys2Proof.Machine

/-! ### Values of eight contexts -/

theorem testBit_sumOfBits (f : Nat → Bool) (n i : Nat) :
    ((List.range n).foldl (fun acc c => acc + (if f c then 2 ^ c else 0)) 0).testBit i = (decide (i < n) && f i) ∧
      (List.range n).foldl (fun acc c => acc + (if f c then 2 ^ c else 0)) 0 < 2 ^ n := by
  induction n with
  | zero => simp
  | succ n ih =>
    obtain ⟨hbit, hlt⟩ := ih
    rw [List.range_succ, List.foldl_append]
    simp only [List.foldl_cons, List.foldl_nil]
    generalize (List.range n).foldl (fun acc c => acc + (if f c then 2 ^ c else 0)) 0 = sum at hbit hlt ⊢
    cases hf : f n with
    | false =>
      refine ⟨?_, by simp; omega⟩
      rcases Nat.lt_trichotomy i n with h | h | h
      · simp [hbit, h, Nat.lt_succ_of_lt h]
      · subst h
        simpa [hf] using hbit
      · simp [hbit, show ¬ i < n by omega, show ¬ i < n + 1 by omega]
    | true =>
      refine ⟨?_, by simp; omega⟩
      simp only [if_true]
      rw [Nat.add_comm]
      rcases Nat.lt_trichotomy i n with h | h | h
      · rw [Nat.testBit_two_pow_add_gt h, hbit]
        simp [h, Nat.lt_succ_of_lt h]
      · rw [h, Nat.testBit_two_pow_add_eq, Nat.testBit_lt_two_pow hlt]
        simp [hf]
      · have hsmall : 2 ^ n + sum < 2 ^ i := by
          have : 2 ^ (n + 1) ≤ 2 ^ i := Nat.pow_le_pow_right (by omega) (by omega)
          omega
        rw [Nat.testBit_lt_two_pow hsmall]
        simp [show ¬ i < n + 1 by omega]

/-- Context `c` of a value that is built context by context. -/
theorem getLsbD_ctxOf (f : Nat → Bool) {c : Nat} (h : c < 8) : (ctxOf f).getLsbD c = f c := by
  rw [ctxOf, BitVec.getLsbD_ofNat, (testBit_sumOfBits f 8 c).1]
  simp [h]

theorem getLsbD_tickWide (b : Bool) {c : Nat} (h : c < 8) : (tickWide b).getLsbD c = b := by
  cases b
  · simp [tickWide]
  · interval_cases c <;> rfl

theorem getLsbD_pick (sel a b : Ctx) (c : Nat) :
    (pick sel a b).getLsbD c = if sel.getLsbD c then b.getLsbD c else a.getLsbD c := by
  unfold pick
  rw [BitVec.getLsbD_or, BitVec.getLsbD_and, BitVec.getLsbD_and, BitVec.getLsbD_not]
  by_cases h : c < 8
  · cases sel.getLsbD c <;> simp [h]
  · simp [BitVec.getLsbD_of_ge _ c (Nat.le_of_not_lt h)]

/-- What a state write puts into both banks shows, through the pointers, the values as they were. -/
theorem pick_written_cur (ptr a b v : Ctx) : pick ptr (pick ptr a v) (pick (~~~ ptr) b v) = pick ptr a b := by
  refine BitVec.eq_of_getLsbD_eq fun c hc => ?_
  simp only [getLsbD_pick, BitVec.getLsbD_not]
  cases ptr.getLsbD c <;> simp

/-- Against the pointers it shows the value written. -/
theorem pick_written_opp (ptr a b v : Ctx) : pick (~~~ ptr) (pick ptr a v) (pick (~~~ ptr) b v) = v := by
  refine BitVec.eq_of_getLsbD_eq fun c hc => ?_
  simp only [getLsbD_pick, BitVec.getLsbD_not, hc]
  cases ptr.getLsbD c <;> simp

theorem pick_none (a b : Ctx) : pick 0#8 a b = a :=
  BitVec.eq_of_getLsbD_eq fun c _ => by simp [getLsbD_pick]

/-! ### Ponds (R53, R62, R63) -/

@[simp] theorem pondData_pondWord (v : Ctx) : pondData (pondWord v) = v := by
  refine BitVec.eq_of_getLsbD_eq fun c hc => ?_
  rw [pondData, pondWord, BitVec.getLsbD_setWidth, BitVec.getLsbD_append]
  simp [hc]

@[simp] theorem pondRaw_pondWrite_same (p n a : Nat) (v : Ctx) (s : State) : pondRaw (pondWrite p n a v s) p n a = pondWord v :=
  mapGet_mapSet_same

theorem mapGet_pondWrite_other (p n a : Nat) (v : Ctx) (s : State) {k : Nat} (h : k ≠ kPond p n a) :
    mapGet 0 (pondWrite p n a v s).cl.pond k = mapGet 0 s.cl.pond k := mapGet_mapSet_other h

/-- A bank entry that is written only where its value changes holds the value. -/
theorem pondData_writtenUnless {c : Prop} [Decidable c] {p n a : Nat} {v : Ctx} {s : State}
    (h : c → pondData (pondRaw s p n a) = v) : pondData (pondRaw (if c then s else pondWrite p n a v s) p n a) = v := by
  split
  case isTrue hc => exact h hc
  case isFalse => rw [pondRaw_pondWrite_same, pondData_pondWord]

theorem pond_writtenUnless (c : Prop) [Decidable c] (p n a : Nat) (v : Ctx) (s : State) :
    (if c then s else pondWrite p n a v s).cl.pond = if c then s.cl.pond else mapSet 0 s.cl.pond (kPond p n a) (pondWord v) := by
  split <;> rfl

theorem mapGet_writtenUnless_other {c : Prop} [Decidable c] {p n a k : Nat} (v : Ctx) (s : State) (h : k ≠ kPond p n a) :
    mapGet 0 (if c then s else pondWrite p n a v s).cl.pond k = mapGet 0 s.cl.pond k := by
  split
  · rfl
  · exact mapGet_pondWrite_other p n a v s h

theorem kPond_banks_ne (p n f : Nat) : kPond p n (256 + f) ≠ kPond p n (384 + f) := by unfold kPond; omega

/-- What a state write puts into bank A, and into bank B of what bank A's write leaves (R63). -/
def bankAWritten (p n f : Nat) (v : Ctx) (s : State) : State :=
  if fptr s p n f = 0#8 then s else pondWrite p n (256 + f) (pick (fptr s p n f) (pondData (pondRaw s p n (256 + f))) v) s

theorem stateWrite_pond (p n f : Nat) (v : Ctx) (s : State) :
    (stateWrite p n f v s).cl.pond = (if fptr s p n f = 0xFF#8 then bankAWritten p n f v s else
      pondWrite p n (384 + f) (pick (~~~ fptr s p n f) (pondData (pondRaw s p n (384 + f))) v) (bankAWritten p n f v s)).cl.pond :=
  rfl

/-- A state write leaves nothing but pond entries and the written flag. -/
theorem stateWrite_frame (p n f : Nat) (v : Ctx) (s : State) :
    stateWrite p n f v s = { s with cl := { s.cl with
      pond := (stateWrite p n f v s).cl.pond
      written := mapSet false s.cl.written (kFlop p n f) true } } := by
  unfold stateWrite
  dsimp only
  split <;> split <;> rfl

/-- Bank A of a flop after a state write: the written value in the contexts that point to bank B. -/
theorem pondData_stateWrite_bankA (p n f : Nat) (v : Ctx) (s : State) :
    pondData (pondRaw (stateWrite p n f v s) p n (256 + f)) = pick (fptr s p n f) (pondData (pondRaw s p n (256 + f))) v := by
  have hstays : fptr s p n f = 0#8 →
      pondData (pondRaw s p n (256 + f)) = pick (fptr s p n f) (pondData (pondRaw s p n (256 + f))) v :=
    fun h => by rw [h, pick_none]
  rw [pondRaw, stateWrite_pond, mapGet_writtenUnless_other _ _ (kPond_banks_ne p n f)]
  exact pondData_writtenUnless hstays

/-- Bank B of a flop after a state write: the written value in the contexts that point to bank A. -/
theorem pondData_stateWrite_bankB (p n f : Nat) (v : Ctx) (s : State) :
    pondData (pondRaw (stateWrite p n f v s) p n (384 + f)) = pick (~~~ fptr s p n f) (pondData (pondRaw s p n (384 + f))) v := by
  have hbefore : pondRaw (bankAWritten p n f v s) p n (384 + f) = pondRaw s p n (384 + f) :=
    mapGet_writtenUnless_other _ _ (kPond_banks_ne p n f).symm
  have hstays : fptr s p n f = 0xFF#8 → pondData (pondRaw (bankAWritten p n f v s) p n (384 + f)) =
      pick (~~~ fptr s p n f) (pondData (pondRaw s p n (384 + f))) v :=
    fun h => by rw [hbefore, h, show ~~~ 0xFF#8 = 0#8 from rfl, pick_none]
  rw [pondRaw, stateWrite_pond]
  exact pondData_writtenUnless hstays

theorem fptr_stateWrite (p n f : Nat) (v : Ctx) (s : State) : fptr (stateWrite p n f v s) p n f = fptr s p n f := by
  rw [stateWrite_frame]
  rfl

theorem stateWrite_written (p n f : Nat) (v : Ctx) (s : State) :
    (stateWrite p n f v s).cl.written = mapSet false s.cl.written (kFlop p n f) true := by
  rw [stateWrite_frame]

theorem flopWritten_stateWrite (p n f : Nat) (v : Ctx) (s : State) : flopWritten (stateWrite p n f v s) p n f = true := by
  rw [flopWritten, stateWrite_written, mapGet_mapSet_same]

/-- The current value of a flop stays when it is written (R63). -/
theorem flopCur_stateWrite (p n f : Nat) (v : Ctx) (s : State) : flopCur (stateWrite p n f v s) p n f = flopCur s p n f := by
  rw [flopCur, fptr_stateWrite, pondData_stateWrite_bankA, pondData_stateWrite_bankB, pick_written_cur, flopCur]

/-- Its next value is the one written (R63). -/
theorem flopNext_stateWrite (p n f : Nat) (v : Ctx) (s : State) : flopNext (stateWrite p n f v s) p n f = v := by
  rw [flopNext, if_pos (flopWritten_stateWrite p n f v s), flopOpp, fptr_stateWrite, pondData_stateWrite_bankA,
    pondData_stateWrite_bankB, pick_written_opp]

theorem mapGet_stateWrite_other (p n f : Nat) (v : Ctx) (s : State) {k : Nat} (hA : k ≠ kPond p n (256 + f))
    (hB : k ≠ kPond p n (384 + f)) : mapGet 0 (stateWrite p n f v s).cl.pond k = mapGet 0 s.cl.pond k := by
  rw [stateWrite_pond, mapGet_writtenUnless_other _ _ hB]
  exact mapGet_writtenUnless_other _ _ hA

end Sys2Proof.Machine
end

section
/-! PROOFS. What a BP's result leaves: step bus, fabric slot, pond, hints and probes (R53 to R55, R60, R61, R142). -/

namespace Sys2Proof.Machine

/-! ### Export slots (R142, R156) -/

/-- From `s` to `u` nothing of the clusters but fabric slots and their noted conflicts, and nothing of the cellar and of the
stewards, differs. -/
def FabricActs (s u : State) : Prop :=
  u.cl = { s.cl with exports := u.cl.exports, confStep := u.cl.confStep } ∧ u.cel = s.cel ∧ u.stw = s.stw

theorem foldl_wrReg {α : Type} (f : α → Nat) (v : Word) (l : List α) (s : State) :
    ∃ regs, l.foldl (fun acc j => wrReg acc (f j) v) s = { s with regs := regs } := by
  induction l generalizing s with
  | nil => exact ⟨s.regs, rfl⟩
  | cons j l ih =>
    obtain ⟨regs, h⟩ := ih (wrReg s (f j) v)
    exact ⟨regs, h⟩

/-- A border cell that follows its wire is a register (R270). -/
theorem borderTrack_frame (m slot t : Nat) (s : State) : ∃ regs, borderTrack m slot t s = { s with regs := regs } := by
  unfold borderTrack
  split
  · exact ⟨s.regs, rfl⟩
  dsimp only
  split
  · exact ⟨s.regs, rfl⟩
  · exact foldl_wrReg _ _ _ s

theorem FabricActs.refl (s : State) : FabricActs s s := ⟨rfl, rfl, rfl⟩

theorem FabricActs.trans {s u v : State} (h : FabricActs s u) (k : FabricActs u v) : FabricActs s v := by
  obtain ⟨hcl, hcel, hstw⟩ := h
  obtain ⟨kcl, kcel, kstw⟩ := k
  refine ⟨?_, kcel.trans hcel, kstw.trans hstw⟩
  rw [kcl, hcl]

theorem fabricActs_fabFlag (p flag kind : Nat) (s : State) : FabricActs s (fabFlag p flag kind s) := by
  unfold FabricActs
  rw [fabFlag_cl, fabFlag_cel, fabFlag_stw]
  exact ⟨rfl, rfl, rfl⟩

/-- The capture of a conflict: a register, and the step (R156). -/
theorem capture_frame (a : Nat) (v : Word) (steps : SMap (Option Nat)) (s : State) :
    let u := { wrReg s a v with cl := { (wrReg s a v).cl with confStep := steps } }
    FabricActs s u ∧ u.cl.exports = s.cl.exports := ⟨⟨rfl, rfl, rfl⟩, rfl⟩

/-- A noted conflict leaves the drivers of the slots as they are (R156). -/
theorem noteConflict_frame (m t : Nat) (s : State) :
    FabricActs s (noteConflict m t s) ∧ (noteConflict m t s).cl.exports = s.cl.exports := by
  unfold noteConflict
  dsimp only
  rw [fabFlag_cl]
  split
  · exact ⟨fabricActs_fabFlag .., rfl⟩
  split
  · obtain ⟨hacts, hexports⟩ := capture_frame _ _ _ s
    exact ⟨hacts.trans (fabricActs_fabFlag ..), hexports⟩
  · exact ⟨fabricActs_fabFlag .., rfl⟩

/-- A slot's value, placed: what the fabric notes and shows of it changes no driver (R142, R156, R270). -/
theorem placedSlot_frame (m slot t : Nat) (conflict : Bool) (s : State) :
    let u := borderTrack m slot t (whenDo conflict (noteConflict m t) s)
    FabricActs s u ∧ u.cl.exports = s.cl.exports := by
  have hnote : FabricActs s (whenDo conflict (noteConflict m t) s) ∧
      (whenDo conflict (noteConflict m t) s).cl.exports = s.cl.exports := by
    cases conflict
    · exact ⟨.refl s, rfl⟩
    · exact noteConflict_frame m t s
  obtain ⟨regs, hborder⟩ := borderTrack_frame m slot t (whenDo conflict (noteConflict m t) s)
  rw [hborder]
  exact hnote

/-- A BP that drives an fabric slot acts on the fabric, and is then among the slot's drivers (R142). -/
theorem driveExport_drives {m n t x : Nat} {s : State} (v : Ctx) (hx : x ≠ 0)
    (hgood : cfgGood s (fabA (physOf s m) (n * 16 + 4 * (x / 4))) = true)
    (hslot : rdFld s (fabA (physOf s m) (n * 16 + 4 * (x / 4))) (8 * (x % 4)) 7 < 80) :
    FabricActs s (driveExport m n t x v s) ∧
      (n, v) ∈ mapGet [] (driveExport m n t x v s).cl.exports
        (kExp m (rdFld s (fabA (physOf s m) (n * 16 + 4 * (x / 4))) (8 * (x % 4)) 7) t) := by
  unfold driveExport
  dsimp only
  rw [if_neg hx, if_neg (by simp [hgood]), if_neg (by omega)]
  generalize rdFld s (fabA (physOf s m) (n * 16 + 4 * (x / 4))) (8 * (x % 4)) 7 = slot
  obtain ⟨hacts, hexports⟩ := placedSlot_frame m slot t _ _
  refine ⟨.trans ⟨rfl, rfl, rfl⟩ hacts, ?_⟩
  rw [hexports, mapGet_mapSet_same]
  exact List.mem_append_right _ (List.mem_singleton_self _)

/-- A BP without an fabric slot drives none. -/
theorem driveExport_none (m n t : Nat) (v : Ctx) (s : State) : driveExport m n t 0 v s = s := if_pos rfl

/-! ### Pond, hints and probes (R53, R60, R61) -/

theorem bpStore_frame (p n : Nat) (d : BpDest) (v : Ctx) (s : State) :
    bpStore p n d v s = { s with cl := (bpStore p n d v s).cl } := by
  cases d with
  | none => rfl
  | working a => rfl
  | flop f => exact (stateWrite_frame p n f v s).trans (by rw [bpStore, stateWrite_frame])
  | illegal => rfl

/-- The pond effect of a result reads and writes the pond alone. -/
theorem bpStore_cl (p n : Nat) (d : BpDest) (v : Ctx) {s x : State} (hpond : x.cl.pond = s.cl.pond)
    (hptr : x.cl.fptr = s.cl.fptr) (hwritten : x.cl.written = s.cl.written) :
    (bpStore p n d v x).cl = { x.cl with
      pond := (bpStore p n d v s).cl.pond
      written := (bpStore p n d v s).cl.written } := by
  cases d with
  | none => simp only [bpStore, ← hpond, ← hwritten]
  | working a => simp only [bpStore, pondWrite, ← hpond, ← hwritten]
  | flop f =>
    simp only [bpStore]
    rw [stateWrite_frame p n f v x, stateWrite_frame p n f v s]
    have hsame : (stateWrite p n f v x).cl.pond = (stateWrite p n f v s).cl.pond := by
      have hsel : fptr x p n f = fptr s p n f := by rw [fptr, hptr, fptr]
      have hraw : ∀ a, pondRaw x p n a = pondRaw s p n a := fun a => by rw [pondRaw, hpond, pondRaw]
      simp only [stateWrite_pond, bankAWritten, pond_writtenUnless]
      rw [hsel, hraw, hraw, hpond]
    simp only [hsame, hwritten]
  | illegal => simp only [bpStore, ← hpond, ← hwritten]

theorem bpStore_fptr (p n : Nat) (d : BpDest) (v : Ctx) (s : State) : (bpStore p n d v s).cl.fptr = s.cl.fptr :=
  (congrArg Clusters.fptr (bpStore_cl p n d v (s := s) rfl rfl rfl) :)

theorem bpSpecial_frame (p n : Nat) (w : BitVec 72) (v : Ctx) (s : State) :
    bpSpecial p n w v s = { s with cl := (bpSpecial p n w v s).cl } := by
  unfold bpSpecial
  split <;> rfl

/-- The further effect of a special reads and writes hints and probes alone. -/
theorem bpSpecial_cl (p n : Nat) (w : BitVec 72) (v : Ctx) {s x : State} (hhint : x.cl.hintOff = s.cl.hintOff)
    (hprobe : x.cl.probe = s.cl.probe) :
    (bpSpecial p n w v x).cl = { x.cl with
      hintOff := (bpSpecial p n w v s).cl.hintOff
      probe := (bpSpecial p n w v s).cl.probe } := by
  unfold bpSpecial
  cases bpKind w <;> simp only [← hhint, ← hprobe]

theorem bpSpecial_hintOff {p n : Nat} {w : BitVec 72} (v : Ctx) (s : State) (h : bpKind w ≠ .swaphint) :
    (bpSpecial p n w v s).cl.hintOff = s.cl.hintOff := by
  unfold bpSpecial
  split
  · contradiction
  · rfl
  · rfl

theorem bpSpecial_probe {p n : Nat} {w : BitVec 72} (v : Ctx) (s : State) (h : bpKind w ≠ .probe) :
    (bpSpecial p n w v s).cl.probe = s.cl.probe := by
  unfold bpSpecial
  split
  · rfl
  · contradiction
  · rfl

/-! ### A result and its effects -/

/-- What a BP's result does: step bus, fabric slot, pond, and the further effects of SWAPHINT and PROBE. -/
def bpPlace (m n t : Nat) (w : BitVec 72) (r : Ctx) (s : State) : State :=
  let p := physOf s m
  bpSpecial p n w r (bpStore p n (bpDest w) r (driveExport m n t (bpExp w) r (busPut m n t r s)))

/-- The fabric slot that an instruction drives, if any, may be driven: its map entry is good and names a slot (R142, R157). -/
def SlotOk (s : State) (m n : Nat) (w : BitVec 72) : Prop :=
  bpExp w = 0 ∨ cfgGood s (fabA (physOf s m) (n * 16 + 4 * (bpExp w / 4))) = true ∧ bpSlot s m n w < 80

/-- What the fabric is left with by the step bus and the fabric slot. -/
theorem driveExport_busPut {s : State} {m n : Nat} {w : BitVec 72} (h : SlotOk s m n w) (t : Nat) (r : Ctx) :
    FabricActs (busPut m n t r s) (driveExport m n t (bpExp w) r (busPut m n t r s)) ∧
      (bpExp w = 0 → driveExport m n t (bpExp w) r (busPut m n t r s) = busPut m n t r s) ∧
      (bpExp w ≠ 0 → (n, r) ∈ mapGet [] (driveExport m n t (bpExp w) r (busPut m n t r s)).cl.exports
        (kExp m (bpSlot s m n w) t)) := by
  by_cases hexp : bpExp w = 0
  · have hnone := driveExport_none m n t r (busPut m n t r s)
    rw [hexp, hnone]
    exact ⟨.refl _, fun _ => rfl, fun hne => absurd rfl hne⟩
  · obtain ⟨hgood, hslot⟩ := h.resolve_left hexp
    obtain ⟨hacts, hdriven⟩ := driveExport_drives (s := busPut m n t r s) (t := t) r hexp hgood hslot
    exact ⟨hacts, fun he => absurd he hexp, fun _ => hdriven⟩

/-- The effects of a result are apart: each part of the clusters is as its own effect leaves it. -/
theorem bpPlace_cl {s : State} {m n : Nat} {w : BitVec 72} (h : SlotOk s m n w) (t : Nat) (r : Ctx) :
    (bpPlace m n t w r s).cl = { s.cl with
      bpBus := mapSet 0 s.cl.bpBus (kBus m n t) r
      exports := (driveExport m n t (bpExp w) r (busPut m n t r s)).cl.exports
      confStep := (driveExport m n t (bpExp w) r (busPut m n t r s)).cl.confStep
      pond := (bpStore (physOf s m) n (bpDest w) r s).cl.pond
      written := (bpStore (physOf s m) n (bpDest w) r s).cl.written
      hintOff := (bpSpecial (physOf s m) n w r s).cl.hintOff
      probe := (bpSpecial (physOf s m) n w r s).cl.probe } := by
  obtain ⟨⟨hfabric, -, -⟩, -, -⟩ := driveExport_busPut h t r
  have hstore := bpStore_cl (physOf s m) n (bpDest w) r (s := s) (x := driveExport m n t (bpExp w) r (busPut m n t r s))
    (by rw [hfabric]; rfl) (by rw [hfabric]; rfl) (by rw [hfabric]; rfl)
  have hspecial := bpSpecial_cl (physOf s m) n w r (s := s)
    (x := bpStore (physOf s m) n (bpDest w) r (driveExport m n t (bpExp w) r (busPut m n t r s)))
    (by rw [hstore, hfabric]; rfl) (by rw [hstore, hfabric]; rfl)
  unfold bpPlace
  rw [hspecial, hstore, hfabric]
  rfl

/-- Beside the clusters the effects of a result are those of the fabric slot. -/
theorem bpPlace_frame (m n t : Nat) (w : BitVec 72) (r : Ctx) (s : State) :
    bpPlace m n t w r s =
      { driveExport m n t (bpExp w) r (busPut m n t r s) with cl := (bpPlace m n t w r s).cl } := by
  unfold bpPlace
  dsimp only
  rw [bpSpecial_frame, bpStore_frame]

/-- The views of the ponds depend on the ponds alone. -/
theorem pondViews_congr {u x : State} (hpond : u.cl.pond = x.cl.pond) (hptr : u.cl.fptr = x.cl.fptr)
    (hwritten : u.cl.written = x.cl.written) (p n f : Nat) :
    flopCur u p n f = flopCur x p n f ∧ flopNext u p n f = flopNext x p n f ∧ flopWritten u p n f = flopWritten x p n f := by
  have hraw : ∀ a, pondRaw u p n a = pondRaw x p n a := fun a => by rw [pondRaw, hpond, pondRaw]
  have hsel : fptr u p n f = fptr x p n f := by rw [fptr, hptr, fptr]
  have hflag : flopWritten u p n f = flopWritten x p n f := by rw [flopWritten, hwritten, flopWritten]
  have hcur : flopCur u p n f = flopCur x p n f := by rw [flopCur, hraw, hraw, hsel, flopCur]
  have hopp : flopOpp u p n f = flopOpp x p n f := by rw [flopOpp, hraw, hraw, hsel, flopOpp]
  exact ⟨hcur, by rw [flopNext, hflag, hcur, hopp, flopNext], hflag⟩

/-- A result is delivered: the effects of `bpPlace` are those that R53 to R55, R63 and R142 name. -/
theorem bpPlace_delivers {s : State} {m n : Nat} {w : BitVec 72} (h : SlotOk s m n w) (t : Nat) (r : Ctx) :
    BpDelivers s (bpPlace m n t w r s) m n t w r := by
  obtain ⟨⟨-, hcel, hstw⟩, hsame, hdriven⟩ := driveExport_busPut h t r
  have hcl := bpPlace_cl h t r
  have hframe := bpPlace_frame m n t w r s
  refine ⟨?bus, ?others, ?dest, ?undriven, ?driven, ?hint, ?probe, ?_, ?_, ?_, ?_, ?_, ?_⟩
  case bus => rw [hcl]; exact mapGet_mapSet_same
  case others => intro k hk; rw [hcl]; exact mapGet_mapSet_other hk
  case dest =>
    have hpond : (bpPlace m n t w r s).cl.pond = (bpStore (physOf s m) n (bpDest w) r s).cl.pond :=
      (congrArg Clusters.pond hcl :)
    have hwritten : (bpPlace m n t w r s).cl.written = (bpStore (physOf s m) n (bpDest w) r s).cl.written :=
      (congrArg Clusters.written hcl :)
    have hptr : (bpPlace m n t w r s).cl.fptr = (bpStore (physOf s m) n (bpDest w) r s).cl.fptr :=
      (congrArg Clusters.fptr hcl :).trans (bpStore_fptr ..).symm
    have hviews := pondViews_congr hpond hptr hwritten (physOf s m) n
    cases hd : bpDest w with
    | working a =>
      rw [hd] at hpond hwritten
      refine ⟨?_, hwritten, fun k hk => ?_⟩
      · rw [pondRaw, hpond]; exact mapGet_mapSet_same
      · rw [hpond]; exact mapGet_mapSet_other hk
    | flop f =>
      rw [hd] at hviews hpond hwritten
      obtain ⟨hcur, hnext, hflag⟩ := hviews f
      refine ⟨hnext.trans (flopNext_stateWrite ..), hcur.trans (flopCur_stateWrite ..),
        hflag.trans (flopWritten_stateWrite ..), fun k hk => ?_, fun k hA hB => ?_⟩
      · rw [hwritten, bpStore, stateWrite_written]; exact mapGet_mapSet_other hk
      · rw [hpond]; exact mapGet_stateWrite_other _ _ _ _ _ hA hB
    | none => rw [hd] at hpond hwritten; exact ⟨hpond, hwritten⟩
    | illegal => rw [hd] at hpond hwritten; exact ⟨hpond, hwritten⟩
  case undriven =>
    intro hexp
    rw [hframe, hcl, hsame hexp]
    exact ⟨rfl, rfl⟩
  case driven => intro hexp; rw [hcl]; exact hdriven hexp
  case hint => intro hk; rw [hcl]; exact bpSpecial_hintOff r s hk
  case probe => intro hk; rw [hcl]; exact bpSpecial_probe r s hk
  · exact (congrArg Clusters.bpMem hcl :)
  · exact (congrArg Clusters.wreg hcl :)
  · exact (congrArg Clusters.rows hcl :)
  · exact (congrArg Clusters.macAcc hcl :)
  · rw [hframe]; exact hcel
  · rw [hframe]; exact hstw

end Sys2Proof.Machine
end

section
/-! PROOFS. The instructions of a BP that executes without an event: its result (R51, R58, R75) and its effects. -/

namespace Sys2Proof.Machine

/-- Operands that meet no event set no flag (R50, R72, R127). -/
theorem bpReadFlags_quiet {s : State} {m n t : Nat} {w : BitVec 72}
    (hcodes : [bpA w, bpB w, bpC w, bpD w].any codeReserved = false)
    (hreads : ∀ c ∈ bpReads w, (bpOperand s m n t c).parBad = false ∧ (bpOperand s m n t c).dptBad = none) :
    bpReadFlags m n t w s = s := by
  have hpar : ((bpReads w).map (bpOperand s m n t)).any (fun r => r.parBad) = false := by
    simpa using fun c hc => (hreads c hc).1
  have hports : ((bpReads w).map (bpOperand s m n t)).filterMap (fun r => r.dptBad) = [] := by
    simpa using fun c hc => (hreads c hc).2
  unfold bpReadFlags
  dsimp only
  rw [hpar, hcodes, hports]
  rfl

/-- The raw result of an instruction on the operands of a step. -/
def bpRaw (s : State) (m n t : Nat) (w : BitVec 72) : Ctx :=
  bpResult w (bpVal s m n t (bpA w)) (bpVal s m n t (bpB w)) (bpVal s m n t (bpC w)) (bpVal s m n t (bpD w))

/-- What an instruction delivers: its raw result, forced or inverted where an inject is armed for it (R75). -/
def bpDelivered (s : State) (m n t : Nat) (w : BitVec 72) : Ctx :=
  let p := physOf s m
  if injectHits s p n t ∧ bpMode w = 2 then
    injectApply ((rdReg s (bpcA p n 0x0)).setWidth 8) ((rdReg s (bpcA p n 0x4)).setWidth 8) (rdBit s (bpcA p n 0x4) 8)
      (bpRaw s m n t w)
  else bpRaw s m n t w

theorem bpDelivered_of_mode {s : State} {m n t : Nat} {w : BitVec 72} (h : bpMode w ≠ 2) :
    bpDelivered s m n t w = bpRaw s m n t w := if_neg fun hhit => h hhit.2

theorem BpRuns.slotOk {s : State} {m n t : Nat} {w : BitVec 72} (h : BpRuns s m n t w) : SlotOk s m n w := by
  obtain ⟨-, -, -, -, -, hslot, -, -⟩ := h
  exact hslot

/-- An entry without inverted bits is fetched as it was written (R71). -/
theorem bpFetch_intact {s : State} {p n e : Nat} {w : BitVec 72} (hmem : mapGet 0#72 s.cl.bpMem (kEntry p n e) = w)
    (hflips : mapGet [] s.cl.bpFlips (kEntry p n e) = []) : bpFetch s p n e = (w, false, false) := by
  rw [bpFetch, hmem, hflips, secded]

/-- A BP that runs an instruction places what the instruction delivers. -/
theorem bpExec_runs {s : State} {m n t : Nat} {w : BitVec 72} (h : BpRuns s m n t w) (hw : w ≠ 0#72) :
    bpExec (bpKind w) m n t s = bpPlace m n t w (bpDelivered s m n t w) s := by
  obtain ⟨hsched, hn, hmem, hflips, hlegal, -, hcodes, hreads⟩ := h
  have hfetch := bpFetch_intact hmem hflips
  have hrow : bpRowIs s m n t (bpKind w) = true := by simp [bpRowIs, hfetch]
  have hstep : bpStep m n t s = bpRun m n t w s := by simp [bpStep, hfetch, hlegal, hw, whenDo]
  rw [bpExec, if_pos (by simp [hsched, hn, hrow]), hstep, bpRun]
  dsimp only
  rw [bpReadFlags_quiet hcodes hreads]
  rfl

/-! ### The specials (R58) -/

/-- MODE 2 is an inject point, no special. -/
theorem bpKind_of_mode_two {w : BitVec 72} (h : bpMode w = 2) : bpKind w = .nop ∨ bpKind w = .inject := by
  unfold bpKind
  rw [h]
  split
  · exact .inl rfl
  · exact .inr rfl

/-- A special that runs places its raw result. -/
theorem bpExec_special {s : State} {m n t : Nat} {w : BitVec 72} {k : BpKind} (h : BpRuns s m n t w) (hk : bpKind w = k)
    (hnop : k ≠ .nop) (hinject : k ≠ .inject) : bpExec k m n t s = bpPlace m n t w (bpRaw s m n t w) s := by
  subst hk
  have hw : w ≠ 0#72 := fun h0 => hnop (by rw [bpKind, if_pos h0])
  have hmode : bpMode w ≠ 2 := fun h2 => (bpKind_of_mode_two h2).elim hnop hinject
  rw [bpExec_runs h hw, bpDelivered_of_mode hmode]

theorem bpPar_testBit (w : BitVec 72) {i : Nat} (h : i < 12) : (bpPar w).testBit i = w.getLsbD (56 + i) := by
  simp [bpPar, fld_testBit, h]

/-- The low bits of a field are a field. -/
theorem fld_mod {w : Nat} (v : BitVec w) (lo n : Nat) {k : Nat} (h : k ≤ n) : fld v lo n % 2 ^ k = fld v lo k :=
  Nat.mod_mod_of_dvd _ (Nat.pow_dvd_pow 2 h)

/-- The high bits of a field are a field. -/
theorem fld_div {w : Nat} (v : BitVec w) (lo n k : Nat) : fld v lo n / 2 ^ k = fld v (lo + k) (n - k) := by
  refine Nat.eq_of_testBit_eq fun i => ?_
  rw [Nat.testBit_div_two_pow, fld_testBit, fld_testBit, Nat.add_assoc, Nat.add_comm k i]
  by_cases h : i + k < n
  · simp [h, show i < n - k by omega]
  · simp [h, show ¬ i < n - k by omega]

theorem getLsbD_inverted (b : Bool) (v : Ctx) {c : Nat} (h : c < 8) :
    (if b then ~~~ v else v).getLsbD c = xor (v.getLsbD c) b := by
  cases b <;> simp [h]

theorem getLsbD_bpResult_sel {w : BitVec 72} (hk : bpKind w = .sel) (va vb vc vd : Ctx) {c : Nat} (h : c < 8) :
    (bpResult w va vb vc vd).getLsbD c =
      if xor (vc.getLsbD c) (w.getLsbD (56 + 2)) then xor (vb.getLsbD c) (w.getLsbD (56 + 1))
      else xor (va.getLsbD c) (w.getLsbD (56 + 0)) := by
  rw [bpResult, hk]
  dsimp only
  rw [getLsbD_pick, getLsbD_inverted _ _ h, getLsbD_inverted _ _ h, getLsbD_inverted _ _ h, bpPar_testBit w (by decide),
    bpPar_testBit w (by decide), bpPar_testBit w (by decide)]

theorem getLsbD_bpResult_rowcopy {w : BitVec 72} (hk : bpKind w = .rowcopy) (va vb vc vd : Ctx) {c : Nat} (h : c < 8) :
    (bpResult w va vb vc vd).getLsbD c =
      if fld w 66 2 = 0 then va.getLsbD (fld w 56 3)
      else if fld w 66 2 = 1 then va.getLsbD ((c + 8 - fld w 56 3) % 8)
      else va.getLsbD (7 - c) := by
  have hform : bpPar w / 1024 = fld w 66 2 := fld_div w 56 12 10
  have hk3 : bpPar w % 8 = fld w 56 3 := fld_mod w 56 12 (k := 3) (by decide)
  rw [bpResult, hk]
  dsimp only
  rw [hform, hk3]
  split
  case h_1 h0 => rw [if_pos h0, getLsbD_tickWide _ h]
  case h_2 h1 => rw [if_neg (by omega), if_pos h1, getLsbD_ctxOf _ h]
  case h_3 h0 h1 => rw [if_neg h0, if_neg h1, getLsbD_ctxOf _ h]

theorem bpResult_swaphint {w : BitVec 72} (hk : bpKind w = .swaphint) (va vb vc vd : Ctx) : bpResult w va vb vc vd = va := by
  rw [bpResult, hk]

theorem bpResult_probe {w : BitVec 72} (hk : bpKind w = .probe) (va vb vc vd : Ctx) : bpResult w va vb vc vd = va := by
  rw [bpResult, hk]

/-- SWAPHINT notes the contexts in which its result is 0 (R60). -/
theorem bpSpecial_swaphint {w : BitVec 72} (hk : bpKind w = .swaphint) (p n : Nat) (v : Ctx) (s : State) :
    (bpSpecial p n w v s).cl.hintOff =
      mapSet 0#8 s.cl.hintOff (kBp p n) (mapGet 0#8 s.cl.hintOff (kBp p n) ||| ~~~ v) := by
  rw [bpSpecial, hk]
  rfl

/-- PROBE latches its result into the slot that its parameter names (R61). -/
theorem bpSpecial_probe_latches {w : BitVec 72} (hk : bpKind w = .probe) (p n : Nat) (v : Ctx) (s : State) :
    (bpSpecial p n w v s).cl.probe = mapSet 0#8 s.cl.probe (p * 64 + fld w 56 6) v := by
  have hslot : bpPar w % 64 = fld w 56 6 := fld_mod w 56 12 (k := 6) (by decide)
  rw [bpSpecial, hk, ← hslot]
  rfl

end Sys2Proof.Machine

open Sys2Proof Sys2Proof.Machine

/-- Settles O15: a special that runs places its raw result (`bpExec_special`), which is delivered (`bpPlace_delivers`). An operand
that its form does not read raises no parity error: that is the model's reading of R58 and R72 (log entry 22). -/
theorem specialInstructionsDeliver : Obligations.SpecialInstructionsDeliver := by
  intro s m n t w h
  have hslot := h.slotOk
  have hdelivers := bpPlace_delivers hslot t (bpRaw s m n t w)
  have hcl := bpPlace_cl hslot t (bpRaw s m n t w)
  refine ⟨fun hk => ?sel, fun hk => ?rowcopy, fun hk => ?swaphint, fun hk => ?probe⟩
  case sel =>
    exact ⟨_, _, congrArg Host.Outcome.next (bpExec_special h hk (by decide) (by decide)), hdelivers,
      fun c hc => getLsbD_bpResult_sel hk _ _ _ _ hc⟩
  case rowcopy =>
    exact ⟨_, _, congrArg Host.Outcome.next (bpExec_special h hk (by decide) (by decide)), hdelivers,
      fun c hc => getLsbD_bpResult_rowcopy hk _ _ _ _ hc⟩
  case swaphint =>
    have hraw : bpRaw s m n t w = bpVal s m n t (bpA w) := bpResult_swaphint hk _ _ _ _
    have hhint := (congrArg Clusters.hintOff hcl :).trans (bpSpecial_swaphint hk (physOf s m) n _ s)
    refine ⟨_, _, congrArg Host.Outcome.next (bpExec_special h hk (by decide) (by decide)), hdelivers,
      fun c _ => congrArg (·.getLsbD c) hraw, fun c hc => ?_, fun k hne => ?_⟩
    · rw [hhint, mapGet_mapSet_same, hraw, BitVec.getLsbD_or, BitVec.getLsbD_not]
      simp [hc]
    · rw [hhint]
      exact mapGet_mapSet_other hne
  case probe =>
    have hraw : bpRaw s m n t w = bpVal s m n t (bpA w) := bpResult_probe hk _ _ _ _
    have hprobe := (congrArg Clusters.probe hcl :).trans (bpSpecial_probe_latches hk (physOf s m) n _ s)
    refine ⟨_, _, congrArg Host.Outcome.next (bpExec_special h hk (by decide) (by decide)), hdelivers,
      fun c _ => congrArg (·.getLsbD c) hraw, ?_, fun k hne => ?_⟩
    · rw [hprobe, mapGet_mapSet_same]
    · rw [hprobe]
      exact mapGet_mapSet_other hne

end

section
/-! PROOFS. Entries that a BP does not execute: uncorrectable ones and illegal combinations (R53, R59, R71, R73). -/

namespace Sys2Proof.Machine

/-- Two inverted bits are uncorrectable (R71). -/
theorem bpFetch_two_flips {s : State} {p n e i j : Nat} (h : mapGet [] s.cl.bpFlips (kEntry p n e) = [i, j]) :
    ∃ w, bpFetch s p n e = (w, false, true) := by
  rw [bpFetch, h, secded]
  exact ⟨_, rfl⟩

/-- A NOP takes the place of an uncorrectable entry, in the command of the word as written (log entry 17). -/
theorem bpExec_uncorrectable {s : State} {m n t : Nat} {w : BitVec 72} (hsched : inSchedule s m t = true) (hn : n < 128)
    (hfetch : bpFetch s (physOf s m) n (bpEntryAddr s (physOf s m) n t) = (w, false, true)) :
    bpExec (bpKind (mapGet 0#72 s.cl.bpMem (kEntry (physOf s m) n (bpEntryAddr s (physOf s m) n t)))) m n t s =
      bpNop m n t (bpFlag (physOf s m) n 0 1 (n * 1024 + bpEntryAddr s (physOf s m) n t) s) := by
  have hrow : bpRowIs s m n t
      (bpKind (mapGet 0#72 s.cl.bpMem (kEntry (physOf s m) n (bpEntryAddr s (physOf s m) n t)))) = true := by
    simp [bpRowIs, hfetch]
  rw [bpExec, if_pos (by simp [hsched, hn, hrow]), bpStep]
  dsimp only
  rw [hfetch]
  rfl

/-- A NOP takes the place of an illegal combination (R53, R59). -/
theorem bpExec_illegal {s : State} {m n t : Nat} {w : BitVec 72} (hsched : inSchedule s m t = true) (hn : n < 128)
    (hfetch : bpFetch s (physOf s m) n (bpEntryAddr s (physOf s m) n t) = (w, false, false)) (hillegal : bpIllegal w = true) :
    bpExec (bpKind w) m n t s = bpNop m n t (bpFlag (physOf s m) n 2 3 0 s) := by
  have hrow : bpRowIs s m n t (bpKind w) = true := by simp [bpRowIs, hfetch]
  rw [bpExec, if_pos (by simp [hsched, hn, hrow]), bpStep]
  dsimp only
  rw [hfetch]
  dsimp only
  rw [hillegal]
  rfl

theorem rdBit_busPut (m n t : Nat) (v : Ctx) (s : State) (a i : Nat) : rdBit (busPut m n t v s) a i = rdBit s a i := rfl

/-- A NOP in the place of a faulty entry: 0x00 on the step bus, the flag of BPC_STATUS and its report, and nothing in the pond
or on an fabric slot (R46, R71, R73). -/
theorem flaggedNop_effect (m n t p kind detail : Nat) (s : State) {flag : Nat} (hflag : flag < 32) :
    let u := bpNop m n t (bpFlag p n flag kind detail s)
    mapGet 0 u.cl.bpBus (kBus m n t) = 0#8 ∧ rdBit u (bpcA p n 0x18) flag = true ∧ Reports s u kind p detail ∧
      u.cl.pond = s.cl.pond ∧ u.cl.exports = s.cl.exports ∧ u.cl.written = s.cl.written := by
  have hcl : (bpNop m n t (bpFlag p n flag kind detail s)).cl =
      { s.cl with bpBus := mapSet 0 s.cl.bpBus (kBus m n t) 0 } := by
    rw [bpNop, busPut, bpFlag_cl]
  have hbus : (bpNop m n t (bpFlag p n flag kind detail s)).cl.bpBus = mapSet 0#8 s.cl.bpBus (kBus m n t) 0#8 :=
    (congrArg Clusters.bpBus hcl :)
  refine ⟨?_, ?_, ?_, ?_, ?_, ?_⟩
  · rw [hbus]
    exact mapGet_mapSet_same
  · rw [bpNop, rdBit_busPut, rdBit_bpFlag _ _ _ _ _ hflag]
  · rw [bpNop, Reports, busPut_att]
    exact bpFlag_reports p n flag kind detail s
  · exact (congrArg Clusters.pond hcl :)
  · exact (congrArg Clusters.exports hcl :)
  · exact (congrArg Clusters.written hcl :)

end Sys2Proof.Machine

open Sys2Proof Sys2Proof.Machine

/-- Settles O16: both kinds of entry are replaced by a NOP with a flag (`bpExec_uncorrectable`, `bpExec_illegal`), whose effect is
`flaggedNop_effect`. That an uncorrectable entry counts as the row of the word written is the model's choice (log entry 17). -/
theorem faultyBpEntryRunsAsNop : Obligations.FaultyBpEntryRunsAsNop := by
  intro s m n t i j w hsched hn p e hmem hkind
  refine ⟨fun hflips => ?uncorrectable, fun hflips hillegal => ?illegal⟩
  case uncorrectable =>
    obtain ⟨v, hfetch⟩ := bpFetch_two_flips hflips
    have hexec := bpExec_uncorrectable hsched hn hfetch
    rw [hmem, hkind] at hexec
    exact ⟨_, congrArg Host.Outcome.next hexec, flaggedNop_effect m n t p 1 (n * 1024 + e) s (by decide)⟩
  case illegal =>
    have hexec := bpExec_illegal hsched hn (bpFetch_intact hmem hflips) hillegal
    rw [hkind] at hexec
    obtain ⟨hbus, hflag, ⟨r, hreports, hk, hunit, -⟩, hkept⟩ := flaggedNop_effect m n t p 3 0 s (flag := 2) (by decide)
    exact ⟨_, congrArg Host.Outcome.next hexec, hbus, hflag, ⟨r, hreports, hk, hunit⟩, hkept⟩

end

section
/-! PROOFS. Writes of the registers of a cluster through its logical window (R35, R37): inject registers, counters and their
clears (R77, R85, R131, R136). -/

namespace Sys2Proof.Machine

/-! ### The way to a register of a cluster window -/

theorem targetOf_logA {m o : Nat} (hm : m < 256) (ho : o < 0x400000) : targetOf (logA m o) = .logical m o := by
  have hwindow : (logA m o - 0x100000000) / 0x400000 = m := by unfold logA; omega
  have hoffset : logA m o % 0x400000 = o := by unfold logA; omega
  unfold targetOf
  rw [hwindow, hoffset]
  unfold logA
  iterate 3 rw [if_neg (by omega)]
  rw [if_pos (by omega)]

/-- A write through a logical window, at an offset that is no model state, writes the register of the physical cluster (R37). -/
theorem request_logA {s : State} {who : Requester} {m o : Nat} (hm : m < 256) (ho : o < 0x400000)
    (hreach : Reaches s who (logA m o)) (hmodel : modelWord (physOf s m) o = none) (v : Word) :
    request who (logA m o) true v s =
      answer who true (regWrite who (physA (physOf s m) o) v s).1 0 (regWrite who (physA (physOf s m) o) v s).2 := by
  rw [request_reaches hreach, landing, targetOf_logA hm ho]
  simp only [perform, performStore, hmodel]
  rfl

/-- The rows of the cluster windows (R35). -/
theorem regRow_window {a : Nat} (hlow : 0x10000000 ≤ a) (hhigh : a < 0x54000000) :
    regRow a = clusterRow ((a - 0x10000000) % 0x400000) := by
  unfold regRow
  iterate 14 rw [if_neg (by omega)]
  rw [if_pos (by omega)]

/-- A register of a cluster window that every state lets write is written as its window says. -/
theorem regWrite_window {a : Nat} {r : RegRow} (hlow : 0x10000000 ≤ a) (hrow : regRow a = some r) (hrule : r.rule = .plain)
    (who : Requester) (v : Word) (s : State) :
    regWrite who a v s = clusterWrite who r ((a - 0x10000000) / 0x400000) ((a - 0x10000000) % 0x400000) v s := by
  have hopen : ruleOpen r s = true := by simp [ruleOpen, hrule]
  unfold regWrite
  simp only [hrow, hopen, Bool.true_eq_false, or_false]
  iterate 14 rw [if_neg (by omega)]

theorem regWrite_physA {p o : Nat} {r : RegRow} (hp : p < 272) (ho : o < 0x400000) (hrow : clusterRow o = some r)
    (hrule : r.rule = .plain) (who : Requester) (v : Word) (s : State) :
    regWrite who (physA p o) v s = clusterWrite who r p o v s := by
  have hwindow : (physA p o - 0x10000000) / 0x400000 = p := by unfold physA; omega
  have hoffset : (physA p o - 0x10000000) % 0x400000 = o := by unfold physA; omega
  have hlow : 0x10000000 ≤ physA p o := by unfold physA; omega
  have hhigh : physA p o < 0x54000000 := by unfold physA; omega
  have hreg : regRow (physA p o) = some r := by rw [regRow_window hlow hhigh, hoffset, hrow]
  rw [regWrite_window hlow hreg hrule, hwindow, hoffset]

/-- The offset of register `x` of BP `n` in a cluster window. -/
abbrev bpcOfs (n x : Nat) : Nat := 0x290000 + n * 0x200 + x

/-- The offset of register `x` of word engine `e` in a cluster window. -/
abbrev wenOfs (e x : Nat) : Nat := 0x260000 + e * 0x4000 + x

theorem physA_bpcOfs (p n x : Nat) : physA p (bpcOfs n x) = bpcA p n x := rfl

/-- A write of a BPC register through a logical window. -/
theorem request_bpc {s : State} {who : Requester} {m n x : Nat} {r : RegRow} (hm : m < 256) (hn : n < 128) (hx : x < 0x200)
    (hp : physOf s m < 272) (hreach : Reaches s who (logA m (bpcOfs n x))) (hrow : findRow bpcRows x = some r)
    (hrule : r.rule = .plain) (v : Word) :
    request who (logA m (bpcOfs n x)) true v s =
      answer who true (bpcWrite r (physOf s m) n x v s).1 0 (bpcWrite r (physOf s m) n x v s).2 := by
  have hofs : bpcOfs n x = 0x290000 + n * 0x200 + x := rfl
  have hblock : (bpcOfs n x - 0x290000) / 0x200 = n := by omega
  have hx1 : bpcOfs n x % 0x200 = x := by omega
  have hx2 : (bpcOfs n x - 0x290000) % 0x200 = x := by omega
  have hmodel : modelWord (physOf s m) (bpcOfs n x) = none := by
    unfold modelWord
    iterate 5 rw [if_neg (by omega)]
  have hcluster : clusterRow (bpcOfs n x) = some r := by
    unfold clusterRow
    rw [if_neg (by omega), if_pos (by omega), hx2, hrow]
  have hwrite : clusterWrite who r (physOf s m) (bpcOfs n x) v s = bpcWrite r (physOf s m) n x v s := by
    unfold clusterWrite
    rw [if_pos (by omega), hblock, hx1]
  rw [request_logA hm (by omega) hreach hmodel, regWrite_physA hp (by omega) hcluster hrule, hwrite]

/-- A write of a WEN or STR register through a logical window. -/
theorem request_wen {s : State} {who : Requester} {m e x : Nat} {r : RegRow} (hm : m < 256) (he : e < 8)
    (hx : 0x2200 ≤ x) (hx4 : x < 0x4000) (hp : physOf s m < 272) (hreach : Reaches s who (logA m (wenOfs e x)))
    (hrow : findRow wenRows x = some r ∨ findRow wenRows x = none ∧ findRow strRows x = some r ∧ e < 4)
    (hrule : r.rule = .plain) (v : Word) :
    request who (logA m (wenOfs e x)) true v s =
      answer who true (wenWrite r (physOf s m) e x v s).1 0 (wenWrite r (physOf s m) e x v s).2 := by
  have hofs : wenOfs e x = 0x260000 + e * 0x4000 + x := rfl
  have hblock : (wenOfs e x - 0x260000) / 0x4000 = e := by omega
  have hx1 : wenOfs e x % 0x4000 = x := by omega
  have hx2 : (wenOfs e x - 0x260000) % 0x4000 = x := by omega
  have hmodel : modelWord (physOf s m) (wenOfs e x) = none := by
    unfold modelWord
    iterate 3 rw [if_neg (by omega)]
    rw [if_pos (by omega), hx1]
    dsimp only
    iterate 2 rw [if_neg (by omega)]
  have hcluster : clusterRow (wenOfs e x) = some r := by
    unfold clusterRow
    rw [if_pos (by omega), hx2]
    rcases hrow with hwen | ⟨hnone, hstr, he4⟩
    · rw [hwen]
      rfl
    · rw [hnone, if_pos (by omega), hstr]
      rfl
  have hwrite : clusterWrite who r (physOf s m) (wenOfs e x) v s = wenWrite r (physOf s m) e x v s := by
    unfold clusterWrite
    rw [if_neg (by omega), if_pos (by omega), hblock, hx1]
  rw [request_logA hm (by omega) hreach hmodel, regWrite_physA hp (by omega) hcluster hrule, hwrite]

end Sys2Proof.Machine
end

section
/-! PROOFS. Inject registers and counter clears of a cluster (R77, R85, R131, R136). -/

namespace Sys2Proof.Machine

/-! ### Inject registers (R77) -/

/-- In Ready and Held an inject register takes its bits at once. -/
theorem injWrite_at_once {s : State} (h : s.chip.devState = .ready ∨ s.chip.devState = .held) (p n r : Nat) (v : Word) :
    injWrite p n r v s = wrReg s (bpcA p n (4 * r)) (v &&& injMask r) := by
  unfold injWrite
  rcases h with h | h <;> rw [h] <;> rfl

/-- While Running, outside a boundary extension, its bits are staged, and INJ_PEND is set. -/
theorem injWrite_staged {s : State} (hrun : s.chip.devState = .running) (hpos : s.spr.pos ≠ .extension) (p n r : Nat) (v : Word) :
    injWrite p n r v s =
      setBit { s with cl := { s.cl with
        injStaged := mapIns (mapDel s.cl.injStaged (bpcA p n (4 * r))) (bpcA p n (4 * r)) (v &&& injMask r) } }
        (bpcA p n 0x18) 4 := by
  unfold injWrite
  rw [hrun]
  dsimp only
  rw [if_neg hpos]
  rfl

theorem findRow_inject {r : Nat} (h : r < 3) : ∃ row, findRow bpcRows (4 * r) = some row ∧ row.rule = .plain := by
  interval_cases r <;> exact ⟨_, rfl, rfl⟩

/-- BPC_INJ_WRITE is an inject write, in the states that take one. -/
theorem exec_bpcInjWrite {s : State} {who : Requester} {m n r : Nat} (hm : m < 256) (hn : n < 128) (hr : r < 3)
    (hp : physOf s m < 272) (hreach : Reaches s who (logA m (bpcOfs n (4 * r))))
    (hst : s.chip.devState = .ready ∨ s.chip.devState = .held ∨ s.chip.devState = .running) (v : Word) :
    exec (.bpcInjWrite who m n r v) s = .next (answer who true .ok 0 (injWrite (physOf s m) n r v s)) := by
  obtain ⟨row, hrow, hrule⟩ := findRow_inject hr
  have hwrite : bpcWrite row (physOf s m) n (4 * r) v s = (.ok, injWrite (physOf s m) n r v s) := by
    unfold bpcWrite
    rw [if_pos (by omega), Nat.mul_div_cancel_left r (by decide)]
    rcases hst with h | h | h <;> rw [h]
  show execBpcInjWrite who m n r v s = _
  rw [execBpcInjWrite, if_pos ⟨hm, hn, hr⟩, request_bpc hm hn (by omega) hp hreach hrow hrule, hwrite]

theorem mapGet_mapIns_mapDel {α : Type} (d v : α) (l : SMap α) (k : Nat) : mapGet d (mapIns (mapDel l k) k v) k = v :=
  mapGet_mapIns_same fun _ hq => (mem_mapDel.1 hq).2

theorem bpcA_inject_ne_status (p n : Nat) {r : Nat} (h : r < 3) : bpcA p n (4 * r) ≠ bpcA p n 0x18 := by
  unfold bpcA physA
  omega

/-! ### Counter clears (R85, R131, R136) -/

theorem OnlyRegs.wrReg {s u : State} {as : List Nat} {a : Nat} (h : OnlyRegs s u as) (ha : a ∈ as) (v : Word) :
    OnlyRegs s (wrReg u a v) as := by
  obtain ⟨hother, hframe⟩ := h
  refine ⟨fun b hb => ?_, ?_⟩
  · have hne : b ≠ a := fun e => hb (e ▸ ha)
    exact ⟨(rdReg_wrReg_other u v hne).trans (hother b hb).1, (hother b hb).2⟩
  · rw [hframe]
    rfl

theorem OnlyRegs.mono {s u : State} {as bs : List Nat} (h : OnlyRegs s u as) (hsub : as ⊆ bs) : OnlyRegs s u bs :=
  ⟨fun b hb => h.1 b fun ha => hb (hsub ha), h.2⟩

/-- CNT_CLR, alone in the word written (R85, R131, R136). -/
def cntClr : Word := 0x20

/-- A status register: it stores no bit of a write, and CNT_CLR is none of the flags that a 1 clears. -/
def IsStatus (r : RegRow) : Prop := r.rw = 0 ∧ r.rwl = 0 ∧ r.w1s = 0 ∧ cntClr &&& BitVec.ofNat 32 r.w1c = 0

theorem rdReg_storeReg_cntClr {r : RegRow} (h : IsStatus r) (a : Nat) (s : State) :
    rdReg (storeReg r a cntClr s) a = rdReg s a := by
  obtain ⟨hrw, hrwl, hw1s, hw1c⟩ := h
  have hones : ∀ x : Word, x &&& 0xFFFFFFFF#32 = x := fun x => BitVec.and_allOnes
  rw [show rdReg (storeReg r a cntClr s) a = _ from rdReg_wrReg_same s a _, hrw, hrwl, hw1s, hw1c]
  simp [hones]

/-- A counter is cleared in the upper half of its status register. -/
theorem cntClr_effect {r : RegRow} (h : IsStatus r) (a : Nat) (s : State) :
    let u := wrFld (storeReg r a cntClr s) a 16 16 0
    rdFld u a 16 16 = 0 ∧ rdFld u a 0 16 = rdFld s a 0 16 ∧ OnlyRegs s u [a] := by
  refine ⟨rdFld_wrFld_same _ a 16 16 0 (by decide), ?_, (storeReg_onlyRegs r a cntClr s).wrReg (by simp) _⟩
  rw [rdFld_wrFld_other _ a 0 (by decide), rdFld, rdReg_storeReg_cntClr h, rdFld]

theorem findRow_bpcStatus : ∃ r, findRow bpcRows 0x18 = some r ∧ r.rule = .plain ∧ IsStatus r :=
  ⟨_, rfl, rfl, rfl, rfl, rfl, rfl⟩

theorem findRow_wenStatus : ∃ r, findRow wenRows 0x220C = some r ∧ r.rule = .plain ∧ IsStatus r :=
  ⟨_, rfl, rfl, rfl, rfl, rfl, rfl⟩

theorem findRow_strStatus :
    findRow wenRows 0x2808 = none ∧ ∃ r, findRow strRows 0x2808 = some r ∧ r.rule = .plain ∧ IsStatus r :=
  ⟨rfl, _, rfl, rfl, rfl, rfl, rfl, rfl⟩

/-- CNT_CLR in BPC_STATUS clears its counter. -/
theorem bpcWrite_cntClr (r : RegRow) (p n : Nat) (s : State) :
    bpcWrite r p n 0x18 cntClr s = (.ok, wrFld (storeReg r (bpcA p n 0x18) cntClr s) (bpcA p n 0x18) 16 16 0) := rfl

/-- CNT_CLR in WEN_STATUS clears its counter. -/
theorem wenWrite_cntClr (r : RegRow) (p e : Nat) (s : State) :
    wenWrite r p e 0x220C cntClr s = (.ok, wrFld (storeReg r (wenA p e 0x220C) cntClr s) (wenA p e 0x220C) 16 16 0) := rfl

/-- CNT_CLR in STR_STATUS clears its counter, and those of misses and fills. -/
theorem strWrite_cntClr (r : RegRow) (p e : Nat) (s : State) :
    wenWrite r p e 0x2808 cntClr s =
      (.ok, wrReg (wrReg (wrFld (storeReg r (wenA p e 0x2808) cntClr s) (wenA p e 0x2808) 16 16 0)
        (wenA p e 0x280C) 0) (wenA p e 0x2810) 0) := rfl

theorem wenA_ne (p e : Nat) {x y : Nat} (h : x ≠ y) : wenA p e x ≠ wenA p e y := by
  unfold wenA physA
  omega

/-- The effect of the clear in a store room: three counters (R136). -/
theorem strCntClr_effect {r : RegRow} (h : IsStatus r) (p e : Nat) (s : State) :
    let a := wenA p e 0x2808
    let b := wenA p e 0x280C
    let c := wenA p e 0x2810
    let u := wrReg (wrReg (wrFld (storeReg r a cntClr s) a 16 16 0) b 0) c 0
    rdFld u a 16 16 = 0 ∧ rdFld u a 0 16 = rdFld s a 0 16 ∧ rdReg u b = 0 ∧ rdReg u c = 0 ∧ OnlyRegs s u [a, b, c] := by
  intro a b c u
  obtain ⟨hcount, hflags, honly⟩ := cntClr_effect h a s
  have hab : a ≠ b := wenA_ne p e (by decide)
  have hac : a ≠ c := wenA_ne p e (by decide)
  have hbc : b ≠ c := wenA_ne p e (by decide)
  have hstatus : rdReg u a = rdReg (wrFld (storeReg r a cntClr s) a 16 16 0) a := by
    rw [rdReg_wrReg_other _ _ hac, rdReg_wrReg_other _ _ hab]
  refine ⟨?_, ?_, ?_, rdReg_wrReg_same _ c 0, ?_⟩
  · rw [rdFld, hstatus]
    exact hcount
  · rw [rdFld, hstatus]
    exact hflags
  · rw [rdReg_wrReg_other _ _ hbc, rdReg_wrReg_same]
  · exact ((honly.mono (by simp)).wrReg (by simp) 0).wrReg (by simp) 0

end Sys2Proof.Machine

open Sys2Proof Sys2Proof.Machine

/-- Settles O17: each command is a write through the logical window (`exec_bpcInjWrite`, `request_bpc`, `request_wen`); the inject
write is `injWrite_at_once` or `injWrite_staged`, a clear is `cntClr_effect` or `strCntClr_effect`. -/
theorem injectAndCounterWrites : Obligations.InjectAndCounterWrites := by
  refine ⟨?inject, ?bpc, ?wen, ?str⟩
  case inject =>
    intro s who m n r v hm hn hr hp a hreach
    have hstatus : a ≠ bpcA (physOf s m) n 0x18 := bpcA_inject_ne_status _ n hr
    refine ⟨fun hst => ⟨_, exec_bpcInjWrite hm hn hr hp hreach (by tauto) v, ?_⟩,
      fun hrun hpos => ⟨_, exec_bpcInjWrite hm hn hr hp hreach (.inr (.inr hrun)) v, ?_⟩⟩
    · rw [injWrite_at_once hst]
      exact ⟨rdReg_wrReg_same s a _, rfl, fun b hb => rdReg_wrReg_other s _ hb⟩
    · rw [injWrite_staged hrun hpos]
      exact ⟨mapGet_mapIns_mapDel .., rdReg_setBit_other _ 4 hstatus, rdBit_setBit_same _ _ (by decide),
        fun b hb => rdReg_setBit_other _ 4 hb, rfl⟩
  case bpc =>
    intro s who m n hm hn hp hreach a
    obtain ⟨r, hrow, hrule, hr⟩ := findRow_bpcStatus
    refine ⟨_, ?_, cntClr_effect hr a s⟩
    show execBpcCntClr who m n s = _
    rw [execBpcCntClr, if_pos ⟨hm, hn⟩]
    exact congrArg Host.Outcome.next (request_bpc hm hn (by decide) hp hreach hrow hrule cntClr)
  case wen =>
    intro s who m e hm he hp hreach a
    obtain ⟨r, hrow, hrule, hr⟩ := findRow_wenStatus
    refine ⟨_, ?_, cntClr_effect hr a s⟩
    show execWenCntClr who m e s = _
    rw [execWenCntClr, if_pos ⟨hm, he⟩]
    exact congrArg Host.Outcome.next (request_wen hm he (by decide) (by decide) hp hreach (.inl hrow) hrule cntClr)
  case str =>
    intro s who m e hm he hp hreach
    obtain ⟨hnone, r, hrow, hrule, hr⟩ := findRow_strStatus
    refine ⟨_, ?_, strCntClr_effect hr (physOf s m) e s⟩
    show execStrCntClr who m e s = _
    rw [execStrCntClr, if_pos ⟨hm, he⟩]
    exact congrArg Host.Outcome.next
      (request_wen hm (by omega) (by decide) (by decide) hp hreach (.inr ⟨hnone, hrow, he⟩) hrule cntClr)

end

section
/-! PROOFS. Results and flags of the word engines as numbers (R94). -/

namespace Sys2Proof.Machine

/-! ### Shifts and counts -/

theorem shiftLeft_eq_ofNat (a : Word) (n : Nat) : a <<< n = BitVec.ofNat 32 (a.toNat * 2 ^ n) := by
  refine BitVec.eq_of_toNat_eq ?_
  rw [BitVec.toNat_shiftLeft, BitVec.toNat_ofNat, Nat.shiftLeft_eq]

theorem ushiftRight_eq_ofNat (a : Word) (n : Nat) : a >>> n = BitVec.ofNat 32 (a.toNat / 2 ^ n) := by
  have hlt : a.toNat / 2 ^ n < 2 ^ 32 := Nat.lt_of_le_of_lt (Nat.div_le_self ..) a.isLt
  refine BitVec.eq_of_toNat_eq ?_
  rw [BitVec.toNat_ushiftRight, BitVec.toNat_ofNat, Nat.mod_eq_of_lt hlt, Nat.shiftRight_eq_div_pow]

theorem sshiftRight_eq_ofInt (a : Word) (n : Nat) : a.sshiftRight n = BitVec.ofInt 32 (a.toInt / 2 ^ n) := by
  rw [BitVec.sshiftRight_eq, Int.shiftRight_eq_div_pow, Nat.cast_pow, Nat.cast_ofNat]

theorem rol32_eq (a b : Word) : rol32 a b = (a <<< (b.toNat % 32)) ||| (a >>> (32 - b.toNat % 32)) := by
  rw [rol32, BitVec.rotateLeft_def, Nat.mod_mod]

theorem sum_digits_two (n : Nat) : (Nat.digits 2 n).sum = n % 2 + (Nat.digits 2 (n / 2)).sum := by
  rcases Nat.eq_zero_or_pos n with rfl | hpos
  · rfl
  · rw [Nat.digits_def' Nat.one_lt_two hpos, List.sum_cons]

/-- The binary digits of a number add up to its 1 bits. -/
theorem sum_digits_eq_countP (k : Nat) {n : Nat} (h : n < 2 ^ k) :
    (Nat.digits 2 n).sum = (List.range k).countP (fun i => n.testBit i) := by
  induction k generalizing n with
  | zero => obtain rfl : n = 0 := by omega
            rfl
  | succ k ih =>
    have hhalf : n / 2 < 2 ^ k := by omega
    have hlater : (fun i => n.testBit i) ∘ Nat.succ = fun i => (n / 2).testBit i := funext fun i => Nat.testBit_succ ..
    rw [sum_digits_two, ih hhalf, List.range_succ_eq_map, List.countP_cons, List.countP_map, hlater, Nat.testBit_zero]
    rcases Nat.mod_two_eq_zero_or_one n with h0 | h1
    · simp [h0]
    · simp [h1, Nat.add_comm]

theorem popc32_eq (a : Word) : popc32 a = BitVec.ofNat 32 (Nat.digits 2 a.toNat).sum := by
  rw [popc32, sum_digits_eq_countP 32 a.isLt]
  rfl

/-- The highest 1 bit of a number that is not 0 stands at its logarithm. -/
theorem clz32_eq (a : Word) : clz32 a = BitVec.ofNat 32 (if a = 0 then 32 else 31 - Nat.log2 a.toNat) := by
  unfold clz32
  congr 1
  by_cases h : a = 0
  · rw [h]
    rfl
  · have hne : a.toNat ≠ 0 := fun h0 => h (BitVec.eq_of_toNat_eq h0)
    have hlog : a.toNat.log2 < 32 := (Nat.log2_lt hne).2 a.isLt
    have hfirst : (List.range 32).find? (fun i => a.getLsbD (31 - i)) = some (31 - a.toNat.log2) := by
      refine List.find?_range_eq_some.2 ⟨?_, List.mem_range.2 (by omega), fun j hj => ?_⟩
      · rw [show 31 - (31 - a.toNat.log2) = a.toNat.log2 by omega]
        exact Nat.testBit_log2 hne
      · have hsmall : a.toNat < 2 ^ (31 - j) := (Nat.log2_lt hne).1 (by omega)
        simp [BitVec.getLsbD, Nat.testBit_lt_two_pow hsmall]
    rw [hfirst, if_neg h]
    rfl

/-! ### Sums -/

/-- Sum and carry together are the exact sum. -/
theorem addCarry_exact (a b : Word) (cin : Bool) :
    (addCarry a b cin).1.toNat + 2 ^ 32 * b2n (addCarry a b cin).2 = a.toNat + b.toNat + b2n cin := by
  have hcin : b2n cin ≤ 1 := by cases cin <;> decide
  have ha := a.isLt
  have hb := b.isLt
  simp only [addCarry, BitVec.toNat_ofNat]
  generalize b2n cin = x at hcin ⊢
  by_cases h : 2 ^ 32 ≤ a.toNat + b.toNat + x
  · rw [decide_eq_true h, show b2n true = 1 from rfl]
    omega
  · rw [decide_eq_false h, show b2n false = 0 from rfl]
    omega

/-- The carry out of a sum, as in `addCarry`, tells whether the exact sum reaches 2^32. -/
theorem addCarry_carry (a b : Word) (cin : Bool) : (addCarry a b cin).2 = decide (2 ^ 32 ≤ a.toNat + b.toNat + b2n cin) := rfl

theorem toInt_range (a : Word) : -2 ^ 31 ≤ a.toInt ∧ a.toInt < 2 ^ 31 := ⟨BitVec.le_toInt a, BitVec.toInt_lt⟩

/-- The signed value of S is the exact signed sum, up to one wrap of 2^32 in either direction. -/
theorem toInt_addCarry (a b : Word) (cin : Bool) :
    let x := a.toInt + b.toInt + b2n cin
    let s := (addCarry a b cin).1.toInt
    s = x ∨ s = x - 2 ^ 32 ∨ s = x + 2 ^ 32 := by
  have hcin : b2n cin ≤ 1 := by cases cin <;> decide
  have ha := a.isLt
  have hb := b.isLt
  simp only [addCarry, BitVec.toInt_eq_toNat_cond, BitVec.toNat_ofNat]
  omega

/-- N XOR V is the sign of the exact signed S (R94). -/
theorem signedLess_eq (a b : Word) (cin : Bool) :
    signedLess a b cin = decide (a.toInt + (~~~ b).toInt + b2n cin < 0) := by
  have hcin : b2n cin ≤ 1 := by cases cin <;> decide
  simp only [signedLess, subOverflow, subCarry, BitVec.msb_eq_toInt]
  generalize ~~~ b = b
  have hwrap := toInt_addCarry a b cin
  have ha := toInt_range a
  have hb := toInt_range b
  have hs := toInt_range (addCarry a b cin).1
  dsimp only at hwrap
  rw [Bool.eq_iff_iff, bne_iff_ne, Ne, Bool.eq_iff_iff]
  simp only [Bool.and_eq_true, beq_iff_eq, bne_iff_ne, ne_eq, decide_eq_decide, decide_eq_true_eq]
  omega

end Sys2Proof.Machine
end

section
/-! PROOFS. A word engine that executes without an event: what it fetches, what it reads, and the results and registers that it
leaves (R89 to R96). -/

namespace Sys2Proof.Machine

/-! ### Writes of all contexts -/

section
variable {α : Type} [DecidableEq α]

/-- The cells that a value per context is written to. -/
def ctxCells (key : Nat → Nat) (val : Nat → α) (n : Nat) : List (Nat × α) := (List.range n).map (fun c => (key c, val c))

theorem mapSetAll_ctxCells_succ (d : α) (l : SMap α) (key : Nat → Nat) (val : Nat → α) (n : Nat) :
    mapSetAll d l (ctxCells key val (n + 1)) = mapSet d (mapSetAll d l (ctxCells key val n)) (key n) (val n) := by
  simp [mapSetAll, ctxCells, List.range_succ]

/-- A cell that no context is written to keeps its value. -/
theorem mapGet_mapSetAll_other {d : α} (l : SMap α) {key : Nat → Nat} (val : Nat → α) {n k : Nat} (h : ∀ c, c < n → k ≠ key c) :
    mapGet d (mapSetAll d l (ctxCells key val n)) k = mapGet d l k := by
  induction n with
  | zero => rfl
  | succ n ih =>
    rw [mapSetAll_ctxCells_succ, mapGet_mapSet_other (h n n.lt_succ_self), ih fun c hc => h c (Nat.lt_succ_of_lt hc)]

/-- The cell of a context holds that context's value. -/
theorem mapGet_mapSetAll_same {d : α} (l : SMap α) {key : Nat → Nat} (val : Nat → α) {n c : Nat} (hkey : key.Injective) (h : c < n) :
    mapGet d (mapSetAll d l (ctxCells key val n)) (key c) = val c := by
  induction n with
  | zero => omega
  | succ n ih =>
    rw [mapSetAll_ctxCells_succ]
    rcases Nat.lt_succ_iff_lt_or_eq.1 h with hlt | rfl
    · rw [mapGet_mapSet_other fun heq => (Nat.ne_of_lt hlt) (hkey heq), ih hlt]
    · exact mapGet_mapSet_same

end

theorem kWeRes_injective (m e t : Nat) : (kWeRes m e t).Injective := fun a b h => by
  unfold kWeRes at h
  omega

theorem kWreg_injective (p e r : Nat) : (kWreg p e · r).Injective := fun a b h => by
  dsimp only [kWreg] at h
  omega

theorem kMac_injective (p sl : Nat) : (kMac p sl).Injective := fun a b h => by
  unfold kMac at h
  omega

/-! ### Fetch and sources (R89 to R93) -/

/-- An engine that runs an instruction fetches and executes it. -/
theorem WeRuns.weExec_eq {s : State} {m e t : Nat} {o : WeOp} {w : BitVec 64} (h : WeRuns s m e t o w) :
    weExec o m e t s = weRun m e t o w s := by
  obtain ⟨hsched, he, hmem, hflips, hop, hlegal, -, -⟩ := h
  have hfetch : weFetch s (physOf s m) e (weEntryAddr s (physOf s m) e t) = (w, false, false) := by
    rw [weFetch, hmem, hflips, secded]
  have hrow : weRowIs s m e t o = true := by simp [weRowIs, hfetch, hop]
  have hdecode : weDecode s m e t = .op o w := by simp [weDecode, hfetch, hop, hlegal]
  rw [weExec, if_pos (by simp [hsched, he, hrow]), weStep]
  dsimp only
  rw [hfetch, hdecode]
  rfl

/-- No source that it reads is reserved (R93). -/
theorem WeRuns.sources_known {s : State} {m e t : Nat} {o : WeOp} {w : BitVec 64} (h : WeRuns s m e t o w) :
    ((weUses o).1 && srcReserved (weSa w) || (weUses o).2 && srcReserved (weSb w)) = false := by
  obtain ⟨-, -, -, -, -, -, ha, hb⟩ := h
  rw [Bool.or_eq_false_iff, Bool.and_eq_false_imp, Bool.and_eq_false_imp]
  exact ⟨ha, hb⟩

/-- Operands A and B as an opcode reads them: 0 where it does not use them. -/
def weUsedA (s : State) (m e t : Nat) (o : WeOp) (w : BitVec 64) (c : Nat) : Word :=
  if (weUses o).1 then weA s m e t w c else 0#32
def weUsedB (s : State) (m e t : Nat) (o : WeOp) (w : BitVec 64) (c : Nat) : Word :=
  if (weUses o).2 then weB s m e t w c else 0#32

/-- Flag F of an engine in one context. -/
def weFlagIn (s : State) (m e c : Nat) : Bool := (mapGet 0#8 s.cl.flagF (kWe (physOf s m) e)).getLsbD c

/-- The opcodes without a carry that act on the engine alone. -/
def isLogic (o : WeOp) : Bool := !(isMac o || isRoomOp o || o = .oAdd || o = .oSub || isCompare o)

/-- ADD, SUB and the compares: the opcodes with a carry (R99). -/
def isArith (o : WeOp) : Bool := o = .oAdd || o = .oSub || isCompare o

theorem WeRuns.exec_logic {s : State} {m e t : Nat} {o : WeOp} {w : BitVec 64} (h : WeRuns s m e t o w) (ho : isLogic o = true) :
    weExec o m e t s =
      weResults m e t w (fun c => weAlu o (weUsedA s m e t o w c) (weUsedB s m e t o w c) false (weFlagIn s m e c)) s := by
  simp only [isLogic, Bool.not_eq_true', Bool.or_eq_false_iff, decide_eq_false_iff_not] at ho
  obtain ⟨⟨⟨⟨hmac, hroom⟩, hadd⟩, hsub⟩, hcmp⟩ := ho
  rw [h.weExec_eq, weRun]
  dsimp only
  rw [h.sources_known, if_neg (by simp [hmac]), if_neg (by simp [hroom]), if_neg (by simp [hadd, hsub, hcmp])]
  rfl

/-- Carry and equality in, as the chain gives them (R94, R100, R101). -/
theorem CarryIs.carryIn_eq {s : State} {m e t : Nat} {o : WeOp} {w : BitVec 64} {ci ei : Ctx} (h : CarryIs s m e t o w ci ei) :
    carryIn s m e t o (weCin w) = (ci, ei, false) := by
  rcases h with ⟨hcin, rfl, rfl⟩ | ⟨hcin, rfl, rfl⟩ | ⟨hcin, rfl, rfl⟩ | ⟨hcin, ch, hin, hkind, rfl, rfl⟩
  · rw [hcin]; rfl
  · rw [hcin]; rfl
  · rw [hcin]; rfl
  · simp [hcin, carryIn, hin, hkind]

/-- What an instruction with a carry computes of every context: carry out, EQ_out, F and the result. -/
def weCyOut (s : State) (m e t : Nat) (o : WeOp) (w : BitVec 64) (ci : Ctx) : Ctx :=
  ctxOf (fun c => weCarry o (weA s m e t w c) (weB s m e t w c) (ci.getLsbD c))
def weEqOut (s : State) (m e t : Nat) (w : BitVec 64) (ei : Ctx) : Ctx :=
  ctxOf (fun c => ei.getLsbD c && weA s m e t w c == weB s m e t w c)
def weFOut (s : State) (m e t : Nat) (o : WeOp) (w : BitVec 64) (ci ei : Ctx) : Ctx :=
  ctxOf (fun c => weFlagF o (weA s m e t w c) (weB s m e t w c) (ci.getLsbD c) (ei.getLsbD c))
def weArithRes (s : State) (m e t : Nat) (o : WeOp) (w : BitVec 64) (ci ei : Ctx) (c : Nat) : Word :=
  weAlu o (weA s m e t w c) (weB s m e t w c) (ci.getLsbD c) ((weFOut s m e t o w ci ei).getLsbD c)

theorem weUses_of_isArith {o : WeOp} (h : isArith o = true) : weUses o = (true, true) ∧ isMac o = false ∧ isRoomOp o = false := by
  revert h
  cases o <;> decide

/-- An instruction with a carry sets its flags, delivers its result and drives the chain. -/
theorem WeRuns.exec_arith {s : State} {m e t : Nat} {o : WeOp} {w : BitVec 64} {ci ei : Ctx} (h : WeRuns s m e t o w)
    (hc : CarryIs s m e t o w ci ei) (ho : isArith o = true) :
    weExec o m e t s = weChain m e t o w (weCyOut s m e t o w ci) (weEqOut s m e t w ei)
      (weResults m e t w (weArithRes s m e t o w ci ei) (putFlagCY m e (weCyOut s m e t o w ci)
        (if isCompare o then putFlagF m e t (weFOut s m e t o w ci ei) s else s))) := by
  obtain ⟨huses, hmac, hroom⟩ := weUses_of_isArith ho
  have hcarry : o = .oAdd ∨ o = .oSub ∨ isCompare o = true := by simpa [isArith, or_assoc] using ho
  rw [h.weExec_eq, weRun]
  dsimp only
  rw [h.sources_known, if_neg (by simp [hmac]), if_neg (by simp [hroom]), if_pos hcarry, hc.carryIn_eq, huses]
  rfl

/-! ### Results and registers (R96) -/

/-- The results that an engine leaves of step `t`, and the registers that it leaves. -/
def weResMap (s : State) (m e t : Nat) (res : Nat → Word) : SMap Word :=
  mapSetAll 0 s.cl.weRes (ctxCells (kWeRes m e t) res 8)
def weRegMap (s : State) (m e : Nat) (w : BitVec 64) (res : Nat → Word) : SMap Word :=
  if weWr w then mapSetAll 0 s.cl.wreg (ctxCells (kWreg (physOf s m) e · (weRd w)) res 8) else s.cl.wreg

theorem weResults_eq (m e t : Nat) (w : BitVec 64) (res : Nat → Word) (s : State) :
    weResults m e t w res s =
      { s with cl := { s.cl with weRes := weResMap s m e t res, wreg := weRegMap s m e w res } } := by
  unfold weResults weRegMap
  dsimp only
  split <;> rfl

/-- A state with these results and registers is one that the engine delivers to. -/
theorem weDelivers_of_maps {s u : State} {m e t : Nat} {w : BitVec 64} {res : Nat → Word}
    (hres : u.cl.weRes = weResMap s m e t res) (hreg : u.cl.wreg = weRegMap s m e w res) : WeDelivers s u m e t w res := by
  refine ⟨fun c hc => ⟨?_, fun hwr => ?_⟩, fun k hk => ?_⟩
  · rw [hres]
    exact mapGet_mapSetAll_same _ res (kWeRes_injective m e t) hc
  · rw [hreg, weRegMap, if_pos hwr]
    exact mapGet_mapSetAll_same _ res (kWreg_injective _ e _) hc
  · rw [hreg, weRegMap]
    split
    case isTrue hwr => exact mapGet_mapSetAll_other _ res (hk hwr)
    case isFalse => rfl

/-- Only the values of the eight contexts matter. -/
theorem WeDelivers.congr {s u : State} {m e t : Nat} {w : BitVec 64} {res res' : Nat → Word} (h : WeDelivers s u m e t w res)
    (heq : ∀ c, c < 8 → res c = res' c) : WeDelivers s u m e t w res' := by
  obtain ⟨hval, hother⟩ := h
  exact ⟨fun c hc => heq c hc ▸ hval c hc, hother⟩

end Sys2Proof.Machine
end

section
/-! PROOFS. The opcodes of the word engines that act on the engine and its chain: logic, sums and compares (R94, R96, R100). -/

namespace Sys2Proof.Machine

/-! ### What each opcode computes (R94) -/

/-- An opcode without a carry, whose result is `f` of A, B and F. -/
structure IsLogicOp (o : WeOp) (f : Word → Word → Bool → Word) : Prop where
  logic : isLogic o = true
  result : ∀ a b fl, weAlu o (if (weUses o).1 then a else 0#32) (if (weUses o).2 then b else 0#32) false fl = f a b fl

/-- ADD or SUB: the sum of A, `g` of B and the carry in, whose carry goes to a chain of this kind. -/
structure IsSumOp (o : WeOp) (kind : ChainKind) (g : Word → Word) : Prop where
  arith : isArith o = true
  noCompare : isCompare o = false
  chain : chainKind o = kind
  result : ∀ a b cin fl, weAlu o a b cin fl = (addCarry a (g b) cin).1
  carry : ∀ a b cin, weCarry o a b cin = (addCarry a (g b) cin).2

/-- A compare, whose F is `f` of EQ_out, of the carry out of S and of the exact signed S. -/
structure IsCompareOp (o : WeOp) (f : Bool → Bool → Int → Bool) : Prop where
  compare : isCompare o = true
  flag : ∀ a b cin eqIn, weFlagF o a b cin eqIn =
    f (eqIn && decide (a = b)) (decide (2 ^ 32 ≤ a.toNat + (~~~ b).toNat + b2n cin)) (a.toInt + (~~~ b).toInt + b2n cin)

theorem isSumOp_add : IsSumOp .oAdd .add (fun b => b) := ⟨rfl, rfl, rfl, fun _ _ _ _ => rfl, fun _ _ _ => rfl⟩

theorem isSumOp_sub : IsSumOp .oSub .sub (fun b => ~~~ b) := ⟨rfl, rfl, rfl, fun _ _ _ _ => rfl, fun _ _ _ => rfl⟩

theorem isCompareOp_clts : IsCompareOp .oClts (fun _ _ x => decide (x < 0)) := ⟨rfl, fun a b cin _ => signedLess_eq a b cin⟩

theorem isCompareOp_cges : IsCompareOp .oCges (fun _ _ x => decide (0 ≤ x)) := by
  refine ⟨rfl, fun a b cin _ => ?_⟩
  show (!signedLess a b cin) = _
  rw [signedLess_eq, ← decide_not, decide_eq_decide, Int.not_lt]

theorem IsCompareOp.isArith {o : WeOp} {f : Bool → Bool → Int → Bool} (h : IsCompareOp o f) : isArith o = true := by
  simp [Machine.isArith, h.compare]

theorem IsCompareOp.chainKind {o : WeOp} {f : Bool → Bool → Int → Bool} (h : IsCompareOp o f) : chainKind o = .cmp := by
  have hc := h.compare
  revert hc
  cases o <;> decide

/-- A compare gives all ones where F is 1. -/
theorem IsCompareOp.result {o : WeOp} {f : Bool → Bool → Int → Bool} (h : IsCompareOp o f) (a b : Word) (cin fl : Bool) :
    weAlu o a b cin fl = if fl then 0xFFFFFFFF#32 else 0#32 := by
  have hc := h.compare
  cases o with
  | oCeq | oCne | oCltu | oCgeu | oClts | oCges => rfl
  | _ => contradiction

/-- Its carry is that of S. -/
theorem IsCompareOp.carry {o : WeOp} {f : Bool → Bool → Int → Bool} (h : IsCompareOp o f) (a b : Word) (cin : Bool) :
    weCarry o a b cin = (addCarry a (~~~ b) cin).2 := by
  have hne : o ≠ .oAdd := fun he => by simpa [he, isCompare] using h.compare
  unfold weCarry
  split
  · contradiction
  · rfl

/-! ### What is left (R94, R96, R100) -/

variable {s : State} {m e t : Nat} {o : WeOp} {w : BitVec 64}

theorem weExec_logic {f : Word → Word → Bool → Word} (h : WeRuns s m e t o w) (ho : IsLogicOp o f) :
    WeDelivers s (weExec o m e t s) m e t w (fun c => f (weA s m e t w c) (weB s m e t w c) (weFlagIn s m e c)) ∧
      weExec o m e t s = { s with cl := { s.cl with
        weRes := (weExec o m e t s).cl.weRes, wreg := (weExec o m e t s).cl.wreg } } := by
  rw [h.exec_logic ho.logic, weResults_eq]
  exact ⟨(weDelivers_of_maps rfl rfl).congr fun c _ => ho.result .., rfl⟩

/-- The chain after an instruction with these outputs. -/
def weChainMap (s : State) (m e t : Nat) (o : WeOp) (w : BitVec 64) (cy eq : Ctx) : SMap (Option ChainOut) :=
  if weCout w then mapSet none s.cl.chain (kWeT m e t) (some { kind := chainKind o, carry := cy, eq := eq }) else s.cl.chain

theorem weChain_eq (m e t : Nat) (o : WeOp) (w : BitVec 64) (cy eq : Ctx) (s : State) :
    weChain m e t o w cy eq s = { s with cl := { s.cl with chain := weChainMap s m e t o w cy eq } } := by
  unfold weChain weChainMap
  split <;> rfl

/-- Where COUT is 1, the outputs are driven to the successor. -/
theorem mapGet_weChainMap (h : weCout w = true) (cy eq : Ctx) :
    mapGet none (weChainMap s m e t o w cy eq) (kWeT m e t) = some { kind := chainKind o, carry := cy, eq := eq } := by
  rw [weChainMap, if_pos h, mapGet_mapSet_same]

theorem weChainMap_of_no_cout (h : weCout w = false) (cy eq : Ctx) : weChainMap s m e t o w cy eq = s.cl.chain :=
  if_neg (by simp [h])

/-- ADD and SUB leave results, registers, CY and the chain. -/
theorem weExec_sum {kind : ChainKind} {g : Word → Word} {ci ei : Ctx} (h : WeRuns s m e t o w) (hc : CarryIs s m e t o w ci ei)
    (ho : IsSumOp o kind g) :
    let u := weExec o m e t s
    WeDelivers s u m e t w (weArithRes s m e t o w ci ei) ∧
      u.cl.flagCY = mapSet 0#8 s.cl.flagCY (kWe (physOf s m) e) (weCyOut s m e t o w ci) ∧
      u.cl.chain = weChainMap s m e t o w (weCyOut s m e t o w ci) (weEqOut s m e t w ei) ∧
      u = { s with cl := { s.cl with
        weRes := u.cl.weRes, wreg := u.cl.wreg, flagCY := u.cl.flagCY, chain := u.cl.chain } } := by
  rw [h.exec_arith hc ho.arith, if_neg (by simp [ho.noCompare]), weChain_eq, weResults_eq]
  exact ⟨weDelivers_of_maps rfl rfl, rfl, rfl, rfl⟩

theorem putFlagF_eq (m e t : Nat) (v : Ctx) (s : State) :
    putFlagF m e t v s = { s with cl := { s.cl with
      flagF := mapSet 0#8 s.cl.flagF (kWe (physOf s m) e) v, flagOld := (putFlagF m e t v s).cl.flagOld } } := rfl

/-- A compare leaves, beside these, F and what ports still see of F. -/
theorem weExec_compare {f : Bool → Bool → Int → Bool} {ci ei : Ctx} (h : WeRuns s m e t o w) (hc : CarryIs s m e t o w ci ei)
    (ho : IsCompareOp o f) :
    let u := weExec o m e t s
    WeDelivers s u m e t w (weArithRes s m e t o w ci ei) ∧
      u.cl.flagCY = mapSet 0#8 s.cl.flagCY (kWe (physOf s m) e) (weCyOut s m e t o w ci) ∧
      u.cl.flagF = mapSet 0#8 s.cl.flagF (kWe (physOf s m) e) (weFOut s m e t o w ci ei) ∧
      u.cl.chain = weChainMap s m e t o w (weCyOut s m e t o w ci) (weEqOut s m e t w ei) ∧
      u = { s with cl := { s.cl with weRes := u.cl.weRes, wreg := u.cl.wreg, flagCY := u.cl.flagCY,
                                     flagF := u.cl.flagF, flagOld := u.cl.flagOld, chain := u.cl.chain } } := by
  rw [h.exec_arith hc ho.isArith, if_pos ho.compare, weChain_eq, weResults_eq, putFlagF_eq, putFlagCY]
  exact ⟨weDelivers_of_maps rfl rfl, rfl, rfl, rfl, rfl⟩

/-! ### Values of one context -/

variable {c : Nat}

theorem IsSumOp.exact {kind : ChainKind} {g : Word → Word} (ho : IsSumOp o kind g) (ci ei : Ctx) (hc : c < 8) :
    (weArithRes s m e t o w ci ei c).toNat + 2 ^ 32 * b2n ((weCyOut s m e t o w ci).getLsbD c) =
      (weA s m e t w c).toNat + (g (weB s m e t w c)).toNat + b2n (ci.getLsbD c) := by
  rw [weArithRes, weCyOut, getLsbD_ctxOf _ hc, ho.result, ho.carry, addCarry_exact]

theorem IsCompareOp.getLsbD_weCyOut {f : Bool → Bool → Int → Bool} (ho : IsCompareOp o f) (ci : Ctx) (hc : c < 8) :
    (weCyOut s m e t o w ci).getLsbD c =
      decide (2 ^ 32 ≤ (weA s m e t w c).toNat + (~~~ weB s m e t w c).toNat + b2n (ci.getLsbD c)) := by
  rw [weCyOut, getLsbD_ctxOf _ hc, ho.carry, addCarry_carry]

theorem getLsbD_weEqOut (ei : Ctx) (hc : c < 8) :
    (weEqOut s m e t w ei).getLsbD c = (ei.getLsbD c && decide (weA s m e t w c = weB s m e t w c)) :=
  getLsbD_ctxOf _ hc

theorem IsCompareOp.getLsbD_weFOut {f : Bool → Bool → Int → Bool} (ho : IsCompareOp o f) (ci ei : Ctx) (hc : c < 8) :
    (weFOut s m e t o w ci ei).getLsbD c = f (ei.getLsbD c && decide (weA s m e t w c = weB s m e t w c))
      (decide (2 ^ 32 ≤ (weA s m e t w c).toNat + (~~~ weB s m e t w c).toNat + b2n (ci.getLsbD c)))
      ((weA s m e t w c).toInt + (~~~ weB s m e t w c).toInt + b2n (ci.getLsbD c)) := by
  rw [weFOut, getLsbD_ctxOf _ hc, ho.flag]

end Sys2Proof.Machine

open Sys2Proof Sys2Proof.Machine

/-- Settles O18: an opcode without a carry delivers the result of its row (`weExec_logic`); ADD and SUB leave what `weExec_sum`
says, whose sums are exact by `IsSumOp.exact`. -/
theorem wordEngineLogicAndAddSub : Obligations.WordEngineLogicAndAddSub := by
  refine ⟨?logic, ?sum⟩
  case logic =>
    intro s m e t w q hq hruns
    obtain ⟨harm, hop⟩ : (∀ m e t s, exec (q.1 m e t) s = .next (weExec q.2.1 m e t s)) ∧ IsLogicOp q.2.1 q.2.2 := by
      simp only [List.mem_cons, List.not_mem_nil, or_false] at hq
      rcases hq with rfl | rfl | rfl | rfl | rfl | rfl | rfl | rfl | rfl | rfl | rfl | rfl | rfl <;>
        refine ⟨fun _ _ _ _ => rfl, rfl, ?_⟩
      exacts [fun _ _ _ => rfl, fun _ _ _ => rfl, fun _ _ _ => rfl, fun _ _ _ => rfl, fun _ _ _ => rfl, fun _ _ _ => rfl,
        fun a _ _ => shiftLeft_eq_ofNat a _, fun a _ _ => ushiftRight_eq_ofNat a _, fun a _ _ => sshiftRight_eq_ofInt a _,
        fun a b _ => rol32_eq a b, fun a _ _ => popc32_eq a, fun a _ _ => clz32_eq a, fun _ _ _ => rfl]
    rw [harm]
    exact ⟨_, rfl, weExec_logic hruns hop⟩
  case sum =>
    intro s m e t w ci ei q hq hruns hcarry
    obtain ⟨harm, hop⟩ : (∀ m e t s, exec (q.1 m e t) s = .next (weExec q.2.1 m e t s)) ∧
        IsSumOp q.2.1 q.2.2.1 q.2.2.2 := by
      simp only [List.mem_cons, List.not_mem_nil, or_false] at hq
      rcases hq with rfl | rfl
      · exact ⟨fun _ _ _ _ => rfl, isSumOp_add⟩
      · exact ⟨fun _ _ _ _ => rfl, isSumOp_sub⟩
    obtain ⟨hdelivers, hcy, hchain, hframe⟩ := weExec_sum hruns hcarry hop
    refine ⟨_, _, harm .., hdelivers, fun c hc => ?_, fun k hk => ?_, ?_, hframe⟩
    · rw [hcy, mapGet_mapSet_same]
      exact hop.exact ci ei hc
    · rw [hcy]
      exact mapGet_mapSet_other hk
    · rw [hchain, hcy, mapGet_mapSet_same]
      split
      case isTrue hcout => exact ⟨_, mapGet_weChainMap hcout .., hop.chain, rfl⟩
      case isFalse hcout => exact weChainMap_of_no_cout (by simpa using hcout) ..

/-- Settles O19: a compare leaves what `weExec_compare` says; its flags and outputs of each context are those of R94. -/
theorem wordEngineCompare : Obligations.WordEngineCompare := by
  intro s m e t w ci ei q hq hruns hcarry
  obtain ⟨harm, hop⟩ : (∀ m e t s, exec (q.1 m e t) s = .next (weExec q.2.1 m e t s)) ∧ IsCompareOp q.2.1 q.2.2 := by
    simp only [List.mem_cons, List.not_mem_nil, or_false] at hq
    rcases hq with rfl | rfl | rfl | rfl | rfl | rfl <;> refine ⟨fun _ _ _ _ => rfl, ?_⟩
    exacts [⟨rfl, fun _ _ _ _ => rfl⟩, ⟨rfl, fun _ _ _ _ => rfl⟩, ⟨rfl, fun _ _ _ _ => rfl⟩, ⟨rfl, fun _ _ _ _ => rfl⟩,
      isCompareOp_clts, isCompareOp_cges]
  obtain ⟨hdelivers, hcy, hf, hchain, hframe⟩ := weExec_compare hruns hcarry hop
  refine ⟨_, _, harm .., hdelivers, fun c hc => ⟨?cy, ?f, ?res, ?chain⟩, fun j hj => ⟨?_, ?_⟩, fun hcout => ?_, hframe⟩
  case cy => rw [hcy, mapGet_mapSet_same, hop.getLsbD_weCyOut ci hc]
  case f => rw [hf, mapGet_mapSet_same, hop.getLsbD_weFOut ci ei hc]
  case res => rw [weArithRes, hop.result, hop.getLsbD_weFOut ci ei hc]
  case chain =>
    rw [hchain]
    exact fun hcout => ⟨_, mapGet_weChainMap hcout .., hop.chainKind, hop.getLsbD_weCyOut ci hc, getLsbD_weEqOut ei hc⟩
  · rw [hcy]
    exact mapGet_mapSet_other hj
  · rw [hf]
    exact mapGet_mapSet_other hj
  · rw [hchain]
    exact weChainMap_of_no_cout hcout ..

end

section
/-! PROOFS. MAC slices: the issue of an operation and the completion of its update (R103 to R105). -/

namespace Sys2Proof.Machine

variable {s : State} {m e t sl c x : Nat}

/-- Slice `sl` of logical cluster `m` has one more operation, issued at step `t`, whose values are `vals`. -/
def pushMac (s : State) (m e t sl : Nat) (vals : Nat → BitVec 72) : State :=
  { s with cl := { s.cl with macOps :=
    { cluster := m, slice := sl, issued := t, engine := e, vals := (List.range 8).map vals, done := false } :: s.cl.macOps } }

theorem getD_ctxVals (vals : Nat → BitVec 72) (h : c < 8) : ((List.range 8).map vals).getD c 0#72 = vals c := by
  simp [List.getD, h]

/-- The accumulator with every operation issued is the value of the newest one (R104). -/
theorem macIssued_pushMac (vals : Nat → BitVec 72) (h : c < 8) : macIssued (pushMac s m e t sl vals) m sl c = vals c := by
  rw [macIssued, pushMac, List.find?_cons_of_pos (by simp)]
  exact getD_ctxVals vals h

/-- It shows from the third step on; before, the accumulator shows what it showed (R104). -/
theorem macAtEnd_pushMac_same (vals : Nat → BitVec 72) (h : c < 8) :
    macAtEnd (pushMac s m e t sl vals) m sl c x = if t + 3 ≤ x then vals c else macAtEnd s m sl c x := by
  rw [macAtEnd, pushMac]
  split_ifs with hx
  · rw [List.find?_cons_of_pos (by simp [hx])]
    exact getD_ctxVals vals h
  · rw [List.find?_cons_of_neg (by simp [hx])]
    rfl

/-- Every other slice shows what it showed. -/
theorem macAtEnd_pushMac_other (vals : Nat → BitVec 72) {m' sl' : Nat} (h : ¬ (m' = m ∧ sl' = sl)) :
    macAtEnd (pushMac s m e t sl vals) m' sl' c x = macAtEnd s m' sl' c x := by
  have hskip : ¬ (m = m' ∧ sl = sl' ∧ t + 3 ≤ x) := fun heq => h ⟨heq.1.symm, heq.2.1.symm⟩
  rw [macAtEnd, pushMac, List.find?_cons_of_neg (by simpa using hskip)]
  rfl

/-- A MAC opcode, which adds the product to `base` of the state, the cluster, the step, the slice and the context (R103). -/
structure IsMacOp (o : WeOp) (base : State → Nat → Nat → Nat → Nat → BitVec 72) : Prop where
  mac : isMac o = true
  uses : weUses o = (true, true)
  issue : ∀ m e t imm a b s, macIssue m e t o imm a b s =
    pushMac s m e t (imm % 2) (fun c => base s m t (imm % 2) c + mul72 (imm / 2 % 2 = 1) (a c) (b c))

/-- The slice is IMM[0]. -/
theorem weImm_slice (w : BitVec 64) : (weImm w).toNat % 2 = fld w 0 1 := by
  simp [weImm, fld]

/-- The product is signed where IMM[1] is 1. -/
theorem weImm_signed (w : BitVec 64) : decide ((weImm w).toNat / 2 % 2 = 1) = w.getLsbD 1 := by
  have hbit : (weImm w).getLsbD 1 = w.getLsbD 1 := by simp [weImm]
  rw [← hbit, BitVec.getLsbD, Nat.testBit_eq_decide_div_mod_eq]

/-- A MAC operation that no lower engine displaces is issued to its slice (R103, R127). -/
theorem WeRuns.exec_mac {o : WeOp} {w : BitVec 64} {base : State → Nat → Nat → Nat → Nat → BitVec 72} (h : WeRuns s m e t o w)
    (hlost : issueLost s m e t = false) (ho : IsMacOp o base) :
    weExec o m e t s = pushMac s m e t (fld w 0 1)
      (fun c => base s m t (fld w 0 1) c + mul72 (w.getLsbD 1) (weA s m e t w c) (weB s m e t w c)) := by
  rw [h.weExec_eq, weRun]
  dsimp only
  rw [h.sources_known, if_pos ho.mac, hlost, ho.uses, if_neg Bool.false_ne_true, ho.issue, weImm_slice, weImm_signed]
  rfl

/-- The completion of an operation that no earlier one precedes puts its values into the accumulator registers (R104). -/
theorem macComplete_eq {o : MacOp} (hfind : s.cl.macOps.find? (fun x => x.cluster = m ∧ x.slice = sl ∧ x.issued = t) = some o)
    (hopen : o.done = false)
    (hearlier : ∀ x ∈ s.cl.macOps, x.cluster = m → x.slice = sl → x.issued < t → x.done = true) :
    macComplete m sl t s = { s with cl := { s.cl with
      macAcc := mapSetAll 0#72 s.cl.macAcc (ctxCells (kMac (physOf s m) sl) (o.vals.getD · 0#72) 8)
      macOps := s.cl.macOps.map (fun x => if x = o then { x with done := true } else x) } } := by
  have hnone : s.cl.macOps.any (fun x => x.cluster = m ∧ x.slice = sl ∧ x.issued < t ∧ x.done = false) = false := by
    rw [List.any_eq_false]
    intro x hx hwaits
    obtain ⟨hm, hsl, ht, hdone⟩ := of_decide_eq_true hwaits
    rw [hearlier x hx hm hsl ht] at hdone
    contradiction
  rw [macComplete, hfind]
  dsimp only
  rw [hopen, hnone]
  rfl

end Sys2Proof.Machine

open Sys2Proof Sys2Proof.Machine

/-- Settles O20: a MAC operation is one `pushMac` of its slice (`WeRuns.exec_mac`), and its completion writes the accumulator
registers (`macComplete_eq`). -/
theorem macOperations : Obligations.MacOperations := by
  refine ⟨?issue, ?complete⟩
  case issue =>
    intro s m e t w q hq hruns hlost
    obtain ⟨harm, hop⟩ : (∀ m e t s, exec (q.1 m e t) s = .next (weExec q.2.1 m e t s)) ∧ IsMacOp q.2.1 q.2.2 := by
      simp only [List.mem_cons, List.not_mem_nil, or_false] at hq
      rcases hq with rfl | rfl | rfl <;> exact ⟨fun _ _ _ _ => rfl, rfl, rfl, fun _ _ _ _ _ _ _ => rfl⟩
    rw [harm, hruns.exec_mac hlost hop]
    exact ⟨_, rfl, fun c x hc => ⟨macIssued_pushMac _ hc, macAtEnd_pushMac_same _ hc⟩,
      fun m' sl' c x hne => macAtEnd_pushMac_other _ hne, rfl⟩
  case complete =>
    intro s m sl t o hfind hopen _ hearlier
    refine ⟨_, congrArg Host.Outcome.next (macComplete_eq hfind hopen hearlier), fun c hc => ?_, fun k hk => ?_, rfl⟩
    · exact mapGet_mapSetAll_same _ _ (kMac_injective ..) hc
    · exact mapGet_mapSetAll_other _ _ hk

end

section
/-! PROOFS. Spring messages that arrive, are passed on and are sent (R185, R187). -/

namespace Sys2Proof.Machine

/-- From `s` to `x` messages only arrive and leave: sequence numbers, orders of the root and the outbox. -/
def Messages (s x : State) : Prop :=
  x = { s with
    outbox := x.outbox
    spr := { s.spr with txSeq := x.spr.txSeq, rxSeq := x.spr.rxSeq, orders := x.spr.orders } }

theorem Messages.refl (s : State) : Messages s s := rfl

theorem Messages.trans {s x y : State} (h : Messages s x) (k : Messages x y) : Messages s y := by
  unfold Messages at h k ⊢
  rw [k, h]

theorem Messages.regs {s x : State} (h : Messages s x) : x.regs = s.regs := by rw [h]
theorem Messages.chip {s x : State} (h : Messages s x) : x.chip = s.chip := by rw [h]
theorem Messages.crt {s x : State} (h : Messages s x) : x.crt = s.crt := by rw [h]
theorem Messages.ldr {s x : State} (h : Messages s x) : x.ldr = s.ldr := by rw [h]
theorem Messages.cl {s x : State} (h : Messages s x) : x.cl = s.cl := by rw [h]
theorem Messages.cel {s x : State} (h : Messages s x) : x.cel = s.cel := by rw [h]
theorem Messages.tick {s x : State} (h : Messages s x) : x.spr.tick = s.spr.tick := by rw [h]
theorem Messages.pos {s x : State} (h : Messages s x) : x.spr.pos = s.spr.pos := by rw [h]
theorem Messages.phase {s x : State} (h : Messages s x) : x.spr.phase = s.spr.phase := by rw [h]
theorem Messages.gen {s x : State} (h : Messages s x) : x.spr.gen = s.spr.gen := by rw [h]
theorem Messages.sent {s x : State} (h : Messages s x) : x.spr.sent = s.spr.sent := by rw [h]
theorem Messages.fails {s x : State} (h : Messages s x) : x.spr.fails = s.spr.fails := by rw [h]
theorem Messages.cen {s x : State} (h : Messages s x) : x.spr.cen = s.spr.cen := by rw [h]
theorem Messages.decides {s x : State} (h : Messages s x) : x.spr.decides = s.spr.decides := by rw [h]

theorem Messages.rdReg {s x : State} (h : Messages s x) (a : Nat) : rdReg x a = rdReg s a := by
  rw [Machine.rdReg, h.regs]
  rfl

theorem Messages.devAddr {s x : State} (h : Messages s x) : devAddr x = devAddr s := by
  rw [Machine.devAddr, rdFld, h.rdReg]
  rfl

theorem Messages.curEpoch {s x : State} (h : Messages s x) : curEpoch x = curEpoch s := by
  rw [Machine.curEpoch, epochLen, rdFld, h.rdReg, h.tick]
  rfl

theorem Messages.tickBegun {s x : State} (h : Messages s x) (n : Nat) : tickBegun x n = tickBegun s n := by
  rw [Machine.tickBegun, h.tick, h.pos]
  rfl

/-! ### Sending (R185, R187) -/

theorem sendUp_of_uplink {s : State} {l : Nat} (h : s.crt.uplink = some l) (msg : SpringMsg) : sendUp msg s = sendSpring l msg s := by
  rw [sendUp, h]

theorem sendUp_of_no_uplink {s : State} (h : s.crt.uplink = none) (msg : SpringMsg) : sendUp msg s = s := by
  rw [sendUp, h]

/-- What sending changes: the outbox and the next sequence numbers. -/
def Sends (s x : State) : Prop := x = { s with outbox := x.outbox, spr := { s.spr with txSeq := x.spr.txSeq } }

theorem sendUp_sends (msg : SpringMsg) (s : State) : Sends s (sendUp msg s) := by
  unfold sendUp
  split <;> rfl

theorem sendDown_sends (msg : SpringMsg) (s : State) : Sends s (sendDown msg s) := by
  unfold sendDown
  generalize presentLinks s = links
  induction links generalizing s with
  | nil => rfl
  | cons l links ih =>
    unfold Sends at ih ⊢
    rw [List.foldl_cons, ih]
    rfl

theorem Sends.messages {s x : State} (h : Sends s x) : Messages s x := by
  unfold Messages
  rw [h]

theorem Sends.orders {s x : State} (h : Sends s x) : x.spr.orders = s.spr.orders := by rw [h]

theorem presentLinks_of_no_children {s : State} (h : s.crt.children = []) : presentLinks s = [] := by
  rw [presentLinks, h]
  rfl

/-- A root without children orders itself alone. -/
theorem rootOrder_of_no_children {s : State} (h : s.crt.children = []) (msg : SpringMsg) :
    rootOrder msg s = { s with spr := { s.spr with orders := s.spr.orders ++ [msg] } } := by
  rw [rootOrder, sendDown, presentLinks_of_no_children h]
  rfl

/-- What a broadcast changes: the message joins the orders of the root, and goes to the children (R185). -/
theorem rootOrder_eq (msg : SpringMsg) (s : State) :
    rootOrder msg s = { s with
      outbox := (rootOrder msg s).outbox
      spr := { s.spr with txSeq := (rootOrder msg s).spr.txSeq, orders := s.spr.orders ++ [msg] } } := by
  have h := sendDown_sends msg s
  unfold rootOrder
  rw [h]

theorem rootOrder_orders (msg : SpringMsg) (s : State) : (rootOrder msg s).spr.orders = s.spr.orders ++ [msg] := by
  rw [rootOrder_eq]

theorem rootOrder_messages (msg : SpringMsg) (s : State) : Messages s (rootOrder msg s) := by
  unfold Messages
  rw [rootOrder_eq]

/-! ### Arrival (R185 to R187) -/

theorem timeSeq_in_sequence {s : State} {h : SpringHdr} (hseq : h.seq = mapGet 0 s.spr.rxSeq h.link) :
    timeSeq h.link h.seq s = afterFlit s h := by
  have hgap : decide (h.seq ≠ mapGet 0 s.spr.rxSeq h.link) = false := decide_eq_false (not_not.2 hseq)
  unfold timeSeq
  dsimp only
  rw [hgap]
  rfl

/-- A good flit in sequence is acted on, and its sequence number is taken. -/
theorem springFlit_good {s : State} {links : List Nat} {h : SpringHdr} (hgood : FlitGood s links h) :
    springFlit links h s = (afterFlit s h, true) := by
  obtain ⟨hlink, hopen, hcrc, hseq⟩ := hgood
  simp [springFlit, hlink, hopen, hcrc, timeSeq_in_sequence hseq]

theorem ChildSays.messages {s x : State} {h : SpringHdr} (hsays : ChildSays s h x) : Messages s x := by
  obtain ⟨-, rfl⟩ := hsays
  rfl

theorem fromChild_of_says {s x : State} {h : SpringHdr} (hsays : ChildSays s h x) : fromChild h s = (x, true) := by
  obtain ⟨hgood, rfl⟩ := hsays
  exact springFlit_good hgood

theorem HeadSays.messages {s x : State} {h : Option SpringHdr} {msg : SpringMsg} (hsays : HeadSays s h msg x) :
    Messages s x := by
  obtain ⟨q, -, -, rfl⟩ | ⟨-, -, -, rfl⟩ := hsays
  · exact .trans (x := afterFlit s q) rfl (sendDown_sends msg _).messages
  · rfl

theorem fromHead_of_says {s x : State} {h : Option SpringHdr} {msg : SpringMsg} (hsays : HeadSays s h msg x) :
    fromHead h msg s = (x, true) := by
  obtain ⟨q, rfl, hgood, rfl⟩ | ⟨rfl, hroot, hmem, rfl⟩ := hsays
  · simp only [fromHead, springFlit_good hgood, if_true]
  · simp only [fromHead, hroot, List.contains_iff_mem.2 hmem, Bool.and_self, if_true]

end Sys2Proof.Machine
end

section
/-! PROOFS. The spring's answer to a check that fails: FAIL, and ROLLBACK at the root (R188, R189, R197, R203). -/

namespace Sys2Proof.Machine

/-- From `s` to `u` the spring answers a failure: checks that failed, votes sent, generation and orders, the messages that leave,
and SPR_STATUS, SPR_RB_CNT and SPR_RB_CAUSE. -/
structure Answers (s u : State) : Prop where
  frame : u = { s with
    regs := u.regs
    outbox := u.outbox
    spr := { s.spr with
      fails := u.spr.fails, sent := u.spr.sent, gen := u.spr.gen, txSeq := u.spr.txSeq, orders := u.spr.orders } }
  regs : ∀ b, b ≠ sprA 4 → b ≠ sprA 0x50 → b ≠ sprA 0x54 → rdReg u b = rdReg s b

theorem Answers.refl (s : State) : Answers s s := ⟨rfl, fun _ _ _ _ => rfl⟩

theorem Answers.trans {s u v : State} (h : Answers s u) (k : Answers u v) : Answers s v := by
  obtain ⟨hu, hregs⟩ := h
  obtain ⟨hv, kregs⟩ := k
  refine ⟨?_, fun b h4 h50 h54 => (kregs b h4 h50 h54).trans (hregs b h4 h50 h54)⟩
  rw [hv, hu]

theorem Answers.chip {s u : State} (h : Answers s u) : u.chip = s.chip := by rw [h.frame]
theorem Answers.cl {s u : State} (h : Answers s u) : u.cl = s.cl := by rw [h.frame]
theorem Answers.cel {s u : State} (h : Answers s u) : u.cel = s.cel := by rw [h.frame]
theorem Answers.tim {s u : State} (h : Answers s u) : u.tim = s.tim := by rw [h.frame]
theorem Answers.tick {s u : State} (h : Answers s u) : u.spr.tick = s.spr.tick := by rw [h.frame]
theorem Answers.entry {s u : State} (h : Answers s u) : u.spr.entry = s.spr.entry := by rw [h.frame]
theorem Answers.cls {s u : State} (h : Answers s u) : u.spr.cls = s.spr.cls := by rw [h.frame]
theorem Answers.commit {s u : State} (h : Answers s u) : u.spr.commit = s.spr.commit := by rw [h.frame]
theorem Answers.cen {s u : State} (h : Answers s u) : u.spr.cen = s.spr.cen := by rw [h.frame]
theorem Answers.cmp {s u : State} (h : Answers s u) : u.cmp = s.cmp := by rw [h.frame]

theorem answers_wrFld (s : State) {a : Nat} (lo n x : Nat) (h : a = sprA 4 ∨ a = sprA 0x50 ∨ a = sprA 0x54) :
    Answers s (wrFld s a lo n x) := by
  refine ⟨rfl, fun b h4 h50 h54 => rdReg_wrFld_other s lo n x ?_⟩
  rintro rfl
  tauto

theorem answers_incFld (s : State) {a : Nat} (lo n : Nat) (h : a = sprA 4 ∨ a = sprA 0x50 ∨ a = sprA 0x54) :
    Answers s (incFld s a lo n) := by
  unfold incFld
  dsimp only
  split
  · exact answers_wrFld s _ _ _ h
  · exact .refl s

theorem Sends.answers {s u : State} (h : Sends s u) : Answers s u := by
  have hregs : u.regs = s.regs := by rw [h]
  refine ⟨?_, fun b _ _ _ => by rw [rdReg, hregs, rdReg]⟩
  rw [h]

theorem answers_rootOrder (msg : SpringMsg) (s : State) : Answers s (rootOrder msg s) :=
  (sendDown_sends msg s).answers.trans ⟨rfl, fun _ _ _ _ => rfl⟩

theorem answers_issueRollback (cause origin : Nat) (hold : Bool) (s : State) :
    Answers s (issueRollback cause origin hold s) := by
  unfold issueRollback
  split
  · exact .refl s
  · refine .trans ?_ (answers_rootOrder _ _)
    exact .trans (u := { s with spr := { s.spr with gen := s.spr.gen + 1 } }) ⟨rfl, fun _ _ _ _ => rfl⟩
      (answers_wrFld _ _ _ _ (.inr (.inr rfl)))

theorem answers_sendFail (epoch cause origin : Nat) (s : State) : Answers s (sendFail epoch cause origin s) := by
  unfold sendFail
  split
  · exact .refl s
  · refine .trans (u := { s with spr := { s.spr with sent := s.spr.sent ++ [(epoch, false)] } }) ⟨rfl, fun _ _ _ _ => rfl⟩ ?_
    split
    · exact answers_issueRollback _ _ _ _
    · exact (sendUp_sends _ _).answers

theorem answers_restartRollback (hold : Bool) (s : State) : Answers s (restartRollback hold s) := by
  unfold restartRollback
  split
  · exact .refl s
  · refine .trans ?_ (answers_rootOrder _ _)
    refine .trans ?_ (answers_incFld _ _ _ (.inr (.inl rfl)))
    refine .trans ?_ (answers_wrFld _ _ _ _ (.inr (.inr rfl)))
    exact ⟨rfl, fun _ _ _ _ => rfl⟩

theorem answers_rollbackFault (cause : Nat) (s : State) : Answers s (rollbackFault cause s) := by
  unfold rollbackFault
  refine (answers_wrFld s 14 1 1 (.inl rfl)).trans ?_
  dsimp only
  split
  · exact answers_restartRollback _ _
  · exact (sendUp_sends _ _).answers

theorem answers_failEpoch (epoch cause : Nat) (s : State) : Answers s (failEpoch epoch cause s) := by
  unfold failEpoch failFrom
  split
  · exact .refl s
  split
  · exact answers_rollbackFault cause s
  · dsimp only
    refine .trans ?_ (answers_sendFail _ _ _ _)
    exact ⟨rfl, fun _ _ _ _ => rfl⟩

theorem answers_failNow (cause : Nat) (s : State) : Answers s (failNow cause s) := answers_failEpoch _ _ _

/-! ### A rollback that the root issues (R189, R200) -/

theorem rollbackPending_of_no_orders {s : State} (hphase : s.spr.phase ≠ .rollback) (h : s.spr.orders = []) :
    rollbackPending s = false := by
  simp [rollbackPending, hphase, h]

/-- After `issueRollback` an order to roll back stands, be it an earlier one. -/
theorem rollbackPending_issueRollback (cause origin : Nat) (hold : Bool) (s : State) :
    rollbackPending (issueRollback cause origin hold s) = true := by
  unfold issueRollback
  split
  · assumption
  · simp [rollbackPending, rootOrder_orders]

/-- The order leaves the failed checks and the votes as they are. -/
theorem issueRollback_votes (cause origin : Nat) (hold : Bool) (s : State) :
    (issueRollback cause origin hold s).spr.fails = s.spr.fails ∧ (issueRollback cause origin hold s).spr.sent = s.spr.sent := by
  unfold issueRollback
  split
  · exact ⟨rfl, rfl⟩
  · exact ⟨(rootOrder_messages _ _).fails, (rootOrder_messages _ _).sent⟩

/-- Of the registers only SPR_RB_CAUSE, which shows the generation, changes (R222). -/
theorem rdReg_issueRollback (cause origin : Nat) (hold : Bool) (s : State) {b : Nat} (h : b ≠ sprA 0x54) :
    rdReg (issueRollback cause origin hold s) b = rdReg s b := by
  unfold issueRollback
  split
  · rfl
  · rw [(rootOrder_messages _ _).rdReg, rdReg_wrFld_other _ _ _ _ h]
    rfl

/-- Without an earlier order: a new generation, and the order to return to the last committed epoch. -/
theorem issueRollback_of_no_orders {s : State} (hphase : s.spr.phase ≠ .rollback) (h : s.spr.orders = []) (cause origin : Nat)
    (hold : Bool) :
    (issueRollback cause origin hold s).spr.gen = s.spr.gen + 1 ∧
      (issueRollback cause origin hold s).spr.orders =
        [.rollback s.spr.commit.toNat (tb0Now s + stepsTime 50000) cause origin hold] := by
  rw [issueRollback, if_neg (by simp [rollbackPending_of_no_orders hphase h])]
  refine ⟨(rootOrder_messages _ _).gen, ?_⟩
  rw [rootOrder_orders]
  simp only [wrFld_spr, h]
  rfl

/-! ### FAIL (R188, R197) -/

/-- The votes sent, with a FAIL. -/
def failSent (k : Nat) (s : State) : State := { s with spr := { s.spr with sent := s.spr.sent ++ [(k, false)] } }

section
variable {s : State} {k : Nat} (hopen : (k, false) ∉ s.spr.sent) (cause origin : Nat)
include hopen

theorem sendFail_root (hroot : s.crt.isRoot = true) :
    sendFail k cause origin s = issueRollback cause origin (holdCause cause) (failSent k s) := by
  have hclosed : ¬ s.spr.sent.contains (k, false) = true := by simpa using hopen
  rw [sendFail, if_neg hclosed]
  exact if_pos hroot

theorem sendFail_elsewhere (hroot : s.crt.isRoot = false) :
    sendFail k cause origin s = sendUp (.vote k false false cause origin) (failSent k s) := by
  have hclosed : ¬ s.spr.sent.contains (k, false) = true := by simpa using hopen
  rw [sendFail, if_neg hclosed]
  exact if_neg (by simp [hroot])

/-- FAIL counts as sent; the failed checks stay. -/
theorem sendFail_votes :
    (sendFail k cause origin s).spr.fails = s.spr.fails ∧ (sendFail k cause origin s).spr.sent = s.spr.sent ++ [(k, false)] := by
  cases hroot : s.crt.isRoot with
  | true =>
    rw [sendFail_root hopen _ _ hroot]
    exact issueRollback_votes ..
  | false =>
    rw [sendFail_elsewhere hopen _ _ hroot]
    exact ⟨(sendUp_sends ..).messages.fails, (sendUp_sends ..).messages.sent⟩

theorem mem_sent_sendFail : (k, false) ∈ (sendFail k cause origin s).spr.sent := by
  rw [(sendFail_votes hopen cause origin).2]
  exact List.mem_append_right _ (List.mem_singleton.2 rfl)

/-- At the root a FAIL is an order to roll back. -/
theorem rollbackPending_sendFail (hroot : s.crt.isRoot = true) : rollbackPending (sendFail k cause origin s) = true := by
  rw [sendFail_root hopen _ _ hroot]
  exact rollbackPending_issueRollback ..

theorem rdReg_sendFail {b : Nat} (h : b ≠ sprA 0x54) : rdReg (sendFail k cause origin s) b = rdReg s b := by
  cases hroot : s.crt.isRoot with
  | true =>
    rw [sendFail_root hopen _ _ hroot]
    exact rdReg_issueRollback _ _ _ _ h
  | false =>
    rw [sendFail_elsewhere hopen _ _ hroot]
    exact (sendUp_sends ..).messages.rdReg b

/-- Elsewhere a FAIL goes to the head, with the cause and its origin. -/
theorem sendFail_outbox (hroot : s.crt.isRoot = false) {l : Nat} (hl : s.crt.uplink = some l) :
    ∃ h, (sendFail k cause origin s).outbox = .spring h (.vote k false false cause origin) :: s.outbox ∧ h.link = l ∧
      h.gen = s.spr.gen := by
  rw [sendFail_elsewhere hopen _ _ hroot, sendUp_of_uplink (s := failSent k s) hl]
  exact ⟨_, rfl, rfl, rfl⟩

end

/-- The failed checks of a device, with one more. -/
def failsNoted (k cause : Nat) (s : State) : State :=
  { s with spr := { s.spr with
    fails := if s.spr.fails.contains (k, cause) then s.spr.fails else s.spr.fails ++ [(k, cause)] } }

theorem failEpoch_running {s : State} (hrun : s.chip.devState = .running) (hphase : s.spr.phase ≠ .rollback) (k cause : Nat) :
    failEpoch k cause s = sendFail k cause (devAddr s) (failsNoted k cause s) := by
  unfold failEpoch failFrom
  rw [if_neg (not_not.2 hrun), if_neg hphase]
  rfl

theorem mem_failsNoted (k cause : Nat) (s : State) : (k, cause) ∈ (failsNoted k cause s).spr.fails := by
  unfold failsNoted
  dsimp only
  split
  · exact List.contains_iff_mem.1 ‹_›
  · simp

theorem sendFail_again {s : State} {k : Nat} (h : (k, false) ∈ s.spr.sent) (cause origin : Nat) : sendFail k cause origin s = s :=
  if_pos (List.contains_iff_mem.2 h)

/-- Before a rollback a failed check leaves the flags of SPR_STATUS alone. -/
theorem rdReg_failEpoch {s : State} (hrun : s.chip.devState = .running) (hphase : s.spr.phase ≠ .rollback) (k cause : Nat) {b : Nat}
    (h : b ≠ sprA 0x54) : rdReg (failEpoch k cause s) b = rdReg s b := by
  rw [failEpoch_running hrun hphase]
  by_cases hsent : (k, false) ∈ s.spr.sent
  · rw [sendFail_again (s := failsNoted k cause s) hsent]
    rfl
  · exact rdReg_sendFail (s := failsNoted k cause s) hsent _ _ h

/-- The check of epoch `k` fails: noted, and FAIL is sent once. -/
theorem failEpoch_failsEpoch {s : State} (hrun : s.chip.devState = .running) (hphase : s.spr.phase ≠ .rollback) (k cause : Nat) :
    FailsEpoch s (failEpoch k cause s) k cause := by
  have hnoted := mem_failsNoted k cause s
  rw [failEpoch_running hrun hphase]
  by_cases hsent : (k, false) ∈ s.spr.sent
  · rw [sendFail_again (s := failsNoted k cause s) hsent]
    exact ⟨hnoted, hsent, fun h => absurd hsent h, fun h => absurd hsent h⟩
  · have hopen : (k, false) ∉ (failsNoted k cause s).spr.sent := hsent
    obtain ⟨hfails, -⟩ := sendFail_votes hopen cause (devAddr s)
    exact ⟨hfails ▸ hnoted, mem_sent_sendFail hopen _ _, fun _ => rollbackPending_sendFail hopen _ _,
      fun _ hroot l => sendFail_outbox hopen _ _ hroot⟩

/-- What the answer to a failed check depends on. -/
theorem FailsEpoch.congr {s x t : State} {k cause : Nat} (h : FailsEpoch x t k cause) (hspr : x.spr = s.spr) (hcrt : x.crt = s.crt)
    (hout : x.outbox = s.outbox) (haddr : devAddr x = devAddr s) : FailsEpoch s t k cause := by
  unfold FailsEpoch at h ⊢
  rwa [hspr, hcrt, hout, haddr] at h

end Sys2Proof.Machine
end

section
/-! PROOFS. The tick script and the votes of an epoch (R180, R188, R189). -/

open Sys2Proof Sys2Proof.Machine

/-- Settles O23: an entry's second word says where the script goes on; entry 127 is followed by 128 mod 128. -/
theorem scriptControlFlow : Obligations.ScriptControlFlow := by
  intro s i dec hi b hbit
  have hword : scriptWord s i 1 = b := congrArg (fun o => rdReg s (sprA o)) (by omega)
  have hnext : (i + 1) % 128 = if i = 127 then 0 else i + 1 := by split <;> omega
  unfold scriptNext
  simp only [hword, hbit]
  refine ⟨fun h => ?_, fun h => ?_, fun h => ?_, fun h => ?_⟩
  · simpa [h] using hnext
  · simp [h]
  · simp [h]
  · cases hdec : dec.getLsbD (fld b 4 4) <;> simp [h]

end

section
/-! PROOFS. Votes of the epochs (R188, R189). -/

namespace Sys2Proof.Machine

/-- The votes sent, with a PASS. -/
def passSent (k : Nat) (s : State) : State := { s with spr := { s.spr with sent := s.spr.sent ++ [(k, true)] } }

/-- A complete checklist of an epoch without a vote: PASS goes up, and the root may commit (R188, R189). -/
theorem sendPass_ready {s : State} {k : Nat} (hrun : s.chip.devState = .running) (hphase : s.spr.phase ≠ .rollback)
    (hcommit : s.spr.commit.toNat ≤ k) (hready : passReady s k = true) (hpass : (k, true) ∉ s.spr.sent)
    (hfail : (k, false) ∉ s.spr.sent) :
    sendPass k s = rootCommit (sendUp (.vote k true (stopFlag s k) 0 (devAddr s)) (passSent k s)) := by
  have hopen : s.spr.sent.contains (k, true) = false := by simpa using hpass
  have hclear : s.spr.sent.contains (k, false) = false := by simpa using hfail
  rw [sendPass, if_pos ⟨hrun, hphase, hcommit, hready, hopen, hclear⟩]
  rfl

theorem rootCommit_elsewhere {s : State} (h : s.crt.isRoot = false) : rootCommit s = s := by
  unfold rootCommit
  simp [h, whenDo]

/-- An order to commit is a message; it changes nothing of the run. -/
theorem rootCommit_messages (s : State) : Messages s (rootCommit s) := by
  unfold rootCommit whenDo
  dsimp only
  split
  · exact rootOrder_messages ..
  · rfl

/-- The root orders the commit of the next epoch when it has passed (R189). -/
theorem rootCommit_orders {s : State} (hroot : s.crt.isRoot = true) (hpass : (s.spr.commit.toNat, true) ∈ s.spr.sent)
    (hpending : rollbackPending s = false) (horders : s.spr.orders = []) :
    (rootCommit s).spr.orders = [.commit s.spr.commit.toNat (stopFlag s s.spr.commit.toNat)] := by
  unfold rootCommit
  simp only [hroot, List.contains_iff_mem.2 hpass, hpending, horders, List.any_nil, Bool.not_false, Bool.and_self, whenDo,
    if_true]
  rw [rootOrder_orders, horders]
  rfl

/-- The votes of the children, with one more. -/
def voteKept (v : VoteRec) (s : State) : State := { s with spr := { s.spr with votes := s.spr.votes ++ [v] } }

/-- A vote of a child that an open epoch waits for is kept; a FAIL is passed on (R188). -/
theorem voteEv_says {s x : State} {h : SpringHdr} (hsays : ChildSays s h x) (hrun : s.chip.devState = .running)
    (hphase : s.spr.phase ≠ .rollback) (hgen : h.gen = s.spr.gen) (k cause dev : Nat) (pass stop : Bool) :
    voteEv h k pass stop cause dev s =
      let y := voteKept { link := h.link, epoch := k, pass := pass, stop := stop, cause := cause, dev := dev } x
      if pass then y else sendFail k cause dev y := by
  have hm := hsays.messages
  unfold voteEv
  rw [fromChild_of_says hsays, actOn, if_pos rfl]
  dsimp only
  rw [if_neg (by simp [hm.chip, hm.gen, hm.phase, hrun, hphase, hgen])]
  rfl

/-- The end of epoch k + 1 without a commit of epoch k (R189). -/
theorem voteTimeout_ended {s : State} (hrun : s.chip.devState = .running) (harmed : s.spr.armed = false)
    (hphase : s.spr.phase ≠ .rollback) (hstop : s.spr.phase ≠ .stopping) (hpos : s.spr.pos = .idle)
    (hlate : s.spr.commit.toNat + 2 ≤ curEpoch s) :
    voteTimeout s = if s.crt.isRoot then issueRollback 3 (devAddr s) false (setBit s (sprA 4) 12)
      else { s with spr := { s.spr with waiting := true } } := by
  unfold voteTimeout
  simp only [hrun, harmed, hphase, hstop, hpos, hlate, ne_eq, not_true_eq_false, Bool.false_eq_true, or_self, if_false,
    and_self, false_and, or_false, if_true, decide_false]

end Sys2Proof.Machine

open Sys2Proof Sys2Proof.Machine

/-- Settles O25: PASS is `sendPass_ready`, at the root with `rootCommit_orders`; a child's vote is `voteEv_says`, its FAIL sent on by
`sendFail`; the late epoch is `voteTimeout_ended`. -/
theorem epochVote : Obligations.EpochVote := by
  refine ⟨?pass, ?child, ?late⟩
  case pass =>
    intro s k hrun hphase hcommit hready hpass hfail
    refine ⟨_, congrArg Host.Outcome.next (sendPass_ready hrun hphase hcommit hready hpass hfail), ?_⟩
    have hup := (sendUp_sends (.vote k true (stopFlag s k) 0 (devAddr s)) (passSent k s)).messages
    have hm := hup.trans (rootCommit_messages _)
    refine ⟨?_, hm.regs, hm.cl, fun hroot => ?_, fun hroot hno hk hpending horders => ?_⟩
    · rw [hm.sent]
      exact List.mem_append_right _ (List.mem_singleton.2 rfl)
    · rw [rootCommit_elsewhere (by rw [hup.crt]; exact hroot)]
      refine ⟨(sendUp_sends ..).orders, fun l hl => ?_⟩
      rw [sendUp_of_uplink (s := passSent k s) hl]
      exact ⟨_, rfl, rfl⟩
    · subst hk
      rw [sendUp_of_no_uplink (s := passSent s.spr.commit.toNat s) hno]
      exact rootCommit_orders (s := passSent s.spr.commit.toNat s) hroot
        (List.mem_append_right _ (List.mem_singleton.2 rfl)) hpending horders
  case child =>
    intro s x h k cause dev stop hsays hrun hphase hgen
    refine ⟨congrArg Host.Outcome.next (voteEv_says hsays hrun hphase hgen k cause dev true stop), fun hsent => ?_⟩
    refine ⟨_, congrArg Host.Outcome.next (voteEv_says hsays hrun hphase hgen k cause dev false stop), ?_⟩
    obtain ⟨-, rfl⟩ := hsays
    have hopen (v : VoteRec) : (k, false) ∉ (voteKept v (afterFlit s h)).spr.sent := hsent
    refine ⟨mem_sent_sendFail (hopen _) cause dev, rollbackPending_sendFail (hopen _) cause dev, fun hroot l hl => ?_⟩
    obtain ⟨q, hout, hlink, -⟩ := sendFail_outbox (hopen _) cause dev hroot hl
    exact ⟨q, hout, hlink⟩
  case late =>
    intro s hrun harmed hphase hstop hpos hlate
    refine ⟨_, congrArg Host.Outcome.next (voteTimeout_ended hrun harmed hphase hstop hpos hlate), fun hroot => ?_, fun hroot => ?_⟩
    · rw [hroot]
      rfl
    · rw [hroot, if_pos rfl]
      refine ⟨?_, fun horders => ?_⟩
      · rw [rdBit, rdReg_issueRollback _ _ _ _ (by decide)]
        exact rdBit_setBit_same s _ (by decide)
      · obtain ⟨hgen, hroll⟩ := issueRollback_of_no_orders (s := setBit s (sprA 4) 12) hphase horders 3 (devAddr s) false
        exact ⟨hgen, _, hroll, rfl⟩

end

section
/-! PROOFS. Requests to the root (R178, R207, R213). -/

namespace Sys2Proof.Machine

/-! ### SPR_CTRL and SPR_CEN (R213, R218) -/

theorem regRow_sprCtrl : ∃ r, regRow (sprA 0) = some r ∧ r.rule = .plain := ⟨_, rfl, rfl⟩

theorem regRow_sprCen : ∃ r, regRow (sprA 0x20) = some r ∧ r.rule = .plain := ⟨_, rfl, rfl⟩

theorem regWrite_sprCtrl (who : Requester) (v : Word) (s : State) : regWrite who (sprA 0) v s = (.ok, sprCtrlWrite v s) := by
  obtain ⟨r, hrow, hrule⟩ := regRow_sprCtrl
  have hopen : ruleOpen r s = true := by simp [ruleOpen, hrule]
  unfold regWrite
  simp only [hrow, hopen]
  rfl

theorem regWrite_sprCen (who : Requester) (v : Word) (s : State) : regWrite who (sprA 0x20) v s = (.ok, sprCenWrite v s) := by
  obtain ⟨r, hrow, hrule⟩ := regRow_sprCen
  have hopen : ruleOpen r s = true := by simp [ruleOpen, hrule]
  unfold regWrite
  simp only [hrow, hopen]
  rfl

/-- A write of SPR_CTRL is answered after what it requests is done. -/
theorem writeAt_sprCtrl {s : State} {who : Requester} (h : Reaches s who (sprA 0)) (v : Word) :
    writeAt who (sprA 0) v s = .next (answer who true .ok 0 (sprCtrlWrite v s)) := by
  rw [writeAt, request_reg h rfl (by decide), regWrite_sprCtrl]

theorem writeAt_sprCen {s : State} {who : Requester} (h : Reaches s who (sprA 0x20)) (v : Word) :
    writeAt who (sprA 0x20) v s = .next (answer who true .ok 0 (sprCenWrite v s)) := by
  rw [writeAt, request_reg h rfl (by decide), regWrite_sprCen]

/-! ### Where a request goes (R213) -/

theorem sprRequest_elsewhere {s : State} (h : s.crt.isRoot = false) (kind : ReqKind) (value : BitVec 8) :
    sprRequest kind value s = sendUp (.req kind value (devAddr s)) s := by
  rw [sprRequest, h]
  rfl

theorem sprRequest_root {s : State} (h : s.crt.isRoot = true) (kind : ReqKind) (value : BitVec 8) :
    sprRequest kind value s = rootRequest kind value (devAddr s) s := by
  rw [sprRequest, h]
  rfl

/-- A Running root without children, asked to HOLD, orders the stop at the end of the epoch of tick n_R + D (R207). -/
theorem rootRequest_hold {s : State} (hchildren : s.crt.children = []) (hrun : s.chip.devState = .running)
    (horders : s.spr.orders = []) (hhold : s.spr.holdAt = none) (dev : Nat) :
    rootRequest .hold 0 dev s =
      { s with spr := { s.spr with orders := [.hold ((s.spr.tick.toNat + decLead s) / epochLen s) 0] } } := by
  have hfree : holdPending s = false := by simp [holdPending, hhold, horders]
  unfold rootRequest
  dsimp only
  rw [if_pos ⟨hrun, hfree⟩, rootHold, rootOrder_of_no_children hchildren, horders]
  rfl

/-- A Running root, asked for a rollback by software, issues it with cause 4. -/
theorem rootRequest_forceRb {s : State} (hrun : s.chip.devState = .running) (horders : s.spr.orders = [])
    (hphase : s.spr.phase ≠ .rollback) (dev : Nat) : rootRequest .forceRb 0 dev s = issueRollback 4 dev false s := by
  unfold rootRequest
  dsimp only
  rw [if_pos ⟨hrun, rollbackPending_of_no_orders hphase horders⟩]
  rfl

/-- A Running root broadcasts a context enable vector for the epoch after that of tick n_R + D (R178). -/
theorem rootRequest_cen {s : State} (hrun : s.chip.devState = .running) (value : BitVec 8) (dev : Nat) :
    rootRequest .cen value dev s = rootOrder (.cen value ((s.spr.tick.toNat + decLead s) / epochLen s + 1)) s := by
  unfold rootRequest
  dsimp only
  rw [hrun]
  rfl

/-- SPR_CEN with a new request value (R218). -/
def cenAsked (v : Word) (s : State) : State := wrFld s (sprA 0x20) 0 8 (fld v 0 8)

theorem rdFld_cenAsked (v : Word) (s : State) : rdFld (cenAsked v s) (sprA 0x20) 0 8 = fld v 0 8 := by
  rw [cenAsked, rdFld_wrFld_same _ _ _ _ _ (by decide)]
  exact Nat.mod_mod ..

theorem rdReg_cenAsked (v : Word) (s : State) {b : Nat} (h : b ≠ sprA 0x20) : rdReg (cenAsked v s) b = rdReg s b :=
  rdReg_wrFld_other s _ _ _ h

theorem devAddr_cenAsked (v : Word) (s : State) : devAddr (cenAsked v s) = devAddr s := by
  rw [devAddr, rdFld, rdReg_cenAsked v s (by decide)]
  rfl

/-- Tick and epoch length do not depend on SPR_CEN. -/
theorem leadEpoch_cenAsked (v : Word) (s : State) :
    ((cenAsked v s).spr.tick.toNat + decLead (cenAsked v s)) / epochLen (cenAsked v s) =
      (s.spr.tick.toNat + decLead s) / epochLen s := by
  have hcfg : rdReg (cenAsked v s) (sprA 8) = rdReg s (sprA 8) := rdReg_cenAsked v s (by decide)
  simp only [decLead, epochLen, rdFld, hcfg]
  rfl

/-- A REQ of a child goes on to the head. -/
theorem reqEv_elsewhere {s x : State} {h : SpringHdr} (hsays : ChildSays s h x) (hroot : s.crt.isRoot = false) (kind : ReqKind)
    (value : BitVec 8) (dev : Nat) : reqEv h kind value dev s = sendUp (.req kind value dev) x := by
  unfold reqEv
  rw [fromChild_of_says hsays, actOn, if_pos rfl, if_neg]
  rw [hsays.messages.crt, hroot]
  exact Bool.false_ne_true

/-- A REJECT for this device sets REQ_REJ, and may set that of IMG_STATUS; one for another device changes nothing (R213, R265). -/
theorem rejectEv_says {s x : State} {h : Option SpringHdr} {dev : Nat} {kind : ReqKind} (hsays : HeadSays s h (.reject dev kind) x) :
    rejectEv h dev kind s = if dev = devAddr s then
      whenDo ((kind = .run || kind = .resume) && (x.ldr.kind = 2 || x.ldr.domain = 2)) (fun y => setBit y imgStat 6)
        (setBit x (sprA 4) 16) else x := by
  unfold rejectEv
  rw [fromHead_of_says hsays, actOn, if_pos rfl, hsays.messages.devAddr]

theorem whenDo_setBit_spr (b : Bool) (a i : Nat) (s : State) : (whenDo b (fun y => setBit y a i) s).spr = s.spr := by
  cases b <;> rfl

theorem rdReg_whenDo_setBit_other (b : Bool) {a c : Nat} (i : Nat) (s : State) (h : c ≠ a) :
    rdReg (whenDo b (fun y => setBit y a i) s) c = rdReg s c := by
  cases b
  · rfl
  · exact rdReg_setBit_other s i h

end Sys2Proof.Machine

open Sys2Proof Sys2Proof.Machine

/-- Settles O29: a write of SPR_CTRL or SPR_CEN is `sprRequest`, which sends REQ (`sprRequest_elsewhere`) or is what the root
does (`rootRequest_hold`, `rootRequest_cen`, `rootRequest_forceRb`); a child's REQ is `reqEv_elsewhere`, REJECT `rejectEv_says`. -/
theorem requestsToTheRoot : Obligations.RequestsToTheRoot := by
  refine ⟨?ctrl, ?root, ?cen, ?child, ?reject⟩
  case ctrl =>
    intro s who hreach hroot
    have hsend (kind : ReqKind) := sprRequest_elsewhere hroot kind 0
    exact ⟨⟨_, writeAt_sprCtrl hreach 1, hsend .run⟩, ⟨_, writeAt_sprCtrl hreach 2, hsend .hold⟩,
      ⟨_, writeAt_sprCtrl hreach 4, hsend .resume⟩, ⟨_, writeAt_sprCtrl hreach 8, hsend .forceRb⟩⟩
  case root =>
    intro s who hreach hroot hchildren hrun horders hphase
    refine ⟨fun hhold => ⟨_, writeAt_sprCtrl hreach 2, ?_⟩, _, writeAt_sprCtrl hreach 8, ?_⟩
    · exact (sprRequest_root hroot .hold 0).trans (rootRequest_hold hchildren hrun horders hhold _)
    · have hforce : sprCtrlWrite 8 s = issueRollback 4 (devAddr s) false s :=
        (sprRequest_root hroot .forceRb 0).trans (rootRequest_forceRb hrun horders hphase _)
      obtain ⟨hgen, hroll⟩ := issueRollback_of_no_orders hphase horders 4 (devAddr s) false
      rw [hforce]
      exact ⟨hgen, _, hroll⟩
  case cen =>
    intro s who v hreach
    have hwrite : sprCenWrite v s = sprRequest .cen (v.setWidth 8) (cenAsked v s) := rfl
    refine ⟨fun hroot => ⟨_, writeAt_sprCen hreach v, ?_⟩, fun hroot _ hrun => ⟨_, writeAt_sprCen hreach v, ?_⟩⟩
    · have hm := (sendUp_sends (.req .cen (v.setWidth 8) (devAddr s)) (cenAsked v s)).messages
      rw [hwrite, sprRequest_elsewhere (s := cenAsked v s) hroot, devAddr_cenAsked]
      refine ⟨?_, hm.cen, fun b hb => (hm.rdReg b).trans (rdReg_cenAsked v s hb), fun l hl => ?_⟩
      · rw [← rdFld_cenAsked v s, rdFld, rdFld, hm.rdReg]
      · rw [sendUp_of_uplink (s := cenAsked v s) hl]
        exact ⟨_, rfl, rfl⟩
    · rw [hwrite, sprRequest_root (s := cenAsked v s) hroot, rootRequest_cen (s := cenAsked v s) hrun, leadEpoch_cenAsked]
      exact ⟨rootOrder_orders .., (rootOrder_messages ..).cen⟩
  case child =>
    intro s x h kind value dev hsays hroot
    exact congrArg Host.Outcome.next (reqEv_elsewhere hsays hroot kind value dev)
  case reject =>
    intro s x h kind dev hsays
    refine ⟨fun hdev => ⟨_, congrArg Host.Outcome.next (rejectEv_says hsays), ?_⟩, fun hdev => ?_⟩
    · rw [if_pos hdev]
      refine ⟨?_, whenDo_setBit_spr .., fun b hb himg => ?_⟩
      · rw [rdBit, rdReg_whenDo_setBit_other _ _ _ (by decide)]
        exact rdBit_setBit_same x _ (by decide)
      · rw [rdReg_whenDo_setBit_other _ _ _ himg, rdReg_setBit_other _ _ hb, hsays.messages.rdReg]
    · exact congrArg Host.Outcome.next ((rejectEv_says hsays).trans (if_neg hdev))

end

section
/-! PROOFS. What happens at an epoch boundary beside the checkpoint: settings, events, lanes and shelves (R178, R183, R190, R286,
R379, R484, R703). -/

namespace Sys2Proof.Machine

/-! ### Inject registers (R77) -/

/-- An inject register stands in the BPC window of a physical cluster, below offset 0xC of its BP. -/
theorem isInjectReg_window {a : Nat} (h : isInjectReg a = true) :
    0x10000000 ≤ a ∧ 0x290000 ≤ (a - 0x10000000) % 0x400000 ∧ (a - 0x10000000) % 0x400000 < 0x2A0000 ∧
      (a - 0x10000000) % 0x400000 % 0x200 < 0xC := by
  unfold isInjectReg at h
  rw [Bool.and_eq_true, Bool.and_eq_true, Bool.and_eq_true, Bool.and_eq_true] at h
  obtain ⟨⟨⟨⟨hlow, -⟩, hfirst⟩, hlast⟩, hofs⟩ := h
  exact ⟨of_decide_eq_true hlow, of_decide_eq_true hfirst, of_decide_eq_true hlast, of_decide_eq_true hofs⟩

theorem isBpcStatus_offset {a : Nat} (h : isBpcStatus a = true) : (a - 0x10000000) % 0x200 = 0x18 := by
  unfold isBpcStatus at h
  rw [Bool.and_eq_true] at h
  exact of_decide_eq_true h.2

theorem not_isInjectReg_of_lt {a : Nat} (h : a < 0x10000000) : isInjectReg a = false := by
  rw [← Bool.not_eq_true]
  intro hinj
  obtain ⟨hlow, -⟩ := isInjectReg_window hinj
  omega

theorem not_isInjectReg_shfA (h : Nat) {o : Nat} (ho : o < 0x1000) : isInjectReg (shfA h o) = false := by
  rw [← Bool.not_eq_true]
  intro hinj
  obtain ⟨hlow, hwindow⟩ := isInjectReg_window hinj
  unfold shfA at hlow hwindow
  omega

/-- BPC_BANK of a BP is no inject register. -/
theorem not_isInjectReg_bpcBank (p n : Nat) : isInjectReg (bpcA p n 0xC) = false := by
  rw [← Bool.not_eq_true]
  intro hinj
  obtain ⟨-, hwindow⟩ := isInjectReg_window hinj
  unfold bpcA physA at hwindow
  omega

theorem not_isInjectReg_wenCtrl (p : Nat) {e : Nat} (he : e < 8) : isInjectReg (wenA p e 0x2200) = false := by
  rw [← Bool.not_eq_true]
  intro hinj
  obtain ⟨-, hwindow⟩ := isInjectReg_window hinj
  unfold wenA physA at hwindow
  omega

theorem not_isInjectReg_of_isBpcStatus {a : Nat} (h : isBpcStatus a = true) : isInjectReg a = false := by
  rw [← Bool.not_eq_true]
  intro hinj
  obtain ⟨-, -, -, hofs⟩ := isInjectReg_window hinj
  have hstatus := isBpcStatus_offset h
  omega

theorem not_isInjectReg_of_isCmpSetting {a : Nat} (h : isCmpSetting a = true) : isInjectReg a = false := by
  have hbase (o : Nat) : cmpA o = 0x40000 + o := rfl
  simp only [isCmpSetting, hbase, Bool.or_eq_true, Bool.and_eq_true, decide_eq_true_eq] at h
  exact not_isInjectReg_of_lt (by omega)

/-! ### A frame for the work at the boundary -/

/-- From `s` to `u` settings change and events are raised: no more of the spring than CEN, the bank and PHASE, nothing of the
clusters' storage or of the clock, and no inject register. -/
structure AtBoundary (s u : State) : Prop where
  frame : u = { s with
    regs := u.regs, outbox := u.outbox, cmp := u.cmp, hst := u.hst, stw := u.stw, noc := u.noc
    spr := { s.spr with
      cen := u.spr.cen, cenNext := u.spr.cenNext, bank := u.spr.bank, bankReq := u.spr.bankReq, phase := u.spr.phase } }
  inject : ∀ a, isInjectReg a = true → rdReg u a = rdReg s a

namespace AtBoundary

theorem refl (s : State) : AtBoundary s s := ⟨rfl, fun _ _ => rfl⟩

theorem trans {s u v : State} (h : AtBoundary s u) (k : AtBoundary u v) : AtBoundary s v := by
  obtain ⟨hu, hinj⟩ := h
  obtain ⟨hv, kinj⟩ := k
  refine ⟨?_, fun a ha => (kinj a ha).trans (hinj a ha)⟩
  rw [hv, hu]

theorem chip {s u : State} (h : AtBoundary s u) : u.chip = s.chip := by rw [h.frame]
theorem cl {s u : State} (h : AtBoundary s u) : u.cl = s.cl := by rw [h.frame]
theorem cel {s u : State} (h : AtBoundary s u) : u.cel = s.cel := by rw [h.frame]
theorem tim {s u : State} (h : AtBoundary s u) : u.tim = s.tim := by rw [h.frame]
theorem att {s u : State} (h : AtBoundary s u) : u.att = s.att := by rw [h.frame]
theorem ldr {s u : State} (h : AtBoundary s u) : u.ldr = s.ldr := by rw [h.frame]
theorem pos {s u : State} (h : AtBoundary s u) : u.spr.pos = s.spr.pos := by rw [h.frame]
theorem tick {s u : State} (h : AtBoundary s u) : u.spr.tick = s.spr.tick := by rw [h.frame]
theorem armed {s u : State} (h : AtBoundary s u) : u.spr.armed = s.spr.armed := by rw [h.frame]
theorem holdAt {s u : State} (h : AtBoundary s u) : u.spr.holdAt = s.spr.holdAt := by rw [h.frame]
theorem snapshots {s u : State} (h : AtBoundary s u) : u.spr.snapshots = s.spr.snapshots := by rw [h.frame]
theorem ckpt {s u : State} (h : AtBoundary s u) : u.spr.ckpt = s.spr.ckpt := by rw [h.frame]
theorem epochRecs {s u : State} (h : AtBoundary s u) : u.spr.epochRecs = s.spr.epochRecs := by rw [h.frame]

theorem foldl {α : Type} {f : State → α → State} (l : List α) (hf : ∀ x, ∀ a ∈ l, AtBoundary x (f x a)) (s : State) :
    AtBoundary s (l.foldl f s) := by
  induction l generalizing s with
  | nil => exact .refl s
  | cons a l ih =>
    exact (hf s a (List.mem_cons_self ..)).trans (ih (fun x b hb => hf x b (List.mem_cons_of_mem _ hb)) _)

theorem wrReg (s : State) {a : Nat} (v : Word) (h : isInjectReg a = false) : AtBoundary s (wrReg s a v) := by
  refine ⟨rfl, fun b hb => rdReg_wrReg_other s v ?_⟩
  rintro rfl
  rw [h] at hb
  contradiction

theorem wrFld (s : State) {a : Nat} (lo n x : Nat) (h : isInjectReg a = false) : AtBoundary s (wrFld s a lo n x) := wrReg s _ h

end AtBoundary

/-! ### Events (R484, R694, R703) -/

theorem atBoundary_putGate (h : Nat) (g : Gate) (s : State) : AtBoundary s (putGate h g s) := ⟨rfl, fun _ _ => rfl⟩

/-- An interrupt wakes a shelf: its gate, and the wake cause in its own register. -/
theorem atBoundary_wakeShelf (h : Nat) {cause : Nat} (hcause : cause ≠ 1) (s : State) : AtBoundary s (wakeShelf h cause s) := by
  have hnote (g : Gate) : AtBoundary s (wrFld (putGate h g s) (shfA h 0x604) 3 3 cause) :=
    (atBoundary_putGate h g s).trans (.wrFld _ _ _ _ (not_isInjectReg_shfA h (by decide)))
  unfold wakeShelf
  dsimp only
  split
  · exact .refl s
  · exact .refl s
  · split
    · exact atBoundary_putGate h _ s
    · exact hnote _
  · split
    · exact atBoundary_putGate h _ s
    · exact hnote _
  · exact atBoundary_putGate h _ s
  · split
    · exact atBoundary_putGate h _ s
    · rw [decide_eq_false hcause]
      exact hnote _

theorem atBoundary_irqAll (i : Nat) (s : State) : AtBoundary s (irqAll i s) := by
  unfold irqAll wakeLine
  refine .trans ?_ (.foldl _ (fun x q _ => ?_) _)
  · exact ⟨rfl, fun _ _ => rfl⟩
  · dsimp only
    split
    · exact atBoundary_wakeShelf _ (by decide) x
    · exact .refl x

theorem atBoundary_msix (v : Nat) (s : State) : AtBoundary s (msix v s) := by
  unfold msix
  split
  · exact .refl s
  · split <;> exact ⟨rfl, fun _ _ => rfl⟩

theorem atBoundary_hostEvent (n : Nat) (s : State) : AtBoundary s (hostEvent n s) := by
  have hraise (x : State) : AtBoundary x (if rdBit x (hstA 4) n then x else msix n (setBit x (hstA 4) n)) := by
    split
    · exact .refl x
    · exact .trans (.wrFld x n 1 1 (not_isInjectReg_of_lt (by decide))) (atBoundary_msix n _)
  unfold hostEvent
  cases eventLine n with
  | none => exact hraise s
  | some i => exact (atBoundary_irqAll i s).trans (hraise _)

theorem atBoundary_setPhase (p : Phase) (s : State) : AtBoundary s (setPhase p s) := by
  unfold setPhase
  split
  · exact .refl s
  · refine .trans (u := { s with spr := { s.spr with phase := p } }) ⟨rfl, fun _ _ => rfl⟩ ?_
    exact (AtBoundary.wrFld _ _ _ _ (not_isInjectReg_of_lt (by decide))).trans (atBoundary_hostEvent 7 _)

/-! ### Settings (R77, R178, R183, R286) -/

theorem atBoundary_cmpApply {a : Nat} (h : isCmpSetting a = true) (v : Word) (s : State) : AtBoundary s (cmpApply a v s) := by
  have hset (w : Word) : AtBoundary s (wrReg s a w) := .wrReg s w (not_isInjectReg_of_isCmpSetting h)
  unfold cmpApply
  split
  · dsimp only
    split
    · exact (hset _).trans ⟨rfl, fun _ _ => rfl⟩
    · exact hset _
  · exact hset v

theorem atBoundary_setCen (v : Ctx) (s : State) : AtBoundary s (setCen v s) := ⟨rfl, fun _ _ => rfl⟩

theorem atBoundary_bank (b : Nat) (s : State) : AtBoundary s { s with spr := { s.spr with bank := b } } := ⟨rfl, fun _ _ => rfl⟩

/-- A change of the bank: BPC_BANK and WEN_CTRL of every BP and engine. -/
theorem atBoundary_setBank (b : Nat) (s : State) : AtBoundary s (setBank b s) := by
  unfold setBank
  refine .trans (.foldl (List.range 256) (fun x m _ => ?_) s) (atBoundary_bank b _)
  refine .trans (.foldl (List.range 128) (fun y n _ => ?_) x) (.foldl (List.range 8) (fun y e he => ?_) _)
  · exact .wrFld y _ _ _ (not_isInjectReg_bpcBank _ n)
  · exact .wrFld y _ _ _ (not_isInjectReg_wenCtrl _ (List.mem_range.1 he))

theorem atBoundary_takeBank (b : Nat) (s : State) : AtBoundary s (takeBank b s) := by
  unfold takeBank
  split
  · exact atBoundary_setBank b s
  · exact .refl s

/-- INJ_PEND is a bit of BPC_STATUS. -/
theorem atBoundary_showInjPend (s : State) : AtBoundary s (showInjPend s) := by
  unfold showInjPend
  refine .foldl _ (fun x q hq => ?_) s
  obtain ⟨-, hstatus⟩ := List.mem_filter.1 hq
  rw [Bool.and_eq_true] at hstatus
  split
  · exact .refl x
  · exact .wrFld x _ _ _ (not_isInjectReg_of_isBpcStatus hstatus.1)

/-! ### Lanes and shelves (R266, R379) -/

theorem mem_retiredLanes {s : State} {l p : Nat} (h : p ∈ retiredLanes s l) : p < 256 := by
  simp only [retiredLanes, lanesOf, List.mem_map, List.mem_filterMap, List.mem_range] at h
  obtain ⟨⟨q, i⟩, ⟨r, hr, hsome⟩, rfl⟩ := h
  split at hsome
  · cases hsome
    exact hr
  · contradiction

theorem atBoundary_makeSpare {l p : Nat} (hl : l < 64) (hp : p < 256) (s : State) : AtBoundary s (makeSpare l p s) := by
  have hlane : isInjectReg (laneA p 4) = false := not_isInjectReg_of_lt (by unfold laneA; omega)
  have hlink : isInjectReg (linkA l 0x1C) = false := not_isInjectReg_of_lt (by unfold linkA; omega)
  unfold makeSpare
  refine .trans ?_ (.wrFld _ 30 1 1 hlink)
  refine .trans ?_ (.wrFld _ 0 8 p hlink)
  exact (AtBoundary.wrFld s 2 2 2 hlane).trans (.wrFld _ 10 5 16 hlane)

theorem atBoundary_laneReturns (s : State) : AtBoundary s (laneReturns s) := by
  unfold laneReturns
  refine .foldl _ (fun x l hl => ?_) s
  unfold laneReturn
  split
  · exact .refl x
  split
  · rename_i p hp
    exact atBoundary_makeSpare (List.mem_range.1 hl) (mem_retiredLanes (List.mem_of_find?_eq_some hp)) x
  · exact .refl x

/-- Without a reload under way a boundary changes at most the detached bit of a shelf. -/
theorem atBoundary_reloadBoundary {s : State} (h : s.ldr.kind = 0) (e : Nat) : AtBoundary s (reloadBoundary e s) := by
  have hshelf : isInjectReg (shfA s.ldr.shelf 0x500) = false := not_isInjectReg_shfA _ (by decide)
  unfold reloadBoundary
  dsimp only
  split
  · exact .wrFld s _ _ _ hshelf
  · rw [if_neg (by omega)]
    split
    · exact .wrFld s _ _ _ hshelf
    · exact .refl s

end Sys2Proof.Machine
end

section
/-! PROOFS. The boundary extension, the checkpoint writes and the stage (R77, R190, R191, R196 to R198, R301). -/

namespace Sys2Proof.Machine

/-! ### Staged inject values (R77) -/

/-- The registers of a list take its values, in turn. -/
def putAll (l : SMap Word) (s : State) : State := l.foldl (fun acc q => wrReg acc q.1 q.2) s

theorem putAll_frame (l : SMap Word) (s : State) : putAll l s = { s with regs := (putAll l s).regs } := by
  induction l generalizing s with
  | nil => rfl
  | cons q l ih => exact (ih (wrReg s q.1 q.2)).trans rfl

theorem putAll_spr (l : SMap Word) (s : State) : (putAll l s).spr = s.spr := by rw [putAll_frame]
theorem putAll_cl (l : SMap Word) (s : State) : (putAll l s).cl = s.cl := by rw [putAll_frame]
theorem putAll_cmp (l : SMap Word) (s : State) : (putAll l s).cmp = s.cmp := by rw [putAll_frame]
theorem putAll_chip (l : SMap Word) (s : State) : (putAll l s).chip = s.chip := by rw [putAll_frame]
theorem putAll_att (l : SMap Word) (s : State) : (putAll l s).att = s.att := by rw [putAll_frame]
theorem putAll_ldr (l : SMap Word) (s : State) : (putAll l s).ldr = s.ldr := by rw [putAll_frame]

theorem rdReg_putAll_other {l : SMap Word} {a : Nat} (h : ∀ q ∈ l, q.1 ≠ a) (s : State) : rdReg (putAll l s) a = rdReg s a := by
  induction l generalizing s with
  | nil => rfl
  | cons q l ih =>
    have hq : a ≠ q.1 := (h q (List.mem_cons_self ..)).symm
    exact (ih (fun r hr => h r (List.mem_cons_of_mem _ hr)) _).trans (rdReg_wrReg_other s q.2 hq)

/-- A register that the list names once holds its value. -/
theorem rdReg_putAll {l : SMap Word} (hrising : l.Pairwise (fun a b => a.1 < b.1)) {q : Nat × Word} (hq : q ∈ l) (s : State) :
    rdReg (putAll l s) q.1 = q.2 := by
  induction l generalizing s with
  | nil => cases hq
  | cons r l ih =>
    obtain ⟨hfirst, hrest⟩ := List.pairwise_cons.1 hrising
    rcases List.mem_cons.1 hq with rfl | hq
    · exact (rdReg_putAll_other (fun r hr => (hfirst r hr).ne') _).trans (rdReg_wrReg_same s _ _)
    · exact ih hrest hq _

/-! ### The record and the settings of the next epoch (R190) -/

/-- The staged settings of an epoch have been taken. -/
def stagesTaken (e : Nat) (s : State) : State :=
  { s with
    cl := { s.cl with injStaged := [] }
    cmp := { s.cmp with staged := [] }
    spr := { s.spr with bankReq := none, cenNext := s.spr.cenNext.filter (fun q => e < q.1) } }

/-- A first run of an epoch without a record: the inject values, and the other settings after them. -/
theorem freshSettings_first {s : State} {e : Nat} (hrec : recOfEpoch s e = none)
    (hstaged : ∀ q ∈ s.cmp.staged, isCmpSetting q.1 = true) :
    ∃ u, AtBoundary (putAll s.cl.injStaged s) u ∧ freshSettings e s = stagesTaken e u := by
  unfold freshSettings
  rw [hrec]
  extract_lets s1 s2 s3 due s4 s5
  have hcmp : AtBoundary s2 s3 := by
    have hs2 : s2.cmp.staged = s.cmp.staged := by
      rw [show s2 = putAll s.cl.injStaged s from rfl, putAll_cmp]
    exact .foldl _ (fun x q hq => atBoundary_cmpApply (hstaged q (hs2 ▸ hq)) q.2 x) s2
  have hcen : AtBoundary s3 s4 := by
    unfold s4
    split
    · exact atBoundary_setCen _ _
    · exact .refl _
  have hbank : AtBoundary s4 s5 := by
    unfold s5
    split
    · exact atBoundary_takeBank _ _
    · exact .refl _
  exact ⟨s5, (hcmp.trans hcen).trans hbank, rfl⟩

/-- The next epoch is a first run without a record: its settings are taken and its record is made (R190). -/
theorem nextEpoch_first {s : State} {e : Nat} (hfirst : s.spr.replayEnd ≤ e) (hrec : recOfEpoch s e = none)
    (hstaged : ∀ q ∈ s.cmp.staged, isCmpSetting q.1 = true) :
    ∃ r u, r.epoch = e ∧ AtBoundary (putAll s.cl.injStaged s) u ∧ nextEpoch e s = putRecordOf r (stagesTaken e u) := by
  obtain ⟨u, hu, hfresh⟩ := freshSettings_first hrec hstaged
  unfold nextEpoch
  rw [if_neg (by omega), hfresh]
  refine ⟨_, u, ?_, hu, rfl⟩
  split <;> rfl

/-! ### The boundary extension (R190, R191) -/

/-- The checkpoint work of epoch `k` at its boundary (R198). -/
def workOpened (k : Nat) (s : State) : CkptWork :=
  { epoch := k, snapshot := true, undo := undoCount s k ≠ 0, inlet := s.spr.logged }

/-- The checkpoint of epoch `k` is opened: its snapshot is taken and its parts wait to be written (R190, R191, R198). -/
def checkpointOpened (k : Nat) (s : State) : State :=
  onSpr (fun x => { x with
    snapshots := x.snapshots.filter (fun q => q.epoch ≠ k && x.commit.toNat ≤ q.epoch + 1) ++ [takeSnapshot s k]
    epochRecs := x.epochRecs.filter (fun q => x.commit.toNat ≤ q.epoch)
    ckpt := x.ckpt ++ [workOpened k s]
    logged := false
    pos := .idle }) s

/-- The counters that show one epoch begin again, units and lanes that wait for a boundary return, and a shelf under reload
leaves or joins. -/
def boundaryUnits (e : Nat) (s : State) : State :=
  reloadBoundary e (laneReturns (fillPositions (wrReg (clrBit s (cmpA 0x58) 6) (sprA 0x58) 0)))

/-- The last replay has ended. -/
def replayOver (e : Nat) (s : State) : State :=
  if s.spr.phase = .replay ∧ s.spr.replayEnd ≤ e then setPhase .firstRun s else s

theorem boundaryExtension_eq {s : State} (hrun : s.chip.devState = .running) (hpos : s.spr.pos = .extension) :
    boundaryExtension s = checkHold (replayOver (curEpoch s) (boundaryUnits (curEpoch s)
      (nextStaged (nextEpoch (curEpoch s) (cmpEpochEnd (curEpoch s - 1) (checkpointOpened (curEpoch s - 1) s)))))) := by
  rw [boundaryExtension, if_pos ⟨hrun, hpos⟩]
  rfl

theorem fillPositions_none {s : State} (h : s.att.passed = []) : fillPositions s = s := by
  rw [fillPositions, h, List.mergeSort_nil]
  rfl

theorem checkHold_none {s : State} (h : s.spr.holdAt = none) : checkHold s = s := by
  rw [checkHold, h]

theorem atBoundary_boundaryUnits {s : State} (hpassed : s.att.passed = []) (hkind : s.ldr.kind = 0) (e : Nat) :
    AtBoundary s (boundaryUnits e s) := by
  have hcounts : AtBoundary s (wrReg (clrBit s (cmpA 0x58) 6) (sprA 0x58) 0) :=
    (AtBoundary.wrFld s 6 1 0 (not_isInjectReg_of_lt (by decide))).trans (.wrReg _ 0 (not_isInjectReg_of_lt (by decide)))
  unfold boundaryUnits
  rw [fillPositions_none (s := wrReg (clrBit s (cmpA 0x58) 6) (sprA 0x58) 0) hpassed]
  have hlanes := hcounts.trans (atBoundary_laneReturns _)
  exact hlanes.trans (atBoundary_reloadBoundary (by rw [hlanes.ldr, hkind]) e)

theorem atBoundary_replayOver (e : Nat) (s : State) : AtBoundary s (replayOver e s) := by
  unfold replayOver
  split
  · exact atBoundary_setPhase _ s
  · exact .refl s

/-- Writes that came during the extension are the staged ones of the epoch after the next (R77). -/
def laterStaged (s : State) : State :=
  { s with
    cl := { s.cl with injStaged := mergeOver s.cl.injStaged s.cl.injLater, injLater := [] }
    cmp := { s.cmp with staged := mergeOver s.cmp.staged s.cmp.stagedLater, stagedLater := [] } }

theorem atBoundary_nextStaged (s : State) : AtBoundary (laterStaged s) (nextStaged s) := atBoundary_showInjPend _

/-- The chain of states of a boundary extension that begins a first run: the inject values are taken in `v`, then the record
`r` joins, then nothing but settings and events change. -/
theorem boundaryExtension_first {s : State} (hrun : s.chip.devState = .running) (hpos : s.spr.pos = .extension)
    (hfirst : s.spr.replayEnd ≤ curEpoch s) (hkind : s.ldr.kind = 0) (hhold : s.spr.holdAt = none) (hpassed : s.att.passed = [])
    (hrec : recOfEpoch s (curEpoch s) = none) (hstaged : ∀ q ∈ s.cmp.staged, isCmpSetting q.1 = true) :
    let opened := cmpEpochEnd (curEpoch s - 1) (checkpointOpened (curEpoch s - 1) s)
    ∃ r v, r.epoch = curEpoch s ∧ AtBoundary (putAll s.cl.injStaged opened) v ∧
      AtBoundary (laterStaged (putRecordOf r (stagesTaken (curEpoch s) v))) (boundaryExtension s) := by
  intro opened
  have hnone : recOfEpoch opened (curEpoch s) = none := by
    refine List.find?_eq_none.2 fun r hr => ?_
    exact List.find?_eq_none.1 hrec r (List.mem_of_mem_filter hr)
  obtain ⟨r, v, hr, hv, hnext⟩ := nextEpoch_first (s := opened) hfirst hnone hstaged
  refine ⟨r, v, hr, hv, ?_⟩
  have hatt : v.att.passed = [] := by rw [hv.att, putAll_att]; exact hpassed
  have hldr : v.ldr.kind = 0 := by rw [hv.ldr, putAll_ldr]; exact hkind
  have hhold : v.spr.holdAt = none := by rw [hv.holdAt, putAll_spr]; exact hhold
  have hlater := atBoundary_nextStaged (putRecordOf r (stagesTaken (curEpoch s) v))
  have hunits := hlater.trans (atBoundary_boundaryUnits (by rw [hlater.att]; exact hatt) (by rw [hlater.ldr]; exact hldr)
    (curEpoch s))
  have hall := hunits.trans (atBoundary_replayOver (curEpoch s) _)
  rw [boundaryExtension_eq hrun hpos, show cmpEpochEnd _ _ = opened from rfl, hnext, checkHold_none]
  · exact hall
  · rw [hall.holdAt]
    exact hhold

/-! ### Checkpoint writes and the stage (R196 to R198, R301) -/

/-- The work of an epoch with one part written (R198). -/
def partWritten (part : Nat) (w : CkptWork) : CkptWork :=
  { w with snapshot := w.snapshot && part != 0, undo := w.undo && part != 1, inlet := w.inlet && part != 2 }

/-- Work with a part that is not written yet. -/
def workLeft (w : CkptWork) : Bool := w.snapshot || w.undo || w.inlet

/-- The undo buffer after a response for `n` records (R195). -/
def undoDrained (part n : Nat) (s : State) : State :=
  { s with cl := { s.cl with undoBuf := if part = 1 then s.cl.undoBuf - n else s.cl.undoBuf } }

theorem ckptResponse_ok (part epoch n : Nat) (s : State) :
    ckptResponse part epoch n true s =
      onSpr (fun x => { x with ckpt := (s.spr.ckpt.map (fun w => if w.epoch = epoch then partWritten part w else w)).filter workLeft })
        (undoDrained part n s) := by
  have hbne (k : Nat) : decide (part ≠ k) = (part != k) := decide_not
  unfold ckptResponse
  simp only [hbne]
  rfl

/-- The oldest work loses the part, and goes with its last; the other work stays. -/
theorem ckpt_after_write {w : CkptWork} {l : List CkptWork} (h : ∀ x ∈ l, x.epoch ≠ w.epoch ∧ workLeft x = true) (part : Nat) :
    ((w :: l).map (fun x => if x.epoch = w.epoch then partWritten part x else x)).filter workLeft =
      if workLeft (partWritten part w) then partWritten part w :: l else l := by
  have hmap : l.map (fun x => if x.epoch = w.epoch then partWritten part x else x) = l :=
    (List.map_congr_left fun x hx => if_neg (h x hx).1).trans (List.map_id' l)
  have hfilter : l.filter workLeft = l := List.filter_eq_self.2 fun x hx => (h x hx).2
  rw [List.map_cons, hmap, if_pos rfl, List.filter_cons, hfilter]

/-- The oldest queued record leaves the queue. -/
def queueDrained (l : List CmpRec) (s : State) : State := { s with cmp := { s.cmp with queue := l } }

theorem stageWriteDone_eq {s : State} {r : CmpRec} {l : List CmpRec} (h : s.cmp.queue = r :: l) (ok : Bool) :
    stageWriteDone ok s =
      if ok then { s with cmp := { s.cmp with queue := l, stage := s.cmp.stage ++ [r] } }
      else failEpoch r.epoch 1 (report 0x23 3 0 0 (setBit (queueDrained l s) (cmpA 0x58) 1)) := by
  rw [stageWriteDone, h]
  rfl

/-- The device address does not stand in the register that a flag is set in. -/
theorem devAddr_setBit (s : State) {a : Nat} (i : Nat) (h : hstA 0x104 ≠ a) : devAddr (setBit s a i) = devAddr s := by
  rw [devAddr, rdFld, rdReg_setBit_other _ _ h]
  rfl

end Sys2Proof.Machine

open Sys2Proof Sys2Proof.Machine

/-- Settles O24: the boundary is `boundaryExtension_first`, of which `AtBoundary` says what it leaves; a write that is accepted is
`ckptResponse_ok`, and a refused write, a lost record or a late log is `failEpoch_failsEpoch`. -/
theorem checkpointWork : Obligations.CheckpointWork := by
  refine ⟨?boundary, ?written, ?refused, ?stage, ?late⟩
  case boundary =>
    intro s hrun hpos hfirst hkind hhold hpassed hrec hrising hinject hstaged
    obtain ⟨r, v, hr, hv, ht⟩ := boundaryExtension_first hrun hpos hfirst hkind hhold hpassed hrec hstaged
    have hcl : v.cl = s.cl := hv.cl.trans (putAll_cl ..)
    refine ⟨_, rfl, ?_, ?_, ?_, ⟨workOpened (curEpoch s - 1) s, ?_, rfl, rfl⟩, ⟨r, ?_, hr⟩, fun q hq => ?_, ?_, ?_, ?_, ?_⟩
    · rw [ht.pos]
      exact hv.pos.trans (by rw [putAll_spr]; rfl)
    · rw [ht.tick]
      exact hv.tick.trans (by rw [putAll_spr]; rfl)
    · rw [ht.snapshots]
      refine hv.snapshots.symm ▸ ?_
      rw [putAll_spr]
      exact List.mem_append_right _ (List.mem_singleton.2 rfl)
    · rw [ht.ckpt]
      refine hv.ckpt.symm ▸ ?_
      rw [putAll_spr]
      exact List.mem_append_right _ (List.mem_singleton.2 rfl)
    · rw [ht.epochRecs]
      exact List.mem_append_right _ (List.mem_singleton.2 rfl)
    · rw [ht.inject q.1 (hinject q hq)]
      exact (hv.inject q.1 (hinject q hq)).trans (rdReg_putAll hrising hq _)
    · rw [ht.cl, ← hcl]
      rfl
    · rw [ht.cl]
      rfl
    · rw [ht.cl, ← hcl]
      rfl
    · rw [ht.chip]
      exact (congrArg Chip.devState (hv.chip.trans (putAll_chip ..))).trans hrun
  case written =>
    intro s part n w l _ hckpt hrest v
    show Host.Outcome.next (ckptResponse part w.epoch n true s) = _
    rw [ckptResponse_ok, hckpt, ckpt_after_write hrest]
    rfl
  case refused =>
    intro s part epoch n hrun hphase
    exact ⟨_, rfl, failEpoch_failsEpoch (s := report 0x23 3 0 0 (undoDrained part n s)) hrun hphase epoch 1⟩
  case stage =>
    intro s r l hqueue
    refine ⟨congrArg Host.Outcome.next (stageWriteDone_eq hqueue true), fun hrun hphase =>
      ⟨_, congrArg Host.Outcome.next (stageWriteDone_eq hqueue false), ?_⟩⟩
    rw [if_neg Bool.false_ne_true, (answers_failEpoch ..).cmp]
    refine ⟨rfl, rfl, ?_⟩
    exact (failEpoch_failsEpoch (s := report 0x23 3 0 0 (setBit (queueDrained l s) (cmpA 0x58) 1)) hrun hphase r.epoch 1).congr
      rfl rfl rfl (devAddr_setBit (queueDrained l s) 1 (by decide))
  case late =>
    intro s k hrun hphase hended ⟨w, hw, hepoch, hundo⟩
    have hlate : s.spr.ckpt.any (fun x => x.epoch = k && x.undo) = true :=
      List.any_eq_true.2 ⟨w, hw, by simp [hepoch, hundo]⟩
    refine ⟨_, congrArg Host.Outcome.next (if_pos ⟨hended, hlate⟩), ?_, ?_⟩
    · exact (failEpoch_failsEpoch (s := setBit s (sprA 4) 11) hrun hphase k 5).congr rfl rfl rfl (devAddr_setBit _ 11 (by decide))
    · rw [rdBit, rdReg_failEpoch (s := setBit s (sprA 4) 11) hrun hphase k 5 (by decide)]
      exact rdBit_setBit_same s _ (by decide)

end

section
/-! PROOFS. The start of a tick (R95, R172, R173, R175). -/

namespace Sys2Proof.Machine

/-- TB0 reaches a time: nothing but the clock differs. -/
theorem timeReach_frame (t : Nat) (s : State) : timeReach t s = { s with tim := (timeReach t s).tim } := by
  unfold timeReach
  split <;> rfl

theorem timeReach_chip (t : Nat) (s : State) : (timeReach t s).chip = s.chip := by rw [timeReach_frame]
theorem timeReach_cl (t : Nat) (s : State) : (timeReach t s).cl = s.cl := by rw [timeReach_frame]
theorem timeReach_cel (t : Nat) (s : State) : (timeReach t s).cel = s.cel := by rw [timeReach_frame]
theorem timeReach_spr (t : Nat) (s : State) : (timeReach t s).spr = s.spr := by rw [timeReach_frame]

theorem tb0Now_timeReach (t : Nat) (s : State) : tb0Now (timeReach t s) = max (tb0Now s) t := by
  unfold timeReach
  split
  · rename_i h
    have hreached : tb0Now { s with tim := { s.tim with tb0 := t * 2 ^ 32 } } = t := Nat.mul_div_cancel t (by decide)
    rw [hreached, max_eq_right h.le]
  · rename_i h
    rw [max_eq_left (by omega)]

/-- From `s` to `u` the stimulus of a tick is taken: ports, inlet bits and responses, and what the inlet logs. -/
def StimulusTaken (s u : State) : Prop :=
  u = { s with
    regs := u.regs, cmp := u.cmp, lnk := u.lnk
    cl := { s.cl with inlet := u.cl.inlet }
    spr := { s.spr with inletLog := u.spr.inletLog, taken := u.spr.taken, logged := u.spr.logged } }

theorem StimulusTaken.trans {s u v : State} (h : StimulusTaken s u) (k : StimulusTaken u v) : StimulusTaken s v := by
  unfold StimulusTaken at h k ⊢
  rw [k, h]

theorem stimulusTaken_foldl {α : Type} {f : State → α → State} (hf : ∀ x a, StimulusTaken x (f x a)) (l : List α) (s : State) :
    StimulusTaken s (l.foldl f s) := by
  induction l generalizing s with
  | nil => rfl
  | cons a l ih => exact (hf s a).trans (ih _)

theorem stimulusTaken_placeStimulus (data : Option (List Byte)) (s : State) : StimulusTaken s (placeStimulus data s) := by
  cases data <;> rfl

theorem stimulusTaken_wrReg (a : Nat) (v : Word) (s : State) : StimulusTaken s (wrReg s a v) := rfl

theorem stimulusTaken_portShow (l : Nat) (s : State) : StimulusTaken s (portShow l s) := by
  unfold portShow wr48
  dsimp only
  refine .trans ?_ (stimulusTaken_wrReg _ _ _)
  exact (stimulusTaken_wrReg _ _ s).trans (stimulusTaken_wrReg _ _ _)

theorem stimulusTaken_putLink (l : Nat) (f : Link → Link) (s : State) : StimulusTaken s (putLink l f s) := rfl

theorem stimulusTaken_dropTaken (s : State) : StimulusTaken s (dropTaken s) :=
  stimulusTaken_foldl (fun x l => stimulusTaken_putLink l _ x) _ s

theorem stimulusTaken_showPorts (s : State) : StimulusTaken s (showPorts s) :=
  stimulusTaken_foldl (fun x l => stimulusTaken_portShow l x) _ s

/-- The inlet takes the frame of a tick, or finds it in its log. -/
theorem stimulusTaken_inletTake (n : Nat) (s : State) : StimulusTaken s (inletTake n s) := by
  unfold inletTake
  split
  · exact stimulusTaken_placeStimulus _ s
  · dsimp only
    refine .trans ?_ (stimulusTaken_showPorts _)
    refine .trans ?_ (stimulusTaken_dropTaken _)
    refine .trans ?_ (stimulusTaken_placeStimulus _ _)
    rfl

theorem answers_rootDecide (s : State) : Answers s (rootDecide s) := by
  unfold rootDecide
  dsimp only
  split
  · split
    · exact .refl s
    · exact answers_rootOrder _ s
  · exact .refl s

theorem answers_decideLate (e : Nat) (s : State) : Answers s (decideLate e s) :=
  (answers_wrFld s 9 1 1 (.inl rfl)).trans (answers_failEpoch _ _ _)

theorem Answers.whenDo {s : State} {f : State → State} (h : ∀ x, Answers x (f x)) (b : Bool) : Answers s (whenDo b f s) := by
  cases b
  · exact .refl s
  · exact h s

theorem requestBank_frame (s : State) : requestBank s = { s with spr := { s.spr with bankReq := (requestBank s).spr.bankReq } } := by
  unfold requestBank
  split
  · split <;> rfl
  · rfl

/-- A tick begins from `s` to `u`: at schedule step 0, with empty working values, its stimulus taken; the position in the script
and the model state are as they were (R54, R95, R154, R172, R175). -/
def TickBegins (s u : State) : Prop :=
  u = { clearTick s with
    regs := u.regs, outbox := u.outbox, cmp := u.cmp, lnk := u.lnk
    cl := { (clearTick s).cl with inlet := u.cl.inlet }
    spr := { (clearTick s).spr with
      pos := .schedule, inletLog := u.spr.inletLog, taken := u.spr.taken, logged := u.spr.logged, bankReq := u.spr.bankReq
      fails := u.spr.fails, sent := u.spr.sent, gen := u.spr.gen, txSeq := u.spr.txSeq, orders := u.spr.orders } }

theorem tickBegin_begins (s : State) : TickBegins s (tickBegin s) := by
  have htaken := stimulusTaken_inletTake s.spr.tick.toNat (clearTick s)
  unfold tickBegin TickBegins
  dsimp only
  generalize clearTick s = r at htaken ⊢
  generalize inletTake s.spr.tick.toNat r = w at htaken ⊢
  have hdecide := answers_rootDecide w
  generalize rootDecide w = x at hdecide ⊢
  have hlate : Answers x (whenDo (decideDue x) (decideLate (x.spr.tick.toNat + 1)) x) := .whenDo (answers_decideLate _) _
  generalize whenDo (decideDue x) (decideLate (x.spr.tick.toNat + 1)) x = y at hlate ⊢
  rw [requestBank_frame y, (hdecide.trans hlate).frame, htaken]

/-- A start that is late or early by two steps or more is reported, and fails the epoch (R173). -/
def overrunNoted (delta : Int) (s : State) : State :=
  whenDo (decide (2 ≤ delta.natAbs)) (fun x => reportFail 0x31 6 0 0 (setBit x (sprA 4) 8)) s

/-- What a reported overrun leaves: a report, and the spring's answer. -/
theorem overrunNoted_frame (delta : Int) (s : State) :
    ∃ att, Answers { s with att := att } (overrunNoted delta s) := by
  unfold overrunNoted
  cases decide (2 ≤ delta.natAbs)
  · exact ⟨s.att, .refl s⟩
  · let reported : State := { s with att := (report 0x31 6 0 0 (setBit s (sprA 4) 8)).att }
    exact ⟨_, (answers_wrFld reported 8 1 1 (.inl rfl)).trans (answers_failNow 1 _)⟩

theorem tickStartEv_allowed {s : State} (h : tickAllowed s = true) (delta : Int) :
    tickStartEv delta s = tickBegin (overrunNoted delta (timeReach (tickStart s) s)) := by
  rw [tickStartEv, if_pos h]
  rfl

theorem running_of_tickAllowed {s : State} (h : tickAllowed s = true) : s.chip.devState = .running := by
  simp only [tickAllowed, Bool.and_eq_true, decide_eq_true_eq] at h
  tauto

/-- A tick begins in a state that differs from `y` by the report of an overrun at most. -/
theorem tickBegin_overrunNoted (delta : Int) (y : State) :
    ∃ x, TickBegins x (tickBegin (overrunNoted delta y)) ∧ x.tim = y.tim ∧ x.chip = y.chip ∧ x.cl = y.cl ∧ x.cel = y.cel ∧
      x.spr.tick = y.spr.tick ∧ x.spr.entry = y.spr.entry ∧ x.spr.cls = y.spr.cls ∧ x.spr.commit = y.spr.commit ∧
      x.spr.cen = y.spr.cen := by
  obtain ⟨att, h⟩ := overrunNoted_frame delta y
  exact ⟨_, tickBegin_begins _, h.tim, h.chip, h.cl, h.cel, h.tick, h.entry, h.cls, h.commit, h.cen⟩

/-- TICK_START: TB0 has reached the start of the tick, the tick begins, and what it does not clear is as it was. -/
theorem tickStartEv_begins {s : State} (h : tickAllowed s = true) (delta : Int) :
    ∃ x, TickBegins x (tickStartEv delta s) ∧ tb0Now x = max (tb0Now s) (tickStart s) ∧ x.chip = s.chip ∧ x.cl = s.cl ∧
      x.cel = s.cel ∧ x.spr.tick = s.spr.tick ∧ x.spr.entry = s.spr.entry ∧ x.spr.cls = s.spr.cls ∧
      x.spr.commit = s.spr.commit ∧ x.spr.cen = s.spr.cen := by
  have hbegins := tickBegin_overrunNoted delta (timeReach (tickStart s) s)
  rw [timeReach_chip, timeReach_cl, timeReach_cel, timeReach_spr, ← tickStartEv_allowed h] at hbegins
  obtain ⟨x, ht, htim, hrest⟩ := hbegins
  refine ⟨x, ht, ?_, hrest⟩
  rw [← tb0Now_timeReach, tb0Now, htim, tb0Now]

end Sys2Proof.Machine
end

section
/-! PROOFS. The overhead of a tick: pointers of flops, the script, and what else the units finish (R60, R64, R174, R176, R180). -/

namespace Sys2Proof.Machine

/-! ### Flop pointers (R60, R64) -/

/-- The pointers of the written flops toggle by their masks. -/
def toggleWritten (mask : Nat → Ctx) (w : SMap Bool) (m : SMap Ctx) : SMap Ctx :=
  w.foldl (fun acc q => if q.2 then mapSet 0#8 acc q.1 (mapGet 0#8 acc q.1 ^^^ mask q.1) else acc) m

theorem mapGet_of_not_listed {α : Type} {d : α} {m : SMap α} {k : Nat} (h : ∀ q ∈ m, q.1 ≠ k) : mapGet d m k = d := by
  induction m with
  | nil => rfl
  | cons q m ih =>
    rw [mapGet, if_neg (h q (List.mem_cons_self ..))]
    exact ih fun r hr => h r (List.mem_cons_of_mem _ hr)

/-- In a list of rising keys each flop toggles once. -/
theorem mapGet_toggleWritten {w : SMap Bool} (h : w.Pairwise (fun a b => a.1 < b.1)) (mask : Nat → Ctx) (m : SMap Ctx) (k : Nat) :
    mapGet 0#8 (toggleWritten mask w m) k = mapGet 0#8 m k ^^^ (if mapGet false w k then mask k else 0#8) := by
  induction w generalizing m with
  | nil => simp [toggleWritten, mapGet]
  | cons q w ih =>
    obtain ⟨hfirst, hrest⟩ := List.pairwise_cons.1 h
    obtain ⟨j, b⟩ := q
    refine (ih hrest _).trans ?_
    dsimp only
    by_cases hk : j = k
    · subst hk
      have hlater : mapGet false w j = false := mapGet_of_not_listed fun r hr => (hfirst r hr).ne'
      cases b <;> simp [mapGet, hlater]
    · have hother (v : Ctx) : mapGet 0#8 (mapSet 0#8 m j v) k = mapGet 0#8 m k := mapGet_mapSet_other (Ne.symm hk)
      cases b <;> simp [mapGet, hk, hother]

theorem flopTick_eq (s : State) :
    flopTick s = { s with cl := { s.cl with
      fptr := toggleWritten (fun k => s.spr.cen &&& ~~~ (mapGet 0#8 s.cl.hintOff (k / 128))) s.cl.written s.cl.fptr
      written := [], hintOff := [] } } := rfl

/-- The pointer of a written flop toggles in each context that is enabled and not hinted (R60, R64). -/
theorem fptr_flopTick {s : State} (h : mapWf false s.cl.written) (k c : Nat) :
    (mapGet 0#8 (flopTick s).cl.fptr k).getLsbD c = xor ((mapGet 0#8 s.cl.fptr k).getLsbD c)
      (mapGet false s.cl.written k && s.spr.cen.getLsbD c && !(mapGet 0#8 s.cl.hintOff (k / 128)).getLsbD c) := by
  have hbit (v w : Ctx) : (v &&& ~~~ w).getLsbD c = (v.getLsbD c && !w.getLsbD c) := by
    rw [BitVec.getLsbD_and, BitVec.getLsbD_not]
    by_cases hc : c < 8
    · simp [hc]
    · simp [BitVec.getLsbD_of_ge v c (by omega)]
  rw [flopTick_eq]
  dsimp only
  rw [mapGet_toggleWritten h.1, BitVec.getLsbD_xor]
  cases mapGet false s.cl.written k
  · simp
  · simp [hbit]

/-! ### What the units finish in the overhead (R75, R104, R110, R157, R283 to R300, R618) -/

/-- Registers of the script: SPR_CFG, and the words of the entries. An entry beyond 127 has its word at any address of that form. -/
def ScriptReg (a : Nat) : Prop := a = sprA 8 ∨ sprA 0x400 ≤ a ∧ (a < imgA 0 ∨ a % 8 = 4)

theorem not_scriptReg {a : Nat} (h : imgA 0 ≤ a) (h8 : a % 8 = 0) : ¬ ScriptReg a := by
  simp only [ScriptReg, imgA, sprA] at h ⊢
  omega

/-- From `s` to `u` units finish their work of the tick: accumulators, read data, repaired instructions, compare and reports; the
spring answers what failed. The script, pointers, ponds and probes are as they were. -/
structure Finishes (s u : State) : Prop where
  frame : u = { s with
    regs := u.regs, outbox := u.outbox, att := u.att, cmp := u.cmp
    cl := { s.cl with
      sinks := u.cl.sinks, macAcc := u.cl.macAcc, macOps := u.cl.macOps, portData := u.cl.portData, srdOps := u.cl.srdOps
      weMem := u.cl.weMem, weFlips := u.cl.weFlips, bpMem := u.cl.bpMem, bpFlips := u.cl.bpFlips }
    spr := { s.spr with
      fails := u.spr.fails, sent := u.spr.sent, gen := u.spr.gen, txSeq := u.spr.txSeq, orders := u.spr.orders
      stops := u.spr.stops } }
  script : ∀ a, ScriptReg a → rdReg u a = rdReg s a

namespace Finishes

theorem refl (s : State) : Finishes s s := ⟨rfl, fun _ _ => rfl⟩

theorem trans {s u v : State} (h : Finishes s u) (k : Finishes u v) : Finishes s v := by
  obtain ⟨hu, hscript⟩ := h
  obtain ⟨hv, kscript⟩ := k
  refine ⟨?_, fun a ha => (kscript a ha).trans (hscript a ha)⟩
  rw [hv, hu]

theorem cl {s u : State} (h : Finishes s u) :
    u.cl.fptr = s.cl.fptr ∧ u.cl.written = s.cl.written ∧ u.cl.hintOff = s.cl.hintOff ∧ u.cl.pond = s.cl.pond := by
  rw [h.frame]
  exact ⟨rfl, rfl, rfl, rfl⟩

/-- What advances the script stays. -/
theorem position {s u : State} (h : Finishes s u) :
    u.spr.tick = s.spr.tick ∧ u.spr.left = s.spr.left ∧ u.spr.entry = s.spr.entry ∧ u.spr.cls = s.spr.cls ∧
      u.spr.decision = s.spr.decision ∧ u.spr.decides = s.spr.decides := by
  rw [h.frame]
  exact ⟨rfl, rfl, rfl, rfl, rfl, rfl⟩

theorem kept {s u : State} (h : Finishes s u) :
    u.spr.commit = s.spr.commit ∧ u.spr.cen = s.spr.cen ∧ u.cel = s.cel ∧ u.stw = s.stw := by
  rw [h.frame]
  exact ⟨rfl, rfl, rfl, rfl⟩

theorem foldl {α : Type} {f : State → α → State} (hf : ∀ x a, Finishes x (f x a)) (l : List α) (s : State) :
    Finishes s (l.foldl f s) := by
  induction l generalizing s with
  | nil => exact .refl s
  | cons a l ih => exact (hf s a).trans (ih _)

theorem whenDo {s : State} {f : State → State} (h : ∀ x, Finishes x (f x)) (b : Bool) : Finishes s (whenDo b f s) := by
  cases b
  · exact .refl s
  · exact h s

theorem wrFld (s : State) {a : Nat} (lo n x : Nat) (h : imgA 0 ≤ a) (h8 : a % 8 = 0) : Finishes s (wrFld s a lo n x) := by
  refine ⟨rfl, fun b hb => rdReg_wrFld_other s lo n x ?_⟩
  rintro rfl
  exact not_scriptReg h h8 hb

end Finishes

theorem Answers.finishes {s u : State} (h : Answers s u) : Finishes s u := by
  have hcl := h.cl
  have hcmp := h.cmp
  have hatt : u.att = s.att := by rw [h.frame]
  refine ⟨?_, fun a ha => h.regs a ?_ ?_ ?_⟩
  · rw [h.frame]
  all_goals
    simp only [ScriptReg, sprA, imgA] at ha ⊢
    omega

theorem finishes_reportFail (kind cls unit detail : Nat) (s : State) : Finishes s (reportFail kind cls unit detail s) :=
  .trans (u := report kind cls unit detail s) ⟨rfl, fun _ _ => rfl⟩ (answers_failNow 1 _).finishes

/-- A flag of a unit's status register is set and reported. -/
theorem finishes_flag {a : Nat} (h : imgA 0 ≤ a) (h8 : a % 8 = 0) (i kind cls unit detail : Nat) (s : State) :
    Finishes s (reportFail kind cls unit detail (setBit s a i)) :=
  (Finishes.wrFld s i 1 1 h h8).trans (finishes_reportFail kind cls unit detail _)

theorem finishes_macComplete (m sl t : Nat) (s : State) : Finishes s (macComplete m sl t s) := by
  unfold macComplete
  split
  · exact .refl s
  · split
    · exact .refl s
    · exact ⟨rfl, fun _ _ => rfl⟩

theorem finishes_srdReady (m r q t : Nat) (s : State) : Finishes s (srdReady m r q t s) := by
  unfold srdReady
  split
  · exact .refl s
  · split
    · exact .refl s
    · exact ⟨rfl, fun _ _ => rfl⟩

theorem finishes_completeOps (s : State) : Finishes s (completeOps s) := by
  unfold completeOps
  exact .trans (.foldl (fun x o => finishes_macComplete ..) _ s) (.foldl (fun x o => finishes_srdReady ..) _ _)

theorem finishes_fabFlag (p flag kind : Nat) (s : State) : Finishes s (fabFlag p flag kind s) :=
  finishes_flag (by simp only [imgA, fabA, physA]; omega) (by simp only [fabA, physA]; omega) _ _ _ _ _ s

theorem finishes_fabTick (m : Nat) (s : State) : Finishes s (fabTick m s) := by
  unfold fabTick
  exact .trans (.whenDo (finishes_fabFlag _ _ _) _) (.whenDo (finishes_fabFlag _ _ _) _)

theorem finishes_shfTick (h : Nat) (s : State) : Finishes s (shfTick h s) := by
  unfold shfTick
  refine .whenDo (fun x => finishes_flag ?_ ?_ _ _ _ _ _ x) _
  · simp only [imgA, shfA]; omega
  · simp only [shfA]; omega

theorem finishes_scrubWriteBack (we : Bool) (k : Nat) (s : State) : Finishes s (scrubWriteBack we k s) := by
  unfold scrubWriteBack
  dsimp only
  split
  · split
    · exact ⟨rfl, fun _ _ => rfl⟩
    · exact .refl s
  · split
    · exact ⟨rfl, fun _ _ => rfl⟩
    · exact .refl s

theorem finishes_scrubFixes (s : State) : Finishes s (scrubFixes s) := by
  unfold scrubFixes
  exact .trans (.foldl (fun x q => finishes_scrubWriteBack ..) _ s) ⟨rfl, fun _ _ => rfl⟩

/-- INJ_MISS is a bit of BPC_STATUS. -/
theorem finishes_injectTick (s : State) : Finishes s (injectTick s) := by
  unfold injectTick
  refine .foldl (fun x q => ?_) _ s
  split
  · refine .whenDo (fun y => .wrFld y _ _ _ ?_ ?_) _
    · simp only [imgA, bpcA, physA]; omega
    · simp only [bpcA, physA]; omega
  · exact .refl x

/-! ### The compare engine (R283 to R300) -/

theorem finishes_sampleSinks (s : State) : Finishes s (sampleSinks s) := ⟨rfl, fun _ _ => rfl⟩

theorem finishes_withLive (f : CmpLive → CmpLive) (s : State) : Finishes s (withLive f s) := ⟨rfl, fun _ _ => rfl⟩

/-- A flag of CMP_STATUS. -/
theorem finishes_cmpFlag (i : Nat) (s : State) : Finishes s (setBit s (cmpA 0x58) i) := .wrFld s _ _ _ (by decide) (by decide)

theorem finishes_putRecord (kind : RecKind) (source : Nat) (first : Bool) (cmpd : Ctx) (payload : BitVec 256) (aux : Nat)
    (s : State) : Finishes s (putRecord kind source first cmpd payload aux s) := by
  unfold putRecord
  dsimp only
  split
  · exact (finishes_cmpFlag 0 s).trans (finishes_reportFail ..)
  · exact ⟨rfl, fun _ _ => rfl⟩

/-- What a compared port changes: records, the divergence flag, and the counters of the port. -/
theorem finishes_portTick (p : Nat) (s : State) : Finishes s (portTick p s) := by
  have hport : Finishes s (if mapGet 0#256 s.cmp.live.portRef p = failVector s p then s
      else withLive (fun l => { l with portRef := mapSet 0 l.portRef p (failVector s p) })
        (putRecord .port p false (portCmpd s p) (failVector s p) 0 s)) := by
    split
    · exact .refl s
    · exact (finishes_putRecord ..).trans (finishes_withLive _ _)
  unfold portTick
  dsimp only
  generalize (if mapGet 0#256 s.cmp.live.portRef p = failVector s p then s else _) = s1 at hport ⊢
  have hbmap (addr : Nat) (div : Bool) : Finishes s1 (Machine.whenDo div (fun x => setBit x (cmpA 0x58) 5)
      (putRecord .bmap p false (portCmpd s p) (failVector s p) addr s1)) :=
    (finishes_putRecord ..).trans (.whenDo (finishes_cmpFlag 5) _)
  have hcount (x : State) (f : CmpLive → CmpLive) (h : Finishes s1 x) :
      Finishes s (if failVector s p ≠ 0#256 then withLive f x else x) := by
    split
    · exact (hport.trans h).trans (finishes_withLive f x)
    · exact hport.trans h
  apply hcount
  split
  · exact hbmap _ _
  · exact .refl s1

theorem finishes_groupTick (g : Nat) (s : State) : Finishes s (groupTick g s) := by
  unfold groupTick
  dsimp only
  split
  · exact (finishes_putRecord ..).trans (finishes_withLive _ _)
  · exact .refl s

theorem finishes_statusTick (s : State) : Finishes s (statusTick s) := by
  unfold statusTick
  dsimp only
  split
  · exact .refl s
  · exact (finishes_putRecord ..).trans (finishes_withLive _ _)

/-- The stop count adds its epoch to the stops, and sets its flag. -/
theorem finishes_stop (k : Nat) (s : State) :
    Finishes s (setBit { s with spr := { s.spr with stops := s.spr.stops ++ [k] } } (cmpA 0x58) 6) :=
  .trans (u := { s with spr := { s.spr with stops := s.spr.stops ++ [k] } }) ⟨rfl, fun _ _ => rfl⟩ (finishes_cmpFlag 6 _)

theorem finishes_countTick (s : State) : Finishes s (countTick s) := by
  unfold countTick
  dsimp only
  generalize hlive : withLive _ s = s1
  have hs1 : Finishes s s1 := hlive ▸ finishes_withLive _ s
  have hstop (c : Prop) [Decidable c] : Finishes s (if c then
      setBit { s1 with spr := { s1.spr with stops := s1.spr.stops ++ [curEpoch s1] } } (cmpA 0x58) 6 else s1) := by
    split
    · exact hs1.trans (finishes_stop _ s1)
    · exact hs1
  split
  · refine .trans (hstop _) (.foldl (fun x c => ?_) _ _)
    split
    · exact .refl x
    · exact finishes_withLive _ x
  · exact hstop _

theorem finishes_cmpParity (s : State) : Finishes s (cmpParity s) :=
  .whenDo (fun x => (finishes_cmpFlag 2 x).trans (finishes_reportFail ..)) _

theorem finishes_cmpTick (s : State) : Finishes s (cmpTick s) := by
  have hparity := (finishes_sampleSinks s).trans (finishes_cmpParity _)
  unfold cmpTick
  dsimp only
  generalize cmpParity (sampleSinks s) = s1 at hparity ⊢
  have hports : Finishes s1 (if s1.cmp.present then countTick ((activePorts s1).foldl (fun acc p => portTick p acc) s1)
      else withLive (fun l => { l with uncmp := (l.uncmp + 1) % 2 ^ 48 }) s1) := by
    split
    · exact .trans (.foldl (fun x p => finishes_portTick p x) _ s1) (finishes_countTick _)
    · exact finishes_withLive _ s1
  generalize (if s1.cmp.present then _ else _) = s2 at hports ⊢
  refine (hparity.trans hports).trans ?_
  have hstatus := Finishes.trans (.foldl (fun x g => finishes_groupTick g x) (activeGroups s2) s2) (finishes_statusTick _)
  generalize statusTick _ = s3 at hstatus ⊢
  refine hstatus.trans ?_
  exact ⟨rfl, fun _ _ => rfl⟩

/-! ### The position in the script (R174, R176, R180) -/

/-- What the units finish before the pointers toggle. -/
def finishUnits (s : State) : State :=
  injectTick (cmpTick (scrubFixes ((List.range 16).foldl (fun acc h => shfTick h acc)
    ((liveClusters s).foldl (fun acc m => fabTick m acc) (completeOps s)))))

theorem finishes_finishUnits (s : State) : Finishes s (finishUnits s) := by
  unfold finishUnits
  refine .trans ?_ (finishes_injectTick _)
  refine .trans ?_ (finishes_cmpTick _)
  refine .trans ?_ (finishes_scrubFixes _)
  refine .trans ?_ (.foldl (fun x h => finishes_shfTick h x) _ _)
  exact (finishes_completeOps s).trans (.foldl (fun x m => finishes_fabTick m x) _ _)

/-- The script reads the same words on in each state with the same script registers. -/
theorem scriptWord_target {s u : State} (h : ∀ a, ScriptReg a → rdReg u a = rdReg s a) (i : Nat) :
    scriptWord u i 1 = scriptWord s i 1 := by
  apply h
  simp only [ScriptReg, sprA, imgA]
  omega

theorem scriptWord_entry {s u : State} (h : ∀ a, ScriptReg a → rdReg u a = rdReg s a) {i : Nat} (hi : i < 128) :
    scriptWord u i 0 = scriptWord s i 0 := by
  apply h
  simp only [ScriptReg, sprA, imgA]
  omega

theorem scriptNext_congr {s u : State} (h : ∀ a, ScriptReg a → rdReg u a = rdReg s a) (i : Nat) (dec : BitVec 16) :
    scriptNext u i dec = scriptNext s i dec := by
  unfold scriptNext
  rw [scriptWord_target h]

theorem entryCount_congr {s u : State} (h : ∀ a, ScriptReg a → rdReg u a = rdReg s a) {i : Nat} (hi : i < 128) :
    entryCount u i = entryCount s i := by
  rw [entryCount, scriptWord_entry h hi, entryCount]

theorem entryClass_congr {s u : State} (h : ∀ a, ScriptReg a → rdReg u a = rdReg s a) {i : Nat} (hi : i < 128) :
    entryClass u i = entryClass s i := by
  unfold entryClass
  rw [scriptWord_entry h hi, rdFld, h (sprA 8) (.inl rfl), rdFld]

/-- The script names entries 0 to 127 only. -/
theorem scriptNext_lt (s : State) (i : Nat) (dec : BitVec 16) : scriptNext s i dec < 128 := by
  have hselect (jump : Bool) : (if jump then fld (scriptWord s i 1) 8 7 else (i + 1) % 128) < 128 := by
    split
    · exact Nat.mod_lt _ (by decide)
    · exact Nat.mod_lt _ (by decide)
  exact hselect _

/-- The script's position before the next tick: its number and decision value are taken. -/
def nextTick (s : State) : State :=
  { s with spr := { s.spr with
    tick := s.spr.tick + 1
    segSteps := s.spr.segSteps + tickLen s
    decision := ((s.spr.decides.find? (fun q => q.1 = (s.spr.tick + 1).toNat)).map (fun q => q.2)).getD s.spr.decision } }

/-- The script at the first tick of entry `i`. -/
def atEntry (i : Nat) (s : State) : State :=
  { s with spr := { s.spr with entry := i, left := entryCount s i, cls := entryClass s i } }

/-- An entry that R184 refuses still runs; the spring answers it. -/
theorem answers_enterEntry (i : Nat) (s : State) : Answers (atEntry i s) (enterEntry i s) :=
  .whenDo (fun x => (answers_wrFld x 17 1 1 (.inl rfl)).trans (answers_failNow 5 _)) _

/-- The script in the midst of entry `i`, with so many ticks left. -/
def inEntry (i left cls : Nat) (s : State) : State := { s with spr := { s.spr with entry := i, left := left, cls := cls } }

/-- The script's entry runs on, or gives way to the entry that follows (R176, R180). -/
theorem advanceTick_position (s : State) :
    ∃ i left cls, Answers (inEntry i left cls (nextTick s)) (advanceTick s) ∧
      (s.spr.left ≠ 0 → left = s.spr.left - 1 ∧ i = s.spr.entry ∧ cls = s.spr.cls) ∧
      (s.spr.left = 0 → i = scriptNext s s.spr.entry (nextTick s).spr.decision ∧ left = entryCount s i ∧ cls = entryClass s i) := by
  by_cases h : s.spr.left = 0
  · have hadvance : advanceTick s = enterEntry (scriptNext s s.spr.entry (nextTick s).spr.decision) (nextTick s) := if_pos h
    rw [hadvance]
    exact ⟨_, _, _, answers_enterEntry _ _, fun hleft => absurd h hleft, fun _ => ⟨rfl, rfl, rfl⟩⟩
  · have hadvance : advanceTick s = inEntry s.spr.entry (s.spr.left - 1) s.spr.cls (nextTick s) := if_neg h
    rw [hadvance]
    exact ⟨_, _, _, .refl _, fun _ => ⟨rfl, rfl, rfl⟩, fun hleft => absurd hleft h⟩

/-! ### The whole overhead -/

/-- The probe slots begin the next tick at 0x00 (R61), and the undo log its own list; the boundary extension follows where the tick
was the last of its epoch (R190). -/
def closeTick (last : Bool) (s : State) : State :=
  { s with
    cl := { s.cl with probe := [], undoQ := [] }
    spr := { s.spr with pos := if last then .extension else .idle } }

theorem tickOverhead_running {s : State} (hrun : s.chip.devState = .running) (hpos : s.spr.pos = .schedule) :
    tickOverhead s = closeTick (lastTick s) (advanceTick (flopTick (finishUnits s))) := by
  unfold tickOverhead finishUnits
  rw [if_pos ⟨hrun, hpos⟩]
  dsimp only
  generalize advanceTick _ = t
  rfl

theorem lastTick_pos (s : State) : (if lastTick s then TickPos.extension else .idle) =
    if s.spr.tick.toNat % epochLen s = epochLen s - 1 then .extension else .idle := by
  unfold lastTick
  simp only [decide_eq_true_eq]

end Sys2Proof.Machine

open Sys2Proof Sys2Proof.Machine

/-- Settles O22: what a tick's start and its overhead change is a frame, and within it the position in the script and the pointers
follow from the state before. That TB0 reaches at least the start of the tick is the model's time (assumption log 31, 32). -/
theorem tickStartsAndEnds : Obligations.TickStartsAndEnds := by
  unfold Obligations.TickStartsAndEnds
  refine ⟨?starts, ?ends⟩
  case starts =>
    intro s delta hallowed
    obtain ⟨x, ht, htime, hchip, hcl, hcel, htick, hentry, hcls, hcommit, hcen⟩ := tickStartEv_begins hallowed delta
    have hrun := running_of_tickAllowed hallowed
    refine ⟨_, rfl, ?_⟩
    generalize tickStartEv delta s = t at ht ⊢
    rw [← htick, ← hentry, ← hcls, ← hcommit, ← hcen, ← hcl, ← hcel, ← hrun, ← hchip]
    refine ⟨?_, Eq.trans ?_ htime, ?_⟩
    · rw [ht]
    · rw [ht]
      rfl
    · rw [ht]
      exact ⟨rfl, rfl, rfl, rfl, rfl, rfl, rfl, rfl, rfl, rfl, rfl, rfl, rfl, rfl, rfl, rfl, rfl, rfl, rfl⟩
  case ends =>
    intro s hrun hpos hwf
    have hfinish := finishes_finishUnits s
    obtain ⟨i, left, cls, hz, hrunsOn, hnext⟩ := advanceTick_position (flopTick (finishUnits s))
    refine ⟨tickOverhead s, rfl, ?_⟩
    rw [tickOverhead_running hrun hpos]
    generalize advanceTick (flopTick (finishUnits s)) = z at hz ⊢
    generalize finishUnits s = x at hfinish hz hrunsOn hnext
    obtain ⟨hfptr, hwritten, hhint, hpond⟩ := hfinish.cl
    obtain ⟨htick, hleft, hentry, hcls, hdecision, hdecides⟩ := hfinish.position
    obtain ⟨hcommit, hcen, hcel, hstw⟩ := hfinish.kept
    have hscript : ∀ a, ScriptReg a → rdReg (flopTick x) a = rdReg s a := hfinish.script
    refine ⟨fun k c => ?_, ?_⟩
    · rw [← hfptr, ← hwritten, ← hcen, ← hhint, ← fptr_flopTick (hwritten ▸ hwf)]
      rw [closeTick, hz.cl]
      rfl
    · rw [hz.frame]
      refine ⟨rfl, rfl, rfl, hpond, ?_, lastTick_pos s, ?_, ?_, ?_, hcommit, hcen, hcel, congrArg _ hstw⟩
      · rw [← htick]; rfl
      · rw [← htick, ← hdecides, ← hdecision]; rfl
      · rw [← hleft, ← hentry, ← hcls]; exact hrunsOn
      · rw [← hleft, ← hentry]
        intro h
        obtain ⟨hi, hcount, hclass⟩ := hnext h
        have hlt : i < 128 := hi ▸ scriptNext_lt _ _ _
        exact ⟨hi.trans (scriptNext_congr hscript _ _), hcount.trans (entryCount_congr hscript hlt),
          hclass.trans (entryClass_congr hscript hlt)⟩

end

section
/-! PROOFS. Control of a run: START, DECIDE, CEN and HOLD (R178, R180, R181, R206, R207). -/

namespace Sys2Proof.Machine

/-! ### START from Ready (R180, R181, R206) -/

/-- The run segment from tick 0 is armed, the device Running; nothing of the script or of the checkpoints has been read or taken. -/
def runArmed (ts first : Nat) (s : State) : State :=
  let s1 := setSegment ts first (freshRun s)
  let s2 := { s1 with spr := { s1.spr with
    tick := 0, commit := 0, taken := 0, decision := 0, decides := [], inletLog := [], logEnd := 0, replayEnd := 0,
    cenNext := [], snapshots := [] } }
  cmpStart { s2 with chip := { s2.chip with devState := .running } }

/-- The bank that entry 0 requests is selected (R183). -/
def firstBank (s : State) : State :=
  match entryBank s 0 with
  | some b => if splitImage s then setBank b s else s
  | none => s

/-- The initial checkpoint, and the record of epoch 0 (R206). -/
def initialCheckpoint (s : State) : State :=
  { s with spr := { s.spr with initial := some (takeSnapshot s 0), epochRecs := [epochRecord s 0] } }

theorem startReady_eq (ts first : Nat) (s : State) :
    startReady ts first s = showPorts (initialCheckpoint (firstBank (enterEntry 0 (runArmed ts first s)))) := rfl

theorem atBoundary_firstBank (s : State) : AtBoundary s (firstBank s) := by
  unfold firstBank
  split
  · split
    · exact atBoundary_setBank _ s
    · exact .refl s
  · exact .refl s

theorem startEv_ready {s x : State} {h : Option SpringHdr} {ts first : Nat}
    (hsays : HeadSays s h (.start ts (BitVec.ofNat 48 first)) x) (hready : s.chip.devState = .ready) :
    startEv h ts first s = startReady ts first x := by
  unfold startEv
  rw [fromHead_of_says hsays, actOn, if_pos rfl, hsays.messages.chip, hready]

/-! ### RUN_SEGMENT_START (R172) -/

theorem wakeShelf_spr (h cause : Nat) (s : State) : (wakeShelf h cause s).spr = s.spr := by
  have hgate (g : Gate) : (putGate h g s).spr = s.spr := rfl
  have hnote (g : Gate) : (wrFld (putGate h g s) (shfA h 0x604) 3 3 cause).spr = s.spr := by rw [wrFld_spr, hgate]
  have hcount (x : State) : (incFld x (gateReg h) 8 8).spr = x.spr := by
    unfold incFld
    dsimp only
    split
    · rw [wrFld_spr]
    · rfl
  have hwoken (b : Bool) (x : State) : (whenDo b (fun y => incFld y (gateReg h) 8 8) x).spr = x.spr := by
    cases b
    · rfl
    · exact hcount x
  unfold wakeShelf
  dsimp only
  split
  · rfl
  · rfl
  · split
    · exact hgate _
    · exact hnote _
  · split
    · exact hgate _
    · exact hnote _
  · exact hgate _
  · split
    · exact hgate _
    · exact (hwoken _ _).trans (hnote _)

theorem foldl_spr {α : Type} {f : State → α → State} (hf : ∀ x a, (f x a).spr = x.spr) (l : List α) (s : State) :
    (l.foldl f s).spr = s.spr := by
  induction l generalizing s with
  | nil => rfl
  | cons a l ih => exact (ih _).trans (hf s a)

theorem irqAll_spr (i : Nat) (s : State) : (irqAll i s).spr = s.spr := by
  unfold irqAll wakeLine
  refine foldl_spr (fun x q => ?_) s.noc.gates _
  dsimp only
  split
  · exact wakeShelf_spr _ _ x
  · rfl

theorem msix_spr (v : Nat) (s : State) : (msix v s).spr = s.spr := by
  unfold msix
  split
  · rfl
  · split <;> rfl

theorem hostEvent_spr (n : Nat) (s : State) : (hostEvent n s).spr = s.spr := by
  have hraise (x : State) : (if rdBit x (hstA 4) n then x else msix n (setBit x (hstA 4) n)).spr = x.spr := by
    split
    · rfl
    · exact msix_spr n _
  unfold hostEvent
  cases eventLine n with
  | none => exact hraise s
  | some i => exact (hraise _).trans (irqAll_spr i s)

theorem setPhase_phase (p : Phase) (s : State) : (setPhase p s).spr.phase = p := by
  unfold setPhase
  split
  · assumption
  · rw [hostEvent_spr]
    rfl

theorem curEpoch_timeReach (t : Nat) (s : State) : curEpoch (timeReach t s) = curEpoch s := by
  rw [timeReach_frame]
  rfl

/-- The segment's first tick may begin: no longer armed, and no rollback open. -/
def segmentOpen (s : State) : State := { s with spr := { s.spr with armed := false, rb := none, rbDone := [] } }

theorem runSegmentStart_first {s : State} (hrun : s.chip.devState = .running) (harmed : s.spr.armed = true)
    (hlock : rdBit s (timA 4) 1 = true) (hrb : s.spr.rb = none) (hreplay : s.spr.replayEnd ≤ curEpoch s) :
    runSegmentStart s = tickBegin (setPhase .firstRun (segmentOpen (timeReach s.spr.segStart s))) := by
  have hstart : ¬ (s.chip.devState ≠ .running ∨ s.spr.armed = false ∨ rdBit s (timA 4) 1 = false) := by
    simp [hrun, harmed, hlock]
  unfold runSegmentStart
  rw [if_neg hstart]
  dsimp only
  rw [curEpoch_timeReach, timeReach_spr, hrb, if_neg (by simp), if_neg (by omega)]
  rw [segmentOpen, timeReach_spr]

/-! ### DECIDE and HOLD (R181, R207) -/

/-- A decision value is held for its tick. -/
def holdDecision (m : Nat) (v : BitVec 16) (s : State) : State :=
  { s with spr := { s.spr with decides := mapIns (mapDel s.spr.decides m) m v } }

theorem decideEv_in_time {s x : State} {h : Option SpringHdr} {v : BitVec 16} {m : Nat} (hsays : HeadSays s h (.decide v m) x)
    (hopen : tickBegun s (m - 1) = false) : decideEv h v m s = holdDecision m v x := by
  have hin : tickBegun x (m - 1) = false := (hsays.messages.tickBegun _).trans hopen
  unfold decideEv
  rw [fromHead_of_says hsays, actOn, if_pos rfl]
  dsimp only
  rw [if_neg (by simp [hin]), holdDecision]

theorem checkHold_ahead {s : State} {e : Nat} (hhold : s.spr.holdAt = some e) (h : curEpoch s ≤ e) : checkHold s = s := by
  unfold checkHold
  rw [hhold]
  exact if_neg fun ⟨_, _, _, _, hpast⟩ => absurd hpast (by omega)

theorem holdEv_ahead {s x : State} {h : Option SpringHdr} {epoch cause : Nat} (hsays : HeadSays s h (.hold epoch cause) x)
    (hrun : s.chip.devState = .running) (hahead : curEpoch s ≤ epoch) :
    holdEv h epoch cause s = { x with spr := { x.spr with holdAt := some epoch } } := by
  have hcur : curEpoch { x with spr := { x.spr with holdAt := some epoch } } ≤ epoch :=
    hsays.messages.curEpoch.le.trans hahead
  unfold holdEv
  rw [fromHead_of_says hsays, actOn, if_pos rfl, hsays.messages.chip, if_pos hrun]
  exact checkHold_ahead rfl hcur

theorem cenEv_says {s x : State} {h : Option SpringHdr} {v : Ctx} {e : Nat} (hsays : HeadSays s h (.cen v e) x) :
    (s.chip.devState = .ready ∨ s.chip.devState = .held → cenEv h v e s = { x with spr := { x.spr with cen := v } }) ∧
      (s.chip.devState = .running → cenEv h v e s = { x with spr := { x.spr with cenNext := x.spr.cenNext ++ [(e, v)] } }) := by
  have hchip := congrArg Chip.devState hsays.messages.chip
  unfold cenEv
  rw [fromHead_of_says hsays, actOn, if_pos rfl]
  dsimp only
  refine ⟨?_, fun hrun => by rw [hchip.trans hrun]⟩
  rintro (hready | hheld)
  · rw [hchip.trans hready, setCen]
  · rw [hchip.trans hheld, setCen]

end Sys2Proof.Machine

open Sys2Proof Sys2Proof.Machine

/-- Settles O27: each message acts on the state that its arrival leaves (`fromHead_of_says`); START and RUN_SEGMENT_START are followed
through the frames of their stages. That TB0 reaches at least T_S is the model's time (assumption log 32). -/
theorem runControlMessages : Obligations.RunControlMessages := by
  unfold Obligations.RunControlMessages
  refine ⟨?start, ?segment, ?decide, ?cen, ?hold⟩
  case start =>
    intro s x h ts first hsays hready
    have hentered := answers_enterEntry 0 (runArmed ts first x)
    refine ⟨_, congrArg Host.Outcome.next ((startEv_ready hsays hready).trans (startReady_eq ts first x)), ?_⟩
    generalize enterEntry 0 (runArmed ts first x) = w at hentered ⊢
    have hbank := atBoundary_firstBank w
    generalize firstBank w = y at hbank ⊢
    have htaken := stimulusTaken_showPorts (initialCheckpoint y)
    generalize showPorts (initialCheckpoint y) = t at htaken ⊢
    rw [← hsays.messages.cl, ← hsays.messages.cel, htaken, initialCheckpoint, hbank.frame, hentered.frame]
    exact ⟨rfl, rfl, rfl, rfl, rfl, rfl, rfl, rfl, ⟨_, rfl, rfl⟩, rfl, rfl, rfl⟩
  case segment =>
    intro s hrun harmed hlock hrb hreplay
    have hphase := setPhase_phase .firstRun (segmentOpen (timeReach s.spr.segStart s))
    have hset := atBoundary_setPhase .firstRun (segmentOpen (timeReach s.spr.segStart s))
    refine ⟨_, congrArg Host.Outcome.next (runSegmentStart_first hrun harmed hlock hrb hreplay), ?_⟩
    generalize setPhase .firstRun (segmentOpen (timeReach s.spr.segStart s)) = y at hphase hset ⊢
    have hbegins := tickBegin_begins y
    have hopened : y.spr.armed = false := by rw [hset.armed, segmentOpen]
    have htick : y.spr.tick = s.spr.tick := by rw [hset.tick, segmentOpen, timeReach_spr]
    have hpond : y.cl.pond = s.cl.pond := by rw [hset.cl, segmentOpen, timeReach_cl]
    have htime : tb0Now y = max (tb0Now s) s.spr.segStart := by
      rw [← tb0Now_timeReach, tb0Now, hset.tim]
      rfl
    generalize tickBegin y = t at hbegins ⊢
    rw [hbegins]
    exact ⟨rfl, hopened, hphase, htime, htick, hpond⟩
  case decide =>
    intro s x h v m hsays _ hopen
    refine ⟨_, congrArg Host.Outcome.next (decideEv_in_time hsays hopen), mapGet_mapIns_mapDel .., fun k hk => ?_, rfl⟩
    rw [← hsays.messages.decides]
    exact (mapGet_mapIns_other hk).trans (mapGet_mapDel_other hk)
  case cen =>
    intro s x h v e hsays
    obtain ⟨hnow, hlater⟩ := cenEv_says hsays
    exact ⟨fun hstate => congrArg Host.Outcome.next (hnow hstate), fun hrun => congrArg Host.Outcome.next (hlater hrun)⟩
  case hold =>
    intro s x h epoch cause hsays hrun hahead
    exact congrArg Host.Outcome.next (holdEv_ahead hsays hrun hahead)

end

section
/-! PROOFS. What messages, interrupts, waking shelves and idle links leave (R352, R361, R362, R484, R544, R703). -/

namespace Sys2Proof.Machine

/-! ### Service messages (R361, R362) -/

/-- From `s` to `u` service messages leave: the outbox grows, and links hold their flits. -/
structure Messaged (s u : State) : Prop where
  frame : u = { s with outbox := u.outbox, lnk := u.lnk }
  sent : s.outbox <:+ u.outbox

namespace Messaged

theorem refl (s : State) : Messaged s s := ⟨rfl, List.suffix_refl _⟩

theorem trans {s u v : State} (h : Messaged s u) (k : Messaged u v) : Messaged s v := by
  obtain ⟨hu, hsent⟩ := h
  obtain ⟨hv, ksent⟩ := k
  refine ⟨?_, hsent.trans ksent⟩
  rw [hv, hu]

theorem regs {s u : State} (h : Messaged s u) : u.regs = s.regs := by rw [h.frame]
theorem chip {s u : State} (h : Messaged s u) : u.chip = s.chip := by rw [h.frame]
theorem cl {s u : State} (h : Messaged s u) : u.cl = s.cl := by rw [h.frame]
theorem spr {s u : State} (h : Messaged s u) : u.spr = s.spr := by rw [h.frame]
theorem crt {s u : State} (h : Messaged s u) : u.crt = s.crt := by rw [h.frame]
theorem ldr {s u : State} (h : Messaged s u) : u.ldr = s.ldr := by rw [h.frame]

theorem rdReg {s u : State} (h : Messaged s u) (b : Nat) : rdReg u b = rdReg s b := by
  rw [Machine.rdReg, h.regs]
  rfl

theorem foldl {α : Type} {f : State → α → State} (hf : ∀ x a, Messaged x (f x a)) (l : List α) (s : State) :
    Messaged s (l.foldl f s) := by
  induction l generalizing s with
  | nil => exact .refl s
  | cons a l ih => exact (hf s a).trans (ih _)

end Messaged

theorem messaged_sendServiceFrom (src l opc dst : Nat) (body : List Byte) (s : State) :
    Messaged s (sendServiceFrom src l opc dst body s) := ⟨rfl, List.suffix_cons ..⟩

theorem messaged_sendService (l opc dst : Nat) (body : List Byte) (s : State) : Messaged s (sendService l opc dst body s) :=
  messaged_sendServiceFrom ..

theorem messaged_sendServiceDown (opc dst : Nat) (body : List Byte) (s : State) :
    Messaged s (sendServiceDown opc dst body s) := .foldl (fun x l => messaged_sendService l opc dst body x) _ s

theorem messaged_sendServiceUp (opc dst : Nat) (body : List Byte) (s : State) : Messaged s (sendServiceUp opc dst body s) := by
  unfold sendServiceUp
  split
  · exact messaged_sendService ..
  · exact .refl s

theorem sendService_outbox (l opc dst : Nat) (body : List Byte) (s : State) :
    ∃ src, (sendService l opc dst body s).outbox = .service l opc src dst body :: s.outbox := ⟨_, rfl⟩

/-- Each present child gets what goes down (R405). -/
theorem mem_sendServiceDown {s : State} {l : Nat} (h : l ∈ presentLinks s) (opc dst : Nat) (body : List Byte) :
    ∃ src, .service l opc src dst body ∈ (sendServiceDown opc dst body s).outbox := by
  unfold sendServiceDown
  generalize presentLinks s = links at h ⊢
  induction links generalizing s with
  | nil => contradiction
  | cons k links ih =>
    rcases List.mem_cons.1 h with rfl | hrest
    · obtain ⟨src, hsrc⟩ := sendService_outbox l opc dst body s
      have hlater := Messaged.foldl (fun x j => messaged_sendService j opc dst body x) links (sendService l opc dst body s)
      exact ⟨src, hlater.sent.subset (by simp [hsrc])⟩
    · exact ih hrest

/-- The head gets what goes up. -/
theorem sendServiceUp_outbox {s : State} {l : Nat} (h : s.crt.uplink = some l) (opc dst : Nat) (body : List Byte) :
    ∃ src, (sendServiceUp opc dst body s).outbox = .service l opc src dst body :: s.outbox := by
  rw [sendServiceUp, h]
  exact sendService_outbox ..

theorem mem_sendServiceUp {s : State} {l : Nat} (h : s.crt.uplink = some l) (opc dst : Nat) (body : List Byte) :
    ∃ src, .service l opc src dst body ∈ (sendServiceUp opc dst body s).outbox := by
  obtain ⟨src, hsrc⟩ := sendServiceUp_outbox h opc dst body
  exact ⟨src, by simp [hsrc]⟩

/-- A message that is passed on toward the root keeps the device that sent it (R362, R410). -/
theorem relayUp_of_uplink {s : State} {l : Nat} (h : s.crt.uplink = some l) (opc src dst : Nat) (body : List Byte) :
    relayUp opc src dst body s = sendServiceFrom src l opc dst body s := by
  rw [relayUp, h]
  rfl

/-! ### Work beside the loader -/

/-- A register that messages, interrupts, waking shelves and idle links leave as it is: one below the link windows, but for
HST_EVENT and HST_CRT_LOST, or one at the offset of a shelf's border control. -/
abbrev Quiet (b : Nat) : Prop := (b < linkA 0 0 ∨ b % 0x1000 = 0x500) ∧ b ≠ hstA 4 ∧ b ≠ hstA 0x11C

/-- From `s` to `u` messages leave, events are raised, shelves wake and links change their state. -/
structure Around (s u : State) : Prop where
  frame : u = { s with
    regs := u.regs, outbox := u.outbox, lnk := u.lnk, hst := u.hst, stw := u.stw, noc := u.noc
    crt := { s.crt with gone := u.crt.gone } }
  sent : s.outbox <:+ u.outbox
  quiet : ∀ b, Quiet b → rdReg u b = rdReg s b

namespace Around

theorem refl (s : State) : Around s s := ⟨rfl, List.suffix_refl _, fun _ _ => rfl⟩

theorem trans {s u v : State} (h : Around s u) (k : Around u v) : Around s v := by
  obtain ⟨hu, hsent, hquiet⟩ := h
  obtain ⟨hv, ksent, kquiet⟩ := k
  refine ⟨?_, hsent.trans ksent, fun b hb => (kquiet b hb).trans (hquiet b hb)⟩
  rw [hv, hu]

theorem chip {s u : State} (h : Around s u) : u.chip = s.chip := by rw [h.frame]
theorem cl {s u : State} (h : Around s u) : u.cl = s.cl := by rw [h.frame]
theorem spr {s u : State} (h : Around s u) : u.spr = s.spr := by rw [h.frame]
theorem ldr {s u : State} (h : Around s u) : u.ldr = s.ldr := by rw [h.frame]
theorem isRoot {s u : State} (h : Around s u) : u.crt.isRoot = s.crt.isRoot := by rw [h.frame]
theorem uplink {s u : State} (h : Around s u) : u.crt.uplink = s.crt.uplink := by rw [h.frame]

theorem rdFld {s u : State} (h : Around s u) {b : Nat} (hb : Quiet b) (lo n : Nat) : rdFld u b lo n = rdFld s b lo n := by
  rw [Machine.rdFld, h.quiet b hb]
  rfl

theorem rdBit {s u : State} (h : Around s u) {b : Nat} (hb : Quiet b) (i : Nat) : rdBit u b i = rdBit s b i := by
  rw [Machine.rdBit, h.quiet b hb]
  rfl

theorem imgState {s u : State} (h : Around s u) : imgState u = imgState s := h.rdFld (by decide) 0 5
theorem feedIsOpen {s u : State} (h : Around s u) : feedIsOpen u = feedIsOpen s := h.rdBit (by decide) 5
theorem domainSize {s u : State} (h : Around s u) : domainSize u = domainSize s := h.rdFld (by decide) 0 13
theorem devAddr {s u : State} (h : Around s u) : devAddr u = devAddr s := h.rdFld (by decide) 0 12

/-- A loop whose every round is work beside the loader, in the device state of its start. -/
theorem foldl {α : Type} {f : State → α → State} {s : State} (hf : ∀ x a, x.chip = s.chip → Around x (f x a)) (l : List α) :
    Around s (l.foldl f s) := by
  suffices hall : ∀ x, x.chip = s.chip → Around x (l.foldl f x) from hall s rfl
  induction l with
  | nil => exact fun x _ => .refl x
  | cons a l ih => exact fun x hx => (hf x a hx).trans (ih _ ((hf x a hx).chip.trans hx))

theorem wrFld (s : State) {a : Nat} (h : ¬ Quiet a) (lo n x : Nat) : Around s (wrFld s a lo n x) := by
  refine ⟨rfl, List.suffix_refl _, fun b hb => rdReg_wrFld_other s lo n x ?_⟩
  rintro rfl
  exact h hb

end Around

theorem Messaged.around {s u : State} (h : Messaged s u) : Around s u := by
  refine ⟨?_, h.sent, fun b _ => h.rdReg b⟩
  rw [h.frame]

/-- The power status of a shelf, where the wake cause stands. -/
theorem not_quiet_wakeCause (h : Nat) : ¬ Quiet (shfA h 0x604) := by
  rintro ⟨hlow, -⟩
  unfold shfA linkA at hlow
  omega

theorem not_quiet_linkA (l : Nat) {o : Nat} (ho : o % 0x1000 ≠ 0x500) : ¬ Quiet (linkA l o) := by
  rintro ⟨hlow, -⟩
  unfold linkA at hlow
  omega

theorem quiet_border (h : Nat) : Quiet (shfA h 0x500) := by
  unfold Quiet shfA hstA
  omega

/-! ### Events and wake conditions (R484, R544, R694, R703) -/

theorem around_putGate (h : Nat) (g : Gate) (s : State) : Around s (putGate h g s) :=
  ⟨rfl, List.suffix_refl _, fun _ _ => rfl⟩

/-- A wake condition that is no request at the gate changes the gate and the wake cause of its shelf. -/
theorem around_wakeShelf (h : Nat) {cause : Nat} (hcause : cause ≠ 1) (s : State) : Around s (wakeShelf h cause s) := by
  have hnote (g : Gate) : Around s (wrFld (putGate h g s) (shfA h 0x604) 3 3 cause) :=
    (around_putGate h g s).trans (.wrFld _ (not_quiet_wakeCause h) _ _ _)
  unfold wakeShelf
  dsimp only
  split
  · exact .refl s
  · exact .refl s
  · split
    · exact around_putGate h _ s
    · exact hnote _
  · split
    · exact around_putGate h _ s
    · exact hnote _
  · exact around_putGate h _ s
  · split
    · exact around_putGate h _ s
    · rw [decide_eq_false hcause]
      exact hnote _

theorem around_wakeAll {cause : Nat} (hcause : cause ≠ 1) (s : State) : Around s (wakeAll cause s) :=
  .foldl (fun x h _ => around_wakeShelf h hcause x) _

theorem around_irqAll (i : Nat) (s : State) : Around s (irqAll i s) := by
  unfold irqAll wakeLine
  refine .trans ?_ (.foldl (fun x q _ => ?_) _)
  · exact ⟨rfl, List.suffix_refl _, fun _ _ => rfl⟩
  · dsimp only
    split
    · exact around_wakeShelf _ (by decide) x
    · exact .refl x

theorem around_msix (v : Nat) (s : State) : Around s (msix v s) := by
  unfold msix
  split
  · exact .refl s
  split
  · exact ⟨rfl, List.suffix_cons .., fun _ _ => rfl⟩
  · exact ⟨rfl, List.suffix_refl _, fun _ _ => rfl⟩

theorem around_hostEvent (n : Nat) (s : State) : Around s (hostEvent n s) := by
  have hraise (x : State) : Around x (if rdBit x (hstA 4) n then x else msix n (setBit x (hstA 4) n)) := by
    split
    · exact .refl x
    · exact .trans (.wrFld x (by decide) n 1 1) (around_msix n _)
  unfold hostEvent
  cases eventLine n with
  | none => exact hraise s
  | some i => exact (around_irqAll i s).trans (hraise _)

/-! ### Links that leave UP (R346, R352) -/

theorem around_putLink (l : Nat) (f : Link → Link) (s : State) : Around s (putLink l f s) :=
  ⟨rfl, List.suffix_refl _, fun _ _ => rfl⟩

theorem around_setLinkState (l n : Nat) (s : State) : Around s (setLinkState l n s) := .wrFld s (not_quiet_linkA l (by decide)) 0 4 n

theorem around_childGone (i : Nat) (s : State) : Around s (childGone i s) := by
  unfold childGone
  refine .trans ?_ (.wrFld _ (by decide) i 1 1)
  exact ⟨rfl, List.suffix_refl _, fun _ _ => rfl⟩

/-- No epoch is open unless the device is Running. -/
theorem failFrom_idle {s : State} (h : s.chip.devState ≠ .running) (epoch cause origin : Nat) :
    failFrom epoch cause origin s = s := if_pos h

theorem Around.whenDo {s : State} {f : State → State} (h : Around s (f s)) (b : Bool) : Around s (whenDo b f s) := by
  cases b
  · exact .refl s
  · exact h

theorem around_leaveUp {s : State} (h : s.chip.devState ≠ .running) (l : Nat) : Around s (leaveUp l s) := by
  have hend (y : State) (hy : Around s y) (c : Prop) [Decidable c] (far : Nat) :
      Around s (if c then failFrom (curEpoch y) 9 far y else y) := by
    rw [failFrom_idle (by rwa [hy.chip]), ite_self]
    exact hy
  unfold leaveUp
  split
  · exact .refl s
  dsimp only
  have hput := around_putLink l (fun k => { k with items := [], part := none, swap := none }) s
  cases childIndex (putLink l (fun k => { k with items := [], part := none, swap := none }) s) l with
  | none => exact hend _ hput _ _
  | some i => exact hend _ (hput.trans (.whenDo (around_childGone i _) _)) _ _

theorem around_beginTraining {s : State} (h : s.chip.devState ≠ .running) (l : Nat) : Around s (beginTraining l s) :=
  (around_leaveUp h l).trans ((around_putLink l _ _).trans (around_setLinkState l 1 _))

/-- Stream ports go to electrical idle. -/
theorem around_idlePorts {s : State} (h : s.chip.devState ≠ .running) : Around s (idlePorts s) :=
  .foldl (fun x l hx => (around_leaveUp (by rwa [hx]) l).trans (around_setLinkState l 0 _)) _

/-- Stream ports train. -/
theorem around_trainPorts {s : State} (h : s.chip.devState ≠ .running) (ports : List Nat) :
    Around s (ports.foldl (fun x l => beginTraining l x) s) :=
  .foldl (fun x l hx => around_beginTraining (by rwa [hx]) l) _

theorem around_wrReg (s : State) {a : Nat} (h : ¬ Quiet a) (v : Word) : Around s (wrReg s a v) := by
  refine ⟨rfl, List.suffix_refl _, fun b hb => rdReg_wrReg_other s v ?_⟩
  rintro rfl
  exact h hb

/-- The stream registers show the inlet. -/
theorem around_showPorts (s : State) : Around s (showPorts s) := by
  refine .foldl (fun x l _ => ?_) _
  unfold portShow wr48
  refine .trans ?_ (around_wrReg _ (not_quiet_linkA l (by decide)) _)
  refine .trans ?_ (around_wrReg _ (not_quiet_linkA l (by decide)) _)
  exact around_wrReg x (not_quiet_linkA l (by decide)) _

end Sys2Proof.Machine
end

section
/-! PROOFS. IMG_STATUS, the feed registers and the error registers (R272 to R274), and a write of IMG_CTRL (R271). -/

namespace Sys2Proof.Machine

/-! ### IMG_STATUS -/

theorem rdReg_setImg_other (n : Nat) (s : State) {b : Nat} (h : b ≠ imgStat) : rdReg (setImg n s) b = rdReg s b :=
  rdReg_wrFld_other s 0 5 n h

theorem imgState_setImg {n : Nat} (h : n < 32) (s : State) : imgState (setImg n s) = n :=
  (rdFld_wrFld_same s imgStat 0 5 n (by decide)).trans (Nat.mod_eq_of_lt h)

@[simp] theorem feedIsOpen_setImg (n : Nat) (s : State) : feedIsOpen (setImg n s) = feedIsOpen s :=
  rdBit_wrFld_other s imgStat n (by decide)

@[simp] theorem imgState_onLdr (f : Loader → Loader) (s : State) : imgState (onLdr f s) = imgState s := rfl
@[simp] theorem feedIsOpen_onLdr (f : Loader → Loader) (s : State) : feedIsOpen (onLdr f s) = feedIsOpen s := rfl

/-- STATE stands below the flags of IMG_STATUS. -/
theorem imgState_setBit {i : Nat} (h : 5 ≤ i) (s : State) : imgState (setBit s imgStat i) = imgState s :=
  rdFld_wrFld_other s imgStat 1 (.inl (by omega))

theorem imgState_clrBit {i : Nat} (h : 5 ≤ i) (s : State) : imgState (clrBit s imgStat i) = imgState s :=
  rdFld_wrFld_other s imgStat 0 (.inl (by omega))

/-- A register beside IMG_STATUS leaves STATE and FEED_OPEN. -/
theorem imgState_wrReg (s : State) {a : Nat} (v : Word) (h : imgStat ≠ a) : imgState (wrReg s a v) = imgState s := by
  rw [imgState, rdFld, rdReg_wrReg_other s v h]
  rfl

/-! ### The feed (R250, R274) -/

@[simp] theorem feedIsOpen_closeFeed (s : State) : feedIsOpen (closeFeed s) = false := rdBit_clrBit_same s imgStat
@[simp] theorem imgState_closeFeed (s : State) : imgState (closeFeed s) = imgState s := imgState_clrBit (by decide) s
@[simp] theorem feedIsOpen_openFeed (s : State) : feedIsOpen (openFeed s) = true := rdBit_setBit_same _ imgStat (by decide)

/-- The number that `wr48` stores in two registers. -/
theorem toNat_wr48 (s : State) {lo hi n : Nat} (hne : lo ≠ hi) (hn : n < 2 ^ 48) :
    (rdReg (wr48 lo hi n s) lo).toNat + 2 ^ 32 * rdFld (wr48 lo hi n s) hi 0 16 = n := by
  have hlow : rdReg (wr48 lo hi n s) lo = BitVec.ofNat 32 n := by
    rw [wr48, rdReg_wrReg_other _ _ hne, rdReg_wrReg_same]
  have hhigh : rdReg (wr48 lo hi n s) hi = BitVec.ofNat 32 (n / 2 ^ 32 % 2 ^ 16) := rdReg_wrReg_same ..
  rw [rdFld, hlow, hhigh, fld, BitVec.toNat_ofNat, BitVec.toNat_ofNat, Nat.shiftRight_zero]
  omega

/-- IMG_FEED_POS set to `n`. -/
abbrev setFeedPos (n : Nat) (s : State) : State := wr48 (imgA 0x18) (imgA 0x1C) n s

theorem feedPos_setFeedPos {n : Nat} (h : n < 2 ^ 48) (s : State) : feedPos (setFeedPos n s) = n := toNat_wr48 s (by decide) h

theorem feedPos_congr {s u : State} (hlo : rdReg u (imgA 0x18) = rdReg s (imgA 0x18))
    (hhi : rdReg u (imgA 0x1C) = rdReg s (imgA 0x1C)) : feedPos u = feedPos s := by
  rw [feedPos, rdFld, hlo, hhi]
  rfl

theorem Around.feedPos {s u : State} (h : Around s u) : feedPos u = feedPos s :=
  feedPos_congr (h.quiet _ (by decide)) (h.quiet _ (by decide))

theorem feedPos_setImg (n : Nat) (s : State) : feedPos (setImg n s) = feedPos s :=
  feedPos_congr (rdReg_setImg_other n s (by decide)) (rdReg_setImg_other n s (by decide))

theorem imgState_setFeedPos (n : Nat) (s : State) : imgState (setFeedPos n s) = imgState s :=
  (imgState_wrReg _ _ (by decide)).trans (imgState_wrReg _ _ (by decide))

@[simp] theorem feedPos_openFeed (s : State) : feedPos (openFeed s) = 0 := by
  refine .trans (feedPos_congr ?_ ?_) (feedPos_setFeedPos (Nat.two_pow_pos 48) s)
  · exact rdReg_setBit_other _ 5 (by decide)
  · exact rdReg_setBit_other _ 5 (by decide)

@[simp] theorem imgState_openFeed (s : State) : imgState (openFeed s) = imgState s :=
  (imgState_setBit (by decide) _).trans (imgState_setFeedPos 0 s)

/-! ### The error registers (R257, R273) -/

@[simp] theorem captureErr_chip (e : LdErr) (s : State) : (captureErr e s).chip = s.chip := rfl

theorem rdReg_captureErr_other (e : LdErr) (s : State) {b : Nat} (h : b < imgA 8 ∨ imgA 0x14 ≤ b) :
    rdReg (captureErr e s) b = rdReg s b := by
  unfold imgA at h
  unfold captureErr
  rw [rdReg_wrReg_other _ _ (by unfold imgA; omega), rdReg_wrReg_other _ _ (by unfold imgA; omega),
    rdReg_wrReg_other _ _ (by unfold imgA; omega)]

@[simp] theorem imgState_captureErr (e : LdErr) (s : State) : imgState (captureErr e s) = imgState s := by
  rw [imgState, rdFld, rdReg_captureErr_other e s (by decide)]
  rfl

@[simp] theorem feedIsOpen_captureErr (e : LdErr) (s : State) : feedIsOpen (captureErr e s) = feedIsOpen s := by
  rw [feedIsOpen, rdBit, rdReg_captureErr_other e s (by decide)]
  rfl

/-- IMG_ERR names the code of the error. -/
theorem rdFld_captureErr (e : LdErr) (s : State) : rdFld (captureErr e s) (imgA 8) 0 8 = e.code % 256 := by
  have herr : rdReg (captureErr e s) (imgA 8) = BitVec.ofNat 32 (e.code % 256 + 256 * (e.dev % 4096)) := by
    unfold captureErr
    rw [rdReg_wrReg_other _ _ (by decide), rdReg_wrReg_other _ _ (by decide), rdReg_wrReg_same]
  rw [rdFld, herr, fld, BitVec.toNat_ofNat, Nat.shiftRight_zero]
  omega

@[simp] theorem imgState_clearErr (s : State) : imgState (clearErr s) = imgState s :=
  (imgState_wrReg _ _ (by decide)).trans ((imgState_wrReg _ _ (by decide)).trans (imgState_wrReg _ _ (by decide)))

theorem rdReg_clearErr_other (s : State) {b : Nat} (h : b < imgA 8 ∨ imgA 0x14 ≤ b) : rdReg (clearErr s) b = rdReg s b := by
  unfold imgA at h
  unfold clearErr
  rw [rdReg_wrReg_other _ _ (by unfold imgA; omega), rdReg_wrReg_other _ _ (by unfold imgA; omega),
    rdReg_wrReg_other _ _ (by unfold imgA; omega)]

/-! ### IMG_CTRL (R271) -/

theorem regRow_imgCtrl : ∃ r, regRow (imgA 0) = some r ∧ r.rule = .plain := ⟨_, rfl, rfl⟩

/-- A write of IMG_CTRL without the mark of a forwarded request does what its bits ask for. -/
theorem regWrite_imgCtrl (who : Requester) {v : Word} (h : bit v 31 = false) (s : State) :
    regWrite who (imgA 0) v s = (.ok, imgCtrlWrite v s) := by
  obtain ⟨r, hrow, hrule⟩ := regRow_imgCtrl
  have hopen : ruleOpen r s = true := by simp [ruleOpen, hrule]
  have howned : forwardRefused who v s = false := by
    unfold forwardRefused
    split
    · rw [h, Bool.false_and]
    · rfl
  have hwrite : imgWrite who r (imgA 0 - 0x20000) v s = (.ok, imgCtrlWrite v s) := by
    unfold imgWrite
    rw [if_pos (by decide), howned]
    rfl
  unfold regWrite
  simp only [hrow, hopen]
  exact hwrite

/-- A request by a write of IMG_CTRL is answered after it has been acted on. -/
theorem writeAt_imgCtrl {s : State} {who : Requester} (h : Reaches s who (imgA 0)) {v : Word} (hv : bit v 31 = false) :
    writeAt who (imgA 0) v s = .next (answer who true .ok 0 (imgCtrlWrite v s)) := by
  rw [writeAt, request_reg h rfl (by decide), regWrite_imgCtrl who hv]

theorem exec_load {s : State} {who : Requester} (h : Reaches s who (imgA 0)) :
    exec (.load who) s = .next (answer who true .ok 0 (imgLoad s)) := writeAt_imgCtrl h rfl

theorem exec_reload {s : State} {who : Requester} (h : Reaches s who (imgA 0)) :
    exec (.reload who) s = .next (answer who true .ok 0 (imgReload s)) := writeAt_imgCtrl h rfl

theorem exec_abort {s : State} {who : Requester} (h : Reaches s who (imgA 0)) :
    exec (.abort who) s = .next (answer who true .ok 0 (imgAbort s)) := writeAt_imgCtrl h rfl

theorem exec_shellFeed {s : State} {who : Requester} (h : Reaches s who (imgA 0)) :
    exec (.shellFeed who) s = .next (answer who true .ok 0 (imgShellFeed s)) := writeAt_imgCtrl h rfl

end Sys2Proof.Machine
end

section
/-! PROOFS. What work of the cellar changes: its own state and registers, and the attic's reports and log (R565 to R593). -/

namespace Sys2Proof.Machine

/-- A register of the attic or of the cellar controller. -/
abbrev CellarReg (b : Nat) : Prop := b < imgA 0 ∨ celA 0 ≤ b ∧ b < trcA 0

/-- From `s` to `u` the cellar works: its state changes, faults are reported and logged. -/
structure CellarWorks (s u : State) : Prop where
  frame : u = { s with regs := u.regs, cel := u.cel, att := u.att }
  regs : ∀ b, ¬ CellarReg b → rdReg u b = rdReg s b

namespace CellarWorks

theorem refl (s : State) : CellarWorks s s := ⟨rfl, fun _ _ => rfl⟩

theorem trans {s u v : State} (h : CellarWorks s u) (k : CellarWorks u v) : CellarWorks s v := by
  obtain ⟨hu, hregs⟩ := h
  obtain ⟨hv, kregs⟩ := k
  refine ⟨?_, fun b hb => (kregs b hb).trans (hregs b hb)⟩
  rw [hv, hu]

theorem chip {s u : State} (h : CellarWorks s u) : u.chip = s.chip := by rw [h.frame]
theorem cl {s u : State} (h : CellarWorks s u) : u.cl = s.cl := by rw [h.frame]
theorem spr {s u : State} (h : CellarWorks s u) : u.spr = s.spr := by rw [h.frame]
theorem crt {s u : State} (h : CellarWorks s u) : u.crt = s.crt := by rw [h.frame]
theorem ldr {s u : State} (h : CellarWorks s u) : u.ldr = s.ldr := by rw [h.frame]
theorem outbox {s u : State} (h : CellarWorks s u) : u.outbox = s.outbox := by rw [h.frame]

theorem imgState {s u : State} (h : CellarWorks s u) : imgState u = imgState s := by
  rw [Machine.imgState, rdFld, h.regs _ (by decide)]
  rfl

theorem devAddr {s u : State} (h : CellarWorks s u) : devAddr u = devAddr s := by
  rw [Machine.devAddr, rdFld, h.regs _ (by decide)]
  rfl

theorem foldl {α : Type} {f : State → α → State} (l : List α) (hf : ∀ x, ∀ a ∈ l, CellarWorks x (f x a)) (s : State) :
    CellarWorks s (l.foldl f s) := by
  induction l generalizing s with
  | nil => exact .refl s
  | cons a l ih =>
    exact (hf s a (List.mem_cons_self ..)).trans (ih (fun x b hb => hf x b (List.mem_cons_of_mem _ hb)) _)

theorem whenDo {s : State} {f : State → State} (h : CellarWorks s (f s)) (b : Bool) : CellarWorks s (whenDo b f s) := by
  cases b
  · exact .refl s
  · exact h

theorem wrReg (s : State) {a : Nat} (h : CellarReg a) (v : Word) : CellarWorks s (wrReg s a v) := by
  refine ⟨rfl, fun b hb => rdReg_wrReg_other s v ?_⟩
  rintro rfl
  exact hb h

theorem wrFld (s : State) {a : Nat} (h : CellarReg a) (lo n x : Nat) : CellarWorks s (wrFld s a lo n x) := wrReg s h _

theorem incFld (s : State) {a : Nat} (h : CellarReg a) (lo n : Nat) : CellarWorks s (incFld s a lo n) := by
  unfold Machine.incFld
  dsimp only
  split
  · exact wrFld s h ..
  · exact .refl s

end CellarWorks

/-! ### Reports and the log (R620, R635) -/

theorem cellarWorks_report (kind cls unit detail : Nat) (s : State) : CellarWorks s (report kind cls unit detail s) :=
  ⟨rfl, fun _ _ => rfl⟩

/-- A log entry is four words of the ring, and the count of entries. -/
theorem cellarWorks_attLog (e : LogEntry) (s : State) : CellarWorks s (attLog e s) := by
  unfold attLog
  dsimp only
  refine .trans (.foldl _ (fun x k hk => .wrReg x (.inl ?_) _) s) (.incFld _ (by decide) 0 32)
  have hring := Nat.mod_lt (logCount s) (show 0 < 256 by decide)
  have hword := List.mem_range.1 hk
  unfold attA imgA
  omega

/-- The log does not hold ATT_STATUS. -/
theorem rdReg_attLog_status (e : LogEntry) (s : State) : rdReg (attLog e s) (attA 0) = rdReg s (attA 0) := by
  have hwords (l : List Nat) (i w : Nat) (x : State) : rdReg (l.foldl (fun acc k =>
      wrReg acc (attA (0x1000 + 16 * i + 4 * k)) (BitVec.ofNat 32 (w >>> (32 * k)))) x) (attA 0) = rdReg x (attA 0) := by
    induction l generalizing x with
    | nil => rfl
    | cons k l ih =>
      rw [List.foldl_cons, ih]
      exact rdReg_wrReg_other _ _ (by unfold attA; omega)
  unfold attLog incFld
  dsimp only
  split
  · rw [rdReg_wrFld_other _ _ _ _ (by decide), hwords]
  · exact hwords ..

/-! ### Lines (R577 to R588) -/

theorem cellarWorks_rekeyNext (p : Nat) (s : State) : CellarWorks s (rekeyNext p s) := by
  unfold rekeyNext
  split
  · exact ⟨rfl, fun _ _ => rfl⟩
  · exact .refl s

theorem cellarWorks_rekeyDue (r : Nat) (s : State) : CellarWorks s (rekeyDue r s) := by
  unfold rekeyDue
  split
  · exact .refl s
  split
  · refine .trans ?_ (.wrFld _ (by decide) 7 1 1)
    refine .trans ?_ (.wrFld _ (by decide) 1 1 1)
    exact ⟨rfl, fun _ _ => rfl⟩
  · dsimp only
    refine .trans ?_ (cellarWorks_rekeyNext ..)
    exact ⟨rfl, fun _ _ => rfl⟩

theorem cellarWorks_advanceCtr (l : Nat) (s : State) : CellarWorks s (advanceCtr l s) := by
  unfold advanceCtr
  exact .trans (u := setCtr l (lineCtr s l + 1) s) ⟨rfl, fun _ _ => rfl⟩ (.whenDo (cellarWorks_rekeyDue ..) _)

theorem cellarWorks_poisonLine (l cause : Nat) (s : State) : CellarWorks s (poisonLine l cause s) := by
  have hmark : CellarWorks s (incFld (setBit (setPoison l true s) celStatus 6) (celA 0x28) 0 32) := by
    refine .trans ?_ (.incFld _ (by decide) 0 32)
    refine .trans ?_ (.wrFld _ (by decide) 6 1 1)
    exact ⟨rfl, fun _ _ => rfl⟩
  unfold poisonLine
  refine .trans ?_ (cellarWorks_report ..)
  split
  · exact .refl s
  · exact hmark.trans (.wrReg _ (by decide) _)

theorem cellarWorks_recoverLine (l : Nat) (s : State) : CellarWorks s (recoverLine l s) := by
  unfold recoverLine
  dsimp only
  have hcount := (CellarWorks.incFld s (a := celA 0x24) (by decide) 0 32).trans (cellarWorks_report 0x21 3 (linePc s l) 0 _)
  split
  · exact hcount.trans (cellarWorks_advanceCtr ..)
  · exact hcount

theorem cellarWorks_lineChecked (l cause : Nat) (chk : Verdict) (s : State) : CellarWorks s (lineChecked l cause chk s) := by
  unfold lineChecked
  split
  · exact .refl s
  · exact cellarWorks_recoverLine ..
  · exact cellarWorks_poisonLine ..

theorem cellarWorks_refuseWrite (l : Nat) (s : State) : CellarWorks s (refuseWrite l s) := by
  unfold refuseWrite
  exact (CellarWorks.wrFld s (by decide) 8 1 1).trans (cellarWorks_attLog ..)

theorem cellarWorks_performWrite (l ofs : Nat) (bytes : List Byte) (s : State) : CellarWorks s (performWrite l ofs bytes s) := by
  have hput : CellarWorks s (memPut (64 * l + ofs) bytes s) := ⟨rfl, fun _ _ => rfl⟩
  have hcount : CellarWorks s (if lineSealed s l then advanceCtr l (memPut (64 * l + ofs) bytes s)
      else memPut (64 * l + ofs) bytes s) := by
    split
    · exact hput.trans (cellarWorks_advanceCtr ..)
    · exact hput
  unfold performWrite
  dsimp only
  split
  · exact hcount.trans ⟨rfl, fun _ _ => rfl⟩
  · exact hcount

theorem cellarWorks_lineWrite (who : CelWho) (l ofs : Nat) (bytes : List Byte) (chk : Verdict) (s : State) :
    CellarWorks s (lineWrite who l ofs bytes chk s).1 := by
  have hchecked : CellarWorks s (if ofs = 0 ∧ bytes.length = 64 then s else lineChecked l 1 chk s) := by
    split
    · exact .refl s
    · exact cellarWorks_lineChecked ..
  unfold lineWrite
  dsimp only
  split
  · exact (cellarWorks_poisonLine ..).trans (cellarWorks_refuseWrite ..)
  generalize (if ofs = 0 ∧ bytes.length = 64 then s else lineChecked l 1 chk s) = x at hchecked ⊢
  split
  · split
    · exact hchecked.trans (cellarWorks_refuseWrite ..)
    · exact hchecked.trans ⟨rfl, fun _ _ => rfl⟩
  · exact hchecked.trans (cellarWorks_performWrite ..)

/-- A unit of the device writes bytes of the cellar. -/
theorem cellarWorks_celPut (who : CelWho) (off : Nat) (bytes : List Byte) (s : State) : CellarWorks s (celPut who off bytes s) :=
  .foldl _ (fun x q _ => cellarWorks_lineWrite who q.1 q.2.1 q.2.2 .pass x) s

/-! ### Regions, seals and pseudo-channels (R565, R571, R573, R574, R584, R587, R593) -/

theorem cellarWorks_layoutGeneral (larder fw opn : Nat) (s : State) : CellarWorks s (layoutGeneral larder fw opn s) := by
  unfold layoutGeneral
  dsimp only
  refine .trans ?_ (.wrFld _ (by decide) 16 15 opn)
  refine .trans ?_ (.wrFld _ (by decide) 5 10 fw)
  refine .trans ?_ (.wrFld _ (by decide) 0 5 larder)
  exact ⟨rfl, fun _ _ => rfl⟩

theorem cellarWorks_sealCellar (s : State) : CellarWorks s (sealCellar s) := by
  unfold sealCellar
  dsimp only
  refine .trans (.incFld s (a := celA 4) (by decide) 0 32) (.trans ?_ (.wrFld _ (by decide) 0 1 1))
  exact ⟨rfl, fun _ _ => rfl⟩

theorem cellarWorks_placePcs (s : State) : CellarWorks s (placePcs s) := by
  refine .foldl _ (fun x pc _ => ?_) s
  split
  · exact .refl x
  split
  · exact .refl x
  split
  · exact .refl x
  · exact ⟨rfl, fun _ _ => rfl⟩

theorem cellarWorks_freeModelWindow (s : State) : CellarWorks s (freeModelWindow s) := by
  unfold freeModelWindow
  refine .trans ?_ (.foldl _ (fun x p _ => cellarWorks_rekeyNext p x) _)
  exact ⟨rfl, fun _ _ => rfl⟩

theorem cellarWorks_resealStart (s : State) : CellarWorks s (resealStart s) := by
  unfold resealStart
  split
  · exact .refl s
  dsimp only
  refine .trans (.incFld s (a := celA 4) (by decide) 0 32) (.trans ?_ (cellarWorks_rekeyNext 0 _))
  exact ⟨rfl, fun _ _ => rfl⟩

end Sys2Proof.Machine
end

section
/-! PROOFS. The stages of Boot: the lock of the step clock, the enumeration that follows Boot, and Safe (R227, R400 to R403, R632). -/

namespace Sys2Proof.Machine

/-! ### Enumeration (R400 to R403) -/

/-- From `s` to `u` an enumeration goes on: the crate, registers, messages and events. -/
def Enumerates (s u : State) : Prop :=
  u = { s with
    regs := u.regs, outbox := u.outbox, lnk := u.lnk, crt := u.crt, hst := u.hst, stw := u.stw, noc := u.noc }

namespace Enumerates

theorem refl (s : State) : Enumerates s s := rfl

theorem trans {s u v : State} (h : Enumerates s u) (k : Enumerates u v) : Enumerates s v := by
  unfold Enumerates at h k ⊢
  rw [k, h]

theorem foldl {α : Type} {f : State → α → State} (hf : ∀ x a, Enumerates x (f x a)) (l : List α) (s : State) :
    Enumerates s (l.foldl f s) := by
  induction l generalizing s with
  | nil => exact .refl s
  | cons a l ih => exact (hf s a).trans (ih _)

/-- A loop that carries a number beside the state. -/
theorem foldl_fst {α β : Type} {f : State × β → α → State × β} (hf : ∀ x a, Enumerates x.1 (f x a).1) (l : List α)
    (q : State × β) : Enumerates q.1 (l.foldl f q).1 := by
  induction l generalizing q with
  | nil => exact .refl q.1
  | cons a l ih => exact (hf q a).trans (ih _)

theorem whenDo {s : State} {f : State → State} (h : Enumerates s (f s)) (b : Bool) : Enumerates s (whenDo b f s) := by
  cases b
  · exact .refl s
  · exact h

end Enumerates

theorem enumerates_sendService (l opc dst : Nat) (body : List Byte) (s : State) :
    Enumerates s (sendService l opc dst body s) := rfl

theorem Around.enumerates {s u : State} (h : Around s u) : Enumerates s u := by
  unfold Enumerates
  rw [h.frame]

theorem enumerates_assignDone (s : State) : Enumerates s (assignDone s) := by
  unfold assignDone
  split
  · dsimp only
    split
    · exact .trans (u := setEnum 3 s) rfl (around_hostEvent 2 _).enumerates
    · exact .trans (u := setEnum 3 s) rfl (messaged_sendServiceUp ..).around.enumerates
  · exact .refl s

theorem enumerates_wrFld (a lo n x : Nat) (s : State) : Enumerates s (wrFld s a lo n x) := rfl

theorem enumerates_wrReg (a : Nat) (v : Word) (s : State) : Enumerates s (wrReg s a v) := rfl

theorem enumerates_assign (base ndev depth arrive ttree : Nat) (s : State) :
    Enumerates s (assign base ndev depth arrive ttree s) := by
  unfold assign
  dsimp only
  refine .trans ?taken (.trans (Enumerates.foldl_fst (fun x i => ?child) _ _) (enumerates_assignDone _))
  case taken =>
    refine .trans ?_ (enumerates_wrFld ..)
    iterate 6 refine .trans ?_ (enumerates_wrFld ..)
    exact enumerates_wrFld ..
  case child => exact (enumerates_wrFld ..).trans (enumerates_sendService ..)

theorem enumerates_enumFail (cause : Nat) (s : State) : Enumerates s (enumFail cause s) := by
  unfold enumFail
  refine .trans (u := wrFld (setEnum 4 s) crtStatus 21 4 cause) rfl ?_
  exact (messaged_sendServiceDown ..).around.enumerates.trans (around_hostEvent 2 _).enumerates

theorem enumerates_rootDecideCount (busy tooMany : Bool) (size tsub : Nat) (s : State) :
    Enumerates s (rootDecideCount busy tooMany size tsub s) := by
  unfold rootDecideCount
  split
  · exact enumerates_enumFail 4 s
  split
  · exact enumerates_enumFail 1 s
  split
  · exact enumerates_enumFail 2 s
  split
  · exact enumerates_enumFail 3 s
  · exact enumerates_assign ..

theorem enumerates_sendCount (busy missing tooMany : Bool) (size depth tsub : Nat) (s : State) :
    Enumerates s (sendCount busy missing tooMany size depth tsub s) := (messaged_sendServiceUp ..).around.enumerates

/-- What the root and another device do with a count, from the state that has taken it. -/
theorem Enumerates.counted {s x : State} (h : Enumerates s x) (root : Prop) [Decidable root] (busy missing tooMany : Bool)
    (size depth tsub : Nat) :
    Enumerates s (if root then rootDecideCount busy tooMany size tsub x
      else sendCount busy missing tooMany size depth tsub x) := by
  split
  · exact h.trans (enumerates_rootDecideCount ..)
  · exact h.trans (enumerates_sendCount ..)

theorem enumerates_countDone (s : State) : Enumerates s (countDone s) := by
  unfold countDone
  dsimp only
  refine .counted ?_ _ _ _ _ _ _ _
  refine .trans ?_ (show Enumerates _ _ from rfl)
  refine .trans ?_ (enumerates_wrFld ..)
  refine .trans ?_ (enumerates_wrFld ..)
  refine .trans ?_ (enumerates_wrFld ..)
  refine .trans ?_ (.foldl (fun x i => enumerates_wrReg ..) _ _)
  refine .trans ?_ (.foldl (fun x i => enumerates_wrFld ..) _ _)
  exact .foldl (fun x i => enumerates_wrFld ..) _ _

theorem enumerates_crt (c : Crate) (s : State) : Enumerates s { s with crt := c } := rfl

/-- A probe is sent on to the children whose link is UP. -/
theorem enumerates_probeSent (g : Nat) (children : List Nat) (s : State) :
    Enumerates s (children.foldl (fun acc l =>
      if linkState acc l = 8 then sendService l 0x30 0xFFF (leBytes 4 (g % 256)) acc else acc) s) := by
  refine .foldl (fun x l => ?_) children s
  split
  · exact enumerates_sendService ..
  · exact .refl x

theorem enumerates_probe (g : Nat) (s : State) : Enumerates s (probe g s) := by
  unfold probe
  extract_lets s1 s2
  have hcleared : Enumerates s s2 := by
    refine .trans ?_ (enumerates_wrReg ..)
    iterate 3 refine .trans ?_ (enumerates_wrFld ..)
    exact enumerates_wrFld ..
  refine hcleared.trans ?_
  split
  · exact enumerates_crt _ s2
  · refine .trans ?_ (.whenDo (enumerates_countDone _) _)
    refine .trans ?_ (enumerates_probeSent g _ _)
    exact (enumerates_crt _ s2).trans (enumerates_wrFld ..)
  · exact enumerates_sendCount ..

theorem enumerates_blankFromBoot (s : State) : Enumerates s (blankFromBoot s) := by
  unfold blankFromBoot enumStart
  split
  · exact enumerates_probe _ s
  split
  · exact enumerates_probe _ s
  · exact .refl s

/-- What Boot ends with: Blank, stage 0, and the enumeration that follows. -/
theorem enumerates_enterBlank (s : State) :
    Enumerates (setBoot 0 { s with chip := { s.chip with devState := .blank } }) (enterBlank s) :=
  enumerates_blankFromBoot _

/-! ### Safe (R632) -/

/-- From `s` to `u` generators are disarmed: their registers, and their pulses. -/
structure Disarmed (s u : State) : Prop where
  frame : u = { s with regs := u.regs, tim := u.tim }
  regs : ∀ b, b < timA 0 → rdReg u b = rdReg s b

theorem disarmed_foldl (l : List Nat) (s : State) :
    Disarmed s (l.foldl (fun acc n => clrBit (clrBit acc (timA (0x21C + 32 * n)) 0) (timA (0x21C + 32 * n)) 6) s) := by
  induction l generalizing s with
  | nil => exact ⟨rfl, fun _ _ => rfl⟩
  | cons n l ih =>
    obtain ⟨hframe, hregs⟩ := ih (clrBit (clrBit s (timA (0x21C + 32 * n)) 0) (timA (0x21C + 32 * n)) 6)
    refine ⟨hframe, fun b hb => (hregs b hb).trans ?_⟩
    have hne : b ≠ timA (0x21C + 32 * n) := by
      unfold timA at hb ⊢
      omega
    rw [rdReg_clrBit_other _ _ hne, rdReg_clrBit_other _ _ hne]

/-- No pulse is high. -/
def gensLow (s : State) : State :=
  { s with tim := { s.tim with gens := s.tim.gens.map (fun q => (q.1, { q.2 with high := false })) } }

theorem disarmed_gensLow {s u : State} (h : Disarmed s u) : Disarmed s (gensLow u) := by
  refine ⟨?_, h.regs⟩
  rw [gensLow, h.frame]

theorem disarmed_pulsesLow (s : State) : Disarmed s (pulsesLow s) := disarmed_gensLow (disarmed_foldl (List.range 8) s)

/-- The cause and the flag of Safe, and the unit that brought it about. -/
def safeNoted (cause : SafeCause) (cls unit kind : Nat) (s : State) : State :=
  wrReg (wrFld (wrFld s (attA 0) 8 4 (safeCode cause)) (attA 0) 6 1 1) (attA 4)
    (BitVec.ofNat 32 (cls + 16 * unit + 2 ^ 16 * kind))

theorem rdFld_safeNoted (cause : SafeCause) (cls unit kind : Nat) (s : State) :
    rdFld (safeNoted cause cls unit kind s) (attA 0) 8 4 = safeCode cause := by
  have hcause : rdFld (wrFld s (attA 0) 8 4 (safeCode cause)) (attA 0) 8 4 = safeCode cause := by
    rw [rdFld_wrFld_same _ _ _ _ _ (by decide)]
    cases cause <;> rfl
  rw [rdFld, safeNoted, rdReg_wrReg_other _ _ (by decide)]
  exact (rdFld_wrFld_other _ _ 1 (.inr (by decide))).trans hcause

/-- The device state Safe: neither ticks nor an unlocked attic. -/
def inSafe (s : State) : State :=
  { s with
    chip := { s.chip with devState := .safe }
    att := { s.att with lockUntil := none }
    spr := { s.spr with pos := .idle, armed := false } }

/-- The entry of the log that says that the device entered Safe. -/
def safeEntry (cls unit : Nat) : LogEntry :=
  { outcome := 3, cls := cls, unit := unit, kind := 0x42, resp := 5, n := 0, detail := 0 }

/-- What a device that is not Running does when it enters Safe. -/
theorem enterSafe_eq {s : State} (hoff : s.chip.devState ≠ .off) (hsafe : s.chip.devState ≠ .safe)
    (hrun : s.chip.devState ≠ .running) (cause : SafeCause) (cls unit kind : Nat) :
    enterSafe cause cls unit kind s =
      hostEvent 0 (pulsesLow (inSafe (attLog (safeEntry cls unit) (safeNoted cause cls unit kind s)))) := by
  unfold enterSafe
  rw [if_neg (not_or.2 ⟨hoff, hsafe⟩)]
  extract_lets running noted unit entry failed
  have hfailed : failed = entry := if_neg hrun
  change hostEvent 0 (pulsesLow (inSafe failed)) = _
  rw [hfailed]
  rfl

theorem safeNoted_cl (cause : SafeCause) (cls unit kind : Nat) (s : State) : (safeNoted cause cls unit kind s).cl = s.cl := rfl

/-- The stages of the entry: what is noted in `x`, the log in `y`, low pulses in `z`, and the event. -/
theorem safe_of_stages {s x y z t : State} {code : Nat} (hcl : x.cl = s.cl) (hnoted : rdFld x (attA 0) 8 4 = code)
    (hlog : CellarWorks x y) (hstatus : rdReg y (attA 0) = rdReg x (attA 0)) (hpulse : Disarmed (inSafe y) z)
    (hevent : Around z t) : t.chip.devState = .safe ∧ t.cl = s.cl ∧ rdFld t (attA 0) 8 4 = code := by
  refine ⟨?_, ?_, ?_⟩
  · rw [hevent.chip, hpulse.frame]
    rfl
  · rw [hevent.cl, hpulse.frame, ← hcl]
    exact hlog.cl
  · rw [hevent.rdFld (by decide), rdFld, hpulse.regs _ (by decide), ← hnoted, rdFld, ← hstatus]
    rfl

/-- A device that is not Running enters Safe: the device state, the cause, and no change of the clusters. -/
theorem enterSafe_not_running {s : State} (hoff : s.chip.devState ≠ .off) (hsafe : s.chip.devState ≠ .safe)
    (hrun : s.chip.devState ≠ .running) (cause : SafeCause) (cls unit kind : Nat) :
    (enterSafe cause cls unit kind s).chip.devState = .safe ∧ (enterSafe cause cls unit kind s).cl = s.cl ∧
      rdFld (enterSafe cause cls unit kind s) (attA 0) 8 4 = safeCode cause := by
  rw [enterSafe_eq hoff hsafe hrun]
  exact safe_of_stages (safeNoted_cl ..) (rdFld_safeNoted ..) (cellarWorks_attLog ..) (rdReg_attLog_status ..)
    (disarmed_pulsesLow _) (around_hostEvent ..)

/-- A stage of Boot that takes too long leads to Safe (R227). -/
theorem enterSafeOpen_boot {s : State} (h : s.chip.devState = .boot) :
    (enterSafeOpen .boot none none s).chip.devState = .safe ∧ (enterSafeOpen .boot none none s).cl = s.cl ∧
      rdFld (enterSafeOpen .boot none none s) (attA 0) 8 4 = 7 := by
  unfold enterSafeOpen
  rw [if_neg (by simp [h])]
  refine enterSafe_not_running (s := (takeFree s).2) ?_ ?_ ?_ _ _ _ _ <;> (rw [takeFree, h]; decide)

/-! ### The stages of Boot (R227, R230) -/

theorem cellarWorks_cellarStage (s : State) : CellarWorks s (cellarStage s) :=
  (cellarWorks_sealCellar s).trans ((cellarWorks_placePcs _).trans (cellarWorks_layoutGeneral ..))

theorem bootStageDone_rom {s : State} (h : s.chip.devState = .boot) (hstage : s.ldr.boot = 1) (flash : Bool) :
    bootStageDone flash s = setBoot 2 (setBit s (attA 0) 7) := by simp [bootStageDone, h, hstage]

theorem bootStageDone_clock {s : State} (h : s.chip.devState = .boot) (hstage : s.ldr.boot = 2) (flash : Bool) :
    bootStageDone flash s = setBoot 3 (clockLocked s) := by simp [bootStageDone, h, hstage]

theorem bootStageDone_shell {s : State} (h : s.chip.devState = .boot) (hstage : s.ldr.boot = 3) (flash : Bool) :
    bootStageDone flash s = shellStage flash (cellarStage s) := by simp [bootStageDone, h, hstage]

theorem bootStageDone_links {s : State} (h : s.chip.devState = .boot) (hstage : s.ldr.boot = 5) (flash : Bool) :
    bootStageDone flash s = if treeSettled s then enterBlank s else s := by simp [bootStageDone, h, hstage]

theorem bootStageTimeout_safe {s : State} (h : s.chip.devState = .boot) (hstage : s.ldr.boot = 1 ∨ s.ldr.boot = 3) :
    bootStageTimeout s = enterSafeOpen .boot none none s := by
  rcases hstage with hstage | hstage <;> simp [bootStageTimeout, h, hstage]

theorem bootStageTimeout_clock {s : State} (h : s.chip.devState = .boot) (hstage : s.ldr.boot = 2) :
    bootStageTimeout s = setBoot 3 s := by simp [bootStageTimeout, h, hstage]

theorem bootStageTimeout_unlimited {s : State} (h : s.chip.devState = .boot) (hstage : s.ldr.boot = 4 ∨ s.ldr.boot = 5) :
    bootStageTimeout s = s := by
  rcases hstage with hstage | hstage <;> simp [bootStageTimeout, h, hstage]

theorem rdBit_clockLocked (s : State) : rdBit (clockLocked s) timStat 0 = true := rdBit_setBit_same _ timStat (by decide)

theorem rdReg_clockLocked_other (s : State) {a : Nat} (h : a ≠ timStat) : rdReg (clockLocked s) a = rdReg s a :=
  rdReg_setBit_other _ 0 h

theorem shellStage_flash (s : State) : shellStage true s = putRx 0 { ShellRx.reset with live := true } (setBoot 4 s) := rfl

theorem shellStage_waits (s : State) : shellStage false s = setImg 2 (setBoot 4 s) := rfl

theorem rxOf_putRx_same (src : Nat) (r : ShellRx) (s : State) : rxOf (putRx src r s) src = r := mapGet_mapSet_same ..

end Sys2Proof.Machine

open Sys2Proof Sys2Proof.Machine

/-- Settles O31: each stage by what its work leaves (`cellarWorks_cellarStage`, `enumerates_enterBlank`), a late one by the entry to
Safe. That TB0 is 0 once the lock is reported is assumption log 42, and the answer of a flash device is log 41. -/
theorem bootStages : Obligations.BootStages := by
  unfold Obligations.BootStages
  intro s flash hboot
  have hdone : exec (.bootStageDone flash) s = .next (bootStageDone flash s) := rfl
  have hlate : exec .bootStageTimeout s = .next (bootStageTimeout s) := rfl
  rw [hdone, hlate]
  refine ⟨?rom, ?clock, ?shell, ?links, ?safe, ?unlocked, ?unlimited⟩
  case rom =>
    intro hstage
    rw [bootStageDone_rom hboot hstage]
    exact ⟨_, rfl, rfl, rdBit_setBit_same s (attA 0) (by decide), fun a ha => rdReg_setBit_other s 7 ha, rfl⟩
  case clock =>
    intro hstage
    rw [bootStageDone_clock hboot hstage]
    exact ⟨_, rfl, rfl, rfl, rdBit_clockLocked s, fun a ha => rdReg_clockLocked_other s ha, rfl, rfl⟩
  case shell =>
    intro hstage
    have hworks := cellarWorks_cellarStage s
    rw [bootStageDone_shell hboot hstage]
    generalize cellarStage s = x at hworks ⊢
    cases flash
    · rw [shellStage_waits]
      exact ⟨_, rfl, rfl, hworks.chip, nofun, fun _ => imgState_setImg (by decide) _⟩
    · rw [shellStage_flash]
      exact ⟨_, rfl, rfl, hworks.chip, fun _ => ⟨congrArg ShellRx.live (rxOf_putRx_same ..), hworks.imgState⟩, nofun⟩
  case links =>
    intro hstage
    rw [bootStageDone_links hboot hstage]
    refine ⟨fun hsettled => ?_, fun hwaiting => by rw [hwaiting, if_neg Bool.false_ne_true]⟩
    have hblank := enumerates_enterBlank s
    rw [if_pos hsettled]
    generalize enterBlank s = t at hblank ⊢
    rw [hblank]
    exact ⟨_, rfl, rfl, rfl, rfl, rfl⟩
  case safe =>
    intro hstage
    rw [bootStageTimeout_safe hboot hstage]
    exact ⟨_, rfl, enterSafeOpen_boot hboot⟩
  case unlocked =>
    intro hstage
    rw [bootStageTimeout_clock hboot hstage]
    rfl
  case unlimited =>
    intro hstage
    rw [bootStageTimeout_unlimited hboot hstage]

end

section
/-! PROOFS. Entry to Loading and the end of a load as failed (R9, R249, R255, R257). -/

namespace Sys2Proof.Machine

/-! ### Entry to Loading (R9, R249) -/

/-- A filter that keeps every pair with a key keeps the value of the key. -/
theorem mapGet_filter {α : Type} (d : α) {p : Nat × α → Bool} {k : Nat} (hp : ∀ v, p (k, v) = true) (m : SMap α) :
    mapGet d (m.filter p) k = mapGet d m k := by
  induction m with
  | nil => rfl
  | cons q m ih =>
    obtain ⟨j, v⟩ := q
    by_cases hj : j = k
    · subst hj
      rw [List.filter_cons_of_pos (hp v), mapGet, mapGet, if_pos rfl, if_pos rfl]
    · rw [mapGet, if_neg hj, ← ih]
      cases hq : p (j, v)
      · rw [List.filter_cons_of_neg (by simp [hq])]
      · rw [List.filter_cons_of_pos hq, mapGet, if_neg hj]

/-- A register of another domain keeps its value over the reset of a domain (R9). -/
theorem rdReg_resetDom_other {d : Dom} {b : Nat} {r : RegRow} (hrow : regRow b = some r) (hdom : r.dom ≠ d) (s : State) :
    rdReg (resetDom d s) b = rdReg s b := by
  refine mapGet_filter _ (fun v => ?_) s.regs
  dsimp only
  rw [hrow]
  exact decide_eq_true hdom

theorem regRow_crtDomain : ∃ r, regRow crtDomain = some r ∧ r.dom ≠ .image := ⟨_, rfl, by decide⟩

/-- From `s` to `t` the device enters Loading: its device state, all model state at its reset value, and a fresh loader. -/
structure EntersLoading (s t : State) : Prop where
  chip : t.chip = { s.chip with devState := .loading }
  cl : t.cl = Clusters.reset
  tick : t.spr.tick = 0
  img : imgState t = 4
  ldr : t.ldr = { ldrFresh s.ldr with kind := 1, domain := s.ldr.domain }
  sent : s.outbox <:+ t.outbox
  uplink : t.crt.uplink = s.crt.uplink
  size : domainSize t = domainSize s

/-- The steps of the entry: idle ports, the reset, woken shelves, and the freed model window. -/
theorem entersLoading_of_steps {s x y z w : State} (hidle : Around s x) (hreset : imageReset x = y) (hwake : Around y z)
    (hfree : CellarWorks { z with
      chip := { z.chip with devState := .loading }, ldr := { ldrFresh z.ldr with kind := 1, domain := z.ldr.domain } } w) :
    EntersLoading s (setImg 4 w) := by
  subst hreset
  obtain ⟨r, hrow, hdom⟩ := regRow_crtDomain
  have hsize : domainSize (imageReset x) = domainSize x :=
    congrArg (fun v => fld v 0 13) (rdReg_resetDom_other hrow hdom x)
  have hfreed : domainSize w = domainSize z := congrArg (fun v => fld v 0 13) (hfree.regs crtDomain (by decide))
  have hset : domainSize (setImg 4 w) = domainSize w := congrArg (fun v => fld v 0 13) (rdReg_setImg_other 4 w (by decide))
  refine ⟨?_, ?_, ?_, imgState_setImg (by decide) w, ?_, ?_, ?_, ?_⟩
  · refine hfree.chip.trans ?_
    rw [hwake.chip, ← hidle.chip]
    rfl
  · exact hfree.cl.trans hwake.cl
  · exact (congrArg (fun p => p.tick) (hfree.spr.trans hwake.spr)).trans rfl
  · refine hfree.ldr.trans ?_
    rw [hwake.ldr, ← hidle.ldr]
    rfl
  · refine (hidle.sent.trans hwake.sent).trans ?_
    exact hfree.outbox ▸ List.suffix_refl _
  · refine (congrArg Crate.uplink hfree.crt).trans (hwake.uplink.trans hidle.uplink)
  · rw [hset, hfreed, hwake.domainSize, hsize, hidle.domainSize]

theorem entersLoading {s : State} (h : s.chip.devState ≠ .running) : EntersLoading s (enterLoading s) :=
  entersLoading_of_steps (around_idlePorts h) rfl (around_wakeAll (by decide) _)
    ((cellarWorks_freeModelWindow _).trans (cellarWorks_resealStart _))

theorem not_running_of_mayLoad {s : State} (h : mayLoad s = true) : s.chip.devState ≠ .running := by
  intro hrun
  simp [mayLoad, hrun] at h

/-! ### The end of a load as failed (R257) -/

/-- In `t` the load that ran in `s` has ended with an error code: the registers, and the loader. -/
structure Failed (s t : State) (code : Nat) : Prop where
  code : rdFld t (imgA 8) 0 8 = code
  img : imgState t = 11
  closed : feedIsOpen t = false
  cl : t.cl = s.cl
  ldr : t.ldr = ldrFresh s.ldr
  sent : s.outbox <:+ t.outbox

theorem Failed.around {s t u : State} {code : Nat} (h : Failed s t code) (k : Around t u) : Failed s u code where
  code := (k.rdFld (by decide) 0 8).trans h.code
  img := k.imgState.trans h.img
  closed := k.feedIsOpen.trans h.closed
  cl := k.cl.trans h.cl
  ldr := k.ldr.trans h.ldr
  sent := h.sent.trans k.sent

/-- The chip is not what `Failed` speaks of. -/
theorem Failed.onChip {s t : State} {code : Nat} (h : Failed s t code) (c : Chip) : Failed s { t with chip := c } code := by
  obtain ⟨hcode, himg, hclosed, hcl, hldr, hsent⟩ := h
  exact ⟨hcode, himg, hclosed, hcl, hldr, hsent⟩

/-- A flag of IMG_STATUS above FEED_OPEN. -/
theorem Failed.setFlag {s t : State} {code i : Nat} (h : Failed s t code) (hi : 5 < i) : Failed s (setBit t imgStat i) code where
  code := by rw [← h.code, rdFld, rdReg_setBit_other _ _ (by decide), rdFld]
  img := (imgState_setBit (by omega) t).trans h.img
  closed := (rdBit_setBit_other t imgStat (by omega)).trans h.closed
  cl := h.cl
  ldr := h.ldr
  sent := h.sent

theorem failed_captured (e : LdErr) (s : State) :
    Failed s (captureErr e (setImg 11 (onLdr ldrFresh (closeFeed s)))) (e.code % 256) where
  code := rdFld_captureErr ..
  img := (imgState_captureErr ..).trans (imgState_setImg (by decide) _)
  closed := by rw [feedIsOpen_captureErr, feedIsOpen_setImg, feedIsOpen_onLdr, feedIsOpen_closeFeed]
  cl := rfl
  ldr := rfl
  sent := List.suffix_refl _

/-- The load ends: the error, the event, LOAD_ERR_N and the flag. -/
def loadErred (e : LdErr) (s : State) : State :=
  let s1 := hostEvent 1 (captureErr e (setImg 11 (onLdr ldrFresh (closeFeed s))))
  setBit { s1 with chip := { s1.chip with loadErr := true } } imgStat 8

theorem failed_loadErred (e : LdErr) (s : State) : Failed s (loadErred e s) (e.code % 256) :=
  (((failed_captured e s).around (around_hostEvent 1 _)).onChip _).setFlag (by decide)

theorem loadErred_chip (e : LdErr) (s : State) : (loadErred e s).chip = { s.chip with loadErr := true } :=
  congrArg (fun c : Chip => { c with loadErr := true }) (around_hostEvent 1 _).chip

theorem ldAbort_loading {s : State} (hkind : s.ldr.kind = 1) (h : s.chip.devState = .loading) (e : LdErr) :
    ldAbort e s = { idlePorts (loadErred e s) with chip := { (idlePorts (loadErred e s)).chip with devState := .blank } } := by
  unfold ldAbort
  rw [if_neg (not_not.2 hkind)]
  exact if_pos h

theorem ldAbort_ready {s : State} (hkind : s.ldr.kind = 1) (h : s.chip.devState ≠ .loading) (e : LdErr) :
    ldAbort e s = loadErred e s := by
  unfold ldAbort
  rw [if_neg (not_not.2 hkind)]
  exact if_neg h

/-- A load that ends at this device. -/
theorem failed_ldAbort {s : State} (hkind : s.ldr.kind = 1) (e : LdErr) :
    Failed s (ldAbort e s) (e.code % 256) ∧ (ldAbort e s).chip.loadErr = true ∧
      (ldAbort e s).chip.devState = (if s.chip.devState = .loading then .blank else s.chip.devState) := by
  have hfailed := failed_loadErred e s
  have hchip := loadErred_chip e s
  by_cases hload : s.chip.devState = .loading
  · rw [ldAbort_loading hkind hload, if_pos hload]
    generalize loadErred e s = x at hfailed hchip ⊢
    have hidle : Around x (idlePorts x) := around_idlePorts (by rw [hchip, hload]; decide)
    refine ⟨(hfailed.around hidle).onChip _, ?_, rfl⟩
    exact (congrArg Chip.loadErr hidle.chip).trans (congrArg Chip.loadErr hchip)
  · rw [ldAbort_ready hkind hload, if_neg hload, hchip]
    exact ⟨hfailed, rfl, rfl⟩

/-- The load ends with LD_ABORT to the children, at the root or on LD_ABORT from the head (R257). -/
theorem loadFails_ldAbort {s : State} (hkind : s.ldr.kind = 1) (e : LdErr) (body : List Byte) :
    LoadFails s (ldAbort e (sendServiceDown 0x16 0xFFF body s)) (e.code % 256) := by
  have hmsg := messaged_sendServiceDown 0x16 0xFFF body s
  have hdown {l : Nat} (hl : l ∈ presentLinks s) := mem_sendServiceDown hl 0x16 0xFFF body
  generalize sendServiceDown 0x16 0xFFF body s = x at hmsg hdown ⊢
  obtain ⟨hfailed, herr, hstate⟩ := failed_ldAbort (s := x) (by rw [hmsg.ldr, hkind]) e
  refine ⟨hfailed.code, hfailed.img, herr, ?_, hfailed.closed, ?_, hfailed.cl.trans hmsg.cl, fun l hl => ?_⟩
  · rw [hfailed.ldr]
    rfl
  · rw [hstate, hmsg.chip]
  · obtain ⟨src, hsrc⟩ := hdown hl
    exact ⟨src, body, hfailed.sent.subset hsrc⟩

theorem rootAbort_load {s : State} (h : s.ldr.domain = 1) (e : LdErr) :
    rootAbort e s = ldAbort e (sendServiceDown 0x16 0xFFF (errBody (some e) true) s) := if_pos h

/-- The root ends the load of its domain. -/
theorem loadFails_rootAbort {s : State} (hdomain : s.ldr.domain = 1) (hkind : s.ldr.kind = 1) (e : LdErr) :
    LoadFails s (rootAbort e s) (e.code % 256) := by
  rw [rootAbort_load hdomain]
  exact loadFails_ldAbort hkind e _

/-- The root ends the load with an error that it finds itself. -/
theorem loadFails_plainErr {s : State} (hdomain : s.ldr.domain = 1) (hkind : s.ldr.kind = 1) {code : Nat} (h : code < 256) :
    LoadFails s (rootAbort (plainErr s code) s) code := by
  have hfails := loadFails_rootAbort hdomain hkind (plainErr s code)
  rwa [plainErr, Nat.mod_eq_of_lt h] at hfails

/-! ### A vote of FAIL (R255) -/

theorem messaged_sendVote (v : Option LdErr) (s : State) :
    Messaged (onLdr (fun l => { l with voted := true }) s) (sendVote v s) := messaged_sendServiceUp ..

/-- A vote goes to the head. -/
theorem mem_sendVote {s : State} {l : Nat} (h : s.crt.uplink = some l) (v : Option LdErr) :
    ∃ src, .service l 0x13 src 0 (errBody v false) ∈ (sendVote v s).outbox :=
  mem_sendServiceUp (s := onLdr (fun l => { l with voted := true }) s) h ..

theorem votesFail_sendVote (e : LdErr) (s : State) : VotesFail s (sendVote (some e) s) e := by
  have hmsg := messaged_sendVote (some e) s
  exact ⟨congrArg Loader.voted hmsg.ldr, hmsg.cl, hmsg.chip, fun l hl => mem_sendVote hl _⟩

end Sys2Proof.Machine
end

section
/-! PROOFS. Requests to the loader: LOAD, RELOAD, ABORT, and the feed window (R249, R250, R257, R263). -/

namespace Sys2Proof.Machine

theorem presentLinks_congr {s u : State} (hreg : rdReg u (hstA 0x118) = rdReg s (hstA 0x118))
    (hchildren : u.crt.children = s.crt.children) : presentLinks u = presentLinks s := by
  unfold presentLinks rdBit
  rw [hreg, hchildren]

/-! ### The stream before its header is complete (R246, R260) -/

/-- Before 256 bytes have come the loader does nothing with them. -/
theorem ldStep_short {s : State} (h : s.ldr.stream.length < 256) : ldStep s = s := if_pos (.inr (.inr h))

theorem ldRun_short {s : State} (h : s.ldr.stream.length < 256) : ldRun s = s := by
  unfold ldRun
  generalize List.range (s.ldr.stream.length / 32 + 8) = l
  induction l with
  | nil => rfl
  | cons a l ih => rwa [List.foldl_cons, ldStep_short h]

/-- STATE shows the stream of a load from its first byte on. -/
def streamShown (s : State) : State := whenDo (decide (imgState s = 4)) (setImg 5) s

/-- What holds with STATE set and with STATE left holds of the state that shows the stream. -/
theorem streamShown_of {P : State → Prop} {s : State} (hset : imgState s = 4 → P (setImg 5 s)) (hkeep : imgState s ≠ 4 → P s) :
    P (streamShown s) := by
  unfold streamShown
  by_cases h : imgState s = 4
  · rw [decide_eq_true h]
    exact hset h
  · rw [decide_eq_false h]
    exact hkeep h

theorem streamShown_ldr (s : State) : (streamShown s).ldr = s.ldr :=
  streamShown_of (P := fun t => t.ldr = s.ldr) (fun _ => rfl) (fun _ => rfl)

theorem streamShown_outbox (s : State) : (streamShown s).outbox = s.outbox :=
  streamShown_of (P := fun t => t.outbox = s.outbox) (fun _ => rfl) (fun _ => rfl)

theorem feedPos_streamShown (s : State) : feedPos (streamShown s) = feedPos s :=
  streamShown_of (P := fun t => feedPos t = feedPos s) (fun _ => feedPos_setImg 5 s) (fun _ => rfl)

theorem imgState_streamShown {s : State} (h : imgState s = 4 ∨ imgState s = 5) : imgState (streamShown s) = 5 :=
  streamShown_of (P := fun t => imgState t = 5) (fun _ => imgState_setImg (by decide) s) (fun hne => h.resolve_left hne)

theorem imgState_streamShown_other {s : State} (h : imgState s ≠ 4) : imgState (streamShown s) = imgState s :=
  streamShown_of (P := fun t => imgState t = imgState s) (fun he => absurd he h) (fun _ => rfl)

/-- The stream takes bytes, and nothing else happens while its header is incomplete. -/
theorem streamIn_short {s : State} {bytes : List Byte} (h : s.ldr.stream.length + bytes.length < 256) :
    streamIn bytes s = streamShown (onLdr (fun l => { l with stream := l.stream ++ bytes }) s) := by
  refine ldRun_short ?_
  change (streamShown _).ldr.stream.length < 256
  rw [streamShown_ldr]
  exact (List.length_append ..).trans_lt h

/-! ### LOAD (R249) -/

/-- The root begins a load that it accepts. -/
def loadBegun (s : State) : State :=
  onLdr (fun l => { l with acks := [0] })
    (enterLoading (sendServiceDown 0x10 0xFFF (leBytes 4 1) (onLdr (fun l => { l with domain := 1 }) s)))

theorem imgLoad_accepted {s : State} (hshell : s.chip.shellUp = true) (hroot : s.crt.isRoot = true) (hfree : s.ldr.domain = 0)
    (henum : enumState s = 3) (hload : domainLoadable s = true) :
    imgLoad s = whenDo (decide (domainSize (loadBegun s) = 1)) openFeed (loadBegun s) := by
  have haccepted : rootLoad s = some (whenDo (decide (domainSize (loadBegun s) = 1)) openFeed (loadBegun s)) :=
    if_pos ⟨hroot, hfree, henum, hload⟩
  unfold imgLoad loadRequest
  rw [if_neg (by simp [hshell]), if_pos hroot, haccepted]
  rfl

theorem mayLoad_of_domainLoadable {s : State} (h : domainLoadable s = true) : mayLoad s = true := (Bool.and_eq_true_iff.1 h).1

/-- The root in Loading. -/
structure LoadBegun (s t : State) : Prop where
  state : t.chip.devState = .loading
  img : imgState t = 4
  cl : t.cl = Clusters.reset
  kind : t.ldr.kind = 1
  domain : t.ldr.domain = 1
  acks : t.ldr.acks = [0]
  size : domainSize t = domainSize s
  sent : ∀ l ∈ presentLinks s, ∃ src, .service l 0x10 src 0xFFF (leBytes 4 1) ∈ t.outbox

theorem loadBegun_begun {s : State} (h : mayLoad s = true) : LoadBegun s (loadBegun s) := by
  have hmsg := messaged_sendServiceDown 0x10 0xFFF (leBytes 4 1) (onLdr (fun l => { l with domain := 1 }) s)
  have hdown {l : Nat} (hl : l ∈ presentLinks s) := mem_sendServiceDown (s := onLdr (fun l => { l with domain := 1 }) s) hl
    0x10 0xFFF (leBytes 4 1)
  unfold loadBegun
  generalize sendServiceDown 0x10 0xFFF (leBytes 4 1) (onLdr (fun l => { l with domain := 1 }) s) = x at hmsg hdown ⊢
  have hload := entersLoading (s := x) (by rw [hmsg.chip]; exact not_running_of_mayLoad h)
  generalize enterLoading x = y at hload ⊢
  refine ⟨?_, hload.img, hload.cl, ?_, ?_, rfl, ?_, fun l hl => ?_⟩
  · exact congrArg Chip.devState hload.chip
  · exact congrArg Loader.kind hload.ldr
  · exact (congrArg Loader.domain hload.ldr).trans (congrArg Loader.domain hmsg.ldr)
  · exact hload.size.trans hmsg.around.domainSize
  · obtain ⟨src, hsrc⟩ := hdown hl
    exact ⟨src, hload.sent.subset hsrc⟩

theorem imgLoad_refused {s : State} (hshell : s.chip.shellUp = true) (hroot : s.crt.isRoot = true) (h : rootLoad s = none) :
    imgLoad s = setBit s imgStat 6 := by
  unfold imgLoad loadRequest
  rw [if_neg (by simp [hshell]), if_pos hroot, h]
  rfl

/-- A flag of a register is that register alone. -/
theorem setBit_onlyRegs (s : State) (a i : Nat) : OnlyRegs s (setBit s a i) [a] := by
  refine ⟨fun b hb => ⟨rdReg_setBit_other s i ?_, rfl⟩, rfl⟩
  rintro rfl
  exact hb (List.mem_singleton_self _)

/-! ### RELOAD and ABORT (R257, R263) -/

theorem imgReload_accepted {s : State} (hshell : s.chip.shellUp = true) (hroot : s.crt.isRoot = true) (hfree : s.ldr.domain = 0)
    (henum : enumState s = 3) :
    imgReload s = openFeed (onLdr (fun l => { ldrFresh l with resident := l.resident, lkRec := l.lkRec, domain := 2 }) s) := by
  have haccepted : rootReload s =
      some (openFeed (onLdr (fun l => { ldrFresh l with resident := l.resident, lkRec := l.lkRec, domain := 2 }) s)) :=
    if_pos ⟨hroot, hfree, henum⟩
  unfold imgReload loadRequest
  rw [if_neg (by simp [hshell]), if_pos hroot, haccepted]
  rfl

theorem imgAbort_late {s : State} (hroot : s.crt.isRoot = true) (hdomain : s.ldr.domain = 1) (hsent : s.ldr.sent = true) :
    imgAbort s = setBit s imgStat 7 := by
  unfold imgAbort rootAbortReq
  rw [if_pos hroot, if_pos hdomain, if_pos hsent]

theorem imgAbort_load {s : State} (hroot : s.crt.isRoot = true) (hdomain : s.ldr.domain = 1) (hsent : s.ldr.sent = false) :
    imgAbort s = rootAbort (plainErr s 0x27) s := by
  unfold imgAbort rootAbortReq
  rw [if_pos hroot, if_pos hdomain, if_neg (by simp [hsent])]

/-! ### Requests elsewhere than at the root (R249) -/

theorem assigned_of_route {s : State} {dev l : Nat} (h : routeTo s dev = .link l) : assigned s = true := by
  by_contra hnot
  rw [routeTo, if_pos (by simpa using hnot)] at h
  contradiction

/-- A write of another device's register travels as RREQ with its address and data (R41, R362). -/
theorem remoteIssue_write {s : State} {dev l : Nat} (hroute : routeTo s dev = .link l) (who : Requester) (a : Nat) (v : Word) :
    (∃ body, (remoteIssue who dev a true v s).outbox = .service l 1 (devAddr s) dev body :: s.outbox ∧
      body.take 5 = leBytes 5 a ∧ body.drop 8 = leBytes 4 v.toNat) ∧ (remoteIssue who dev a true v s).ldr = s.ldr ∧
      (remoteIssue who dev a true v s).regs = s.regs ∧ (remoteIssue who dev a true v s).cl = s.cl ∧
      (remoteIssue who dev a true v s).chip.devState = s.chip.devState := by
  have hbody : ((leBytes 5 a ++ leBytes 1 (b2n true) ++ leBytes 2 s.chip.nextTag ++ leBytes 4 v.toNat).take 5 = leBytes 5 a) ∧
      (leBytes 5 a ++ leBytes 1 (b2n true) ++ leBytes 2 s.chip.nextTag ++ leBytes 4 v.toNat).drop 8 = leBytes 4 v.toNat := by
    refine ⟨?_, List.drop_left' (by simp)⟩
    simp only [List.append_assoc]
    exact List.take_left' (by simp)
  unfold remoteIssue
  rw [hroute]
  dsimp only
  rw [sendService_assigned (by exact assigned_of_route hroute)]
  exact ⟨⟨_, rfl, hbody⟩, rfl, rfl, rfl, rfl⟩

theorem forwardsToRoot_loadRequest {s : State} {l : Nat} (hshell : s.chip.shellUp = true) (hroot : s.crt.isRoot = false)
    (hroute : routeTo s 0 = .link l) (bitNo : Nat) (root : State → Option State) :
    ForwardsToRoot s (loadRequest bitNo root s) l (BitVec.ofNat 32 (2 ^ bitNo + 2 ^ 31)) := by
  unfold loadRequest
  rw [if_neg (by simp [hshell]), if_neg (by simp [hroot])]
  exact remoteIssue_write hroute ..

/-! ### The feed window (R250, R251) -/

theorem exec_feedWrite_taken {s t : State} {who : Requester} (h : canIssue s who = true) {ofs : Nat} (hofs : ofs < 0x8000)
    {bytes : List Byte} (htaken : feedWrite ofs bytes s = some t) :
    exec (.feedWrite who ofs bytes) s = .next (answer who true .ok 0 t) := by
  change Host.Outcome.next (feedRequest who ofs bytes s) = _
  unfold feedRequest
  rw [if_neg (by simp [h]), if_neg (by omega), htaken]

theorem exec_feedWrite_refused {s : State} {who : Requester} (h : canIssue s who = true) {ofs : Nat} (hofs : ofs < 0x8000)
    {bytes : List Byte} (hnone : feedWrite ofs bytes s = none) :
    exec (.feedWrite who ofs bytes) s = .next (answer who true .error 0 s) := by
  change Host.Outcome.next (feedRequest who ofs bytes s) = _
  unfold feedRequest
  rw [if_neg (by simp [h]), if_neg (by omega), hnone]

theorem feedWrite_closed {s : State} (h : feedIsOpen s = false) (ofs : Nat) (bytes : List Byte) : feedWrite ofs bytes s = none :=
  if_pos (.inl (by simp [h]))

/-- An open feed window takes whole words at a word offset. -/
theorem feedTaken {s : State} {ofs : Nat} {bytes : List Byte} (hopen : feedIsOpen s = true) (hofs : ofs % 4 = 0)
    (hlen : bytes.length % 4 = 0) : ¬ (!feedIsOpen s ∨ bytes.length % 4 ≠ 0 ∨ ofs % 4 ≠ 0) := by
  simp [hopen, hofs, hlen]

theorem feedWrite_boot {s : State} {ofs : Nat} {bytes : List Byte} (hopen : feedIsOpen s = true) (hofs : ofs % 4 = 0)
    (hlen : bytes.length % 4 = 0) (hboot : s.chip.devState = .boot) :
    feedWrite ofs bytes s =
      some (putRx 3 { rxOf s 3 with buf := (rxOf s 3).buf ++ bytes } (setFeedPos (feedPos s + bytes.length) s)) := by
  unfold feedWrite
  dsimp only
  rw [if_neg (feedTaken hopen hofs hlen), if_pos hboot]
  rfl

/-- A write beyond the credit ends the load. -/
theorem feedWrite_over {s : State} {ofs : Nat} {bytes : List Byte} (hopen : feedIsOpen s = true) (hofs : ofs % 4 = 0)
    (hlen : bytes.length % 4 = 0) (hboot : s.chip.devState ≠ .boot) (hcredit : feedCredit s < bytes.length) :
    feedWrite ofs bytes s = some (rootAbort (plainErr s 0x22) s) := by
  unfold feedWrite
  dsimp only
  rw [if_neg (feedTaken hopen hofs hlen), if_neg hboot, if_pos (.inl hcredit)]

/-- Before the header is complete no length limits the stream. -/
theorem feedLimit_short {s : State} (hdomain : s.ldr.domain = 1) (h : s.ldr.stream.length < 256) : feedLimit s = none := by
  unfold feedLimit
  rw [if_pos (Or.inl hdomain)]
  exact if_neg (not_le.2 h)

/-- Bytes that the root takes join its stream and go on to its children. -/
theorem streamIn_forwarded {s : State} {bytes : List Byte} (hpos : feedPos s + bytes.length < 2 ^ 48)
    (hshort : s.ldr.stream.length + bytes.length < 256) :
    let t := streamIn bytes (sendServiceDown 0x12 0xFFF (leBytes 6 (feedPos s) ++ bytes)
      (setFeedPos (feedPos s + bytes.length) s))
    t.ldr.stream = s.ldr.stream ++ bytes ∧ feedPos t = feedPos s + bytes.length ∧
      ∀ l ∈ presentLinks s, ∃ src, .service l 0x12 src 0xFFF (leBytes 6 (feedPos s) ++ bytes) ∈ t.outbox := by
  have hmsg := messaged_sendServiceDown 0x12 0xFFF (leBytes 6 (feedPos s) ++ bytes) (setFeedPos (feedPos s + bytes.length) s)
  have hlinks : presentLinks (setFeedPos (feedPos s + bytes.length) s) = presentLinks s := by
    refine presentLinks_congr ?_ rfl
    exact (rdReg_wrReg_other _ _ (by decide)).trans (rdReg_wrReg_other _ _ (by decide))
  have hdown {l : Nat} (hl : l ∈ presentLinks s) := mem_sendServiceDown (hlinks ▸ hl) 0x12 0xFFF (leBytes 6 (feedPos s) ++ bytes)
  have hset := feedPos_setFeedPos hpos s
  generalize sendServiceDown 0x12 0xFFF _ _ = x at hmsg hdown ⊢
  have hstream : x.ldr.stream = s.ldr.stream := congrArg Loader.stream hmsg.ldr
  dsimp only
  rw [streamIn_short (by rwa [hstream]), streamShown_ldr, feedPos_streamShown, streamShown_outbox]
  refine ⟨congrArg (· ++ bytes) hstream, ?_, fun l hl => hdown hl⟩
  exact hmsg.around.feedPos.trans hset

theorem feedWrite_load {s : State} {ofs : Nat} {bytes : List Byte} (hopen : feedIsOpen s = true) (hofs : ofs % 4 = 0)
    (hlen : bytes.length % 4 = 0) (hboot : s.chip.devState ≠ .boot) (hdomain : s.ldr.domain = 1)
    (hcredit : bytes.length ≤ feedCredit s) (hshort : s.ldr.stream.length < 256) :
    feedWrite ofs bytes s = some (streamIn bytes (sendServiceDown 0x12 0xFFF (leBytes 6 (feedPos s) ++ bytes)
      (setFeedPos (feedPos s + bytes.length) s))) := by
  have hfits : ¬ (feedCredit s < bytes.length ∨
      (feedLimit s).any (fun len => decide (len < feedPos s + bytes.length)) = true) := by
    rw [feedLimit_short hdomain hshort]
    simp [hcredit]
  unfold feedWrite
  dsimp only
  rw [if_neg (feedTaken hopen hofs hlen), if_neg hboot, if_neg hfits]
  exact congrArg some (if_pos hdomain)

end Sys2Proof.Machine

open Sys2Proof Sys2Proof.Machine

/-- Settles O33: a request is a write of IMG_CTRL, whose effect each case names; a load that ends does so by `loadFails_plainErr`.
The value that a forwarded request writes is assumption log 44, and E_FEED beyond the credit is log 47. -/
theorem loadRequests : Obligations.LoadRequests := by
  unfold Obligations.LoadRequests
  refine ⟨?root, ?forwarded, ?feed⟩
  case root =>
    intro s who hreach hshell hroot
    refine ⟨fun hfree henum hload => ?_, fun hnone => ?_, fun hfree henum => ?_, fun hdomain hsent => ?_,
      fun hdomain hkind hsent => ?_⟩
    · have hbegun := loadBegun_begun (mayLoad_of_domainLoadable hload)
      refine ⟨_, exec_load hreach, ?_⟩
      rw [imgLoad_accepted hshell hroot hfree henum hload]
      generalize loadBegun s = x at hbegun ⊢
      rw [hbegun.size]
      obtain ⟨hstate, himg, hcl, hkind, hdomain, hacks, -, hsent⟩ := hbegun
      by_cases hsize : domainSize s = 1
      · rw [decide_eq_true hsize]
        refine ⟨hstate, (imgState_openFeed x).trans himg, hcl, hkind, hdomain, hacks, fun _ => ?_, hsent⟩
        exact ⟨feedIsOpen_openFeed x, feedPos_openFeed x⟩
      · rw [decide_eq_false hsize]
        exact ⟨hstate, himg, hcl, hkind, hdomain, hacks, fun h => absurd h hsize, hsent⟩
    · refine ⟨_, exec_load hreach, ?_⟩
      rw [imgLoad_refused hshell hroot hnone]
      exact ⟨rdBit_setBit_same s imgStat (by decide), setBit_onlyRegs ..⟩
    · refine ⟨_, exec_reload hreach, ?_⟩
      rw [imgReload_accepted hshell hroot hfree henum]
      exact ⟨feedIsOpen_openFeed _, feedPos_openFeed _, rfl, rfl, rfl, rfl⟩
    · refine ⟨_, exec_abort hreach, ?_⟩
      rw [imgAbort_late hroot hdomain hsent]
      exact ⟨rdBit_setBit_same s imgStat (by decide), setBit_onlyRegs ..⟩
    · refine ⟨_, exec_abort hreach, ?_⟩
      rw [imgAbort_load hroot hdomain hsent]
      exact loadFails_plainErr hdomain hkind (by decide)
  case forwarded =>
    intro s who l hreach hshell hroot hroute
    exact ⟨⟨_, exec_load hreach, forwardsToRoot_loadRequest hshell hroot hroute 0 rootLoad⟩,
      ⟨_, exec_reload hreach, forwardsToRoot_loadRequest hshell hroot hroute 1 rootReload⟩⟩
  case feed =>
    intro s who ofs bytes hissue hofs
    refine ⟨fun hclosed => exec_feedWrite_refused hissue hofs (feedWrite_closed hclosed ofs bytes),
      fun hopen haligned hlen hpos => ⟨fun hboot => ?_, fun hboot hdomain hkind hcredit hshort => ?_,
        fun hboot hdomain hkind hcredit => ?_⟩⟩
    · have hexec := exec_feedWrite_taken hissue hofs (feedWrite_boot hopen haligned hlen hboot)
      exact ⟨_, hexec, congrArg ShellRx.buf (rxOf_putRx_same ..), feedPos_setFeedPos hpos s⟩
    · have hexec := exec_feedWrite_taken hissue hofs
        (feedWrite_load hopen haligned hlen hboot hdomain hcredit (by omega))
      exact ⟨_, hexec, streamIn_forwarded hpos hshort⟩
    · have hexec := exec_feedWrite_taken hissue hofs (feedWrite_over hopen haligned hlen hboot hcredit)
      exact ⟨_, hexec, loadFails_plainErr hdomain hkind (by decide)⟩

end

section
/-! PROOFS. The broadcast of a load: LD_BEGIN, LD_ACK, LD_DATA, the timeouts and LD_ABORT (R246, R249, R252, R257, R258). -/

namespace Sys2Proof.Machine

/-! ### Messages of the head and of children -/

theorem uplink_of_fromUp {s : State} {l : Nat} (h : fromUp s l = true) : s.crt.uplink = some l :=
  of_decide_eq_true (Bool.and_eq_true_iff.1 h).1

/-- A message that did arrive is acted on. -/
theorem not_ignored {b : Bool} (h : b = true) : ¬ (!b) = true := by simp [h]

theorem relayUp_outbox {s : State} {k : Nat} (h : s.crt.uplink = some k) (opc src dst : Nat) (body : List Byte) :
    (relayUp opc src dst body s).outbox = .service k opc src dst body :: s.outbox ∧ (relayUp opc src dst body s).ldr = s.ldr := by
  rw [relayUp_of_uplink h]
  exact ⟨rfl, rfl⟩

/-! ### LD_BEGIN (R249, R263) -/

theorem ldBegin_load {s : State} {l : Nat} (h : fromUp s l = true) (hload : mayLoad s = true) (target : Nat) :
    ldBegin l 1 target s = sendServiceUp 0x11 0 [] (enterLoading (sendServiceDown 0x10 0xFFF (leBytes 4 1) s)) := by
  have hmay : mayLoad (sendServiceDown 0x10 0xFFF (leBytes 4 1) s) = true := by
    unfold mayLoad
    rwa [(messaged_sendServiceDown ..).chip]
  unfold ldBegin
  rw [if_neg (not_ignored h), if_pos rfl]
  exact if_pos hmay

theorem ldBegin_running {s : State} {l : Nat} (h : fromUp s l = true) (hrun : s.chip.devState = .running) (target : Nat) :
    ldBegin l 1 target s = sendServiceDown 0x10 0xFFF (leBytes 4 1) s := by
  have hnot : mayLoad (sendServiceDown 0x10 0xFFF (leBytes 4 1) s) = false := by
    unfold mayLoad
    rw [(messaged_sendServiceDown ..).chip, hrun]
    rfl
  unfold ldBegin
  rw [if_neg (not_ignored h), if_pos rfl]
  exact if_neg (by simp [hnot])

theorem ldBegin_reload {s : State} {l target : Nat} (h : fromUp s l = true) (hroute : routeTo s target = .self)
    (hkind : s.ldr.kind = 0) :
    ldBegin l 2 target s =
      setImg 12 (onLdr (fun x => { ldrFresh x with resident := x.resident, lkRec := x.lkRec, kind := 2 }) s) := by
  unfold ldBegin
  rw [if_neg (not_ignored h), if_neg (by decide), if_pos rfl, hroute]
  exact if_pos hkind

theorem ldBegin_relayed {s : State} {l k target : Nat} (h : fromUp s l = true) (hroute : routeTo s target = .link k) :
    ldBegin l 2 target s = relayService k 0x10 0 target (leBytes 2 2 ++ leBytes 2 target) s := by
  unfold ldBegin
  rw [if_neg (not_ignored h), if_neg (by decide), if_pos rfl, hroute]

/-- A device begins the load of its head: LD_BEGIN goes down, the device enters Loading, LD_ACK goes up. -/
theorem ldBegin_begins {s : State} {l : Nat} (h : fromUp s l = true) (hload : mayLoad s = true) (target : Nat) :
    ∃ src, (ldBegin l 1 target s).chip.devState = .loading ∧ imgState (ldBegin l 1 target s) = 4 ∧
      (ldBegin l 1 target s).cl = Clusters.reset ∧ (ldBegin l 1 target s).spr.tick = 0 ∧ (ldBegin l 1 target s).ldr.kind = 1 ∧
      (ldBegin l 1 target s).ldr.stream = [] ∧ (ldBegin l 1 target s).ldr.staged = [] ∧
      .service l 0x11 src 0 [] ∈ (ldBegin l 1 target s).outbox ∧
      ∀ c ∈ presentLinks s, ∃ src, .service c 0x10 src 0xFFF (leBytes 4 1) ∈ (ldBegin l 1 target s).outbox := by
  have hmsg := messaged_sendServiceDown 0x10 0xFFF (leBytes 4 1) s
  have hdown {c : Nat} (hc : c ∈ presentLinks s) := mem_sendServiceDown hc 0x10 0xFFF (leBytes 4 1)
  rw [ldBegin_load h hload]
  generalize sendServiceDown 0x10 0xFFF (leBytes 4 1) s = x at hmsg hdown ⊢
  have hentered := entersLoading (s := x) (by rw [hmsg.chip]; exact not_running_of_mayLoad hload)
  generalize enterLoading x = y at hentered ⊢
  have huplink : y.crt.uplink = some l := by rw [hentered.uplink, hmsg.around.uplink, uplink_of_fromUp h]
  obtain ⟨src, hack⟩ := mem_sendServiceUp huplink 0x11 0 []
  have hup := messaged_sendServiceUp 0x11 0 [] y
  generalize sendServiceUp 0x11 0 [] y = t at hack hup ⊢
  rw [hup.chip, hup.cl, hup.spr, hup.ldr, hup.around.imgState, hentered.ldr]
  refine ⟨src, ?_, hentered.img, hentered.cl, hentered.tick, rfl, rfl, rfl, hack, fun c hc => ?_⟩
  · rw [hentered.chip]
  · obtain ⟨from', hbegin⟩ := hdown hc
    exact ⟨from', hup.sent.subset (hentered.sent.subset hbegin)⟩

/-! ### LD_ACK (R249) -/

theorem ldAck_root {s : State} {l src : Nat} (h : fromDown s l = true) (hroot : s.crt.isRoot = true) (hdomain : s.ldr.domain = 1)
    (hnew : src ∉ s.ldr.acks) :
    ldAck l src s = if s.ldr.acks.length + 1 = domainSize s then openFeed (onLdr (fun x => { x with acks := x.acks ++ [src] }) s)
      else onLdr (fun x => { x with acks := x.acks ++ [src] }) s := by
  have hcount : (s.ldr.acks ++ [src]).length = s.ldr.acks.length + 1 := List.length_append ..
  unfold ldAck
  rw [if_neg (not_ignored h), if_neg (by simp [hroot]), if_neg (by simp [hdomain, hnew])]
  exact if_congr (iff_of_eq (congrArg (· = domainSize s) hcount)) rfl rfl

theorem ldAck_relayed {s : State} {l : Nat} (h : fromDown s l = true) (hroot : s.crt.isRoot = false) (src : Nat) :
    ldAck l src s = relayUp 0x11 src 0 [] s := by
  unfold ldAck
  rw [if_neg (not_ignored h), if_pos (by simp [hroot])]

/-! ### LD_DATA (R246, R252) -/

theorem ldData_load {s : State} {l : Nat} (h : fromUp s l = true) (hkind : s.ldr.kind = 1) (hload : s.chip.devState = .loading)
    (bytes : List Byte) :
    ldData l s.ldr.stream.length 0xFFF bytes s =
      streamIn bytes (sendServiceDown 0x12 0xFFF (leBytes 6 s.ldr.stream.length ++ bytes) s) := by
  have hmsg := messaged_sendServiceDown 0x12 0xFFF (leBytes 6 s.ldr.stream.length ++ bytes) s
  unfold ldData
  rw [if_neg (not_ignored h), if_pos rfl]
  refine if_pos ?_
  rw [hmsg.ldr, hmsg.chip]
  exact ⟨hkind, rfl, hload⟩

theorem ldData_reload {s : State} {l dst : Nat} (h : fromUp s l = true) (hkind : s.ldr.kind = 2)
    (hroute : routeTo s dst = .self) (hdst : dst ≠ 0xFFF) (bytes : List Byte) :
    ldData l s.ldr.stream.length dst bytes s = streamIn bytes s := by
  unfold ldData
  dsimp only
  rw [if_neg (not_ignored h), if_neg hdst, hroute]
  exact if_pos ⟨hkind, rfl⟩

/-- LD_DATA of a load joins the stream and goes on to the children. -/
theorem ldData_streams {s : State} {l : Nat} {bytes : List Byte} (h : fromUp s l = true) (hkind : s.ldr.kind = 1)
    (hload : s.chip.devState = .loading) (hshort : s.ldr.stream.length + bytes.length < 256)
    (himg : imgState s = 4 ∨ imgState s = 5) :
    let t := ldData l s.ldr.stream.length 0xFFF bytes s
    t.ldr.stream = s.ldr.stream ++ bytes ∧ imgState t = 5 ∧
      ∀ c ∈ presentLinks s, ∃ src, .service c 0x12 src 0xFFF (leBytes 6 s.ldr.stream.length ++ bytes) ∈ t.outbox := by
  have hmsg := messaged_sendServiceDown 0x12 0xFFF (leBytes 6 s.ldr.stream.length ++ bytes) s
  have hdown {c : Nat} (hc : c ∈ presentLinks s) := mem_sendServiceDown hc 0x12 0xFFF (leBytes 6 s.ldr.stream.length ++ bytes)
  dsimp only
  rw [ldData_load h hkind hload]
  generalize sendServiceDown 0x12 0xFFF _ s = x at hmsg hdown ⊢
  have hstream : x.ldr.stream = s.ldr.stream := congrArg Loader.stream hmsg.ldr
  rw [streamIn_short (by rwa [hstream]), streamShown_ldr, streamShown_outbox]
  refine ⟨congrArg (· ++ bytes) hstream, imgState_streamShown ?_, fun c hc => hdown hc⟩
  rwa [imgState_onLdr, hmsg.around.imgState]

/-! ### LD_ABORT (R257) -/

theorem ldAbortMsg_load {s : State} {l : Nat} (h : fromUp s l = true) (e : LdErr) :
    ldAbortMsg l 0xFFF e s = ldAbort e (sendServiceDown 0x16 0xFFF (errBody (some e) true) s) := by
  unfold ldAbortMsg
  rw [if_neg (not_ignored h), if_pos rfl]

end Sys2Proof.Machine

open Sys2Proof Sys2Proof.Machine

/-- Settles O34: each message by what its handler does (`ldBegin_begins`, `ldAck_root`, `ldData_streams`), and each end of a load by
`loadFails_plainErr` or `loadFails_ldAbort`. The SRC of a relayed LD_BEGIN is assumption log 50; a message that the state does not
allow changes nothing by log 3. -/
theorem loadBroadcast : Obligations.LoadBroadcast := by
  unfold Obligations.LoadBroadcast
  refine ⟨?begin, ?ack, ?data, ?late, ?vote, ?abort⟩
  case begin =>
    intro s l target hup
    refine ⟨fun hstate => ?_, fun hrun => ?_, fun hroute hkind => ?_, fun k hroute => ?_⟩
    · have hload : mayLoad s = true := by
        rcases hstate with hstate | hstate | hstate <;> simp [mayLoad, hstate]
      obtain ⟨src, hbegins⟩ := ldBegin_begins hup hload target
      exact ⟨_, src, rfl, hbegins⟩
    · have hmsg := messaged_sendServiceDown 0x10 0xFFF (leBytes 4 1) s
      refine ⟨_, congrArg Host.Outcome.next (ldBegin_running hup hrun target), ?_⟩
      exact ⟨hmsg.chip, hmsg.cl, hmsg.ldr, hmsg.regs⟩
    · refine ⟨_, congrArg Host.Outcome.next (ldBegin_reload hup hroute hkind), ?_⟩
      exact ⟨imgState_setImg (by decide) _, rfl, rfl, rfl, rfl⟩
    · exact ⟨_, congrArg Host.Outcome.next (ldBegin_relayed hup hroute), rfl, rfl⟩
  case ack =>
    intro s l src hdown
    refine ⟨fun hroot hdomain hnew => ?_, fun hroot k hup => ?_⟩
    · refine ⟨_, congrArg Host.Outcome.next (ldAck_root hdown hroot hdomain hnew), ?_⟩
      by_cases hall : s.ldr.acks.length + 1 = domainSize s
      · rw [if_pos hall, if_pos hall]
        exact ⟨rfl, feedIsOpen_openFeed _, feedPos_openFeed _⟩
      · rw [if_neg hall, if_neg hall]
        exact ⟨rfl, rfl⟩
    · exact ⟨_, congrArg Host.Outcome.next (ldAck_relayed hdown hroot src), relayUp_outbox hup ..⟩
  case data =>
    intro s l bytes hup hshort
    refine ⟨fun hkind hload himg => ⟨_, rfl, ldData_streams hup hkind hload hshort himg⟩, fun hkind hroute hdst himg => ?_⟩
    refine ⟨_, congrArg Host.Outcome.next (ldData_reload hup hkind hroute hdst bytes), ?_⟩
    rw [streamIn_short hshort, streamShown_ldr, imgState_streamShown_other (by rw [imgState_onLdr, himg]; decide)]
    exact ⟨rfl, himg⟩
  case late =>
    intro s hroot hdomain hkind
    refine ⟨fun hmissing => ?_, fun hopen => ?_, fun hwaiting hload => ?_⟩
    · exact ⟨_, congrArg Host.Outcome.next (if_pos ⟨hroot, hdomain, hmissing⟩), loadFails_plainErr hdomain hkind (by decide)⟩
    · have hstalled : s.crt.isRoot = true ∧ s.ldr.domain ≠ 0 ∧ feedIsOpen s = true := ⟨hroot, by simp [hdomain], hopen⟩
      exact ⟨_, congrArg Host.Outcome.next (if_pos hstalled), loadFails_plainErr hdomain hkind (by decide)⟩
    · refine ⟨_, congrArg Host.Outcome.next ((if_pos ⟨hwaiting, hload⟩).trans (if_pos hroot)), ?_⟩
      exact loadFails_plainErr hdomain hkind (by decide)
  case vote =>
    intro s hroot hwaiting hload
    refine ⟨_, congrArg Host.Outcome.next ((if_pos ⟨hwaiting, hload⟩).trans (if_neg (by simp [hroot]))), ?_⟩
    exact votesFail_sendVote ..
  case abort =>
    intro s l e hup hkind hcode
    have hfails := loadFails_ldAbort hkind e (errBody (some e) true)
    rw [Nat.mod_eq_of_lt hcode] at hfails
    exact ⟨_, congrArg Host.Outcome.next (ldAbortMsg_load hup e), hfails⟩

end

section
/-! PROOFS. What the sections of an image write (R241, R242, R256): registers, clusters, the cellar, and LINKREC records. -/

namespace Sys2Proof.Machine

/-- From `s` to `u` sections are written. -/
def Writes (s u : State) : Prop :=
  u = { s with
    regs := u.regs, cl := u.cl, cel := u.cel, att := u.att, lnk := u.lnk
    ldr := { s.ldr with lkRec := u.ldr.lkRec } }

namespace Writes

theorem refl (s : State) : Writes s s := rfl

theorem trans {s u v : State} (h : Writes s u) (k : Writes u v) : Writes s v := by
  unfold Writes at h k ⊢
  rw [k, h]

theorem chip {s u : State} (h : Writes s u) : u.chip = s.chip := by rw [h]
theorem spr {s u : State} (h : Writes s u) : u.spr = s.spr := by rw [h]
theorem crt {s u : State} (h : Writes s u) : u.crt = s.crt := by rw [h]
theorem ldr {s u : State} (h : Writes s u) : u.ldr = { s.ldr with lkRec := u.ldr.lkRec } := by rw [h]

theorem foldl {α : Type} {f : State → α → State} (hf : ∀ x a, Writes x (f x a)) (l : List α) (s : State) :
    Writes s (l.foldl f s) := by
  induction l generalizing s with
  | nil => exact .refl s
  | cons a l ih => exact (hf s a).trans (ih _)

end Writes

theorem CellarWorks.writes {s u : State} (h : CellarWorks s u) : Writes s u := by
  unfold Writes
  rw [h.frame]

theorem writes_wrFld (a lo n x : Nat) (s : State) : Writes s (wrFld s a lo n x) := rfl

theorem writes_ldReg (a v : Nat) (s : State) : Writes s (ldReg a v s) := by
  unfold ldReg
  split
  · rfl
  · exact .refl s

theorem writes_ldWords (t : List Byte) (at0 n : Nat) (addr : Nat → Nat) (s : State) : Writes s (ldWords t at0 n addr s) :=
  .foldl (fun _ _ => writes_ldReg ..) _ s

theorem writes_pondWrite (p n a : Nat) (v : Ctx) (s : State) : Writes s (pondWrite p n a v s) := rfl

theorem writes_rowWrite (k lo n : Nat) (x : BitVec 64) (s : State) : Writes s (rowWrite k lo n x s) := rfl

theorem writes_ldRows (p r ofs : Nat) (t : List Byte) (s : State) : Writes s (ldRows p r ofs t s) :=
  .foldl (fun _ _ => writes_rowWrite ..) _ s

theorem writes_ldBorder (h : Nat) (t : List Byte) (s : State) : Writes s (ldBorder h t s) := by
  unfold ldBorder
  refine .trans ?_ (writes_wrFld ..)
  refine .trans ?_ (writes_ldWords ..)
  rfl

theorem writes_ldLinkRec (t : List Byte) (s : State) : Writes s (ldLinkRec t s) := by
  refine .foldl (fun x i => ?_) _ s
  refine .trans ?_ (writes_ldWords ..)
  rfl

theorem writes_ldStreamMap (l : Nat) (t : List Byte) (s : State) : Writes s (ldStreamMap l t s) := rfl

theorem writes_ldCmpMap (t : List Byte) (s : State) : Writes s (ldCmpMap t s) := by
  unfold ldCmpMap
  refine .trans ?_ (writes_ldWords ..)
  iterate 2 refine .trans ?_ (writes_ldWords ..)
  exact writes_ldWords ..

theorem writes_ldFlops (p : Nat) (t : List Byte) (s : State) : Writes s (ldFlops p t s) :=
  .foldl (fun _ _ => (writes_pondWrite ..).trans (writes_pondWrite ..)) _ s

theorem writes_putBpEntry (k : Nat) (w : BitVec 72) (s : State) : Writes s (putBpEntry k w s) := rfl

theorem writes_putWeEntry (k : Nat) (w : BitVec 64) (s : State) : Writes s (putWeEntry k w s) := rfl

theorem writes_ldBpi (p : Nat) (e : ImgSect) (t : List Byte) (s : State) : Writes s (ldBpi p e t s) :=
  .foldl (fun _ _ => writes_putBpEntry ..) _ s

theorem writes_ldWen (p : Nat) (e : ImgSect) (t : List Byte) (s : State) : Writes s (ldWen p e t s) :=
  .foldl (fun _ _ => writes_putWeEntry ..) _ s

theorem writes_ldBpc (p : Nat) (t : List Byte) (s : State) : Writes s (ldBpc p t s) :=
  .foldl (fun _ _ => writes_ldWords ..) _ s

theorem writes_ldWenCfg (p : Nat) (t : List Byte) (s : State) : Writes s (ldWenCfg p t s) :=
  .foldl (fun _ _ => writes_ldWords ..) _ s

theorem writes_ldDecl (p : Nat) (t : List Byte) (s : State) : Writes s (ldDecl p t s) :=
  .foldl (fun _ _ => writes_ldReg ..) _ s

/-- Every section but SCRIPT, which also sets the length of the script. -/
theorem writes_ldSection {q : Staged} (h : q.sect.typ ≠ 0x02) (s : State) : Writes s (ldSection q s) := by
  unfold ldSection
  dsimp only
  split
  case h_1 => exact (writes_ldWords ..).trans (writes_ldReg ..)
  case h_2 htyp => exact absurd htyp h
  case h_3 => exact writes_ldLinkRec ..
  case h_4 => exact writes_ldStreamMap ..
  case h_5 => exact writes_ldCmpMap ..
  case h_6 => exact writes_ldWords ..
  case h_7 => exact writes_ldBpi ..
  case h_8 => exact writes_ldBpc ..
  case h_9 => exact writes_ldFlops ..
  case h_10 => exact writes_ldWen ..
  case h_11 => exact writes_ldWenCfg ..
  case h_12 => exact writes_ldDecl ..
  case h_13 => exact writes_ldRows ..
  case h_14 => exact writes_ldWords ..
  case h_15 => exact writes_ldWords ..
  case h_16 => exact writes_ldBorder ..
  case h_17 => exact .refl s

/-- Sections without a SCRIPT. -/
theorem writes_writeSections {l : List Staged} (h : ∀ q ∈ l, q.sect.typ ≠ 0x02) (s : State) : Writes s (writeSections l s) := by
  unfold writeSections
  induction l generalizing s with
  | nil => exact .refl s
  | cons q l ih =>
    obtain ⟨hq, hl⟩ := List.forall_mem_cons.1 h
    exact (writes_ldSection hq s).trans (ih hl _)

theorem writes_ldScript (t : List Byte) (s : State) :
    Writes { s with spr := { s.spr with scriptLen := t.length / 8 } } (ldScript t s) := by
  have hwords := writes_ldWords t 0 (2 * (t.length / 8)) (fun i => sprA (0x400 + 4 * i)) s
  unfold ldScript Writes
  dsimp only
  rw [hwords]

/-! ### Initial frames (R123) -/

theorem writes_putFrames (p r : Nat) (l : List Frame) (s : State) : Writes s (putFrames p r l s) :=
  .trans (u := { s with cl := { s.cl with frames := mapSet [] s.cl.frames (kRoom p r) l } }) rfl (writes_wrFld ..)

theorem writes_fillInitial (q : Staged) (s : State) : Writes s (fillInitial q s) := by
  unfold fillInitial
  split
  · exact .refl s
  · refine .foldl (fun x r => ?_) _ s
    dsimp only
    split
    · exact (writes_putFrames ..).trans (.foldl (fun y f => writes_ldRows ..) _ _)
    · exact .refl x

/-! ### What every section leaves -/

/-- From `s` to `u` the chip and the loader keep all but LINKREC records. -/
def KeepsLoader (s u : State) : Prop :=
  u.chip = s.chip ∧ u.ldr = { s.ldr with lkRec := u.ldr.lkRec }

theorem Writes.keepsLoader {s u : State} (h : Writes s u) : KeepsLoader s u := ⟨h.chip, h.ldr⟩

theorem KeepsLoader.trans {s u v : State} (h : KeepsLoader s u) (k : KeepsLoader u v) : KeepsLoader s v := by
  obtain ⟨hchip, hldr⟩ := h
  obtain ⟨kchip, kldr⟩ := k
  refine ⟨kchip.trans hchip, ?_⟩
  rw [kldr, hldr]

theorem keepsLoader_ldSection (q : Staged) (s : State) : KeepsLoader s (ldSection q s) := by
  by_cases h : q.sect.typ = 0x02
  · have hscript : ldSection q s = ldScript q.text s := by
      unfold ldSection
      dsimp only
      rw [h]
      rfl
    rw [hscript]
    exact (writes_ldScript q.text s).keepsLoader
  · exact (writes_ldSection h s).keepsLoader

theorem keepsLoader_writeSections (l : List Staged) (s : State) : KeepsLoader s (writeSections l s) := by
  unfold writeSections
  induction l generalizing s with
  | nil => exact ⟨rfl, rfl⟩
  | cons q l ih => exact (keepsLoader_ldSection q s).trans (ih _)

end Sys2Proof.Machine
end

section
/-! PROOFS. Votes, commit and entry to Ready (R255 to R257). -/

namespace Sys2Proof.Machine

/-! ### Votes (R255) -/

/-- Every child has voted PASS. -/
theorem all_votes {s u : State} (hlinks : presentLinks u = presentLinks s) (hvotes : u.ldr.votes = s.ldr.votes)
    (h : ∀ l ∈ presentLinks s, (l, none) ∈ s.ldr.votes) :
    (presentLinks u).all (fun l => u.ldr.votes.contains (l, none)) = true := by
  rw [hlinks, hvotes]
  exact List.all_eq_true.2 fun l hl => List.contains_iff_mem.2 (h l hl)

/-- What a device that passes its own checks is, before it votes. -/
def checksPassed (s : State) : State := setImg 7 (onLdr (fun l => { l with mine := some none }) s)

theorem presentLinks_checksPassed (s : State) : presentLinks (checksPassed s) = presentLinks s :=
  presentLinks_congr (rdReg_setImg_other 7 _ (by decide)) rfl

theorem loadChecksDone_pass {s : State} (hkind : s.ldr.kind = 1) (himg : imgState s = 6) (hmine : s.ldr.mine = none)
    (h : firstFinding (imageFindings s.ldr.staged s) = none) : loadChecksDone s = voteIfDone id (checksPassed s) := by
  unfold loadChecksDone
  rw [if_neg (by simp [hkind, himg, hmine]), h]
  rfl

theorem loadChecksDone_fail {s : State} (hkind : s.ldr.kind = 1) (himg : imgState s = 6) (hmine : s.ldr.mine = none) {f : Finding}
    (h : firstFinding (imageFindings s.ldr.staged s) = some f) : loadChecksDone s = ldFail (findErr (devAddr s) f) s := by
  unfold loadChecksDone
  rw [if_neg (by simp [hkind, himg, hmine]), h]

theorem voteIfDone_passed {s : State} (hkind : s.ldr.kind = 1) (hvoted : s.ldr.voted = false)
    (hvotes : ∀ l ∈ presentLinks s, (l, none) ∈ s.ldr.votes) (commit : State → State) :
    voteIfDone commit (checksPassed s) =
      if s.crt.isRoot then rootLdCommit commit (onLdr (fun l => { l with voted := true }) (checksPassed s))
      else sendVote none (checksPassed s) := by
  have hall := all_votes (u := checksPassed s) (presentLinks_checksPassed s) rfl hvotes
  unfold voteIfDone
  exact if_pos ⟨hkind, rfl, hall, hvoted⟩

/-- A device that is not the root and waits for no vote votes PASS. -/
theorem passed_below {s : State} :
    let t := sendVote none (checksPassed s)
    t.cl = s.cl ∧ t.ldr.mine = some none ∧ t.ldr.voted = true ∧ imgState t = 7 ∧ t.chip = s.chip ∧
      ∀ l, s.crt.uplink = some l → ∃ src, .service l 0x13 src 0 (leBytes 12 0) ∈ t.outbox := by
  have hmsg := messaged_sendVote none (checksPassed s)
  have hup {l : Nat} (hl : s.crt.uplink = some l) := mem_sendVote (s := checksPassed s) hl none
  dsimp only
  rw [hmsg.cl, hmsg.ldr, hmsg.chip, hmsg.around.imgState, imgState_onLdr]
  exact ⟨rfl, rfl, rfl, imgState_setImg (by decide) _, rfl, fun l hl => hup hl⟩

/-- The root that waits for no vote orders the commit. -/
theorem passed_root {s : State} :
    let t := rootLdCommit id (onLdr (fun l => { l with voted := true }) (checksPassed s))
    t.cl = s.cl ∧ t.ldr.mine = some none ∧ t.ldr.voted = true ∧ imgState t = 7 ∧ t.chip = s.chip ∧ t.ldr.sent = true ∧
      feedIsOpen t = false ∧ ∀ l ∈ presentLinks s, ∃ src, .service l 0x14 src 0xFFF [] ∈ t.outbox := by
  let x := closeFeed (onLdr (fun l => { l with sent := true }) (onLdr (fun l => { l with voted := true }) (checksPassed s)))
  have hmsg := messaged_sendServiceDown 0x14 0xFFF [] x
  have hlinks : presentLinks x = presentLinks s :=
    (presentLinks_congr (rdReg_clrBit_other _ 5 (by decide)) rfl).trans (presentLinks_checksPassed s)
  have himg : imgState x = 7 := (imgState_closeFeed _).trans (imgState_setImg (by decide) _)
  have hdown {l : Nat} (hl : l ∈ presentLinks s) := mem_sendServiceDown (hlinks ▸ hl) 0x14 0xFFF []
  have ht : rootLdCommit id (onLdr (fun l => { l with voted := true }) (checksPassed s)) = sendServiceDown 0x14 0xFFF [] x := rfl
  dsimp only
  rw [ht, hmsg.cl, hmsg.ldr, hmsg.chip, hmsg.around.imgState, hmsg.around.feedIsOpen]
  exact ⟨rfl, rfl, rfl, himg, rfl, rfl, feedIsOpen_closeFeed _, fun l hl => hdown hl⟩

/-- A finding of this device, before it is told (R257). -/
theorem ldFail_eq {s : State} (hkind : s.ldr.kind = 1) (hmine : s.ldr.mine = none) (e : LdErr) :
    ldFail e s = if s.crt.isRoot then rootAbort e (onLdr (fun l => { l with mine := some (some e) }) s)
      else sendVote (some e) (onLdr (fun l => { l with mine := some (some e) }) s) := by
  unfold ldFail
  rw [if_neg (by simp [hkind, hmine])]
  dsimp only
  rw [if_neg (c := _ = 2) (by simp [onLdr, hkind])]
  rfl

/-- The vote of a child that passes waits for this device's own. -/
theorem ldVote_pass {s : State} {l : Nat} (hdown : fromDown s l = true) (hkind : s.ldr.kind = 1) (hwait : s.ldr.waiting = false)
    (hmine : s.ldr.mine = none) (src : Nat) :
    ldVote l src none s = onLdr (fun x => { x with votes := (x.votes.filter (fun q => q.1 ≠ l)) ++ [(l, none)] }) s := by
  unfold ldVote
  rw [if_neg (not_ignored hdown), if_pos ⟨hkind, .inl hwait⟩]
  dsimp only
  unfold voteIfDone
  exact if_neg (by simp [onLdr, hmine])

theorem ldVote_fail {s : State} {l : Nat} (hdown : fromDown s l = true) (hkind : s.ldr.kind = 1) (hwait : s.ldr.waiting = false)
    (hvoted : s.ldr.voted = false) (src : Nat) (e : LdErr) :
    ldVote l src (some e) s = if s.crt.isRoot then rootAbort e s else sendVote (some e) s := by
  unfold ldVote
  rw [if_neg (not_ignored hdown), if_pos ⟨hkind, .inl hwait⟩]
  dsimp only
  rw [if_neg (c := _ ∧ _) (by simp [hvoted])]

/-! ### LD_COMMIT (R256) -/

/-- The image is in force: its identity is in IMG_ID and the loader keeps the resident copy. -/
def imageTaken (s x : State) : State :=
  let id := (imgHdr s.ldr.stream).imageId
  onLdr (fun l => { l with
    resident := s.ldr.staged.filter (fun q => q.sect.typ ≠ 0x17), staged := [], stream := [], waiting := true })
    ((List.range 4).foldl (fun acc i => wrReg acc (imgA (0x30 + 4 * i)) (BitVec.ofNat 32 (leAt id (4 * i) 4))) x)

/-- The commit of a device that has voted PASS. -/
theorem ldCommit_good {s : State} (hkind : s.ldr.kind = 1) (hload : s.chip.devState = .loading) (hmine : s.ldr.mine = some none)
    (hwait : s.ldr.waiting = false) :
    ldCommit none s =
      let x := imageTaken s (s.ldr.staged.foldl (fun acc q => fillInitial q acc) (writeSections s.ldr.staged s))
      (streamPorts x).foldl (fun acc l => beginTraining l acc) (setImg 9 x) := by
  unfold ldCommit
  rw [if_neg (by simp [hkind, hload, hmine, hwait])]
  rfl

theorem ldCommit_bad {s : State} (hkind : s.ldr.kind = 1) (hload : s.chip.devState = .loading) (hmine : s.ldr.mine = some none)
    (hwait : s.ldr.waiting = false) (hroot : s.crt.isRoot = false) (line : Nat) :
    ldCommit (some line) s = sendVote (some (plainErr (poisonLine line 1 s) 0x28)) (poisonLine line 1 s) := by
  unfold ldCommit
  rw [if_neg (by simp [hkind, hload, hmine, hwait])]
  exact if_neg (by rw [(cellarWorks_poisonLine line 1 s).crt, hroot]; decide)

/-- A run of register writes changes registers. -/
theorem foldl_wrReg_frame (a : Nat → Nat) (v : Nat → Word) (l : List Nat) (x : State) :
    ∃ r, l.foldl (fun acc i => wrReg acc (a i) (v i)) x = { x with regs := r } := by
  induction l generalizing x with
  | nil => exact ⟨x.regs, rfl⟩
  | cons i l ih => exact ih _

theorem imageTaken_frame (s x : State) :
    ∃ r, imageTaken s x = { x with
      regs := r
      ldr := { x.ldr with
        resident := s.ldr.staged.filter (fun q => q.sect.typ ≠ 0x17), staged := [], stream := [], waiting := true } } := by
  obtain ⟨r, hr⟩ := foldl_wrReg_frame (fun i => imgA (0x30 + 4 * i))
    (fun i => BitVec.ofNat 32 (leAt (imgHdr s.ldr.stream).imageId (4 * i) 4)) (List.range 4) x
  refine ⟨r, ?_⟩
  unfold imageTaken
  dsimp only
  rw [hr]
  rfl

/-- What the commit writes stands, the resident copy is kept, and the device waits for its links. -/
theorem ldCommit_commits {s : State} (hkind : s.ldr.kind = 1) (hload : s.chip.devState = .loading)
    (hmine : s.ldr.mine = some none) (hwait : s.ldr.waiting = false) :
    let t := ldCommit none s
    t.ldr.waiting = true ∧ imgState t = 9 ∧ t.chip.devState = .loading ∧
      t.cl = (s.ldr.staged.foldl (fun x q => fillInitial q x) (writeSections s.ldr.staged s)).cl ∧
      t.ldr.resident = s.ldr.staged.filter (fun q => q.sect.typ ≠ 0x17) := by
  obtain ⟨hwritten, -⟩ := keepsLoader_writeSections s.ldr.staged s
  have hfilled := Writes.foldl (fun x q => writes_fillInitial q x) s.ldr.staged (writeSections s.ldr.staged s)
  dsimp only
  rw [ldCommit_good hkind hload hmine hwait]
  generalize writeSections s.ldr.staged s = w at hwritten hfilled ⊢
  generalize s.ldr.staged.foldl (fun x q => fillInitial q x) w = x at hfilled ⊢
  have hchip : x.chip.devState = .loading := by rw [hfilled.chip, hwritten, hload]
  obtain ⟨r, hr⟩ := imageTaken_frame s x
  dsimp only
  generalize imageTaken s x = y at hr ⊢
  have hidle : (setImg 9 y).chip.devState ≠ .running := by
    rw [setImg_chip, hr]
    exact ne_of_eq_of_ne hchip (by decide)
  have htrain := around_trainPorts hidle (streamPorts y)
  have himg : imgState (setImg 9 y) = 9 := imgState_setImg (by decide) y
  generalize (streamPorts y).foldl (fun acc l => beginTraining l acc) (setImg 9 y) = t at htrain ⊢
  rw [htrain.ldr, htrain.chip, htrain.cl, htrain.imgState, setImg_ldr, setImg_chip, setImg_cl, hr]
  rw [hr] at himg
  exact ⟨rfl, himg, hchip, rfl, rfl⟩

/-! ### Entry to Ready (R256) -/

/-- The load is over: DONE, no error, and no load in progress. -/
def loadOver (s : State) : State :=
  clrBit (clearErr (setImg 10 { s with
    chip := { s.chip with loadErr := false }
    ldr := { s.ldr with kind := 0, domain := 0, waiting := false, sent := false } })) imgStat 8

theorem loadDone_eq (s : State) : loadDone s = hostEvent 1 (loadOver s) := rfl

/-- From `s` to `t` the load is over. -/
structure LoadOver (s t : State) : Prop where
  img : imgState t = 10
  chip : t.chip = { s.chip with loadErr := false }
  cl : t.cl = s.cl
  ldr : t.ldr = { s.ldr with kind := 0, domain := 0, waiting := false, sent := false }
  uplink : t.crt.uplink = s.crt.uplink

theorem loadOver_loadDone (s : State) : LoadOver s (loadDone s) := by
  have hevent := around_hostEvent 1 (loadOver s)
  rw [loadDone_eq]
  refine ⟨hevent.imgState.trans ?_, hevent.chip, hevent.cl, hevent.ldr, hevent.uplink⟩
  exact (imgState_clrBit (by decide) _).trans ((imgState_clearErr _).trans (imgState_setImg (by decide) _))

theorem noteReady_new {s : State} {src : Nat} (h : src ∉ s.ldr.readys) :
    noteReady src s = if s.ldr.readys.length + 1 = domainSize s
      then loadDone (onLdr (fun x => { x with readys := x.readys ++ [src] }) s)
      else onLdr (fun x => { x with readys := x.readys ++ [src] }) s := by
  have hcount : (s.ldr.readys ++ [src]).length = s.ldr.readys.length + 1 := List.length_append ..
  have hnoted : onLdr (fun x => { x with readys := if x.readys.contains src then x.readys else x.readys ++ [src] }) s =
      onLdr (fun x => { x with readys := x.readys ++ [src] }) s := by simp [onLdr, h]
  unfold noteReady
  rw [hnoted]
  exact if_congr (iff_of_eq (congrArg (· = domainSize s) hcount)) rfl rfl

/-- A device whose links have all trained is Ready. -/
def readyShown (s : State) : State := showPorts { s with chip := { s.chip with devState := .ready } }

theorem enterReady_trained {s : State} (hwait : s.ldr.waiting = true) (hload : s.chip.devState = .loading)
    (hlinks : ∀ l, l < 64 → linkMode s l ≠ 0 → linkReady s l = true) (hgrant : grantMismatch s = none) :
    enterReady s = if (readyShown s).crt.isRoot then noteReady 0 (readyShown s)
      else sendServiceUp 0x15 0 [] (loadDone (readyShown s)) := by
  have htrained : ((List.range 64).any fun l => linkMode s l ≠ 0 && !linkReady s l) = false := by
    simp only [List.any_eq_false, List.mem_range]
    intro l hl
    by_cases hmode : linkMode s l = 0
    · simp [hmode]
    · simp [hlinks l hl hmode]
  unfold enterReady
  rw [if_neg (by simp [hwait, hload]), if_neg (by rw [htrained]; decide), hgrant]
  rfl

theorem noteReady_cl (src : Nat) (s : State) :
    (noteReady src s).cl = s.cl ∧ (noteReady src s).chip.devState = s.chip.devState := by
  unfold noteReady
  extract_lets x
  have hcl : x.cl = s.cl := rfl
  have hchip : x.chip = s.chip := rfl
  split
  · have hover := loadOver_loadDone x
    rw [hover.cl, hover.chip, hcl, hchip]
    exact ⟨rfl, rfl⟩
  · rw [hcl, hchip]
    exact ⟨rfl, rfl⟩

theorem ldReady_relayed {s : State} {l : Nat} (h : fromDown s l = true) (hroot : s.crt.isRoot = false) (src : Nat) :
    ldReady l src s = relayUp 0x15 src 0 [] s := by
  unfold ldReady
  rw [if_neg (not_ignored h), if_pos (by simp [hroot])]

theorem ldReady_load {s : State} {l : Nat} (h : fromDown s l = true) (hroot : s.crt.isRoot = true) (hdomain : s.ldr.domain = 1)
    (src : Nat) : ldReady l src s = noteReady src s := by
  unfold ldReady
  rw [if_neg (not_ignored h), if_neg (by simp [hroot]), if_pos hdomain]

theorem ldReady_reload {s : State} {l src : Nat} (h : fromDown s l = true) (hroot : s.crt.isRoot = true)
    (hdomain : s.ldr.domain = 2) (htarget : s.ldr.target = some src) :
    ldReady l src s = closeFeed (onLdr (fun x => { x with domain := 0, target := none }) s) := by
  unfold ldReady
  rw [if_neg (not_ignored h), if_neg (by simp [hroot]), if_neg (by simp [hdomain]), if_pos ⟨hdomain, htarget⟩]

end Sys2Proof.Machine

open Sys2Proof Sys2Proof.Machine

/-- Settles O35: the vote of R255 by `passed_below` and `passed_root`, the commit by `ldCommit_commits`, the entry to Ready by
`loadOver_loadDone`. -/
theorem loadVoteAndCommit : Obligations.LoadVoteAndCommit := by
  unfold Obligations.LoadVoteAndCommit
  refine ⟨?checks, ?vote, ?commit, ?ready, ?readys⟩
  case checks =>
    intro s hkind himg hmine hvoted hvotes hdomain
    cases hfind : firstFinding (imageFindings s.ldr.staged s) with
    | none =>
      have hdone := loadChecksDone_pass hkind himg hmine hfind
      rw [voteIfDone_passed hkind hvoted hvotes] at hdone
      refine ⟨_, congrArg Host.Outcome.next hdone, ?_⟩
      cases hroot : s.crt.isRoot
      · obtain ⟨hcl, hself, hsent, hstate, hchip, hup⟩ := passed_below (s := s)
        exact ⟨hcl, hself, hsent, hstate, hchip, fun _ l hl => hup l hl, nofun⟩
      · obtain ⟨hcl, hself, hsent, hstate, hchip, hcommit⟩ := passed_root (s := s)
        exact ⟨hcl, hself, hsent, hstate, hchip, nofun, fun _ => hcommit⟩
    | some f =>
      have hdone := loadChecksDone_fail hkind himg hmine hfind
      rw [ldFail_eq hkind hmine] at hdone
      refine ⟨_, congrArg Host.Outcome.next hdone, ?_⟩
      cases hroot : s.crt.isRoot
      · obtain ⟨hsent, hcl, hvote⟩ := votesFail_sendVote (findErr (devAddr s) f)
          (onLdr (fun l => { l with mine := some (some (findErr (devAddr s) f)) }) s)
        exact ⟨hcl, fun _ => ⟨hsent, hcl, hvote⟩, nofun⟩
      · obtain ⟨-, hstate, herr, hended, -, -, hcl, -⟩ := loadFails_rootAbort
          (s := onLdr (fun l => { l with mine := some (some (findErr (devAddr s) f)) }) s) (hdomain hroot) hkind
          (findErr (devAddr s) f)
        exact ⟨hcl, nofun, fun _ => ⟨herr, hstate, hended⟩⟩
  case vote =>
    intro s l src hdown hkind hwait
    refine ⟨fun hmine => ?_, fun e hcode hvoted => ⟨fun hroot hdomain => ?_, fun hroot => ?_⟩⟩
    · refine ⟨_, congrArg Host.Outcome.next (ldVote_pass hdown hkind hwait hmine src), ?_, rfl, rfl⟩
      exact List.mem_append_right _ (List.mem_singleton_self _)
    · have hfails := loadFails_rootAbort hdomain hkind e
      rw [Nat.mod_eq_of_lt hcode] at hfails
      exact ⟨_, congrArg Host.Outcome.next ((ldVote_fail hdown hkind hwait hvoted src e).trans (if_pos hroot)), hfails⟩
    · refine ⟨_, congrArg Host.Outcome.next ((ldVote_fail hdown hkind hwait hvoted src e).trans (if_neg (by simp [hroot]))), ?_⟩
      exact votesFail_sendVote e s
  case commit =>
    intro s l hup hkind hload hmine hwait
    have hmsg := messaged_sendServiceDown 0x14 0xFFF [] s
    have hexec (bad : Option Nat) : exec (.ldCommit l bad) s = .next (ldCommit bad (sendServiceDown 0x14 0xFFF [] s)) :=
      congrArg Host.Outcome.next (if_pos hup)
    refine ⟨⟨_, hexec none, ?_⟩, fun line hroot => ⟨_, hexec (some line), ?_⟩⟩
    · have hcommits := ldCommit_commits (s := sendServiceDown 0x14 0xFFF [] s) (by rw [hmsg.ldr, hkind])
        (by rw [hmsg.chip, hload]) (by rw [hmsg.ldr, hmine]) (by rw [hmsg.ldr, hwait])
      rw [hmsg.ldr] at hcommits
      exact hcommits
    · generalize sendServiceDown 0x14 0xFFF [] s = x at hmsg ⊢
      have hpoison := cellarWorks_poisonLine line 1 x
      rw [ldCommit_bad (by rw [hmsg.ldr, hkind]) (by rw [hmsg.chip, hload]) (by rw [hmsg.ldr, hmine])
        (by rw [hmsg.ldr, hwait]) (by rw [hmsg.around.isRoot, hroot])]
      generalize poisonLine line 1 x = y at hpoison ⊢
      have hdev : plainErr y 0x28 = { code := 0x28, dev := devAddr s, sect := 0, loc := 0 } := by
        rw [plainErr, hpoison.devAddr, hmsg.around.devAddr]
      obtain ⟨hvoted, hcl, hchip, hsent⟩ := votesFail_sendVote (plainErr y 0x28) y
      rw [hdev] at hvoted hcl hchip hsent ⊢
      refine ⟨hvoted, hcl.trans (hpoison.cl.trans hmsg.cl), hchip.trans (hpoison.chip.trans hmsg.chip), fun k hk => hsent k ?_⟩
      rw [hpoison.crt, hmsg.crt, hk]
  case ready =>
    intro s hwait hload hlinks hgrant
    have hshown := around_showPorts { s with chip := { s.chip with devState := .ready } }
    have hready := enterReady_trained hwait hload hlinks hgrant
    rw [readyShown] at hready
    generalize showPorts { s with chip := { s.chip with devState := .ready } } = x at hshown hready
    rw [hshown.isRoot] at hready
    refine ⟨_, congrArg Host.Outcome.next hready, ?_⟩
    cases hroot : s.crt.isRoot
    · rw [if_neg Bool.false_ne_true]
      have hover := loadOver_loadDone x
      have hsent {l : Nat} (hl : s.crt.uplink = some l) :=
        mem_sendServiceUp (hover.uplink.trans (hshown.uplink.trans hl)) 0x15 0 []
      have hmsg := messaged_sendServiceUp 0x15 0 [] (loadDone x)
      generalize sendServiceUp 0x15 0 [] (loadDone x) = t at hsent hmsg ⊢
      rw [hmsg.chip, hmsg.cl, hmsg.ldr, hmsg.around.imgState, hover.chip, hover.cl, hover.ldr, hshown.chip, hshown.cl]
      exact ⟨rfl, rfl, rfl, fun _ => ⟨hover.img, rfl, rfl, fun l hl => hsent hl⟩, nofun⟩
    · rw [if_pos rfl]
      obtain ⟨hcl, hstate⟩ := noteReady_cl 0 x
      rw [hcl, hstate, hshown.chip, hshown.cl]
      refine ⟨rfl, rfl, rfl, nofun, fun _ hreadys hsize => ?_⟩
      have hnone : x.ldr.readys = [] := by rw [hshown.ldr, hreadys]
      have hlast : x.ldr.readys.length + 1 = domainSize x := by
        rw [hnone, hshown.domainSize]
        exact hsize.symm
      have hover := loadOver_loadDone (onLdr (fun l => { l with readys := l.readys ++ [0] }) x)
      rw [noteReady_new (by simp [hnone]), if_pos hlast, hover.ldr]
      exact ⟨hover.img, rfl⟩
  case readys =>
    intro s l src hdown
    refine ⟨fun hroot hdomain hnew => ?_, fun hroot hdomain htarget => ?_, fun hroot k hk => ?_⟩
    · refine ⟨_, congrArg Host.Outcome.next ((ldReady_load hdown hroot hdomain src).trans (noteReady_new hnew)), ?_⟩
      by_cases hall : s.ldr.readys.length + 1 = domainSize s
      · have hover := loadOver_loadDone (onLdr (fun x => { x with readys := x.readys ++ [src] }) s)
        rw [if_pos hall, if_pos hall, hover.ldr, hover.chip]
        exact ⟨rfl, hover.img, rfl, rfl⟩
      · rw [if_neg hall, if_neg hall]
        exact ⟨rfl, rfl, hdomain⟩
    · refine ⟨_, congrArg Host.Outcome.next (ldReady_reload hdown hroot hdomain htarget), rfl, rfl, feedIsOpen_closeFeed _⟩
    · exact ⟨_, congrArg Host.Outcome.next (ldReady_relayed hdown hroot src), relayUp_outbox hk ..⟩

end

section
/-! PROOFS. Shelf reload: its checks, its writes and its end, and writes of border cells (R264 to R269, R280). -/

namespace Sys2Proof.Machine

/-! ### The checks (R264) -/

theorem onlyIf_eq_nil {b : Bool} {f : Finding} (h : onlyIf b f = []) : b = false := by
  cases b
  · rfl
  · contradiction

theorem firstFinding_eq_none {l : List Finding} (h : firstFinding l = none) : l = [] := by
  cases l with
  | nil => rfl
  | cons f l => contradiction

theorem reloadFindings_eq_nil {hdr : ImgHdr} {st : List Staged} {s : State} (h : reloadAll hdr st s = []) :
    reloadFindings hdr st s = [] := by
  unfold reloadAll at h
  simp only [List.append_eq_nil_iff, and_assoc] at h
  obtain ⟨hown, -⟩ := h
  exact hown

/-- Without a finding every section is of a type that a reload may hold, so none is a SCRIPT. -/
theorem typ_of_no_finding {hdr : ImgHdr} {st : List Staged} {s : State} (h : firstFinding (reloadAll hdr st s) = none) :
    ∀ q ∈ st, q.sect.typ ≠ 0x02 := by
  have hnone := reloadFindings_eq_nil (firstFinding_eq_none h)
  unfold reloadFindings at hnone
  simp only [List.append_eq_nil_iff, List.flatMap_eq_nil_iff, and_assoc] at hnone
  obtain ⟨-, htypes, -⟩ := hnone
  intro q hq htyp
  obtain ⟨hallowed, -⟩ := Bool.or_eq_false_iff.1 (onlyIf_eq_nil (htypes q hq))
  rw [htyp] at hallowed
  exact absurd hallowed (by decide)

/-! ### The writes of a reload (R267) -/

theorem writes_clearShelf (h : Nat) (s : State) : Writes s (clearShelf h s) := rfl

theorem writes_reinitArrays (st : List Staged) (s : State) : Writes s (reinitArrays st s) := by
  unfold reinitArrays
  refine .trans ?_ (.foldl (fun _ _ => (cellarWorks_celPut ..).writes) _ _)
  rfl

/-- The loader writes the shelf, and STATE says so. -/
theorem writes_reloadWrite {s : State} (h : ∀ q ∈ s.ldr.staged, q.sect.typ ≠ 0x02) :
    Writes s (reloadWrite s) ∧ imgState (reloadWrite s) = 14 := by
  have hkept : ∀ q ∈ s.ldr.staged.filter (fun q => q.sect.typ ≠ 0x21 && q.sect.typ ≠ 0x17), q.sect.typ ≠ 0x02 :=
    fun q hq => h q (List.mem_of_mem_filter hq)
  refine ⟨?_, imgState_setImg (by decide) _⟩
  unfold reloadWrite
  refine .trans ?_ (writes_wrFld ..)
  refine .trans ?_ (.foldl (fun _ _ => writes_fillInitial ..) _ _)
  refine .trans ?_ (writes_reinitArrays ..)
  exact (writes_clearShelf ..).trans (writes_writeSections hkept _)

/-! ### J_d and J_j (R266, R268) -/

/-- An epoch that is noted in two registers, with its VALID flag, and STATE. -/
theorem epoch_noted {lo hi n : Nat} (hne : lo ≠ hi) (hlo : lo ≠ imgStat) (hhi : hi ≠ imgStat) (hn : n < 2 ^ 48) (img : Nat)
    (s : State) :
    let t := setImg img (setBit (wr48 lo hi n s) hi 31)
    rdBit t hi 31 = true ∧ (rdReg t lo).toNat + 2 ^ 32 * rdFld t hi 0 16 = n := by
  have hvalid : rdBit (setImg img (setBit (wr48 lo hi n s) hi 31)) hi 31 = true := by
    rw [rdBit, rdReg_setImg_other _ _ hhi]
    exact rdBit_setBit_same _ hi (by decide)
  have hlow : rdReg (setImg img (setBit (wr48 lo hi n s) hi 31)) lo = rdReg (wr48 lo hi n s) lo := by
    rw [rdReg_setImg_other _ _ hlo, rdReg_setBit_other _ _ hne]
  have hhigh : rdFld (setImg img (setBit (wr48 lo hi n s) hi 31)) hi 0 16 = rdFld (wr48 lo hi n s) hi 0 16 := by
    rw [rdFld, rdReg_setImg_other _ _ hhi]
    exact rdFld_wrFld_other _ hi 1 (.inl (by decide))
  refine ⟨hvalid, ?_⟩
  rw [hlow, hhigh]
  exact toNat_wr48 s hne hn

/-- J_d as RELOAD_VERIFIED fixes it. -/
theorem rlJd_noted {n : Nat} (h : n < 2 ^ 48) (img : Nat) (s : State) :
    rlJd (setImg img (setBit (wr48 (imgA 0x60) (imgA 0x64) n s) (imgA 0x64) 31)) = some n := by
  obtain ⟨hvalid, hnumber⟩ := epoch_noted (lo := imgA 0x60) (hi := imgA 0x64) (by decide) (by decide) (by decide) h img s
  unfold rlJd
  rw [if_pos hvalid, hnumber]

/-- J_j as RELOAD_WRITES_DONE fixes it. -/
theorem rlJj_noted {n : Nat} (h : n < 2 ^ 48) (img : Nat) (s : State) :
    rlJj (setImg img (setBit (wr48 (imgA 0x68) (imgA 0x6C) n s) (imgA 0x6C) 31)) = some n := by
  obtain ⟨hvalid, hnumber⟩ := epoch_noted (lo := imgA 0x68) (hi := imgA 0x6C) (by decide) (by decide) (by decide) h img s
  unfold rlJj
  rw [if_pos hvalid, hnumber]

/-! ### The end of a reload without effect (R264) -/

/-- What the end of a reload leaves: the chip, the spring and the clusters. -/
def LeavesModel (s t : State) : Prop := t.chip = s.chip ∧ t.spr = s.spr ∧ t.cl = s.cl

theorem Around.leavesModel {s t : State} (h : Around s t) : LeavesModel s t := ⟨h.chip, h.spr, h.cl⟩

theorem LeavesModel.trans {s t u : State} (h : LeavesModel s t) (k : LeavesModel t u) : LeavesModel s u := by
  obtain ⟨hchip, hspr, hcl⟩ := h
  obtain ⟨kchip, kspr, kcl⟩ := k
  exact ⟨kchip.trans hchip, kspr.trans hspr, kcl.trans hcl⟩

/-- FAILED and REFUSED, the error captured, and no reload in progress. -/
def reloadRefused (e : LdErr) (s : State) : State :=
  captureErr e (setBit (setImg 11 (onLdr (fun l => { ldrFresh l with resident := l.resident, lkRec := l.lkRec }) (closeFeed s)))
    imgStat 9)

theorem rlAbort_eq (e : LdErr) (s : State) : rlAbort e s = hostEvent 1 (reloadRefused e s) := rfl

theorem leavesModel_captureErr (e : LdErr) (s : State) : LeavesModel s (captureErr e s) := ⟨rfl, rfl, rfl⟩

theorem leavesModel_reloadRefused (e : LdErr) (s : State) : LeavesModel s (reloadRefused e s) :=
  .trans ⟨rfl, rfl, rfl⟩ (leavesModel_captureErr e _)

/-- A reload that ends as refused or aborted is FAILED and REFUSED, and nothing but the loader and its registers changes. -/
theorem rlAbort_ends (e : LdErr) (s : State) :
    LeavesModel s (rlAbort e s) ∧ (rlAbort e s).ldr.kind = 0 ∧ imgState (rlAbort e s) = 11 ∧
      rdBit (rlAbort e s) imgStat 9 = true := by
  have hmodel := leavesModel_reloadRefused e s
  have hkind : (reloadRefused e s).ldr.kind = 0 := rfl
  have hstate : imgState (reloadRefused e s) = 11 := by
    rw [reloadRefused, imgState_captureErr, imgState_setBit (by decide), imgState_setImg (by decide)]
  have hflag : rdBit (reloadRefused e s) imgStat 9 = true := by
    rw [reloadRefused, rdBit, rdReg_captureErr_other _ _ (by decide)]
    exact rdBit_setBit_same _ imgStat (by decide)
  have hevent := around_hostEvent 1 (reloadRefused e s)
  rw [rlAbort_eq, hevent.ldr, hevent.imgState, hevent.rdBit (by decide)]
  exact ⟨hmodel.trans hevent.leavesModel, hkind, hstate, hflag⟩

/-- The root ends what it runs; a reload here is no load. -/
theorem leavesModel_rootAbort {s : State} (h : s.ldr.kind = 2) (e : LdErr) : LeavesModel s (rootAbort e s) := by
  have hdown := messaged_sendServiceDown 0x16 0xFFF (errBody (some e) true) s
  unfold rootAbort
  split
  · have hnot : ldAbort e (sendServiceDown 0x16 0xFFF (errBody (some e) true) s) =
        sendServiceDown 0x16 0xFFF (errBody (some e) true) s := if_pos (by rw [hdown.ldr, h]; decide)
    rw [hnot]
    exact hdown.around.leavesModel
  split
  · dsimp only
    split
    · exact (messaged_sendService ..).around.leavesModel.trans (rlAbort_ends ..).1
    · exact (rlAbort_ends ..).1
  · exact ⟨rfl, rfl, rfl⟩

/-- A finding of the target of a reload ends it. -/
theorem ldFail_reload {s : State} (hkind : s.ldr.kind = 2) (hmine : s.ldr.mine = none) (e : LdErr) :
    ldFail e s = if s.crt.isRoot then rootAbort e (onLdr (fun l => { l with mine := some (some e) }) s)
      else rlAbort e (sendVote (some e) (onLdr (fun l => { l with mine := some (some e) }) s)) := by
  unfold ldFail
  rw [if_neg (by simp [hkind, hmine])]
  exact if_congr Iff.rfl rfl (if_pos hkind)

theorem ldFail_leavesModel {s : State} (hkind : s.ldr.kind = 2) (hmine : s.ldr.mine = none) (e : LdErr) :
    LeavesModel s (ldFail e s) ∧ (s.crt.isRoot = false → (ldFail e s).ldr.kind = 0 ∧ imgState (ldFail e s) = 11 ∧
      rdBit (ldFail e s) imgStat 9 = true) := by
  rw [ldFail_reload hkind hmine]
  cases hroot : s.crt.isRoot
  · have hmsg := messaged_sendVote (some e) (onLdr (fun l => { l with mine := some (some e) }) s)
    rw [if_neg Bool.false_ne_true]
    generalize sendVote (some e) (onLdr (fun l => { l with mine := some (some e) }) s) = x at hmsg ⊢
    obtain ⟨hmodel, hended⟩ := rlAbort_ends e x
    refine ⟨LeavesModel.trans ?_ hmodel, fun _ => hended⟩
    exact ⟨hmsg.chip, hmsg.spr, hmsg.cl⟩
  · exact ⟨leavesModel_rootAbort (s := onLdr (fun l => { l with mine := some (some e) }) s) hkind e, nofun⟩

/-! ### RELOAD_VERIFIED (R264 to R266) -/

/-- The target has passed its checks: its vote is on the way, and J_j of an earlier reload is forgotten. -/
def reloadPassed (s : State) : State :=
  let s0 := onLdr (fun l => { l with mine := some none }) s
  wrReg (wrReg (if s0.crt.isRoot then closeFeed s0 else sendVote none s0) (imgA 0x6C) 0) (imgA 0x68) 0

theorem reloadPassed_passed (s : State) :
    LeavesModel s (reloadPassed s) ∧ (reloadPassed s).ldr.mine = some none ∧
      (reloadPassed s).ldr.staged = s.ldr.staged := by
  unfold reloadPassed
  dsimp only
  split
  · exact ⟨⟨rfl, rfl, rfl⟩, rfl, rfl⟩
  · have hmsg := messaged_sendVote none (onLdr (fun l => { l with mine := some none }) s)
    generalize sendVote none (onLdr (fun l => { l with mine := some none }) s) = x at hmsg ⊢
    have hmine : x.ldr.mine = some none := by rw [hmsg.ldr]; rfl
    have hstaged : x.ldr.staged = s.ldr.staged := by rw [hmsg.ldr]; rfl
    exact ⟨⟨hmsg.chip, hmsg.spr, hmsg.cl⟩, hmine, hstaged⟩

section
variable {s : State} (hkind : s.ldr.kind = 2) (himg : imgState s = 12) (hmine : s.ldr.mine = none)
  (htable : s.ldr.tblDone = true) (hended : (imgHdr s.ldr.stream).nsect ≤ s.ldr.ended)
include hkind himg hmine htable hended

theorem reloadVerified_fail {f : Finding} (h : firstFinding (reloadAll (imgHdr s.ldr.stream) s.ldr.staged s) = some f) :
    reloadVerified s = ldFail (findErr (devAddr s) f) s := by
  unfold reloadVerified
  dsimp only
  rw [if_neg (by simp [hkind, himg, hmine, htable, hended]), h]

theorem reloadVerified_running (h : firstFinding (reloadAll (imgHdr s.ldr.stream) s.ldr.staged s) = none)
    (hrun : s.chip.devState = .running) :
    reloadVerified s =
      setImg 13 (setBit (wr48 (imgA 0x60) (imgA 0x64) (afterNextX129 s) (reloadPassed s)) (imgA 0x64) 31) := by
  unfold reloadVerified
  dsimp only
  rw [if_neg (by simp [hkind, himg, hmine, htable, hended]), h, hrun]
  rfl

theorem reloadVerified_stopped (h : firstFinding (reloadAll (imgHdr s.ldr.stream) s.ldr.staged s) = none)
    (hstop : s.chip.devState = .ready ∨ s.chip.devState = .held) : reloadVerified s = reloadWrite (reloadPassed s) := by
  unfold reloadVerified
  dsimp only
  rw [if_neg (by simp [hkind, himg, hmine, htable, hended]), h]
  rcases hstop with hstop | hstop
  · rw [hstop]
    rfl
  · rw [hstop]
    rfl

end

/-! ### RELOAD_WRITES_DONE (R265, R268) -/

theorem reloadWritesDone_running {s : State} (hkind : s.ldr.kind = 2) (himg : imgState s = 14)
    (hrun : s.chip.devState = .running) :
    reloadWritesDone s = setImg 15 (setBit (wr48 (imgA 0x68) (imgA 0x6C) (afterNextX129 s) s) (imgA 0x6C) 31) := by
  unfold reloadWritesDone
  rw [if_neg (by simp [hkind, himg]), if_pos hrun]

theorem reloadWritesDone_stopped {s : State} (hkind : s.ldr.kind = 2) (himg : imgState s = 14)
    (hstop : s.chip.devState = .ready ∨ s.chip.devState = .held) :
    reloadWritesDone s = reloadEnd (takeResident s.ldr.staged (rejoinShelf s)) := by
  unfold reloadWritesDone
  rw [if_neg (by simp [hkind, himg]), if_neg (by rcases hstop with hstop | hstop <;> simp [hstop])]

/-- The registers of the image loader are not those of a border control. -/
theorem border_ne_img (h : Nat) {o : Nat} (ho : o < 0x10000) : shfA h 0x500 ≠ imgA o := by
  unfold shfA imgA
  omega

/-- The shelf has rejoined. -/
theorem detached_rejoinShelf (s : State) : detached (rejoinShelf s) s.ldr.shelf = false := rdBit_clrBit_same _ _

theorem writes_rejoinShelf (s : State) : Writes s (rejoinShelf s) := by
  have htable : ∀ q ∈ s.ldr.staged.filter (fun q => q.sect.typ = 0x21), q.sect.typ ≠ 0x02 := by
    intro q hq
    obtain ⟨-, htyp⟩ := List.mem_filter.1 hq
    rw [of_decide_eq_true htyp]
    decide
  unfold rejoinShelf
  exact (writes_writeSections htable s).trans (writes_wrFld ..)

/-- DONE at the target, without an error. -/
def reloadOver (s : State) : State :=
  clearErr (setImg 10 (onLdr (fun l => { l with
    kind := 0, staged := [], stream := [], mine := none, hdrDone := false, tblDone := false, ended := 0, voted := false }) s))

theorem reloadEnd_below {s : State} (h : s.crt.isRoot = false) :
    reloadEnd s = sendServiceUp 0x15 0 [] (hostEvent 1 (reloadOver s)) := by
  have hevent := around_hostEvent 1 (reloadOver s)
  have hroot : (hostEvent 1 (reloadOver s)).crt.isRoot = false := hevent.isRoot.trans h
  unfold reloadEnd
  exact if_neg (by rw [← reloadOver, hroot]; decide)

/-- A border control keeps its value over the end of a reload. -/
theorem detached_reloadOver (s : State) (h : Nat) : detached (reloadOver s) h = detached s h := by
  have hne {o : Nat} (ho : o < 0x10000) := border_ne_img h ho
  have hlater : shfA h 0x500 < imgA 8 ∨ imgA 0x14 ≤ shfA h 0x500 := by
    unfold shfA imgA
    omega
  unfold detached rdBit reloadOver
  rw [rdReg_clearErr_other _ hlater, rdReg_setImg_other _ _ (hne (by decide))]
  rfl

/-- The reload completes at a target that is not the root, with LD_READY to its head. -/
theorem reloadEnd_ends {s : State} (hroot : s.crt.isRoot = false) :
    imgState (reloadEnd s) = 10 ∧ (reloadEnd s).ldr.kind = 0 ∧ (reloadEnd s).ldr.staged = [] ∧
      (∀ h, detached (reloadEnd s) h = detached s h) ∧ (reloadEnd s).chip = s.chip ∧
      ∀ l, s.crt.uplink = some l → ∃ src, .service l 0x15 src 0 [] ∈ (reloadEnd s).outbox := by
  have hevent := around_hostEvent 1 (reloadOver s)
  have hover : imgState (reloadOver s) = 10 := (imgState_clearErr _).trans (imgState_setImg (by decide) _)
  have hborder := detached_reloadOver s
  have hchip : (reloadOver s).chip = s.chip := rfl
  have huplink : (reloadOver s).crt.uplink = s.crt.uplink := rfl
  have hkind : (reloadOver s).ldr.kind = 0 := rfl
  have hstaged : (reloadOver s).ldr.staged = [] := rfl
  rw [reloadEnd_below hroot]
  generalize reloadOver s = x at hevent hover hborder hchip huplink hkind hstaged ⊢
  generalize hostEvent 1 x = y at hevent ⊢
  have hsent {l : Nat} (hl : s.crt.uplink = some l) :=
    mem_sendServiceUp (hevent.uplink.trans (huplink.trans hl)) 0x15 0 []
  have hall := hevent.trans (messaged_sendServiceUp 0x15 0 [] y).around
  generalize sendServiceUp 0x15 0 [] y = t at hsent hall ⊢
  rw [hall.imgState, hall.ldr, hall.chip, hover, hkind, hstaged, hchip]
  exact ⟨rfl, rfl, rfl, fun h => (hall.rdBit (quiet_border h) 16).trans (hborder h), rfl, fun l hl => hsent hl⟩

theorem takeResident_chip (st : List Staged) (s : State) : (takeResident st s).chip = s.chip := rfl

theorem takeResident_crt (st : List Staged) (s : State) : (takeResident st s).crt = s.crt := rfl

theorem detached_takeResident (st : List Staged) (s : State) (h : Nat) : detached (takeResident st s) h = detached s h := rfl

/-- The end of a reload in Ready and Held: the shelf has rejoined. -/
theorem reload_rejoins {s : State} (hroot : s.crt.isRoot = false) :
    let t := reloadEnd (takeResident s.ldr.staged (rejoinShelf s))
    imgState t = 10 ∧ t.ldr.kind = 0 ∧ t.ldr.staged = [] ∧ detached t s.ldr.shelf = false ∧ t.chip = s.chip ∧
      ∀ l, s.crt.uplink = some l → ∃ src, .service l 0x15 src 0 [] ∈ t.outbox := by
  have hwrites := writes_rejoinShelf s
  have hrejoined := detached_rejoinShelf s
  generalize rejoinShelf s = x at hwrites hrejoined ⊢
  have hroot' : (takeResident s.ldr.staged x).crt.isRoot = false := by rw [takeResident_crt, hwrites.crt, hroot]
  obtain ⟨himg, hkind, hstaged, hborder, hchip, hsent⟩ := reloadEnd_ends hroot'
  have hshelf := (hborder s.ldr.shelf).trans ((detached_takeResident ..).trans hrejoined)
  rw [takeResident_chip, hwrites.chip] at hchip
  rw [takeResident_crt, hwrites.crt] at hsent
  exact ⟨himg, hkind, hstaged, hshelf, hchip, hsent⟩

/-! ### Border cells (R280) -/

/-- A mode write of border cell `k` is a write of the shelf window. -/
theorem targetOf_border {h k : Nat} (hh : h < 16) (hk : k < 0x4000) :
    targetOf (shfA h (0x10000 + 4 * k)) = .shelf h (0x10000 + 4 * k) := by
  have hshelf : (shfA h (0x10000 + 4 * k) - 0x2000000) / 0x100000 = h := by unfold shfA; omega
  have hofs : shfA h (0x10000 + 4 * k) % 0x100000 = 0x10000 + 4 * k := by unfold shfA; omega
  unfold targetOf
  rw [if_neg (by unfold shfA; omega), if_pos (by unfold shfA; omega), hshelf, hofs]

theorem shelfWrite_detached {h k : Nat} {s : State} (hk : k < 0x4000) (hdetached : detached s h = true) (r : RegRow) (v : Word) :
    shelfWrite r h (0x10000 + 4 * k) v s = (.error, s) := by
  unfold shelfWrite
  rw [if_neg (by omega), if_pos ⟨by omega, by omega, hdetached⟩, writeErr]

theorem shelfWrite_attached {h k : Nat} {s : State} (hattached : detached s h = false) (r : RegRow) (v : Word) :
    shelfWrite r h (0x10000 + 4 * k) v s = (.ok, storeReg r (shfA h (0x10000 + 4 * k)) v s) := by
  unfold shelfWrite
  rw [if_neg (by omega), if_neg (by simp [hattached])]

/-- A write of a shelf window that its rule lets through is one of the shelf. -/
theorem regWrite_shelfWindow {a : Nat} {r : RegRow} {s : State} (hlow : 0x2000000 ≤ a) (hhigh : a < 0x10000000)
    (hrow : regRow a = some r) (hopen : ruleOpen r s = true) (who : Requester) (v : Word) :
    regWrite who a v s = shelfWrite r ((a - 0x2000000) / 0x100000) (a % 0x100000) v s := by
  unfold regWrite
  simp only [hrow, hopen, Bool.true_eq_false, or_false]
  iterate 13 rw [if_neg (by omega)]
  rw [if_pos hhigh]

theorem regWrite_border {h k : Nat} {r : RegRow} {s : State} (hh : h < 16) (hk : k < 0x4000)
    (hrow : regRow (shfA h (0x10000 + 4 * k)) = some r) (hopen : ruleOpen r s = true) (who : Requester) (v : Word) :
    regWrite who (shfA h (0x10000 + 4 * k)) v s = shelfWrite r h (0x10000 + 4 * k) v s := by
  have hshelf : (shfA h (0x10000 + 4 * k) - 0x2000000) / 0x100000 = h := by unfold shfA; omega
  have hofs : shfA h (0x10000 + 4 * k) % 0x100000 = 0x10000 + 4 * k := by unfold shfA; omega
  have hlow : 0x2000000 ≤ shfA h (0x10000 + 4 * k) := by unfold shfA; omega
  have hhigh : shfA h (0x10000 + 4 * k) < 0x10000000 := by unfold shfA; omega
  rw [regWrite_shelfWindow hlow hhigh hrow hopen, hshelf, hofs]

theorem perform_write (who : Requester) (t : Target) (v : Word) (s : State) :
    perform who t true v s = answer who true (performStore who t v s).1 0 (performStore who t v s).2 := by
  unfold perform
  generalize performStore who t v s = p
  rfl

theorem performStore_shelf (who : Requester) (h o : Nat) (v : Word) (s : State) :
    performStore who (.shelf h o) v s = regWrite who (shfA h o) v s := rfl

theorem request_border {h k : Nat} {r : RegRow} {s : State} {who : Requester} (hh : h < 16) (hk : k < 0x4000)
    (hreach : Reaches s who (shfA h (0x10000 + 4 * k))) (hrow : regRow (shfA h (0x10000 + 4 * k)) = some r)
    (hopen : ruleOpen r s = true) (v : Word) :
    request who (shfA h (0x10000 + 4 * k)) true v s =
      answer who true (shelfWrite r h (0x10000 + 4 * k) v s).1 0 (shelfWrite r h (0x10000 + 4 * k) v s).2 := by
  rw [request_reaches hreach, landing, targetOf_border hh hk]
  dsimp only
  rw [perform_write, performStore_shelf, regWrite_border hh hk hrow hopen who]

end Sys2Proof.Machine

open Sys2Proof Sys2Proof.Machine

/-- Settles O36: a reload that ends by `ldFail_leavesModel`, one that goes on by what it writes (`writes_reloadWrite`) or notes
(`rlJd_noted`), its end by `reload_rejoins`, and a border write by `request_border`. -/
theorem shelfReload : Obligations.ShelfReload := by
  unfold Obligations.ShelfReload
  refine ⟨?verified, ?done, ?border⟩
  case verified =>
    intro s hkind himg hmine htable hended hstate hepoch
    cases hfind : firstFinding (reloadAll (imgHdr s.ldr.stream) s.ldr.staged s) with
    | some f =>
      obtain ⟨⟨hchip, hspr, hcl⟩, hfailed⟩ := ldFail_leavesModel hkind hmine (findErr (devAddr s) f)
      refine ⟨_, congrArg Host.Outcome.next (reloadVerified_fail hkind himg hmine htable hended hfind), ?_⟩
      exact ⟨congrArg Chip.devState hchip, hspr, hcl, hfailed⟩
    | none =>
      obtain ⟨⟨hchip, hspr, hcl⟩, hpassed, hstaged⟩ := reloadPassed_passed s
      by_cases hrun : s.chip.devState = .running
      · have hverified := reloadVerified_running hkind himg hmine htable hended hfind hrun
        have hnoted := rlJd_noted hepoch 13 (reloadPassed s)
        have hshown := imgState_setImg (n := 13) (by decide)
          (setBit (wr48 (imgA 0x60) (imgA 0x64) (afterNextX129 s) (reloadPassed s)) (imgA 0x64) 31)
        refine ⟨_, congrArg Host.Outcome.next hverified, congrArg Chip.devState hchip, hspr, hpassed, ?_⟩
        rw [if_pos hrun]
        exact ⟨hshown, hnoted, hcl⟩
      · have hverified := reloadVerified_stopped hkind himg hmine htable hended hfind (by simpa [hrun] using hstate)
        obtain ⟨hwrites, hshown⟩ := writes_reloadWrite (s := reloadPassed s)
          (by rw [hstaged]; exact typ_of_no_finding hfind)
        generalize reloadWrite (reloadPassed s) = t at hverified hwrites hshown
        refine ⟨t, congrArg Host.Outcome.next hverified, ?_, hwrites.spr.trans hspr, ?_, ?_⟩
        · rw [hwrites.chip, hchip]
        · rw [hwrites.ldr, ← hpassed]
        · rwa [if_neg hrun]
  case done =>
    intro s hkind himg
    refine ⟨fun hrun hepoch => ?_, fun hstop hroot => ?_⟩
    · refine ⟨_, congrArg Host.Outcome.next (reloadWritesDone_running hkind himg hrun), ?_⟩
      exact ⟨imgState_setImg (by decide) _, rlJj_noted hepoch 15 s, rfl, rfl⟩
    · exact ⟨_, congrArg Host.Outcome.next (reloadWritesDone_stopped hkind himg hstop), reload_rejoins hroot⟩
  case border =>
    intro s who h k v r hh hk a hreach hrow hopen
    have hrequest := request_border hh hk hreach hrow hopen v
    refine ⟨fun hdetached => congrArg Host.Outcome.next ?_, fun hattached => ?_⟩
    · rw [shelfWrite_detached hk hdetached] at hrequest
      exact hrequest
    · rw [shelfWrite_attached hattached] at hrequest
      exact ⟨_, congrArg Host.Outcome.next hrequest, storeReg_onlyRegs r a v s, fun i hi => bit_rdReg_storeReg r a v s hi⟩

end

section
/-! PROOFS. What a shell that takes effect and the retirement of units leave: device state, loader, and the registers of spring and
image loader (R238, R385, R558, R622 to R634). -/

namespace Sys2Proof.Machine

/-- A register outside the blocks of the image loader. -/
abbrev Beside (a : Nat) : Prop := a < imgA 0 ∨ timA 0 ≤ a

/-- From `s` to `u` the device stays in Boot as it is: its state and shell, the loader, and the registers of the loader. -/
structure KeepsBoot (s u : State) : Prop where
  state : u.chip.devState = s.chip.devState
  shell : u.chip.shellUp = s.chip.shellUp
  err : u.chip.loadErr = s.chip.loadErr
  ldr : u.ldr = s.ldr
  regs : ∀ b, ¬ Beside b → rdReg u b = rdReg s b

namespace KeepsBoot

theorem refl (s : State) : KeepsBoot s s := ⟨rfl, rfl, rfl, rfl, fun _ _ => rfl⟩

theorem trans {s u v : State} (h : KeepsBoot s u) (k : KeepsBoot u v) : KeepsBoot s v where
  state := k.state.trans h.state
  shell := k.shell.trans h.shell
  err := k.err.trans h.err
  ldr := k.ldr.trans h.ldr
  regs b hb := (k.regs b hb).trans (h.regs b hb)

/-- State that `KeepsBoot` does not speak of. -/
theorem of_eq {s u : State} (hchip : u.chip = s.chip) (hldr : u.ldr = s.ldr) (hregs : u.regs = s.regs) : KeepsBoot s u where
  state := by rw [hchip]
  shell := by rw [hchip]
  err := by rw [hchip]
  ldr := hldr
  regs b _ := by rw [rdReg, hregs, rdReg]

theorem foldl {α : Type} {f : State → α → State} (l : List α) (hf : ∀ x, ∀ a ∈ l, KeepsBoot x (f x a)) (s : State) :
    KeepsBoot s (l.foldl f s) := by
  induction l generalizing s with
  | nil => exact .refl s
  | cons a l ih =>
    exact (hf s a (List.mem_cons_self ..)).trans (ih (fun x b hb => hf x b (List.mem_cons_of_mem _ hb)) _)

theorem whenDo {s : State} {f : State → State} (h : KeepsBoot s (f s)) (b : Bool) : KeepsBoot s (whenDo b f s) := by
  cases b
  · exact .refl s
  · exact h

theorem wrReg {a : Nat} (h : Beside a) (v : Word) (s : State) : KeepsBoot s (wrReg s a v) := by
  refine ⟨rfl, rfl, rfl, rfl, fun b hb => rdReg_wrReg_other s v ?_⟩
  rintro rfl
  exact hb h

theorem wrFld {a : Nat} (h : Beside a) (lo n x : Nat) (s : State) : KeepsBoot s (wrFld s a lo n x) := wrReg h _ s

theorem incFld {a : Nat} (h : Beside a) (lo n : Nat) (s : State) : KeepsBoot s (incFld s a lo n) := by
  unfold Machine.incFld
  dsimp only
  split
  · exact wrFld h ..
  · exact .refl s

end KeepsBoot

theorem Around.keepsBoot {s u : State} (h : Around s u) : KeepsBoot s u where
  state := by rw [h.chip]
  shell := by rw [h.chip]
  err := by rw [h.chip]
  ldr := h.ldr
  regs b hb := h.quiet b (by unfold Quiet linkA hstA; unfold Beside timA at hb; omega)

theorem CellarWorks.keepsBoot {s u : State} (h : CellarWorks s u) : KeepsBoot s u where
  state := by rw [h.chip]
  shell := by rw [h.chip]
  err := by rw [h.chip]
  ldr := h.ldr
  regs b hb := h.regs b (by unfold CellarReg celA; unfold Beside timA at hb; omega)

/-! ### Addresses beside the loader's -/

theorem beside_linkA (l o : Nat) : Beside (linkA l o) := .inr (by unfold linkA timA; omega)
theorem beside_laneA (p o : Nat) : Beside (laneA p o) := .inr (by unfold laneA timA; omega)
theorem beside_timA (o : Nat) : Beside (timA o) := .inr (by unfold timA; omega)
theorem beside_hstA (o : Nat) : Beside (hstA o) := .inr (by unfold hstA timA; omega)
theorem beside_shfA (h o : Nat) : Beside (shfA h o) := .inr (by unfold shfA timA; omega)
theorem beside_physA (p o : Nat) : Beside (physA p o) := .inr (by unfold physA timA; omega)

/-! ### Stewards (R473, R489, R629) -/

theorem keepsBoot_putCore (p : Nat) (x : Steward) (s : State) : KeepsBoot s (putCore p x s) := .of_eq rfl rfl rfl

theorem keepsBoot_putSrc (k : Nat) (x : TrcSrc) (s : State) : KeepsBoot s (putSrc k x s) := .of_eq rfl rfl rfl

theorem keepsBoot_putCache (l : Nat) (x : Option CacheLine) (s : State) : KeepsBoot s (putCache l x s) := .of_eq rfl rfl rfl

theorem keepsBoot_emit (k : Nat) (bytes : List Byte) (s : State) : KeepsBoot s (emit k bytes s) := by
  unfold emit
  dsimp only
  split
  · exact keepsBoot_putSrc ..
  split
  · exact keepsBoot_putSrc ..
  · exact keepsBoot_putSrc ..

theorem keepsBoot_emitCyc (p k : Nat) (s : State) : KeepsBoot s (emitCyc p k s) := by
  unfold emitCyc
  split
  · exact (keepsBoot_putSrc ..).trans (keepsBoot_emit ..)
  · exact .refl s

theorem keepsBoot_closeAtoms (p k : Nat) (s : State) : KeepsBoot s (closeAtoms p k s) := by
  unfold closeAtoms
  dsimp only
  split
  · exact .refl s
  · exact ((keepsBoot_putSrc ..).trans (keepsBoot_emitCyc ..)).trans (keepsBoot_emit ..)

theorem keepsBoot_emitPwr (reason p k : Nat) (s : State) : KeepsBoot s (emitPwr reason p k s) :=
  ((keepsBoot_closeAtoms p k s).trans (keepsBoot_putSrc ..)).trans (keepsBoot_emit ..)

theorem keepsBoot_stopClock (reason p : Nat) (s : State) : KeepsBoot s (stopClock reason p s) := by
  have htraced : KeepsBoot s (traced p (emitPwr reason p) s) := by
    unfold traced
    split
    · split
      · exact .refl s
      · exact keepsBoot_emitPwr ..
    · exact .refl s
  unfold stopClock
  split
  · exact .refl s
  · exact htraced.trans (keepsBoot_putCore ..)

theorem around_wakeLine (i : Nat) (only : Nat → Bool) (s : State) : Around s (wakeLine i only s) := by
  unfold wakeLine
  refine .foldl (fun x q _ => ?_) _
  split
  · exact around_wakeShelf _ (by decide) x
  · exact .refl x

theorem keepsBoot_raiseLine (p line : Nat) (s : State) : KeepsBoot s (raiseLine p line s) :=
  (keepsBoot_putCore p _ s).trans (around_wakeLine ..).keepsBoot

theorem keepsBoot_dirtyLost (p : Nat) (s : State) : KeepsBoot s (dirtyLost p s) :=
  (KeepsBoot.wrFld (beside_physA p _) 4 1 1 s).trans (cellarWorks_report ..).keepsBoot

theorem keepsBoot_writeBackLine (p l : Nat) (x : CacheLine) (s : State) : KeepsBoot s (writeBackLine p l x s) := by
  unfold writeBackLine
  split
  · exact (keepsBoot_dirtyLost p s).trans (keepsBoot_raiseLine ..)
  · exact (cellarWorks_lineWrite ..).keepsBoot

theorem keepsBoot_cleanLine (p l : Nat) (s : State) : KeepsBoot s (cleanLine p l s) := by
  unfold cleanLine
  split
  · exact .refl s
  · extract_lets mine y
    split
    · exact (keepsBoot_writeBackLine ..).trans (keepsBoot_putCache ..)
    · exact keepsBoot_putCache ..

theorem keepsBoot_evictData (p l : Nat) (s : State) : KeepsBoot s (evictData p l s) := by
  unfold evictData
  split
  · exact .refl s
  · exact keepsBoot_putCache ..

theorem keepsBoot_flushCore (p : Nat) (s : State) : KeepsBoot s (flushCore p s) := by
  unfold flushCore
  extract_lets s1 s2
  have hcleaned : KeepsBoot s s1 := .foldl _ (fun x l _ => keepsBoot_cleanLine p l x) s
  have hevicted : KeepsBoot s1 s2 := by
    refine .foldl _ (fun x q _ => ?_) s1
    split
    · split
      · exact keepsBoot_evictData ..
      · exact .refl x
    · exact .refl x
  exact (hcleaned.trans hevicted).trans (.of_eq rfl rfl rfl)

theorem keepsBoot_dropAccess (p : Nat) (s : State) : KeepsBoot s (dropAccess p s) := ⟨rfl, rfl, rfl, rfl, fun _ _ => rfl⟩

theorem keepsBoot_startCore (p : Nat) (s : State) : KeepsBoot s (startCore p s) := by
  unfold startCore
  extract_lets base c s1 stw s2
  have hstarted : KeepsBoot s s1 := (keepsBoot_dropAccess p s).trans (keepsBoot_putCore ..)
  have hcleared : KeepsBoot s s2 := hstarted.trans (.of_eq rfl rfl rfl)
  split
  · exact hcleared.trans (keepsBoot_putSrc ..)
  · exact hcleared

theorem keepsBoot_retireCore (p : Nat) (s : State) : KeepsBoot s (retireCore p s) := by
  unfold retireCore
  refine .trans ?_ (keepsBoot_putCore ..)
  refine .trans ?_ (keepsBoot_dropAccess ..)
  exact (KeepsBoot.whenDo (keepsBoot_stopClock ..) _).trans (keepsBoot_flushCore ..)

theorem keepsBoot_takeOverCore (q : Nat) (s : State) : KeepsBoot s (takeOverCore q s) :=
  (keepsBoot_startCore q s).trans (.wrFld (beside_physA ..) ..)

end Sys2Proof.Machine
end

section
/-! PROOFS. The retirement of units when a shell takes effect (R385, R558, R574, R622 to R625, R634). -/

namespace Sys2Proof.Machine

/-! ### Parts of the state beside the loader -/

theorem keepsBoot_att (a : Attic) (s : State) : KeepsBoot s { s with att := a } := .of_eq rfl rfl rfl

theorem keepsBoot_noc (n : Noc) (s : State) : KeepsBoot s { s with noc := n } := .of_eq rfl rfl rfl

theorem keepsBoot_spr (p : Spring) (s : State) : KeepsBoot s { s with spr := p } := .of_eq rfl rfl rfl

theorem keepsBoot_clusterMap (m : SMap Nat) (s : State) : KeepsBoot s { s with chip := { s.chip with clusterMap := m } } :=
  ⟨rfl, rfl, rfl, rfl, fun _ _ => rfl⟩

/-! ### Sections of the resident copy (R67, R623) -/

theorem keepsBoot_ldReg {a : Nat} (h : Beside a) (v : Nat) (s : State) : KeepsBoot s (ldReg a v s) := by
  unfold ldReg
  split
  · exact (KeepsBoot.wrReg h _ s).trans (.of_eq rfl rfl rfl)
  · exact .refl s

theorem keepsBoot_ldWords {addr : Nat → Nat} (h : ∀ i, Beside (addr i)) (t : List Byte) (at0 n : Nat) (s : State) :
    KeepsBoot s (ldWords t at0 n addr s) := .foldl _ (fun x i _ => keepsBoot_ldReg (h i) _ x) s

theorem keepsBoot_putBpEntry (k : Nat) (w : BitVec 72) (s : State) : KeepsBoot s (putBpEntry k w s) := .of_eq rfl rfl rfl

theorem keepsBoot_putWeEntry (k : Nat) (w : BitVec 64) (s : State) : KeepsBoot s (putWeEntry k w s) := .of_eq rfl rfl rfl

theorem keepsBoot_ldBpi (p : Nat) (e : ImgSect) (t : List Byte) (s : State) : KeepsBoot s (ldBpi p e t s) :=
  .foldl _ (fun x _ _ => keepsBoot_putBpEntry _ _ x) s

theorem keepsBoot_ldWen (p : Nat) (e : ImgSect) (t : List Byte) (s : State) : KeepsBoot s (ldWen p e t s) :=
  .foldl _ (fun x _ _ => keepsBoot_putWeEntry _ _ x) s

theorem keepsBoot_ldBpc (p : Nat) (t : List Byte) (s : State) : KeepsBoot s (ldBpc p t s) := by
  refine .foldl _ (fun x n _ => keepsBoot_ldWords (fun i => ?_) _ _ _ x) s
  split
  · exact beside_physA ..
  · exact beside_physA ..
  · exact beside_physA ..

theorem keepsBoot_ldWenCfg (p : Nat) (t : List Byte) (s : State) : KeepsBoot s (ldWenCfg p t s) := by
  refine .foldl _ (fun x e _ => keepsBoot_ldWords (fun i => ?_) _ _ _ x) s
  split
  · exact beside_physA ..
  · exact beside_physA ..

theorem keepsBoot_ldFab (p : Nat) (t : List Byte) (s : State) : KeepsBoot s (ldFab p t s) := by
  refine keepsBoot_ldWords (fun i => ?_) ..
  split
  · exact beside_physA ..
  split
  · exact beside_physA ..
  · exact beside_physA ..

/-- The sections that repair a cluster write instruction memories, tables and the fabric. -/
theorem keepsBoot_ldSection {q : Staged} (h : q.sect.typ ∈ [0x10, 0x11, 0x13, 0x14, 0x18, 0x20]) (s : State) :
    KeepsBoot s (ldSection q s) := by
  unfold ldSection
  dsimp only
  simp only [List.mem_cons, List.not_mem_nil, or_false] at h
  rcases h with h | h | h | h | h | h
  · rw [h]; exact keepsBoot_ldBpi ..
  · rw [h]; exact keepsBoot_ldBpc ..
  · rw [h]; exact keepsBoot_ldWen ..
  · rw [h]; exact keepsBoot_ldWenCfg ..
  · rw [h]; exact keepsBoot_ldFab ..
  · rw [h]; exact keepsBoot_ldWords (fun i => beside_shfA ..) ..

theorem keepsBoot_repairCluster (m : Nat) (s : State) : KeepsBoot s (repairCluster m s) := by
  refine .foldl _ (fun x q hq => keepsBoot_ldSection ?_ x) s
  have hkept := List.of_mem_filter hq
  simp only [Bool.or_eq_true, Bool.and_eq_true, List.contains_iff_mem, decide_eq_true_eq] at hkept
  rcases hkept with ⟨htyp, -⟩ | ⟨htyp, -⟩
  · simp only [List.mem_cons, List.not_mem_nil, or_false] at htyp ⊢
    omega
  · simp [htyp]

/-! ### A cluster moves to its spare (R622, R623) -/

/-- Writes of other keys leave a key. -/
theorem mapGet_foldl_mapSet_other {α β : Type} [DecidableEq α] (d : α) {key : β → Nat} (dflt val : β → α) {k : Nat}
    {l : List β} (h : ∀ x ∈ l, k ≠ key x) (m : SMap α) :
    mapGet d (l.foldl (fun acc x => mapSet (dflt x) acc (key x) (val x)) m) k = mapGet d m k := by
  induction l generalizing m with
  | nil => rfl
  | cons x l ih =>
    obtain ⟨hx, hl⟩ := List.forall_mem_cons.1 h
    exact (ih hl _).trans (mapGet_mapSet_other hx)

/-- Registers below the windows of clusters stay when a cluster's registers are copied. -/
theorem mapGet_copyRegs (p q : Nat) {b : Nat} (h : b < 0x10000000) (regs : SMap Word) :
    mapGet (regReset b) (copyRegs p q regs) b = mapGet (regReset b) regs b := by
  have hbelow (c : Nat) : ¬ physA c 0 ≤ b := by
    unfold physA
    omega
  unfold copyRegs
  dsimp only
  rw [mapGet_foldl_mapSet_other]
  · refine mapGet_filter _ (fun v => ?_) regs
    simp [hbelow]
  · intro x hx
    have hmine := List.of_mem_filter hx
    simp only [Bool.and_eq_true, decide_eq_true_eq] at hmine
    obtain ⟨⟨hlow, hhigh⟩, -⟩ := hmine
    unfold moveAddr
    rw [if_pos ⟨hlow, hhigh⟩]
    have := hbelow q
    omega

theorem keepsBoot_copyCluster (p q : Nat) (s : State) : KeepsBoot s (copyCluster p q s) := by
  unfold copyCluster
  dsimp only
  refine .trans ?copied (.whenDo (.wrFld (.inl (by decide)) ..) _)
  case copied =>
    refine ⟨rfl, rfl, rfl, rfl, fun b hb => mapGet_copyRegs p q ?_ s.regs⟩
    unfold Beside timA at hb
    omega

theorem keepsBoot_putSched (p : Nat) (x : Sched) (s : State) : KeepsBoot s (putSched p x s) := .of_eq rfl rfl rfl

theorem keepsBoot_schedMove (p q : Nat) (s : State) : KeepsBoot s (schedMove p q s) := by
  unfold schedMove
  dsimp only
  refine .trans ?_ (.foldl _ (fun x o _ => .wrReg (beside_physA ..) _ x) _)
  refine .trans ?_ (keepsBoot_putSched ..)
  refine .foldl _ (fun x f _ => ?_) s
  split
  · exact (KeepsBoot.wrFld (beside_physA ..) _ 1 1 x).trans (cellarWorks_report ..).keepsBoot
  · exact .refl x

theorem keepsBoot_setRole (p : Nat) (r : Role) (s : State) : KeepsBoot s (setRole p r s) :=
  ⟨rfl, rfl, rfl, rfl, fun _ _ => rfl⟩

/-- Every cluster's bank bits. -/
theorem keepsBoot_bankBits (b p : Nat) (s : State) :
    KeepsBoot s ((List.range 8).foldl (fun x e => wrFld x (wenA p e 0x2200) 1 1 b)
      ((List.range 128).foldl (fun x n => wrFld x (bpcA p n 0xC) 1 1 b) s)) := by
  refine .trans ?_ (.foldl _ (fun y e _ => .wrFld (beside_physA ..) 1 1 b y) _)
  exact .foldl _ (fun y n _ => .wrFld (beside_physA ..) 1 1 b y) s

theorem keepsBoot_setBank (b : Nat) (s : State) : KeepsBoot s (setBank b s) := by
  unfold setBank
  dsimp only
  refine .trans ?_ (keepsBoot_spr ..)
  exact .foldl _ (fun x m _ => keepsBoot_bankBits b _ x) s

theorem keepsBoot_moveCluster (p q m : Nat) (s : State) : KeepsBoot s (moveCluster p q m s) := by
  unfold moveCluster
  dsimp only
  refine .trans ?_ (keepsBoot_takeOverCore ..)
  refine .trans ?_ (.whenDo (keepsBoot_setBank ..) _)
  refine .trans ?_ (keepsBoot_repairCluster ..)
  refine .trans ?_ (keepsBoot_clusterMap ..)
  refine .trans ?_ (keepsBoot_setRole ..)
  refine .trans ?_ (keepsBoot_setRole ..)
  refine .trans ?_ (keepsBoot_retireCore ..)
  exact (keepsBoot_copyCluster ..).trans (keepsBoot_schedMove ..)

theorem keepsBoot_retireCluster (p : Nat) (s : State) : KeepsBoot s (retireCluster p s) := by
  unfold retireCluster
  split
  · exact .refl s
  · exact keepsBoot_setRole ..
  · split
    · exact keepsBoot_moveCluster ..
    · exact .refl s

/-! ### Lanes, pseudo-channels and DMA channels (R385, R558, R574) -/

theorem keepsBoot_retireLane (l p : Nat) (s : State) : KeepsBoot s (retireLane l p s) := by
  unfold retireLane
  refine .trans ?_ (.wrFld (beside_linkA ..) ..)
  refine .trans ?_ (.wrFld (beside_linkA ..) ..)
  exact (KeepsBoot.wrFld (beside_laneA ..) 2 2 3 s).trans (.wrFld (beside_laneA ..) ..)

theorem keepsBoot_swapLanes (l i : Nat) (s : State) : KeepsBoot s (swapLanes l i s) := by
  unfold swapLanes
  dsimp only
  refine .trans ?_ (.incFld (beside_linkA ..) ..)
  refine .trans ?_ (.wrFld (beside_linkA ..) ..)
  refine .trans ?_ (.wrFld (beside_laneA ..) ..)
  refine .trans ?_ (.wrFld (beside_laneA ..) ..)
  split
  · exact keepsBoot_retireLane ..
  · exact .refl s

theorem keepsBoot_sendCmd (l cmd clane : Nat) (s : State) : KeepsBoot s (sendCmd l cmd clane s) := .of_eq rfl rfl rfl

theorem keepsBoot_retireLaneUnit (p : Nat) (s : State) : KeepsBoot s (retireLaneUnit p s) := by
  unfold retireLaneUnit
  dsimp only
  split
  · split
    · exact keepsBoot_sendCmd ..
    · exact keepsBoot_swapLanes ..
  · exact (keepsBoot_retireLane ..).trans (.wrFld (beside_linkA ..) ..)
  · exact .refl s

theorem keepsBoot_putPc (pc : Nat) (x : PcState) (s : State) : KeepsBoot s (putPc pc x s) := .of_eq rfl rfl rfl

theorem keepsBoot_retirePc (pc : Nat) (s : State) : KeepsBoot s (retirePc pc s) := by
  unfold retirePc
  dsimp only
  split
  · exact .refl s
  split
  · exact keepsBoot_putPc ..
  split
  · exact keepsBoot_putPc ..
  · exact (keepsBoot_putPc ..).trans (keepsBoot_putPc ..)

theorem keepsBoot_putChan (n : Nat) (x : DmaCh) (s : State) : KeepsBoot s (putChan n x s) := .of_eq rfl rfl rfl

theorem beside_dmaReg (n o : Nat) : Beside (dmaReg n o) := .inr (by unfold dmaReg dmaA timA; omega)

theorem keepsBoot_dmaEnd (n : Nat) (st : DmaSt) (err : Nat) (s : State) : KeepsBoot s (dmaEnd n st err s) := by
  unfold dmaEnd
  dsimp only
  refine .trans ?_ (.whenDo (around_msix ..).keepsBoot _)
  refine .trans ?_ (.whenDo (keepsBoot_raiseLine ..) _)
  refine .trans ?_ (.wrFld (.inr (by decide)) ..)
  refine .trans ?_ (.wrFld (beside_dmaReg ..) ..)
  exact (keepsBoot_putChan n _ s).trans (keepsBoot_noc ..)

theorem keepsBoot_dmaRetire (n : Nat) (s : State) : KeepsBoot s (dmaRetire n s) := by
  unfold dmaRetire dmaStop
  dsimp only
  split
  · split
    · exact keepsBoot_dmaEnd ..
    · exact keepsBoot_putChan ..
  · exact keepsBoot_dmaEnd ..

/-! ### Retirement (R625, R634) -/

theorem keepsBoot_retireUnit (cls unit : Nat) (s : State) : KeepsBoot s (retireUnit cls unit s) := by
  unfold retireUnit unitLog
  dsimp only
  refine .trans ?_ (cellarWorks_attLog ..).keepsBoot
  split
  · exact keepsBoot_retireCluster ..
  · exact keepsBoot_retireLaneUnit ..
  · exact keepsBoot_retirePc ..
  · exact (keepsBoot_att ..).trans (keepsBoot_dmaRetire ..)
  · exact .refl s

theorem keepsBoot_preRetire (u : Nat × Nat) (s : State) : KeepsBoot s (preRetire u s) := by
  unfold preRetire
  split
  · exact .refl s
  · exact .refl s
  · exact keepsBoot_retireUnit ..
  · split
    · exact keepsBoot_retireUnit ..
    · exact (cellarWorks_attLog ..).keepsBoot

theorem keepsBoot_takePolicy (t : Option (List Byte)) (s : State) : KeepsBoot s (takePolicy t s) := by
  unfold takePolicy
  split
  · exact keepsBoot_att ..
  · exact (keepsBoot_att ..).trans (.foldl _ (fun x u _ => keepsBoot_preRetire u x) _)

end Sys2Proof.Machine
end

section
/-! PROOFS. Delivery of the shell, its checks, and the shell that takes effect (R230 to R238). -/

namespace Sys2Proof.Machine

/-! ### Frames (R231 to R233) -/

theorem shellOpen_flash {s : State} {src : Nat} (hsrc : src < 2) (hboot : s.chip.devState = .boot) (hstage : s.ldr.boot = 4)
    (hidle : s.ldr.checking = none) (himg : imgState s = 1) (hlive : (rxOf s src).live = true) : shellOpen src s = true := by
  simp [shellOpen, hsrc, hboot, hstage, hidle, himg, hlive]

theorem shellFrame_good {s : State} {src : Nat} {f : List Byte} (hopen : shellOpen src s = true) (hsrc : src < 2)
    (hgood : frameGood f = true) (l : Nat) : shellFrame src l f s = shellTake src f s := by
  unfold shellFrame
  dsimp only
  rw [if_neg (by simp [hopen]), if_pos hsrc, if_pos hgood]

theorem shellFrame_again {s : State} {src : Nat} {f : List Byte} (hopen : shellOpen src s = true) (hsrc : src < 2)
    (hbad : frameGood f = false) (htries : (rxOf s src).tries < 3) (l : Nat) :
    shellFrame src l f s = putRx src { rxOf s src with tries := (rxOf s src).tries + 1 } s := by
  unfold shellFrame
  dsimp only
  rw [if_neg (by simp [hopen]), if_pos hsrc, if_neg (by simp [hbad]), if_neg (by omega)]

theorem shellFrame_ends {s : State} {src : Nat} {f : List Byte} (hopen : shellOpen src s = true) (hsrc : src < 2)
    (hbad : frameGood f = false) (htries : (rxOf s src).tries = 3) (l : Nat) :
    shellFrame src l f s = shellFail src 0x29 s := by
  unfold shellFrame
  dsimp only
  rw [if_neg (by simp [hopen]), if_pos hsrc, if_neg (by simp [hbad]), if_pos htries]

/-- A bad frame of the head is asked for again. -/
theorem shellFrame_head {s : State} (hopen : shellOpen 2 s = true) (hfull : 4100 ≤ (rxOf s 2).buf.length)
    (hbad : frameGood ((rxOf s 2).buf.take 4100) = false) (htries : (rxOf s 2).tries < 3) (l : Nat) (f : List Byte) :
    shellFrame 2 l f s = sendService l 0x21 0 (leBytes 2 (rxOf s 2).next)
      (putRx 2 { rxOf s 2 with buf := [], tries := (rxOf s 2).tries + 1 }
        (putRx 2 { rxOf s 2 with buf := (rxOf s 2).buf.drop 4100 } s)) := by
  unfold shellFrame
  dsimp only
  rw [if_neg (by simp [hopen]), if_neg (by decide), if_neg (by omega), if_neg (by simp [hbad]), if_neg (by decide),
    if_neg (by omega)]

/-- What a source has received after a good frame. -/
def frameTaken (src : Nat) (f : List Byte) (s : State) : State :=
  putRx src { rxOf s src with
    bytes := (rxOf s src).bytes ++ f.take 4096, next := (rxOf s src).next + 1, tries := 0 } s

theorem shellTake_more {s : State} {src : Nat} {f : List Byte} (hgood : shellHdrGood ((rxOf s src).bytes ++ f.take 4096) = true)
    (hmore : (rxOf s src).next + 1 ≠ shellFrames ((rxOf s src).bytes ++ f.take 4096)) :
    shellTake src f s = frameTaken src f s := by
  unfold shellTake
  dsimp only
  rw [if_neg (by simp [hgood]), if_neg hmore]
  rfl

theorem shellTake_last {s : State} {src : Nat} {f : List Byte} (hgood : shellHdrGood ((rxOf s src).bytes ++ f.take 4096) = true)
    (hlast : (rxOf s src).next + 1 = shellFrames ((rxOf s src).bytes ++ f.take 4096)) :
    shellTake src f s = setImg 3 (onLdr (fun l => { l with checking := some src }) (frameTaken src f s)) := by
  unfold shellTake
  dsimp only
  rw [if_neg (by simp [hgood]), if_pos hlast]
  rfl

/-- The next frame of the head joins what waits. -/
theorem shFrame_next {s : State} {l : Nat} (hboot : s.chip.devState = .boot) (hshell : s.chip.shellUp = false)
    (hlink : linkState s l = 10) (hl : l < 64) (hidle : s.ldr.checking ≠ some 2) (f : List Byte) :
    shFrame l ((rxOf s 2).next + (rxOf s 2).buf.length / 4100) f s =
      putRx 2 { rxOf s 2 with live := true, buf := (rxOf s 2).buf ++ f } s := by
  unfold shFrame
  dsimp only
  rw [if_neg (by simp [hboot, hshell, hlink, hl, hidle]), if_pos rfl]

/-- A head sends the frame that a child names. -/
theorem shReq_served {s : State} {l i : Nat} {b : List Byte} {q : List (Nat × List Byte)} (hserve : s.ldr.serve = (l, b) :: q)
    (hshell : s.chip.shellUp = true) (hlink : linkState s l = 10) (hi : 4096 * i < b.length) :
    shReq l i s = sendService l 0x20 0xFFF (leBytes 2 i ++ frameOf b i) s := by
  have hframe : i < ceilDiv b.length 4096 := by
    unfold ceilDiv
    by_cases hfull : b.length % 4096 = 0
    · simp [hfull, b2n]
      omega
    · simp [hfull, b2n]
      omega
  have hfind : s.ldr.serve.find? (fun x => x.1 = l) = some (l, b) := by simp [hserve]
  unfold shReq
  rw [hfind]
  exact if_pos ⟨hshell, hlink, hframe⟩

theorem imgShellFeed_open {s : State} (hboot : s.chip.devState = .boot) (hshell : s.chip.shellUp = false)
    (hidle : s.ldr.checking ≠ some 3) : imgShellFeed s = openFeed (putRx 3 { ShellRx.reset with live := true } s) :=
  if_pos ⟨hboot, hshell, hidle⟩

/-! ### An attempt that fails (R230, R238) -/

/-- In `t` the attempt on a source has ended with an error code. -/
structure ShellFails (s t : State) (src code : Nat) : Prop where
  code : rdFld t (imgA 8) 0 8 = code
  state : t.chip.devState = s.chip.devState
  shell : t.chip.shellUp = s.chip.shellUp
  checking : t.ldr.checking = none
  crt : t.crt = s.crt
  stw : t.stw = s.stw
  primary : src = 0 → imgState t = 1 ∧ (rxOf t 1).live = true ∧ t.chip = s.chip
  waits : src ≠ 0 → imgState t = 2 ∧ t.chip.loadErr = true

/-- The error of an attempt is captured, and nothing of its source stays. -/
def shellErred (src code : Nat) (s : State) : State :=
  captureErr (plainErr s code) (putRx src ShellRx.reset (onLdr (fun l => { l with checking := none }) s))

theorem shellErred_chip (src code : Nat) (s : State) : (shellErred src code s).chip = s.chip := captureErr_chip ..
theorem shellErred_crt (src code : Nat) (s : State) : (shellErred src code s).crt = s.crt := rfl
theorem shellErred_stw (src code : Nat) (s : State) : (shellErred src code s).stw = s.stw := rfl
theorem shellErred_checking (src code : Nat) (s : State) : (shellErred src code s).ldr.checking = none := rfl

theorem rdFld_shellErred {code : Nat} (h : code < 256) (src : Nat) (s : State) :
    rdFld (shellErred src code s) (imgA 8) 0 8 = code := by
  rw [shellErred, rdFld_captureErr]
  exact Nat.mod_eq_of_lt h

theorem shellFail_primary (code : Nat) (s : State) :
    shellFail 0 code s = setImg 1 (putRx 1 { ShellRx.reset with live := true } (shellErred 0 code s)) := by
  unfold shellFail
  exact if_pos rfl

/-- The device waits for another shell, with LOAD_ERR_N asserted. -/
def shellWaits (src : Nat) (s : State) : State :=
  let s1 := whenDo (decide (src = 3)) closeFeed (setImg 2 s)
  { s1 with chip := { s1.chip with loadErr := true } }

theorem shellFail_other {src : Nat} (h : src ≠ 0) (code : Nat) (s : State) :
    shellFail src code s = shellWaits src (shellErred src code s) := by
  unfold shellFail
  exact if_neg h

theorem shellFails_primary {code : Nat} (h : code < 256) (s : State) : ShellFails s (shellFail 0 code s) 0 code := by
  have hcode := rdFld_shellErred h 0 s
  have hchip := shellErred_chip 0 code s
  have hcrt := shellErred_crt 0 code s
  have hstw := shellErred_stw 0 code s
  have hchecking := shellErred_checking 0 code s
  rw [shellFail_primary]
  generalize shellErred 0 code s = x at hcode hchip hcrt hstw hchecking ⊢
  have hrx : rxOf (putRx 1 { ShellRx.reset with live := true } x) 1 = { ShellRx.reset with live := true } := rxOf_putRx_same ..
  refine ⟨?_, congrArg Chip.devState hchip, congrArg Chip.shellUp hchip, hchecking, hcrt, hstw, fun _ => ⟨?_, ?_, hchip⟩,
    fun hne => absurd rfl hne⟩
  · rw [rdFld, rdReg_setImg_other _ _ (by decide)]
    exact hcode
  · exact imgState_setImg (by decide) _
  · exact congrArg ShellRx.live hrx

/-- LOAD_ERR_N is asserted once the device waits. -/
theorem shellFails_loadErr {s y : State} {src code : Nat} (hsrc : src ≠ 0) (hcode : rdFld y (imgA 8) 0 8 = code)
    (himg : imgState y = 2) (hchip : y.chip = s.chip) (hcrt : y.crt = s.crt) (hstw : y.stw = s.stw)
    (hchecking : y.ldr.checking = none) :
    ShellFails s { y with chip := { y.chip with loadErr := true } } src code := by
  have hstate : y.chip.devState = s.chip.devState := by rw [hchip]
  have hshell : y.chip.shellUp = s.chip.shellUp := by rw [hchip]
  exact ⟨hcode, hstate, hshell, hchecking, hcrt, hstw, fun h => absurd h hsrc, fun _ => ⟨himg, rfl⟩⟩

/-- What waiting for another shell leaves. -/
theorem shellFails_waits {s x : State} {src code : Nat} (hsrc : src ≠ 0) (hcode : rdFld x (imgA 8) 0 8 = code)
    (hchip : x.chip = s.chip) (hcrt : x.crt = s.crt) (hstw : x.stw = s.stw) (hchecking : x.ldr.checking = none) :
    ShellFails s (shellWaits src x) src code := by
  have hset : rdReg (setImg 2 x) (imgA 8) = rdReg x (imgA 8) := rdReg_setImg_other 2 x (by decide)
  have hclose : rdReg (closeFeed (setImg 2 x)) (imgA 8) = rdReg (setImg 2 x) (imgA 8) := rdReg_clrBit_other _ 5 (by decide)
  have himg : imgState (setImg 2 x) = 2 := imgState_setImg (by decide) x
  unfold shellWaits
  cases decide (src = 3)
  · refine shellFails_loadErr (y := setImg 2 x) hsrc ?_ himg hchip hcrt hstw hchecking
    rw [← hcode, rdFld, hset, rdFld]
  · refine shellFails_loadErr (y := closeFeed (setImg 2 x)) hsrc ?_ ((imgState_closeFeed _).trans himg) hchip hcrt hstw hchecking
    rw [← hcode, rdFld, hclose, hset, rdFld]

theorem shellFails_shellFail {code : Nat} (h : code < 256) (src : Nat) (s : State) : ShellFails s (shellFail src code s) src code := by
  by_cases hsrc : src = 0
  · subst hsrc
    exact shellFails_primary h s
  · rw [shellFail_other hsrc]
    exact shellFails_waits hsrc (rdFld_shellErred h src s) (shellErred_chip ..) (shellErred_crt ..) (shellErred_stw ..)
      (shellErred_checking ..)

/-- The codes of a shell that is refused. -/
theorem shellCode_lt {b : List Byte} {s : State} {code : Nat} (h : shellCode b s = some code) : code < 256 := by
  have hcodes : code = 0x2A ∨ code = 0x2B ∨ code = 0x2C := by
    unfold shellCode at h
    extract_lets len text cust sig custGood at h
    split at h
    · exact .inl (Option.some.inj h).symm
    split at h
    · exact .inr (.inl (Option.some.inj h).symm)
    split at h
    · exact .inr (.inr (Option.some.inj h).symm)
    split at h
    · exact .inl (Option.some.inj h).symm
    split at h
    · contradiction
    · exact .inl (Option.some.inj h).symm
  omega

/-! ### A shell takes effect (R238) -/

/-- One lane of the link map. -/
theorem keepsBoot_setLane (p role index link txpre : Nat) (s : State) :
    KeepsBoot s (wrReg (wrReg s (laneA p 4) (BitVec.ofNat 32 (4 * role + 16 * link + 1024 * index))) (laneA p 0x18)
      (BitVec.ofNat 32 txpre)) :=
  (KeepsBoot.wrReg (beside_laneA ..) _ s).trans (.wrReg (beside_laneA ..) ..)

theorem keepsBoot_placeLanes (k : MapLink) (s : State) : KeepsBoot s (placeLanes k s) := by
  unfold placeLanes
  extract_lets dead set lanes spare lost free s1 s2 s3
  have hset (p role index : Nat) (x : State) : KeepsBoot x (set p role index x) := keepsBoot_setLane p role index k.link k.txpre x
  have hactive : KeepsBoot s s1 := .foldl _ (fun x p _ => hset p 1 _ x) s
  have hspare : KeepsBoot s1 s2 := by
    change KeepsBoot s1 (if k.spare then set spare (if dead spare then 3 else 2) 16 s1 else s1)
    split
    · exact hset ..
    · exact .refl s1
  have hplaced : KeepsBoot s s3 := (hactive.trans hspare).trans (.wrReg (beside_linkA ..) ..)
  clear_value lost free s3 set
  cases lost with
  | none => exact hplaced
  | some p =>
    cases free
    · exact hplaced
    · refine .trans ?_ (.wrFld (beside_linkA ..) ..)
      refine .trans ?_ (.wrFld (beside_linkA ..) ..)
      refine .trans ?_ (keepsBoot_retireLane ..)
      exact (hplaced.trans (hset ..)).trans (hset ..)

theorem keepsBoot_placeLink (k : MapLink) (s : State) : KeepsBoot s (placeLink k s) := by
  unfold placeLink
  dsimp only
  refine .trans ?_ (keepsBoot_placeLanes ..)
  exact (KeepsBoot.wrReg (beside_linkA ..) _ s).trans (.wrReg (beside_linkA ..) ..)

theorem keepsBoot_takeLinkMap {s : State} (h : s.chip.devState ≠ .running) (ks : List MapLink) :
    KeepsBoot s (takeLinkMap ks s) := by
  have hplaced : KeepsBoot s (ks.foldl (fun acc k => placeLink k acc)
      ((List.range 16).foldl (fun acc l => setLinkState l 0 acc) { s with lnk := [] })) := by
    refine .trans ?_ (.foldl _ (fun x k _ => keepsBoot_placeLink k x) _)
    refine .trans (u := { s with lnk := [] }) (.of_eq rfl rfl rfl) ?_
    exact .foldl _ (fun x l _ => .wrFld (beside_linkA ..) 0 4 0 x) _
  unfold takeLinkMap
  dsimp only
  generalize ks.foldl (fun acc k => placeLink k acc) _ = x at hplaced ⊢
  refine hplaced.trans (Around.foldl (fun y k hy => around_beginTraining ?_ k.link) _).keepsBoot
  rwa [hy, hplaced.state]

theorem keepsBoot_takeCrate (c : CrateRec) (s : State) : KeepsBoot s (takeCrate c s) := by
  unfold takeCrate
  refine .trans ?_ (.wrFld (beside_hstA ..) ..)
  exact .of_eq rfl rfl rfl

theorem keepsBoot_takeTime (t : List Byte) (s : State) : KeepsBoot s (takeTime t s) := by
  have hregs (x : State) (a : Nat) (v : Word) (h : KeepsBoot s x) : KeepsBoot s (wrReg x (timA a) v) :=
    h.trans (.wrReg (beside_timA a) v x)
  unfold takeTime
  dsimp only
  refine .trans (.trans ?_ (.foldl _ (fun x q _ => .wrReg (beside_timA ..) _ x) _)) (.of_eq rfl rfl rfl)
  exact hregs _ _ _ (hregs _ _ _ (hregs _ _ _ (hregs _ _ _ (.refl s))))

theorem keepsBoot_cel (c : Cellar) (s : State) : KeepsBoot s { s with cel := c } := .of_eq rfl rfl rfl

theorem keepsBoot_stw (x : Stewards) (s : State) : KeepsBoot s { s with stw := x } := .of_eq rfl rfl rfl

/-- The firmware segments that are not zero are copied. -/
theorem keepsBoot_fwCopied (t : List Byte) (s : State) :
    KeepsBoot s ((fwSegs t).foldl (fun acc g => if g.zero then acc
      else celPut .attic (fwByte acc g.dest) ((t.drop g.src).take g.len) acc) s) := by
  refine .foldl _ (fun x g _ => ?_) s
  split
  · exact .refl x
  · exact (cellarWorks_celPut ..).keepsBoot

theorem keepsBoot_takeFirmware (t : Option (List Byte)) (s : State) : KeepsBoot s (takeFirmware t s) := by
  unfold takeFirmware
  dsimp only
  refine .trans ?_ (cellarWorks_celPut ..).keepsBoot
  refine .trans ?_ (keepsBoot_att ..)
  split
  · exact keepsBoot_cel ..
  · refine .trans ?_ (.foldl _ (fun x p _ => .wrReg (beside_physA ..) _ x) _)
    exact ((keepsBoot_cel _ s).trans (keepsBoot_fwCopied ..)).trans (keepsBoot_stw ..)

theorem keepsBoot_startStewards (fw : Bool) (s : State) : KeepsBoot s (startStewards fw s) := by
  have hcaches : KeepsBoot s (dropCaches s) := .of_eq rfl rfl rfl
  unfold startStewards
  dsimp only
  split
  · exact hcaches
  split
  · exact hcaches.trans (.foldl _ (fun x m _ => keepsBoot_startCore _ x) _)
  · exact hcaches.trans (keepsBoot_startCore ..)

theorem keepsBoot_takeIo (t : Option (List Byte)) (s : State) : KeepsBoot s (takeIo t s) := by
  unfold takeIo
  split
  · exact .refl s
  · refine .trans ?_ (.wrReg (beside_hstA ..) ..)
    refine .trans ?_ (.wrReg (beside_hstA ..) ..)
    refine .trans ?_ (.wrReg (beside_hstA ..) ..)
    exact .of_eq rfl rfl rfl

/-- LINKMAP, CRATE and TIME are in force. -/
def crateTaken (rs : List ShellRec) (s : State) : State :=
  let c := ((recOf rs 2).map crateRec).getD noCrate
  let s1 := takeCrate c (takeLinkMap (linkMap rs) s)
  let s2 := match recOf rs 3 with
    | some t => takeTime t s1
    | none => s1
  whenDo (c.root && rdBit s2 timStat 0) (fun x => setBit x timStat 1) s2

/-- CELLPLAN is in force. -/
def planTaken (rs : List ShellRec) (s : State) : State :=
  wrFld (layoutGeneral (planOf rs).1 (planOf rs).2.1 (planOf rs).2.2 s) (imgA 0x24) 0 5 (planOf rs).1

/-- STWFW and IOCFG are in force. -/
def stewardsTaken (rs : List ShellRec) (s : State) : State :=
  takeIo (recOf rs 7) (startStewards (recOf rs 4).isSome (takeFirmware (recOf rs 4) s))

/-- STATE, SOURCE and SIGNED of a shell. -/
def shellFlagged (src : Nat) (b : List Byte) (s : State) : State :=
  wrFld (wrFld (setImg 0 (wrReg s (imgA 0x50) (BitVec.ofNat 32 (shellVersion b)))) imgStat 10 2 src) imgStat 12 1
    (shellFlags b % 2)

/-- The shell has taken effect, and the loader holds the shells of the children. -/
def shellUpNow (rs : List ShellRec) (s : State) : State :=
  let s9 := closeFeed (onLdr (fun l => { l with
    boot := 5, rx := [], checking := none
    serve := (rs.filter (fun r => r.typ = 8)).map (fun r => (leAt r.body 0 1, r.body.drop 8)) }) s)
  { s9 with chip := { s9.chip with shellUp := true, loadErr := false } }

/-- The identity of a shell. -/
def shellIdent (b : List Byte) (s : State) : State :=
  (List.range 4).foldl (fun acc i => wrReg acc (imgA (0x40 + 4 * i)) (BitVec.ofNat 32 (leAt b (0x18 + 4 * i) 4))) s

theorem takeShell_eq (src : Nat) (b : List Byte) (rs : List ShellRec) (s : State) :
    takeShell src b rs s = takePolicy (recOf rs 5)
      (shellUpNow rs (shellFlagged src b (shellIdent b (stewardsTaken rs (planTaken rs (crateTaken rs s)))))) := rfl

theorem keepsBoot_crateTaken {s : State} (h : s.chip.devState ≠ .running) (rs : List ShellRec) :
    KeepsBoot s (crateTaken rs s) := by
  unfold crateTaken
  dsimp only
  refine .trans ?_ (.whenDo (f := fun x => setBit x timStat 1) (.wrFld (.inr (by decide)) 1 1 1 _) _)
  have hcrate := (keepsBoot_takeLinkMap h (linkMap rs)).trans
    (keepsBoot_takeCrate (((recOf rs 2).map crateRec).getD noCrate) _)
  split
  · exact hcrate.trans (keepsBoot_takeTime ..)
  · exact hcrate

theorem planTaken_chip (rs : List ShellRec) (s : State) : (planTaken rs s).chip = s.chip := by
  rw [planTaken, wrFld_chip, (cellarWorks_layoutGeneral ..).chip]

theorem keepsBoot_stewardsTaken (rs : List ShellRec) (s : State) : KeepsBoot s (stewardsTaken rs s) :=
  ((keepsBoot_takeFirmware ..).trans (keepsBoot_startStewards ..)).trans (keepsBoot_takeIo ..)

/-- In `t` a shell of source `src` is in force. -/
structure ShellTaken (s t : State) (src : Nat) (b : List Byte) : Prop where
  state : t.chip.devState = s.chip.devState
  shell : t.chip.shellUp = true
  err : t.chip.loadErr = false
  boot : t.ldr.boot = 5
  rx : t.ldr.rx = []
  checking : t.ldr.checking = none
  version : rdReg t (imgA 0x50) = BitVec.ofNat 32 (shellVersion b)
  source : rdFld t imgStat 10 2 = src % 4

theorem ShellTaken.keeps {s t u : State} {src : Nat} {b : List Byte} (h : ShellTaken s t src b) (k : KeepsBoot t u) :
    ShellTaken s u src b where
  state := k.state.trans h.state
  shell := k.shell.trans h.shell
  err := k.err.trans h.err
  boot := (congrArg Loader.boot k.ldr).trans h.boot
  rx := (congrArg Loader.rx k.ldr).trans h.rx
  checking := (congrArg Loader.checking k.ldr).trans h.checking
  version := (k.regs _ (by decide)).trans h.version
  source := by rw [← h.source, rdFld, k.regs _ (by decide), rdFld]

theorem shellFlagged_chip (src : Nat) (b : List Byte) (s : State) : (shellFlagged src b s).chip = s.chip := by
  rw [shellFlagged, wrFld_chip, wrFld_chip, setImg_chip, wrReg_chip]

/-- SOURCE stays over SIGNED. -/
theorem rdFld_shellFlagged (src : Nat) (b : List Byte) (s : State) : rdFld (shellFlagged src b s) imgStat 10 2 = src % 4 := by
  rw [shellFlagged, rdFld_wrFld_other _ imgStat _ (.inl (by decide)), rdFld_wrFld_same _ _ _ _ _ (by decide)]
  rfl

/-- IMG_STATUS alone is written after the version. -/
theorem rdReg_shellFlagged (src : Nat) (b : List Byte) (s : State) :
    rdReg (shellFlagged src b s) (imgA 0x50) = BitVec.ofNat 32 (shellVersion b) := by
  rw [shellFlagged, rdReg_wrFld_other _ _ _ _ (by decide), rdReg_wrFld_other _ _ _ _ (by decide),
    rdReg_setImg_other _ _ (by decide), rdReg_wrReg_same]

theorem shellIdent_chip (b : List Byte) (s : State) : (shellIdent b s).chip = s.chip := by
  obtain ⟨r, hr⟩ := foldl_wrReg_frame (fun i => imgA (0x40 + 4 * i)) (fun i => BitVec.ofNat 32 (leAt b (0x18 + 4 * i) 4))
    (List.range 4) s
  rw [shellIdent, hr]

theorem shellTaken_shellUpNow {s y : State} {src : Nat} {b : List Byte} (hstate : y.chip.devState = s.chip.devState)
    (hversion : rdReg y (imgA 0x50) = BitVec.ofNat 32 (shellVersion b)) (hsource : rdFld y imgStat 10 2 = src % 4)
    (rs : List ShellRec) : ShellTaken s (shellUpNow rs y) src b := by
  refine ⟨hstate, rfl, rfl, rfl, rfl, rfl, ?_, ?_⟩
  · rw [← hversion]
    exact rdReg_clrBit_other _ 5 (by decide)
  · rw [← hsource]
    exact rdFld_wrFld_other _ imgStat 0 (.inr (by decide))

theorem shellTaken_takeShell {s : State} (h : s.chip.devState ≠ .running) (src : Nat) (b : List Byte) (rs : List ShellRec) :
    ShellTaken s (takeShell src b rs s) src b := by
  rw [takeShell_eq]
  refine (shellTaken_shellUpNow ?_ (rdReg_shellFlagged ..) (rdFld_shellFlagged ..) rs).keeps (keepsBoot_takePolicy ..)
  rw [shellFlagged_chip, shellIdent_chip, (keepsBoot_stewardsTaken ..).state, planTaken_chip, (keepsBoot_crateTaken h rs).state]

/-! ### SHELL_VERIFIED (R237, R238) -/

theorem shellVerified_refused {s : State} {src code : Nat} (hchecking : s.ldr.checking = some src)
    (hboot : s.chip.devState = .boot) (hstage : s.ldr.boot = 4) (hcode : shellCode (rxOf s src).bytes s = some code) :
    shellVerified s = shellFail src code s := by
  unfold shellVerified
  rw [hchecking]
  dsimp only
  rw [if_neg (by simp [hboot, hstage]), hcode]

theorem shellVerified_taken {s : State} {src : Nat} (hchecking : s.ldr.checking = some src)
    (hboot : s.chip.devState = .boot) (hstage : s.ldr.boot = 4) (hcode : shellCode (rxOf s src).bytes s = none) :
    ∃ rs, shellVerified s = takeShell src (rxOf s src).bytes rs s := by
  unfold shellVerified
  rw [hchecking]
  dsimp only
  rw [if_neg (by simp [hboot, hstage]), hcode]
  exact ⟨_, rfl⟩

end Sys2Proof.Machine

open Sys2Proof Sys2Proof.Machine

/-- Settles O32: a frame by what it adds to its source (`shellTake_more`, `shellTake_last`), an attempt that fails by
`shellFails_shellFail`, and a shell that takes effect by `shellTaken_takeShell`. -/
theorem shellDelivery : Obligations.ShellDelivery := by
  unfold Obligations.ShellDelivery
  refine ⟨?flash, ?again, ?head, ?serve, ?feed, ?verified⟩
  case flash =>
    intro s src l f hsrc hboot hstage hidle himg hlive
    have hopen := shellOpen_flash hsrc hboot hstage hidle himg hlive
    refine ⟨fun hgood hhdr => ?_, fun hbad htries => ?_, fun hbad htries => ?_⟩
    · have htaken := rxOf_putRx_same src { rxOf s src with
        bytes := (rxOf s src).bytes ++ f.take 4096, next := (rxOf s src).next + 1, tries := 0 } s
      have hframe := shellFrame_good hopen hsrc hgood l
      by_cases hlast : (rxOf s src).next + 1 = shellFrames ((rxOf s src).bytes ++ f.take 4096)
      · rw [shellTake_last hhdr hlast] at hframe
        refine ⟨_, congrArg Host.Outcome.next hframe, congrArg ShellRx.bytes htaken, congrArg ShellRx.next htaken,
          congrArg ShellRx.tries htaken, ?_⟩
        rw [if_pos hlast]
        exact ⟨imgState_setImg (by decide) _, rfl⟩
      · rw [shellTake_more hhdr hlast] at hframe
        refine ⟨_, congrArg Host.Outcome.next hframe, congrArg ShellRx.bytes htaken, congrArg ShellRx.next htaken,
          congrArg ShellRx.tries htaken, ?_⟩
        rw [if_neg hlast]
        exact ⟨rfl, hidle⟩
    · exact ⟨_, congrArg Host.Outcome.next (shellFrame_again hopen hsrc hbad htries l), rxOf_putRx_same .., rfl⟩
    · have hfails := shellFails_shellFail (code := 0x29) (by decide) src s
      exact ⟨_, congrArg Host.Outcome.next (shellFrame_ends hopen hsrc hbad htries l), hfails.code, hfails.primary,
        fun hbackup => hfails.waits (by omega)⟩
  case again =>
    intro s l f hboot hstage hidle himg hfull hbad htries
    have hopen : shellOpen 2 s = true := by simp [shellOpen, hboot, hstage, hidle, himg]
    have hframe := shellFrame_head hopen hfull hbad htries l f
    let x := putRx 2 { rxOf s 2 with buf := (rxOf s 2).buf.drop 4100 } s
    let y := putRx 2 { rxOf s 2 with buf := [], tries := (rxOf s 2).tries + 1 } x
    have hrx : rxOf y 2 = { rxOf s 2 with buf := [], tries := (rxOf s 2).tries + 1 } := rxOf_putRx_same ..
    have hldr : rxOf (sendService l 0x21 0 (leBytes 2 (rxOf s 2).next) y) 2 = rxOf y 2 :=
      congrArg (fun d : Loader => mapGet ShellRx.reset d.rx 2) (messaged_sendService ..).ldr
    obtain ⟨src, hsent⟩ := sendService_outbox l 0x21 0 (leBytes 2 (rxOf s 2).next) y
    refine ⟨_, src, congrArg Host.Outcome.next hframe, ?_, ?_, ?_, hsent⟩
    · exact (congrArg ShellRx.tries (hldr.trans hrx)).trans rfl
    · exact (congrArg ShellRx.buf (hldr.trans hrx)).trans rfl
    · exact (congrArg ShellRx.bytes (hldr.trans hrx)).trans rfl
  case head =>
    intro s l f hboot hshell hlink hl hidle
    exact ⟨_, congrArg Host.Outcome.next (shFrame_next hboot hshell hlink hl hidle f), rxOf_putRx_same .., rfl⟩
  case serve =>
    intro s l i b q hserve hshell hlink hi
    have hmsg := messaged_sendService l 0x20 0xFFF (leBytes 2 i ++ frameOf b i) s
    obtain ⟨src, hsent⟩ := sendService_outbox l 0x20 0xFFF (leBytes 2 i ++ frameOf b i) s
    exact ⟨_, src, congrArg Host.Outcome.next (shReq_served hserve hshell hlink hi), hsent, hmsg.regs, hmsg.ldr⟩
  case feed =>
    intro s who hreach hboot hshell hidle
    refine ⟨_, exec_shellFeed hreach, ?_⟩
    rw [imgShellFeed_open hboot hshell hidle]
    exact ⟨feedIsOpen_openFeed _, feedPos_openFeed _, rxOf_putRx_same .., rfl, rfl⟩
  case verified =>
    intro s src hchecking hsrc hboot hstage
    dsimp only
    cases hcode : shellCode (rxOf s src).bytes s with
    | none =>
      obtain ⟨rs, hverified⟩ := shellVerified_taken hchecking hboot hstage hcode
      have htaken := shellTaken_takeShell (s := s) (by rw [hboot]; decide) src (rxOf s src).bytes rs
      refine ⟨_, congrArg Host.Outcome.next hverified, htaken.state.trans hboot, htaken.checking, htaken.shell, htaken.err,
        htaken.boot, htaken.rx, htaken.version, ?_⟩
      rw [htaken.source]
      exact Nat.mod_eq_of_lt hsrc
    | some code =>
      have hfails := shellFails_shellFail (shellCode_lt hcode) src s
      exact ⟨_, congrArg Host.Outcome.next (shellVerified_refused hchecking hboot hstage hcode), hfails.state.trans hboot,
        hfails.checking, hfails.shell, hfails.code, hfails.crt, hfails.stw, hfails.waits⟩

end

section
/-! PROOFS. Writes of the cellar that store their bytes (R577, R581). -/

namespace Sys2Proof.Machine

/-- From `s` to `u` bytes are stored at a byte offset of the cellar: no other byte changes, and nothing beside the cellar. -/
structure StoresBytes (s u : State) (off : Nat) (bytes : List Byte) : Prop where
  frame : u = { s with cel := u.cel }
  inside : ∀ i, i < bytes.length → mapGet 0#8 u.cel.mem (off + i) = bytes.getD i 0#8
  outside : ∀ a, a < off ∨ off + bytes.length ≤ a → mapGet 0#8 u.cel.mem a = mapGet 0#8 s.cel.mem a

/-- The state of the lines, beside the memory, does not matter. -/
theorem StoresBytes.congr {s u v : State} {off : Nat} {bytes : List Byte} (h : StoresBytes s u off bytes)
    (hframe : v = { u with cel := v.cel }) (hmem : v.cel.mem = u.cel.mem) : StoresBytes s v off bytes where
  frame := hframe.trans (by rw [h.frame])
  inside := hmem ▸ h.inside
  outside := hmem ▸ h.outside

theorem zipIdx_eq_ctxCells (off : Nat) (bytes : List Byte) :
    bytes.zipIdx.map (fun q => (off + q.2, q.1)) = ctxCells (off + ·) (fun i => bytes.getD i 0#8) bytes.length := by
  refine List.ext_getElem (by simp [ctxCells]) fun i hi _ => ?_
  have hlen : i < bytes.length := by simpa using hi
  simp [ctxCells, hlen]

theorem memPut_storesBytes (off : Nat) (bytes : List Byte) (s : State) : StoresBytes s (memPut off bytes s) off bytes where
  frame := rfl
  inside i hi := by
    rw [memPut, zipIdx_eq_ctxCells]
    exact mapGet_mapSetAll_same _ _ (add_right_injective off) hi
  outside a ha := by
    rw [memPut, zipIdx_eq_ctxCells]
    exact mapGet_mapSetAll_other _ _ fun i hi => by omega

/-- A counter that stays below the threshold only counts. -/
theorem advanceCtr_below {s : State} {l : Nat} (h : lineCtr s l < 0xFFF00000) : advanceCtr l s = setCtr l (lineCtr s l + 1) s := by
  unfold advanceCtr
  dsimp only
  rw [decide_eq_false (by omega)]
  rfl

theorem performWrite_storesBytes {s : State} {l : Nat} (h : lineCtr s l < 0xFFF00000) (ofs : Nat) (bytes : List Byte) :
    StoresBytes s (performWrite l ofs bytes s) (64 * l + ofs) bytes := by
  have hput := memPut_storesBytes (64 * l + ofs) bytes s
  have hcount : StoresBytes s (if lineSealed s l then advanceCtr l (memPut (64 * l + ofs) bytes s)
      else memPut (64 * l + ofs) bytes s) (64 * l + ofs) bytes := by
    split
    · rw [advanceCtr_below (show lineCtr (memPut (64 * l + ofs) bytes s) l < 0xFFF00000 from h)]
      exact hput.congr rfl rfl
    · exact hput
  unfold performWrite
  dsimp only
  split
  · exact hcount.congr rfl rfl
  · exact hcount

theorem lineVerdict_clean {s : State} {l : Nat} (hpoison : linePoison s l = false) (hupset : mapGet false s.cel.upset l = false) :
    lineVerdict s l .pass = .pass := by
  simp [lineVerdict, hpoison, hupset]

/-- A write of a whole line, or of a line that verifies, is performed while the counter is below the threshold (R581, R585). -/
theorem lineWrite_performed {s : State} {l ofs : Nat} {bytes : List Byte} (who : CelWho)
    (hline : (ofs = 0 ∧ bytes.length = 64) ∨ lineVerdict s l .pass = .pass) (hctr : lineCtr s l < 0xFFF00000) :
    (lineWrite who l ofs bytes .pass s).1 = performWrite l ofs bytes s := by
  have hread : (if ofs = 0 ∧ bytes.length = 64 then s else lineChecked l 1 .pass s) = s := by
    rcases hline with hfull | hpass
    · exact if_pos hfull
    · simp [lineChecked, hpass]
  have hallowed : ¬ (¬ (ofs = 0 ∧ bytes.length = 64) ∧ lineVerdict s l .pass = .fails) := by
    rintro ⟨hpart, hfails⟩
    rcases hline with hfull | hpass
    · exact hpart hfull
    · rw [hpass] at hfails
      cases hfails
  unfold lineWrite
  dsimp only
  rw [if_neg hallowed, hread, if_neg (by omega)]

/-- Bytes within one line are one write of that line. -/
theorem celPut_inLine {off : Nat} {bytes : List Byte} (hpos : 0 < bytes.length) (hfit : off % 64 + bytes.length ≤ 64)
    (who : CelWho) (s : State) : celPut who off bytes s = (lineWrite who (off / 64) (off % 64) bytes .pass s).1 := by
  have hone : (off + bytes.length + 63) / 64 - off / 64 = 1 := by omega
  have hstart : max off (64 * (off / 64)) = off := by omega
  have hofs : off - 64 * (off / 64) = off % 64 := by omega
  have hall : bytes.take (64 * (off / 64) + 64 - off) = bytes := List.take_of_length_le (by omega)
  simp [celPut, cutLines, hone, hstart, hofs, hall]

theorem celPut_storesBytes {s : State} {off : Nat} {bytes : List Byte} (who : CelWho) (hpos : 0 < bytes.length)
    (hfit : off % 64 + bytes.length ≤ 64)
    (hline : (off % 64 = 0 ∧ bytes.length = 64) ∨ lineVerdict s (off / 64) .pass = .pass)
    (hctr : lineCtr s (off / 64) < 0xFFF00000) : StoresBytes s (celPut who off bytes s) off bytes := by
  rw [celPut_inLine hpos hfit, lineWrite_performed who hline hctr]
  have hoff : 64 * (off / 64) + off % 64 = off := by omega
  simpa [hoff] using performWrite_storesBytes hctr (off % 64) bytes

end Sys2Proof.Machine
end

section
/-! PROOFS. Records that enter the acquisition buffer (R289, R304, R306). -/

namespace Sys2Proof.Machine

@[simp] theorem length_recBytes (dev : Nat) (r : CmpRec) : (recBytes dev r).length = 64 := by
  unfold recBytes
  dsimp only
  rw [List.length_append, length_leBytes, length_leBytes]

/-- The byte offset of a slot of the acquisition buffer (R304). -/
abbrev slotAt (s : State) (slot : Nat) : Nat := rdFld s (cmpA 8) 0 26 * 1024 + 64 * slot

theorem acqStore_storesBytes {s : State} {slot : Nat} (hctr : lineCtr s (slotAt s slot / 64) < 0xFFF00000) (q : CmpRec) :
    StoresBytes s (acqStore slot q s) (slotAt s slot) (recBytes (devAddr s) q) := by
  have haligned : slotAt s slot % 64 = 0 := by unfold slotAt; omega
  exact celPut_storesBytes .compare (by simp) (by simp [haligned]) (.inl ⟨haligned, length_recBytes ..⟩) hctr

theorem rdReg_acqStore {s : State} {slot : Nat} (hctr : lineCtr s (slotAt s slot / 64) < 0xFFF00000) (q : CmpRec) (b : Nat) :
    rdReg (acqStore slot q s) b = rdReg s b := by
  rw [(acqStore_storesBytes hctr q).frame]
  rfl

theorem cmp_acqStore {s : State} {slot : Nat} (hctr : lineCtr s (slotAt s slot / 64) < 0xFFF00000) (q : CmpRec) :
    (acqStore slot q s).cmp = s.cmp := by
  rw [(acqStore_storesBytes hctr q).frame]

/-- From `s` to `t` record `q` has entered the buffer at `slot`: its bytes are stored and it is counted. -/
structure Enters (s t : State) (slot : Nat) (q : CmpRec) : Prop where
  inside : ∀ i, i < 64 → mapGet 0#8 t.cel.mem (slotAt s slot + i) = (recBytes (devAddr s) q).getD i 0#8
  outside : ∀ a, a < slotAt s slot ∨ slotAt s slot + 64 ≤ a → mapGet 0#8 t.cel.mem a = mapGet 0#8 s.cel.mem a
  total : acqTotal t = acqTotal s + 1
  stage : t.cmp.stage = s.cmp.stage

/-- The number that `wr48` stores in CMP_ACQ_TOTAL. -/
theorem acqTotal_wr48 (s : State) {n : Nat} (h : n < 2 ^ 48) : acqTotal (wr48 (cmpA 0x48) (cmpA 0x4C) n s) = n := by
  have hlow : rdReg (wr48 (cmpA 0x48) (cmpA 0x4C) n s) (cmpA 0x48) = BitVec.ofNat 32 n := by
    rw [wr48, rdReg_wrReg_other _ _ (by decide), rdReg_wrReg_same]
  have hhigh : rdReg (wr48 (cmpA 0x48) (cmpA 0x4C) n s) (cmpA 0x4C) = BitVec.ofNat 32 (n / 2 ^ 32 % 2 ^ 16) := rdReg_wrReg_same ..
  rw [acqTotal, hlow, hhigh, BitVec.toNat_ofNat, BitVec.toNat_ofNat]
  omega

theorem rdReg_wr48_other (s : State) {lo hi b : Nat} (n : Nat) (hlo : b ≠ lo) (hhi : b ≠ hi) :
    rdReg (wr48 lo hi n s) b = rdReg s b := by
  rw [wr48, rdReg_wrReg_other _ _ hhi, rdReg_wrReg_other _ _ hlo]

theorem acqTotal_congr {s u : State} (hlo : rdReg u (cmpA 0x48) = rdReg s (cmpA 0x48))
    (hhi : rdReg u (cmpA 0x4C) = rdReg s (cmpA 0x4C)) : acqTotal u = acqTotal s := by
  rw [acqTotal, hlo, hhi, acqTotal]

theorem acqCount_stage (r : CmpRec) (s : State) : (acqCount r s).cmp.stage = s.cmp.stage := rfl
theorem acqCount_postCnt (r : CmpRec) (s : State) : (acqCount r s).cmp.postCnt = s.cmp.postCnt := rfl

/-- A record that is stored in a slot and counted has entered the buffer. -/
theorem enters_acqCount {s : State} {slot : Nat} (hctr : lineCtr s (slotAt s slot / 64) < 0xFFF00000)
    (htotal : acqTotal s + 1 < 2 ^ 48) (r q : CmpRec) : Enters s (acqCount r (acqStore slot q s)) slot q := by
  have hstored := acqStore_storesBytes hctr q
  have hcounted : acqTotal (acqStore slot q s) = acqTotal s :=
    acqTotal_congr (rdReg_acqStore hctr q _) (rdReg_acqStore hctr q _)
  refine ⟨fun i hi => hstored.inside i (by simpa using hi), fun a ha => hstored.outside a (by simpa using ha), ?_,
    (acqCount_stage ..).trans (congrArg Compare.stage (cmp_acqStore hctr q))⟩
  unfold acqCount
  dsimp only
  rw [hcounted, Nat.mod_eq_of_lt htotal, acqTotal_wr48 _ htotal]

/-- What the storing and counting of a record leaves beside the cellar and CMP_ACQ_TOTAL. -/
theorem rdReg_acqCount_acqStore {s : State} {slot b : Nat} (hctr : lineCtr s (slotAt s slot / 64) < 0xFFF00000) (r q : CmpRec)
    (hlo : b ≠ cmpA 0x48) (hhi : b ≠ cmpA 0x4C) : rdReg (acqCount r (acqStore slot q s)) b = rdReg s b :=
  (rdReg_wr48_other _ _ hlo hhi).trans (rdReg_acqStore hctr q b)

theorem postCnt_acqCount_acqStore {s : State} {slot : Nat} (hctr : lineCtr s (slotAt s slot / 64) < 0xFFF00000) (r q : CmpRec) :
    (acqCount r (acqStore slot q s)).cmp.postCnt = s.cmp.postCnt :=
  (acqCount_postCnt ..).trans (congrArg Compare.postCnt (cmp_acqStore hctr q))

namespace Enters

theorem wrReg {s t : State} {slot : Nat} {q : CmpRec} (h : Enters s t slot q) {a : Nat} (hlo : a ≠ cmpA 0x48)
    (hhi : a ≠ cmpA 0x4C) (v : Word) : Enters s (wrReg t a v) slot q where
  inside := h.inside
  outside := h.outside
  total := (acqTotal_congr (rdReg_wrReg_other t v hlo.symm) (rdReg_wrReg_other t v hhi.symm)).trans h.total
  stage := h.stage

theorem setAcqState {s t : State} {slot : Nat} {q : CmpRec} (h : Enters s t slot q) (n : Nat) :
    Enters s (setAcqState n t) slot q := h.wrReg (by decide) (by decide) _

end Enters

/-! ### STATE of the acquisition -/

theorem acqState_setAcqState {n : Nat} (h : n < 8) (s : State) : acqState (setAcqState n s) = n :=
  (rdFld_wrFld_same s acqStat 0 3 n (by decide)).trans (Nat.mod_eq_of_lt h)

theorem acqState_congr {s u : State} (h : rdReg u acqStat = rdReg s acqStat) : acqState u = acqState s := by
  rw [acqState, rdFld, h]
  rfl

theorem acqState_wrReg (s : State) {a : Nat} (v : Word) (h : acqStat ≠ a) : acqState (wrReg s a v) = acqState s :=
  acqState_congr (rdReg_wrReg_other s v h)

theorem rdReg_setAcqState_other (n : Nat) (s : State) {b : Nat} (h : b ≠ acqStat) : rdReg (setAcqState n s) b = rdReg s b :=
  rdReg_wrFld_other s 0 3 n h

/-! ### Pre-trigger and post-trigger records (R304, R306) -/

/-- A pre-trigger record goes to slot TOTAL modulo the ring; a native ring that is full waits for its trigger. -/
theorem acqPre_enters {s : State} {ring : Nat} (hring : (if s.cmp.compat then acqCap s else s.cmp.pre) = ring) (hne : ring ≠ 0)
    (htotal : acqTotal s + 1 < 2 ^ 48) (hctr : lineCtr s (slotAt s (acqTotal s % ring) / 64) < 0xFFF00000) (r : CmpRec) :
    Enters s (acqPre r s) (acqTotal s % ring) { r with aux := acqTotal s } ∧
      (rdReg (acqPre r s) (cmpA 0x2C)).toNat = (acqTotal s + 1) % ring % 2 ^ 32 ∧
      acqState (acqPre r s) = (if s.cmp.compat = false ∧ s.cmp.pre ≤ acqTotal s + 1 then 2 else acqState s) := by
  have hx := enters_acqCount hctr htotal r { r with aux := acqTotal s }
  have hstat := rdReg_acqCount_acqStore hctr r { r with aux := acqTotal s } (b := acqStat) (by decide) (by decide)
  unfold acqPre
  dsimp only
  rw [hring, if_neg hne]
  generalize acqCount r (acqStore (acqTotal s % ring) { r with aux := acqTotal s } s) = x at hx hstat ⊢
  have hy : Enters s (wrWord 0x2C ((acqTotal s + 1) % ring)
      (wrWord 0x30 (if acqTotal s + 1 ≤ ring then 0 else (acqTotal s + 1) % ring) x)) (acqTotal s % ring)
      { r with aux := acqTotal s } := (hx.wrReg (by decide) (by decide) _).wrReg (by decide) (by decide) _
  have hslot : (rdReg (wrWord 0x2C ((acqTotal s + 1) % ring)
      (wrWord 0x30 (if acqTotal s + 1 ≤ ring then 0 else (acqTotal s + 1) % ring) x)) (cmpA 0x2C)).toNat =
      (acqTotal s + 1) % ring % 2 ^ 32 := by
    rw [wrWord, rdReg_wrReg_same, BitVec.toNat_ofNat]
  by_cases hfull : s.cmp.compat = false ∧ s.cmp.pre ≤ acqTotal s + 1
  · rw [if_pos (by simp [hfull]), if_pos hfull]
    refine ⟨hy.setAcqState 2, ?_, acqState_setAcqState (by decide) _⟩
    rw [rdReg_setAcqState_other _ _ (by decide), hslot]
  · rw [if_neg (by simpa using hfull), if_neg hfull]
    refine ⟨hy, hslot, ?_⟩
    exact (acqState_wrReg _ _ (by decide)).trans ((acqState_wrReg _ _ (by decide)).trans (acqState_congr hstat))

/-- A post-trigger record goes to WSLOT; the last of them ends the acquisition. -/
theorem acqPost_enters {s : State} (hpost : acqState s = 3) (htotal : acqTotal s + 1 < 2 ^ 48)
    (hctr : lineCtr s (slotAt s (rdReg s (cmpA 0x2C)).toNat / 64) < 0xFFF00000) (r : CmpRec) :
    Enters s (acqPost r s) (rdReg s (cmpA 0x2C)).toNat { r with aux := acqTotal s, post := true } ∧
      (acqPost r s).cmp.postCnt = s.cmp.postCnt + 1 ∧
      acqState (acqPost r s) = (if (rdReg s (cmpA 0x38)).toNat ≤ s.cmp.postCnt + 1 then 4 else 3) := by
  have hx := enters_acqCount hctr htotal r { r with aux := acqTotal s, post := true }
  have hstat := rdReg_acqCount_acqStore hctr r { r with aux := acqTotal s, post := true } (b := acqStat) (by decide) (by decide)
  have hcnt := postCnt_acqCount_acqStore hctr r { r with aux := acqTotal s, post := true }
  unfold acqPost
  dsimp only
  generalize acqCount r (acqStore (rdReg s (cmpA 0x2C)).toNat { r with aux := acqTotal s, post := true } s) = x at hx hstat hcnt ⊢
  generalize (if s.cmp.compat then ((rdReg s (cmpA 0x2C)).toNat + 1) % acqCap s else (rdReg s (cmpA 0x2C)).toNat + 1) = next
  have hplace (w : Word) : Enters s (wrReg x (cmpA 0x2C) w) (rdReg s (cmpA 0x2C)).toNat
      { r with aux := acqTotal s, post := true } := hx.wrReg (by decide) (by decide) w
  have hplaced (w : Word) : acqState (wrReg x (cmpA 0x2C) w) = 3 :=
    (acqState_wrReg _ _ (by decide)).trans ((acqState_congr hstat).trans hpost)
  generalize hy : (if s.cmp.compat then wrWord 0x30 (if acqTotal s + 1 ≤ acqCap s then 0 else next) (wrWord 0x2C next x)
    else wrWord 0x2C next x) = y
  obtain ⟨hin, hst, hpc⟩ : Enters s y (rdReg s (cmpA 0x2C)).toNat { r with aux := acqTotal s, post := true } ∧
      acqState y = 3 ∧ y.cmp.postCnt = s.cmp.postCnt := by
    subst hy
    split
    · exact ⟨(hplace _).wrReg (by decide) (by decide) _, (acqState_wrReg _ _ (by decide)).trans (hplaced _), hcnt⟩
    · exact ⟨hplace _, hplaced _, hcnt⟩
  have hcounted : Enters s { y with cmp := { y.cmp with postCnt := y.cmp.postCnt + 1 } } (rdReg s (cmpA 0x2C)).toNat
      { r with aux := acqTotal s, post := true } := ⟨hin.inside, hin.outside, hin.total, hin.stage⟩
  rw [hpc] at hcounted ⊢
  by_cases hlast : (rdReg s (cmpA 0x38)).toNat ≤ s.cmp.postCnt + 1
  · rw [if_pos hlast, if_pos hlast]
    exact ⟨hcounted.setAcqState 4, rfl, acqState_setAcqState (by decide) _⟩
  · rw [if_neg hlast, if_neg hlast]
    exact ⟨hcounted, rfl, hst⟩

end Sys2Proof.Machine
end

section
/-! PROOFS. The mover's records and the end of its epoch (R302 to R306, R309, R313, R315). -/

namespace Sys2Proof.Machine

/-! ### The acquisition buffer meets a record (R302, R304, R306, R309) -/

/-- Under TSRC 0 no record triggers (R307). -/
theorem recTrigger_off {s : State} (htsrc : rdFld s (cmpA 0x10) 4 3 = 0) (r : CmpRec) : recTrigger s r = none := by
  simp only [recTrigger, htsrc]

theorem acqRecord_idle {s : State} (htsrc : rdFld s (cmpA 0x10) 4 3 = 0) (hidle : acqState s = 0) (r : CmpRec) :
    acqRecord r s = s := by
  simp only [acqRecord, recTrigger_off htsrc, hidle]

theorem acqRecord_pre {s : State} (htsrc : rdFld s (cmpA 0x10) 4 3 = 0) (hpre : acqState s = 1 ∨ acqState s = 2) (r : CmpRec) :
    acqRecord r s = acqPre r s := by
  rcases hpre with hpre | hwait
  · simp only [acqRecord, recTrigger_off htsrc, hpre]
  · simp only [acqRecord, recTrigger_off htsrc, hwait]

theorem acqRecord_post {s : State} (htsrc : rdFld s (cmpA 0x10) 4 3 = 0) (hpost : acqState s = 3) (r : CmpRec) :
    acqRecord r s = acqPost r s := by
  simp only [acqRecord, recTrigger_off htsrc, hpost]

theorem acqRecord_done {s : State} (htsrc : rdFld s (cmpA 0x10) 4 3 = 0) (hdone : acqState s = 4) (r : CmpRec) :
    acqRecord r s = incFld s (cmpA 0x40) 0 32 := by
  simp only [acqRecord, recTrigger_off htsrc, hdone]

/-- A field that counts to its largest value. -/
theorem rdFld_incFld (s : State) (a : Nat) {lo n : Nat} (h : lo + n ≤ 32) :
    rdFld (incFld s a lo n) a lo n = min (2 ^ n - 1) (rdFld s a lo n + 1) := by
  have hbound : rdFld s a lo n < 2 ^ n := Nat.mod_lt _ (Nat.two_pow_pos n)
  unfold incFld
  dsimp only
  split
  · rw [rdFld_wrFld_same _ _ _ _ _ h, Nat.mod_eq_of_lt ‹_›]
    omega
  · omega

theorem rdReg_incFld_other (s : State) {a b : Nat} (lo n : Nat) (h : b ≠ a) : rdReg (incFld s a lo n) b = rdReg s b := by
  unfold incFld
  dsimp only
  split
  · exact rdReg_wrFld_other s lo n _ h
  · rfl

theorem incFld_regs (s : State) (a lo n : Nat) : incFld s a lo n = { s with regs := (incFld s a lo n).regs } := by
  unfold incFld
  dsimp only
  split <;> rfl

/-! ### A record leaves the stage (R302, R303) -/

/-- The mover has read a record, whose tick is `tick`, and left `l` on the stage. -/
def recordRead (l : List CmpRec) (tick : BitVec 48) (s : State) : State :=
  { s with cmp := { s.cmp with stage := l, lastGood := tick } }

/-- What stands in the buffer for a record on a poisoned line. -/
def lostRecord (s : State) (r : CmpRec) : CmpRec :=
  { r with kind := .lost, source := 0, tick := s.cmp.lastGood, payload := 0, aux := 0 }

/-- MOVE_ERR, and the report of a poisoned line of the stage. -/
def moveErr (r : CmpRec) (l : List CmpRec) (s : State) : State :=
  report 0x22 3 (linePc s (stageOffset s r / 64)) 0 (setBit { s with cmp := { s.cmp with stage := l } } (cmpA 0x58) 3)

section
variable {s : State} {r : CmpRec} {l : List CmpRec} {e : Nat}
  (hmoving : s.cmp.moving = some e) (hstage : s.cmp.stage = r :: l) (hepoch : r.epoch = e)
  (hothers : ∀ x ∈ l, ¬ (x.epoch = e ∧ x.idx = r.idx))
include hmoving hstage hepoch hothers

/-- The next record of the mover's epoch is the first of the stage, and it alone leaves the stage. -/
theorem moverRecord_first : moverRecord s =
    if celPoisoned s (stageOffset s r) then acqRecord (lostRecord s r) (moveErr r l s)
    else if r.kind = .bmap then bmapBuild r (recordRead l r.tick s) else acqRecord r (recordRead l r.tick s) := by
  have hfirst : s.cmp.stage.find? (fun x => x.epoch = e) = some r := by
    rw [hstage, List.find?_cons_of_pos (by simp [hepoch])]
  have hrest : s.cmp.stage.filter (fun x => !(x.epoch = e && x.idx = r.idx)) = l := by
    rw [hstage, List.filter_cons_of_neg (by simp [hepoch]), List.filter_eq_self]
    intro x hx
    simpa [or_iff_not_imp_left] using hothers x hx
  unfold moverRecord
  rw [hmoving]
  dsimp only
  rw [hfirst]
  dsimp only
  rw [hrest]
  rfl

theorem exec_moverRecord_poisoned (hpoison : celPoisoned s (stageOffset s r) = true) :
    exec .moverRecord s = .next (acqRecord (lostRecord s r) (moveErr r l s)) := by
  have hexec : exec .moverRecord s = .next (moverRecord s) := rfl
  rw [hexec, moverRecord_first hmoving hstage hepoch hothers, if_pos hpoison]

theorem exec_moverRecord_acq (hgood : celPoisoned s (stageOffset s r) = false) (hkind : r.kind ≠ .bmap) :
    exec .moverRecord s = .next (acqRecord r (recordRead l r.tick s)) := by
  have hexec : exec .moverRecord s = .next (moverRecord s) := rfl
  rw [hexec, moverRecord_first hmoving hstage hepoch hothers, if_neg (by simp [hgood]), if_neg hkind]

theorem exec_moverRecord_bmap (hgood : celPoisoned s (stageOffset s r) = false) (hkind : r.kind = .bmap) :
    exec .moverRecord s = .next (bmapBuild r (recordRead l r.tick s)) := by
  have hexec : exec .moverRecord s = .next (moverRecord s) := rfl
  rw [hexec, moverRecord_first hmoving hstage hepoch hothers, if_neg (by simp [hgood]), if_pos hkind]

end

/-! ### The bitmap builder (R313) -/

/-- Bytes of an entry in one unit of a larger one, at a multiple of their number. -/
theorem mod_add_le_of_dvd {n m off : Nat} (hm : 0 < m) (hn : n ∣ m) (hoff : n ∣ off) : off % m + n ≤ m := by
  have hlt := Nat.mod_lt off hm
  have hle : n ≤ m - off % m := Nat.le_of_dvd (by omega) (Nat.dvd_sub hn ((Nat.dvd_mod_iff hn).2 hoff))
  omega

/-- Byte `i` of a number of which the lowest `n` bytes are kept. -/
theorem ofNat_byte_mod (x : Nat) {n i : Nat} (h : i < n) :
    BitVec.ofNat 8 ((x % 2 ^ (8 * n)) >>> (8 * i)) = BitVec.ofNat 8 (x / 2 ^ (8 * i)) := by
  refine BitVec.eq_of_getLsbD_eq fun j hj => ?_
  rw [← Nat.shiftRight_eq_div_pow]
  simp only [BitVec.getLsbD_ofNat, Nat.testBit_shiftRight, Nat.testBit_mod_two_pow]
  rw [decide_eq_true (show 8 * i + j < 8 * n by omega), Bool.true_and]

/-- The bitmap that a BMAP record belongs to, the bytes of its entries, and the offset of the record's entry (R312, R313). -/
abbrev bmapOf (s : State) (r : CmpRec) : Nat := fld (portW s r.source 0) 29 2
abbrev bmapBytes (s : State) (r : CmpRec) : Nat := 2 ^ rdFld s (cmpA (0xE0 + 8 * bmapOf s r)) 5 3
abbrev bmapAt (s : State) (r : CmpRec) : Nat :=
  rdFld s (cmpA (0xE4 + 8 * bmapOf s r)) 0 26 * 1024 + r.aux % 2 ^ rdFld s (cmpA (0xE0 + 8 * bmapOf s r)) 0 5 * bmapBytes s r

/-- An entry with a record's vector ORed into it. -/
def bmapOred (s : State) (r : CmpRec) : List Byte :=
  List.zipWith (· ||| ·) ((List.range (bmapBytes s r)).map (fun i => mapGet 0#8 s.cel.mem (bmapAt s r + i)))
    (leBytes (bmapBytes s r) (r.payload.toNat % 2 ^ (8 * bmapBytes s r)))

@[simp] theorem length_bmapOred (s : State) (r : CmpRec) : (bmapOred s r).length = bmapBytes s r := by
  simp [bmapOred]

theorem getD_bmapOred (s : State) (r : CmpRec) {i : Nat} (h : i < bmapBytes s r) :
    (bmapOred s r).getD i 0#8 =
      mapGet 0#8 s.cel.mem (bmapAt s r + i) ||| BitVec.ofNat 8 (r.payload.toNat / 2 ^ (8 * i)) := by
  rw [List.getD_eq_getElem _ _ (by simpa using h)]
  simp only [bmapOred, leBytes, List.getElem_zipWith, List.getElem_map, List.getElem_range, ofNat_byte_mod _ h]

theorem bmapBuild_good {s : State} {r : CmpRec} (h : celPoisoned s (bmapAt s r) = false) :
    bmapBuild r s = celPut .compare (bmapAt s r) (bmapOred s r) s :=
  if_neg ((Bool.not_eq_true _).mpr h)

/-- A vector is ORed into its entry, which lies within one line. -/
theorem bmapBuild_storesBytes {s : State} {r : CmpRec} (hsize : bmapBytes s r ≤ 32)
    (hpoison : celPoisoned s (bmapAt s r) = false) (hupset : mapGet false s.cel.upset (bmapAt s r / 64) = false)
    (hctr : lineCtr s (bmapAt s r / 64) < 0xFFF00000) : StoresBytes s (bmapBuild r s) (bmapAt s r) (bmapOred s r) := by
  have hlog : rdFld s (cmpA (0xE0 + 8 * bmapOf s r)) 5 3 ≤ 5 := (Nat.pow_le_pow_iff_right (by decide)).1 hsize
  have hline : bmapBytes s r ∣ 64 := Nat.pow_dvd_pow 2 (hlog.trans (by decide : 5 ≤ 6))
  have hbase : bmapBytes s r ∣ 1024 := hline.trans (by decide)
  have hofs : bmapBytes s r ∣ bmapAt s r := Nat.dvd_add (hbase.mul_left _) (Nat.dvd_mul_left ..)
  rw [bmapBuild_good hpoison]
  refine celPut_storesBytes .compare ?_ ?_ (.inr (lineVerdict_clean hpoison hupset)) hctr
  · rw [length_bmapOred]
    exact Nat.two_pow_pos _
  · rw [length_bmapOred]
    exact mod_add_le_of_dvd (by decide) hline hofs

/-! ### The end of the mover's epoch (R302, R307, R315) -/

/-- The mover is idle. -/
def moverIdle (s : State) : State := { s with cmp := { s.cmp with moving := none } }

theorem moverFinish_untriggered {s : State} (htsrc : rdFld s (cmpA 0x10) 4 3 = 0) (e : Nat) : moverFinish e s = moverIdle s := by
  unfold moverFinish
  dsimp only
  rw [if_neg (by simp [htsrc])]
  rfl

theorem moverNext_of_empty {s : State} (h : s.cmp.moveQ = []) : moverNext s = s := by
  unfold moverNext
  rw [h]
  split
  · rename_i hq
    cases hq
  · rfl

/-- The posts of CMP_NOTIFY to context after context (R315). -/
def notifyPosts (s x : State) : State :=
  (List.range 8).foldl (fun acc c =>
    if rdBit s (cmpA 0xC) 15 && s.cmp.gained.getLsbD c then
      moverPost (physOf s (rdFld s (cmpA 0xC) 0 8)) (rdFld s (cmpA 0xC) 8 7 + c) (rdReg s (cmpA 0x48)) acc
    else acc) x

theorem notifyPosts_disabled {s : State} (h : rdBit s (cmpA 0xC) 15 = false) (x : State) : notifyPosts s x = x := by
  simp [notifyPosts, h]

/-- The contexts of a value that has context `c` alone. -/
theorem contexts_of_one : ∀ c, c < 8 → (List.range 8).filter (fun d => (1#8 <<< c).getLsbD d) = [c] := by decide

theorem notifyPosts_one {s : State} {c : Nat} (hc : c < 8) (hen : rdBit s (cmpA 0xC) 15 = true) (hgained : s.cmp.gained = 1#8 <<< c)
    (x : State) : notifyPosts s x =
      moverPost (physOf s (rdFld s (cmpA 0xC) 0 8)) (rdFld s (cmpA 0xC) 8 7 + c) (rdReg s (cmpA 0x48)) x := by
  simp only [notifyPosts, hen, hgained, Bool.true_and]
  rw [← List.foldl_filter, contexts_of_one c hc]
  rfl

/-- With every record of its epoch read, the mover posts, and is idle or takes its next epoch. -/
theorem exec_moverEpochDone {s : State} {e : Nat} (hmoving : s.cmp.moving = some e) (hread : ∀ r ∈ s.cmp.stage, r.epoch ≠ e)
    (htsrc : rdFld s (cmpA 0x10) 4 3 = 0) :
    exec .moverEpochDone s = .next (moverNext (notifyPosts s (moverIdle s))) := by
  have hexec : exec .moverEpochDone s = .next (moverEpochDone s) := rfl
  have hnone : s.cmp.stage.any (fun r => r.epoch = e) = false := by simpa using hread
  rw [hexec]
  unfold moverEpochDone
  rw [hmoving]
  dsimp only
  rw [hnone, moverFinish_untriggered htsrc]
  rfl

/-! ### A post to a flow (R504 to R508) -/

theorem flows_wakeFlow (f : Nat) (x : Sched) : (wakeFlow f x).flows = x.flows := by
  unfold wakeFlow
  split <;> rfl

theorem flowOf_changeFlow (f : Nat) (g : Flow → Flow) (x : Sched) : flowOf (changeFlow f g x) f = g (flowOf x f) := by
  have hput : flowOf (putFlow f (g (flowOf x f)) x) f = g (flowOf x f) := mapGet_mapSet_same
  unfold changeFlow
  dsimp only
  split
  · rw [flowOf, flows_wakeFlow]
    exact hput
  · exact hput

/-- A wake condition that is no request at the gate leaves the stewards. -/
theorem stw_wakeShelf (h : Nat) {cause : Nat} (hcause : cause ≠ 1) (s : State) : (wakeShelf h cause s).stw = s.stw := by
  have hnote (g : Gate) : (wrFld (putGate h g s) (shfA h 0x604) 3 3 cause).stw = s.stw :=
    (wrFld_stw ..).trans (putGate_stw ..)
  unfold wakeShelf
  dsimp only
  split
  · rfl
  · rfl
  · split
    · exact putGate_stw ..
    · exact hnote _
  · split
    · exact putGate_stw ..
    · exact hnote _
  · exact putGate_stw ..
  · split
    · exact putGate_stw ..
    · rw [decide_eq_false hcause]
      exact hnote _

theorem stw_wakeLine (i : Nat) (only : Nat → Bool) (s : State) : (wakeLine i only s).stw = s.stw := by
  unfold wakeLine
  refine List.foldlRecOn (motive := fun x : State => x.stw = s.stw) _ _ rfl fun x hx q _ => ?_
  split
  · rw [stw_wakeShelf _ (by decide), hx]
  · exact hx

theorem around_putCore (p : Nat) (c : Steward) (s : State) : Around s (putCore p c s) :=
  ⟨rfl, List.suffix_refl _, fun _ _ => rfl⟩

theorem around_putSched (p : Nat) (x : Sched) (s : State) : Around s (putSched p x s) :=
  ⟨rfl, List.suffix_refl _, fun _ _ => rfl⟩

theorem around_raiseLine (p line : Nat) (s : State) : Around s (raiseLine p line s) :=
  (around_putCore ..).trans (around_wakeLine ..)

theorem schedOf_raiseLine (p line q : Nat) (s : State) : schedOf (raiseLine p line s) q = schedOf s q := by
  unfold raiseLine schedOf
  rw [stw_wakeLine]
  rfl

theorem around_commitSched (p : Nat) (x : Sched) (s : State) : Around s (commitSched p x s) :=
  (around_putSched p x s).trans (.whenDo (around_raiseLine ..) _)

theorem schedOf_commitSched (p : Nat) (x : Sched) (s : State) : schedOf (commitSched p x s) p = x := by
  have hput : schedOf (putSched p x s) p = x := mapGet_mapSet_same
  unfold commitSched whenDo
  split
  · rw [schedOf_raiseLine, hput]
  · exact hput

/-- The item stands at the end of the flow, and the rest is the work of the scheduler. -/
theorem moverPost_accepted {s : State} {p f : Nat} (hshelf : shelfOn s (p / 17) = true) (hactive : rdBit s (tskA p 0) 0 = true)
    (hroom : (flowOf (schedOf s p) f).items.length < flowLimit s p f) (hpool : poolCount (schedOf s p) < 4096) (item : Word) :
    Around s (moverPost p f item s) ∧ (flowOf (schedOf (moverPost p f item s) p) f).items =
      (flowOf (schedOf s p) f).items ++ [{ value := item, flips := 0 }] := by
  have hpost : moverPost p f item s = commitSched p
      (changeFlow f (fun w => { w with items := w.items ++ [{ value := item, flips := 0 }] }) (schedOf s p)) s := by
    unfold moverPost
    dsimp only
    rw [if_pos hshelf]
    unfold schedPost
    dsimp only
    rw [if_neg (by simp [hactive]), if_neg (by omega)]
  rw [hpost, schedOf_commitSched, flowOf_changeFlow]
  exact ⟨around_commitSched .., rfl⟩

end Sys2Proof.Machine

open Sys2Proof Sys2Proof.Machine

/-- Settles O37: what leaves the stage by `moverRecord_first`; a record that enters the buffer by `acqPre_enters` and
`acqPost_enters`, a bitmap entry by `bmapBuild_storesBytes`, and the post at the end of the epoch by `moverPost_accepted`. -/
theorem moverMovesRecords : Obligations.MoverMovesRecords := by
  unfold Obligations.MoverMovesRecords
  refine ⟨?record, ?done⟩
  case record =>
    intro s r l e hmoving hstage hepoch hothers
    refine ⟨fun hpoison hidle htsrc => ?poisoned, fun hgood => ⟨fun hkind htsrc => ⟨fun hidle => ?idle,
      fun hpre htotal hne hctr => ?pre, fun hpost htotal hctr => ?post, fun hdone => ?drop⟩,
      fun hkind hsize hpoison hupset hctr => ?bmap⟩⟩
    case poisoned =>
      have hstat : acqState (moveErr r l s) = acqState s := acqState_wrReg _ _ (by decide)
      have hctrl : rdFld (moveErr r l s) (cmpA 0x10) 4 3 = rdFld s (cmpA 0x10) 4 3 :=
        congrArg (fld · 4 3) (rdReg_setBit_other (a := cmpA 0x58) _ 3 (by decide))
      refine ⟨_, (exec_moverRecord_poisoned hmoving hstage hepoch hothers hpoison).trans
        (congrArg _ (acqRecord_idle (hctrl.trans htsrc) (hstat.trans hidle) _)), rfl, ?_, rfl, _, rfl, rfl⟩
      exact rdBit_setBit_same _ (cmpA 0x58) (by decide)
    case idle =>
      exact (exec_moverRecord_acq hmoving hstage hepoch hothers hgood hkind).trans
        (congrArg _ (acqRecord_idle (s := recordRead l r.tick s) htsrc hidle r))
    case pre =>
      obtain ⟨hin, hwslot, hstate⟩ := acqPre_enters (s := recordRead l r.tick s) rfl hne htotal hctr r
      exact ⟨_, (exec_moverRecord_acq hmoving hstage hepoch hothers hgood hkind).trans
        (congrArg _ (acqRecord_pre (s := recordRead l r.tick s) htsrc hpre r)), hin.stage,
        ⟨hin.inside, hin.outside, hin.total⟩, hwslot, hstate⟩
    case post =>
      obtain ⟨hin, hcount, hstate⟩ := acqPost_enters (s := recordRead l r.tick s) hpost htotal hctr r
      exact ⟨_, (exec_moverRecord_acq hmoving hstage hepoch hothers hgood hkind).trans
        (congrArg _ (acqRecord_post (s := recordRead l r.tick s) htsrc hpost r)), hin.stage,
        ⟨hin.inside, hin.outside, hin.total⟩, hcount, hstate⟩
    case drop =>
      have hframe := incFld_regs (recordRead l r.tick s) (cmpA 0x40) 0 32
      exact ⟨_, (exec_moverRecord_acq hmoving hstage hepoch hothers hgood hkind).trans
        (congrArg _ (acqRecord_done (s := recordRead l r.tick s) htsrc hdone r)), by rw [hframe]; rfl, by rw [hframe]; rfl,
        rdFld_incFld _ _ (by decide), fun a ha => rdReg_incFld_other _ 0 32 ha⟩
    case bmap =>
      obtain ⟨hframe, hinside, houtside⟩ :=
        bmapBuild_storesBytes (s := recordRead l r.tick s) (r := r) hsize hpoison hupset hctr
      rw [length_bmapOred] at hinside houtside
      refine ⟨_, exec_moverRecord_bmap hmoving hstage hepoch hothers hgood hkind, ?_, ?_, fun i hi => ?_, houtside⟩
      · rw [hframe]
        rfl
      · rw [hframe]
        rfl
      · exact (hinside i hi).trans (getD_bmapOred _ r hi)
  case done =>
    intro s e hmoving hread htsrc hqueue
    have hexec := exec_moverEpochDone hmoving hread htsrc
    refine ⟨fun hoff => ?_, fun c hc hen hgained => ?_⟩
    · rw [hexec, notifyPosts_disabled hoff, moverNext_of_empty (s := moverIdle s) hqueue]
      rfl
    · intro p f hshelf hactive hroom hpool
      obtain ⟨haround, hitems⟩ := moverPost_accepted (s := moverIdle s) hshelf hactive hroom hpool (rdReg s (cmpA 0x48))
      rw [notifyPosts_one hc hen hgained, moverNext_of_empty] at hexec
      · refine ⟨_, hexec, ?_, hitems, ?_, haround.cl⟩
        · rw [haround.frame]
          rfl
        · rw [haround.frame]
          rfl
      · rw [haround.frame]
        exact hqueue
end

section
/-! PROOFS. Writes of the compare block and its acquisition controls (R286, R304, R305, R307, R315, R316). -/

namespace Sys2Proof.Machine

/-! ### Writes that reach the block -/

/-- The rows of the compare block. -/
theorem regRow_cmpA {o : Nat} (h : o < 0x10000) : regRow (cmpA o) = findRow cmpRows o := by
  have hofs : cmpA o - 0x40000 = o := Nat.add_sub_cancel_left ..
  have hlow : 0x40000 ≤ cmpA o := Nat.le_add_right ..
  have hhigh : cmpA o < 0x50000 := Nat.add_lt_add_left h 0x40000
  unfold regRow
  iterate 4 rw [if_neg (by omega)]
  rw [if_pos ⟨hlow, hhigh⟩, hofs]

/-- A write of a register of the block that every state lets write is done as the block says. -/
theorem request_cmpA {s : State} {who : Requester} {o : Nat} {r : RegRow} (hreach : Reaches s who (cmpA o)) (ho : o < 0x10000)
    (hrow : findRow cmpRows o = some r) (hrule : r.rule = .plain) (v : Word) :
    request who (cmpA o) true v s = answer who true (cmpWrite r o v s).1 0 (cmpWrite r o v s).2 := by
  have hofs : cmpA o - 0x40000 = o := Nat.add_sub_cancel_left ..
  have hlow : 0x40000 ≤ cmpA o := Nat.le_add_right ..
  have hhigh : cmpA o < 0x50000 := Nat.add_lt_add_left ho 0x40000
  have htarget : targetOf (cmpA o) = .reg (cmpA o) := if_pos (.inl (by omega))
  have hfeed : ¬ (imgA 0x8000 ≤ cmpA o ∧ cmpA o < imgA 0x10000) := by
    unfold imgA
    omega
  have hopen : ruleOpen r s = true := by simp [ruleOpen, hrule]
  have hwrite : regWrite who (cmpA o) v s = cmpWrite r o v s := by
    unfold regWrite
    simp only [regRow_cmpA ho, hrow, hopen, Bool.true_eq_false, or_false]
    iterate 4 rw [if_neg (by omega)]
    rw [if_pos hhigh, hofs]
  rw [request_reg hreach htarget hfeed, hwrite]

/-- The offsets of the acquisition controls (R305). -/
abbrev acqControls : List Nat := [0x10, 0x14, 0x18, 0x1C, 0x20, 0x24]

theorem findRow_acqControl {o : Nat} (h : o ∈ acqControls) :
    o < 0x10000 ∧ ∃ r, findRow cmpRows o = some r ∧ r.rule = .plain := by
  simp only [acqControls, List.mem_cons, List.not_mem_nil, or_false] at h
  rcases h with rfl | rfl | rfl | rfl | rfl | rfl <;> exact ⟨by decide, _, rfl, rfl⟩

theorem request_acqControl {s : State} {who : Requester} {o : Nat} (ho : o ∈ acqControls) (hreach : Reaches s who (cmpA o))
    (v : Word) : request who (cmpA o) true v s = answer who true .ok 0 (acqWrite (cmpA o) v s) := by
  obtain ⟨hlow, r, hrow, hrule⟩ := findRow_acqControl ho
  have hwrite : cmpWrite r o v s = (.ok, acqWrite (cmpA o) v s) := if_pos (List.contains_iff_mem.2 ho)
  rw [request_cmpA hreach hlow hrow hrule, hwrite]

/-- A setting is CMP_STOP_THR, CMP_SWEEP_CTRL, or word 1 or 2 of a port (R286). -/
theorem offset_of_isCmpSetting {o : Nat} (h : isCmpSetting (cmpA o) = true) :
    o = 0x5C ∨ o = 0x70 ∨ ∃ k, k < 256 ∧ (o = 0x1004 + 16 * k ∨ o = 0x1008 + 16 * k) := by
  have hbase (x : Nat) : cmpA x = 0x40000 + x := rfl
  simp only [isCmpSetting, hbase, Bool.or_eq_true, Bool.and_eq_true, decide_eq_true_eq] at h
  rcases h with (hthr | hsweep) | ⟨⟨hlow, hhigh⟩, hword⟩
  · exact .inl (by omega)
  · exact .inr (.inl (by omega))
  · exact .inr (.inr ⟨(o - 0x1000) / 16, by omega, by omega⟩)

/-- The rows of words 1 and 2 of CMP_PORT follow 34 and 35 rows of other offsets. -/
theorem findRow_cmpPort {k : Nat} (hk : k < 256) :
    (∃ r, findRow cmpRows (0x1004 + 16 * k) = some r ∧ r.rule = .plain) ∧
      ∃ r, findRow cmpRows (0x1008 + 16 * k) = some r ∧ r.rule = .plain := by
  unfold findRow cmpRows
  constructor
  · iterate 34 rw [List.find?_cons_of_neg (by simp only [Bool.and_eq_true, decide_eq_true_eq, beq_iff_eq]; omega)]
    exact ⟨_, List.find?_cons_of_pos (by simp only [Bool.and_eq_true, decide_eq_true_eq, beq_iff_eq]; omega), rfl⟩
  · iterate 35 rw [List.find?_cons_of_neg (by simp only [Bool.and_eq_true, decide_eq_true_eq, beq_iff_eq]; omega)]
    exact ⟨_, List.find?_cons_of_pos (by simp only [Bool.and_eq_true, decide_eq_true_eq, beq_iff_eq]; omega), rfl⟩

theorem findRow_cmpSetting {o : Nat} (h : isCmpSetting (cmpA o) = true) :
    o < 0x10000 ∧ ∃ r, findRow cmpRows o = some r ∧ r.rule = .plain := by
  rcases offset_of_isCmpSetting h with rfl | rfl | ⟨k, hk, rfl | rfl⟩
  · exact ⟨by decide, _, rfl, rfl⟩
  · exact ⟨by decide, _, rfl, rfl⟩
  · exact ⟨by omega, (findRow_cmpPort hk).1⟩
  · exact ⟨by omega, (findRow_cmpPort hk).2⟩

theorem request_cmpSetting {s : State} {who : Requester} {o : Nat} (ho : isCmpSetting (cmpA o) = true)
    (hreach : Reaches s who (cmpA o)) (v : Word) :
    request who (cmpA o) true v s = answer who true .ok 0 (cmpStagedWrite (cmpA o) v s) := by
  obtain ⟨hlow, r, hrow, hrule⟩ := findRow_cmpSetting ho
  have hother : acqControls.contains o = false := by
    simp only [acqControls, List.contains_eq_mem, List.mem_cons, List.not_mem_nil, or_false, decide_eq_false_iff_not]
    rcases offset_of_isCmpSetting ho with hthr | hsweep | ⟨k, -, hport⟩
    · omega
    · omega
    · omega
  have hwrite : cmpWrite r o v s = (.ok, cmpStagedWrite (cmpA o) v s) := by
    unfold cmpWrite
    rw [hother, ho]
    rfl
  rw [request_cmpA hreach hlow hrow hrule, hwrite]

/-- CMP_NOTIFY stores its low half, or refuses the write (R315). -/
theorem request_cmpNotify {s : State} {who : Requester} (hreach : Reaches s who (cmpA 0xC)) (v : Word) :
    (cmpNotifyRefused v = true → request who (cmpA 0xC) true v s = answer who true .error 0 s) ∧
    (cmpNotifyRefused v = false → ∃ r : RegRow, (r.rw = 0xFFFF ∧ r.w1c = 0 ∧ r.w1s = 0) ∧
      request who (cmpA 0xC) true v s = answer who true .ok 0 (storeReg r (cmpA 0xC) v s)) := by
  obtain ⟨r, hrow, hrule, hbits⟩ : ∃ r, findRow cmpRows 0xC = some r ∧ r.rule = .plain ∧ r.rw = 0xFFFF ∧
      r.w1c = 0 ∧ r.w1s = 0 := ⟨_, rfl, rfl, rfl, rfl, rfl⟩
  rw [request_cmpA hreach (by decide) hrow hrule]
  refine ⟨fun hrefused => ?_, fun hopen => ⟨r, hbits, ?_⟩⟩
  · have hwrite : cmpWrite r 0xC v s = writeErr s := by
      unfold cmpWrite
      rw [if_neg (by decide), if_neg (by decide), if_pos ⟨rfl, hrefused⟩]
    rw [hwrite]
    rfl
  · have hwrite : cmpWrite r 0xC v s = (.ok, storeReg r (cmpA 0xC) v s) := by
      unfold cmpWrite
      rw [if_neg (by decide), if_neg (by decide), if_neg (by simp [hopen])]
    rw [hwrite]

/-! ### Flags of a register -/

theorem rdBit_whenDo_setBit (b : Bool) (s : State) (a : Nat) {i : Nat} (h : i < 32) :
    rdBit (whenDo b (fun x => setBit x a i) s) a i = (rdBit s a i || b) := by
  cases b
  · exact (Bool.or_false _).symm
  · exact (rdBit_setBit_same s a h).trans (Bool.or_true _).symm

theorem rdBit_whenDo_setBit_other (b : Bool) (s : State) (a : Nat) {i j : Nat} (h : j ≠ i) :
    rdBit (whenDo b (fun x => setBit x a i) s) a j = rdBit s a j := by
  cases b
  · rfl
  · exact rdBit_setBit_other s a h

theorem whenDo_setBit_cmp (b : Bool) (a i : Nat) (s : State) : (whenDo b (fun x => setBit x a i) s).cmp = s.cmp := by
  cases b <;> rfl

theorem whenDo_setBit_cel (b : Bool) (a i : Nat) (s : State) : (whenDo b (fun x => setBit x a i) s).cel = s.cel := by
  cases b <;> rfl

theorem rdBit_wrReg_other (s : State) {a b : Nat} (v : Word) (h : b ≠ a) (i : Nat) : rdBit (wrReg s a v) b i = rdBit s b i := by
  rw [rdBit, rdReg_wrReg_other s v h, rdBit]

theorem whenDo_setBit_regs (b : Bool) (a i : Nat) (s : State) :
    whenDo b (fun x => setBit x a i) s = { s with regs := (whenDo b (fun x => setBit x a i) s).regs } := by
  cases b <;> rfl

/-- A pending trigger leaves STATE. -/
theorem acqState_whenDo_pend (b : Bool) (s : State) : acqState (whenDo b (fun x => setBit x acqStat 6) s) = acqState s := by
  cases b
  · rfl
  · exact rdFld_wrFld_other s acqStat 1 (.inl (by decide))

/-! ### Masks -/

/-- A bit outside a mask does not matter under it. -/
theorem or_and_of_disjoint {w : Nat} {m n : BitVec w} (h : n &&& m = 0#w) (v : BitVec w) : (v ||| n) &&& m = v &&& m := by
  rw [BitVec.and_or_distrib_right, h, BitVec.or_zero]

theorem bit_or {w : Nat} (v n : BitVec w) (i : Nat) : bit (v ||| n) i = (bit v i || bit n i) := BitVec.getLsbD_or

theorem bit_ofNat (w n i : Nat) : bit (BitVec.ofNat w n) i = (decide (i < w) && n.testBit i) := BitVec.getLsbD_ofNat ..

/-! ### Acquisition controls (R304, R305, R307) -/

/-- A write of an acquisition control asks for a trigger: TRIG, without ARM and DISARM both. -/
def asksTrig (a : Nat) (v : Word) : Bool := a = cmpA 0x10 && bit v 2 && !(bit v 0 && bit v 1)

theorem acqWrite_idle {s : State} (hmoving : s.cmp.moving = none) (hstate : s.chip.devState ≠ .running) (a : Nat) (v : Word) :
    acqWrite a v s = whenDo (asksTrig a v) (fun x => setBit x acqStat 6) (acqApply a v s) := by
  unfold acqWrite
  dsimp only
  rw [if_pos ⟨hmoving, hstate⟩]
  rfl

/-- The write waits for the mover's next epoch; a trigger does not. -/
theorem acqWrite_waits {s : State} (h : s.cmp.moving ≠ none ∨ s.chip.devState = .running) (a : Nat) (v : Word) :
    acqWrite a v s = whenDo (asksTrig a v) (fun x => setBit x acqStat 6)
      { s with cmp := { s.cmp with ctlPend := s.cmp.ctlPend ++ [(a, v)] } } := by
  unfold acqWrite
  dsimp only
  rw [if_neg (by tauto)]
  rfl

theorem acqApply_disarm {v : Word} (h : bit v 1 = true) (s : State) :
    acqApply (cmpA 0x10) v s = setAcqState 0 (wrReg s (cmpA 0x10) (v &&& 0x78)) := by
  unfold acqApply
  rw [if_pos rfl, h]
  rfl

theorem acqApply_arm {v : Word} (hdisarm : bit v 1 = false) (harm : bit v 0 = true) (s : State) :
    acqApply (cmpA 0x10) v s = acqArm (wrReg s (cmpA 0x10) (v &&& 0x78)) := by
  unfold acqApply
  rw [if_pos rfl, hdisarm, harm]
  rfl

theorem acqApply_store {v : Word} (hdisarm : bit v 1 = false) (harm : bit v 0 = false) (s : State) :
    acqApply (cmpA 0x10) v s = wrReg s (cmpA 0x10) (v &&& 0x78) := by
  unfold acqApply
  rw [if_pos rfl, hdisarm, harm]
  rfl

/-- The other controls store what their registers hold. -/
theorem acqApply_other {o : Nat} (h : o ≠ 0x10) (v : Word) (s : State) : acqApply (cmpA o) v s =
    wrReg s (cmpA o) (if o = 0x1C then v &&& 0x1FF else if o = 0x24 then v &&& 0xFFFF else v) := by
  have hofs (x : Nat) : cmpA o = cmpA x ↔ o = x := Nat.add_left_cancel_iff
  unfold acqApply
  rw [if_neg (by rwa [hofs])]
  simp only [hofs]
  split
  · rfl
  · split <;> rfl

/-! ### ARM (R304) -/

/-- The position and trigger registers of the acquisition, which ARM clears. -/
abbrev positions : List Nat := [0x2C, 0x30, 0x34, 0x38, 0x3C, 0x40, 0x48, 0x4C, 0x50, 0x54]

def clearWords (os : List Nat) (s : State) : State := os.foldl (fun acc o => wrWord o 0 acc) s

theorem clearWords_regs (os : List Nat) (s : State) : clearWords os s = { s with regs := (clearWords os s).regs } := by
  induction os generalizing s with
  | nil => rfl
  | cons o os ih => exact (ih (wrWord o 0 s)).trans rfl

theorem rdReg_clearWords_other {os : List Nat} {a : Nat} (h : ∀ o ∈ os, a ≠ cmpA o) (s : State) :
    rdReg (clearWords os s) a = rdReg s a := by
  induction os generalizing s with
  | nil => rfl
  | cons o os ih =>
    exact (ih (fun p hp => h p (List.mem_cons_of_mem _ hp)) _).trans (rdReg_wrReg_other s _ (h o (List.mem_cons_self ..)))

theorem rdReg_clearWords {os : List Nat} {o : Nat} (h : o ∈ os) (s : State) : rdReg (clearWords os s) (cmpA o) = 0 := by
  induction os generalizing s with
  | nil => cases h
  | cons p os ih =>
    by_cases hlater : o ∈ os
    · exact ih hlater _
    · obtain rfl : o = p := (List.mem_cons.1 h).resolve_right hlater
      refine (rdReg_clearWords_other (os := os) (fun q hq heq => hlater ?_) (wrWord o 0 s)).trans (rdReg_wrReg_same s _ _)
      rwa [Nat.add_left_cancel heq]

/-- CMP_ACQ_STAT as ARM leaves it: STATE, PRE_CLAMP and the pending trigger. -/
def statWord (st : Nat) (clamp pend : Bool) : Word := BitVec.ofNat 32 (st + 32 * b2n clamp + 64 * b2n pend)

theorem statWord_fields : ∀ st, st < 3 → ∀ clamp pend, fld (statWord st clamp pend) 0 3 = st ∧
    bit (statWord st clamp pend) 3 = false ∧ bit (statWord st clamp pend) 4 = false ∧
    bit (statWord st clamp pend) 5 = clamp ∧ bit (statWord st clamp pend) 6 = pend := by decide

/-- PRE as ARM latches it, at most C. -/
def preLatched (s : State) : Nat := min (acqCap s) (rdReg s (cmpA 0x14)).toNat

/-- STATE after ARM: WAIT where a native ring has no pre-trigger records, PRE otherwise. -/
def armedState (s : State) : Nat := if rdBit s (cmpA 0x10) 3 = false ∧ preLatched s = 0 then 2 else 1

/-- `x` with PRE, POST and MODE latched from the registers of `s`. -/
def latch (s x : State) : State :=
  { x with cmp := { x.cmp with
      pre := preLatched s, post := (rdReg s (cmpA 0x18)).toNat, compat := rdBit s (cmpA 0x10) 3, postCnt := 0 } }

theorem rdReg_latch (s x : State) (a : Nat) : rdReg (latch s x) a = rdReg x a := rfl

theorem latch_cel (s x : State) : (latch s x).cel = x.cel := rfl
theorem latch_stage (s x : State) : (latch s x).cmp.stage = x.cmp.stage := rfl

theorem fld_one {w : Nat} (v : BitVec w) (i : Nat) : fld v i 1 = b2n (bit v i) := by
  unfold fld bit b2n BitVec.getLsbD Nat.testBit
  rw [Nat.one_and_eq_mod_two, pow_one]
  rcases Nat.mod_two_eq_zero_or_one (v.toNat >>> i) with hzero | hone
  · rw [hzero]
    rfl
  · rw [hone]
    rfl

theorem acqArm_eq (s : State) : acqArm s = wrReg (latch s (clearWords positions s)) acqStat
    (statWord (armedState s) (decide (acqCap s < (rdReg s (cmpA 0x14)).toNat)) (rdBit s acqStat 6)) := by
  have hpre : (if acqCap s < (rdReg s (cmpA 0x14)).toNat then acqCap s else (rdReg s (cmpA 0x14)).toNat) = preLatched s := by
    unfold preLatched
    split <;> omega
  have hstate : (if !rdBit s (cmpA 0x10) 3 && preLatched s = 0 then 2 else 1) = armedState s := by
    simp [armedState]
  have hpend : rdFld (latch s (clearWords positions s)) acqStat 6 1 = b2n (rdBit s acqStat 6) := by
    rw [rdFld, rdReg_latch, rdReg_clearWords_other (by decide), fld_one, rdBit]
  have hclear : [0x2C, 0x30, 0x34, 0x38, 0x3C, 0x40, 0x48, 0x4C, 0x50, 0x54].foldl (fun acc o => wrWord o 0 acc) s =
      clearWords positions s := rfl
  unfold acqArm
  dsimp only
  rw [hpre, hstate, hclear]
  generalize clearWords positions s = x at hpend ⊢
  rw [statWord, ← hpend]
  rfl

/-- From `s` to `u` ARM has taken effect (R304): PRE, POST and MODE are latched, the positions cleared, STATE and the flags set
anew; `trig` says whether a trigger has become pending besides. -/
structure Arms (s u : State) (trig : Bool) : Prop where
  pre : u.cmp.pre = preLatched s
  post : u.cmp.post = (rdReg s (cmpA 0x18)).toNat
  compat : u.cmp.compat = rdBit s (cmpA 0x10) 3
  postCnt : u.cmp.postCnt = 0
  state : acqState u = armedState s
  trigClamp : rdBit u acqStat 3 = false
  early : rdBit u acqStat 4 = false
  preClamp : rdBit u acqStat 5 = decide (acqCap s < (rdReg s (cmpA 0x14)).toNat)
  pending : rdBit u acqStat 6 = (rdBit s acqStat 6 || trig)
  positions : ∀ o ∈ positions, rdReg u (cmpA o) = 0
  others : ∀ a, a ≠ acqStat → (∀ o ∈ Machine.positions, a ≠ cmpA o) → rdReg u a = rdReg s a
  cel : u.cel = s.cel
  stage : u.cmp.stage = s.cmp.stage

theorem arms_acqArm (s : State) : Arms s (acqArm s) false := by
  have hst : armedState s < 3 := by
    unfold armedState
    split <;> decide
  obtain ⟨hstate, htrig, hearly, hpre, hpend⟩ := statWord_fields _ hst
    (decide (acqCap s < (rdReg s (cmpA 0x14)).toNat)) (rdBit s acqStat 6)
  have hframe := clearWords_regs positions s
  have hzero (o : Nat) (ho : o ∈ positions) := rdReg_clearWords ho s
  have hother (a : Nat) (ha : ∀ o ∈ positions, a ≠ cmpA o) := rdReg_clearWords_other ha s
  rw [acqArm_eq]
  generalize clearWords positions s = x at hframe hzero hother ⊢
  have hword := rdReg_wrReg_same (latch s x) acqStat
    (statWord (armedState s) (decide (acqCap s < (rdReg s (cmpA 0x14)).toNat)) (rdBit s acqStat 6))
  refine ⟨rfl, rfl, rfl, rfl, ?_, ?_, ?_, ?_, ?_, fun o ho => ?_, fun a hstat ha => ?_, ?_, ?_⟩
  · rw [acqState, rdFld, hword, hstate]
  · rw [rdBit, hword, htrig]
  · rw [rdBit, hword, hearly]
  · rw [rdBit, hword, hpre]
  · rw [rdBit, hword, hpend, Bool.or_false]
  · have hne : ∀ p ∈ positions, cmpA p ≠ acqStat := by decide
    exact (rdReg_wrReg_other _ _ (hne o ho)).trans (hzero o ho)
  · exact (rdReg_wrReg_other _ _ hstat).trans (hother a ha)
  · rw [wrReg_cel, latch_cel, hframe]
  · rw [wrReg_cmp, latch_stage, hframe]

theorem Arms.pend {s u : State} (h : Arms s u false) (trig : Bool) : Arms s (whenDo trig (fun x => setBit x acqStat 6) u) trig where
  pre := by rw [whenDo_setBit_cmp, h.pre]
  post := by rw [whenDo_setBit_cmp, h.post]
  compat := by rw [whenDo_setBit_cmp, h.compat]
  postCnt := by rw [whenDo_setBit_cmp, h.postCnt]
  state := by rw [acqState_whenDo_pend, h.state]
  trigClamp := by rw [rdBit_whenDo_setBit_other _ _ _ (by decide), h.trigClamp]
  early := by rw [rdBit_whenDo_setBit_other _ _ _ (by decide), h.early]
  preClamp := by rw [rdBit_whenDo_setBit_other _ _ _ (by decide), h.preClamp]
  pending := by rw [rdBit_whenDo_setBit _ _ _ (by decide), h.pending, Bool.or_false]
  positions o ho := by
    have hne : ∀ p ∈ Machine.positions, cmpA p ≠ acqStat := by decide
    rw [rdReg_whenDo_setBit_other _ _ _ (hne o ho), h.positions o ho]
  others a hstat ha := by rw [rdReg_whenDo_setBit_other _ _ _ hstat, h.others a hstat ha]
  cel := by rw [whenDo_setBit_cel, h.cel]
  stage := by rw [whenDo_setBit_cmp, h.stage]

/-- ARM leaves CMP_ACQ_PRE as it was, and CMP_ACQ_CTRL as it was written. -/
theorem Arms.control {s u : State} {trig : Bool} (h : Arms s u trig) {o : Nat} (ho : o ∈ [0x10, 0x14]) :
    rdReg u (cmpA o) = rdReg s (cmpA o) := by
  have hfree : ∀ o ∈ [0x10, 0x14], cmpA o ≠ acqStat ∧ ∀ p ∈ Machine.positions, cmpA o ≠ cmpA p := by decide
  exact h.others _ (hfree o ho).1 (hfree o ho).2

/-- C, PRE and POST are no matter of CMP_ACQ_CTRL. -/
theorem acqCap_wrCtrl (s : State) (w : Word) : acqCap (wrReg s (cmpA 0x10) w) = acqCap s := by
  rw [acqCap, rdReg_wrReg_other _ _ (by decide), acqCap]

theorem preLatched_wrCtrl (s : State) (w : Word) : preLatched (wrReg s (cmpA 0x10) w) = preLatched s := by
  rw [preLatched, acqCap_wrCtrl, rdReg_wrReg_other _ _ (by decide), preLatched]

/-- MODE in the word written. -/
theorem rdBit_wrCtrl_mode (s : State) (v : Word) : rdBit (wrReg s (cmpA 0x10) (v &&& 0x78)) (cmpA 0x10) 3 = bit v 3 := by
  rw [rdBit, rdReg_wrReg_same]
  simp [bit]

/-! ### Settings (R286) and the sweep counters (R316) -/

theorem cmpStagedWrite_stopped {s : State} (h : s.chip.devState = .ready ∨ s.chip.devState = .held) (a : Nat) (v : Word) :
    cmpStagedWrite a v s = cmpApply a (v &&& cmpMask a) s := by
  rcases h with h | h
  · simp only [cmpStagedWrite, h]
  · simp only [cmpStagedWrite, h]

theorem cmpStagedWrite_running {s : State} (h : s.chip.devState = .running) (hpos : s.spr.pos ≠ .extension) (a : Nat) (v : Word) :
    cmpStagedWrite a v s =
      { s with cmp := { s.cmp with staged := mapIns (mapDel s.cmp.staged a) a (v &&& cmpMask a) } } := by
  simp only [cmpStagedWrite, h, if_neg hpos]

theorem cmpApply_stores {a : Nat} (h : a ≠ cmpA 0x70) (v : Word) (s : State) : cmpApply a v s = wrReg s a v := if_neg h

/-- CLR acts, and SWEEP_EN is stored. -/
theorem cmpApply_clr (v : Word) (s : State) :
    cmpApply (cmpA 0x70) ((v ||| 2) &&& cmpMask (cmpA 0x70)) s = sweepClear (wrReg s (cmpA 0x70) (v &&& 1)) := by
  have hclr : bit ((v ||| 2) &&& 3#32) 1 = true := by simp [bit]
  have hen : (v ||| 2) &&& 3#32 &&& 1 = v &&& 1 := by
    rw [BitVec.and_assoc]
    exact or_and_of_disjoint (by decide) v
  have hmask : cmpMask (cmpA 0x70) = 3#32 := rfl
  unfold cmpApply
  rw [if_pos rfl, hmask, hen, hclr]
  rfl

/-- A row whose low half is plain storage holds there what is written. -/
theorem rdFld_storeReg_low {r : RegRow} (hrw : r.rw = 0xFFFF) (hw1c : r.w1c = 0) (hw1s : r.w1s = 0) (a : Nat) (v : Word)
    (s : State) :
    rdFld (storeReg r a v s) a 0 16 = fld v 0 16 := by
  refine Nat.eq_of_testBit_eq fun i => ?_
  rw [rdFld, fld_testBit, fld_testBit, Nat.zero_add]
  by_cases hi : i < 16
  · have hbit := bit_rdReg_storeReg r a v s (i := i) (by omega)
    have hlow : (0xFFFF).testBit i = true := by
      rw [show 0xFFFF = 2 ^ 16 - 1 from rfl, Nat.testBit_two_pow_sub_one, decide_eq_true hi]
    simp only [bitWritten, hrw, hw1c, hw1s, hlow, Nat.zero_testBit, Bool.true_or, Bool.false_and, Bool.not_false, Bool.and_true,
      Bool.or_false, if_true] at hbit
    simpa [bit, hi] using hbit
  · simp [hi]

/-! ### Rising edges (R711) -/

theorem gpioEdge_latched {s : State} {i : Nat} (hi : i < 16) (hstate : s.chip.devState ≠ .off)
    (hin : rdBit s (hstA 0x20) i = false) : gpioEdge i s =
      whenDo (decide (rdFld s (cmpA 0x10) 4 3 = 4) && decide (rdFld s (cmpA 0x1C) 0 9 = i)) (fun x => setBit x acqStat 6)
        (setBit s (hstA 0x2C) i) := by
  have hctrl : rdFld (setBit s (hstA 0x2C) i) (cmpA 0x10) 4 3 = rdFld s (cmpA 0x10) 4 3 :=
    congrArg (fld · 4 3) (rdReg_setBit_other s i (by decide))
  have hsel : rdFld (setBit s (hstA 0x2C) i) (cmpA 0x1C) 0 9 = rdFld s (cmpA 0x1C) 0 9 :=
    congrArg (fld · 0 9) (rdReg_setBit_other s i (by decide))
  unfold gpioEdge
  rw [if_pos ⟨hi, hstate, hin⟩]
  dsimp only
  rw [hctrl, hsel]

end Sys2Proof.Machine

open Sys2Proof Sys2Proof.Machine

/-- Settles O38: a write reaches the block by `request_acqControl`, `request_cmpSetting` and `request_cmpNotify`; an acquisition
control then acts or waits (`acqWrite_idle`, `acqWrite_waits`), ARM as `arms_acqArm` says. A setting is stored or staged by
`cmpStagedWrite_stopped` and `cmpStagedWrite_running`, and an edge is latched by `gpioEdge_latched`. -/
theorem acquisitionControls : Obligations.AcquisitionControls := by
  unfold Obligations.AcquisitionControls
  refine ⟨?ctrl, ?control, ?setting, ?sweep, ?notify, ?edge⟩
  case ctrl =>
    intro s who v hreach
    have hexec (w : Word) := request_acqControl (o := 0x10) (by decide) hreach w
    refine ⟨fun hmoving hstate => ⟨fun hdisarm => ⟨_, congrArg _ (hexec (v ||| 1)), ?arm⟩,
      ⟨_, congrArg _ (hexec (v ||| 2)), ?disarm⟩, fun harm hdisarm => ⟨_, congrArg _ (hexec (v ||| 4)), ?trig⟩⟩,
      fun hwaits => ⟨_, congrArg _ (hexec (v ||| 1)), ?waits⟩⟩
    case arm =>
      have hask : asksTrig (cmpA 0x10) (v ||| 1) = bit v 2 := by simp [asksTrig, bit_or, bit_ofNat, Nat.testBit, hdisarm]
      rw [acqWrite_idle hmoving hstate, hask, acqApply_arm (by simp [bit_or, bit_ofNat, Nat.testBit, hdisarm])
        (by simp [bit_or, bit_ofNat, Nat.testBit]), or_and_of_disjoint (by decide)]
      have harms := (arms_acqArm (wrReg s (cmpA 0x10) (v &&& 0x78))).pend (bit v 2)
      have hpre : preLatched (wrReg s (cmpA 0x10) (v &&& 0x78)) = min (acqCap s) (rdReg s (cmpA 0x14)).toNat :=
        preLatched_wrCtrl ..
      have hpreReg : rdReg (wrReg s (cmpA 0x10) (v &&& 0x78)) (cmpA 0x14) = rdReg s (cmpA 0x14) :=
        rdReg_wrReg_other _ _ (by decide)
      have hpost : rdReg (wrReg s (cmpA 0x10) (v &&& 0x78)) (cmpA 0x18) = rdReg s (cmpA 0x18) :=
        rdReg_wrReg_other _ _ (by decide)
      have hmode := rdBit_wrCtrl_mode s v
      have hstat : rdBit (wrReg s (cmpA 0x10) (v &&& 0x78)) acqStat 6 = rdBit s acqStat 6 :=
        rdBit_wrReg_other _ _ (by decide) 6
      refine ⟨harms.pre.trans hpre, harms.post.trans (congrArg _ hpost), harms.compat.trans hmode, harms.postCnt, ?_, ?_,
        harms.trigClamp, harms.early, ?_, ?_, harms.positions, ?_, harms.cel, harms.stage⟩
      · rw [harms.state, armedState, hmode, hpre]
      · rw [harms.preClamp, acqCap_wrCtrl, hpreReg]
      · rw [harms.pending, hstat]
      · rw [harms.control (by decide), rdReg_wrReg_same]
      · rw [harms.control (by decide), hpreReg]
    case disarm =>
      have hask : asksTrig (cmpA 0x10) (v ||| 2) = (bit v 2 && !bit v 0) := by
        simp [asksTrig, bit_or, bit_ofNat, Nat.testBit]
      rw [acqWrite_idle hmoving hstate, hask, acqApply_disarm (by simp [bit_or, bit_ofNat, Nat.testBit]),
        or_and_of_disjoint (by decide)]
      have hflag : rdBit (setAcqState 0 (wrReg s (cmpA 0x10) (v &&& 0x78))) acqStat 6 = rdBit s acqStat 6 :=
        (rdBit_wrFld_other _ acqStat 0 (.inr (by decide))).trans (rdBit_wrReg_other s _ (by decide) 6)
      refine ⟨?_, ?_, ?_, fun a hctrl hstat => ?_, ?_⟩
      · rw [acqState_whenDo_pend, acqState_setAcqState (by decide)]
      · rw [rdReg_whenDo_setBit_other _ _ _ (by decide), rdReg_setAcqState_other _ _ (by decide), rdReg_wrReg_same]
      · rw [rdBit_whenDo_setBit _ _ _ (by decide), hflag]
      · rw [rdReg_whenDo_setBit_other _ _ _ hstat, rdReg_setAcqState_other _ _ hstat, rdReg_wrReg_other _ _ hctrl]
      · exact (whenDo_setBit_regs ..).trans rfl
    case trig =>
      have hask : asksTrig (cmpA 0x10) (v ||| 4) = true := by simp [asksTrig, bit_or, bit_ofNat, Nat.testBit, harm, hdisarm]
      rw [acqWrite_idle hmoving hstate, hask, acqApply_store (by simp [bit_or, bit_ofNat, Nat.testBit, hdisarm])
        (by simp [bit_or, bit_ofNat, Nat.testBit, harm]),
        or_and_of_disjoint (by decide)]
      refine ⟨?_, ?_, ?_, ?_⟩
      · exact rdBit_setBit_same _ acqStat (by decide)
      · rw [acqState_whenDo_pend, acqState_wrReg _ _ (by decide)]
      · rw [rdReg_whenDo_setBit_other _ _ _ (by decide), rdReg_wrReg_same]
      · exact (whenDo_setBit_regs ..).trans rfl
    case waits =>
      rw [acqWrite_waits hwaits]
      refine ⟨congrArg Compare.ctlPend (whenDo_setBit_cmp ..), fun a ha => ?_, acqState_whenDo_pend ..⟩
      exact rdReg_whenDo_setBit_other _ _ _ ha
  case control =>
    intro s who o v ho hreach
    have hlist : o ∈ acqControls := List.mem_cons_of_mem _ ho
    have hne : o ≠ 0x10 := by
      rintro rfl
      revert ho
      decide
    have hno : asksTrig (cmpA o) v = false := by
      have hctrl : cmpA o ≠ cmpA 0x10 := fun h => hne (Nat.add_left_cancel h)
      simp [asksTrig, hctrl]
    have hexec : exec (.acqControlWrite who o v) s = .next (answer who true .ok 0 (acqWrite (cmpA o) v s)) :=
      congrArg _ ((if_pos (List.contains_iff_mem.2 hlist)).trans (request_acqControl hlist hreach v))
    refine ⟨fun hmoving hstate => ⟨_, hexec, ?_⟩, fun hwaits => ⟨_, hexec, ?_⟩⟩
    · rw [acqWrite_idle hmoving hstate, hno, acqApply_other hne]
      exact ⟨rdReg_wrReg_same .., fun a ha => rdReg_wrReg_other s _ ha, rfl⟩
    · rw [acqWrite_waits hwaits, hno]
      rfl
  case setting =>
    intro s who o v hset hne hreach
    have hexec : exec (.cmpStagedWrite who o v) s = .next (answer who true .ok 0 (cmpStagedWrite (cmpA o) v s)) :=
      congrArg _ ((if_pos hset).trans (request_cmpSetting hset hreach v))
    refine ⟨fun hstopped => ⟨_, hexec, ?_⟩, fun hrun hpos => ⟨_, hexec, ?_⟩⟩
    · have hofs : cmpA o ≠ cmpA 0x70 := fun h => hne (Nat.add_left_cancel h)
      rw [cmpStagedWrite_stopped hstopped, cmpApply_stores hofs]
      exact ⟨rdReg_wrReg_same .., fun a ha => rdReg_wrReg_other s _ ha, rfl⟩
    · rw [cmpStagedWrite_running hrun hpos]
      exact ⟨mapGet_mapIns_mapDel .., rfl⟩
  case sweep =>
    intro s who v hreach hstopped
    refine ⟨_, congrArg Host.Outcome.next (request_cmpSetting (o := 0x70) rfl hreach (v ||| 2)), ?_⟩
    rw [cmpStagedWrite_stopped hstopped, cmpApply_clr]
    exact ⟨rfl, rfl, rdReg_wrReg_same .., fun a ha => rdReg_wrReg_other s _ ha, rfl⟩
  case notify =>
    intro s who v hreach
    obtain ⟨hrefused, hopen⟩ := request_cmpNotify hreach v
    refine ⟨fun hen hflow => ?_, fun hok => ?_⟩
    · exact congrArg Host.Outcome.next (hrefused (by simp [cmpNotifyRefused, hen, hflow]))
    · obtain ⟨r, ⟨hrw, hw1c, hw1s⟩, hstore⟩ := hopen (by
        rcases hok with hdis | hflow
        · simp [cmpNotifyRefused, hdis]
        · simp [cmpNotifyRefused, hflow])
      refine ⟨_, congrArg Host.Outcome.next hstore, rdFld_storeReg_low hrw hw1c hw1s .., storeReg_onlyRegs ..⟩
  case edge =>
    intro s i hi hstate hin
    refine ⟨_, congrArg Host.Outcome.next (gpioEdge_latched hi hstate hin), ?_, ?_, fun a hlatch hstat => ?_, ?_⟩
    · rw [rdBit, rdReg_whenDo_setBit_other _ _ _ (by decide)]
      exact rdBit_setBit_same s _ (by omega)
    · rw [rdBit_whenDo_setBit _ _ _ (by decide), rdBit, rdReg_setBit_other _ _ (by decide)]
      rfl
    · rw [rdReg_whenDo_setBit_other _ _ _ hstat, rdReg_setBit_other _ _ hlatch]
    · exact (whenDo_setBit_regs ..).trans rfl
end

section
/-! PROOFS. Training of a link in Boot while a load runs (R258, R335, R346). -/

namespace Sys2Proof.Machine

/-- Boot, with a load in progress and an upstream link 0 that no shell has configured and that shows UP. The device begins no load
in Boot (`mayLoad`), but the premises of the statement's clause on boot service mode do not shut this out. -/
def bootMidLoad : State :=
  { State.reset with
    chip := { Chip.reset with devState := .boot }
    crt := { Crate.reset with uplink := some 0 }
    ldr := { Loader.reset with kind := 1 }
    regs := [(linkA 0 0xC, 8)] }

/-- The premises of that clause. -/
theorem bootMidLoad_premises :
    linkMode bootMidLoad 0 = 0 ∧ bootMidLoad.chip.devState = .boot ∧ bootMidLoad.chip.shellUp = false := by decide

/-- Link 0 leaves UP for boot service mode, so that the load ends at this device with a finding of its own, E_LINK (R258). -/
theorem exec_linkStateDone_bootMidLoad : ∃ t, exec (.linkStateDone 0 0 false) bootMidLoad = .next t ∧ t.ldr.mine.isSome = true :=
  ⟨_, rfl, by decide⟩

end Sys2Proof.Machine

open Sys2Proof Sys2Proof.Machine

/-- Refutes O39: the clause on boot service mode does not ask that the link is not UP. In `bootMidLoad` it is, and LINK_STATE_DONE
takes it down, which fails the load that runs (R258): the loader changes, where `OnlyLink` has it unchanged. -/
theorem not_linkTraining : ¬ Obligations.LinkTraining := by
  unfold Obligations.LinkTraining
  rintro ⟨-, -, boot, -⟩
  obtain ⟨hmode, hstate, hshell⟩ := bootMidLoad_premises
  obtain ⟨t, ht, -, ⟨hframe, -⟩⟩ := boot bootMidLoad 0 0 (by decide) hmode hstate hshell
  obtain ⟨u, hu, hmine⟩ := exec_linkStateDone_bootMidLoad
  obtain rfl : u = t := by simpa [hu] using ht
  have hkept : u.ldr = bootMidLoad.ldr := by rw [hframe]
  rw [hkept] at hmine
  exact absurd hmine (by decide)

end

section
/-! PROOFS. Registers and state of the links: what link operations, events and failed flits leave (R353, R357, R484, R703). -/

namespace Sys2Proof.Machine

/-! ### Addresses of the link and lane windows -/

theorem linkA_ne (l : Nat) {o o' : Nat} (h : o ≠ o') : linkA l o ≠ linkA l o' := fun e => h (Nat.add_left_cancel e)

theorem laneA_ne_linkA {p o : Nat} (hp : p < 256) (ho : o < 0x1000) (l o' : Nat) : laneA p o ≠ linkA l o' := by
  unfold laneA linkA
  omega

theorem linkA_lt {l o : Nat} (hl : l < 64) (ho : o < 0x1000) : linkA l o < shfA 0 0 := by
  unfold linkA shfA
  omega

/-! ### Links -/

@[simp] theorem linkOf_putLink (l : Nat) (f : Link → Link) (s : State) : linkOf (putLink l f s) l = f (linkOf s l) :=
  mapGet_mapSet_same

theorem linkOf_congr {s t : State} (h : t.lnk = s.lnk) (l : Nat) : linkOf t l = linkOf s l := by rw [linkOf, h, linkOf]

/-! ### Counters -/

theorem fld_word (v : Word) : fld v 0 32 = v.toNat := Nat.mod_eq_of_lt v.isLt

/-- A counter of 32 bits stops at its largest value. -/
theorem rdReg_incFld_word (s : State) (a : Nat) :
    rdReg (incFld s a 0 32) a = BitVec.ofNat 32 (min (2 ^ 32 - 1) ((rdReg s a).toNat + 1)) := by
  have h : fld (rdReg (incFld s a 0 32) a) 0 32 = min (2 ^ 32 - 1) (fld (rdReg s a) 0 32 + 1) := rdFld_incFld s a (by decide)
  rw [fld_word, fld_word] at h
  rw [← h, BitVec.ofNat_toNat, BitVec.setWidth_eq]

theorem rdBit_congr {s t : State} {a : Nat} (h : rdReg t a = rdReg s a) (i : Nat) : rdBit t a i = rdBit s a i := by
  rw [rdBit, h, rdBit]

theorem rdFld_congr {s t : State} {a : Nat} (h : rdReg t a = rdReg s a) (lo n : Nat) : rdFld t a lo n = rdFld s a lo n := by
  rw [rdFld, h, rdFld]

/-! ### Host events (R484, R694, R703) -/

/-- From `s` to `u` an event is raised: HST_EVENT and the wake causes of the shelves are the only registers that change. -/
def Signals (s u : State) : Prop :=
  u = { s with regs := u.regs, outbox := u.outbox, hst := u.hst, stw := u.stw, noc := u.noc } ∧
    ∀ b, b < shfA 0 0 → b ≠ hstA 4 → rdReg u b = rdReg s b

namespace Signals

theorem refl (s : State) : Signals s s := ⟨rfl, fun _ _ _ => rfl⟩

theorem trans {s u v : State} (h : Signals s u) (k : Signals u v) : Signals s v := by
  obtain ⟨hu, hregs⟩ := h
  obtain ⟨hv, kregs⟩ := k
  refine ⟨?_, fun b hb hne => (kregs b hb hne).trans (hregs b hb hne)⟩
  rw [hv, hu]

theorem lnk {s u : State} (h : Signals s u) : u.lnk = s.lnk := by rw [h.1]
theorem cl {s u : State} (h : Signals s u) : u.cl = s.cl := by rw [h.1]
theorem spr {s u : State} (h : Signals s u) : u.spr = s.spr := by rw [h.1]

theorem rdReg_linkA {s u : State} (h : Signals s u) {l o : Nat} (hl : l < 64) (ho : o < 0x1000) :
    rdReg u (linkA l o) = rdReg s (linkA l o) := by
  refine h.2 _ (linkA_lt hl ho) ?_
  unfold linkA hstA
  omega

theorem foldl {α : Type} {f : State → α → State} (hf : ∀ x a, Signals x (f x a)) (l : List α) (s : State) :
    Signals s (l.foldl f s) := by
  induction l generalizing s with
  | nil => exact .refl s
  | cons a l ih => exact (hf s a).trans (ih _)

theorem wrFld {a : Nat} (h : shfA 0 0 ≤ a ∨ a = hstA 4) (lo n v : Nat) (s : State) : Signals s (wrFld s a lo n v) :=
  ⟨rfl, fun b hb hne => rdReg_wrFld_other s lo n v (by omega)⟩

end Signals

theorem signals_wakeShelf (h : Nat) {cause : Nat} (hcause : cause ≠ 1) (s : State) : Signals s (wakeShelf h cause s) := by
  have hgate (g : Gate) : Signals s (putGate h g s) := ⟨rfl, fun _ _ _ => rfl⟩
  have hnote (g : Gate) : Signals s (wrFld (putGate h g s) (shfA h 0x604) 3 3 cause) :=
    (hgate g).trans (.wrFld (.inl (by unfold shfA; omega)) 3 3 cause _)
  unfold wakeShelf
  dsimp only
  split
  · exact .refl s
  · exact .refl s
  · split
    · exact hgate _
    · exact hnote _
  · split
    · exact hgate _
    · exact hnote _
  · exact hgate _
  · split
    · exact hgate _
    · rw [decide_eq_false hcause]
      exact hnote _

theorem signals_irqAll (i : Nat) (s : State) : Signals s (irqAll i s) := by
  unfold irqAll wakeLine
  refine .trans (u := { s with stw := _ }) ⟨rfl, fun _ _ _ => rfl⟩ (.foldl (fun x q => ?_) _ _)
  dsimp only
  split
  · exact signals_wakeShelf _ (by decide) x
  · exact .refl x

theorem signals_msix (v : Nat) (s : State) : Signals s (msix v s) := by
  unfold msix
  split
  · exact .refl s
  · split <;> exact ⟨rfl, fun _ _ _ => rfl⟩

theorem signals_hostEvent (n : Nat) (s : State) : Signals s (hostEvent n s) := by
  have hraise (x : State) : Signals x (if rdBit x (hstA 4) n then x else msix n (setBit x (hstA 4) n)) := by
    split
    · exact .refl x
    · exact .trans (.wrFld (.inr rfl) n 1 1 x) (signals_msix n _)
  unfold hostEvent
  cases eventLine n with
  | none => exact hraise s
  | some i => exact (signals_irqAll i s).trans (hraise _)

/-! ### Flits that fail (R357, R386, R620) -/

/-- From `s` to `x` faults are noted: registers of the link and lane windows, and the reports of the attic. -/
def Notes (s x : State) : Prop :=
  x = { s with regs := x.regs, att := x.att } ∧ ∀ b, b < laneA 0 0 → rdReg x b = rdReg s b

namespace Notes

theorem refl (s : State) : Notes s s := ⟨rfl, fun _ _ => rfl⟩

theorem trans {s x y : State} (h : Notes s x) (k : Notes x y) : Notes s y := by
  obtain ⟨hx, hregs⟩ := h
  obtain ⟨hy, kregs⟩ := k
  refine ⟨?_, fun b hb => (kregs b hb).trans (hregs b hb)⟩
  rw [hy, hx]

theorem wrFld {a : Nat} (h : laneA 0 0 ≤ a) (lo n v : Nat) (s : State) : Notes s (wrFld s a lo n v) :=
  ⟨rfl, fun b hb => rdReg_wrFld_other s lo n v (by omega)⟩

theorem incFld {a : Nat} (h : laneA 0 0 ≤ a) (lo n : Nat) (s : State) : Notes s (incFld s a lo n) := by
  unfold Machine.incFld
  dsimp only
  split
  · exact wrFld h lo n _ s
  · exact .refl s

/-- A local check of the current epoch that fails after the notes fails as it would before them (R188). -/
theorem failNow_failsEpoch {s x : State} (h : Notes s x) (hrun : s.chip.devState = .running) (hphase : s.spr.phase ≠ .rollback)
    (cause : Nat) : FailsEpoch s (failNow cause x) (curEpoch s) cause := by
  obtain ⟨hframe, hregs⟩ := h
  have hspr : x.spr = s.spr := by rw [hframe]
  have hchip : x.chip = s.chip := by rw [hframe]
  have hcrt : x.crt = s.crt := by rw [hframe]
  have hout : x.outbox = s.outbox := by rw [hframe]
  have hepoch : curEpoch x = curEpoch s := by
    rw [curEpoch, epochLen, rdFld_congr (hregs _ (by decide)), hspr, curEpoch, epochLen]
  rw [failNow, hepoch]
  exact (failEpoch_failsEpoch (by rwa [hchip]) (by rwa [hspr]) _ _).congr hspr hcrt hout (rdFld_congr (hregs _ (by decide)) 0 12)

end Notes

theorem laneA_low (p o : Nat) : laneA 0 0 ≤ laneA p o := by
  unfold laneA
  omega

theorem linkA_low (l o : Nat) : laneA 0 0 ≤ linkA l o := by
  unfold laneA linkA
  omega

theorem notes_setBit_linkA (l o i : Nat) (s : State) : Notes s (setBit s (linkA l o) i) := .wrFld (linkA_low l o) i 1 1 s

/-- A flit that failed its CRC is counted at its lane, which reports it. -/
theorem notes_laneFault_laneCrc (lane kind : Nat) (s : State) : Notes s (laneFault lane kind (laneCrc lane s)) :=
  (Notes.incFld (laneA_low lane 8) 0 32 s).trans ⟨rfl, fun _ _ => rfl⟩

theorem rdReg_laneCrc (lane : Nat) (s : State) :
    rdReg (laneCrc lane s) (laneA lane 8) = BitVec.ofNat 32 (min (2 ^ 32 - 1) ((rdReg s (laneA lane 8)).toNat + 1)) :=
  rdReg_incFld_word s _

theorem rdReg_laneCrc_linkA {lane : Nat} (h : lane < 256) (l o : Nat) (s : State) :
    rdReg (laneCrc lane s) (linkA l o) = rdReg s (linkA l o) :=
  rdReg_incFld_other s 0 32 (laneA_ne_linkA h (by decide) l o).symm

@[simp] theorem laneCrc_lnk (lane : Nat) (s : State) : (laneCrc lane s).lnk = s.lnk := by rw [laneCrc, incFld_regs]

@[simp] theorem laneFault_lnk (lane kind : Nat) (s : State) : (laneFault lane kind s).lnk = s.lnk := rfl

@[simp] theorem rdReg_laneFault (lane kind : Nat) (s : State) (b : Nat) : rdReg (laneFault lane kind s) b = rdReg s b := rfl

theorem rdReg_failNow (cause : Nat) (s : State) {b : Nat} (h : laneA 0 0 ≤ b) : rdReg (failNow cause s) b = rdReg s b :=
  (springActs_failNow cause s).2 b (by unfold laneA at h; unfold imgA; omega)

@[simp] theorem failNow_lnk (cause : Nat) (s : State) : (failNow cause s).lnk = s.lnk := by rw [(answers_failNow cause s).frame]

/-- A flit that failed its CRC (R357): counted and reported at its lane, and a local check fails. -/
def failedFlit (lane cause : Nat) (s : State) : State := failNow cause (laneFault lane 0x18 (laneCrc lane s))

@[simp] theorem failedFlit_lnk (lane cause : Nat) (s : State) : (failedFlit lane cause s).lnk = s.lnk := by
  simp [failedFlit]

theorem rdReg_failedFlit_lane (lane cause : Nat) (s : State) :
    rdReg (failedFlit lane cause s) (laneA lane 8) =
      BitVec.ofNat 32 (min (2 ^ 32 - 1) ((rdReg s (laneA lane 8)).toNat + 1)) := by
  rw [failedFlit, rdReg_failNow _ _ (laneA_low lane 8), rdReg_laneFault, rdReg_laneCrc]

theorem rdReg_failedFlit_link {lane : Nat} (hlane : lane < 256) (cause l o : Nat) (s : State) :
    rdReg (failedFlit lane cause s) (linkA l o) = rdReg s (linkA l o) := by
  rw [failedFlit, rdReg_failNow _ _ (linkA_low l o), rdReg_laneFault, rdReg_laneCrc_linkA hlane]

theorem Notes.failedFlit_failsEpoch {s x : State} (h : Notes s x) (hrun : s.chip.devState = .running)
    (hphase : s.spr.phase ≠ .rollback) (lane cause : Nat) : FailsEpoch s (failedFlit lane cause x) (curEpoch s) cause :=
  (h.trans (notes_laneFault_laneCrc lane 0x18 x)).failNow_failsEpoch hrun hphase cause

/-- A flit that failed, after flag `i` of its link was set. -/
theorem failedFlit_flagged {lane i : Nat} (hlane : lane < 256) (hi : i < 32) (l cause : Nat) (s : State) :
    rdBit (failedFlit lane cause (setBit s (linkA l 0x14) i)) (linkA l 0x14) i = true ∧
      rdReg (failedFlit lane cause (setBit s (linkA l 0x14) i)) (laneA lane 8) =
        BitVec.ofNat 32 (min (2 ^ 32 - 1) ((rdReg s (laneA lane 8)).toNat + 1)) := by
  refine ⟨(rdBit_congr (rdReg_failedFlit_link hlane cause l 0x14 _) i).trans (rdBit_setBit_same s _ hi), ?_⟩
  rw [rdReg_failedFlit_lane, rdReg_setBit_other s i (laneA_ne_linkA hlane (by decide) l 0x14)]

end Sys2Proof.Machine
end

section
/-! PROOFS. SIGNAL and SIGNAL_ITEM_RELEASE (R353 to R357). -/

namespace Sys2Proof.Machine

/-! ### SIGNAL (R353, R355) -/

/-- SLACK_MIN after a flit of this slack. -/
def slackKept (l slack : Nat) (s : State) : State :=
  if slack < rdFld s (linkA l 8) 16 8 then wrFld s (linkA l 8) 16 8 slack else s

/-- A slack below 2 sets SLACK_LOW and signals the host where the flag was clear. -/
def slackFlagged (l slack : Nat) (s : State) : State :=
  whenDo (slack < 2 && !rdBit s (lkErr l) 5) (fun x => hostEvent 4 (setBit x (lkErr l) 5)) s

/-- The items of a bundle and slot, by transmit step. -/
def bundleItems (slot bundle : Nat) (items : List (Bool × Ctx)) : List SigItem :=
  (items.take 24).zipIdx.map (fun q => { slot := slot, step := 24 * bundle + q.2, valid := q.1.1, value := q.1.2 })

theorem rdFld_slackKept (l slack : Nat) (s : State) :
    rdFld (slackKept l slack s) (linkA l 8) 16 8 = min (rdFld s (linkA l 8) 16 8) slack := by
  have hbound : rdFld s (linkA l 8) 16 8 < 2 ^ 8 := Nat.mod_lt _ (by decide)
  unfold slackKept
  split
  · rw [rdFld_wrFld_same _ _ _ _ _ (by decide), Nat.mod_eq_of_lt (by omega)]
    omega
  · omega

theorem slackKept_frame (l slack : Nat) (s : State) : slackKept l slack s = { s with regs := (slackKept l slack s).regs } := by
  unfold slackKept
  split <;> rfl

/-- What SIGNAL leaves beside the elastic buffer. -/
structure SlackNoted (s t : State) (l slack : Nat) : Prop where
  slackMin : rdFld t (linkA l 8) 16 8 = min (rdFld s (linkA l 8) 16 8) slack
  slackLow : slack < 2 → rdBit t (lkErr l) 5 = true
  cl : t.cl = s.cl
  spr : t.spr = s.spr

theorem slackNoted_slackFlagged {l : Nat} (hl : l < 64) (slack : Nat) (s : State) :
    SlackNoted s (slackFlagged l slack (slackKept l slack s)) l slack ∧
      (slackFlagged l slack (slackKept l slack s)).lnk = s.lnk := by
  have hframe := slackKept_frame l slack s
  have hmin := rdFld_slackKept l slack s
  generalize slackKept l slack s = x at hframe hmin ⊢
  have hlnk : x.lnk = s.lnk := by rw [hframe]
  have hcl : x.cl = s.cl := by rw [hframe]
  have hspr : x.spr = s.spr := by rw [hframe]
  cases hflag : decide (slack < 2) && !rdBit x (lkErr l) 5 with
  | false =>
    rw [slackFlagged, hflag, whenDo, if_neg Bool.false_ne_true]
    exact ⟨⟨hmin, fun hlow => by simpa [hlow] using hflag, hcl, hspr⟩, hlnk⟩
  | true =>
    have hevent := signals_hostEvent 4 (setBit x (lkErr l) 5)
    have hother : linkA l 8 ≠ lkErr l := linkA_ne l (by decide)
    rw [slackFlagged, hflag, whenDo, if_pos rfl]
    refine ⟨⟨?_, fun _ => ?_, hevent.cl.trans hcl, hevent.spr.trans hspr⟩, hevent.lnk.trans hlnk⟩
    · rw [rdFld, hevent.rdReg_linkA hl (by decide), rdReg_setBit_other x 5 hother]
      exact hmin
    · exact (rdBit_congr (hevent.rdReg_linkA hl (by decide)) 5).trans (rdBit_setBit_same x _ (by decide))

theorem latchGate_congr {s t : State} (h : t.spr = s.spr) : latchGate t = latchGate s := by rw [latchGate, h, latchGate]

theorem linkUp_open {s : State} {l m : Nat} (hl : l < 64) (hmode : linkMode s l = m) (hup : linkState s l = 8) :
    ¬ (64 ≤ l ∨ linkMode s l ≠ m ∨ linkState s l ≠ 8) := by
  rintro (h | h | h)
  · omega
  · exact h hmode
  · exact h hup

theorem signalEv_good {s : State} {l : Nat} (hl : l < 64) (hmode : linkMode s l = 1) (hup : linkState s l = 8)
    (slot bundle : Nat) (items : List (Bool × Ctx)) (lam lane : Nat) {t : State}
    (ht : slackFlagged l (linkTarget s l - lam) (slackKept l (linkTarget s l - lam) s) = t) :
    signalEv l slot bundle items lam lane true s =
      if latchGate t then t else putLink l (fun k => { k with items := k.items ++ bundleItems slot bundle items }) t := by
  subst ht
  exact (if_neg (linkUp_open hl hmode hup)).trans (if_neg (by decide))

theorem signalEv_bad {s : State} {l : Nat} (hl : l < 64) (hmode : linkMode s l = 1) (hup : linkState s l = 8)
    (slot bundle : Nat) (items : List (Bool × Ctx)) (lam lane : Nat) :
    signalEv l slot bundle items lam lane false s = failedFlit lane 1 (setBit s (linkA l 0x14) 0) :=
  (if_neg (linkUp_open hl hmode hup)).trans (if_pos rfl)

theorem length_bundleItems {items : List (Bool × Ctx)} (h : items.length = 24) (slot bundle : Nat) :
    (bundleItems slot bundle items).length = 24 := by
  simp [bundleItems, h]

theorem mem_bundleItems {items : List (Bool × Ctx)} (h : items.length = 24) (slot bundle : Nat) {i : Nat} (hi : i < items.length) :
    { slot := slot, step := 24 * bundle + i, valid := items[i].1, value := items[i].2 } ∈ bundleItems slot bundle items := by
  rw [bundleItems, List.take_of_length_le h.le]
  exact List.mem_map.2 ⟨(items[i], i), List.mk_mem_zipIdx_iff_getElem?.2 (List.getElem?_eq_getElem hi), rfl⟩

/-- The elastic buffer after a good SIGNAL: the items enter it unless latches are held (R353, R356). -/
theorem signalEv_good_effect {s t : State} {l : Nat} (hl : l < 64) (hmode : linkMode s l = 1) (hup : linkState s l = 8)
    {slot bundle : Nat} {items : List (Bool × Ctx)} {lam lane : Nat} (h : signalEv l slot bundle items lam lane true s = t) :
    SlackNoted s t l (linkTarget s l - lam) ∧
      (linkOf t l).items = (linkOf s l).items ++ if latchGate s then [] else bundleItems slot bundle items := by
  rw [signalEv_good hl hmode hup slot bundle items lam lane rfl] at h
  subst h
  obtain ⟨hnoted, hlnk⟩ := slackNoted_slackFlagged hl (linkTarget s l - lam) s
  generalize slackFlagged l (linkTarget s l - lam) (slackKept l (linkTarget s l - lam) s) = t at hnoted hlnk ⊢
  have hkept := linkOf_congr hlnk l
  rw [latchGate_congr hnoted.spr]
  cases hgate : latchGate s with
  | true => exact ⟨hnoted, by rw [if_pos rfl, if_pos rfl, hkept, List.append_nil]⟩
  | false =>
    obtain ⟨hmin, hlow, hcl, hspr⟩ := hnoted
    rw [if_neg Bool.false_ne_true, if_neg Bool.false_ne_true, linkOf_putLink, hkept]
    exact ⟨⟨hmin, hlow, hcl, hspr⟩, rfl⟩

/-! ### SIGNAL_ITEM_RELEASE (R354, R356) -/

theorem signalRelease_gated {s : State} (h : latchGate s = true) (l slot step n : Nat) : signalRelease l slot step n s = s :=
  if_pos (.inr (.inr h))

section
variable {s : State} {l slot : Nat} (hl : l < 64) (hslot : slot < 32) (hgate : latchGate s = false)
  (hloop : rdBit s (linkA l 0x10) 1 = false) (hmode : linkMode s l = 1) (hup : linkState s l = 8)
  (hgranted : slot < rdFld s (linkA l 8) 24 6)
include hl hslot hgate hloop hmode hup hgranted

theorem signalRelease_reaches : ¬ (64 ≤ l ∨ 32 ≤ slot ∨ latchGate s = true) ∧ ¬ rdBit s (linkA l 0x10) 1 = true ∧
    ¬ (linkState s l ≠ 8 ∨ linkMode s l ≠ 1 ∨ rdFld s (linkA l 8) 24 6 ≤ slot) := by
  refine ⟨?_, by simp [hloop], ?_⟩
  · simp only [hgate, Bool.false_eq_true, or_false]
    omega
  · rw [hmode, hup]
    omega

/-- An item that is missing at its time sets LATE (R354). -/
theorem signalRelease_missing {step : Nat} (hmissing : ∀ i ∈ (linkOf s l).items, ¬ (i.slot = slot ∧ i.step = step)) (n : Nat) :
    signalRelease l slot step n s = failNow 1 (setBit s (lkErr l) 4) := by
  obtain ⟨hopen, hline, hserved⟩ := signalRelease_reaches hl hslot hgate hloop hmode hup hgranted
  have hfind : (linkOf s l).items.find? (fun i => i.slot = slot ∧ i.step = step) = none :=
    List.find?_eq_none.2 fun i hi => by simpa using hmissing i hi
  unfold signalRelease
  rw [if_neg hopen, if_neg hline, if_neg hserved, hfind]

/-- The item that is due leaves the elastic buffer for its receive latch (R354). -/
theorem signalRelease_only {i : SigItem} (hitems : (linkOf s l).items = [i]) (n : Nat) (his : i.slot = slot) :
    signalRelease l slot i.step n s =
      (let s1 := putLink l (fun k => { k with items := k.items.filter (fun x => !(x.slot = slot && x.step = i.step)) }) s
       if i.valid then latchWrite (32 * l + slot) n i.value s1 else s1) := by
  obtain ⟨hopen, hline, hserved⟩ := signalRelease_reaches hl hslot hgate hloop hmode hup hgranted
  have hfind : (linkOf s l).items.find? (fun x => x.slot = slot ∧ x.step = i.step) = some i := by
    rw [hitems, List.find?_cons_of_pos (by simp [his])]
  unfold signalRelease
  rw [if_neg hopen, if_neg hline, if_neg hserved, hfind]

end

end Sys2Proof.Machine
end

section
/-! PROOFS. Stream frames and the flits that fail (R357, R364, R370). -/

namespace Sys2Proof.Machine

/-! ### Events of a port (R370, R390) -/

/-- From `s` to `t` a port counts an event at offset `o` and sets its flag. -/
structure PortNoted (s t : State) (l o flag : Nat) : Prop where
  lnk : t.lnk = s.lnk
  flagSet : rdBit t (linkA l 0x14) flag = true
  otherFlags : ∀ i, i ≠ flag → rdBit t (linkA l 0x14) i = rdBit s (linkA l 0x14) i
  counted : rdReg t (linkA l o) = BitVec.ofNat 32 (min (2 ^ 32 - 1) ((rdReg s (linkA l o)).toNat + 1))

theorem portNoted_portCount (s : State) (l : Nat) {o flag : Nat} (ho : o ≠ 0x14) (hflag : flag < 32) :
    PortNoted s (portCount l o flag s) l o flag := by
  have hregs : rdReg (portCount l o flag s) (linkA l 0x14) = rdReg (setBit s (linkA l 0x14) flag) (linkA l 0x14) :=
    rdReg_incFld_other _ 0 32 (linkA_ne l ho.symm)
  refine ⟨?_, ?_, fun i hi => ?_, ?_⟩
  · rw [portCount, incFld_regs]
    rfl
  · exact (rdBit_congr hregs flag).trans (rdBit_setBit_same s _ hflag)
  · exact (rdBit_congr hregs i).trans (rdBit_setBit_other s _ hi)
  · rw [portCount, rdReg_incFld_word, rdReg_setBit_other s flag (linkA_ne l ho)]

/-- The host learns of EXCESS and of LATE_FRAME (R370). -/
theorem portNoted_portAlarm (s : State) {l o flag : Nat} (hl : l < 64) (hwindow : o < 0x1000) (ho : o ≠ 0x14) (hflag : flag < 32) :
    PortNoted s (portAlarm l o flag s) l o flag := by
  obtain ⟨hlnk, hset, hother, hcount⟩ := portNoted_portCount s l ho hflag
  have hevent := signals_hostEvent 4 (portCount l o flag s)
  have herr := hevent.rdReg_linkA hl (o := 0x14) (by decide)
  exact ⟨hevent.lnk.trans hlnk, (rdBit_congr herr flag).trans hset, fun i hi => (rdBit_congr herr i).trans (hother i hi),
    (hevent.rdReg_linkA hl hwindow).trans hcount⟩

/-- A damaged frame is counted; its tick may become pending (R374). -/
theorem frameDamaged_noted (l : Nat) (tick : Option Nat) (s : State) :
    (frameDamaged l tick s).regs = (portCount l 0x11C 10 s).regs ∧
      ∃ d, linkOf (frameDamaged l tick s) l = { linkOf s l with damaged := d } := by
  have hkept := linkOf_congr (portNoted_portCount s l (o := 0x11C) (flag := 10) (by decide) (by decide)).lnk l
  unfold frameDamaged
  cases tick with
  | none => exact ⟨rfl, _, hkept⟩
  | some n =>
    dsimp only
    split
    · exact ⟨rfl, _, by rw [linkOf_putLink, hkept]⟩
    · exact ⟨rfl, _, hkept⟩

theorem portShow_lnk (l : Nat) (s : State) : (portShow l s).lnk = s.lnk := rfl

theorem rdReg_portShow_err (l : Nat) (s : State) : rdReg (portShow l s) (linkA l 0x14) = rdReg s (linkA l 0x14) := by
  unfold portShow
  rw [rdReg_wr48_other _ _ (linkA_ne l (by decide)) (linkA_ne l (by decide)), rdReg_wrReg_other _ _ (linkA_ne l (by decide))]

/-! ### The table of R370 -/

theorem frameArrives_damaged {s : State} {l : Nat} {f : PartFrame} (h : f.fbytes ≠ portBytes s l) :
    frameArrives l f s = frameDamaged l (some f.tick) s := if_pos h

theorem frameArrives_excess {s : State} {l : Nat} {f : PartFrame} (hsize : f.fbytes = portBytes s l)
    (h : limitValid s = false ∨ (s.spr.taken ≤ f.tick ∧ streamLimit s < f.tick)) : frameArrives l f s = portAlarm l 0x114 8 s := by
  unfold frameArrives
  rw [if_neg (not_not.2 hsize)]
  cases hvalid : limitValid s with
  | false => rfl
  | true =>
    obtain ⟨htaken, hlimit⟩ := h.resolve_left (by simp [hvalid])
    rw [if_neg (by decide), if_neg (by omega), if_pos hlimit]

theorem frameArrives_late {s : State} {l : Nat} {f : PartFrame} (hsize : f.fbytes = portBytes s l) (hvalid : limitValid s = true)
    (h : f.tick < s.spr.taken) : frameArrives l f s = portAlarm l 0x118 9 s := by
  unfold frameArrives
  rw [if_neg (not_not.2 hsize), hvalid, if_neg (by decide), if_pos h]

/-- A link holds a frame, in place of any that it holds for the same tick; the tick is no longer damaged. -/
def frameHeld (f : PartFrame) (k : Link) : Link :=
  { k with
    held := k.held.filter (fun x => x.tick ≠ f.tick) ++ [{ tick := f.tick, bytes := f.data.take f.fbytes, control := f.control }]
    damaged := k.damaged.filter (fun x => x ≠ f.tick) }

theorem frameArrives_held {s : State} {l : Nat} {f : PartFrame} (hsize : f.fbytes = portBytes s l) (hvalid : limitValid s = true)
    (htaken : s.spr.taken ≤ f.tick) (hlimit : f.tick ≤ streamLimit s) :
    frameArrives l f s = portShow l (putLink l (frameHeld f) s) := by
  unfold frameArrives
  rw [if_neg (not_not.2 hsize), hvalid, if_neg (by decide), if_neg (by omega), if_neg (by omega)]
  rfl

/-- What every row of the table leaves: the STREAM sequence, the frame in progress, and the flags beside those of the table. -/
structure TableKeeps (s t : State) (l : Nat) : Prop where
  rxStream : (linkOf t l).rxStream = (linkOf s l).rxStream
  part : (linkOf t l).part = (linkOf s l).part
  flags : ∀ i, i < 8 → rdBit t (linkA l 0x14) i = rdBit s (linkA l 0x14) i

theorem PortNoted.tableKeeps {s t : State} {l o flag : Nat} (h : PortNoted s t l o flag) (hflag : 8 ≤ flag) : TableKeeps s t l where
  rxStream := congrArg Link.rxStream (linkOf_congr h.lnk l)
  part := congrArg Link.part (linkOf_congr h.lnk l)
  flags i hi := h.otherFlags i (by omega)

theorem tableKeeps_frameArrives {l : Nat} (hl : l < 64) (f : PartFrame) (s : State) : TableKeeps s (frameArrives l f s) l := by
  by_cases hsize : f.fbytes = portBytes s l
  case neg =>
    obtain ⟨hregs, d, hlink⟩ := frameDamaged_noted l (some f.tick) s
    have hcount := portNoted_portCount s l (o := 0x11C) (flag := 10) (by decide) (by decide)
    rw [frameArrives_damaged hsize]
    refine ⟨by rw [hlink], by rw [hlink], fun i hi => ?_⟩
    rw [rdBit, rdReg, hregs]
    exact hcount.otherFlags i (by omega)
  case pos =>
    by_cases hexcess : limitValid s = false ∨ (s.spr.taken ≤ f.tick ∧ streamLimit s < f.tick)
    · rw [frameArrives_excess hsize hexcess]
      exact (portNoted_portAlarm s hl (by decide) (by decide) (by decide)).tableKeeps (by decide)
    · obtain ⟨hvalid, hwindow⟩ := not_or.1 hexcess
      rw [Bool.not_eq_false] at hvalid
      rcases Nat.lt_or_ge f.tick s.spr.taken with hlate | htaken
      · rw [frameArrives_late hsize hvalid hlate]
        exact (portNoted_portAlarm s hl (by decide) (by decide) (by decide)).tableKeeps (by decide)
      · rw [frameArrives_held hsize hvalid htaken (by omega)]
        have hlink : linkOf (portShow l (putLink l (frameHeld f) s)) l = frameHeld f (linkOf s l) :=
          (linkOf_congr (portShow_lnk l _) l).trans (linkOf_putLink ..)
        exact ⟨(congrArg Link.rxStream hlink :), (congrArg Link.part hlink :), fun i _ => rdBit_congr (rdReg_portShow_err l _) i⟩

/-- The row of R370 that a complete frame meets, by its size, LIMIT_V and its tick. -/
structure MeetsTable (s t : State) (l : Nat) (f : PartFrame) : Prop where
  damaged : f.fbytes ≠ portBytes s l → (linkOf t l).held = (linkOf s l).held ∧ rdBit t (linkA l 0x14) 10 = true
  excess : f.fbytes = portBytes s l → limitValid s = false ∨ (s.spr.taken ≤ f.tick ∧ streamLimit s < f.tick) →
    (linkOf t l).held = (linkOf s l).held ∧ rdBit t (linkA l 0x14) 8 = true ∧
      rdReg t (linkA l 0x114) = BitVec.ofNat 32 (min (2 ^ 32 - 1) ((rdReg s (linkA l 0x114)).toNat + 1))
  late : f.fbytes = portBytes s l → limitValid s = true → f.tick < s.spr.taken →
    (linkOf t l).held = (linkOf s l).held ∧ rdBit t (linkA l 0x14) 9 = true ∧
      rdReg t (linkA l 0x118) = BitVec.ofNat 32 (min (2 ^ 32 - 1) ((rdReg s (linkA l 0x118)).toNat + 1))
  held : f.fbytes = portBytes s l → limitValid s = true → s.spr.taken ≤ f.tick → f.tick ≤ streamLimit s →
    (linkOf t l).held = (linkOf s l).held.filter (fun x => x.tick ≠ f.tick) ++
      [{ tick := f.tick, bytes := f.data.take f.fbytes, control := f.control }] ∧ f.tick ∉ (linkOf t l).damaged

theorem meetsTable_frameArrives {l : Nat} (hl : l < 64) (f : PartFrame) (s : State) : MeetsTable s (frameArrives l f s) l f where
  damaged hsize := by
    obtain ⟨hregs, d, hlink⟩ := frameDamaged_noted l (some f.tick) s
    rw [frameArrives_damaged hsize, hlink, rdBit, rdReg, hregs]
    exact ⟨rfl, (portNoted_portCount s l (by decide) (by decide)).flagSet⟩
  excess hsize h := by
    obtain ⟨hlnk, hset, -, hcount⟩ := portNoted_portAlarm s hl (o := 0x114) (flag := 8) (by decide) (by decide) (by decide)
    rw [frameArrives_excess hsize h, linkOf_congr hlnk]
    exact ⟨rfl, hset, hcount⟩
  late hsize hvalid h := by
    obtain ⟨hlnk, hset, -, hcount⟩ := portNoted_portAlarm s hl (o := 0x118) (flag := 9) (by decide) (by decide) (by decide)
    rw [frameArrives_late hsize hvalid h, linkOf_congr hlnk]
    exact ⟨rfl, hset, hcount⟩
  held hsize hvalid htaken hlimit := by
    rw [frameArrives_held hsize hvalid htaken hlimit, linkOf_congr (portShow_lnk ..), linkOf_putLink]
    exact ⟨rfl, fun h => by simp [frameHeld] at h⟩

/-- The row does not depend on what else the links hold. -/
theorem MeetsTable.of_lnk {s y t : State} {l : Nat} {f : PartFrame} (h : MeetsTable y t l f) (hy : y = { s with lnk := y.lnk })
    (hheld : (linkOf y l).held = (linkOf s l).held) : MeetsTable s t l f := by
  have hsize : portBytes y l = portBytes s l := by rw [hy]; rfl
  have hvalid : limitValid y = limitValid s := by rw [hy]; rfl
  have hlimit : streamLimit y = streamLimit s := by rw [hy]; rfl
  have htaken : y.spr.taken = s.spr.taken := by rw [hy]
  have hreg (b : Nat) : rdReg y b = rdReg s b := by rw [hy]; rfl
  obtain ⟨damaged, excess, late, held⟩ := h
  simp only [hsize, hvalid, hlimit, htaken, hheld, hreg] at damaged excess late held
  exact ⟨damaged, excess, late, held⟩

/-! ### START and DATA flits (R364) -/

theorem dropPart_none {s : State} {l : Nat} (h : (linkOf s l).part = none) : dropPart l s = s := by
  unfold dropPart
  rw [h]

theorem streamSeq_in_sequence {s : State} {l seq : Nat} (h : seq = (linkOf s l).rxStream) :
    streamSeq l seq s = putLink l (fun k => { k with rxStream := (seq + 1) % 2048 }) s := by
  simp [streamSeq, h, whenDo]

/-- Without a frame in progress a gap sets SEQ_GAP and no more. -/
theorem streamSeq_of_no_part {s : State} {l : Nat} (h : (linkOf s l).part = none) (seq : Nat) :
    streamSeq l seq s = putLink l (fun k => { k with rxStream := (seq + 1) % 2048 })
      (whenDo (decide (seq ≠ (linkOf s l).rxStream)) (fun x => setBit x (linkA l 0x14) 3) s) := by
  unfold streamSeq
  dsimp only
  cases decide (seq ≠ (linkOf s l).rxStream) with
  | false => rfl
  | true => exact congrArg _ (dropPart_none (s := setBit s (linkA l 0x14) 3) h)

/-- What a START flit's sequence number leaves of a port without a frame in progress. -/
structure SeqTaken (s t : State) (l seq : Nat) : Prop where
  link : linkOf t l = { linkOf s l with rxStream := (seq + 1) % 2048 }
  gap : rdBit t (linkA l 0x14) 3 = (rdBit s (linkA l 0x14) 3 || decide (seq ≠ (linkOf s l).rxStream))

theorem seqTaken_streamSeq {s : State} {l : Nat} (h : (linkOf s l).part = none) (seq : Nat) :
    SeqTaken s (streamSeq l seq s) l seq := by
  rw [streamSeq_of_no_part h]
  refine ⟨?_, rdBit_whenDo_setBit _ s _ (by decide)⟩
  rw [linkOf_putLink]
  cases decide (seq ≠ (linkOf s l).rxStream) <;> rfl

theorem streamStart_good {s : State} {l : Nat} (hup : portUp s l = true) (hpart : (linkOf s l).part = none) (seq : Nat)
    {tick fbytes : Nat} (htick : tick < 2 ^ 48) (hbytes : fbytes < 4096) (control : BitVec 64) (lane : Nat) :
    streamStart l seq tick fbytes control lane true s =
      if fbytes = 0 then frameArrives l { tick := tick, fbytes := fbytes, control := control, data := [] } (streamSeq l seq s)
      else putLink l (fun k => { k with part := some { tick := tick, fbytes := fbytes, control := control, data := [] } })
        (streamSeq l seq s) := by
  have hnone : (linkOf (streamSeq l seq s) l).part = none := by
    rw [(seqTaken_streamSeq hpart seq).link]
    exact hpart
  have hflits : frameFlits fbytes = 0 ↔ fbytes = 0 := by
    unfold frameFlits ceilDiv b2n
    simp only [decide_eq_true_eq]
    split <;> omega
  unfold streamStart
  rw [if_neg (by simp [hup]), if_neg (by decide), dropPart_none hnone, Nat.mod_eq_of_lt htick, Nat.mod_eq_of_lt hbytes]
  simp only [hflits]

/-- The last DATA flit completes the frame in progress, which meets the table of R370 (R364). -/
theorem streamData_completes {s : State} {l : Nat} {f : PartFrame} {bytes : List Byte} (hup : portUp s l = true)
    (hlen : bytes.length = 28) (hlast : f.data.length + 28 = 28 * ((f.fbytes + 27) / 28)) (lane : Nat) :
    ∃ y, streamData l (linkOf s l).rxStream bytes lane true (putLink l (fun k => { k with part := some f }) s) =
        frameArrives l { f with data := f.data ++ bytes } y ∧
      y = { s with lnk := y.lnk } ∧ (linkOf y l).held = (linkOf s l).held ∧ (linkOf y l).part = none := by
  have hfull : (bytes ++ List.replicate 28 0#8).take 28 = bytes := List.take_left' hlen
  have hflits : frameFlits f.fbytes * 28 ≤ (f.data ++ bytes).length := by
    rw [List.length_append, hlen, hlast]
    unfold frameFlits ceilDiv b2n
    simp only [decide_eq_true_eq]
    split <;> omega
  have hup' : portUp (putLink l (fun k => { k with part := some f }) s) l = true := hup
  unfold streamData
  rw [if_neg (by simp [hup']), if_neg (by decide), streamSeq_in_sequence (by rw [linkOf_putLink])]
  dsimp only
  rw [linkOf_putLink, linkOf_putLink]
  dsimp only
  rw [hfull, if_pos hflits]
  exact ⟨_, rfl, rfl, by simp only [linkOf_putLink], by simp only [linkOf_putLink]⟩

/-! ### Flits that fail on a port (R357, R359) -/

theorem streamCrc_of_no_part {s : State} {l : Nat} (h : (linkOf s l).part = none) (lane : Nat) :
    streamCrc l lane none s =
      failNow 1 (laneFault lane 0x18 (portCount l 0x11C 10 (laneCrc lane (setBit s (linkA l 0x14) 1)))) := by
  have hnone : (linkOf (laneCrc lane (setBit s (linkA l 0x14) 1)) l).part = none := by
    rw [linkOf_congr (laneCrc_lnk ..)]
    exact h
  rw [laneCrc] at hnone ⊢
  unfold streamCrc
  dsimp only
  rw [hnone]
  rfl

/-- A STREAM flit that failed without a frame in progress: counted at its lane, STREAM_CRC and a damaged frame (R357, R370). -/
theorem streamCrc_effect {s : State} {l lane : Nat} (hlane : lane < 256) (hpart : (linkOf s l).part = none) {t : State}
    (ht : streamCrc l lane none s = t) :
    rdReg t (laneA lane 8) = BitVec.ofNat 32 (min (2 ^ 32 - 1) ((rdReg s (laneA lane 8)).toNat + 1)) ∧
      rdBit t (linkA l 0x14) 1 = true ∧ rdBit t (linkA l 0x14) 10 = true ∧ t.lnk = s.lnk := by
  have hcrc : rdBit (laneCrc lane (setBit s (linkA l 0x14) 1)) (linkA l 0x14) 1 = true :=
    (rdBit_congr (rdReg_laneCrc_linkA hlane l 0x14 _) 1).trans (rdBit_setBit_same s _ (by decide))
  have hlink (o : Nat) : laneA lane 8 ≠ linkA l o := laneA_ne_linkA hlane (by decide) l o
  have hcount : rdReg (laneCrc lane (setBit s (linkA l 0x14) 1)) (laneA lane 8) =
      BitVec.ofNat 32 (min (2 ^ 32 - 1) ((rdReg s (laneA lane 8)).toNat + 1)) := by
    rw [rdReg_laneCrc, rdReg_setBit_other s 1 (hlink 0x14)]
  have hlnk : (laneCrc lane (setBit s (linkA l 0x14) 1)).lnk = s.lnk := laneCrc_lnk ..
  rw [streamCrc_of_no_part hpart] at ht
  subst ht
  generalize laneCrc lane (setBit s (linkA l 0x14) 1) = x at hcrc hcount hlnk ⊢
  have hnoted := portNoted_portCount x l (o := 0x11C) (flag := 10) (by decide) (by decide)
  have hfinal (o i : Nat) : rdBit (failNow 1 (laneFault lane 0x18 (portCount l 0x11C 10 x))) (linkA l o) i =
      rdBit (portCount l 0x11C 10 x) (linkA l o) i := rdBit_congr (rdReg_failNow 1 _ (linkA_low l o)) i
  rw [hfinal, hfinal, failNow_lnk, laneFault_lnk, rdReg_failNow 1 _ (laneA_low lane 8), rdReg_laneFault, portCount,
    rdReg_incFld_other _ 0 32 (hlink 0x11C), rdReg_setBit_other x 10 (hlink 0x14)]
  exact ⟨hcount, (hnoted.otherFlags 1 (by decide)).trans hcrc, hnoted.flagSet, hnoted.lnk.trans hlnk⟩

theorem reservedFlit_stream {s : State} {l : Nat} (hl : l < 64) (hmode : linkMode s l ≠ 0) (hup : portUp s l = true) (lane : Nat) :
    reservedFlit l lane 1 s = streamCrc l lane none s := by
  have hopen : ¬ (64 ≤ l ∨ linkMode s l = 0) := by omega
  exact (if_neg hopen).trans (if_pos hup)

theorem reservedFlit_type {s : State} {l : Nat} (hl : l < 64) (hmode : linkMode s l ≠ 0) (lane : Nat) :
    reservedFlit l lane 0 s = failedFlit lane 1 s := by
  have hopen : ¬ (64 ≤ l ∨ linkMode s l = 0) := by omega
  exact if_neg hopen

theorem reservedFlit_time {s : State} {l : Nat} (hl : l < 64) (hmode : linkMode s l ≠ 0) (hopen : timeOpen s l = true) (lane : Nat) :
    reservedFlit l lane 2 s = failedFlit lane 7 (setBit s (linkA l 0x14) 2) := by
  have hlink : ¬ (64 ≤ l ∨ linkMode s l = 0) := by omega
  exact (if_neg hlink).trans (if_pos hopen)

/-- IDLE that failed its CRC changes one counter. -/
theorem laneCrc_onlyRegs (lane : Nat) (s : State) : OnlyRegs s (laneCrc lane s) [laneA lane 8] := by
  rw [laneCrc, incFld_regs]
  exact ⟨fun b hb => ⟨rdReg_incFld_other s 0 32 (by simpa using hb), rfl⟩, rfl⟩

end Sys2Proof.Machine

open Sys2Proof Sys2Proof.Machine

/-- Settles O40: SIGNAL is `signalEv_good_effect` or a failed flit, SIGNAL_ITEM_RELEASE `signalRelease_missing` or
`signalRelease_only`; a frame that is complete meets the table of R370 (`meetsTable_frameArrives`), after the sequence number
(`seqTaken_streamSeq`) or with its last flit (`streamData_completes`); every flit that fails is counted by `laneCrc`. -/
theorem signalsAndFrames : Obligations.SignalsAndFrames := by
  unfold Obligations.SignalsAndFrames
  refine ⟨?signal, ?release, ?stream, ?other⟩
  case signal =>
    intro s l slot bundle items lam lane hl hmode hup hitems hlane hlam
    refine ⟨⟨_, rfl, ?_⟩, ⟨_, congrArg Host.Outcome.next (signalEv_bad hl hmode hup slot bundle items lam lane), ?_⟩⟩
    · obtain ⟨⟨hmin, hlow, hcl, hspr⟩, hlink⟩ := signalEv_good_effect (slot := slot) (bundle := bundle) (items := items)
        (lam := lam) (lane := lane) hl hmode hup rfl
      refine ⟨hmin, hlow, fun hgate => ?_, fun hgate => ?_, hcl, hspr⟩
      · rw [hlink, hgate, if_pos rfl, List.append_nil]
      · rw [hlink, hgate, if_neg Bool.false_ne_true, List.length_append, length_bundleItems hitems]
        exact ⟨rfl, fun i hi => List.mem_append_right _ (mem_bundleItems hitems slot bundle hi)⟩
    · obtain ⟨hflag, hcount⟩ := failedFlit_flagged hlane (i := 0) (by decide) l 1 s
      exact ⟨failedFlit_lnk .., hflag, hcount,
        fun hrun hphase => (notes_setBit_linkA l 0x14 0 s).failedFlit_failsEpoch hrun hphase lane 1⟩
  case release =>
    intro s l slot step n hl hgranted hslot hmode hup hloop
    refine ⟨fun hgate => congrArg Host.Outcome.next (signalRelease_gated hgate l slot step n), fun hgate hmissing => ?_,
      fun i hgate hitems his hstep => ?_⟩
    · refine ⟨_, congrArg Host.Outcome.next (signalRelease_missing hl hslot hgate hloop hmode hup hgranted hmissing n), ?_, ?_, ?_,
        fun hrun hphase => (notes_setBit_linkA l 0x14 4 s).failNow_failsEpoch hrun hphase 1⟩
      · exact (rdBit_congr (rdReg_failNow 1 _ (linkA_low l _)) 4).trans (rdBit_setBit_same s _ (by decide))
      · exact (springActs_failNow 1 _).cl
      · exact failNow_lnk 1 _
    · subst hstep
      refine ⟨_, congrArg Host.Outcome.next (signalRelease_only hl hslot hgate hloop hmode hup hgranted hitems n his), ?_⟩
      have hempty : (linkOf (putLink l (fun k => { k with
          items := k.items.filter (fun x => !(x.slot = slot && x.step = i.step)) }) s) l).items = [] := by
        simp [hitems, his]
      cases hvalid : i.valid with
      | false => exact ⟨hempty, rfl, rfl, fun k _ => rfl⟩
      | true => exact ⟨hempty, rfl, mapGet_mapSet_same, fun k hk => mapGet_mapSet_other hk⟩
  case stream =>
    intro s l seq lane tick ctl hl hup hpart htick hbytes
    refine ⟨⟨_, congrArg Host.Outcome.next (streamStart_good hup hpart seq htick (by omega) ctl lane), ?_⟩, ?_⟩
    · obtain ⟨hlink, hgap⟩ := seqTaken_streamSeq hpart seq
      generalize streamSeq l seq s = y at hlink hgap ⊢
      by_cases hsize : portBytes s l = 0
      · have hkeeps := tableKeeps_frameArrives hl { tick := tick, fbytes := portBytes s l, control := ctl, data := [] } y
        rw [if_pos hsize]
        refine ⟨?_, (hkeeps.flags 3 (by decide)).trans hgap, fun h => absurd hsize h, fun _ => ?_⟩
        · rw [hkeeps.rxStream, hlink]
        · rw [hkeeps.part, hlink, hpart]
      · rw [if_neg hsize, linkOf_putLink, hlink]
        exact ⟨rfl, hgap, fun _ => ⟨rfl, rfl⟩, fun h => absurd h hsize⟩
    · rintro f rfl bytes hlen s1 rfl hlast
      obtain ⟨y, hdata, hy, hheld, hnone⟩ := streamData_completes hup hlen hlast lane
      have hkeeps := tableKeeps_frameArrives hl { f with data := f.data ++ bytes } y
      obtain ⟨damaged, excess, late, held⟩ := (meetsTable_frameArrives hl { f with data := f.data ++ bytes } y).of_lnk hy hheld
      exact ⟨_, congrArg Host.Outcome.next hdata, hkeeps.part.trans hnone, damaged,
        fun hsize => ⟨excess hsize, late hsize, held hsize⟩⟩
  case other =>
    intro s l lane hl hlane hmode
    refine ⟨?_, ⟨_, ?_, rdReg_laneCrc lane s, laneCrc_onlyRegs lane s⟩,
      ⟨_, congrArg Host.Outcome.next (reservedFlit_type hl hmode lane), rdReg_failedFlit_lane lane 1 s, failedFlit_lnk ..,
        fun hrun hphase => (Notes.refl s).failedFlit_failsEpoch hrun hphase lane 1⟩,
      fun hup hpart => ⟨_, congrArg Host.Outcome.next (reservedFlit_stream hl hmode hup lane), ?_⟩,
      fun hopen => ⟨_, congrArg Host.Outcome.next (reservedFlit_time hl hmode hopen lane), ?_⟩⟩
    · exact congrArg Host.Outcome.next (if_neg (by simp))
    · exact congrArg Host.Outcome.next (if_pos ⟨hl, hmode, rfl⟩)
    · obtain ⟨hcount, hcrc, hdamaged, hlnk⟩ := streamCrc_effect hlane hpart rfl
      exact ⟨hcount, hcrc, hdamaged, congrArg Link.held (linkOf_congr hlnk l)⟩
    · obtain ⟨hflag, hcount⟩ := failedFlit_flagged hlane (i := 2) (by decide) l 7 s
      exact ⟨hcount, hflag⟩

end

section
/-! PROOFS. A device's own count in an enumeration, and its EN_COUNT (R399, R401). -/

namespace Sys2Proof.Machine

/-! ### Fields that are written one after the other -/

/-- A field that is elsewhere than the field written keeps its value. -/
theorem rdFld_wrFld_apart (s : State) {a b lo n lo' n' : Nat} (x : Nat) (h : b ≠ a ∨ lo' + n' ≤ lo ∨ lo + n ≤ lo') :
    rdFld (wrFld s a lo n x) b lo' n' = rdFld s b lo' n' := by
  by_cases hab : b = a
  · subst hab
    exact rdFld_wrFld_other s b x (h.resolve_left (absurd rfl))
  · exact rdFld_congr (rdReg_wrFld_other s lo n x hab) lo' n'

/-- A field that was written with a number that it holds. -/
theorem rdFld_wrFld_fits (s : State) (a lo n : Nat) {x : Nat} (h : lo + n ≤ 32) (hx : x < 2 ^ n) :
    rdFld (wrFld s a lo n x) a lo n = x := (rdFld_wrFld_same s a lo n x h).trans (Nat.mod_eq_of_lt hx)

theorem rdBit_wrFld_apart (s : State) {a b lo n i : Nat} (x : Nat) (h : b ≠ a ∨ i < lo ∨ lo + n ≤ i) :
    rdBit (wrFld s a lo n x) b i = rdBit s b i := by
  by_cases hab : b = a
  · subst hab
    exact rdBit_wrFld_other s b x (h.resolve_left (absurd rfl))
  · exact rdBit_congr (rdReg_wrFld_other s lo n x hab) i

theorem rdFld_wrReg_other (s : State) {a b : Nat} (v : Word) (h : b ≠ a) (lo n : Nat) :
    rdFld (wrReg s a v) b lo n = rdFld s b lo n := rdFld_congr (rdReg_wrReg_other s v h) lo n

/-! ### The state of an enumeration -/

theorem enumState_setEnum {n : Nat} (h : n < 8) (s : State) : enumState (setEnum n s) = n :=
  rdFld_wrFld_fits s crtStatus 18 3 (by decide) h

theorem setEnum_outbox (n : Nat) (s : State) : (setEnum n s).outbox = s.outbox := rfl

theorem enGen_setEnum (n : Nat) (s : State) : enGen (setEnum n s) = enGen s := rdFld_wrFld_apart s n (by decide)

theorem assigned_setEnum (n : Nat) (s : State) : assigned (setEnum n s) = assigned s := rdBit_wrFld_apart s n (by decide)

theorem devAddr_setEnum (n : Nat) (s : State) : devAddr (setEnum n s) = devAddr s := rdFld_wrFld_apart s n (by decide)

theorem presentIdx_congr {s t : State} (hreg : rdReg t (hstA 0x118) = rdReg s (hstA 0x118))
    (hchildren : t.crt.children = s.crt.children) : presentIdx t = presentIdx s := by
  unfold presentIdx isPresent rdBit
  rw [hreg, hchildren]

theorem presentIdx_of_no_children {s : State} (h : s.crt.children = []) : presentIdx s = [] := by
  rw [presentIdx, h]
  rfl

/-- The record of the crate is replaced. -/
def withCrate (c : Crate) (s : State) : State := { s with crt := c }

theorem withCrate_regs (c : Crate) (s : State) : (withCrate c s).regs = s.regs := rfl

theorem withCrate_outbox (c : Crate) (s : State) : (withCrate c s).outbox = s.outbox := rfl

theorem rdReg_withCrate (c : Crate) (s : State) (b : Nat) : rdReg (withCrate c s) b = rdReg s b := rfl

theorem rdFld_withCrate (c : Crate) (s : State) (b lo n : Nat) : rdFld (withCrate c s) b lo n = rdFld s b lo n := rfl

theorem Messaged.rdFld {s u : State} (h : Messaged s u) (b lo n : Nat) : rdFld u b lo n = rdFld s b lo n :=
  rdFld_congr (h.rdReg b) lo n

theorem Messaged.rdBit {s u : State} (h : Messaged s u) (b i : Nat) : rdBit u b i = rdBit s b i := rdBit_congr (h.rdReg b) i

theorem Messaged.enumState_setEnum {n : Nat} (hn : n < 8) {s t : State} (h : Messaged (setEnum n s) t) : enumState t = n :=
  (h.rdFld _ _ _).trans (Machine.enumState_setEnum hn s)

/-! ### Messages to the head (R361, R362, R399) -/

/-- Four bytes of a number that one byte holds. -/
theorem leBytes_four {v : Nat} (h : v < 256) : leBytes 4 v = [BitVec.ofNat 8 v, 0, 0, 0] := by
  have hhigh (k : Nat) (hk : 8 ≤ k) : v >>> k = 0 := by
    rw [Nat.shiftRight_eq_div_pow]
    exact Nat.div_eq_of_lt (lt_of_lt_of_le h (Nat.pow_le_pow_right Nat.two_pos hk))
  have hbytes : leBytes 4 v =
      [BitVec.ofNat 8 v, BitVec.ofNat 8 (v >>> 8), BitVec.ofNat 8 (v >>> 16), BitVec.ofNat 8 (v >>> 24)] := rfl
  rw [hbytes, hhigh 8 (by decide), hhigh 16 (by decide), hhigh 24 (by decide)]
  rfl

/-- A device without an address sends as 0xFFF (R399). -/
theorem sendService_unassigned {s : State} (h : assigned s = false) (l opc dst : Nat) (body : List Byte) :
    sendService l opc dst body s = sendServiceFrom 0xFFF l opc dst body s := by
  unfold sendService
  rw [h]
  rfl

theorem sendServiceUp_of_uplink {s : State} {l : Nat} (h : s.crt.uplink = some l) (opc dst : Nat) (body : List Byte) :
    sendServiceUp opc dst body s = sendService l opc dst body s := by rw [sendServiceUp, h]

/-- The EN_COUNT of a device without an address (R399, R401). -/
theorem sendCount_outbox {s : State} {u : Nat} (hup : s.crt.uplink = some u) (haddr : assigned s = false)
    (busy missing tooMany : Bool) (size depth tsub : Nat) :
    (sendCount busy missing tooMany size depth tsub s).outbox =
      .service u 0x31 0xFFF 0xFFF (leBytes 1 (enGen s) ++ leBytes 1 (b2n busy + 2 * b2n missing + 4 * b2n tooMany) ++
        leBytes 2 size ++ leBytes 1 depth ++ [0#8] ++ leBytes 2 tsub) :: s.outbox := by
  rw [sendCount, sendServiceUp_of_uplink hup, sendService_unassigned haddr, sendServiceFrom_outbox]

theorem messaged_sendCount (busy missing tooMany : Bool) (size depth tsub : Nat) (s : State) :
    Messaged s (sendCount busy missing tooMany size depth tsub s) := messaged_sendServiceUp ..

/-! ### The device's own count (R401) -/

/-- The registers take the sums of a count. -/
def sumsWritten (size depth tsub : Nat) (x : State) : State :=
  wrFld (wrFld (wrFld x (hstA 0x108) 16 13 size) crtDomain 16 4 depth) (hstA 0x114) 0 16 tsub

/-- The crate waits for no counts any longer. -/
def countEnded (c : Crate) : Crate := { c with probing := false, done := [], gone := [] }

/-- The sums of a count, and the end of the wait for it. -/
def sumsKept (size depth tsub : Nat) (x : State) : State := withCrate (countEnded x.crt) (sumsWritten size depth tsub x)

/-- A count that no child answers BUSY or too large, from the state in which the children are marked. -/
def countEnds (missing : Bool) (size depth tsub : Nat) (x : State) : State :=
  if x.crt.isRoot then rootDecideCount false false size tsub (sumsKept size depth tsub x)
  else sendCount false missing false size depth tsub (sumsKept size depth tsub x)

/-- The only child is marked in the register at `a`, and its cell is written. -/
def childMarked (a : Nat) (cell : Word) (s : State) : State := wrReg (setBit s a 0) (childCell 0) cell

theorem rdReg_childMarked_other {a b : Nat} (cell : Word) (s : State) (ha : b ≠ a) (hcell : b ≠ childCell 0) :
    rdReg (childMarked a cell s) b = rdReg s b := (rdReg_wrReg_other _ cell hcell).trans (rdReg_setBit_other s 0 ha)

theorem rdBit_childMarked {a : Nat} (cell : Word) (s : State) (h : a ≠ childCell 0) : rdBit (childMarked a cell s) a 0 = true :=
  (rdBit_wrReg_other _ cell h 0).trans (rdBit_setBit_same s a (by decide))

theorem childMarked_outbox (a : Nat) (cell : Word) (s : State) : (childMarked a cell s).outbox = s.outbox := rfl

/-- A device without children counts itself. -/
theorem countDone_childless {s : State} (h : s.crt.children = []) : countDone s = countEnds false 1 0 0 s := by
  unfold countDone
  rw [h]
  rfl

section
variable {s : State} {l : Nat} (hkids : s.crt.children = [l])
include hkids

/-- The only child has answered. -/
theorem countDone_answered {a : ChildAns} (hans : mapGet none s.crt.answers 0 = some a) (hup : linkState s l = 8)
    (hbusy : a.busy = false) (hmany : a.tooMany = false) (hsize : a.size ≤ 4095)
    (htsub : linkTarget s l + 991 + a.tsub < 65536) :
    countDone s = countEnds a.missing (1 + a.size) (1 + a.depth) (linkTarget s l + 991 + a.tsub)
      (childMarked (hstA 0x118) (BitVec.ofNat 32 (2 ^ 16 * a.size)) s) := by
  have hlink : childLink s 0 = l := by simp [childLink, hkids]
  have hfits : ¬ 4096 < 1 + a.size := by omega
  have hmin : min 65535 (linkTarget s l + 991 + a.tsub) = linkTarget s l + 991 + a.tsub := by omega
  simp [countDone, countEnds, sumsKept, withCrate, countEnded, sumsWritten, childMarked, hkids, hans, hup, hlink, hbusy, hmany,
    hfits, hmin]

/-- The only child has not answered. -/
theorem countDone_lost (hans : mapGet none s.crt.answers 0 = none) :
    countDone s = countEnds true 1 0 0 (childMarked (hstA 0x11C) 0 s) := by
  simp [countDone, countEnds, sumsKept, withCrate, countEnded, sumsWritten, childMarked, hkids, hans]

end

/-- From `x`, in which the children are marked, to `t` the device sends its own count to its head on link `u`. -/
structure SendsCount (x t : State) (u : Nat) (missing : Bool) (size depth tsub : Nat) : Prop where
  ends : t.crt.probing = false
  ownSize : rdFld t (hstA 0x108) 16 13 = size
  ownDepth : rdFld t crtDomain 16 4 = depth
  ownTsub : rdFld t (hstA 0x114) 0 16 = tsub
  sent : t.outbox = .service u 0x31 0xFFF 0xFFF (leBytes 1 (enGen x) ++ leBytes 1 (2 * b2n missing) ++ leBytes 2 size ++
    leBytes 1 depth ++ [0#8] ++ leBytes 2 tsub) :: x.outbox
  gen : enGen t = enGen x
  other : ∀ b, b ≠ hstA 0x108 → b ≠ crtDomain → b ≠ hstA 0x114 → rdReg t b = rdReg x b

theorem sumsKept_crt (size depth tsub : Nat) (x : State) :
    (sumsKept size depth tsub x).crt = countEnded x.crt := rfl

theorem rdReg_sumsKept_other (size depth tsub : Nat) (x : State) {b : Nat} (hsize : b ≠ hstA 0x108) (hdepth : b ≠ crtDomain)
    (htsub : b ≠ hstA 0x114) : rdReg (sumsKept size depth tsub x) b = rdReg x b :=
  (rdReg_withCrate ..).trans ((rdReg_wrFld_other _ _ _ _ htsub).trans ((rdReg_wrFld_other _ _ _ _ hdepth).trans
    (rdReg_wrFld_other _ _ _ _ hsize)))

theorem rdFld_sumsKept_size {size : Nat} (h : size < 2 ^ 13) (depth tsub : Nat) (x : State) :
    rdFld (sumsKept size depth tsub x) (hstA 0x108) 16 13 = size := by
  rw [sumsKept, rdFld_withCrate, sumsWritten, rdFld_wrFld_apart _ _ (by decide), rdFld_wrFld_apart _ _ (by decide),
    rdFld_wrFld_fits _ _ _ _ (by decide) h]

theorem rdFld_sumsKept_depth {depth : Nat} (h : depth < 2 ^ 4) (size tsub : Nat) (x : State) :
    rdFld (sumsKept size depth tsub x) crtDomain 16 4 = depth := by
  rw [sumsKept, rdFld_withCrate, sumsWritten, rdFld_wrFld_apart _ _ (by decide), rdFld_wrFld_fits _ _ _ _ (by decide) h]

theorem rdFld_sumsKept_tsub {tsub : Nat} (h : tsub < 2 ^ 16) (size depth : Nat) (x : State) :
    rdFld (sumsKept size depth tsub x) (hstA 0x114) 0 16 = tsub := by
  rw [sumsKept, rdFld_withCrate, sumsWritten, rdFld_wrFld_fits _ _ _ _ (by decide) h]

theorem enGen_sumsKept (size depth tsub : Nat) (x : State) : enGen (sumsKept size depth tsub x) = enGen x := by
  rw [enGen, sumsKept, rdFld_withCrate, sumsWritten, rdFld_wrFld_apart _ _ (by decide), rdFld_wrFld_apart _ _ (by decide),
    rdFld_wrFld_apart _ _ (by decide), enGen]

theorem assigned_sumsKept (size depth tsub : Nat) (x : State) : assigned (sumsKept size depth tsub x) = assigned x :=
  rdBit_congr (rdReg_sumsKept_other size depth tsub x (by decide) (by decide) (by decide)) 12

/-- Elsewhere than at the root a count that is complete goes to the head. -/
theorem countEnds_sends {x : State} {u : Nat} (hroot : x.crt.isRoot = false) (hup : x.crt.uplink = some u)
    (haddr : assigned x = false) (missing : Bool) {size depth tsub : Nat} (hsize : size < 2 ^ 13) (hdepth : depth < 2 ^ 4)
    (htsub : tsub < 2 ^ 16) : SendsCount x (countEnds missing size depth tsub x) u missing size depth tsub := by
  have hends : countEnds missing size depth tsub x = sendCount false missing false size depth tsub (sumsKept size depth tsub x) :=
    if_neg (by simp [hroot])
  have hstill := (assigned_sumsKept size depth tsub x).trans haddr
  have hmsg := messaged_sendCount false missing false size depth tsub (sumsKept size depth tsub x)
  rw [hends]
  constructor
  case ends => rw [hmsg.crt]; rfl
  case ownSize => exact (hmsg.rdFld _ _ _).trans (rdFld_sumsKept_size hsize ..)
  case ownDepth => exact (hmsg.rdFld _ _ _).trans (rdFld_sumsKept_depth hdepth ..)
  case ownTsub => exact (hmsg.rdFld _ _ _).trans (rdFld_sumsKept_tsub htsub ..)
  case sent =>
    rw [sendCount_outbox (s := sumsKept size depth tsub x) hup hstill, enGen_sumsKept]
    simp only [b2n, Bool.false_eq_true, if_false, Nat.zero_add, Nat.mul_zero, Nat.add_zero]
    rfl
  case gen => exact (hmsg.rdFld _ _ _).trans (enGen_sumsKept ..)
  case other => exact fun b k1 k2 k3 => (hmsg.rdReg b).trans (rdReg_sumsKept_other size depth tsub x k1 k2 k3)

/-- The answer of the only child is kept. -/
def childAnswered (a : ChildAns) (s : State) : State :=
  withCrate { s.crt with answers := mapSet none s.crt.answers 0 (some a) } s

theorem enGen_childAnswered (a : ChildAns) (s : State) : enGen (childAnswered a s) = enGen s := rfl

theorem childAnswered_outbox (a : ChildAns) (s : State) : (childAnswered a s).outbox = s.outbox := rfl

theorem answers_childAnswered (a : ChildAns) (s : State) : mapGet none (childAnswered a s).crt.answers 0 = some a := by
  simp [childAnswered, withCrate]

/-- EN_COUNT of the only child completes the count. -/
theorem enCount_only {s : State} {l : Nat} (hkids : s.crt.children = [l]) (hprobing : s.crt.probing = true) (a : ChildAns) :
    enCount l (enGen s) a s = countDone (childAnswered a s) := by
  have hchild : childIndex s l = some 0 := by simp [childIndex, hkids]
  have hready : countReady (childAnswered a s) = true := by simp [countReady, childAnswered, withCrate, hkids]
  have hcomplete : whenDo (countReady (childAnswered a s)) countDone (childAnswered a s) = countDone (childAnswered a s) := by
    rw [hready]
    rfl
  unfold enCount
  rw [hchild]
  dsimp only
  rw [if_neg (by simp [hprobing])]
  exact hcomplete

/-- The count of a device whose only child is marked present or LOST goes to the head. -/
theorem countEnds_marked {s : State} {u a : Nat} (hroot : s.crt.isRoot = false) (hup : s.crt.uplink = some u)
    (haddr : assigned s = false) (hstatus : hstA 0x104 ≠ a) (cell : Word) (missing : Bool) {size depth tsub : Nat}
    (hsize : size < 2 ^ 13) (hdepth : depth < 2 ^ 4) (htsub : tsub < 2 ^ 16) :
    SendsCount (childMarked a cell s) (countEnds missing size depth tsub (childMarked a cell s)) u missing size depth tsub :=
  countEnds_sends (x := childMarked a cell s) hroot hup
    ((rdBit_congr (rdReg_childMarked_other cell s hstatus (by decide)) 12).trans haddr) missing hsize hdepth htsub

/-- The only child has answered with a count (R401). -/
theorem enCount_sends {s : State} {u l : Nat} {a : ChildAns} (hroot : s.crt.isRoot = false) (hup : s.crt.uplink = some u)
    (hkids : s.crt.children = [l]) (hprobing : s.crt.probing = true) (haddr : assigned s = false)
    (htsub : linkTarget s l + 991 + a.tsub < 65536) (hdepth : a.depth < 15) (hlink : linkState s l = 8) (hbusy : a.busy = false)
    (hmany : a.tooMany = false) (hsize : a.size ≤ 4095) :
    SendsCount (childMarked (hstA 0x118) (BitVec.ofNat 32 (2 ^ 16 * a.size)) (childAnswered a s)) (enCount l (enGen s) a s) u
      a.missing (1 + a.size) (1 + a.depth) (linkTarget s l + 991 + a.tsub) := by
  rw [enCount_only hkids hprobing,
    countDone_answered (s := childAnswered a s) hkids (answers_childAnswered a s) hlink hbusy hmany hsize htsub]
  exact countEnds_marked (s := childAnswered a s) hroot hup haddr (by decide) _ _ (by omega) (by omega) htsub

/-- The only child has not answered when the wait ends (R401). -/
theorem countDone_sends_lost {s : State} {u l : Nat} (hroot : s.crt.isRoot = false) (hup : s.crt.uplink = some u)
    (hkids : s.crt.children = [l]) (haddr : assigned s = false) (hnone : s.crt.answers = []) :
    SendsCount (childMarked (hstA 0x11C) 0 s) (countDone s) u true 1 0 0 := by
  rw [countDone_lost hkids (by rw [hnone]; rfl)]
  exact countEnds_marked hroot hup haddr (by decide) 0 true (by decide) (by decide) (by decide)

theorem enGen_childMarked {a : Nat} (h : crtDomain ≠ a) (cell : Word) (s : State) : enGen (childMarked a cell s) = enGen s :=
  rdFld_congr (rdReg_childMarked_other cell s h (by decide)) 24 8

end Sys2Proof.Machine
end

section
/-! PROOFS. EN_PROBE away from the root, and in Blank at every device (R400, R401). -/

namespace Sys2Proof.Machine

/-- The old numbering has ended: PRESENT, the cause and the state are clear, and ENGEN is that of the probe. -/
def renumbered (g : Nat) (s : State) : State :=
  wrReg (wrFld (wrFld (clrBit (wrFld s crtDomain 24 8 (g % 256)) crtStatus 12) crtStatus 21 4 0) crtStatus 18 3 0) (hstA 0x118) 0

theorem renumbered_outbox (g : Nat) (s : State) : (renumbered g s).outbox = s.outbox := by simp [renumbered]

theorem enGen_renumbered (g : Nat) (s : State) : enGen (renumbered g s) = g % 256 := by
  refine (rdFld_wrReg_other _ _ (by decide) _ _).trans ((rdFld_wrFld_apart _ _ (by decide)).trans
    ((rdFld_wrFld_apart _ _ (by decide)).trans ((rdFld_wrFld_apart _ _ (by decide)).trans ?_)))
  exact (rdFld_wrFld_same _ _ _ _ _ (by decide)).trans (Nat.mod_mod g 256)

theorem assigned_renumbered (g : Nat) (s : State) : assigned (renumbered g s) = false := by
  refine (rdBit_wrReg_other _ _ (by decide) _).trans ((rdBit_wrFld_apart _ _ (by decide)).trans
    ((rdBit_wrFld_apart _ _ (by decide)).trans ?_))
  exact rdBit_clrBit_same _ _

theorem isPresent_renumbered (g : Nat) (s : State) (i : Nat) : isPresent (renumbered g s) i = false := by
  unfold isPresent rdBit renumbered
  rw [rdReg_wrReg_same]
  exact BitVec.getLsbD_zero

/-- The crate waits for counts. -/
def countBegun (c : Crate) : Crate := { c with held := none, probing := true, answers := [], done := [], subs := [] }

/-- The device waits for the counts of its children. -/
def awaitsCounts (g : Nat) (s : State) : State := setEnum 1 (withCrate (countBegun s.crt) (renumbered g s))

theorem awaitsCounts_crt (g : Nat) (s : State) : (awaitsCounts g s).crt = countBegun s.crt := rfl

theorem awaitsCounts_outbox (g : Nat) (s : State) : (awaitsCounts g s).outbox = s.outbox := by
  rw [awaitsCounts, setEnum_outbox, withCrate_outbox, renumbered_outbox]

theorem linkState_awaitsCounts (g : Nat) (s : State) (k : Nat) : linkState (awaitsCounts g s) k = linkState s k := by
  have hcrate {o : Nat} (ho : o < 0x1000) : linkA k 0xC ≠ hstA o := by
    unfold linkA hstA
    omega
  have hcleared : rdReg (renumbered g s) (linkA k 0xC) = rdReg s (linkA k 0xC) :=
    (rdReg_wrReg_other _ _ (hcrate (by decide))).trans ((rdReg_wrFld_other _ _ _ _ (hcrate (by decide))).trans
      ((rdReg_wrFld_other _ _ _ _ (hcrate (by decide))).trans ((rdReg_wrFld_other _ _ _ _ (hcrate (by decide))).trans
        (rdReg_wrFld_other s _ _ _ (hcrate (by decide))))))
  exact rdFld_congr ((rdReg_wrFld_other _ _ _ _ (hcrate (by decide))).trans ((rdReg_withCrate ..).trans hcleared)) 0 4

/-- A child whose link is UP is probed. -/
def probeLink (g : Nat) (x : State) (l : Nat) : State :=
  if linkState x l = 8 then sendService l 0x30 0xFFF (leBytes 4 (g % 256)) x else x

/-- The children have been probed. -/
def childrenProbed (g : Nat) (s : State) : State := s.crt.children.foldl (probeLink g) (awaitsCounts g s)

theorem probe_boot {s : State} (h : s.chip.devState = .boot) (g : Nat) :
    probe g s = withCrate { s.crt with held := some g } (renumbered g s) := by
  unfold probe
  simp only [clrBit_chip, wrReg_chip, wrFld_chip, h]
  rfl

theorem probe_blank {s : State} (h : s.chip.devState = .blank) (g : Nat) :
    probe g s = whenDo (countReady (childrenProbed g s)) countDone (childrenProbed g s) := by
  unfold probe
  simp only [clrBit_chip, wrReg_chip, wrFld_chip, h]
  rfl

theorem probe_elsewhere {s : State} (hboot : s.chip.devState ≠ .boot) (hblank : s.chip.devState ≠ .blank) (g : Nat) :
    probe g s = sendCount true false false 1 0 0 (renumbered g s) := by
  unfold probe
  dsimp only [clrBit_chip, wrReg_chip, wrFld_chip]
  split
  · exact absurd ‹_› hboot
  · exact absurd ‹_› hblank
  · rfl

theorem messaged_probeLink (g : Nat) (x : State) (l : Nat) : Messaged x (probeLink g x l) := by
  unfold probeLink
  split
  · exact messaged_sendService ..
  · exact .refl x

theorem messaged_childrenProbed (g : Nat) (s : State) : Messaged (awaitsCounts g s) (childrenProbed g s) :=
  .foldl (messaged_probeLink g) _ _

/-- Each child whose link is UP gets the probe, from a device without an address. -/
theorem mem_probeLinks {x : State} (haddr : assigned x = false) (g : Nat) {links : List Nat} {k : Nat} (hk : k ∈ links)
    (hup : linkState x k = 8) :
    .service k 0x30 0xFFF 0xFFF (leBytes 4 (g % 256)) ∈ (links.foldl (probeLink g) x).outbox := by
  induction links generalizing x with
  | nil => contradiction
  | cons l links ih =>
    have hprobed := messaged_probeLink g x l
    rcases List.mem_cons.1 hk with rfl | hrest
    · have hlater := Messaged.foldl (messaged_probeLink g) links (probeLink g x k)
      refine hlater.sent.subset ?_
      rw [probeLink, if_pos hup, sendService_unassigned haddr, sendServiceFrom_outbox]
      exact List.mem_cons_self
    · exact ih ((hprobed.rdBit _ _).trans haddr) hrest ((hprobed.rdFld _ _ _).trans hup)

theorem countReady_childrenProbed (g : Nat) (s : State) : countReady (childrenProbed g s) = s.crt.children.isEmpty := by
  unfold countReady
  rw [(messaged_childrenProbed g s).crt]
  cases h : s.crt.children with
  | nil => simp [awaitsCounts_crt, countBegun, h]
  | cons l links =>
    rw [List.isEmpty_cons, List.all_eq_false]
    exact ⟨0, by simp [awaitsCounts_crt, countBegun, h], by simp [awaitsCounts_crt, countBegun, mapGet]⟩

/-- What each probe leaves: its ENGEN, and a device that is not numbered. -/
structure Renumbered (g : Nat) (t : State) : Prop where
  gen : enGen t = g
  addr : assigned t = false
  alone : ∀ i, isPresent t i = false

theorem renumbered_renumbered {g : Nat} (hg : g < 256) (s : State) : Renumbered g (renumbered g s) :=
  ⟨(enGen_renumbered g s).trans (Nat.mod_eq_of_lt hg), assigned_renumbered g s, isPresent_renumbered g s⟩

theorem Renumbered.congr {g : Nat} {x t : State} (h : Renumbered g x) (k : t.regs = x.regs) : Renumbered g t := by
  have hreg (b : Nat) : rdReg t b = rdReg x b := by rw [rdReg, k, rdReg]
  exact ⟨(rdFld_congr (hreg _) _ _).trans h.gen, (rdBit_congr (hreg _) _).trans h.addr,
    fun i => (rdBit_congr (hreg _) _).trans (h.alone i)⟩

theorem Renumbered.setEnum {g : Nat} {x : State} (h : Renumbered g x) (n : Nat) : Renumbered g (setEnum n x) :=
  ⟨(enGen_setEnum n x).trans h.gen, (assigned_setEnum n x).trans h.addr,
    fun i => (rdBit_wrFld_apart x n (.inl (by decide))).trans (h.alone i)⟩

theorem SendsCount.renumbered {g u size depth tsub : Nat} {missing : Bool} {x t : State}
    (k : SendsCount x t u missing size depth tsub) (h : Renumbered g x) : Renumbered g t :=
  ⟨k.gen.trans h.gen, (rdBit_congr (k.other _ (by decide) (by decide) (by decide)) _).trans h.addr,
    fun i => (rdBit_congr (k.other _ (by decide) (by decide) (by decide)) _).trans (h.alone i)⟩

theorem renumbered_awaitsCounts {g : Nat} (hg : g < 256) (s : State) : Renumbered g (awaitsCounts g s) := by
  refine Renumbered.setEnum ?_ 1
  exact (renumbered_renumbered hg s).congr (withCrate_regs ..)

theorem renumbered_childrenProbed {g : Nat} (hg : g < 256) (s : State) : Renumbered g (childrenProbed g s) :=
  (renumbered_awaitsCounts hg s).congr (messaged_childrenProbed g s).regs

/-- A probe in Blank of a device with children: each whose link is UP is probed, and the counts are awaited. -/
theorem probe_children {s : State} (hstate : s.chip.devState = .blank) (hkids : s.crt.children ≠ []) (g : Nat) :
    probe g s = childrenProbed g s := by
  rw [probe_blank hstate, countReady_childrenProbed, List.isEmpty_eq_false_iff.2 hkids]
  rfl

/-- A probe in Blank of a device without children: it counts itself. -/
theorem probe_childless {s : State} (hstate : s.chip.devState = .blank) (hkids : s.crt.children = []) (g : Nat) :
    probe g s = countEnds false 1 0 0 (awaitsCounts g s) := by
  have hprobed : childrenProbed g s = awaitsCounts g s := by rw [childrenProbed, hkids, List.foldl_nil]
  rw [probe_blank hstate, countReady_childrenProbed, hkids, hprobed]
  exact countDone_childless hkids

theorem mem_childrenProbed {g : Nat} (hg : g < 256) {s : State} {k : Nat} (hk : k ∈ s.crt.children) (hup : linkState s k = 8) :
    .service k 0x30 0xFFF 0xFFF [BitVec.ofNat 8 g, 0, 0, 0] ∈ (childrenProbed g s).outbox := by
  have hsent := mem_probeLinks (renumbered_awaitsCounts hg s).addr g hk ((linkState_awaitsCounts g s k).trans hup)
  rwa [Nat.mod_eq_of_lt hg, leBytes_four hg] at hsent

/-- A probe of a device without children, elsewhere than at the root. -/
theorem probe_sendsCount {s : State} {u g : Nat} (hroot : s.crt.isRoot = false) (hup : s.crt.uplink = some u) (hg : g < 256)
    (hblank : s.chip.devState = .blank) (hkids : s.crt.children = []) :
    SendsCount (awaitsCounts g s) (probe g s) u false 1 0 0 := by
  rw [probe_childless hblank hkids]
  exact countEnds_sends (x := awaitsCounts g s) hroot hup (renumbered_awaitsCounts hg s).addr false (by decide) (by decide)
    (by decide)

/-- In each device state a probe takes its ENGEN and ends the old numbering. -/
theorem renumbered_probe {s : State} {u g : Nat} (hroot : s.crt.isRoot = false) (hup : s.crt.uplink = some u) (hg : g < 256) :
    Renumbered g (probe g s) := by
  by_cases hboot : s.chip.devState = .boot
  · rw [probe_boot hboot]
    exact (renumbered_renumbered hg s).congr (withCrate_regs ..)
  by_cases hblank : s.chip.devState = .blank
  · by_cases hkids : s.crt.children = []
    · exact (probe_sendsCount hroot hup hg hblank hkids).renumbered (renumbered_awaitsCounts hg s)
    · rw [probe_children hblank hkids]
      exact renumbered_childrenProbed hg s
  · rw [probe_elsewhere hboot hblank]
    exact (renumbered_renumbered hg s).congr (messaged_sendCount ..).regs

end Sys2Proof.Machine
end

section
/-! PROOFS. EN_ASSIGN and EN_DONE: addresses, and the end of the numbering (R403). -/

namespace Sys2Proof.Machine

/-- The device has taken its address, and numbers its children next. -/
def addressed (base ndev depth arrive ttree : Nat) (s : State) : State :=
  setEnum 2 (wrFld (wrFld (wrFld (wrFld (wrFld (wrFld (wrFld s crtStatus 0 12 base) crtStatus 12 1 1) crtStatus 14 4 depth)
    (hstA 0x108) 0 12 base) crtDomain 0 13 ndev) crtTree 0 16 ttree) crtTree 16 16 arrive)

/-- The values of EN_ASSIGN are in the registers. -/
structure Numbered (t : State) (base ndev depth arrive ttree : Nat) : Prop where
  addr : assigned t = true
  own : devAddr t = base
  level : rdFld t crtStatus 14 4 = depth
  first : rdFld t (hstA 0x108) 0 12 = base
  domain : rdFld t crtDomain 0 13 = ndev
  tree : rdFld t crtTree 0 16 = ttree
  arrival : rdFld t crtTree 16 16 = arrive

theorem addressed_outbox (base ndev depth arrive ttree : Nat) (s : State) :
    (addressed base ndev depth arrive ttree s).outbox = s.outbox := by simp [addressed, setEnum]

theorem enGen_addressed (base ndev depth arrive ttree : Nat) (s : State) :
    enGen (addressed base ndev depth arrive ttree s) = enGen s := by
  simp (disch := decide) only [addressed, enGen, setEnum, rdFld_wrFld_apart]

theorem presentIdx_addressed (base ndev depth arrive ttree : Nat) (s : State) :
    presentIdx (addressed base ndev depth arrive ttree s) = presentIdx s := by
  refine presentIdx_congr ?_ rfl
  simp (disch := decide) only [addressed, setEnum, rdReg_wrFld_other]

theorem numbered_addressed {base ndev depth arrive ttree : Nat} (hdepth : depth < 16) (hbase : base < 4096)
    (hndev : ndev ≤ 4096) (harrive : arrive < 65536) (httree : ttree < 65536) (s : State) :
    Numbered (addressed base ndev depth arrive ttree s) base ndev depth arrive ttree := by
  unfold addressed setEnum
  constructor
  case addr =>
    unfold assigned
    simp (disch := decide) only [crtStatus, rdBit_wrFld_apart]
    exact rdBit_setBit_same _ _ (by decide)
  case own =>
    unfold devAddr
    simp (disch := decide) only [rdFld_wrFld_apart]
    exact rdFld_wrFld_fits _ crtStatus 0 12 (by decide) hbase
  case level =>
    simp (disch := decide) only [rdFld_wrFld_apart]
    exact rdFld_wrFld_fits _ _ _ _ (by decide) hdepth
  case first =>
    simp (disch := decide) only [rdFld_wrFld_apart]
    exact rdFld_wrFld_fits _ _ _ _ (by decide) hbase
  case domain =>
    simp (disch := decide) only [rdFld_wrFld_apart]
    exact rdFld_wrFld_fits _ _ _ _ (by decide) (by omega)
  case tree =>
    simp (disch := decide) only [rdFld_wrFld_apart]
    exact rdFld_wrFld_fits _ _ _ _ (by decide) httree
  case arrival =>
    simp (disch := decide) only [rdFld_wrFld_apart]
    exact rdFld_wrFld_fits _ _ _ _ (by decide) harrive

/-- A child that is numbered writes its cell alone. -/
theorem rdReg_childNumbered {b : Nat} (hb : b < childCell 0) (i base l opc dst : Nat) (body : List Byte) (x : State) :
    rdReg (sendService l opc dst body (wrFld x (childCell i) 0 12 base)) b = rdReg x b := by
  refine ((messaged_sendService ..).rdReg b).trans (rdReg_wrFld_other x 0 12 base ?_)
  unfold childCell hstA at hb ⊢
  omega

/-- A register that each round of a loop with a number beside the state leaves. -/
theorem rdReg_foldl_fst {f : State × Nat → Nat → State × Nat} {b : Nat} (hf : ∀ q i, rdReg (f q i).1 b = rdReg q.1 b)
    (l : List Nat) (q : State × Nat) : rdReg (l.foldl f q).1 b = rdReg q.1 b := by
  induction l generalizing q with
  | nil => rfl
  | cons i l ih => exact (ih (f q i)).trans (hf q i)

/-- After its registers the device numbers its children, and then ends its part. -/
theorem assign_ends (base ndev depth arrive ttree : Nat) (s : State) :
    ∃ y, assign base ndev depth arrive ttree s = assignDone y ∧
      ∀ b, b < childCell 0 → rdReg y b = rdReg (addressed base ndev depth arrive ttree s) b := by
  refine ⟨_, rfl, fun b hb => ?_⟩
  exact rdReg_foldl_fst (fun q i => rdReg_childNumbered hb i q.2 ..) _ (addressed base ndev depth arrive ttree s, base + 1)

theorem assign_childless {s : State} (h : presentIdx s = []) (base ndev depth arrive ttree : Nat) :
    assign base ndev depth arrive ttree s = assignDone (addressed base ndev depth arrive ttree s) := by
  have hnone := (presentIdx_addressed base ndev depth arrive ttree s).trans h
  unfold assign
  dsimp only
  unfold addressed at hnone ⊢
  rw [hnone, List.foldl_nil]

/-- The end of the device's part changes the state of its enumeration, and raises the event or sends EN_DONE. -/
theorem assignDone_cases (s : State) : assignDone s = s ∨ Around (setEnum 3 s) (assignDone s) := by
  unfold assignDone
  split
  · dsimp only
    split
    · exact .inr (around_hostEvent 2 _)
    · exact .inr (messaged_sendServiceUp ..).around
  · exact .inl rfl

/-- Fields that neither the numbering of the children nor the end of the device's part writes. -/
theorem rdFld_assign (base ndev depth arrive ttree : Nat) (s : State) {b lo n : Nat} (hlow : b < childCell 0) (hquiet : Quiet b)
    (h : b ≠ crtStatus ∨ lo + n ≤ 18 ∨ 21 ≤ lo) :
    rdFld (assign base ndev depth arrive ttree s) b lo n = rdFld (addressed base ndev depth arrive ttree s) b lo n := by
  obtain ⟨y, hends, hcells⟩ := assign_ends base ndev depth arrive ttree s
  rw [hends, ← rdFld_congr (hcells b hlow) lo n]
  rcases assignDone_cases y with heq | hafter
  · rw [heq]
  · exact (hafter.rdFld hquiet lo n).trans (rdFld_wrFld_apart y 3 h)

theorem assigned_assign (base ndev depth arrive ttree : Nat) (s : State) :
    assigned (assign base ndev depth arrive ttree s) = assigned (addressed base ndev depth arrive ttree s) := by
  obtain ⟨y, hends, hcells⟩ := assign_ends base ndev depth arrive ttree s
  have hstill : assigned y = assigned (addressed base ndev depth arrive ttree s) := rdBit_congr (hcells _ (by decide)) 12
  rw [hends, ← hstill]
  rcases assignDone_cases y with heq | hafter
  · rw [heq]
  · exact (hafter.rdBit (by decide) 12).trans (assigned_setEnum 3 y)

theorem enGen_assign (base ndev depth arrive ttree : Nat) (s : State) : enGen (assign base ndev depth arrive ttree s) = enGen s :=
  (rdFld_assign base ndev depth arrive ttree s (by decide) (by decide) (by decide)).trans (enGen_addressed ..)

theorem numbered_assign {base ndev depth arrive ttree : Nat} (hdepth : depth < 16) (hbase : base < 4096) (hndev : ndev ≤ 4096)
    (harrive : arrive < 65536) (httree : ttree < 65536) (s : State) :
    Numbered (assign base ndev depth arrive ttree s) base ndev depth arrive ttree := by
  obtain ⟨haddr, hown, hlevel, hfirst, hdomain, htree, harrival⟩ := numbered_addressed hdepth hbase hndev harrive httree s
  exact {
    addr := (assigned_assign ..).trans haddr
    own := (rdFld_assign _ _ _ _ _ s (by decide) (by decide) (by decide)).trans hown
    level := (rdFld_assign _ _ _ _ _ s (by decide) (by decide) (by decide)).trans hlevel
    first := (rdFld_assign _ _ _ _ _ s (by decide) (by decide) (by decide)).trans hfirst
    domain := (rdFld_assign _ _ _ _ _ s (by decide) (by decide) (by decide)).trans hdomain
    tree := (rdFld_assign _ _ _ _ _ s (by decide) (by decide) (by decide)).trans htree
    arrival := (rdFld_assign _ _ _ _ _ s (by decide) (by decide) (by decide)).trans harrival }

/-- Away from the root a part that is done goes to the head as EN_DONE. -/
theorem assignDone_sends {s : State} {u : Nat} (hroot : s.crt.isRoot = false) (hup : s.crt.uplink = some u)
    (hall : ∀ i ∈ presentIdx s, i ∈ s.crt.done) :
    assignDone s = sendService u 0x33 0xFFF (leBytes 1 (enGen s)) (setEnum 3 s) := by
  unfold assignDone
  rw [if_pos (List.all_eq_true.2 fun i hi => List.contains_iff_mem.2 (hall i hi))]
  dsimp only
  rw [if_neg (by simp [hroot]), sendServiceUp_of_uplink (s := setEnum 3 s) hup, enGen_setEnum]

/-- At the root a part that is done ends the enumeration as DONE, and raises the event. -/
theorem assignDone_root {s : State} (hroot : s.crt.isRoot = true) (hall : ∀ i ∈ presentIdx s, i ∈ s.crt.done) :
    assignDone s = hostEvent 2 (setEnum 3 s) := by
  unfold assignDone
  rw [if_pos (List.all_eq_true.2 fun i hi => List.contains_iff_mem.2 (hall i hi))]
  exact if_pos hroot

/-- A device without present children has done its part at once. -/
theorem assign_sends {s : State} {u : Nat} (hroot : s.crt.isRoot = false) (hup : s.crt.uplink = some u)
    (hnone : presentIdx s = []) (base ndev depth arrive ttree : Nat) :
    assign base ndev depth arrive ttree s =
      sendService u 0x33 0xFFF (leBytes 1 (enGen s)) (setEnum 3 (addressed base ndev depth arrive ttree s)) := by
  have hstill := (presentIdx_addressed base ndev depth arrive ttree s).trans hnone
  rw [assign_childless hnone, assignDone_sends (s := addressed base ndev depth arrive ttree s) hroot hup (by simp [hstill]),
    enGen_addressed]

theorem enumState_assign_root {s : State} (hroot : s.crt.isRoot = true) (hnone : presentIdx s = [])
    (base ndev depth arrive ttree : Nat) : enumState (assign base ndev depth arrive ttree s) = 3 := by
  have hstill := (presentIdx_addressed base ndev depth arrive ttree s).trans hnone
  rw [assign_childless hnone, assignDone_root (s := addressed base ndev depth arrive ttree s) hroot (by simp [hstill])]
  exact ((around_hostEvent 2 _).rdFld (by decide) _ _).trans (enumState_setEnum (by decide) _)

/-- The child with index `i` has done its part. -/
def childDone (i : Nat) (s : State) : State := withCrate { s.crt with done := s.crt.done ++ [i] } s

/-- EN_DONE of the last present child. -/
theorem enDone_last {s : State} {u l i : Nat} (hroot : s.crt.isRoot = false) (hup : s.crt.uplink = some u)
    (hchild : childIndex s l = some i) (hstate : enumState s = 2) (hpresent : isPresent s i = true) (hnew : i ∉ s.crt.done)
    (hall : ∀ j ∈ presentIdx s, j = i ∨ j ∈ s.crt.done) :
    enDone l (enGen s) s = sendService u 0x33 0xFFF (leBytes 1 (enGen s)) (setEnum 3 (childDone i s)) := by
  unfold enDone
  rw [hchild]
  dsimp only
  rw [if_neg (by simp [hstate, hpresent, hnew])]
  refine assignDone_sends (s := childDone i s) hroot hup fun j hj => ?_
  rcases hall j hj with rfl | hdone
  · exact List.mem_append_right _ List.mem_cons_self
  · exact List.mem_append_left _ hdone

end Sys2Proof.Machine
end

section
/-! PROOFS. EN_FAIL, and ENUM at the root (R400, R402, R418). -/

namespace Sys2Proof.Machine

/-! ### Failure (R402) -/

/-- The enumeration has failed with a cause. -/
def enumFailed (cause : Nat) (s : State) : State := wrFld (setEnum 4 s) crtStatus 21 4 cause

/-- What a failed enumeration leaves: FAILED with its cause, and EN_FAIL at each present child. -/
structure FailsEnum (s t : State) (cause : Nat) : Prop where
  state : enumState t = 4
  code : rdFld t crtStatus 21 4 = cause
  addr : assigned t = assigned s
  gen : enGen t = enGen s
  sent : ∀ k ∈ presentLinks s, ∃ src, .service k 0x34 src 0xFFF (leBytes 1 (enGen s) ++ leBytes 1 cause) ∈ t.outbox

theorem enumFail_fails {cause : Nat} (hcause : cause < 16) (s : State) : FailsEnum s (enumFail cause s) cause := by
  have hafter : Around (enumFailed cause s) (enumFail cause s) :=
    (messaged_sendServiceDown ..).around.trans (around_hostEvent 2 _)
  have hgen : enGen (enumFailed cause s) = enGen s := (rdFld_wrFld_apart _ cause (by decide)).trans (enGen_setEnum 4 s)
  constructor
  case state =>
    refine (hafter.rdFld (by decide) _ _).trans ?_
    exact (rdFld_wrFld_apart _ cause (by decide)).trans (enumState_setEnum (by decide) s)
  case code =>
    refine (hafter.rdFld (by decide) _ _).trans ?_
    exact rdFld_wrFld_fits _ crtStatus 21 4 (by decide) hcause
  case addr =>
    refine (hafter.rdBit (by decide) _).trans ?_
    exact (rdBit_wrFld_apart _ cause (by decide)).trans (assigned_setEnum 4 s)
  case gen => exact (hafter.rdFld (by decide) _ _).trans hgen
  case sent =>
    intro k hk
    have hlinks : presentLinks (enumFailed cause s) = presentLinks s := by
      refine presentLinks_congr ?_ rfl
      exact (rdReg_wrFld_other _ _ _ _ (by decide)).trans (rdReg_wrFld_other _ _ _ _ (by decide))
    obtain ⟨src, hsrc⟩ := mem_sendServiceDown (s := enumFailed cause s) (hlinks ▸ hk) 0x34 0xFFF
      (leBytes 1 (enGen (enumFailed cause s)) ++ leBytes 1 cause)
    exact ⟨src, hgen ▸ (around_hostEvent 2 _).sent.subset hsrc⟩

/-- EN_FAIL is acted on as the root acts on a failure, by a device that then has no address. -/
theorem enFail_eq {s : State} {l : Nat} (hup : s.crt.uplink = some l) (cause : Nat) :
    enFail l (enGen s) cause s = enumFail cause (clrBit s crtStatus 12) := by
  have hgen : enGen (enumFailed cause (clrBit s crtStatus 12)) = enGen s :=
    (rdFld_wrFld_apart _ cause (by decide)).trans ((enGen_setEnum 4 _).trans (rdFld_wrFld_apart s 0 (by decide)))
  have hfail : enumFail cause (clrBit s crtStatus 12) = hostEvent 2 (sendServiceDown 0x34 0xFFF
      (leBytes 1 (enGen (enumFailed cause (clrBit s crtStatus 12))) ++ leBytes 1 cause)
        (enumFailed cause (clrBit s crtStatus 12))) := rfl
  rw [enFail, if_pos ⟨hup, rfl⟩, hfail, hgen]
  rfl

theorem enFail_fails {s : State} {l cause : Nat} (hup : s.crt.uplink = some l) (hcause : cause < 16) :
    FailsEnum (clrBit s crtStatus 12) (enFail l (enGen s) cause s) cause := by
  rw [enFail_eq hup]
  exact enumFail_fails hcause _

/-! ### ENUM (R400, R418) -/

theorem regRow_crtCtrl : ∃ r, regRow (hstA 0x100) = some r ∧ r.rule = .plain := ⟨_, rfl, rfl⟩

/-- A write of HST_CRT_CTRL with ENUM starts an enumeration or is refused. -/
theorem regWrite_enum (who : Requester) (s : State) :
    regWrite who (hstA 0x100) 1 s = writeOpt s (if enumAllowed s then some (enumStart s) else none) := by
  obtain ⟨r, hrow, hrule⟩ := regRow_crtCtrl
  have hopen : ruleOpen r s = true := by simp [ruleOpen, hrule]
  unfold regWrite
  simp only [hrow, hopen]
  rfl

theorem exec_enum {s : State} {who : Requester} (h : Reaches s who (hstA 0x100)) :
    (enumAllowed s = true → exec (.enum who) s = .next (answer who true .ok 0 (enumStart s))) ∧
    (enumAllowed s = false → exec (.enum who) s = .next (answer who true .error 0 s)) := by
  have hexec : exec (.enum who) s = .next (request who (hstA 0x100) true 1 s) := rfl
  rw [hexec, request_reg h rfl (by decide), regWrite_enum]
  constructor
  · intro hallowed
    rw [if_pos hallowed, writeOpt]
  · intro hrefused
    rw [hrefused, if_neg Bool.false_ne_true, writeOpt]

/-- The root of a domain without children counts one device. -/
theorem enumStart_childless {s : State} (hroot : s.crt.isRoot = true) (hstate : s.chip.devState = .blank)
    (hkids : s.crt.children = []) :
    enumStart s = rootDecideCount false false 1 0 (sumsKept 1 0 0 (awaitsCounts ((enGen s + 1) % 256) s)) := by
  rw [enumStart, probe_childless hstate hkids]
  exact if_pos hroot

theorem rootDecideCount_one {s : State} (h : s.crt.expect ≤ 1) : rootDecideCount false false 1 0 s = assign 0 1 0 0 0 s := by
  unfold rootDecideCount
  rw [if_neg (by decide), if_neg (by decide), if_neg (by omega), if_neg (by decide)]

theorem rootDecideCount_more {s : State} (h : 1 < s.crt.expect) : rootDecideCount false false 1 0 s = enumFail 2 s := by
  unfold rootDecideCount
  rw [if_neg (by decide), if_neg (by decide), if_pos (by omega)]

/-- A count of one at the root: address 0 and DONE where the domain may be one device, else the enumeration fails. -/
theorem rootDecideCount_alone {x : State} (hroot : x.crt.isRoot = true) (hnone : presentIdx x = []) (haddr : assigned x = false) :
    enGen (rootDecideCount false false 1 0 x) = enGen x ∧
    (x.crt.expect ≤ 1 → enumState (rootDecideCount false false 1 0 x) = 3 ∧
      Numbered (rootDecideCount false false 1 0 x) 0 1 0 0 0) ∧
    (1 < x.crt.expect → enumState (rootDecideCount false false 1 0 x) = 4 ∧
      rdFld (rootDecideCount false false 1 0 x) crtStatus 21 4 = 2 ∧ assigned (rootDecideCount false false 1 0 x) = false) := by
  rcases Nat.lt_or_ge 1 x.crt.expect with hmore | hone
  · obtain ⟨kstate, kcode, kaddr, kgen, -⟩ := enumFail_fails (cause := 2) (by decide) x
    rw [rootDecideCount_more hmore]
    exact ⟨kgen, fun hle => absurd hmore (Nat.not_lt.2 hle), fun _ => ⟨kstate, kcode, kaddr.trans haddr⟩⟩
  · have hnumbered := numbered_assign (base := 0) (ndev := 1) (depth := 0) (arrive := 0) (ttree := 0) (by decide) (by decide)
      (by decide) (by decide) (by decide) x
    rw [rootDecideCount_one hone]
    exact ⟨enGen_assign .., fun _ => ⟨enumState_assign_root hroot hnone .., hnumbered⟩,
      fun hmore => absurd hmore (Nat.not_lt.2 hone)⟩

/-- ENUM at the root of a domain without children (R400, R402). -/
theorem enumStart_decides {s : State} (hroot : s.crt.isRoot = true) (hstate : s.chip.devState = .blank)
    (hkids : s.crt.children = []) :
    enGen (enumStart s) = (enGen s + 1) % 256 ∧
    (s.crt.expect ≤ 1 → enumState (enumStart s) = 3 ∧ Numbered (enumStart s) 0 1 0 0 0) ∧
    (1 < s.crt.expect →
      enumState (enumStart s) = 4 ∧ rdFld (enumStart s) crtStatus 21 4 = 2 ∧ assigned (enumStart s) = false) := by
  obtain ⟨hgen, haddr, -⟩ := renumbered_awaitsCounts (Nat.mod_lt (enGen s + 1) (by decide : 0 < 256)) s
  have hunassigned := (assigned_sumsKept 1 0 0 _).trans haddr
  have hcrate : (sumsKept 1 0 0 (awaitsCounts ((enGen s + 1) % 256) s)).crt = countEnded (countBegun s.crt) :=
    (sumsKept_crt ..).trans (congrArg countEnded (awaitsCounts_crt ..))
  obtain ⟨kgen, kone, kmore⟩ := rootDecideCount_alone (by rw [hcrate]; exact hroot)
    (presentIdx_of_no_children (by rw [hcrate]; exact hkids)) hunassigned
  rw [hcrate] at kone kmore
  rw [enumStart_childless hroot hstate hkids]
  exact ⟨kgen.trans ((enGen_sumsKept ..).trans hgen), kone, kmore⟩

end Sys2Proof.Machine
end

section
/-! PROOFS. The status word of the subtree (R414), and the statement of the chapter. -/

namespace Sys2Proof.Machine

theorem mem_gone_childGone (i : Nat) (s : State) : i ∈ (childGone i s).crt.gone := by
  by_cases h : i ∈ s.crt.gone <;> simp [childGone, setBit, h]

/-- A child that is missing changes its LOST bit and the record of the crate. -/
theorem childGone_onlyRegs (i : Nat) (s : State) : OnlyRegs s { childGone i s with crt := s.crt } [hstA 0x11C] := by
  refine ⟨fun b hb => ⟨?_, rfl⟩, rfl⟩
  have hreg : rdReg { childGone i s with crt := s.crt } b = rdReg (setBit s (hstA 0x11C) i) b := rfl
  exact hreg.trans (rdReg_setBit_other s i (by simpa using hb))

end Sys2Proof.Machine

open Sys2Proof Sys2Proof.Machine

/-- Settles O43: a probe by `renumbered_probe` and what each device state does with it, a complete count by `countEnds_marked`,
EN_ASSIGN by `numbered_assign`, EN_DONE by `enDone_last` and EN_FAIL by `enFail_fails`. ENUM at a root without children is a
count of one, of which the root takes address 0 or fails (`enumStart_decides`). SUBSTAT changes only the record of the crate. -/
theorem enumerationAndSubtreeStatus : Obligations.EnumerationAndSubtreeStatus := by
  unfold Obligations.EnumerationAndSubtreeStatus
  refine ⟨⟨?probe, ?count, ?assign, ?done, ?fail, ?enum⟩, ?substat, ?period, ?timeout⟩
  case probe =>
    intro s l g hroot hup hg
    obtain ⟨hgen, haddr, halone⟩ := renumbered_probe hroot hup hg
    refine ⟨probe g s, congrArg Host.Outcome.next (if_pos hup), hgen, haddr, halone, fun hboot => ?_, fun hblank hkids => ?_,
      fun hblank hkids => ?_, fun hboot hblank => ?_⟩
    · rw [probe_boot hboot, withCrate_outbox, renumbered_outbox]
      exact ⟨rfl, rfl⟩
    · have hcount := probe_sendsCount hroot hup hg hblank hkids
      refine ⟨?_, hcount.ends, hcount.ownSize, hcount.ownDepth, hcount.ownTsub⟩
      rw [hcount.sent, (renumbered_awaitsCounts hg s).gen, awaitsCounts_outbox]
      rfl
    · have hmsg := messaged_childrenProbed g s
      rw [probe_children hblank hkids]
      exact ⟨hmsg.enumState_setEnum (by decide), congrArg Crate.probing hmsg.crt, congrArg Crate.answers hmsg.crt,
        fun k hk hlink => mem_childrenProbed hg hk hlink⟩
    · rw [probe_elsewhere hboot hblank, sendCount_outbox (s := renumbered g s) hup (assigned_renumbered g s),
        (renumbered_renumbered hg s).gen, renumbered_outbox]
      rfl
  case count =>
    intro s u l a hroot hup hkids hprobing halone hfound haddr htsub hdepth
    refine ⟨fun hlink hbusy hmany hsize => ?_, fun hnone => ⟨_, congrArg Host.Outcome.next (if_pos hprobing), ?_⟩⟩
    · have hcount := enCount_sends hroot hup hkids hprobing haddr htsub hdepth hlink hbusy hmany hsize
      refine ⟨_, rfl, ?_, hcount.ends, hcount.ownSize, hcount.ownDepth, hcount.ownTsub, ?_⟩
      · exact (rdBit_congr (hcount.other _ (by decide) (by decide) (by decide)) 0).trans (rdBit_childMarked _ _ (by decide))
      · rw [hcount.sent, enGen_childMarked (by decide), enGen_childAnswered, childMarked_outbox, childAnswered_outbox]
    · have hcount := countDone_sends_lost hroot hup hkids haddr hnone
      refine ⟨?_, ?_, hcount.ownSize, ?_⟩
      · refine (rdBit_congr (hcount.other _ (by decide) (by decide) (by decide)) 0).trans ?_
        exact (rdBit_congr (rdReg_childMarked_other 0 s (by decide) (by decide)) 0).trans (halone 0)
      · exact (rdBit_congr (hcount.other _ (by decide) (by decide) (by decide)) 0).trans (rdBit_childMarked _ _ (by decide))
      · rw [hcount.sent, enGen_childMarked (by decide), childMarked_outbox]
        rfl
  case assign =>
    intro s l depth base ndev arrive ttree hup hdepth hbase hndev harrive httree
    obtain ⟨haddr, hown, hlevel, hfirst, hdomain, htree, harrival⟩ := numbered_assign hdepth hbase hndev harrive httree s
    refine ⟨_, congrArg Host.Outcome.next (if_pos ⟨hup, rfl⟩), haddr, hown, hlevel, hfirst, hdomain, htree, harrival,
      fun hnone hroot => ?_⟩
    have htaken := numbered_addressed hdepth hbase hndev harrive httree s
    have hnumbered : assigned (setEnum 3 (addressed base ndev depth arrive ttree s)) = true :=
      (assigned_setEnum 3 _).trans htaken.addr
    rw [assign_sends hroot hup hnone]
    refine ⟨(messaged_sendService ..).enumState_setEnum (by decide), ?_⟩
    rw [sendService_assigned hnumbered, sendServiceFrom_outbox, devAddr_setEnum, htaken.own, setEnum_outbox, addressed_outbox]
  case done =>
    intro s u l i hroot hup hchild hstate hpresent hnew hall
    have hmsg := messaged_sendService u 0x33 0xFFF (leBytes 1 (enGen s)) (setEnum 3 (childDone i s))
    exact ⟨_, congrArg Host.Outcome.next (enDone_last hroot hup hchild hstate hpresent hnew hall),
      hmsg.enumState_setEnum (by decide), congrArg Crate.done hmsg.crt, sendService_outbox ..⟩
  case fail =>
    intro s l cause hup hcause
    obtain ⟨hstate, hcode, haddr, -, hsent⟩ := enFail_fails hup hcause
    refine ⟨_, rfl, hstate, hcode, haddr.trans (rdBit_clrBit_same s _), ?_⟩
    have hgen : enGen (clrBit s crtStatus 12) = enGen s := rdFld_wrFld_apart s 0 (by decide)
    rwa [presentLinks_congr (rdReg_clrBit_other s 12 (by decide)) rfl, hgen] at hsent
  case enum =>
    intro s who hreach
    refine ⟨fun hroot hblank hidle hnot hkids => ?_, fun h => ?_⟩
    · have hallowed : enumAllowed s = true := by simp [enumAllowed, hroot, hblank, hidle, hnot]
      obtain ⟨hgen, hone, hmore⟩ := enumStart_decides hroot hblank hkids
      refine ⟨enumStart s, (exec_enum hreach).1 hallowed, hgen, fun hle => ?_, hmore⟩
      obtain ⟨hstate, htaken⟩ := hone hle
      exact ⟨hstate, htaken.addr, htaken.own, htaken.domain⟩
    · have hrefused : enumAllowed s = false := by
        rcases h with h | h <;> simp [enumAllowed, h]
      exact (exec_enum hreach).2 hrefused
  case substat =>
    intro s l i w hchild
    have heq : substatEv l w s = { s with crt := { s.crt with
        subs := mapSet 0 s.crt.subs i w, gone := s.crt.gone.filter (fun x => x ≠ i || linkState s l ≠ 8) } } := by
      rw [substatEv, hchild]
    refine ⟨_, congrArg Host.Outcome.next heq, mapGet_mapSet_same, fun j hj => mapGet_mapSet_other hj, fun hlink => ?_, rfl⟩
    simp [hlink]
  case period =>
    intro s l hshell hup
    have heq : substatPeriod s = sendService l 0x35 0xFFF (leBytes 4 (subStatus s).toNat) s := by
      rw [substatPeriod, if_pos hshell, sendServiceUp_of_uplink hup]
    exact ⟨_, congrArg Host.Outcome.next heq, rfl, rfl, rfl, sendService_outbox ..⟩
  case timeout =>
    intro s i hi hbit hpresent
    exact ⟨childGone i s, congrArg Host.Outcome.next (if_pos ⟨hi, hpresent⟩), mem_gone_childGone i s,
      rdBit_setBit_same _ _ hbit, childGone_onlyRegs i s⟩

end

section
/-! PROOFS. A step of the step clock while no command waits (R431). -/

namespace Sys2Proof.Machine

/-- A step without a command is one step of the step clock. -/
theorem step_idle {s : State} (h : s.pending = []) : step s = .next (idle s) := by
  rw [step, h]

theorem idle_stopped {s : State} (h : tb0Runs s = false) : idle s = s := by
  rw [idle, h]
  rfl

/-- A step of the step clock changes TB0 and nothing else. -/
theorem idle_frame (s : State) : idle s = { s with tim := { s.tim with tb0 := (idle s).tim.tb0 } } := by
  unfold idle
  split <;> rfl

theorem tb0_idle {s : State} (h : tb0Runs s = true) :
    (idle s).tim.tb0 = (s.tim.tb0 + tb0Step s) % (2 ^ 48 * secUnits * 2 ^ 32) := by
  rw [idle, if_pos h]

/-- Without a rate offset a step is 0.8 ns. -/
theorem tb0Step_of_no_rate {s : State} (h : sreg s (timA 0x5C) = 0) : tb0Step s = 8 * 2 ^ 48 / 10 := by
  rw [tb0Step, h]
  rfl

end Sys2Proof.Machine

open Sys2Proof Sys2Proof.Machine

/-- Settles O2: a step without a command is `idle`, which advances TB0 by `tb0Step` once the clock is locked. That TB0 advances
by such steps is the model's choice of assumption log 1. -/
theorem idleStepAdvancesTB0 : Obligations.IdleStepAdvancesTB0 := by
  intro s hnone
  refine ⟨idle s, step_idle hnone, idle_frame s, idle_stopped, tb0_idle, fun hrun hrate hsmall => ?_⟩
  rw [tb0_idle hrun, tb0Step_of_no_rate hrate]
  refine Nat.mod_eq_of_lt ?_
  unfold secUnits
  omega

end

section
/-! PROOFS. Writes that reach the time block (R32, R443, R449). -/

namespace Sys2Proof.Machine

/-- The rows of the time block. -/
theorem regRow_timA {o : Nat} (h : o < 0x10000) : regRow (timA o) = findRow timRows o := by
  have hofs : timA o - 0x30000 = o := Nat.add_sub_cancel_left ..
  have hlow : 0x30000 ≤ timA o := Nat.le_add_right ..
  have hhigh : timA o < 0x40000 := Nat.add_lt_add_left h 0x30000
  unfold regRow
  iterate 3 rw [if_neg (by omega)]
  rw [if_pos ⟨hlow, hhigh⟩, hofs]

/-- A write of a register of the block is done as the block says, and answered. -/
theorem request_timA {s : State} {who : Requester} {o : Nat} {r : RegRow} (hreach : Reaches s who (timA o)) (ho : o < 0x10000)
    (hrow : findRow timRows o = some r) (hrule : r.rule = .plain) (v : Word) :
    request who (timA o) true v s = answer who true (timWrite r o v s).1 0 (timWrite r o v s).2 := by
  have hofs : timA o - 0x30000 = o := Nat.add_sub_cancel_left ..
  have hlow : 0x30000 ≤ timA o := Nat.le_add_right ..
  have hhigh : timA o < 0x40000 := Nat.add_lt_add_left ho 0x30000
  have hfeed : ¬ (imgA 0x8000 ≤ timA o ∧ timA o < imgA 0x10000) := by
    unfold imgA
    omega
  have hwrite : regWrite who (timA o) v s = timWrite r o v s := by
    unfold regWrite
    simp only [regRow_timA ho, hrow, ruleOpen, hrule, Bool.true_eq_false, or_false]
    iterate 3 rw [if_neg (by omega)]
    rw [if_pos hhigh, hofs]
  rw [request_reg hreach (if_pos (.inl (by omega))) hfeed, hwrite]

theorem Reaches.not_off {s : State} {who : Requester} {a : Nat} (h : Reaches s who a) : s.chip.devState ≠ .off := h.2.1

/-! ### REVERT (R443) -/

/-- REVERT is answered after what it asks for is done. -/
theorem exec_revert {s : State} {who : Requester} (h : Reaches s who (timA 0)) :
    exec (.revert who) s = .next (answer who true .ok 0 (revertWrite s)) := by
  obtain ⟨r, hrow, hrule⟩ : ∃ r, findRow timRows 0 = some r ∧ r.rule = .plain := ⟨_, rfl, rfl⟩
  change Host.Outcome.next (request who (timA 0) true 1 s) = _
  rw [request_timA h (by decide) hrow hrule]
  rfl

theorem revertWrite_running {s : State} (h : s.chip.devState = .running) : revertWrite s = s := if_pos (.inl h)

theorem revertWrite_remembered {s : State} (hrun : s.chip.devState ≠ .running) (hoff : s.chip.devState ≠ .off) :
    revertWrite s = { s with tim := { s.tim with revert := true } } := if_neg (not_or.2 ⟨hrun, hoff⟩)

end Sys2Proof.Machine
end

section
/-! PROOFS. Generators of pulses: what an edge, an end and skipped pulses leave (R445, R448). -/

namespace Sys2Proof.Machine

/-! ### Registers and pulses of a generator -/

theorem plsA_ne (n : Nat) {o o' : Nat} (h : o ≠ o') : plsA n o ≠ plsA n o' := by
  unfold plsA timA
  omega

theorem plsA_low (n o : Nat) : timA 0x200 ≤ plsA n o := by
  unfold plsA timA
  omega

@[simp] theorem genOf_putGen_same (n : Nat) (g : PulseGen) (s : State) : genOf (putGen n g s) n = g := mapGet_mapSet_same

theorem genOf_putGen_other {n j : Nat} (h : j ≠ n) (g : PulseGen) (s : State) : genOf (putGen n g s) j = genOf s j :=
  mapGet_mapSet_other h

theorem genOf_congr {s t : State} (h : t.tim = s.tim) (n : Nat) : genOf t n = genOf s n := by rw [genOf, h, genOf]

@[simp] theorem rdReg_putGen (n : Nat) (g : PulseGen) (s : State) (b : Nat) : rdReg (putGen n g s) b = rdReg s b := rfl

/-- From `s` to `t` only TIM_PLSn_CTRL of generator `n` may differ among its registers. -/
abbrev SamePlan (s t : State) (n : Nat) : Prop := ∀ o, o ≠ 0x1C → rdReg t (plsA n o) = rdReg s (plsA n o)

theorem samePlan_wrReg (s : State) (n : Nat) (v : Word) : SamePlan s (wrReg s (plsCtrl n) v) n :=
  fun _ ho => rdReg_wrReg_other s v (plsA_ne n ho)

theorem plsStart_congr {s t : State} {n : Nat} (h : SamePlan s t n) : plsStart t n = plsStart s n := by
  rw [plsStart, h 0 (by decide), h 4 (by decide), h 8 (by decide), plsStart]

theorem plsPeriodRaw_congr {s t : State} {n : Nat} (h : SamePlan s t n) : plsPeriodRaw t n = plsPeriodRaw s n := by
  rw [plsPeriodRaw, h 0xC (by decide), rdFld, h 0x10 (by decide), plsPeriodRaw, rdFld]

theorem plsTotal_congr {s t : State} {n : Nat} (h : SamePlan s t n) : plsTotal t n = plsTotal s n := by
  rw [plsTotal, plsPeriodRaw_congr h, plsCount, h 0x18 (by decide), plsTotal, plsCount]

/-- A train with a period has COUNT pulses, or no end (R445). -/
theorem plsTotal_of_period {s : State} {n : Nat} (h : plsPeriodRaw s n ≠ 0) :
    plsTotal s n = if plsCount s n = 0 then none else some (plsCount s n) := if_neg h

/-! ### The end of a train (R445) -/

/-- The train of generator `n` is over: DONE, and ARM clears. -/
def trainDone (n : Nat) (s : State) : State := clrBit (setBit s (plsCtrl n) 5) (plsCtrl n) 0

theorem plsEndTrain_cases (n : Nat) (s : State) : plsEndTrain n s = s ∨ plsEndTrain n s = trainDone n s := by
  unfold plsEndTrain
  split
  · split
    · exact .inr rfl
    · exact .inl rfl
  · exact .inl rfl

theorem plsEndTrain_unlimited {n : Nat} {s : State} (h : plsTotal s n = none) : plsEndTrain n s = s := by
  rw [plsEndTrain, h]

theorem plsEndTrain_goes_on {n c : Nat} {s : State} (h : plsTotal s n = some c) (hleft : (genOf s n).next < c) :
    plsEndTrain n s = s := by
  rw [plsEndTrain, h]
  exact if_neg (by omega)

theorem plsEndTrain_done {n c : Nat} {s : State} (h : plsTotal s n = some c) (hused : c ≤ (genOf s n).next) :
    plsEndTrain n s = trainDone n s := by
  rw [plsEndTrain, h]
  exact if_pos hused

theorem trainDone_flags (n : Nat) (s : State) :
    rdBit (trainDone n s) (plsCtrl n) 0 = false ∧ rdBit (trainDone n s) (plsCtrl n) 5 = true ∧
      rdBit (trainDone n s) (plsCtrl n) 6 = rdBit s (plsCtrl n) 6 := by
  refine ⟨rdBit_clrBit_same .., ?_, ?_⟩
  · rw [trainDone, rdBit_clrBit_other _ _ (by decide), rdBit_setBit_same _ _ (by decide)]
  · rw [trainDone, rdBit_clrBit_other _ _ (by decide), rdBit_setBit_other _ _ (by decide)]

/-! ### Pulses that are skipped (R448) -/

/-- From `s` to `u` generators skip pulses: their state, and registers from the first of TIM_PLS on. -/
structure Skips (s u : State) : Prop where
  frame : u = { s with regs := u.regs, tim := { s.tim with gens := u.tim.gens } }
  regs : ∀ b, b < timA 0x200 → rdReg u b = rdReg s b

namespace Skips

theorem refl (s : State) : Skips s s := ⟨rfl, fun _ _ => rfl⟩

theorem trans {s u v : State} (h : Skips s u) (k : Skips u v) : Skips s v := by
  obtain ⟨hu, hregs⟩ := h
  obtain ⟨hv, kregs⟩ := k
  refine ⟨?_, fun b hb => (kregs b hb).trans (hregs b hb)⟩
  rw [hv, hu]

theorem chip {s u : State} (h : Skips s u) : u.chip = s.chip := by rw [h.frame]
theorem tim {s u : State} (h : Skips s u) : u.tim = { s.tim with gens := u.tim.gens } := by rw [h.frame]

theorem rdBit {s u : State} (h : Skips s u) {b : Nat} (hb : b < timA 0x200) (i : Nat) : rdBit u b i = rdBit s b i :=
  rdBit_congr (h.regs b hb) i

theorem wrFld (s : State) (n lo m x : Nat) : Skips s (wrFld s (plsCtrl n) lo m x) := by
  refine ⟨rfl, fun b hb => rdReg_wrFld_other s lo m x ?_⟩
  have hlow : timA 0x200 ≤ plsCtrl n := plsA_low n 0x1C
  omega

theorem foldl {α : Type} {f : State → α → State} (hf : ∀ x a, Skips x (f x a)) (l : List α) (s : State) :
    Skips s (l.foldl f s) := by
  induction l generalizing s with
  | nil => exact .refl s
  | cons a l ih => exact (hf s a).trans (ih _)

end Skips

theorem skips_putGen (n : Nat) (g : PulseGen) (s : State) : Skips s (putGen n g s) := ⟨rfl, fun _ _ => rfl⟩

theorem skips_plsEndTrain (n : Nat) (s : State) : Skips s (plsEndTrain n s) := by
  rcases plsEndTrain_cases n s with h | h
  · rw [h]
    exact .refl s
  · rw [h]
    exact (Skips.wrFld s n 5 1 1).trans (.wrFld _ n 0 1 0)

theorem skips_plsSkip (n i : Nat) (s : State) : Skips s (plsSkip n i s) := by
  unfold plsSkip
  extract_lets g last missed
  split
  · exact .refl s
  · exact ((skips_putGen n _ s).trans (.wrFld _ n 8 16 _)).trans (skips_plsEndTrain n _)

/-- A base that steps forward lets generators skip pulses, and nothing else. -/
theorem skips_plsStepped (base : Nat) (s : State) : Skips s (plsStepped base s) := by
  refine .foldl (fun x n => ?_) _ s
  split
  · split
    · exact skips_plsSkip n _ x
    · exact .refl x
  · exact .refl x

end Sys2Proof.Machine
end

section
/-! PROOFS. Laws of the time bases: staged, armed and in force (R432). -/

namespace Sys2Proof.Machine

/-! ### Registers of a law -/

theorem rdTime_congr {s t : State} {a : Nat} (h0 : rdReg t a = rdReg s a) (h1 : rdReg t (a + 4) = rdReg s (a + 4))
    (h2 : rdReg t (a + 8) = rdReg s (a + 8)) : rdTime t a = rdTime s a := by
  rw [rdTime, h0, h1, h2, rdTime]

/-- The law that the registers of TBk hold. -/
def stagedLaw (s : State) (k : Nat) : Law :=
  { anchor := rdTime s (lawA k 0), offset := rdTime s (lawA k 0xC), rate := sreg s (lawA k 0x18) }

/-- Two states hold the same law of TBk when the seven registers of its values agree. -/
theorem stagedLaw_congr {s t : State} {k : Nat} (h : ∀ o, o < 0x1C → rdReg t (lawA k o) = rdReg s (lawA k o)) :
    stagedLaw t k = stagedLaw s k := by
  have htime (o : Nat) (ho : o < 0xD) : rdTime t (lawA k o) = rdTime s (lawA k o) :=
    rdTime_congr (h o (by omega)) (h (o + 4) (by omega)) (h (o + 8) (by omega))
  rw [stagedLaw, htime 0 (by decide), htime 0xC (by decide), sreg, h 0x18 (by decide), stagedLaw, sreg]

theorem lawA_ne (k : Nat) {o o' : Nat} (h : o ≠ o') : lawA k o ≠ lawA k o' := by
  unfold lawA timA
  omega

/-- TIM_STATUS stands below the laws. -/
theorem lawA_ne_timStat (k o : Nat) : lawA k o ≠ timStat := by
  unfold lawA timStat timA
  omega

theorem lawA_ctrl_low {k : Nat} (h : k ≤ 3) : lawA k 0x1C < timA 0x200 := by
  unfold lawA timA
  omega

theorem timStat_low : timStat < timA 0x200 := by decide

/-! ### A law comes into force (R432) -/

/-- From `s` to `t` the staged law of TBk has come into force: ARM is clear, the law is kept, TB0 stays, and of TIM_STATUS only
the lock of TB1 may differ. -/
structure LawStarts (s t : State) (k : Nat) : Prop where
  disarmed : rdBit t (lawA k 0x1C) 0 = false
  laws : t.tim.laws = mapSet none s.tim.laws k (some (stagedLaw s k))
  tb0 : t.tim.tb0 = s.tim.tb0
  status : ∀ i, i ≠ 5 → rdBit t timStat i = rdBit s timStat i

/-- The staged law is kept, and its ARM clears. -/
def lawTaken (k : Nat) (s : State) : State :=
  { clrBit s (lawA k 0x1C) 0 with tim := { s.tim with laws := mapSet none s.tim.laws k (some (stagedLaw s k)) } }

theorem lawStarts_lawTaken (k : Nat) (s : State) : LawStarts s (lawTaken k s) k where
  disarmed := rdBit_clrBit_same s _
  laws := rfl
  tb0 := rfl
  status i _ := rdBit_congr (rdReg_clrBit_other s 0 (lawA_ne_timStat k 0x1C).symm) i

/-- The lock of TB1 shows in TIM_STATUS. -/
theorem LawStarts.setLock {s x : State} {k : Nat} (h : LawStarts s x k) : LawStarts s (setBit x timStat 5) k where
  disarmed := (rdBit_congr (rdReg_setBit_other x 5 (lawA_ne_timStat k 0x1C)) 0).trans h.disarmed
  laws := h.laws
  tb0 := h.tb0
  status i hi := (rdBit_setBit_other x timStat hi).trans (h.status i hi)

/-- Pulses that the step of the base skips do not touch the law. -/
theorem LawStarts.skips {s x t : State} {k : Nat} (h : LawStarts s x k) (hk : k ≤ 3) (hskip : Skips x t) : LawStarts s t k where
  disarmed := (hskip.rdBit (lawA_ctrl_low hk) 0).trans h.disarmed
  laws := by rw [hskip.tim, ← h.laws]
  tb0 := by rw [hskip.tim, ← h.tb0]
  status i hi := (hskip.rdBit timStat_low i).trans (h.status i hi)

theorem lawForce_starts {k : Nat} (hk : k ≤ 3) (s : State) : LawStarts s (lawForce k s) k := by
  have htaken := lawStarts_lawTaken k s
  have hforce : lawForce k s = plsStepped k (if k = 1 ∧ ¬ (s.crt.isRoot ∧ bit (timSrc s) 8) then
      setBit (lawTaken k s) timStat 5 else lawTaken k s) := rfl
  rw [hforce]
  refine LawStarts.skips ?_ hk (skips_plsStepped k _)
  split
  · exact htaken.setLock
  · exact htaken

/-- A base with a law reads by it (R432). -/
theorem tbAt_of_law {s : State} {k : Nat} (hk : k ≠ 0) {l : Law} (h : mapGet none s.tim.laws k = some l) (x : Nat) :
    tbAt s k x = some ((((x : Int) + l.offset + (((x : Int) - l.anchor) * l.rate) / 2 ^ 40) % (2 ^ 48 * secUnits : Nat)).toNat) := by
  have hwrap : ∀ d : Int, wrapTime (d % (2 ^ 48 * secUnits : Nat)).toNat = (d % (2 ^ 48 * secUnits : Nat)).toNat := by
    intro d
    unfold wrapTime secUnits
    omega
  rw [tbAt, if_neg hk, h, Option.map_some, hwrap]

theorem tbAt_congr {s t : State} {k : Nat} (h : mapGet none t.tim.laws k = mapGet none s.tim.laws k) (x : Nat) :
    tbAt t k x = tbAt s k x := by
  rw [tbAt, h, tbAt]

namespace LawStarts

variable {s t : State} {k : Nat}

theorem law_same (h : LawStarts s t k) : mapGet none t.tim.laws k = some (stagedLaw s k) := by
  rw [h.laws, mapGet_mapSet_same]

theorem law_other (h : LawStarts s t k) {j : Nat} (hj : j ≠ k) : mapGet none t.tim.laws j = mapGet none s.tim.laws j := by
  rw [h.laws, mapGet_mapSet_other hj]

theorem tb0Now_eq (h : LawStarts s t k) : tb0Now t = tb0Now s := by rw [tb0Now, h.tb0, tb0Now]

end LawStarts

/-! ### ARM of a law (R432) -/

section
variable {s : State} {k : Nat} (hlow : 1 ≤ k) (hhigh : k ≤ 3) (hoff : s.chip.devState ≠ .off)
  (harm : rdBit s (lawA k 0x1C) 0 = false) (halone : s.crt.isRoot = false ∨ assigned s = false)
include hlow hhigh hoff harm halone

/-- A device that sends the law to no other arms it, and at once brings it into force where its ANCHOR is past. -/
theorem lawArm_alone : lawArm k s = if rdTime s (lawA k 0) < tb0Now s then
    lawForce k (setBit (setBit s (lawA k 0x1C) 0) timStat 13) else setBit s (lawA k 0x1C) 0 := by
  have hopen : ¬ (k = 0 ∨ 4 ≤ k ∨ s.chip.devState = .off ∨ rdBit s (lawA k 0x1C) 0) := by
    rw [harm]
    simp only [hoff, Bool.false_eq_true, or_false]
    omega
  have hkeeps : ¬ (s.crt.isRoot = true ∧ assigned s = true) := by
    rcases halone with h | h <;> simp [h]
  rw [lawArm, if_neg hopen]
  dsimp only
  rw [if_neg hkeeps]

theorem lawArm_ahead (htime : tb0Now s ≤ rdTime s (lawA k 0)) : lawArm k s = setBit s (lawA k 0x1C) 0 := by
  rw [lawArm_alone hlow hhigh hoff harm halone, if_neg (by omega)]

/-- An ANCHOR that is past: LAW_LATE, and the law is in force. -/
theorem lawArm_late (htime : rdTime s (lawA k 0) < tb0Now s) :
    rdBit (lawArm k s) (lawA k 0x1C) 0 = false ∧ rdBit (lawArm k s) timStat 13 = true ∧
      mapGet none (lawArm k s).tim.laws k = some (stagedLaw s k) ∧ (lawArm k s).tim.tb0 = s.tim.tb0 := by
  have hstarts := lawForce_starts hhigh (setBit (setBit s (lawA k 0x1C) 0) timStat 13)
  have hstaged : stagedLaw (setBit (setBit s (lawA k 0x1C) 0) timStat 13) k = stagedLaw s k := by
    refine stagedLaw_congr fun o ho => ?_
    rw [rdReg_setBit_other _ _ (lawA_ne_timStat k o), rdReg_setBit_other _ _ (lawA_ne k (by omega))]
  rw [lawArm_alone hlow hhigh hoff harm halone, if_pos htime]
  exact ⟨hstarts.disarmed, (hstarts.status 13 (by decide)).trans (rdBit_setBit_same _ _ (by decide)),
    hstaged ▸ hstarts.law_same, hstarts.tb0⟩

end

theorem findRow_lawCtrl {k : Nat} (hlow : 1 ≤ k) (hhigh : k ≤ 3) :
    ∃ r, findRow timRows (0x100 + (k - 1) * 0x20 + 0x1C) = some r ∧ r.rule = .plain := by
  obtain rfl | rfl | rfl : k = 1 ∨ k = 2 ∨ k = 3 := by omega
  all_goals exact ⟨_, rfl, rfl⟩

/-- LAW_ARM is answered after the law is armed. -/
theorem exec_lawArm {s : State} {who : Requester} {k : Nat} (hlow : 1 ≤ k) (hhigh : k ≤ 3) (h : Reaches s who (lawA k 0x1C)) :
    exec (.lawArm who k) s = .next (answer who true .ok 0 (lawArm k s)) := by
  obtain ⟨r, hrow, hrule⟩ := findRow_lawCtrl hlow hhigh
  have hwrite : timWrite r (0x100 + (k - 1) * 0x20 + 0x1C) 1 s = (.ok, lawArm k s) := by
    have hindex : (0x100 + (k - 1) * 0x20 + 0x1C - 0x100) / 0x20 + 1 = k := by omega
    unfold timWrite
    dsimp only
    rw [if_neg (by omega), if_pos (by omega), if_pos (by omega), hindex, if_pos (show bit (1 : Word) 0 = true by decide)]
  change Host.Outcome.next (if 1 ≤ k ∧ k ≤ 3 then request who (lawA k 0x1C) true 1 s else s) = _
  rw [if_pos ⟨hlow, hhigh⟩, lawA, request_timA h (by omega) hrow hrule, hwrite]

/-! ### TB0 reaches the ANCHOR (R432) -/

theorem rdReg_timeReach (t : Nat) (s : State) (b : Nat) : rdReg (timeReach t s) b = rdReg s b := by
  rw [timeReach_frame]
  rfl

theorem laws_timeReach (t : Nat) (s : State) : (timeReach t s).tim.laws = s.tim.laws := by
  unfold timeReach
  split <;> rfl

theorem gens_timeReach (t : Nat) (s : State) : (timeReach t s).tim.gens = s.tim.gens := by
  unfold timeReach
  split <;> rfl

theorem lawInForce_armed {s : State} {k : Nat} (hlow : 1 ≤ k) (hhigh : k ≤ 3) (h : rdBit s (lawA k 0x1C) 0 = true) :
    lawInForce k s = lawForce k (timeReach (rdTime s (lawA k 0)) s) := by
  have hopen : ¬ (k = 0 ∨ 4 ≤ k ∨ rdBit s (lawA k 0x1C) 0 = false) := by
    rw [h]
    simp only [Bool.true_eq_false, or_false]
    omega
  exact if_neg hopen

end Sys2Proof.Machine
end

section
/-! PROOFS. PPS edges: the stamp, the law of TB1 that the root arms, the secondary, and edges that stop (R434, R440, R449). -/

namespace Sys2Proof.Machine

/-! ### Times in registers (R426) -/

theorem timeWord_lt (t : Nat) : timeWord t < 2 ^ 96 := by
  unfold timeWord wrapTime secUnits
  dsimp only
  omega

theorem timeOf_timeWord {t : Nat} (h : t < 2 ^ 48 * secUnits) : timeOf (timeWord t) = t := by
  unfold timeOf timeWord wrapTime
  unfold secUnits at h ⊢
  dsimp only
  omega

/-- A time that was written to three registers is read from them. -/
theorem rdTime_wrTime_same (a : Nat) {t : Nat} (h : t < 2 ^ 48 * secUnits) (s : State) : rdTime (wrTime a t s) a = t := by
  have hword := timeWord_lt t
  have h0 : rdReg (wrTime a t s) a = BitVec.ofNat 32 (timeWord t) := by
    rw [wrTime, rdReg_wrReg_other _ _ (by omega), rdReg_wrReg_other _ _ (by omega), rdReg_wrReg_same]
  have h1 : rdReg (wrTime a t s) (a + 4) = BitVec.ofNat 32 (timeWord t / 2 ^ 32) := by
    rw [wrTime, rdReg_wrReg_other _ _ (by omega), rdReg_wrReg_same]
  have h2 : rdReg (wrTime a t s) (a + 8) = BitVec.ofNat 32 (timeWord t / 2 ^ 64) := by
    rw [wrTime, rdReg_wrReg_same]
  have hsum : timeWord t % 2 ^ 32 + 2 ^ 32 * (timeWord t / 2 ^ 32 % 2 ^ 32) + 2 ^ 64 * (timeWord t / 2 ^ 64 % 2 ^ 32) =
      timeWord t := by omega
  rw [rdTime, h0, h1, h2, BitVec.toNat_ofNat, BitVec.toNat_ofNat, BitVec.toNat_ofNat, hsum, timeOf_timeWord h]

theorem rdReg_wrTime_other {a b : Nat} (h0 : b ≠ a) (h1 : b ≠ a + 4) (h2 : b ≠ a + 8) (t : Nat) (s : State) :
    rdReg (wrTime a t s) b = rdReg s b := by
  rw [wrTime, rdReg_wrReg_other _ _ h2, rdReg_wrReg_other _ _ h1, rdReg_wrReg_other _ _ h0]

/-- From `s` to `t` only registers differ. -/
def RegsOnly (s t : State) : Prop := t = { s with regs := t.regs }

theorem RegsOnly.trans {s t u : State} (h : RegsOnly s t) (k : RegsOnly t u) : RegsOnly s u := by
  unfold RegsOnly at h k ⊢
  rw [k, h]

theorem regsOnly_wrReg (s : State) (a : Nat) (v : Word) : RegsOnly s (wrReg s a v) := rfl

theorem regsOnly_wrFld (s : State) (a lo n x : Nat) : RegsOnly s (wrFld s a lo n x) := rfl

theorem regsOnly_wrTime (a t : Nat) (s : State) : RegsOnly s (wrTime a t s) :=
  ((regsOnly_wrReg s _ _).trans (regsOnly_wrReg _ _ _)).trans (regsOnly_wrReg _ _ _)

theorem RegsOnly.chip {s t : State} (h : RegsOnly s t) : t.chip = s.chip := by rw [h]
theorem RegsOnly.tim {s t : State} (h : RegsOnly s t) : t.tim = s.tim := by rw [h]
theorem RegsOnly.spr {s t : State} (h : RegsOnly s t) : t.spr = s.spr := by rw [h]
theorem RegsOnly.cl {s t : State} (h : RegsOnly s t) : t.cl = s.cl := by rw [h]
theorem RegsOnly.crt {s t : State} (h : RegsOnly s t) : t.crt = s.crt := by rw [h]

theorem RegsOnly.tb0Now {s t : State} (h : RegsOnly s t) : tb0Now t = tb0Now s := by
  rw [Machine.tb0Now, h.tim]
  rfl

/-! ### Rates in registers (R434, R436) -/

/-- A rate that is held within a limit of 31 bits is read as it was written. -/
theorem toInt_ofInt32 {r : Int} {lim : Nat} (hlim : lim < 2 ^ 31) (hlow : -(lim : Int) ≤ r) (hhigh : r ≤ lim) :
    (ofInt32 r).toInt = r := by
  rw [ofInt32, BitVec.toInt_ofInt]
  exact Int.bmod_eq_of_le (by omega) (by omega)

/-- A value held within `lim` either way (R434, R436). -/
def clamped (lim : Nat) (x : Int) : Int := max (-(lim : Int)) (min (lim : Int) x)

theorem clamped_range (lim : Nat) (x : Int) : -(lim : Int) ≤ clamped lim x ∧ clamped lim x ≤ lim := by
  unfold clamped
  omega

theorem toInt_clamped {lim : Nat} (h : lim < 2 ^ 31) (x : Int) : (ofInt32 (clamped lim x)).toInt = clamped lim x :=
  toInt_ofInt32 h (clamped_range lim x).1 (clamped_range lim x).2

theorem natAbs_clamped_le (lim : Nat) (x : Int) : (clamped lim x).natAbs ≤ lim := by
  have := clamped_range lim x
  omega

/-! ### The law that the root forms (R434) -/

/-- From `s` to `t` a law of TB1 is armed for an ANCHOR ahead: only its registers differ. -/
structure ArmsTB1 (s t : State) (anchor lim : Nat) : Prop where
  frame : RegsOnly s t
  armed : rdBit t (lawA 1 0x1C) 0 = true
  anchor : rdTime t (lawA 1 0) = anchor
  rate : (sreg t (lawA 1 0x18)).natAbs ≤ lim
  below : ∀ b, b < lawA 1 0 → rdReg t b = rdReg s b

/-- A law of TB1 is staged, its ARM clear: ANCHOR, OFFSET and RATE. -/
def lawStaged (anchor offset : Nat) (rate : Int) (s : State) : State :=
  clrBit (wrReg (wrTime (lawA 1 0xC) offset (wrTime (lawA 1 0) anchor s)) (lawA 1 0x18) (ofInt32 rate)) (lawA 1 0x1C) 0

theorem regsOnly_lawStaged (anchor offset : Nat) (rate : Int) (s : State) : RegsOnly s (lawStaged anchor offset rate s) :=
  (((regsOnly_wrTime _ _ s).trans (regsOnly_wrTime ..)).trans (regsOnly_wrReg ..)).trans (regsOnly_wrFld ..)

/-- Outside the registers of TB1's law nothing is staged. -/
theorem rdReg_lawStaged_other (anchor offset : Nat) (rate : Int) (s : State) {b : Nat} (h : b < lawA 1 0 ∨ lawA 1 0x20 ≤ b) :
    rdReg (lawStaged anchor offset rate s) b = rdReg s b := by
  have hofs (o : Nat) : lawA 1 o = lawA 1 0 + o := by
    unfold lawA timA
    omega
  rw [hofs 0x20] at h
  rw [lawStaged, rdReg_clrBit_other _ _ (by rw [hofs]; omega), rdReg_wrReg_other _ _ (by rw [hofs]; omega),
    rdReg_wrTime_other (by rw [hofs]; omega) (by rw [hofs]; omega) (by rw [hofs]; omega),
    rdReg_wrTime_other (by omega) (by omega) (by omega)]

theorem rdTime_lawStaged {anchor : Nat} (h : anchor < 2 ^ 48 * secUnits) (offset : Nat) (rate : Int) (s : State) :
    rdTime (lawStaged anchor offset rate s) (lawA 1 0) = anchor := by
  refine Eq.trans (rdTime_congr ?_ ?_ ?_) (rdTime_wrTime_same (lawA 1 0) h s)
  all_goals
    rw [lawStaged, rdReg_clrBit_other _ _ (by decide), rdReg_wrReg_other _ _ (by decide),
      rdReg_wrTime_other (by decide) (by decide) (by decide)]

theorem sreg_lawStaged (anchor offset : Nat) (rate : Int) (s : State) :
    sreg (lawStaged anchor offset rate s) (lawA 1 0x18) = (ofInt32 rate).toInt := by
  rw [sreg, lawStaged, rdReg_clrBit_other _ _ (by decide), rdReg_wrReg_same]

theorem rdBit_lawStaged (anchor offset : Nat) (rate : Int) (s : State) :
    rdBit (lawStaged anchor offset rate s) (lawA 1 0x1C) 0 = false := rdBit_clrBit_same ..

/-- A law that is staged for a time ahead and armed, at a device that sends it to no other. -/
theorem lawArm_lawStaged {s : State} {anchor : Nat} (hoff : s.chip.devState ≠ .off) (halone : assigned s = false)
    (hanchor : anchor < 2 ^ 48 * secUnits) (hahead : tb0Now s ≤ anchor) (offset : Nat) (rate : Int) :
    lawArm 1 (lawStaged anchor offset rate s) = setBit (lawStaged anchor offset rate s) (lawA 1 0x1C) 0 := by
  have hregs := regsOnly_lawStaged anchor offset rate s
  have haddr : assigned (lawStaged anchor offset rate s) = false :=
    (rdBit_congr (rdReg_lawStaged_other anchor offset rate s (.inr (by decide))) 12).trans halone
  refine lawArm_ahead (by decide) (by decide) (by rwa [hregs.chip]) (rdBit_lawStaged ..) (.inr haddr) ?_
  rwa [hregs.tb0Now, rdTime_lawStaged hanchor]

theorem armsTB1_lawStaged {s : State} {anchor lim : Nat} {rate : Int} (hanchor : anchor < 2 ^ 48 * secUnits)
    (hrate : (ofInt32 rate).toInt.natAbs ≤ lim) (offset : Nat) :
    ArmsTB1 s (setBit (lawStaged anchor offset rate s) (lawA 1 0x1C) 0) anchor lim where
  frame := (regsOnly_lawStaged ..).trans (regsOnly_wrFld ..)
  armed := rdBit_setBit_same _ _ (by decide)
  anchor := by
    refine (rdTime_congr ?_ ?_ ?_).trans (rdTime_lawStaged hanchor offset rate s)
    all_goals exact rdReg_setBit_other _ 0 (by decide)
  rate := by
    rw [sreg, rdReg_setBit_other _ 0 (by decide), ← sreg, sreg_lawStaged]
    exact hrate
  below b hb := by
    have hctrl : lawA 1 0 < lawA 1 0x1C := by decide
    rw [rdReg_setBit_other _ 0 (by omega), rdReg_lawStaged_other _ _ _ _ (.inl hb)]

/-- Without an intended second the root continues TB1 from its reading at the ANCHOR (R434). -/
theorem ppsLaw_untimed {s : State} (h : taiValid s = false) (p : Nat) (e ref : Int) :
    ∃ offset, ppsLaw p e ref s = lawArm 1 (lawStaged (p + rdFld s (timA 0x6C) 0 16 * 1000 * nsUnit) offset
      (clamped (rdReg s (timA 0x64)).toNat (ref - quot (e * 2 ^ 37) secUnits)) s) := by
  unfold ppsLaw
  simp only [h, Bool.false_eq_true, if_false]
  exact ⟨_, rfl⟩

/-- TIM_SLEW limits the rate of the law, LAW_LEAD sets its ANCHOR (R434). -/
theorem ppsLaw_armsTB1 {s : State} (hoff : s.chip.devState ≠ .off) (halone : assigned s = false) (htai : taiValid s = false)
    {p : Nat} (hanchor : p + rdFld s (timA 0x6C) 0 16 * 1000 * nsUnit < 2 ^ 48 * secUnits) (hnow : tb0Now s ≤ p)
    (hlim : (rdReg s (timA 0x64)).toNat < 2 ^ 31) (e ref : Int) :
    ArmsTB1 s (ppsLaw p e ref s) (p + rdFld s (timA 0x6C) 0 16 * 1000 * nsUnit) (rdReg s (timA 0x64)).toNat := by
  obtain ⟨offset, hlaw⟩ := ppsLaw_untimed htai p e ref
  have hrate := natAbs_clamped_le (rdReg s (timA 0x64)).toNat (ref - quot (e * 2 ^ 37) secUnits)
  rw [← toInt_clamped hlim] at hrate
  rw [hlaw, lawArm_lawStaged hoff halone hanchor (by omega)]
  exact armsTB1_lawStaged hanchor hrate offset

/-! ### An edge (R434, R440) -/

theorem moveTime_undelayed {t : Nat} (h : t < 2 ^ 48 * secUnits) : moveTime t (-(psTime 0)) = t := by
  have hdelay : psTime 0 = 0 := rfl
  rw [moveTime, hdelay, Int.neg_zero, Int.add_zero, ← Int.natCast_emod, Int.toNat_natCast, Nat.mod_eq_of_lt h]

/-- An edge is seen at a time. -/
def edgeSeen (p : Nat) (s : State) : State :=
  setBit { s with tim := { s.tim with ppsSeen := true, ppsLast := some p } } timStat 6

/-- An edge is stamped, and its error shown in ps. -/
def edgeShown (p : Nat) (e : Int) (s : State) : State :=
  let ps := quot (e * 1000) 65536
  let lim : Int := 2 ^ 31
  wrReg (wrTime (timA 0x80) p s) (timA 0x8C) (ofInt32 (max (-lim) (min (lim - 1) ps)))

/-- Good seconds are counted: eight of them lock TB1. -/
def edgeCounted (e : Int) (s : State) : State :=
  let n := if e.natAbs ≤ 20 * nsUnit then s.tim.ppsGood + 1 else 0
  whenDo (decide (8 ≤ n)) (fun x => setBit x timStat 5) { s with tim := { s.tim with ppsGood := n } }

/-- Nearest whole second: the signed fraction of a time (R434, R440). -/
def foldedFraction (p : Nat) : Int :=
  if secUnits < 2 * (p % secUnits) then ((p % secUnits : Nat) : Int) - secUnits else ((p % secUnits : Nat) : Int)

theorem timeReach_crt (t : Nat) (s : State) : (timeReach t s).crt = s.crt := by rw [timeReach_frame]

theorem ppsDelay_timeReach (t : Nat) (s : State) : (timeReach t s).tim.ppsDelay = s.tim.ppsDelay := by
  unfold timeReach
  split <;> rfl

theorem rdReg_edgeSeen_other (p : Nat) (s : State) {b : Nat} (h : b ≠ timStat) : rdReg (edgeSeen p s) b = rdReg s b :=
  rdReg_setBit_other _ 6 h

/-- What an edge that is seen does (R434, R440). -/
def edgeTaken (p : Nat) (ref : Int) (s : State) : State :=
  let x := edgeSeen p s
  if s.crt.isRoot ∧ bit (timSrc s) 8 then
    let e := ppsError x ((tbAt x 1 p).getD 0)
    ppsLaw p e ref (edgeCounted e (edgeShown p e x))
  else if fld (timSrc s) 0 2 = 2 then
    { x with tim := { x.tim with sec := { est := [], theta := some (foldedFraction p), silent := 0 } } }
  else x

theorem ppsEdge_eq (t : Nat) (ref : Int) (s : State) :
    ppsEdge t ref s = if (timeReach t s).chip.devState = .off ∨ (timeReach t s).chip.shellUp = false then s else
      edgeTaken (moveTime t (-(psTime (timeReach t s).tim.ppsDelay))) ref (timeReach t s) := rfl

/-- A device whose shell is up, and whose PPS input has no delay, sees the edge when it comes. -/
theorem ppsEdge_seen {s : State} {p : Nat} (hoff : s.chip.devState ≠ .off) (hshell : s.chip.shellUp = true)
    (hdelay : s.tim.ppsDelay = 0) (hp : p < 2 ^ 48 * secUnits) (ref : Int) :
    ppsEdge p ref s = edgeTaken p ref (timeReach p s) := by
  have hopen : ¬ ((timeReach p s).chip.devState = .off ∨ (timeReach p s).chip.shellUp = false) := by
    rw [timeReach_chip, hshell]
    simp [hoff]
  rw [ppsEdge_eq, if_neg hopen, ppsDelay_timeReach, hdelay, moveTime_undelayed hp]

/-- At a root with TB1_SRC = 1 an edge is stamped and counted, and the root forms a law of TB1. -/
theorem edgeTaken_root {s : State} (hroot : s.crt.isRoot = true) (hsrc : rdBit s (timA 0x68) 8 = true) (p : Nat) (ref : Int) :
    ∃ e, edgeTaken p ref s = ppsLaw p e ref (edgeCounted e (edgeShown p e (edgeSeen p s))) :=
  ⟨_, if_pos ⟨hroot, hsrc⟩⟩

/-- Away from the root a PPS secondary takes the folded fraction of the second as its offset. -/
theorem edgeTaken_secondary {s : State} (hroot : s.crt.isRoot = false) (hsrc : rdFld s (timA 0x68) 0 2 = 2) (p : Nat) (ref : Int) :
    edgeTaken p ref s = { edgeSeen p s with
      tim := { (edgeSeen p s).tim with sec := { est := [], theta := some (foldedFraction p), silent := 0 } } } := by
  have haway : ¬ (s.crt.isRoot = true ∧ bit (timSrc s) 8 = true) := by simp [hroot]
  exact (if_neg haway).trans (if_pos hsrc)

theorem rdBit_edgeSeen (p : Nat) (s : State) : rdBit (edgeSeen p s) timStat 6 = true := rdBit_setBit_same _ _ (by decide)

/-- What a stamp leaves: TIM_STATUS but the lock of TB1, the clock and the laws, and the registers beside the stamp. -/
structure Stamped (s t : State) (p : Nat) : Prop where
  stamp : rdTime t (timA 0x80) = p
  status : ∀ i, i ≠ 5 → rdBit t timStat i = rdBit s timStat i
  chip : t.chip = s.chip
  tb0 : t.tim.tb0 = s.tim.tb0
  laws : t.tim.laws = s.tim.laws
  other : ∀ b, b ≠ timStat → b < timA 0x80 ∨ timA 0x90 ≤ b → rdReg t b = rdReg s b

theorem Stamped.lock {s x : State} {p : Nat} (h : Stamped s x p) (b : Bool) :
    Stamped s (whenDo b (fun y => setBit y timStat 5) x) p := by
  cases b
  · exact h
  · exact {
      stamp := by
        refine (rdTime_congr ?_ ?_ ?_).trans h.stamp
        all_goals exact rdReg_setBit_other _ 5 (by decide)
      status := fun i hi => (rdBit_setBit_other x timStat hi).trans (h.status i hi)
      chip := h.chip
      tb0 := h.tb0
      laws := h.laws
      other := fun b hb hfar => (rdReg_setBit_other x 5 hb).trans (h.other b hb hfar) }

theorem Stamped.counted {s x : State} {p : Nat} (h : Stamped s x p) (e : Int) : Stamped s (edgeCounted e x) p := by
  unfold edgeCounted
  extract_lets n
  exact Stamped.lock (x := { x with tim := { x.tim with ppsGood := n } })
    ⟨h.stamp, h.status, h.chip, h.tb0, h.laws, h.other⟩ (decide (8 ≤ n))

theorem stamped_edgeShown {p : Nat} (hp : p < 2 ^ 48 * secUnits) (e : Int) (s : State) : Stamped s (edgeShown p e s) p := by
  have hregs : RegsOnly s (edgeShown p e s) := (regsOnly_wrTime ..).trans (regsOnly_wrReg ..)
  have hother (b : Nat) (hb : b < timA 0x80 ∨ timA 0x90 ≤ b) : rdReg (edgeShown p e s) b = rdReg s b := by
    unfold timA at hb
    rw [edgeShown, rdReg_wrReg_other _ _ (by unfold timA; omega), rdReg_wrTime_other] <;> (unfold timA; omega)
  exact {
    stamp := by
      refine (rdTime_congr ?_ ?_ ?_).trans (rdTime_wrTime_same (timA 0x80) hp s)
      all_goals exact rdReg_wrReg_other _ _ (by decide)
    status := fun i _ => rdBit_congr (hother timStat (.inl (by decide))) i
    chip := hregs.chip
    tb0 := congrArg TimeKeep.tb0 hregs.tim
    laws := congrArg TimeKeep.laws hregs.tim
    other := fun b _ hb => hother b hb }

/-- What the root does at an edge (R434). -/
structure RootEdge (s t : State) (p : Nat) : Prop where
  seen : rdBit t timStat 6 = true
  stamp : rdTime t (timA 0x80) = p
  armed : rdBit t (lawA 1 0x1C) 0 = true
  anchor : rdTime t (lawA 1 0) = p + rdFld s (timA 0x6C) 0 16 * 1000 * nsUnit
  rate : (sreg t (lawA 1 0x18)).natAbs ≤ (rdReg s (timA 0x64)).toNat
  laws : t.tim.laws = s.tim.laws
  now : tb0Now t = p

theorem rootEdge_ppsEdge {s : State} {p : Nat} (hoff : s.chip.devState ≠ .off) (hshell : s.chip.shellUp = true)
    (hdelay : s.tim.ppsDelay = 0) (hnow : tb0Now s ≤ p) (hroot : s.crt.isRoot = true) (hsrc : rdBit s (timA 0x68) 8 = true)
    (halone : assigned s = false) (htai : rdBit s (timA 0x74) 31 = false)
    (hanchor : p + rdFld s (timA 0x6C) 0 16 * 1000 * nsUnit < 2 ^ 48 * secUnits)
    (hlim : (rdReg s (timA 0x64)).toNat < 2 ^ 31) (ref : Int) : RootEdge s (ppsEdge p ref s) p := by
  have hp : p < 2 ^ 48 * secUnits := by omega
  obtain ⟨e, hedge⟩ := edgeTaken_root (s := timeReach p s) ((congrArg Crate.isRoot (timeReach_crt p s)).trans hroot)
    ((rdBit_congr (rdReg_timeReach p s _) 8).trans hsrc) p ref
  have hstamped := (stamped_edgeShown hp e (edgeSeen p (timeReach p s))).counted e
  have hreach : tb0Now (timeReach p s) = p := (tb0Now_timeReach p s).trans (by omega)
  rw [ppsEdge_seen hoff hshell hdelay hp, hedge]
  generalize edgeCounted e (edgeShown p e (edgeSeen p (timeReach p s))) = x at hstamped ⊢
  have hregs (b : Nat) (hb : b ≠ timStat) (hfar : b < timA 0x80 ∨ timA 0x90 ≤ b) : rdReg x b = rdReg s b := by
    rw [hstamped.other b hb hfar, rdReg_edgeSeen_other p _ hb, rdReg_timeReach]
  have hlead : rdFld x (timA 0x6C) 0 16 = rdFld s (timA 0x6C) 0 16 :=
    rdFld_congr (hregs _ (by decide) (.inl (by decide))) 0 16
  have hslew : rdReg x (timA 0x64) = rdReg s (timA 0x64) := hregs _ (by decide) (.inl (by decide))
  have hclock : tb0Now x = p := (congrArg (· / 2 ^ 32) hstamped.tb0).trans hreach
  have hchip : x.chip = s.chip := hstamped.chip.trans (timeReach_chip p s)
  have harms : ArmsTB1 x (ppsLaw p e ref x) (p + rdFld s (timA 0x6C) 0 16 * 1000 * nsUnit) (rdReg s (timA 0x64)).toNat := by
    rw [← hlead, ← hslew]
    refine ppsLaw_armsTB1 (by rwa [hchip]) ?_ ?_ (by rwa [hlead]) (by omega) (by rwa [hslew]) e ref
    · exact (rdBit_congr (hregs _ (by decide) (.inr (by decide))) 12).trans halone
    · exact (rdBit_congr (hregs _ (by decide) (.inl (by decide))) 31).trans htai
  exact {
    seen := by
      rw [rdBit_congr (harms.below timStat (by decide)), hstamped.status 6 (by decide)]
      exact rdBit_edgeSeen ..
    stamp := by
      refine (rdTime_congr ?_ ?_ ?_).trans hstamped.stamp
      all_goals exact harms.below _ (by decide)
    armed := harms.armed
    anchor := harms.anchor
    rate := harms.rate
    laws := by
      rw [harms.frame.tim, hstamped.laws]
      exact laws_timeReach p s
    now := harms.frame.tb0Now.trans hclock }

/-! ### No edge for 1.5 s (R434, R441, R449) -/

/-- The edges have stopped. -/
def edgesStopped (s : State) : State :=
  clrBit { s with tim := { s.tim with ppsSeen := false, ppsLast := none, ppsGood := 0 } } timStat 6

theorem ppsLoss_seen {s : State} (h : s.tim.ppsSeen = true) :
    ppsLoss s = if s.crt.isRoot ∧ rdBit s (timA 0x68) 8 then clrBit (edgesStopped s) timStat 5 else edgesStopped s := by
  rw [ppsLoss, if_pos h]
  rfl

/-- PPS_SEEN clears, the root's TB1 lock with it; no other register changes. -/
theorem ppsLoss_effect {s : State} (h : s.tim.ppsSeen = true) :
    rdBit (ppsLoss s) timStat 6 = false ∧ (ppsLoss s).tim.ppsSeen = false ∧
      (s.crt.isRoot = true → rdBit s (timA 0x68) 8 = true → rdBit (ppsLoss s) timStat 5 = false) ∧
      (s.crt.isRoot = false → rdBit (ppsLoss s) timStat 5 = rdBit s timStat 5) ∧
      ∀ a, a ≠ timStat → rdReg (ppsLoss s) a = rdReg s a := by
  have hseen : rdBit (edgesStopped s) timStat 6 = false := rdBit_clrBit_same ..
  have hother (a : Nat) (ha : a ≠ timStat) : rdReg (edgesStopped s) a = rdReg s a := rdReg_clrBit_other _ 6 ha
  rw [ppsLoss_seen h]
  split
  case isTrue hroot =>
    refine ⟨(rdBit_clrBit_other _ _ (by decide)).trans hseen, rfl, fun _ _ => rdBit_clrBit_same .., fun hr => ?_,
      fun a ha => (rdReg_clrBit_other _ 5 ha).trans (hother a ha)⟩
    rw [hr] at hroot
    exact absurd hroot.1 Bool.false_ne_true
  case isFalse hroot =>
    exact ⟨hseen, rfl, fun hr hsrc => absurd ⟨hr, hsrc⟩ hroot, fun _ => rdBit_clrBit_other _ _ (by decide), hother⟩

end Sys2Proof.Machine
end

section
/-! PROOFS. Control of a generator: a write of TIM_PLSn_CTRL that arms or disarms it, and the edges of its pulses (R445, R446,
R448). -/

namespace Sys2Proof.Machine

/-! ### Bit 0 of the word written -/

theorem bit_one {i : Nat} (h : i ≠ 0) : bit (1 : Word) i = false := by
  have hbit : bit (1 : Word) i = (decide (i < 32) && Nat.testBit 1 i) := bit_ofNat 32 1 i
  rw [hbit, Nat.testBit_one_eq_true_iff_self_eq_zero.not.2 h |> Bool.eq_false_iff.2, Bool.and_false]

theorem bit_or_one (v : Word) {i : Nat} (h : i ≠ 0) : bit (v ||| 1) i = bit v i := by
  rw [bit_or, bit_one h, Bool.or_false]

theorem bit_or_one_zero (v : Word) : bit (v ||| 1) 0 = true := by
  rw [bit_or]
  exact Bool.or_true _

theorem bit_clear_one (v : Word) {i : Nat} (h : i ≠ 0) (hi : i < 32) : bit (v &&& ~~~ 1#32) i = bit v i := by
  have hone : (1#32).getLsbD i = false := bit_one h
  rw [bit, BitVec.getLsbD_and, BitVec.getLsbD_not, hone, decide_eq_true hi]
  exact Bool.and_true _

theorem bit_clear_one_zero (v : Word) : bit (v &&& ~~~ 1#32) 0 = false := by
  rw [bit, BitVec.getLsbD_and]
  exact Bool.and_false _

theorem bit_and {w : Nat} (u v : BitVec w) (i : Nat) : bit (u &&& v) i = (bit u i && bit v i) := BitVec.getLsbD_and

theorem bit_not {w : Nat} (v : BitVec w) {i : Nat} (h : i < w) : bit (~~~ v) i = !bit v i := by
  rw [bit, BitVec.getLsbD_not, decide_eq_true h, Bool.true_and, bit]

/-- Two words have the same field where they have the same bits. -/
theorem fld_eq_of_bits {w : Nat} {u v : BitVec w} {lo n : Nat} (h : ∀ i, lo ≤ i → i < lo + n → bit u i = bit v i) :
    fld u lo n = fld v lo n := by
  apply Nat.eq_of_testBit_eq
  intro i
  rw [fld_testBit, fld_testBit]
  by_cases hi : i < n
  · rw [← bit, h (lo + i) (by omega) (by omega), bit]
  · simp [hi]

theorem fld_or_one (v : Word) {lo : Nat} (h : lo ≠ 0) (n : Nat) : fld (v ||| 1) lo n = fld v lo n :=
  fld_eq_of_bits fun _ hi _ => bit_or_one v (by omega)

theorem fld_clear_one (v : Word) {lo n : Nat} (h : lo ≠ 0) (hn : lo + n ≤ 32) : fld (v &&& ~~~ 1#32) lo n = fld v lo n :=
  fld_eq_of_bits fun _ hi _ => bit_clear_one v (by omega) (by omega)

/-- ARM, TBSEL and POL together. -/
theorem fld_control {v : Word} (h : bit v 0 = true) : fld v 0 4 = 1 + 2 * fld v 1 3 := by
  have hodd : v.toNat % 2 = 1 := by
    have htest : v.toNat.testBit 0 = true := h
    simpa [Nat.testBit_zero] using htest
  simp only [fld, Nat.shiftRight_zero, Nat.shiftRight_succ]
  omega

/-! ### The way to TIM_PLSn_CTRL (R446) -/

theorem findRow_plsCtrl {n : Nat} (h : n < 8) :
    ∃ r, findRow timRows (0x200 + 32 * n + 0x1C) = some r ∧ r.rule = .plain := by
  interval_cases n
  all_goals exact ⟨_, rfl, rfl⟩

/-- A write of TIM_PLSn_CTRL is done as the generator says, or refused. -/
theorem request_plsCtrl {s : State} {who : Requester} {n : Nat} (hn : n < 8) (h : Reaches s who (plsCtrl n)) (v : Word) :
    request who (plsCtrl n) true v s =
      answer who true (writeOpt s (plsCtrlWrite n v s)).1 0 (writeOpt s (plsCtrlWrite n v s)).2 := by
  obtain ⟨r, hrow, hrule⟩ := findRow_plsCtrl hn
  have hwrite : timWrite r (0x200 + 32 * n + 0x1C) v s = writeOpt s (plsCtrlWrite n v s) := by
    have hindex : (0x200 + 32 * n + 0x1C - 0x200) / 0x20 = n := by omega
    unfold timWrite
    dsimp only
    rw [if_neg (by omega), if_neg (by omega), if_pos (by omega), if_pos (by omega), hindex]
  rw [plsCtrl, plsA, request_timA h (by omega) hrow hrule, hwrite]

theorem exec_pulseArm {s : State} {who : Requester} {n : Nat} (hn : n < 8) (h : Reaches s who (plsCtrl n))
    (harm : rdBit s (plsCtrl n) 0 = false) (v : Word) :
    exec (.pulseArm who n v) s = .next (if plsAllowed s n (v ||| 1) then answer who true .ok 0 (pulseArm n (v ||| 1) s)
      else answer who true .error 0 s) := by
  have hwrite : plsCtrlWrite n (v ||| 1) s = if plsAllowed s n (v ||| 1) then some (pulseArm n (v ||| 1) s) else none := by
    rw [plsCtrlWrite, harm, if_neg Bool.false_ne_true, if_pos (bit_or_one_zero v)]
  have hexec : exec (.pulseArm who n v) s = .next (request who (plsCtrl n) true (v ||| 1) s) := congrArg _ (if_pos hn)
  rw [hexec, request_plsCtrl hn h, hwrite]
  cases plsAllowed s n (v ||| 1) <;> rfl

theorem exec_pulseDisarm {s : State} {who : Requester} {n : Nat} (hn : n < 8) (h : Reaches s who (plsCtrl n))
    (harm : rdBit s (plsCtrl n) 0 = true) (v : Word) :
    exec (.pulseDisarm who n v) s = .next (if plsDisarmRefused s n (v &&& ~~~ 1#32) then answer who true .error 0 s
      else answer who true .ok 0 (pulseDisarm n (v &&& ~~~ 1#32) s)) := by
  have hwrite : plsCtrlWrite n (v &&& ~~~ 1#32) s =
      if plsDisarmRefused s n (v &&& ~~~ 1#32) then none else some (pulseDisarm n (v &&& ~~~ 1#32) s) := by
    rw [plsCtrlWrite, harm, if_pos rfl, bit_clear_one_zero, if_neg Bool.false_ne_true]
  have hexec : exec (.pulseDisarm who n v) s = .next (request who (plsCtrl n) true (v &&& ~~~ 1#32) s) :=
    congrArg _ (if_pos hn)
  rw [hexec, request_plsCtrl hn h, hwrite]
  cases plsDisarmRefused s n (v &&& ~~~ 1#32) <;> rfl

/-! ### ARM (R446, R448) -/

/-- What R446 asks of a generator that is armed. -/
def ArmOk (s : State) (n : Nat) (v : Word) : Prop :=
  (s.chip.devState = .ready ∨ s.chip.devState = .running ∨ s.chip.devState = .held) ∧ 20 ≤ plsWidthRaw s n ∧
    (plsPeriodRaw s n = 0 ∨ plsWidthRaw s n + 20 ≤ plsPeriodRaw s n) ∧
    (fld v 1 2 = 0 ∨ ∃ q, mapGet none s.tim.laws (fld v 1 2) = some q)

theorem tbAt_isSome (s : State) (k t : Nat) : (tbAt s k t).isSome = true ↔ k = 0 ∨ ∃ q, mapGet none s.tim.laws k = some q := by
  unfold tbAt
  by_cases hk : k = 0
  · simp [hk]
  · simp [hk, Option.isSome_iff_exists]

theorem plsAllowed_iff {s : State} {n : Nat} (harm : rdBit s (plsCtrl n) 0 = false) (v : Word) :
    plsAllowed s n (v ||| 1) = true ↔ ArmOk s n v := by
  unfold plsAllowed ArmOk
  rw [fld_or_one v (by decide), ← tbAt_isSome s (fld v 1 2) (tb0Now s)]
  simp [harm, and_assoc, or_assoc]

/-- TIM_PLSn_CTRL of a generator that is armed with `v`: the flags DONE and LATE stay unless `v` clears them. -/
def armedWord (s : State) (n : Nat) (v : Word) : Word :=
  ((v ||| 1) &&& 0xF) ||| ((rdReg s (plsCtrl n) &&& 0x30) &&& ~~~ (v ||| 1))

/-- The generator is armed, its pulses counted from 0. -/
def armedGen (n : Nat) (v : Word) (s : State) : State :=
  putGen n { genOf s n with next := 0 } (wrReg s (plsCtrl n) (armedWord s n v))

theorem bit_armedWord (s : State) (n : Nat) (v : Word) {i : Nat} (hi : i < 32) :
    bit (armedWord s n v) i = ((bit (v ||| 1) i && Nat.testBit 0xF i) ||
      (rdBit s (plsCtrl n) i && Nat.testBit 0x30 i && !bit (v ||| 1) i)) := by
  have hcontrol : bit (0xF : Word) i = Nat.testBit 0xF i := by
    rw [← Bool.true_and (Nat.testBit 0xF i), ← decide_eq_true hi]
    exact bit_ofNat 32 0xF i
  have hflags : bit (0x30 : Word) i = Nat.testBit 0x30 i := by
    rw [← Bool.true_and (Nat.testBit 0x30 i), ← decide_eq_true hi]
    exact bit_ofNat 32 0x30 i
  rw [armedWord, bit_or, bit_and, bit_and, bit_and, bit_not _ hi, hcontrol, hflags, rdBit]

theorem fld_armedWord_control (s : State) (n : Nat) (v : Word) : fld (armedWord s n v) 0 4 = 1 + 2 * fld v 1 3 := by
  rw [← fld_or_one v (by decide), ← fld_control (bit_or_one_zero v)]
  refine fld_eq_of_bits fun i _ hi => ?_
  rw [bit_armedWord s n v (by omega)]
  interval_cases i <;> simp [Nat.testBit_eq_decide_div_mod_eq]

theorem fld_armedWord_missed (s : State) (n : Nat) (v : Word) : fld (armedWord s n v) 8 16 = 0 := by
  have hnone : fld (armedWord s n v) 8 16 = fld (0 : Word) 8 16 := by
    refine fld_eq_of_bits fun i hlow hi => ?_
    rw [bit_armedWord s n v (by omega)]
    interval_cases i <;> simp [Nat.testBit_eq_decide_div_mod_eq, bit]
  rw [hnone]
  decide

theorem bit_armedWord_late (s : State) (n : Nat) (v : Word) :
    bit (armedWord s n v) 4 = (rdBit s (plsCtrl n) 4 && !bit v 4) := by
  rw [bit_armedWord s n v (by decide), bit_or_one v (by decide)]
  simp [Nat.testBit_eq_decide_div_mod_eq]

theorem samePlan_armedGen (n : Nat) (v : Word) (s : State) : SamePlan s (armedGen n v s) n := samePlan_wrReg s n _

@[simp] theorem rdReg_armedGen_same (n : Nat) (v : Word) (s : State) : rdReg (armedGen n v s) (plsCtrl n) = armedWord s n v :=
  rdReg_wrReg_same ..

theorem rdReg_armedGen_other {n a : Nat} (h : a ≠ plsCtrl n) (v : Word) (s : State) :
    rdReg (armedGen n v s) a = rdReg s a := rdReg_wrReg_other s _ h

theorem genOf_armedGen_same (n : Nat) (v : Word) (s : State) : genOf (armedGen n v s) n = { genOf s n with next := 0 } :=
  genOf_putGen_same ..

theorem genOf_flagged (n a i k : Nat) (s : State) : genOf (clrBit (setBit s a i) a k) n = genOf s n := rfl

theorem genOf_armedGen_other {n j : Nat} (h : j ≠ n) (v : Word) (s : State) : genOf (armedGen n v s) j = genOf s j :=
  genOf_putGen_other h ..

/-- On TB0 the first pulse that an arming may fire is the first with 2 µs of lead. -/
theorem pulseArm_tb0 {s : State} {n : Nat} {v : Word} (hn : n < 8) (hallowed : plsAllowed s n (v ||| 1) = true)
    (hbase : fld v 1 2 = 0) :
    pulseArm n (v ||| 1) s =
      if plsAhead s n (tb0Now s + 2000 * nsUnit) = 0 then armedGen n v s
      else if plsPeriodRaw s n = 0 then clrBit (setBit (armedGen n v s) (plsCtrl n) 4) (plsCtrl n) 0
      else plsSkip n (plsAhead s n (tb0Now s + 2000 * nsUnit)) (setBit (armedGen n v s) (plsCtrl n) 4) := by
  have hopen : ¬ (8 ≤ n ∨ plsAllowed s n (v ||| 1) = false) := by
    rw [hallowed]
    simp [hn]
  have hahead (t : Nat) : plsAhead (armedGen n v s) n t = plsAhead s n t := by
    rw [plsAhead, plsStart_congr (samePlan_armedGen n v s), plsPeriodRaw_congr (samePlan_armedGen n v s), plsAhead]
  have hnow : tbAt (armedGen n v s) (fld (v ||| 1) 1 2) (tb0Now (armedGen n v s)) = some (tb0Now s) := by
    rw [fld_or_one v (by decide), tbAt, if_pos hbase]
    rfl
  rw [pulseArm, if_neg hopen, ← hahead]
  have hgen : putGen n { genOf (wrReg s (plsCtrl n) (armedWord s n v)) n with next := 0 }
      (wrReg s (plsCtrl n) (armedWord s n v)) = armedGen n v s := rfl
  unfold armedWord at hgen
  dsimp only
  rw [hgen, hnow, Option.getD_some]

theorem plsAhead_zero {s : State} {n t : Nat} (h : t ≤ plsStart s n) : plsAhead s n t = 0 := if_pos h

theorem plsAhead_single {s : State} {n t : Nat} (h : plsStart s n < t) (hsingle : plsPeriodRaw s n = 0) : plsAhead s n t = 1 := by
  unfold plsAhead
  dsimp only
  rw [if_neg (by omega), hsingle]
  rfl

/-! ### Disarming (R446, R448) -/

theorem plsDisarmRefused_iff {s : State} {n : Nat} (harm : rdBit s (plsCtrl n) 0 = true) (v : Word) :
    plsDisarmRefused s n (v &&& ~~~ 1#32) = true ↔ fld v 1 3 ≠ rdFld s (plsCtrl n) 1 3 := by
  rw [plsDisarmRefused, harm, fld_clear_one v (by decide) (by decide), Bool.true_and, decide_eq_true_iff]

/-- TIM_PLSn_CTRL of a generator that is disarmed with `v`. -/
def disarmedWord (s : State) (n : Nat) (v : Word) : Word :=
  (v &&& 0xE) ||| (rdReg s (plsCtrl n) &&& 0xFFFF40) ||| ((rdReg s (plsCtrl n) &&& 0x30) &&& ~~~ v)

theorem pulseDisarm_taken {s : State} {n : Nat} {v : Word} (hn : n < 8) (hoff : s.chip.devState ≠ .off)
    (h : plsDisarmRefused s n v = false) : pulseDisarm n v s = wrReg s (plsCtrl n) (disarmedWord s n v) := by
  have hopen : ¬ (8 ≤ n ∨ s.chip.devState = .off ∨ plsDisarmRefused s n v = true) := by
    rw [h]
    simp [hn, hoff]
  exact if_neg hopen

/-- The low four bits of the word: no ARM, and TBSEL and POL as written. -/
theorem bit_disarmedWord (s : State) (n : Nat) (v : Word) {i : Nat} (hi : i < 4) :
    bit (disarmedWord s n v) i = (bit v i && decide (i ≠ 0)) := by
  rw [disarmedWord, bit_or, bit_or, bit_and, bit_and, bit_and, bit_and]
  interval_cases i <;> simp [bit]

/-! ### Edges and ends (R445, R448) -/

/-- The generator has fired its next pulse at the present time. -/
def pulseFired (n : Nat) (s : State) : State :=
  setBit (putGen n { genOf s n with
    next := (genOf s n).next + 1, high := true, endAt := tb0Now s + unit50 (plsWidthRaw s n) } s) (plsCtrl n) 6

/-- On TB0 an armed generator fires when TB0 reaches the time of the pulse, and its train may then be over. -/
theorem pulseEdge_tb0 {s : State} {n : Nat} (hn : n < 8) (harm : rdBit s (plsCtrl n) 0 = true) (hbase : rdFld s (plsCtrl n) 1 2 = 0) :
    pulseEdge n s = plsEndTrain n (pulseFired n (timeReach (plsTime s n (genOf s n).next) s)) := by
  have hopen : ¬ (8 ≤ n ∨ rdBit s (plsCtrl n) 0 = false) := by
    rw [harm]
    simp [hn]
  have hgen (t : Nat) : genOf (timeReach t s) n = genOf s n := by rw [genOf, gens_timeReach, genOf]
  have hwidth (t : Nat) : plsWidthRaw (timeReach t s) n = plsWidthRaw s n := congrArg BitVec.toNat (rdReg_timeReach t s _)
  rw [pulseEdge, if_neg hopen, pulseFired, hgen, hwidth]
  dsimp only
  rw [plsBase, if_pos hbase]

theorem rdBit_pulseFired {n i : Nat} (h : i ≠ 6) (s : State) : rdBit (pulseFired n s) (plsCtrl n) i = rdBit s (plsCtrl n) i :=
  rdBit_setBit_other _ _ h

theorem rdBit_pulseFired_out (n : Nat) (s : State) : rdBit (pulseFired n s) (plsCtrl n) 6 = true :=
  rdBit_setBit_same _ _ (by decide)

theorem genOf_pulseFired (n : Nat) (s : State) : genOf (pulseFired n s) n = { genOf s n with
    next := (genOf s n).next + 1, high := true, endAt := tb0Now s + unit50 (plsWidthRaw s n) } := genOf_putGen_same ..

theorem samePlan_pulseFired (n : Nat) (s : State) : SamePlan s (pulseFired n s) n :=
  fun _ ho => rdReg_setBit_other _ 6 (plsA_ne n ho)

theorem tb0Now_pulseFired (n : Nat) (s : State) : tb0Now (pulseFired n s) = tb0Now s := rfl
theorem pulseFired_spr (n : Nat) (s : State) : (pulseFired n s).spr = s.spr := rfl
theorem pulseFired_cl (n : Nat) (s : State) : (pulseFired n s).cl = s.cl := rfl

/-- The end of a train is a change of the control register alone. -/
theorem plsEndTrain_frame (n : Nat) (s : State) :
    RegsOnly s (plsEndTrain n s) ∧ rdBit (plsEndTrain n s) (plsCtrl n) 6 = rdBit s (plsCtrl n) 6 := by
  rcases plsEndTrain_cases n s with h | h
  · rw [h]
    exact ⟨rfl, rfl⟩
  · rw [h]
    exact ⟨(regsOnly_wrFld ..).trans (regsOnly_wrFld ..), (trainDone_flags n s).2.2⟩

/-- The pulse in progress is over: `g` is the generator before. -/
def pulseOver (n : Nat) (g : PulseGen) (s : State) : State := clrBit (putGen n { g with high := false } s) (plsCtrl n) 6

theorem genOf_pulseOver (n : Nat) (g : PulseGen) (s : State) : genOf (pulseOver n g s) n = { g with high := false } :=
  genOf_putGen_same ..

theorem rdBit_pulseOver (n : Nat) (g : PulseGen) (s : State) : rdBit (pulseOver n g s) (plsCtrl n) 6 = false :=
  rdBit_clrBit_same ..

theorem tb0Now_pulseOver (n : Nat) (g : PulseGen) (s : State) : tb0Now (pulseOver n g s) = tb0Now s := rfl

/-- A pulse ends when TB0 reaches its end. -/
theorem pulseEnd_high {s : State} {n : Nat} (hn : n < 8) (h : (genOf s n).high = true) :
    pulseEnd n s = pulseOver n (genOf s n) (timeReach (genOf s n).endAt s) := by
  have hopen : ¬ (8 ≤ n ∨ (genOf s n).high = false) := by
    rw [h]
    simp [hn]
  exact if_neg hopen

end Sys2Proof.Machine
end

section
/-! PROOFS. Laws, PPS and pulse outputs: the statement of the chapter (R432, R434, R445, R446, R448). -/

namespace Sys2Proof.Machine

/-- In `x` generator `n` has fired its next pulse; whether its train is then over is left to be judged (R445). -/
structure Fires (s x : State) (n : Nat) : Prop where
  edge : pulseEdge n s = plsEndTrain n x
  next : (genOf x n).next = (genOf s n).next + 1
  high : (genOf x n).high = true
  now : tb0Now x = max (tb0Now s) (plsTime s n (genOf s n).next)
  endAt : (genOf x n).endAt = tb0Now x + unit50 (plsWidthRaw s n)
  armed : rdBit x (plsCtrl n) 0 = true
  out : rdBit x (plsCtrl n) 6 = true
  total : plsTotal x n = plsTotal s n
  spr : x.spr = s.spr
  cl : x.cl = s.cl

theorem pulseEdge_fires {s : State} {n : Nat} (hn : n < 8) (harm : rdBit s (plsCtrl n) 0 = true)
    (hbase : rdFld s (plsCtrl n) 1 2 = 0) : Fires s (pulseFired n (timeReach (plsTime s n (genOf s n).next) s)) n where
  edge := pulseEdge_tb0 hn harm hbase
  next := by rw [genOf_pulseFired, genOf, gens_timeReach, ← genOf]
  high := by rw [genOf_pulseFired]
  now := by rw [tb0Now_pulseFired, tb0Now_timeReach]
  endAt := by rw [genOf_pulseFired, tb0Now_pulseFired, plsWidthRaw, rdReg_timeReach, ← plsWidthRaw]
  armed := by
    rw [rdBit_pulseFired (by decide), rdBit, rdReg_timeReach]
    exact harm
  out := rdBit_pulseFired_out ..
  total := by
    have hplan : SamePlan s (timeReach (plsTime s n (genOf s n).next) s) n := fun o _ => rdReg_timeReach ..
    rw [plsTotal_congr (samePlan_pulseFired n _), plsTotal_congr hplan]
  spr := by rw [pulseFired_spr, timeReach_spr]
  cl := by rw [pulseFired_cl, timeReach_cl]

end Sys2Proof.Machine

open Sys2Proof Sys2Proof.Machine

/-- Settles O45: a law by `lawArm_ahead`, `lawArm_late` and `lawForce_starts`, an edge of PPS by `rootEdge_ppsEdge` and
`edgeTaken_secondary`, its absence by `ppsLoss_effect`; pulses by `pulseArm_tb0`, `pulseDisarm_taken`, `pulseEdge_fires` and
`pulseEnd_high`. That TB0 reaches the time of the command (tb0Now after LAW_IN_FORCE, PPS_EDGE, PULSE_EDGE and PULSE_END) is
assumption log 64. -/
theorem lawsPpsAndPulseOutputs : Obligations.LawsPpsAndPulseOutputs := by
  refine ⟨⟨?lawArm, ?lawInForce, ?edge, ?loss⟩, ?arm, ?disarm, ?pulse, ?ending⟩
  case lawArm =>
    intro s who k hlow hhigh hreach harm halone
    refine ⟨fun htime => ⟨_, exec_lawArm hlow hhigh hreach, ?_⟩, fun htime => ⟨_, exec_lawArm hlow hhigh hreach, ?_⟩⟩
    · rw [lawArm_ahead hlow hhigh hreach.not_off harm halone htime]
      exact ⟨rdBit_setBit_same _ _ (by decide), setBit_onlyRegs ..⟩
    · exact lawArm_late hlow hhigh hreach.not_off harm halone htime
  case lawInForce =>
    intro s k hlow hhigh harm htime
    have hstarts := lawForce_starts hhigh (timeReach (rdTime s (lawA k 0)) s)
    have hstaged : stagedLaw (timeReach (rdTime s (lawA k 0)) s) k = stagedLaw s k := stagedLaw_congr fun _ _ => rdReg_timeReach ..
    refine ⟨_, congrArg Host.Outcome.next (lawInForce_armed hlow hhigh harm), hstarts.disarmed, ?_, fun x => ?_, fun j hj x => ?_⟩
    · rw [hstarts.tb0Now_eq, tb0Now_timeReach]
      omega
    · rw [tbAt_of_law (by omega) hstarts.law_same, hstaged]
      rfl
    · refine tbAt_congr ?_ x
      rw [hstarts.law_other hj, laws_timeReach]
  case edge =>
    intro s p ref hoff hshell hdelay hnow hp
    refine ⟨fun hroot hsrc halone htai _ hfit hlim => ?_, fun hroot hsrc => ?_⟩
    · have hlead : rdFld s (timA 0x6C) 0 16 ≤ 65535 := Nat.le_of_lt_succ (Nat.mod_lt _ (by decide))
      have hanchor : p + rdFld s (timA 0x6C) 0 16 * 1000 * nsUnit < 2 ^ 48 * secUnits :=
        Nat.lt_of_le_of_lt (Nat.add_le_add_left (Nat.mul_le_mul_right _ (Nat.mul_le_mul_right _ hlead)) p) hfit
      obtain ⟨hseen, hstamp, harmed, hfrom, hrate, hlaws, hclock⟩ :=
        rootEdge_ppsEdge hoff hshell hdelay hnow hroot hsrc halone htai hanchor hlim ref
      exact ⟨_, rfl, hseen, hstamp, harmed, hfrom, hrate, hlaws, hclock⟩
    · have htaken := edgeTaken_secondary (s := timeReach p s) ((congrArg Crate.isRoot (timeReach_crt p s)).trans hroot)
        ((rdFld_congr (rdReg_timeReach p s _) 0 2).trans hsrc) p ref
      rw [← ppsEdge_seen hoff hshell hdelay hp] at htaken
      exact ⟨_, congrArg Host.Outcome.next htaken, rdBit_edgeSeen p (timeReach p s), rfl, rfl⟩
  case loss =>
    intro s hseen
    exact ⟨_, rfl, ppsLoss_effect hseen⟩
  case arm =>
    intro s who n v hn hreach harm
    have hexec := exec_pulseArm hn hreach harm v
    have hiff := plsAllowed_iff harm v
    refine ⟨fun hrefused => ?_, fun hok hbase htime => ?_, fun hok hbase htime hsingle => ?_⟩
    · rw [if_neg (hiff.not.2 hrefused)] at hexec
      exact hexec
    · have hallowed := hiff.2 hok
      have hnow : plsAhead s n (tb0Now s + 2000 * nsUnit) = 0 := plsAhead_zero htime
      rw [if_pos hallowed, pulseArm_tb0 hn hallowed hbase, hnow, if_pos rfl] at hexec
      refine ⟨_, hexec, ?_, ?_, ?_, ?_, fun j hj => genOf_armedGen_other hj v s, fun a ha => rdReg_armedGen_other ha v s⟩
      · rw [rdFld, rdReg_armedGen_same, fld_armedWord_control]
      · rw [rdFld, rdReg_armedGen_same, fld_armedWord_missed]
      · rw [genOf_armedGen_same]
      · rw [rdBit, rdReg_armedGen_same, bit_armedWord_late]
    · have hallowed := hiff.2 hok
      have hpast : plsAhead s n (tb0Now s + 2000 * nsUnit) = 1 := plsAhead_single htime hsingle
      rw [if_pos hallowed, pulseArm_tb0 hn hallowed hbase, hpast, if_neg (by decide), if_pos hsingle] at hexec
      refine ⟨_, hexec, rdBit_clrBit_same .., ?_, ?_⟩
      · rw [rdBit_clrBit_other _ _ (by decide), rdBit_setBit_same _ _ (by decide)]
      · rw [genOf_flagged, genOf_armedGen_same]
  case disarm =>
    intro s who n v hn hreach harm
    have hexec := exec_pulseDisarm hn hreach harm v
    have hiff := plsDisarmRefused_iff harm v
    refine ⟨fun hother => ?_, fun hsame => ?_⟩
    · rw [if_pos (hiff.2 hother)] at hexec
      exact hexec
    · have htaken : plsDisarmRefused s n (v &&& ~~~ 1#32) = false := Bool.eq_false_iff.2 (hiff.not.2 (not_not.2 hsame))
      rw [htaken, if_neg Bool.false_ne_true, pulseDisarm_taken hn hreach.not_off htaken] at hexec
      refine ⟨_, hexec, ?_, ?_, rfl, fun a ha => rdReg_wrReg_other _ _ ha⟩
      · rw [rdBit, rdReg_wrReg_same, bit_disarmedWord _ _ _ (by decide)]
        exact Bool.and_false _
      · rw [rdFld, rdReg_wrReg_same, ← fld_clear_one v (by decide) (by decide)]
        refine fld_eq_of_bits fun i hlow hi => ?_
        rw [bit_disarmedWord _ _ _ (by omega), decide_eq_true (by omega : i ≠ 0), Bool.and_true]
  case pulse =>
    intro s n hn harm hbase
    have hfires := pulseEdge_fires hn harm hbase
    generalize pulseFired n (timeReach (plsTime s n (genOf s n).next) s) = x at hfires
    obtain ⟨hedge, hnext, hhigh, hclock, hend, hstill, hout, htotal, hspr, hcl⟩ := hfires
    obtain ⟨hframe, hlevel⟩ := plsEndTrain_frame n x
    have hgen : genOf (plsEndTrain n x) n = genOf x n := genOf_congr hframe.tim n
    rw [← hframe.tb0Now] at hclock hend
    refine ⟨_, congrArg Host.Outcome.next hedge, ?_, hlevel.trans hout, ?_, hclock, ?_, ?_, ?_, ?_, ?_, ?_⟩
    · rw [hgen, hhigh]
    · rw [hgen, hnext]
    · rw [hgen, hend, unit50]
    · intro hperiod hcount hleft
      rw [plsTotal_of_period hperiod, if_neg hcount] at htotal
      rw [plsEndTrain_goes_on htotal (hnext ▸ hleft), hstill]
    · intro hperiod hcount
      rw [plsTotal_of_period hperiod, if_pos hcount] at htotal
      rw [plsEndTrain_unlimited htotal, hstill]
    · intro hperiod hcount hused
      rw [plsTotal_of_period hperiod, if_neg hcount] at htotal
      rw [plsEndTrain_done htotal (hnext ▸ hused)]
      exact ⟨(trainDone_flags n x).1, (trainDone_flags n x).2.1⟩
    · exact hframe.spr.trans hspr
    · exact hframe.cl.trans hcl
  case ending =>
    intro s n hn hhigh
    refine ⟨_, congrArg Host.Outcome.next (pulseEnd_high hn hhigh), ?_, rdBit_pulseOver .., ?_, ?_⟩
    · rw [genOf_pulseOver]
    · rw [genOf_pulseOver]
    · rw [tb0Now_pulseOver, tb0Now_timeReach]

end

section
/-! PROOFS. Samples of the upstream link, and a step clock that is lost (R357, R427, R435, R632). -/

namespace Sys2Proof.Machine

/-! ### Samples (R435) -/

/-- A quotient without a remainder is not rounded. -/
theorem quot_exact {n d : Int} (h : n % d = 0) : quot n d = n / d := by
  rw [quot, if_pos h, Int.add_zero]

/-- The offset of a sample is kept among the estimates of the upstream path. -/
def sampleKept (th : Int) (s : State) : State :=
  { s with tim := { s.tim with prim := { s.tim.prim with est := s.tim.prim.est ++ [th] } } }

/-- The header that a sample would have as a spring message. -/
def sampleHdr (l seq lane : Nat) : SpringHdr := { link := l, seq := seq, gen := 0, good := true, lane := lane }

/-- A good sample in sequence on the upstream link. -/
theorem sampleEv_good {s : State} {l seq : Nat} (hmode : linkMode s l = 1) (hopen : timeOpen s l = true)
    (hup : s.crt.uplink = some l) (hseq : seq = mapGet 0 s.spr.rxSeq l) (t1 t2 t3 t4 lane : Nat) :
    sampleEv l seq t1 t2 t3 t4 lane true s = sampleKept (sampleTheta s l t1 t2 t3 t4) (afterFlit s (sampleHdr l seq lane)) := by
  have hflow : ¬ (linkMode s l ≠ 1 ∨ timeOpen s l = false) := by simp [hmode, hopen]
  have htaken : timeSeq l seq s = afterFlit s (sampleHdr l seq lane) := timeSeq_in_sequence (h := sampleHdr l seq lane) hseq
  unfold sampleEv
  rw [if_neg hflow, Bool.not_true, if_neg Bool.false_ne_true, htaken]
  exact if_pos hup

/-- A sample that failed its CRC is a failed TIME flit. -/
theorem sampleEv_failed {s : State} {l : Nat} (hmode : linkMode s l = 1) (hopen : timeOpen s l = true)
    (seq t1 t2 t3 t4 lane : Nat) :
    sampleEv l seq t1 t2 t3 t4 lane false s = failedFlit lane 7 (setBit s (linkA l 0x14) 2) := by
  have hflow : ¬ (linkMode s l ≠ 1 ∨ timeOpen s l = false) := by simp [hmode, hopen]
  exact if_neg hflow

theorem failedFlit_tim (lane cause : Nat) (s : State) : (failedFlit lane cause s).tim = s.tim := by
  rw [failedFlit, (answers_failNow ..).tim, (notes_laneFault_laneCrc lane 0x18 s).1]

/-! ### The entry to Safe, also while Running (R632) -/

theorem skips_gensLow {s u : State} (h : Skips s u) : Skips s (gensLow u) := by
  refine ⟨?_, h.regs⟩
  rw [gensLow, h.frame]

/-- Outputs that are driven low are control registers and pulses of generators. -/
theorem skips_pulsesLow (s : State) : Skips s (pulsesLow s) := by
  refine skips_gensLow (u := (List.range 8).foldl _ s) (.foldl (fun x n => ?_) _ s)
  have haddr : timA (0x21C + 32 * n) = plsCtrl n := by
    unfold plsCtrl plsA timA
    omega
  rw [haddr]
  exact (Skips.wrFld x n 0 1 0).trans (.wrFld _ n 6 1 0)

/-- What an entry to Safe notes and logs, and the failed check of an epoch where ticks run. -/
def safeLogged (cause : SafeCause) (cls unit kind : Nat) (s : State) : State :=
  let x := attLog (safeEntry cls unit) (safeNoted cause cls unit kind s)
  if s.chip.devState = .running then failNow 8 x else x

theorem enterSafe_entered {s : State} (hoff : s.chip.devState ≠ .off) (hsafe : s.chip.devState ≠ .safe) (cause : SafeCause)
    (cls unit kind : Nat) :
    enterSafe cause cls unit kind s = hostEvent 0 (pulsesLow (inSafe (safeLogged cause cls unit kind s))) := by
  unfold enterSafe
  rw [if_neg (not_or.2 ⟨hoff, hsafe⟩)]
  rfl

theorem rdBit_safeNoted (cause : SafeCause) (cls unit kind : Nat) (s : State) :
    rdBit (safeNoted cause cls unit kind s) (attA 0) 6 = true := by
  rw [safeNoted, rdBit_wrReg_other _ _ (by decide)]
  exact rdBit_setBit_same _ _ (by decide)

theorem rdReg_safeNoted_other (cause : SafeCause) (cls unit kind : Nat) (s : State) {b : Nat} (h0 : b ≠ attA 0) (h4 : b ≠ attA 4) :
    rdReg (safeNoted cause cls unit kind s) b = rdReg s b := by
  rw [safeNoted, rdReg_wrReg_other _ _ h4, rdReg_wrFld_other _ _ _ _ h0, rdReg_wrFld_other _ _ _ _ h0]

/-- The failed check of an epoch leaves ATT_STATUS and TIM_STATUS as the log left them. -/
theorem rdReg_safeLogged (cause : SafeCause) (cls unit kind : Nat) (s : State) {b : Nat} (h4 : b ≠ sprA 4) (h50 : b ≠ sprA 0x50)
    (h54 : b ≠ sprA 0x54) : rdReg (safeLogged cause cls unit kind s) b =
      rdReg (attLog (safeEntry cls unit) (safeNoted cause cls unit kind s)) b := by
  unfold safeLogged
  dsimp only
  split
  · exact (answers_failNow 8 _).regs b h4 h50 h54
  · rfl

/-- The device is in Safe: the flag of ATT_STATUS is set, and TIM_STATUS stays. -/
theorem enterSafe_flags {s : State} (hoff : s.chip.devState ≠ .off) (hsafe : s.chip.devState ≠ .safe) (cause : SafeCause)
    (cls unit kind : Nat) :
    (enterSafe cause cls unit kind s).chip.devState = .safe ∧ rdBit (enterSafe cause cls unit kind s) (attA 0) 6 = true ∧
      ∀ i, rdBit (enterSafe cause cls unit kind s) timStat i = rdBit s timStat i := by
  have hevent := around_hostEvent 0 (pulsesLow (inSafe (safeLogged cause cls unit kind s)))
  have hlow := skips_pulsesLow (inSafe (safeLogged cause cls unit kind s))
  have hkept (b : Nat) (hb : b < timA 0x200) (hquiet : Quiet b) (hother : b ≠ sprA 4 ∧ b ≠ sprA 0x50 ∧ b ≠ sprA 0x54) :
      rdReg (enterSafe cause cls unit kind s) b =
        rdReg (attLog (safeEntry cls unit) (safeNoted cause cls unit kind s)) b := by
    rw [enterSafe_entered hoff hsafe, hevent.quiet b hquiet, hlow.regs b hb]
    exact rdReg_safeLogged cause cls unit kind s hother.1 hother.2.1 hother.2.2
  refine ⟨?_, ?_, fun i => ?_⟩
  · rw [enterSafe_entered hoff hsafe, hevent.chip, hlow.chip]
    rfl
  · rw [rdBit_congr (hkept (attA 0) (by decide) (by decide) (by decide)), rdBit_congr (rdReg_attLog_status ..)]
    exact rdBit_safeNoted ..
  · refine rdBit_congr ?_ i
    rw [hkept timStat (by decide) (by decide) (by decide), (cellarWorks_attLog ..).regs timStat (by decide),
      rdReg_safeNoted_other _ _ _ _ _ (by decide) (by decide)]

theorem enterSafeOpen_flags {s : State} (hoff : s.chip.devState ≠ .off) (hsafe : s.chip.devState ≠ .safe) (cause : SafeCause)
    (cls unit : Option Nat) :
    (enterSafeOpen cause cls unit s).chip.devState = .safe ∧ rdBit (enterSafeOpen cause cls unit s) (attA 0) 6 = true ∧
      ∀ i, rdBit (enterSafeOpen cause cls unit s) timStat i = rdBit s timStat i := by
  unfold enterSafeOpen
  rw [if_neg (not_or.2 ⟨hoff, hsafe⟩)]
  exact enterSafe_flags (s := (takeFree s).2) hoff hsafe ..

/-! ### Loss of the step clock (R427) -/

theorem clrBit_onlyRegs {s u : State} {a : Nat} (h : OnlyRegs s u [a]) (i : Nat) : OnlyRegs s (clrBit u a i) [a] :=
  h.wrReg (List.mem_singleton_self a) _

/-- In Boot the lock clears, and with it the root's lock of TB0. -/
theorem pllLockLoss_boot {s : State} (h : s.chip.devState = .boot) :
    rdBit (pllLockLoss s) timStat 0 = false ∧ (pllLockLoss s).chip.devState = .boot ∧ OnlyRegs s (pllLockLoss s) [timStat] := by
  have hkept : OnlyRegs s s [timStat] := ⟨fun _ _ => ⟨rfl, rfl⟩, rfl⟩
  have hroot : OnlyRegs s (if s.crt.isRoot then clrBit s timStat 1 else s) [timStat] := by
    split
    · exact clrBit_onlyRegs hkept 1
    · exact hkept
  have hloss : pllLockLoss s = clrBit (if s.crt.isRoot then clrBit s timStat 1 else s) timStat 0 := by
    rw [pllLockLoss, h]
  rw [hloss]
  generalize (if s.crt.isRoot then clrBit s timStat 1 else s) = x at hroot ⊢
  refine ⟨rdBit_clrBit_same .., ?_, clrBit_onlyRegs hroot 0⟩
  rw [clrBit_chip, hroot.2]
  exact h

/-- After Boot both locks clear, and the device enters Safe. -/
theorem pllLockLoss_safe {s : State} (hboot : s.chip.devState ≠ .boot) (hoff : s.chip.devState ≠ .off)
    (hsafe : s.chip.devState ≠ .safe) :
    (pllLockLoss s).chip.devState = .safe ∧ rdBit (pllLockLoss s) timStat 0 = false ∧
      rdBit (pllLockLoss s) timStat 1 = false ∧ rdBit (pllLockLoss s) (attA 0) 6 = true := by
  have hloss : pllLockLoss s = enterSafeOpen .clock none none (clrBit (clrBit s timStat 0) timStat 1) := by
    unfold pllLockLoss
    split
    · contradiction
    · contradiction
    · rfl
  obtain ⟨hstate, hflag, hstatus⟩ :=
    enterSafeOpen_flags (s := clrBit (clrBit s timStat 0) timStat 1) hoff hsafe .clock none none
  rw [← hloss] at hstate hflag hstatus
  refine ⟨hstate, ?_, ?_, hflag⟩
  · rw [hstatus, rdBit_clrBit_other _ _ (by decide), rdBit_clrBit_same]
  · rw [hstatus, rdBit_clrBit_same]

end Sys2Proof.Machine
end

section
/-! PROOFS. The servo of TB0: its rate, the jam, and the lock (R436, R437, R438). -/

namespace Sys2Proof.Machine

/-! ### The rate (R436) -/

/-- Steps of a link frame in units of 2^-16 ns, by which the servo divides an offset (R436). -/
def servoGain (th : Int) (k : Nat) : Int := quot (th * 2 ^ (40 - k)) (6240 * 65536)

/-- The integral part after a frame with offset `th`. -/
def servoInteg (th : Int) (s : State) : Int := s.tim.integ - servoGain th (rdFld s (timA 0x60) 4 4)

/-- The rate after a frame with offset `th`, within SLEW_MAX. -/
def servoRate (th : Int) (s : State) : Int :=
  clamped (rdReg s (timA 0x64)).toNat (servoInteg th s - servoGain th (rdFld s (timA 0x60) 0 4))

/-- RATE follows an offset. -/
def steered (th : Int) (s : State) : State :=
  wrReg { s with tim := { s.tim with integ := servoInteg th s } } (timA 0x5C) (ofInt32 (servoRate th s))

theorem servoGain_zero (k : Nat) : servoGain 0 k = 0 := by
  rw [servoGain, Int.zero_mul]
  rfl

/-- Without an offset the rate is the integral part. -/
theorem servoRate_zero (s : State) : servoRate 0 s = clamped (rdReg s (timA 0x64)).toNat s.tim.integ := by
  rw [servoRate, servoInteg, servoGain_zero, servoGain_zero, Int.sub_zero, Int.sub_zero]

theorem sreg_steered {s : State} (h : (rdReg s (timA 0x64)).toNat < 2 ^ 31) (th : Int) :
    sreg (steered th s) (timA 0x5C) = servoRate th s := by
  rw [sreg, steered, rdReg_wrReg_same]
  exact toInt_clamped h _

theorem rdReg_steered_other {b : Nat} (h : b ≠ timA 0x5C) (th : Int) (s : State) : rdReg (steered th s) b = rdReg s b :=
  rdReg_wrReg_other _ _ h

/-! ### The jam (R437) -/

/-- TB0 is set by an offset, and the servo begins anew. -/
def jumpTB0 (th : Int) (s : State) : State :=
  setBit { s with tim := { s.tim with
    tb0 := (((s.tim.tb0 : Int) - th * 2 ^ 32) % (2 ^ 48 * secUnits * 2 ^ 32 : Nat)).toNat, integ := 0 } } timStat 15

/-- Above 10 ns a device that is not Running jams. -/
def jammed (th : Int) (s : State) : State :=
  if s.chip.devState ≠ .running ∧ 10 * nsUnit < th.natAbs then plsStepped 0 (jumpTB0 th s) else s

theorem skips_jammed {th : Int} {s : State} (hrun : s.chip.devState ≠ .running) (hth : 10 * nsUnit < th.natAbs) :
    Skips (jumpTB0 th s) (jammed th s) := by
  rw [jammed, if_pos ⟨hrun, hth⟩]
  exact skips_plsStepped 0 _

theorem jammed_small {th : Int} {s : State} (h : s.chip.devState = .running ∨ th.natAbs ≤ 10 * nsUnit) : jammed th s = s := by
  refine if_neg fun ⟨hrun, hth⟩ => ?_
  rcases h with h | h
  · exact hrun h
  · exact absurd hth (not_lt.2 h)

/-- The jam leaves registers below the generators but for TIM_STATUS, of that all but flag 15, and the measurements. -/
structure Jams (s t : State) : Prop where
  regs : ∀ b, b ≠ timStat → b < timA 0x200 → rdReg t b = rdReg s b
  status : ∀ i, i ≠ 15 → rdBit t timStat i = rdBit s timStat i
  prim : t.tim.prim = s.tim.prim
  inLock : t.tim.inLock = s.tim.inLock

theorem jams_jammed (th : Int) (s : State) : Jams s (jammed th s) := by
  by_cases h : s.chip.devState ≠ .running ∧ 10 * nsUnit < th.natAbs
  · have hskip := skips_jammed h.1 h.2
    exact {
      regs := fun b hb hlow => (hskip.regs b hlow).trans (rdReg_setBit_other _ 15 hb)
      status := fun i hi => (hskip.rdBit timStat_low i).trans (rdBit_setBit_other _ timStat hi)
      prim := by
        rw [hskip.tim]
        rfl
      inLock := by
        rw [hskip.tim]
        rfl }
  · have hsame : jammed th s = s := if_neg h
    rw [hsame]
    exact ⟨fun _ _ _ => rfl, fun _ _ => rfl, rfl, rfl⟩

/-! ### The lock (R438) -/

/-- Consecutive frames within the threshold, with the present one. -/
def nearFrames (ok : Bool) (s : State) : Nat := if ok then s.tim.inLock + 1 else 0

def framesCounted (n : Nat) (s : State) : State := { s with tim := { s.tim with inLock := n } }

/-- Sixteen frames within the threshold lock TB0 while its rate is good. -/
def lockJudged (ok : Bool) (s : State) : State :=
  if 16 ≤ nearFrames ok s ∧ rdBit s timStat 12 = false then setBit (framesCounted (nearFrames ok s) s) timStat 1
  else framesCounted (nearFrames ok s) s

theorem lockJudged_inLock (ok : Bool) (s : State) : (lockJudged ok s).tim.inLock = nearFrames ok s := by
  unfold lockJudged
  split <;> rfl

theorem rdReg_lockJudged_other {b : Nat} (h : b ≠ timStat) (ok : Bool) (s : State) : rdReg (lockJudged ok s) b = rdReg s b := by
  unfold lockJudged
  split
  · exact rdReg_setBit_other _ 1 h
  · rfl

theorem rdBit_lockJudged_other {i : Nat} (h : i ≠ 1) (ok : Bool) (s : State) :
    rdBit (lockJudged ok s) timStat i = rdBit s timStat i := by
  unfold lockJudged
  split
  · exact rdBit_setBit_other _ timStat h
  · rfl

/-- Only the count of frames changes beside the registers. -/
theorem lockJudged_tim (ok : Bool) (s : State) :
    (lockJudged ok s).tim = { s.tim with inLock := (lockJudged ok s).tim.inLock } := by
  unfold lockJudged
  split <;> rfl

theorem rdBit_lockJudged_locks {s : State} (hlong : 15 ≤ s.tim.inLock) (hrate : rdBit s timStat 12 = false) :
    rdBit (lockJudged true s) timStat 1 = true := by
  have hcount : 16 ≤ s.tim.inLock + 1 := Nat.succ_le_succ hlong
  unfold lockJudged
  rw [if_pos ⟨hcount, hrate⟩]
  exact rdBit_setBit_same _ _ (by decide)

/-! ### A frame of the servo -/

/-- The offset is within LOCK_THR. -/
def inThreshold (th : Int) (s : State) : Bool := decide (th.natAbs ≤ (psTime (rdFld s (timA 0x60) 8 16)).toNat)

theorem servo_eq (th : Int) (s : State) : servo th s = lockJudged (inThreshold th s) (jammed th (steered th s)) := by
  simp only [servo, lockJudged, nearFrames, inThreshold, decide_eq_true_eq]
  rfl

theorem inThreshold_iff (th : Int) (s : State) :
    inThreshold th s = true ↔ (th.natAbs : Int) ≤ (rdFld s (timA 0x60) 8 16 : Int) * 65536 / 1000 := by
  rw [inThreshold, decide_eq_true_iff, psTime]
  omega

/-- What a frame of the servo leaves of `s`, for an offset `th` (R436, R437, R438). -/
structure Servoed (th : Int) (s t : State) : Prop where
  regs : ∀ b, b ≠ timStat → b ≠ timA 0x5C → b < timA 0x200 → rdReg t b = rdReg s b
  status : ∀ i, i ≠ 1 → i ≠ 15 → rdBit t timStat i = rdBit s timStat i
  rate : (rdReg s (timA 0x64)).toNat < 2 ^ 31 → sreg t (timA 0x5C) = servoRate th s
  prim : t.tim.prim = s.tim.prim
  jam : s.chip.devState ≠ .running → 10 * nsUnit < th.natAbs → rdBit t timStat 15 = true ∧ t.tim.integ = 0 ∧
    t.tim.tb0 = (((s.tim.tb0 : Int) - th * 2 ^ 32) % (2 ^ 48 * secUnits * 2 ^ 32 : Nat)).toNat
  noJam : s.chip.devState = .running ∨ th.natAbs ≤ 10 * nsUnit →
    rdBit t timStat 15 = rdBit s timStat 15 ∧ t.tim.tb0 = s.tim.tb0
  near : inThreshold th s = true → t.tim.inLock = s.tim.inLock + 1 ∧
    (15 ≤ s.tim.inLock → rdBit s timStat 12 = false → rdBit t timStat 1 = true)
  far : inThreshold th s = false → t.tim.inLock = 0

theorem servoed_servo (th : Int) (s : State) : Servoed th s (servo th s) := by
  have hjams := jams_jammed th (steered th s)
  have hstatus (i : Nat) (hi : i ≠ 15) : rdBit (jammed th (steered th s)) timStat i = rdBit s timStat i :=
    (hjams.status i hi).trans (rdBit_congr (rdReg_steered_other (by decide) th s) i)
  have hinLock : (jammed th (steered th s)).tim.inLock = s.tim.inLock := hjams.inLock
  have hprim : (jammed th (steered th s)).tim.prim = s.tim.prim := hjams.prim
  rw [servo_eq]
  exact {
    regs := fun b hb hrate hlow => by
      rw [rdReg_lockJudged_other hb, hjams.regs b hb hlow, rdReg_steered_other hrate]
    status := fun i h1 h15 => (rdBit_lockJudged_other h1 ..).trans (hstatus i h15)
    rate := fun hlim => by
      rw [← sreg_steered hlim, sreg, sreg, rdReg_lockJudged_other (by decide), hjams.regs _ (by decide) (by decide)]
    prim := by rw [lockJudged_tim, ← hprim]
    jam := fun hrun hth => by
      have hskip := skips_jammed (s := steered th s) hrun hth
      have hflag : rdBit (jumpTB0 th (steered th s)) timStat 15 = true := rdBit_setBit_same _ _ (by decide)
      rw [lockJudged_tim, rdBit_lockJudged_other (by decide), hskip.rdBit timStat_low, hskip.tim]
      exact ⟨hflag, rfl, rfl⟩
    noJam := fun h => by
      rw [lockJudged_tim, rdBit_lockJudged_other (by decide), jammed_small (s := steered th s) h,
        rdBit_congr (rdReg_steered_other (by decide) th s)]
      exact ⟨rfl, rfl⟩
    near := fun hnear => by
      rw [lockJudged_inLock, nearFrames, hnear, if_pos rfl, hinLock]
      refine ⟨rfl, fun hlong hrate => rdBit_lockJudged_locks (by rwa [hinLock]) ?_⟩
      rwa [hstatus 12 (by decide)]
    far := fun hfar => by rw [lockJudged_inLock, nearFrames, hfar, if_neg Bool.false_ne_true] }

end Sys2Proof.Machine
end

section
/-! PROOFS. The end of a link frame: the means, the paths, and holdover (R436, R440, R441, R443). -/

namespace Sys2Proof.Machine

/-! ### What the judgement of the paths leaves -/

/-- The registers that show the means of the paths, and TIM_STATUS. -/
abbrev shownRegs : List Nat := [timStat, timA 0x50, timA 0x54, timA 0x58]

/-- From `s` to `x` the paths are judged: the bits `free` of TIM_STATUS, the registers of the means, and what is remembered of the
paths beside the primary. -/
structure Judges (free : List Nat) (s x : State) : Prop where
  frame : x = { s with
    regs := x.regs
    tim := { s.tim with
      changed := x.tim.changed, revert := x.tim.revert, diffs := x.tim.diffs, owed := x.tim.owed, differ := x.tim.differ } }
  regs : ∀ b, b ∉ shownRegs → rdReg x b = rdReg s b
  status : ∀ i, i ∉ free → rdBit x timStat i = rdBit s timStat i

namespace Judges

variable {free : List Nat}

theorem refl (s : State) : Judges free s s := ⟨rfl, fun _ _ => rfl, fun _ _ => rfl⟩

theorem trans {s x y : State} (h : Judges free s x) (k : Judges free x y) : Judges free s y := by
  obtain ⟨hx, hregs, hstatus⟩ := h
  obtain ⟨hy, kregs, kstatus⟩ := k
  refine ⟨?_, fun b hb => (kregs b hb).trans (hregs b hb), fun i hi => (kstatus i hi).trans (hstatus i hi)⟩
  rw [hy, hx]

theorem chip {s x : State} (h : Judges free s x) : x.chip = s.chip := by rw [h.frame]
theorem crt {s x : State} (h : Judges free s x) : x.crt = s.crt := by rw [h.frame]
theorem prim {s x : State} (h : Judges free s x) : x.tim.prim = s.tim.prim := by rw [h.frame]
theorem tb0 {s x : State} (h : Judges free s x) : x.tim.tb0 = s.tim.tb0 := by rw [h.frame]
theorem integ {s x : State} (h : Judges free s x) : x.tim.integ = s.tim.integ := by rw [h.frame]
theorem inLock {s x : State} (h : Judges free s x) : x.tim.inLock = s.tim.inLock := by rw [h.frame]

/-- The path in use stays while the judgement leaves its two bits. -/
theorem path {s x : State} (h : Judges free s x) (h2 : 2 ∉ free) (h3 : 3 ∉ free) : rdFld x timStat 2 2 = rdFld s timStat 2 2 := by
  refine fld_eq_of_bits fun i hlow hhigh => h.status i ?_
  obtain rfl | rfl : i = 2 ∨ i = 3 := by omega
  · exact h2
  · exact h3

theorem wrReg (s : State) {a : Nat} (ha : a ∈ shownRegs) (hstat : a ≠ timStat) (v : Word) : Judges free s (wrReg s a v) := by
  refine ⟨rfl, fun b hb => rdReg_wrReg_other s v ?_, fun i _ => rdBit_wrReg_other s v hstat.symm i⟩
  rintro rfl
  exact hb ha

theorem wrFlag (s : State) {i : Nat} (hi : i ∈ free) (x : Nat) : Judges free s (wrFld s timStat i 1 x) := by
  refine ⟨rfl, fun b hb => rdReg_wrFld_other s i 1 x ?_, fun j hj => rdBit_wrFld_other s timStat x ?_⟩
  · rintro rfl
    exact hb List.mem_cons_self
  · have hne : j ≠ i := by
      rintro rfl
      exact hj hi
    omega

theorem whenDo {s : State} {f : State → State} (h : Judges free s (f s)) (b : Bool) : Judges free s (whenDo b f s) := by
  cases b
  · exact .refl s
  · exact h

end Judges

theorem judges_comparePaths {free : List Nat} (h : 11 ∈ free) (s : State) : Judges free s (comparePaths s) := by
  unfold comparePaths
  split
  · extract_lets cs bad differ owed diffs src x y
    have hkept : Judges free s x := ⟨rfl, fun _ _ => rfl, fun _ _ => rfl⟩
    have hshown : Judges free s y := hkept.trans (.wrReg x (by decide) (by decide) _)
    split
    · refine hshown.trans (.trans (x := { y with tim := { y.tim with owed := 64, differ := 0 } }) ?_ (.wrFlag _ h 1))
      exact ⟨rfl, fun _ _ => rfl, fun _ _ => rfl⟩
    · exact hshown
  · exact .refl s

theorem judges_judgePaths {free : List Nat} (h : 11 ∈ free) (path : Nat) (changed : Bool) (s : State) :
    Judges free s (judgePaths path changed s) := by
  unfold judgePaths
  split
  · exact .refl s
  · exact judges_comparePaths h s

theorem judges_showMeans {free : List Nat} (s : State) : Judges free s (showMeans s) :=
  (Judges.wrReg s (by decide) (by decide) _).trans (.wrReg _ (by decide) (by decide) _)

/-! ### The stages of a frame -/

/-- TB0 is at the end of a link frame. -/
def frameEnd (s : State) : State := timeReach ((tb0Now s / stepsTime 7800 + 1) * stepsTime 7800) s

/-- The means of a frame are formed. -/
def meansFormed (s : State) : State :=
  { s with tim := { s.tim with
    prim := pathFrame s.tim.prim, sec := if fld (timSrc s) 0 2 = 2 then s.tim.sec else pathFrame s.tim.sec } }

theorem meansFormed_chip (s : State) : (meansFormed s).chip = s.chip := rfl
theorem meansFormed_crt (s : State) : (meansFormed s).crt = s.crt := rfl
theorem meansFormed_prim (s : State) : (meansFormed s).tim.prim = pathFrame s.tim.prim := rfl
theorem meansFormed_tb0 (s : State) : (meansFormed s).tim.tb0 = s.tim.tb0 := rfl
theorem meansFormed_integ (s : State) : (meansFormed s).tim.integ = s.tim.integ := rfl
theorem meansFormed_inLock (s : State) : (meansFormed s).tim.inLock = s.tim.inLock := rfl
theorem rdReg_meansFormed (s : State) (b : Nat) : rdReg (meansFormed s) b = rdReg s b := rfl

/-- The primary's mean has jumped since the last frame. -/
def meanJumped (ppb : Int) (s : State) : Bool := frameJumped s.tim.prim.theta (frameMeans ppb s)

/-- The means of a frame, with the flag of a jump. -/
def meansFlagged (ppb : Int) (s : State) : State :=
  whenDo (meanJumped ppb s) (fun x => setBit x timStat 10) (frameMeans ppb s)

/-- The paths of a frame are judged, for the path that is in use. -/
def pathsJudged (ppb : Int) (s : State) : State :=
  judgePaths (rdFld (meansFlagged ppb s) timStat 2 2) (meanJumped ppb s || s.tim.changed) (meansFlagged ppb s)

/-- The judgement of `x` and its means are shown; `revert` is that REVERT still waits. -/
def pathsShown (revert : Bool) (x : State) : State :=
  let y := wrFld { x with tim := { x.tim with changed := false } } timStat 4 1 (b2n (secValid x))
  showMeans { y with tim := { y.tim with revert := revert } }

/-- The primary path is lost in this frame. -/
def primLost (ppb : Int) (s : State) : Bool :=
  pathLost (meansFlagged ppb s) (meansFlagged ppb s).crt.uplink (meansFlagged ppb s).tim.prim

/-- A frame away from the root: REVERT is carried out, or the path is chosen (R441 to R443). -/
def frameChosen (ppb : Int) (s : State) : State :=
  let back := s.tim.revert && s.chip.devState ≠ .running && !primLost ppb s
  let x := pathsShown (s.tim.revert && !back) (pathsJudged ppb s)
  if back then usePrim (wrFld x timStat 2 2 0)
  else framePath (rdFld (meansFlagged ppb s) timStat 2 2) (primLost ppb s) (meanJumped ppb s || s.tim.changed)
    (secValid (pathsJudged ppb s)) (rdReg s (timA 0x58)) x

theorem linkFrame_eq (ppb : Int) (s : State) :
    linkFrame ppb s =
      if (frameEnd s).chip.devState = .off then s
      else if (frameEnd s).crt.isRoot then
        (if rdBit (frameEnd s) timStat 0 then setBit (wrFld (frameEnd s) timStat 2 2 3) timStat 1 else frameEnd s)
      else frameChosen ppb (frameEnd s) := rfl

theorem frameEnd_chip (s : State) : (frameEnd s).chip = s.chip := timeReach_chip ..
theorem frameEnd_crt (s : State) : (frameEnd s).crt = s.crt := timeReach_crt ..
theorem rdReg_frameEnd (s : State) (b : Nat) : rdReg (frameEnd s) b = rdReg s b := rdReg_timeReach ..

/-- The end of a frame changes TB0 alone. -/
theorem frameEnd_tim (s : State) : (frameEnd s).tim = { s.tim with tb0 := (frameEnd s).tim.tb0 } := by
  unfold frameEnd timeReach
  split <;> rfl

/-- TB0 is at the next multiple of the length of a frame. -/
theorem tb0_frameEnd (s : State) : (frameEnd s).tim.tb0 = (tb0Now s / 408944640 + 1) * 408944640 * 2 ^ 32 := by
  have hlength : stepsTime 7800 = 408944640 := by decide
  have hahead : tb0Now s < (tb0Now s / 408944640 + 1) * 408944640 := by omega
  rw [frameEnd, hlength, timeReach, if_pos hahead]

namespace Judges

/-! From the state before a frame to the judgement of its paths. -/

variable {free : List Nat} {s x : State} (h : Judges free (meansFormed (frameEnd s)) x)
include h

theorem frame_rdReg {b : Nat} (hb : b ∉ shownRegs) : rdReg x b = rdReg s b := by
  rw [h.regs b hb, rdReg_meansFormed, rdReg_frameEnd]

theorem frame_status {i : Nat} (hi : i ∉ free) : rdBit x timStat i = rdBit s timStat i := by
  rw [h.status i hi, rdBit_congr (rdReg_meansFormed ..), rdBit_congr (rdReg_frameEnd ..)]

theorem frame_path (h2 : 2 ∉ free) (h3 : 3 ∉ free) : rdFld x timStat 2 2 = rdFld s timStat 2 2 := by
  rw [h.path h2 h3, rdFld_congr (rdReg_meansFormed ..), rdFld_congr (rdReg_frameEnd ..)]

theorem frame_chip : x.chip = s.chip := by rw [h.chip, meansFormed_chip, frameEnd_chip]

theorem frame_crt : x.crt = s.crt := by rw [h.crt, meansFormed_crt, frameEnd_crt]

theorem frame_tb0 : x.tim.tb0 = (tb0Now s / 408944640 + 1) * 408944640 * 2 ^ 32 := by
  rw [h.tb0, meansFormed_tb0, tb0_frameEnd]

theorem frame_integ : x.tim.integ = s.tim.integ := by rw [h.integ, meansFormed_integ, frameEnd_tim]

theorem frame_inLock : x.tim.inLock = s.tim.inLock := by rw [h.inLock, meansFormed_inLock, frameEnd_tim]

end Judges

/-- The root is the master of TB0 (R443). -/
theorem linkFrame_root {s : State} (hoff : s.chip.devState ≠ .off) (hroot : s.crt.isRoot = true)
    (hlock : rdBit s timStat 0 = true) (ppb : Int) :
    linkFrame ppb s = setBit (wrFld (frameEnd s) timStat 2 2 3) timStat 1 := by
  rw [linkFrame_eq, frameEnd_chip, if_neg hoff, frameEnd_crt, if_pos hroot, rdBit_congr (rdReg_frameEnd s timStat), if_pos hlock]

/-- Without a REVERT the path is chosen. -/
theorem linkFrame_chooses {s : State} (hoff : s.chip.devState ≠ .off) (hroot : s.crt.isRoot = false)
    (hrevert : s.tim.revert = false) (ppb : Int) :
    linkFrame ppb s = framePath (rdFld (meansFlagged ppb (frameEnd s)) timStat 2 2) (primLost ppb (frameEnd s))
      (meanJumped ppb (frameEnd s) || (frameEnd s).tim.changed) (secValid (pathsJudged ppb (frameEnd s)))
      (rdReg (frameEnd s) (timA 0x58)) (pathsShown false (pathsJudged ppb (frameEnd s))) := by
  have hkept : (frameEnd s).tim.revert = false := by rw [frameEnd_tim, hrevert]
  rw [linkFrame_eq, frameEnd_chip, if_neg hoff, frameEnd_crt, hroot, if_neg Bool.false_ne_true, frameChosen, hkept]
  simp only [Bool.false_and, if_neg Bool.false_ne_true]

theorem judges_pathsShown {free : List Nat} (h : 4 ∈ free) (revert : Bool) (x : State) : Judges free x (pathsShown revert x) := by
  have hchanged : Judges free x { x with tim := { x.tim with changed := false } } := ⟨rfl, fun _ _ => rfl, fun _ _ => rfl⟩
  have hvalid := hchanged.trans (.wrFlag _ h (b2n (secValid x)))
  refine (hvalid.trans ?_).trans (judges_showMeans _)
  exact ⟨rfl, fun _ _ => rfl, fun _ _ => rfl⟩

/-- The mean of the primary stands in TIM_TB0_OFS_P. -/
theorem rdReg_pathsShown_mean (revert : Bool) (x : State) :
    rdReg (pathsShown revert x) (timA 0x50) = ofInt32 (x.tim.prim.theta.getD 0) := by
  rw [pathsShown, showMeans, rdReg_wrReg_other _ _ (by decide), rdReg_wrReg_same]
  rfl

/-- The rate check and the jump flag are marked in TIM_STATUS. -/
theorem judges_meansFlagged (ppb : Int) (s : State) : Judges [1, 4, 10, 11, 12] (meansFormed s) (meansFlagged ppb s) := by
  have hrate : Judges [1, 4, 10, 11, 12] (meansFormed s) (clrBit (setBit (meansFormed s) timStat 12) timStat 1) :=
    (Judges.wrFlag _ (by decide) 1).trans (.wrFlag _ (by decide) 0)
  exact (Judges.whenDo (f := fun x => clrBit (setBit x timStat 12) timStat 1) hrate _).trans
    (.whenDo (f := fun x => setBit x timStat 10) (.wrFlag _ (by decide) 1) _)

/-! ### The primary path is followed (R436, R441) -/

theorem pathFrame_single {p : TimePath} {th : Int} (h : p.est = [th]) :
    pathFrame p = { est := [], theta := some th, silent := 0 } := by
  have hmean : meanOf p.est = th := by
    rw [h, meanOf, List.sum_singleton, List.length_singleton, Nat.cast_one, quot_exact (Int.emod_one th), Int.ediv_one]
  rw [pathFrame, if_neg (by simp [h]), hmean]

/-- A link that is UP and brought a sample is not lost. -/
theorem pathLost_up {s : State} {l : Nat} {p : TimePath} (hup : linkState s l = 8) (hsample : p.silent < 3) :
    pathLost s (some l) p = false := by
  have hnot : ¬ 3 ≤ p.silent := not_le.2 hsample
  simp [pathLost, hup, hnot]

theorem pathLost_down {s : State} {l : Nat} (h : linkState s l ≠ 8) (p : TimePath) : pathLost s (some l) p = true := by
  simp [pathLost, h]

/-- A first mean is no jump. -/
theorem frameJumped_none (s : State) : frameJumped none s = false := rfl

/-- The primary path is followed while it is not lost and has not changed. -/
theorem framePath_kept (valid : Bool) (shown : Word) (s : State) : framePath 0 false false valid shown s = usePrim s := rfl

/-- A primary path that is lost without a secondary is holdover. -/
theorem framePath_lost (changed : Bool) (shown : Word) (s : State) : framePath 0 true changed false shown s = holdover s := rfl

theorem usePrim_some {s : State} {th : Int} (h : s.tim.prim.theta = some th) : usePrim s = servo th s := by
  rw [usePrim, h]

theorem frameMeans_in_range {s : State} {ppb : Int} (hrate : ppb.natAbs ≤ 2000) : frameMeans ppb s = meansFormed s := by
  rw [frameMeans, decide_eq_false (by omega)]
  rfl

theorem meansFlagged_first {s : State} {ppb : Int} (hfirst : s.tim.prim.theta = none) (hrate : ppb.natAbs ≤ 2000) :
    meanJumped ppb s = false ∧ meansFlagged ppb s = meansFormed s := by
  have hnone : meanJumped ppb s = false := by rw [meanJumped, hfirst, frameJumped_none]
  refine ⟨hnone, ?_⟩
  rw [meansFlagged, hnone, frameMeans_in_range hrate]
  rfl

/-- A frame whose primary path brings one estimate: the servo follows it, after the judgement. -/
structure Follows (s x : State) (th : Int) : Prop where
  judged : Judges [4, 11] (meansFormed s) x
  prim : x.tim.prim = { est := [], theta := some th, silent := 0 }
  mean : rdReg x (timA 0x50) = ofInt32 th

theorem follows_frameEnd {s : State} {l : Nat} {th ppb : Int} (hoff : s.chip.devState ≠ .off) (hroot : s.crt.isRoot = false)
    (hlink : s.crt.uplink = some l) (hup : linkState s l = 8) (hpath : rdFld s timStat 2 2 = 0) (hest : s.tim.prim.est = [th])
    (hfirst : s.tim.prim.theta = none) (hchanged : s.tim.changed = false) (hrevert : s.tim.revert = false)
    (hrate : ppb.natAbs ≤ 2000) : ∃ x, Follows (frameEnd s) x th ∧ linkFrame ppb s = servo th x := by
  have htim := frameEnd_tim s
  have hregs (b : Nat) : rdReg (meansFormed (frameEnd s)) b = rdReg s b := by rw [rdReg_meansFormed, rdReg_frameEnd]
  have hprim : (meansFormed (frameEnd s)).tim.prim = { est := [], theta := some th, silent := 0 } := by
    rw [meansFormed_prim]
    exact pathFrame_single (by rw [htim, hest])
  obtain ⟨hjump, hflagged⟩ := meansFlagged_first (s := frameEnd s) (by rw [htim, hfirst]) hrate
  have hlost : primLost ppb (frameEnd s) = false := by
    rw [primLost, hflagged, meansFormed_crt, frameEnd_crt, hlink, hprim]
    exact pathLost_up ((rdFld_congr (hregs _) 0 4).trans hup) (show 0 < 3 by decide)
  have hkept : (frameEnd s).tim.changed = false := by rw [htim, hchanged]
  have hzero : rdFld (meansFormed (frameEnd s)) timStat 2 2 = 0 := (rdFld_congr (hregs _) 2 2).trans hpath
  have hpaths : Judges [4, 11] (meansFormed (frameEnd s)) (pathsJudged ppb (frameEnd s)) := by
    rw [pathsJudged, hflagged]
    exact judges_judgePaths (by decide) ..
  have hjudged := hpaths.trans (judges_pathsShown (by decide) false _)
  have hshown := hjudged.prim.trans hprim
  refine ⟨pathsShown false (pathsJudged ppb (frameEnd s)), ⟨hjudged, hshown, ?_⟩, ?_⟩
  · rw [rdReg_pathsShown_mean, hpaths.prim, hprim]
    rfl
  · rw [linkFrame_chooses hoff hroot hrevert, hflagged, hzero, hlost, hjump, hkept, Bool.or_false, framePath_kept]
    exact usePrim_some (congrArg TimePath.theta hshown)

/-! ### Holdover (R443) -/

/-- The entry to holdover as TIM_STATUS notes it; the count of frames starts anew. -/
def holdoverNoted (s : State) : State :=
  { clrBit (setBit (wrFld s timStat 2 2 2) timStat 9) timStat 1 with tim := { s.tim with inLock := 0 } }

/-- The registers are those of TIM_STATUS alone. -/
theorem rdReg_holdoverNoted (s : State) (b : Nat) :
    rdReg (holdoverNoted s) b = rdReg (clrBit (setBit (wrFld s timStat 2 2 2) timStat 9) timStat 1) b := rfl

theorem holdoverNoted_inLock (s : State) : (holdoverNoted s).tim.inLock = 0 := rfl

theorem holdover_away {s : State} (hroot : s.crt.isRoot = false) (hpath : rdFld s timStat 2 2 ≠ 2) :
    holdover s = if s.chip.devState = .running then
      sendUp (.req .hold 0 (devAddr (setBit (holdoverNoted s) (sprA 4) 13))) (setBit (holdoverNoted s) (sprA 4) 13)
    else holdoverNoted s := by
  have haway : ¬ s.crt.isRoot = true := by simp [hroot]
  have hbody : holdover s = if s.chip.devState = .running then
      (if s.crt.isRoot then
        Machine.whenDo (!holdPending (holdoverNoted s)) (rootHold 0) (setBit (holdoverNoted s) (sprA 4) 13)
      else sendUp (.req .hold 0 (devAddr (setBit (holdoverNoted s) (sprA 4) 13))) (setBit (holdoverNoted s) (sprA 4) 13))
      else holdoverNoted s := if_neg hpath
  rw [hbody, if_neg haway]

/-- What the entry to holdover leaves (R443, R210). -/
structure HoldsOver (s t : State) : Prop where
  path : rdFld t timStat 2 2 = 2
  unlocked : rdBit t timStat 1 = false
  loss : rdBit t timStat 9 = true
  rate : rdReg t (timA 0x5C) = rdReg s (timA 0x5C)
  count : t.tim.inLock = 0

theorem holdsOver_noted (s : State) : HoldsOver s (holdoverNoted s) := by
  have hregs := rdReg_holdoverNoted s
  refine ⟨?_, ?_, ?_, ?_, holdoverNoted_inLock s⟩
  · rw [rdFld_congr (hregs timStat), clrBit, setBit, rdFld_wrFld_apart _ _ (by decide), rdFld_wrFld_apart _ _ (by decide),
      rdFld_wrFld_fits _ _ _ _ (by decide) (by decide)]
  · rw [rdBit_congr (hregs timStat), rdBit_clrBit_same]
  · rw [rdBit_congr (hregs timStat), rdBit_clrBit_other _ _ (by decide), rdBit_setBit_same _ _ (by decide)]
  · rw [hregs, rdReg_clrBit_other _ 1 (by decide), rdReg_setBit_other _ 9 (by decide), rdReg_wrFld_other _ _ _ _ (by decide)]

/-- The hold is requested, which shows in SPR_STATUS. -/
theorem HoldsOver.requested {s x t : State} (h : HoldsOver s x) (hsends : Sends (setBit x (sprA 4) 13) t) :
    HoldsOver s t ∧ rdBit t (sprA 4) 13 = true := by
  have hregs (b : Nat) : rdReg t b = rdReg (setBit x (sprA 4) 13) b := hsends.messages.rdReg b
  have hother (b : Nat) (hb : b ≠ sprA 4) : rdReg t b = rdReg x b := (hregs b).trans (rdReg_setBit_other _ _ hb)
  refine ⟨⟨?_, ?_, ?_, ?_, ?_⟩, ?_⟩
  · exact (rdFld_congr (hother timStat (by decide)) 2 2).trans h.path
  · exact (rdBit_congr (hother timStat (by decide)) 1).trans h.unlocked
  · exact (rdBit_congr (hother timStat (by decide)) 9).trans h.loss
  · exact (hother _ (by decide)).trans h.rate
  · rw [hsends]
    exact h.count
  · exact (rdBit_congr (hregs _) 13).trans (rdBit_setBit_same _ _ (by decide))

theorem holdsOver_holdover {s : State} (hroot : s.crt.isRoot = false) (hpath : rdFld s timStat 2 2 ≠ 2) :
    HoldsOver s (holdover s) ∧ (s.chip.devState = .running → rdBit (holdover s) (sprA 4) 13 = true) := by
  have hnoted := holdsOver_noted s
  rw [holdover_away hroot hpath]
  split
  · obtain ⟨hholds, hflag⟩ := hnoted.requested (sendUp_sends _ _)
    exact ⟨hholds, fun _ => hflag⟩
  case isFalse hrun => exact ⟨hnoted, fun h => absurd h hrun⟩

/-- A primary path that is lost without a secondary is holdover. -/
theorem linkFrame_lost {s : State} {l : Nat} (hoff : s.chip.devState ≠ .off) (hroot : s.crt.isRoot = false)
    (hlink : s.crt.uplink = some l) (hdown : linkState s l ≠ 8) (hpath : rdFld s timStat 2 2 = 0) (hrevert : s.tim.revert = false)
    (hsrc : rdFld s (timA 0x68) 0 2 = 0) (ppb : Int) :
    ∃ x, Judges [1, 4, 10, 11, 12] (meansFormed (frameEnd s)) x ∧ linkFrame ppb s = holdover x := by
  have hflagged := judges_meansFlagged ppb (frameEnd s)
  have hpaths : Judges [1, 4, 10, 11, 12] (meansFormed (frameEnd s)) (pathsJudged ppb (frameEnd s)) :=
    hflagged.trans (judges_judgePaths (by decide) ..)
  have hlost : primLost ppb (frameEnd s) = true := by
    have hstate : linkState (meansFlagged ppb (frameEnd s)) l = linkState s l := by
      refine rdFld_congr (hflagged.frame_rdReg ?_) 0 4
      simp only [shownRegs, List.mem_cons, List.not_mem_nil, or_false, timStat, timA, linkA]
      omega
    rw [primLost, hflagged.frame_crt, hlink]
    exact pathLost_down (by rwa [hstate]) _
  have hzero : rdFld (meansFlagged ppb (frameEnd s)) timStat 2 2 = 0 := by
    rw [hflagged.frame_path (by decide) (by decide), hpath]
  have hvalid : secValid (pathsJudged ppb (frameEnd s)) = false := by
    have hnone : fld (timSrc (pathsJudged ppb (frameEnd s))) 0 2 = 0 :=
      (rdFld_congr (hpaths.frame_rdReg (b := timA 0x68) (by decide)) 0 2).trans hsrc
    simp [secValid, hnone]
  refine ⟨_, hpaths.trans (judges_pathsShown (by decide) false _), ?_⟩
  rw [linkFrame_chooses hoff hroot hrevert, hzero, hlost, hvalid, framePath_lost]

end Sys2Proof.Machine
end

section
/-! PROOFS. TB0 across the tree (R427, R435 to R438, R441, R443). -/

namespace Sys2Proof.Machine

/-! ### A frame whose offset the servo follows, by registers -/

namespace Servoed

variable {th : Int} {s t : State} (h : Servoed th s t)
include h

theorem path : rdFld t timStat 2 2 = rdFld s timStat 2 2 :=
  fld_eq_of_bits fun i hlow hhigh => h.status i (by omega) (by omega)

theorem rate_le (hlim : (rdReg s (timA 0x64)).toNat < 2 ^ 31) : (sreg t (timA 0x5C)).natAbs ≤ (rdReg s (timA 0x64)).toNat := by
  rw [h.rate hlim]
  exact natAbs_clamped_le ..

end Servoed

/-- What the end of a link frame leaves whose primary path brings the offset `th`. -/
theorem servoed_frame {s x t : State} {th : Int} (h : Follows (frameEnd s) x th) (hserved : Servoed th x t)
    (hpath : rdFld s timStat 2 2 = 0) (hlim : (rdReg s (timA 0x64)).toNat < 2 ^ 31) :
    t.tim.prim.theta = some th ∧ t.tim.prim.est = [] ∧ t.tim.prim.silent = 0 ∧
      rdFld t timStat 2 2 = 0 ∧ rdReg t (timA 0x50) = BitVec.ofInt 32 th ∧
      (sreg t (timA 0x5C)).natAbs ≤ (rdReg s (timA 0x64)).toNat ∧
      (th = 0 → sreg t (timA 0x5C) = max (-((rdReg s (timA 0x64)).toNat : Int)) (min (rdReg s (timA 0x64)).toNat s.tim.integ)) := by
  obtain ⟨hjudged, hprim, hmean⟩ := h
  have hslew : rdReg x (timA 0x64) = rdReg s (timA 0x64) := hjudged.frame_rdReg (by decide)
  have hkept : t.tim.prim = { est := [], theta := some th, silent := 0 } := hserved.prim.trans hprim
  refine ⟨by rw [hkept], by rw [hkept], by rw [hkept], ?_, ?_, ?_, ?_⟩
  · rw [hserved.path, hjudged.frame_path (by decide) (by decide), hpath]
  · exact (hserved.regs _ (by decide) (by decide) (by decide)).trans hmean
  · rw [← hslew] at hlim ⊢
    exact hserved.rate_le hlim
  · rintro rfl
    rw [← hslew] at hlim ⊢
    rw [hserved.rate hlim, servoRate_zero, hjudged.frame_integ, clamped]

/-- The jam and the lock at the end of a link frame whose primary path brings the offset `th` (R437, R438). -/
theorem servoed_jam_lock {s x t : State} {th : Int} (h : Follows (frameEnd s) x th) (hserved : Servoed th x t) :
    (s.chip.devState ≠ .running → 655360 < th.natAbs → rdBit t timStat 15 = true ∧ t.tim.integ = 0 ∧
      t.tim.tb0 = ((((tb0Now s / 408944640 + 1) * 408944640 * 2 ^ 32 : Nat) - th * 2 ^ 32) %
        (2 ^ 48 * secUnits * 2 ^ 32 : Nat)).toNat) ∧
    (s.chip.devState = .running ∨ th.natAbs ≤ 655360 → rdBit t timStat 15 = rdBit s timStat 15 ∧
      t.tim.tb0 = (tb0Now s / 408944640 + 1) * 408944640 * 2 ^ 32) ∧
    ((th.natAbs : Int) ≤ (rdFld s (timA 0x60) 8 16 : Int) * 65536 / 1000 → t.tim.inLock = s.tim.inLock + 1 ∧
      (15 ≤ s.tim.inLock → rdBit s timStat 12 = false → rdBit t timStat 1 = true)) ∧
    ((rdFld s (timA 0x60) 8 16 : Int) * 65536 / 1000 < th.natAbs → t.tim.inLock = 0) := by
  have hjudged := h.judged
  have hjam : 10 * nsUnit = 655360 := by decide
  have hthreshold : rdFld x (timA 0x60) 8 16 = rdFld s (timA 0x60) 8 16 := rdFld_congr (hjudged.frame_rdReg (by decide)) 8 16
  have hnear := hserved.near
  have hfar := hserved.far
  have hjumps := hserved.jam
  have hstays := hserved.noJam
  rw [hjudged.frame_chip, hjudged.frame_tb0, hjam] at hjumps hstays
  rw [hjudged.frame_status (by decide)] at hstays
  rw [hjudged.frame_inLock, hjudged.frame_status (by decide), inThreshold_iff, hthreshold] at hnear
  refine ⟨hjumps, hstays, hnear, fun hbeyond => hfar ?_⟩
  rw [Bool.eq_false_iff, ne_eq, inThreshold_iff, hthreshold]
  exact not_le.2 hbeyond

/-- Settles O44: samples, the servo with its jam and lock, holdover, the root, REVERT, and the loss of the step clock. A LINK_FRAME
takes TB0 to the next frame boundary by assumption log 64. -/
theorem timeTransfer : Obligations.TimeTransfer := by
  unfold Obligations.TimeTransfer
  refine ⟨fun s l seq t1 t2 t3 t4 lane hmode hopen hup hlane => ⟨fun hseq heven => ?_, ?_⟩,
    fun s l th ppb hoff hroot hlink hup hpath hest hfirst hchanged hrevert hrate _ hlim => ?_,
    fun s l ppb hoff hroot hlink hdown hpath hrevert hsrc => ?_, fun s ppb hoff hroot hlock => ?_,
    fun s who hreach => ⟨fun hrun => ?_, fun hrun => ?_⟩, fun s => ⟨_, rfl, pllLockLoss_boot, pllLockLoss_safe⟩⟩
  · refine ⟨_, congrArg Host.Outcome.next (sampleEv_good hmode hopen hup hseq ..), ?_, rfl, mapGet_mapSet_same⟩
    rw [sampleTheta, psTime, quot_exact heven]
    rfl
  · obtain ⟨hflag, hcount⟩ := failedFlit_flagged (i := 2) hlane (by decide) l 7 s
    exact ⟨_, congrArg Host.Outcome.next (sampleEv_failed hmode hopen ..), failedFlit_tim .., hflag, hcount⟩
  · obtain ⟨x, hfollows, hframe⟩ :=
      follows_frameEnd hoff hroot hlink hup hpath hest hfirst hchanged hrevert hrate
    have hserved := servoed_servo th x
    obtain ⟨htheta, hest', hsilent, hpath', hmean, hrange, hzero⟩ := servoed_frame hfollows hserved hpath hlim
    exact ⟨_, congrArg Host.Outcome.next hframe, htheta, hest', hsilent, hpath', hmean, hrange, hzero,
      servoed_jam_lock hfollows hserved⟩
  · obtain ⟨x, hjudged, hframe⟩ := linkFrame_lost hoff hroot hlink hdown hpath hrevert hsrc ppb
    have hroot' : x.crt.isRoot = false := by rw [hjudged.frame_crt, hroot]
    have hpath' : rdFld x timStat 2 2 ≠ 2 := by
      rw [hjudged.frame_path (by decide) (by decide), hpath]
      decide
    obtain ⟨hholds, hhold⟩ := holdsOver_holdover hroot' hpath'
    exact ⟨_, congrArg Host.Outcome.next hframe, hholds.path, hholds.unlocked, hholds.loss,
      hholds.rate.trans (hjudged.frame_rdReg (by decide)), hholds.count, fun hrun => hhold (by rw [hjudged.frame_chip, hrun])⟩
  · refine ⟨_, congrArg Host.Outcome.next (linkFrame_root hoff hroot hlock ppb), ?_, rdBit_setBit_same _ _ (by decide), ?_⟩
    · rw [setBit, rdFld_wrFld_apart _ _ (by decide), rdFld_wrFld_fits _ _ _ _ (by decide) (by decide)]
    · rw [rdReg_setBit_other _ 1 (by decide), rdReg_wrFld_other _ _ _ _ (by decide), rdReg_frameEnd]
  · exact ⟨_, exec_revert hreach, revertWrite_remembered hrun hreach.not_off⟩
  · exact ⟨_, exec_revert hreach, revertWrite_running hrun⟩

end Sys2Proof.Machine
end

section
/-! PROOFS. What tracing leaves: the sources, and the registers of the trace block (R646 to R657). -/

namespace Sys2Proof.Machine

theorem coreOf_congr {s u : State} (h : u.stw = s.stw) (p : Nat) : coreOf u p = coreOf s p := by rw [coreOf, h]; rfl

theorem schedOf_congr {s u : State} (h : u.stw = s.stw) (p : Nat) : schedOf u p = schedOf s p := by rw [schedOf, h]; rfl

/-- From `s` to `u` only the trace has gone on: its state, and registers of its block. -/
structure OnlyTrace (s u : State) : Prop where
  frame : u = { s with regs := u.regs, trc := u.trc }
  regs : ∀ b, b < trcA 0 ∨ hstA 0 ≤ b → rdReg u b = rdReg s b

namespace OnlyTrace

theorem refl (s : State) : OnlyTrace s s := ⟨rfl, fun _ _ => rfl⟩

theorem trans {s u v : State} (h : OnlyTrace s u) (k : OnlyTrace u v) : OnlyTrace s v := by
  obtain ⟨hu, hregs⟩ := h
  obtain ⟨hv, kregs⟩ := k
  refine ⟨?_, fun b hb => (kregs b hb).trans (hregs b hb)⟩
  rw [hv, hu]

theorem whenDo {s : State} {f : State → State} (h : OnlyTrace s (f s)) (b : Bool) : OnlyTrace s (whenDo b f s) := by
  cases b
  · exact .refl s
  · exact h

theorem wrReg (s : State) {a : Nat} (h : trcA 0 ≤ a ∧ a < hstA 0) (v : Word) : OnlyTrace s (wrReg s a v) :=
  ⟨rfl, fun b hb => rdReg_wrReg_other s v (by omega)⟩

theorem chip {s u : State} (h : OnlyTrace s u) : u.chip = s.chip := by rw [h.frame]
theorem stw {s u : State} (h : OnlyTrace s u) : u.stw = s.stw := by rw [h.frame]
theorem spr {s u : State} (h : OnlyTrace s u) : u.spr = s.spr := by rw [h.frame]
theorem att {s u : State} (h : OnlyTrace s u) : u.att = s.att := by rw [h.frame]
theorem noc {s u : State} (h : OnlyTrace s u) : u.noc = s.noc := by rw [h.frame]
theorem cel {s u : State} (h : OnlyTrace s u) : u.cel = s.cel := by rw [h.frame]

theorem coreOf {s u : State} (h : OnlyTrace s u) (p : Nat) : coreOf u p = coreOf s p := coreOf_congr h.stw p

theorem schedOf {s u : State} (h : OnlyTrace s u) (p : Nat) : schedOf u p = schedOf s p := schedOf_congr h.stw p

theorem cyclesNow {s u : State} (h : OnlyTrace s u) (p : Nat) : cyclesNow u p = cyclesNow s p := by rw [h.frame]; rfl

theorem irqPendOf {s u : State} (h : OnlyTrace s u) (p : Nat) : irqPendOf u p = irqPendOf s p := by rw [h.frame]; rfl

theorem logOf {s u : State} (h : OnlyTrace s u) (p : Nat) : logOf u p = logOf s p := by rw [h.frame]; rfl

end OnlyTrace

/-! ### Packets (R648 to R655) -/

theorem onlyTrace_putSrc (k : Nat) (x : TrcSrc) (s : State) : OnlyTrace s (putSrc k x s) := ⟨rfl, fun _ _ => rfl⟩

theorem onlyTrace_emit (k : Nat) (bytes : List Byte) (s : State) : OnlyTrace s (emit k bytes s) := by
  unfold emit
  dsimp only
  split
  · exact onlyTrace_putSrc ..
  split
  · exact onlyTrace_putSrc ..
  · exact onlyTrace_putSrc ..

theorem onlyTrace_emit_putSrc (k : Nat) (bytes : List Byte) (x : TrcSrc) (s : State) : OnlyTrace s (emit k bytes (putSrc k x s)) :=
  (onlyTrace_putSrc ..).trans (onlyTrace_emit ..)

theorem onlyTrace_emitCyc (p k : Nat) (s : State) : OnlyTrace s (emitCyc p k s) := by
  unfold emitCyc
  split
  · exact onlyTrace_emit_putSrc ..
  · exact .refl s

theorem onlyTrace_closeAtoms (p k : Nat) (s : State) : OnlyTrace s (closeAtoms p k s) := by
  unfold closeAtoms
  dsimp only
  split
  · exact .refl s
  · exact ((onlyTrace_putSrc ..).trans (onlyTrace_emitCyc ..)).trans (onlyTrace_emit ..)

theorem onlyTrace_emitAtom (p k : Nat) (b : Bool) (s : State) : OnlyTrace s (emitAtom p k b s) := by
  unfold emitAtom
  dsimp only
  split
  · exact (onlyTrace_putSrc ..).trans (onlyTrace_closeAtoms ..)
  · exact onlyTrace_putSrc ..

theorem onlyTrace_emitInd (p k : Nat) (t : Word) (s : State) : OnlyTrace s (emitInd p k t s) :=
  ((onlyTrace_closeAtoms p k s).trans (onlyTrace_emitCyc ..)).trans (onlyTrace_emit_putSrc ..)

theorem onlyTrace_emitExc (p k : Nat) (epc : Word) (cause line : Nat) (s : State) : OnlyTrace s (emitExc p k epc cause line s) :=
  ((onlyTrace_closeAtoms p k s).trans (onlyTrace_emitCyc ..)).trans (onlyTrace_emit_putSrc ..)

theorem onlyTrace_emitSync (timed : Bool) (p k : Nat) (s : State) : OnlyTrace s (emitSync timed p k s) := by
  unfold emitSync
  dsimp only
  split
  · exact onlyTrace_emit_putSrc ..
  · exact onlyTrace_emit_putSrc ..

theorem onlyTrace_emitPwr (reason p k : Nat) (s : State) : OnlyTrace s (emitPwr reason p k s) :=
  (onlyTrace_closeAtoms p k s).trans (onlyTrace_emit_putSrc ..)

theorem onlyTrace_emitGin (p k : Nat) (s : State) : OnlyTrace s (emitGin p k s) :=
  (onlyTrace_closeAtoms p k s).trans (onlyTrace_emit_putSrc ..)

theorem onlyTrace_emitGout (p k : Nat) (s : State) : OnlyTrace s (emitGout p k s) := by
  unfold emitGout
  split
  · exact .refl s
  · exact onlyTrace_emit_putSrc ..

/-! ### Sources and boundaries (R646, R652, R655, R657) -/

theorem sourceFor_lt {s : State} {p k : Nat} (h : sourceFor s p = some k) : k < 16 := by
  unfold sourceFor at h
  split at h
  · cases h
  · exact List.mem_range.1 (List.mem_of_find?_eq_some h)

theorem onlyTrace_traced {p : Nat} {f : Nat → State → State} {s : State} (h : ∀ k, k < 16 → OnlyTrace s (f k s)) :
    OnlyTrace s (traced p f s) := by
  unfold traced
  split
  next k hk =>
    split
    · exact .refl s
    · exact h k (sourceFor_lt hk)
  · exact .refl s

theorem onlyTrace_recoverDrop {k : Nat} (hk : k < 16) (s : State) : OnlyTrace s (recoverDrop k s) := by
  unfold recoverDrop
  dsimp only
  split
  · split
    · refine .trans ?_ (.wrReg _ (by unfold trcA hstA; omega) _)
      exact (onlyTrace_emit_putSrc ..).trans (.wrReg _ (by decide) _)
    · exact .refl s
  · exact .refl s

theorem onlyTrace_traceBoundary (p : Nat) (s : State) : OnlyTrace s (traceBoundary p s) := by
  refine onlyTrace_traced fun k hk => ?_
  have hrecovered := onlyTrace_recoverDrop hk s
  have hsync (timed : Bool) : OnlyTrace s (emitSync timed p k (closeAtoms p k (recoverDrop k s))) :=
    (hrecovered.trans (onlyTrace_closeAtoms ..)).trans (onlyTrace_emitSync ..)
  dsimp only
  split
  · exact hrecovered
  split
  · exact hsync true
  split
  · exact hsync false
  · exact hrecovered

theorem onlyTrace_traceCond (p : Nat) (i : StwIns) (taken : Bool) (s : State) : OnlyTrace s (traceCond p i taken s) := by
  unfold traceCond
  split
  · exact onlyTrace_traced fun _ _ => onlyTrace_emitAtom ..
  · exact .refl s

theorem onlyTrace_traceInd (p : Nat) (t : Word) (s : State) : OnlyTrace s (traceInd p t s) :=
  onlyTrace_traced fun _ _ => onlyTrace_emitInd ..

end Sys2Proof.Machine
end

section
/-! PROOFS. A change of one steward: its state, what it traces, and its exceptions (R457, R482, R483, R485, R654). -/

namespace Sys2Proof.Machine

/-- From `s` to `u` only steward `p` and the trace have changed. -/
structure OnlyCore (s u : State) (p : Nat) : Prop where
  frame : u = { s with regs := u.regs, trc := u.trc, stw := { s.stw with core := u.stw.core } }
  others : ∀ q, q ≠ p → coreOf u q = coreOf s q
  regs : ∀ b, b < trcA 0 ∨ hstA 0 ≤ b → rdReg u b = rdReg s b

/-- From `s` to `u` steward `p` has become `c`, and beside it only the trace has changed. -/
def Turns (s u : State) (p : Nat) (c : Steward) : Prop := coreOf u p = c ∧ OnlyCore s u p

@[simp] theorem coreOf_putCore_same (p : Nat) (c : Steward) (s : State) : coreOf (putCore p c s) p = c := mapGet_mapSet_same

theorem coreOf_putCore_other {p q : Nat} (h : q ≠ p) (c : Steward) (s : State) : coreOf (putCore p c s) q = coreOf s q :=
  mapGet_mapSet_other h

namespace OnlyCore

variable {s u v : State} {p : Nat}

theorem trans (h : OnlyCore s u p) (k : OnlyCore u v p) : OnlyCore s v p := by
  obtain ⟨hu, hothers, hregs⟩ := h
  obtain ⟨hv, kothers, kregs⟩ := k
  refine ⟨?_, fun q hq => (kothers q hq).trans (hothers q hq), fun b hb => (kregs b hb).trans (hregs b hb)⟩
  rw [hv, hu]

theorem chip (h : OnlyCore s u p) : u.chip = s.chip := by rw [h.frame]
theorem dcache (h : OnlyCore s u p) : u.stw.dcache = s.stw.dcache := by rw [h.frame]
theorem icache (h : OnlyCore s u p) : u.stw.icache = s.stw.icache := by rw [h.frame]
theorem sched (h : OnlyCore s u p) : u.stw.sched = s.stw.sched := by rw [h.frame]
theorem entry (h : OnlyCore s u p) : u.stw.entry = s.stw.entry := by rw [h.frame]

theorem alone (h : OnlyCore s u p) : StwAlone s u p :=
  ⟨h.others, h.dcache, h.icache, h.sched, by rw [h.frame], by rw [h.frame], by rw [h.frame], by rw [h.frame]⟩

end OnlyCore

theorem OnlyTrace.onlyCore {s u : State} (h : OnlyTrace s u) (p : Nat) : OnlyCore s u p where
  frame := by rw [h.frame]
  others q _ := h.coreOf q
  regs := h.regs

theorem onlyCore_putCore (p : Nat) (c : Steward) (s : State) : OnlyCore s (putCore p c s) p :=
  ⟨rfl, fun _ hq => coreOf_putCore_other hq c s, fun _ _ => rfl⟩

theorem turns_putCore (p : Nat) (c : Steward) (s : State) : Turns s (putCore p c s) p c :=
  ⟨coreOf_putCore_same .., onlyCore_putCore ..⟩

namespace Turns

variable {s u v : State} {p : Nat} {c d : Steward}

theorem trans (h : Turns s u p c) (k : Turns u v p d) : Turns s v p d := ⟨k.1, h.2.trans k.2⟩

/-- What is traced before and after a change of the steward. -/
theorem traced_before (h : OnlyTrace s u) (k : Turns u v p d) : Turns s v p d := ⟨k.1, (h.onlyCore p).trans k.2⟩

theorem traced_after (h : Turns s u p c) (k : OnlyTrace u v) : Turns s v p c :=
  ⟨(k.coreOf p).trans h.1, h.2.trans (k.onlyCore p)⟩

theorem stwNext {cmd : Instr} {f : Steward → Steward} (h : Turns s u p (f (coreOf s p))) (hexec : exec cmd s = .next u) :
    StwNext s cmd p f := ⟨u, hexec, h.1, h.2.alone⟩

end Turns

/-! ### Instructions that complete (R457) -/

/-- The steward goes on at `t`. -/
def jumped (t : Word) (c : Steward) : Steward := { c with pc := t &&& 0xFFFFFFFC }

section Completes

variable {s u : State} (h : OnlyTrace s u) (p : Nat)
include h

theorem turns_putCore_traced (c : Steward) : Turns s (putCore p c u) p c := (turns_putCore p c u).traced_before h

theorem turns_stwDone (f : Steward → Steward) : Turns s (stwDone p f u) p (pcNext (f (coreOf s p))) := by
  rw [← h.coreOf]
  exact turns_putCore_traced h p _

theorem turns_stwGive (rd : Nat) (v : Word) : Turns s (stwGive p rd v u) p (pcNext (gWrite rd v (coreOf s p))) :=
  turns_stwDone h p _

theorem turns_stwGoto (t : Word) : Turns s (stwGoto p t u) p (jumped t (coreOf s p)) := by
  rw [← h.coreOf]
  exact turns_putCore_traced h p _

end Completes

theorem Turns.goto {s u : State} {p : Nat} {c : Steward} (h : Turns s u p c) (t : Word) :
    Turns s (stwGoto p t u) p (jumped t c) := by
  have hgoes := h.trans (turns_stwGoto (.refl u) p t)
  rwa [h.1] at hgoes

/-! ### Exceptions (R482, R483) -/

/-- Steward `c` after an exception: what `takeException` makes of it while EXL is 0. -/
def trapped (k : Cause) (info line addr : Nat) (c : Steward) : Steward :=
  let esr : Word := BitVec.ofNat 32 (k.code + 2 ^ 8 * line + 2 ^ 16 * info)
  let vec := if c.priv = 2 then c.gvec else c.evec
  let d := { c with
    ie := false, exl := true, pc := if k = Cause.int then vec + 0x80 else vec, cause := k.code, miss := none, await := none
    run := .executing, eva := if k.setsEva then BitVec.ofNat 32 addr else c.eva }
  if c.priv = 2 then { d with gepsr := psrOf c, gepc := c.pc, gesr := esr }
  else { d with epsr := psrOf c, epc := c.pc, esr := esr, priv := 1 }

theorem turns_takeException {s : State} {p : Nat} (h : (coreOf s p).exl = false) (k : Cause) (info line addr : Nat) :
    Turns s (takeException p k info line addr s) p (trapped k info line addr (coreOf s p)) := by
  have hexc (pc : Word) : OnlyTrace s (traced p (fun q => emitExc p q pc k.code line) s) :=
    onlyTrace_traced fun _ _ => onlyTrace_emitExc ..
  unfold takeException
  dsimp only
  rw [if_neg (by simp [h])]
  exact ((turns_putCore p _ _).traced_before (hexc _)).traced_after (onlyTrace_traced fun _ _ => onlyTrace_emitInd ..)

theorem Cause.code_eq_int_iff (k : Cause) : k.code = 16 ↔ k = .int := by cases k <;> decide

/-- The address that EVA takes with a cause, where the cause sets it (R481). -/
def Cause.eva (k : Cause) (addr : Nat) : Option Nat := if k.setsEva then some addr else none

theorem takes_trapped (k : Cause) (info line addr : Nat) (c : Steward) :
    Takes c (trapped k info line addr c) k.code info line (k.eva addr) := by
  have heva : (if k.setsEva then BitVec.ofNat 32 addr else c.eva) = (match k.eva addr with
      | some a => BitVec.ofNat 32 a
      | none => c.eva) := by
    unfold Cause.eva
    cases k.setsEva <;> rfl
  have hint (w : Word) : (if k = .int then w + 0x80 else w) = if k.code = 16 then w + 0x80 else w := by
    simp only [Cause.code_eq_int_iff]
  unfold trapped
  by_cases hpriv : c.priv = 2
  · simp only [if_pos hpriv, hint]
    refine ⟨rfl, rfl, rfl, rfl, rfl, rfl, heva, ?_⟩
    rw [if_pos hpriv]
    exact ⟨hpriv, rfl, rfl, rfl, rfl⟩
  · simp only [if_neg hpriv, hint]
    refine ⟨rfl, rfl, rfl, rfl, rfl, rfl, heva, ?_⟩
    rw [if_neg hpriv]
    exact ⟨rfl, rfl, rfl, rfl, rfl⟩

/-- A command that takes an exception, with what is traced before it. -/
theorem traps_takeException {s u : State} {cmd : Instr} {p : Nat} {k : Cause} {info line addr : Nat} (h : OnlyTrace s u)
    (hexec : exec cmd s = .next (takeException p k info line addr u)) : Traps s cmd p k.code info line (k.eva addr) := by
  intro hexl
  have hcore := h.coreOf p
  obtain ⟨hturned, hcoreOnly⟩ := (turns_takeException (p := p) (s := u) (by rw [hcore, hexl]) k info line addr).traced_before h
  refine ⟨_, hexec, ?_, hcoreOnly.alone⟩
  rw [hturned, hcore]
  exact takes_trapped ..

/-! ### The clock of a steward (R654) -/

/-- A steward without the state of its clock. -/
def unclocked (c : Steward) : Steward := { c with cycles := 0, cycleAt := none, gated := false, gatedAt := 0 }

/-- Stewards that differ in their clocks alone hold the same program state. -/
theorem fields_of_unclocked {c d : Steward} (h : unclocked c = unclocked d) :
    c.run = d.run ∧ c.gpr = d.gpr ∧ c.pc = d.pc ∧ c.epc = d.epc ∧ c.haltDue = d.haltDue := by
  have hfield {α : Type} (g : Steward → α) : g (unclocked c) = g (unclocked d) := by rw [h]
  exact ⟨hfield Steward.run, hfield Steward.gpr, hfield Steward.pc, hfield Steward.epc, hfield Steward.haltDue⟩

theorem onlyCore_stopClock (reason p : Nat) (s : State) : OnlyCore s (stopClock reason p s) p := by
  unfold stopClock
  split
  · exact (OnlyTrace.refl s).onlyCore p
  · exact ((onlyTrace_traced fun k _ => onlyTrace_emitPwr reason p k s).onlyCore p).trans (onlyCore_putCore ..)

theorem unclocked_stopClock (reason p : Nat) (s : State) : unclocked (coreOf (stopClock reason p s) p) = unclocked (coreOf s p) := by
  have htraced : OnlyTrace s (traced p (emitPwr reason p) s) := onlyTrace_traced fun _ _ => onlyTrace_emitPwr ..
  unfold stopClock
  split
  · rfl
  · dsimp only
    rw [coreOf_putCore_same, htraced.coreOf]
    rfl

theorem onlyCore_startClock (p : Nat) (s : State) : OnlyCore s (startClock p s) p := by
  unfold startClock
  split
  · exact onlyCore_putCore ..
  · exact (OnlyTrace.refl s).onlyCore p

theorem unclocked_startClock (p : Nat) (s : State) : unclocked (coreOf (startClock p s) p) = unclocked (coreOf s p) := by
  unfold startClock
  split
  · rw [coreOf_putCore_same]
    rfl
  · rfl

theorem startClock_running {p : Nat} {s : State} (h : (coreOf s p).gated = false) : startClock p s = s := by
  unfold startClock
  rw [if_neg (by simp [h])]

/-! ### Double faults (R485) -/

/-- The host event of a stopped steward raises no line of a steward. -/
theorem hostEvent_stopped (s : State) : (hostEvent 5 s).stw = s.stw ∧ ∀ b, hstA 4 < b → rdReg (hostEvent 5 s) b = rdReg s b := by
  have hmsix (x : State) : (msix 5 x).stw = x.stw ∧ (msix 5 x).regs = x.regs := by
    unfold msix
    split
    · exact ⟨rfl, rfl⟩
    split
    · exact ⟨rfl, rfl⟩
    · exact ⟨rfl, rfl⟩
  have heq : hostEvent 5 s = if rdBit s (hstA 4) 5 then s else msix 5 (setBit s (hstA 4) 5) := rfl
  rw [heq]
  split
  · exact ⟨rfl, fun _ _ => rfl⟩
  · obtain ⟨hstw, hregs⟩ := hmsix (setBit s (hstA 4) 5)
    refine ⟨hstw, fun b hb => ?_⟩
    rw [rdReg, hregs]
    exact rdReg_setBit_other s 5 (by omega)

theorem doubleFault_stops (p : Nat) (s : State) :
    unclocked (coreOf (doubleFault p s) p) = unclocked { coreOf s p with run := .stopped, miss := none } ∧
      rdBit (doubleFault p s) (stwA p 4) 2 = true := by
  have habove : hstA 4 < stwA p 4 := by unfold stwA physA hstA; omega
  have htraced : hstA 0 ≤ stwA p 4 := by unfold stwA physA hstA; omega
  unfold doubleFault
  extract_lets c stopped
  obtain ⟨hstw, hregs⟩ := hostEvent_stopped stopped
  constructor
  · rw [unclocked_stopClock, coreOf_congr (report_stw ..), coreOf_congr hstw]
    exact congrArg unclocked ((coreOf_congr (setBit_stw ..) p).trans (coreOf_putCore_same ..))
  · rw [rdBit, (onlyCore_stopClock ..).regs _ (.inr htraced), rdReg, report_regs, ← rdReg, hregs _ habove]
    exact rdBit_setBit_same _ _ (by decide)

end Sys2Proof.Machine
end

section
/-! PROOFS. How an instruction of a steward is issued: fetch, decoding, condition and level (R457, R458, R460, R474, R482). -/

namespace Sys2Proof.Machine

theorem exec_stwInstrs : ∀ q ∈ stwInstrs, ∀ (p : Nat) (s : State), exec (q.1 p) s = .next (stwStep q.2 p s) := by
  unfold stwInstrs
  repeat' refine List.forall_mem_cons.2 ⟨fun _ _ => rfl, ?_⟩
  exact List.forall_mem_nil _

theorem exec_stwInstr {f : Nat → Instr} {row : StwRow} (h : (f, row) ∈ stwInstrs) (p : Nat) (s : State) :
    exec (f p) s = .next (stwStep row p s) := exec_stwInstrs _ h p s

section Ready

variable {s : State} {p : Nat} {w : Word} {i : StwIns} (row : StwRow) (hready : stwReady s p = true)
include hready

theorem stwStep_denied (hfetch : stwFetch s p = .denied) :
    stwStep row p s = takeException p .ifetch 0 0 0 (traceBoundary p s) := by
  unfold stwStep
  simp only [hready, hfetch]
  rfl

theorem stwStep_miss {l : Nat} (hfetch : stwFetch s p = .miss l) : stwStep row p s =
    putCore p { coreOf s p with miss := some { addr := (coreOf s p).pc.toNat, line := l, instr := true } } s := by
  unfold stwStep
  simp only [hready, hfetch]
  rfl

theorem stwStep_illegal (hfetch : stwFetch s p = .word w) (hdecode : stwDecode w = none) :
    stwStep row p s = takeException p .illegal 0 0 0 (traceBoundary p s) := by
  unfold stwStep
  simp only [hready, hfetch, hdecode]
  rfl

/-- What a command does with the instruction that it finds at PC. -/
theorem stwStep_decoded (hfetch : stwFetch s p = .word w) (hdecode : stwDecode w = some i) : stwStep row p s =
    if i.row ≠ row then s
    else if !condHolds (coreOf s p) w then stwSkip p i (traceBoundary p s)
    else if stwPriv (coreOf s p) i then takeException p .priv 0 0 0 (traceBoundary p s)
    else stwDo p i (traceBoundary p s) := by
  unfold stwStep
  simp only [hready, hfetch, hdecode]
  rfl

end Ready

/-- A condition that fails leaves a NOP, and the atom of a branch. -/
theorem turns_stwSkip (p : Nat) (i : StwIns) (s : State) : Turns s (stwSkip p i s) p (pcNext (coreOf s p)) := by
  have hcompletes {u : State} (h : OnlyTrace s u) : Turns s (stwDone p id u) p (pcNext (coreOf s p)) :=
    turns_stwDone h p id
  unfold stwSkip
  split
  · exact hcompletes (onlyTrace_traceCond ..)
  · exact hcompletes (onlyTrace_traceCond ..)
  · exact hcompletes (onlyTrace_traceCond ..)
  · exact hcompletes (.refl s)

namespace StwRuns

variable {s : State} {p : Nat} {row : StwRow} {i : StwIns} {cmd : Instr}

theorem row_eq (h : StwRuns s p row i) : i.row = row := by
  obtain ⟨-, w, -, -, hrow, -, -⟩ := h
  exact hrow

theorem step (h : StwRuns s p row i) : stwStep row p s = stwDo p i (traceBoundary p s) := by
  obtain ⟨hready, w, hfetch, hdecode, hrow, hcond, hpriv⟩ := h
  rw [stwStep_decoded row hready hfetch hdecode, if_neg (by simp [hrow]), if_neg (by simp [hcond]), if_neg (by simp [hpriv])]

/-- An instruction that runs does its work after the boundary is traced. -/
theorem exec (h : StwRuns s p row i) (hexec : exec cmd s = .next (stwStep row p s)) :
    ∃ u, OnlyTrace s u ∧ exec cmd s = .next (stwDo p i u) :=
  ⟨_, onlyTrace_traceBoundary p s, by rw [hexec, h.step]⟩

/-- An instruction that turns its steward into what `f` gives of it. -/
theorem stwNext {f : Steward → Steward} (h : StwRuns s p row i) (hexec : Machine.exec cmd s = .next (stwStep row p s))
    (hdo : ∀ u, OnlyTrace s u → Turns s (stwDo p i u) p (f (coreOf s p))) : StwNext s cmd p f := by
  obtain ⟨u, htraced, hrun⟩ := h.exec hexec
  exact (hdo u htraced).stwNext hrun

/-- An instruction that takes an exception. -/
theorem traps {k : Cause} {info addr : Nat} (h : StwRuns s p row i) (hexec : Machine.exec cmd s = .next (stwStep row p s))
    (hdo : ∀ u, OnlyTrace s u → stwDo p i u = takeException p k info 0 addr u) :
    Traps s cmd p k.code info 0 (k.eva addr) := by
  obtain ⟨u, htraced, hrun⟩ := h.exec hexec
  rw [hdo u htraced] at hrun
  exact traps_takeException htraced hrun

end StwRuns

end Sys2Proof.Machine

open Sys2Proof Sys2Proof.Machine

/-- Settles O46: each way in which an instruction is issued is one branch of `stwStep`. That a command which names another
instruction has no effect, and that a missing line is filled first, is the model's choice (log entry 68). -/
theorem stewardIssue : Obligations.StewardIssue := by
  unfold Obligations.StewardIssue
  intro s p f row hinstr hready
  have hexec := exec_stwInstr hinstr p s
  have htraced := onlyTrace_traceBoundary p s
  refine ⟨fun hfetch => ?denied, fun l hfetch => by rw [hexec, stwStep_miss row hready hfetch], fun w hfetch => ⟨fun hdecode => ?illegal,
    fun i hdecode => ?decoded⟩⟩
  case denied =>
    rw [stwStep_denied row hready hfetch] at hexec
    refine ⟨traps_takeException (k := .ifetch) htraced hexec, fun hexl hpriv => ⟨_, hexec, ?_⟩⟩
    have hstops : takeException p .ifetch 0 0 0 (traceBoundary p s) = doubleFault p (traceBoundary p s) := by
      unfold takeException
      dsimp only
      rw [htraced.coreOf, if_pos hexl, if_neg hpriv]
    obtain ⟨hcore, hflag⟩ := doubleFault_stops p (traceBoundary p s)
    rw [htraced.coreOf] at hcore
    rw [hstops]
    obtain ⟨hrun, hgpr, hpc, hepc, -⟩ := fields_of_unclocked hcore
    exact ⟨hrun, hgpr, hpc, hepc, hflag⟩
  case illegal =>
    rw [stwStep_illegal row hready hfetch hdecode] at hexec
    exact traps_takeException (k := .illegal) htraced hexec
  case decoded =>
    rw [stwStep_decoded row hready hfetch hdecode] at hexec
    refine ⟨fun hother => by rw [hexec, if_pos hother], fun hrow => ⟨fun hcond => ?_, fun hcond hpriv => ?_⟩⟩
    · rw [if_neg (not_not.2 hrow), if_pos (by simp [hcond])] at hexec
      have hskips := (turns_stwSkip p i (traceBoundary p s)).traced_before htraced
      rw [htraced.coreOf] at hskips
      exact hskips.stwNext hexec
    · rw [if_neg (not_not.2 hrow), if_neg (by simp [hcond]), if_pos hpriv] at hexec
      exact traps_takeException (k := .priv) htraced hexec

end

section
/-! PROOFS. Control flow, levels and system registers of a steward (R457, R480, R481, R483, R486). -/

namespace Sys2Proof.Machine

/-! ### The instructions by their rows (R460, R461) -/

section Rows

variable {i : StwIns} (p : Nat) (s : State)

theorem stwDo_b (h : i.row = .b) : stwDo p i s = stwGoto p ((coreOf s p).pc + i.branch) (traceCond p i true s) := by
  unfold stwDo; rw [h]

theorem stwDo_bl (h : i.row = .bl) : stwDo p i s = stwGoto p ((coreOf s p).pc + i.branch)
    (putCore p (gWrite 23 ((coreOf s p).pc + 4) (coreOf (traceCond p i true s) p)) (traceCond p i true s)) := by
  unfold stwDo; rw [h]

theorem stwDo_jr (h : i.row = .jr) : stwDo p i s = stwJr p i (gRead (coreOf s p) i.ra) s := by unfold stwDo; rw [h]

theorem stwDo_sys (h : i.row = .sys) : stwDo p i s = takeException p .sys i.imm12 0 0 s := by unfold stwDo; rw [h]

theorem stwDo_brk (h : i.row = .brk) : stwDo p i s = takeException p .brk i.imm12 0 0 s := by unfold stwDo; rw [h]

theorem stwDo_rfe (h : i.row = .rfe) : stwDo p i s = stwRfe p s := by unfold stwDo; rw [h]

theorem stwDo_mfsr (h : i.row = .mfsr) : stwDo p i s =
    stwDone p (fun x => gWrite i.rd (sysRead s p i.imm12) (sysReadEffect s p i.imm12 x)) s := by
  unfold stwDo; rw [h]

theorem stwDo_mtsr (h : i.row = .mtsr) : stwDo p i s = stwDone p (sysWrite i.imm12 (gRead (coreOf s p) i.ra))
    (whenDo (decide (i.imm12 = 0x030)) (irqClear p (gRead (coreOf s p) i.ra)) s) := by
  unfold stwDo; rw [h]

theorem stwDo_gcall (h : i.row = .gcall) : stwDo p i s = stwGcall p (i.imm12 % 64) s := by unfold stwDo; rw [h]

theorem stwDo_gret (h : i.row = .gret) : stwDo p i s = stwGret p s := by unfold stwDo; rw [h]

end Rows

/-! ### Branches and jumps (R460, R482) -/

/-- A jump to an aligned target leaves the return address in RD. -/
theorem turns_stwJr {s u : State} (h : OnlyTrace s u) (p : Nat) (i : StwIns) {t : Word} (haligned : t.toNat % 4 = 0) :
    Turns s (stwJr p i t u) p (jumped t (gWrite i.rd ((coreOf s p).pc + 4) (coreOf s p))) := by
  unfold stwJr
  rw [if_neg (not_not.2 haligned), h.coreOf]
  exact (turns_putCore_traced ((h.trans (onlyTrace_traceCond ..)).trans (onlyTrace_traceInd ..)) p _).goto t

theorem stwJr_misaligned (p : Nat) (i : StwIns) {t : Word} (h : t.toNat % 4 ≠ 0) (s : State) :
    stwJr p i t s = takeException p .align 0 0 t.toNat s := if_pos h

/-! ### System registers (R480, R481, R484) -/

namespace OnlyTrace

variable {s u : State} (h : OnlyTrace s u)
include h

theorem cpuid (p : Nat) : cpuid u p = cpuid s p := by
  have haddress : rdReg u (hstA 0x104) = rdReg s (hstA 0x104) := h.regs _ (.inr (by decide))
  unfold Machine.cpuid assigned devAddr rdBit rdFld
  rw [h.logOf, haddress]

theorem sysRead (p n : Nat) : sysRead u p n = sysRead s p n := by
  unfold Machine.sysRead
  rw [h.coreOf, h.cpuid, h.cyclesNow, h.irqPendOf]

theorem sysReadEffect (p n : Nat) (c : Steward) : sysReadEffect u p n c = sysReadEffect s p n c := by
  unfold Machine.sysReadEffect
  rw [h.cyclesNow]

end OnlyTrace

/-- The pending lines of every steward stay when one changes in anything else. -/
theorem irqPendOf_putCore {p : Nat} {c : Steward} {s : State} (h : c.irqPend = (coreOf s p).irqPend) (q : Nat) :
    irqPendOf (putCore p c s) q = irqPendOf s q := by
  have hlatched : (coreOf (putCore p c s) q).irqPend = (coreOf s q).irqPend := by
    by_cases hq : q = p
    · rw [hq, coreOf_putCore_same, h]
    · rw [coreOf_putCore_other hq]
  unfold irqPendOf
  rw [hlatched]
  rfl

theorem coreOf_irqClear (p : Nat) (v : Word) (s : State) :
    coreOf (irqClear p v s) p = { coreOf s p with irqPend := (coreOf s p).irqPend &&& ~~~ v } := coreOf_putCore_same ..

/-- A write of IRQ_PEND clears the lines written 1, those latched alone and those of every steward. -/
theorem irqPendOf_irqClear (p : Nat) (v : Word) (s : State) : irqPendOf (irqClear p v s) p = irqPendOf s p &&& ~~~ v := by
  have hcleared : mapGet 0#32 (irqClear p v s).stw.bcClr p = mapGet 0#32 s.stw.bcClr p ||| (v &&& s.stw.bcast) :=
    mapGet_mapSet_same
  have hbcast : (irqClear p v s).stw.bcast = s.stw.bcast := rfl
  unfold irqPendOf
  rw [coreOf_irqClear, hcleared, hbcast]
  refine BitVec.eq_of_getLsbD_eq fun j hj => ?_
  simp only [BitVec.getLsbD_or, BitVec.getLsbD_and, BitVec.getLsbD_not, hj, decide_true, Bool.true_and]
  cases v.getLsbD j <;> cases s.stw.bcast.getLsbD j <;> simp

theorem irqClear_others {p q : Nat} (h : q ≠ p) (v : Word) (s : State) :
    coreOf (irqClear p v s) q = coreOf s q ∧ irqPendOf (irqClear p v s) q = irqPendOf s q := by
  have hcore : coreOf (irqClear p v s) q = coreOf s q := coreOf_putCore_other h ..
  have hcleared : mapGet 0#32 (irqClear p v s).stw.bcClr q = mapGet 0#32 s.stw.bcClr q := mapGet_mapSet_other h
  refine ⟨hcore, ?_⟩
  unfold irqPendOf
  rw [hcore, hcleared]
  rfl

/-- MTSR of IRQ_PEND leaves of its steward all but the lines and PC. -/
theorem stwDone_irqClear (p : Nat) (v : Word) (s : State) :
    let t := stwDone p (sysWrite 0x030 v) (irqClear p v s)
    irqPendOf t p = irqPendOf s p &&& ~~~ v ∧ (coreOf t p).pc = (coreOf s p).pc + 4 ∧ (coreOf t p).gpr = (coreOf s p).gpr ∧
      ∀ q, q ≠ p → coreOf t q = coreOf s q ∧ irqPendOf t q = irqPendOf s q := by
  have hwrite : sysWrite 0x030 v (coreOf (irqClear p v s) p) = coreOf (irqClear p v s) p := rfl
  have hdone : stwDone p (sysWrite 0x030 v) (irqClear p v s) =
      putCore p (pcNext (coreOf (irqClear p v s) p)) (irqClear p v s) := by
    unfold stwDone
    rw [hwrite]
    rfl
  have hpend (q : Nat) := irqPendOf_putCore (p := p) (c := pcNext (coreOf (irqClear p v s) p)) (s := irqClear p v s) rfl q
  intro t
  unfold t
  rw [hdone, coreOf_putCore_same, hpend]
  refine ⟨irqPendOf_irqClear .., by rw [coreOf_irqClear]; rfl, by rw [coreOf_irqClear]; rfl, fun q hq => ?_⟩
  obtain ⟨hcore, hlines⟩ := irqClear_others hq v s
  exact ⟨(coreOf_putCore_other hq ..).trans hcore, (hpend q).trans hlines⟩

/-! ### Levels (R483, R486) -/

theorem psrOf_setPsr (v : BitVec 8) (c : Steward) : psrOf (setPsr v c) = v := by
  have hfields : ∀ x : BitVec 8,
      BitVec.ofNat 8 (fld x 0 2 + 4 * b2n (x.getLsbD 2) + 8 * b2n (x.getLsbD 3) + 16 * (BitVec.ofNat 4 (fld x 4 4)).toNat) = x := by
    decide
  exact hfields v

section Levels

variable {s u : State} (h : OnlyTrace s u) (p : Nat)
include h

/-- RFE takes PSR and PC from the registers of its level. -/
theorem turns_stwRfe : Turns s (stwRfe p u) p (if (coreOf s p).priv = 2
    then jumped (coreOf s p).gepc (setPsr (coreOf s p).gepsr (coreOf s p))
    else jumped (coreOf s p).epc (setPsr (coreOf s p).epsr (coreOf s p))) := by
  unfold stwRfe
  rw [h.coreOf]
  by_cases hpriv : (coreOf s p).priv = 2
  · simp only [if_pos hpriv]
    exact turns_putCore_traced (h.trans (onlyTrace_traceInd ..)) p _
  · simp only [if_neg hpriv]
    exact turns_putCore_traced (h.trans (onlyTrace_traceInd ..)) p _

theorem turns_stwGcall (n : Nat) : Turns s (stwGcall p n u) p { coreOf s p with
    gra := (coreOf s p).pc + 4, priv := 2, ie := false, pc := BitVec.ofNat 32 (0xF0000000 + 0x40 * n), gEntry := n
    gcall := some { ie := (coreOf s p).ie, exl := (coreOf s p).exl, cycle := cyclesNow s p } } := by
  have hgin : OnlyTrace s (if granted u 0 then u else traced p (emitGin p) u) := by
    split
    · exact h
    · exact h.trans (onlyTrace_traced fun _ _ => onlyTrace_emitGin ..)
  unfold stwGcall
  dsimp only
  rw [hgin.coreOf, hgin.cyclesNow]
  exact turns_putCore_traced hgin p _

/-- GRET without a HALT that waits for it. -/
theorem turns_stwGret {g : GCall} (hcall : (coreOf s p).gcall = some g) (hhalt : (coreOf s p).haltDue = false) :
    Turns s (stwGret p u) p
      { coreOf s p with priv := 1, ie := g.ie, exl := g.exl, pc := (coreOf s p).gra, gLast := 1, gcall := none } := by
  unfold stwGret
  rw [h.coreOf]
  extract_lets c s1 call d c1 s2 s3 e
  have htraced : OnlyTrace s s1 := by
    unfold s1
    split
    · split
      · exact h.trans (onlyTrace_emitGout ..)
      · exact h.trans (onlyTrace_traceInd ..)
    · exact h
  have hreturned : c1 = { c with priv := 1, ie := g.ie, exl := g.exl, pc := c.gra, gLast := 1, gcall := none } := by
    have hcore : d = c := htraced.coreOf p
    unfold c1 call
    rw [hcore, hcall]
    rfl
  rw [if_neg (by simp [c, hhalt]), ← hreturned]
  exact turns_putCore_traced htraced p c1

end Levels

end Sys2Proof.Machine

open Sys2Proof Sys2Proof.Machine

/-- Settles O49: each instruction by what it makes of its steward. That MTSR of a read-only register completes without effect is the
model's choice (log entry 72). -/
theorem stewardControlFlow : Obligations.StewardControlFlow := by
  unfold Obligations.StewardControlFlow
  intro s p i c a goto'
  refine ⟨fun h => h.stwNext rfl fun u hu => ?b, fun h => h.stwNext rfl fun u hu => ?bl, fun h => ⟨fun haligned => ?jr, fun hmis => ?jrAlign⟩,
    fun h => ?sys, fun h => ?brk, fun h => h.stwNext rfl fun u hu => ?rfe, fun h => h.stwNext rfl fun u hu => ?mfsr,
    fun h => ⟨fun hother => ?mtsr, fun hpend => ?mtsrPend⟩, fun h => h.stwNext rfl fun u hu => ?gcall,
    fun g h hcall hhalt => h.stwNext rfl fun u hu => ?gret, fun v => ⟨psrOf_setPsr v c, rfl, rfl⟩⟩
  case b =>
    rw [stwDo_b p u h.row_eq, hu.coreOf]
    exact turns_stwGoto (hu.trans (onlyTrace_traceCond ..)) p _
  case bl =>
    have htraced := hu.trans (onlyTrace_traceCond p i true u)
    rw [stwDo_bl p u h.row_eq, htraced.coreOf, hu.coreOf]
    exact (turns_putCore_traced htraced p _).goto _
  case jr =>
    refine h.stwNext rfl fun u hu => ?_
    rw [stwDo_jr p u h.row_eq, hu.coreOf]
    exact turns_stwJr hu p i haligned
  case jrAlign =>
    refine h.traps (k := .align) rfl fun u hu => ?_
    rw [stwDo_jr p u h.row_eq, hu.coreOf, stwJr_misaligned p i hmis]
  case sys => exact h.traps (k := .sys) (addr := 0) rfl fun u _ => stwDo_sys p u h.row_eq
  case brk => exact h.traps (k := .brk) (addr := 0) rfl fun u _ => stwDo_brk p u h.row_eq
  case rfe =>
    rw [stwDo_rfe p u h.row_eq]
    exact turns_stwRfe hu p
  case mfsr =>
    rw [stwDo_mfsr p u h.row_eq, hu.sysRead]
    simp only [hu.sysReadEffect]
    exact turns_stwDone hu p _
  case mtsr =>
    refine h.stwNext rfl fun u hu => ?_
    rw [stwDo_mtsr p u h.row_eq, decide_eq_false hother, hu.coreOf]
    exact turns_stwDone hu p _
  case mtsrPend =>
    obtain ⟨u, hu, hexec⟩ := h.exec (cmd := .mtsr p) rfl
    rw [stwDo_mtsr p u h.row_eq, hpend, hu.coreOf] at hexec
    refine ⟨_, hexec, ?_⟩
    have hdone := stwDone_irqClear p a u
    simp only [hu.irqPendOf, hu.coreOf] at hdone
    exact hdone
  case gcall =>
    rw [stwDo_gcall p u h.row_eq]
    exact turns_stwGcall hu p _
  case gret =>
    rw [stwDo_gret p u h.row_eq]
    exact turns_stwGret hu p hcall hhalt

end

section
/-! PROOFS. Instructions that reach other units: the scheduler's flows and posts, the spring's counts and the attic's mailbox (R466 to
R470, R504 to R508, R609). -/

namespace Sys2Proof.Machine

section Rows

variable {i : StwIns} (p : Nat) (s : State)

theorem stwDo_wft (h : i.row = .wft) : stwDo p i s = stwWft p (i.imm12 % 4) i.rd (gRead (coreOf s p) i.ra) s := by
  unfold stwDo; rw [h]

theorem stwDo_post (h : i.row = .post) : stwDo p i s = stwPost p i.rd (gRead (coreOf s p) i.ra) (gRead (coreOf s p) i.rb) s := by
  unfold stwDo; rw [h]

theorem stwDo_fclaim (h : i.row = .fclaim) : stwDo p i s = stwFclaim p i.rd i.pdQ (gRead (coreOf s p) i.ra) s := by
  unfold stwDo; rw [h]

theorem stwDo_frel (h : i.row = .frel) : stwDo p i s = stwFrel p (gRead (coreOf s p) i.ra) s := by unfold stwDo; rw [h]

theorem stwDo_amb (h : i.row = .amb) :
    stwDo p i s = stwAmb p i.rd (gRead (coreOf s p) i.ra).toNat (gRead (coreOf s p) i.rb).toNat s := by
  unfold stwDo; rw [h]

end Rows

/-! ### General registers (R456) -/

theorem gRead_gWrite_same (r : Nat) (v : Word) (c : Steward) : gRead (gWrite r v c) r = if r < 24 then v else 0 := by
  unfold gRead gWrite
  split
  · exact mapGet_mapSet_same
  · rfl

theorem gRead_gWrite_other {r k : Nat} (h : k ≠ r) (v : Word) (c : Steward) : gRead (gWrite r v c) k = gRead c k := by
  unfold gRead gWrite
  split
  · split
    · exact mapGet_mapSet_other h
    · rfl
  · rfl

theorem gWrite_pc (r : Nat) (v : Word) (c : Steward) : (gWrite r v c).pc = c.pc := by
  unfold gWrite
  split
  · rfl
  · rfl

/-! ### Interrupt lines of a steward (R484) -/

/-- A steward without the lines that it has latched. -/
def withoutLines (c : Steward) : Steward := { c with irqPend := 0 }

/-- Stewards that differ in their lines alone hold the same program state. -/
theorem fields_of_withoutLines {c d : Steward} (h : withoutLines c = withoutLines d) :
    c.run = d.run ∧ c.gpr = d.gpr ∧ c.pc = d.pc := by
  have hfield {α : Type} (g : Steward → α) : g (withoutLines c) = g (withoutLines d) := by rw [h]
  exact ⟨hfield Steward.run, hfield Steward.gpr, hfield Steward.pc⟩

theorem coreOf_raiseLine_same (p line : Nat) (s : State) :
    coreOf (raiseLine p line s) p = { coreOf s p with irqPend := (coreOf s p).irqPend ||| (1#32 <<< line) } :=
  (coreOf_congr (stw_wakeLine ..) p).trans (coreOf_putCore_same ..)

theorem coreOf_raiseLine_other {p q : Nat} (h : q ≠ p) (line : Nat) (s : State) : coreOf (raiseLine p line s) q = coreOf s q :=
  (coreOf_congr (stw_wakeLine ..) q).trans (coreOf_putCore_other h ..)

theorem withoutLines_raiseLine (p line : Nat) (s : State) (q : Nat) :
    withoutLines (coreOf (raiseLine p line s) q) = withoutLines (coreOf s q) := by
  by_cases hq : q = p
  · rw [hq, coreOf_raiseLine_same]
    rfl
  · rw [coreOf_raiseLine_other hq]

theorem withoutLines_commitSched (p : Nat) (x : Sched) (s : State) (q : Nat) :
    withoutLines (coreOf (commitSched p x s) q) = withoutLines (coreOf s q) := by
  unfold commitSched whenDo
  split
  · exact withoutLines_raiseLine ..
  · rfl

/-! ### WFT (R467) -/

theorem wftReached_iff {s : State} {kind : Nat} {v : Word} :
    wftReached s kind v = true ↔ s.chip.devState = .running ∧ 0 ≤ (wftCount s kind - v).toInt := by
  unfold wftReached
  simp [BitVec.msb_eq_toInt]

/-- A WFT whose count has come gives it; another waits. -/
theorem turns_stwWft {s u : State} (h : OnlyTrace s u) (p kind rd : Nat) (v : Word) : Turns s (stwWft p kind rd v u) p
    (if wftReached s kind v then pcNext (gWrite rd (wftCount s kind) (coreOf s p))
     else { coreOf s p with run := .waiting, await := some (kind, v, rd) }) := by
  have hcount : wftCount u kind = wftCount s kind := by rw [wftCount, h.spr]; rfl
  have hreached : wftReached u kind v = wftReached s kind v := by rw [wftReached, hcount, h.chip]; rfl
  unfold stwWft
  rw [hreached, hcount, h.coreOf]
  split
  · exact turns_stwGive h p rd _
  · exact turns_putCore_traced h p _

/-! ### Flows (R469, R506, R514) -/

theorem putSched_stw_congr {s u : State} (h : u.stw = s.stw) (p : Nat) (x : Sched) : (putSched p x u).stw = (putSched p x s).stw := by
  unfold putSched
  rw [h]

theorem coreOf_putSched (p : Nat) (x : Sched) (s : State) (q : Nat) : coreOf (putSched p x s) q = coreOf s q := rfl

theorem itemLost_stw (p f : Nat) (s : State) : (itemLost p f s).stw = s.stw := by
  unfold itemLost
  rw [report_stw, setBit_stw, setBit_stw]

/-- What the head of a flow gives depends on the scheduler alone. -/
theorem readHead_congr (p f n : Nat) {s u : State} (h : u.stw = s.stw) :
    (readHead p f n u).1 = (readHead p f n s).1 ∧ coreOf (readHead p f n u).2 = coreOf s := by
  induction n generalizing s u with
  | zero => exact ⟨rfl, funext (coreOf_congr h)⟩
  | succ n ih =>
    unfold readHead
    dsimp only
    rw [schedOf_congr h]
    split
    · exact ⟨rfl, funext (coreOf_congr h)⟩
    split
    · exact ⟨rfl, funext fun q => (coreOf_putSched p _ u q).trans (coreOf_congr h q)⟩
    · have hlost (x : Sched) := ih (s := itemLost p f (putSched p x s)) (u := itemLost p f (putSched p x u))
        (by rw [itemLost_stw, itemLost_stw, putSched_stw_congr h])
      obtain ⟨hitem, hcore⟩ := hlost _
      refine ⟨hitem, hcore.trans (funext fun q => ?_)⟩
      exact coreOf_congr (itemLost_stw ..) q

theorem schedClaim_congr (p slot f : Nat) {s u : State} (h : u.stw = s.stw) :
    (schedClaim p slot f u).1 = (schedClaim p slot f s).1 ∧ coreOf (schedClaim p slot f u).2 = coreOf s := by
  unfold schedClaim
  dsimp only
  rw [schedOf_congr h]
  split
  · exact ⟨rfl, funext (coreOf_congr h)⟩
  obtain ⟨hitem, hcore⟩ := readHead_congr p f (flowOf (schedOf s p) f).items.length h
  rw [hitem]
  split
  · exact ⟨rfl, hcore⟩
  · exact ⟨rfl, hcore⟩

/-- FCLAIM of a flow: the item and the predicate, or the predicate alone. -/
theorem stwFclaim_claims {s u : State} (h : OnlyTrace s u) (p rd pd : Nat) {ra : Word} (hra : fld ra 7 25 = 0) :
    coreOf (stwFclaim p rd pd ra u) p = pcNext (match (schedClaim p (coreOf s p).thread (fld ra 0 7) s).1 with
      | some v => pWrite pd true (gWrite rd v (coreOf s p))
      | none => pWrite pd false (coreOf s p)) := by
  obtain ⟨hitem, hcore⟩ := schedClaim_congr p (coreOf s p).thread (fld ra 0 7) h.stw
  unfold stwFclaim
  rw [if_neg (not_not.2 hra), h.coreOf, ← hitem]
  generalize schedClaim p (coreOf s p).thread (fld ra 0 7) u = q at hcore
  obtain ⟨_ | v, x⟩ := q
  · rw [← hcore]
    exact (turns_stwDone (.refl x) p _).1
  · rw [← hcore]
    exact (turns_stwDone (.refl x) p _).1

/-- FREL by the slot that holds the flow ends the service: the head item leaves. -/
theorem stwFrel_releases {s u : State} (h : OnlyTrace s u) (p : Nat) {ra : Word} (hra : fld ra 7 25 = 0)
    (hholds : (flowOf (schedOf s p) (fld ra 0 7)).holder = some (coreOf s p).thread) :
    (coreOf (stwFrel p ra u) p).pc = (coreOf s p).pc + 4 ∧ (coreOf (stwFrel p ra u) p).gpr = (coreOf s p).gpr ∧
      flowOf (schedOf (stwFrel p ra u) p) (fld ra 0 7) =
        { items := (flowOf (schedOf s p) (fld ra 0 7)).items.drop 1, holder := none } := by
  have hrelease : schedRelease p (coreOf s p).thread (fld ra 0 7) u = some (commitSched p
      (changeFlow (fld ra 0 7) (fun v => { items := v.items.drop 1, holder := none }) (schedOf s p)) u) := by
    unfold schedRelease
    dsimp only
    rw [h.schedOf, if_pos hholds]
  unfold stwFrel
  rw [if_neg (not_not.2 hra), h.coreOf, hrelease]
  dsimp only
  generalize hx : commitSched p (changeFlow (fld ra 0 7) _ (schedOf s p)) u = x
  have hcore : withoutLines (coreOf x p) = withoutLines (coreOf s p) := by
    rw [← hx, withoutLines_commitSched, h.coreOf]
  obtain ⟨-, hgpr, hpc⟩ := fields_of_withoutLines hcore
  obtain ⟨hdone, honly⟩ := turns_stwDone (.refl x) p id
  rw [hdone, ← hgpr, ← hpc, schedOf, honly.sched, ← schedOf, ← hx, schedOf_commitSched, flowOf_changeFlow]
  exact ⟨rfl, rfl, rfl⟩

theorem stwFrel_foreign {s u : State} (h : OnlyTrace s u) (p : Nat) {ra : Word} (hra : fld ra 7 25 = 0)
    (hholds : (flowOf (schedOf s p) (fld ra 0 7)).holder ≠ some (coreOf s p).thread) :
    stwFrel p ra u = takeException p .flow 0 0 0 u := by
  have hrelease : schedRelease p (coreOf s p).thread (fld ra 0 7) u = none := by
    unfold schedRelease
    dsimp only
    rw [h.schedOf, if_neg hholds]
  unfold stwFrel
  rw [if_neg (not_not.2 hra), h.coreOf, hrelease]

/-! ### POST (R468, R507, R508) -/

/-- A post to a flow with room: status 0, and the item stands at the end. -/
theorem schedPost_accepted {s : State} {p f : Nat} (hactive : rdBit s (tskA p 0) 0 = true)
    (hroom : (flowOf (schedOf s p) f).items.length < flowLimit s p f) (hpool : poolCount (schedOf s p) < 4096) (item : Word) :
    schedPost p f item s = (0, commitSched p
      (changeFlow f (fun w => { w with items := w.items ++ [{ value := item, flips := 0 }] }) (schedOf s p)) s) := by
  unfold schedPost
  dsimp only
  rw [if_neg (by simp [hactive]), if_neg (by omega)]

theorem schedPost_full {s : State} {p f : Nat} (hactive : rdBit s (tskA p 0) 0 = true)
    (hfull : flowLimit s p f ≤ (flowOf (schedOf s p) f).items.length) (item : Word) :
    schedPost p f item s = (1, postRefused p f s) := by
  unfold schedPost
  dsimp only
  rw [if_neg (by simp [hactive]), if_pos (.inl hfull)]

theorem postRefused_stw (p f : Nat) (s : State) : (postRefused p f s).stw = s.stw := by
  unfold postRefused
  rw [incFld_regs]
  dsimp only
  rw [setBit_stw, setBit_stw]

/-- The steward that a POST names (R468). -/
abbrev postTarget (s : State) (p : Nat) (ra : Word) : Nat := if bit ra 16 then p else physOf s (fld ra 8 8)

theorem stwPost_reserved (p rd : Nat) {ra : Word} (h : fld ra 7 1 ≠ 0 ∨ fld ra 17 15 ≠ 0) (item : Word) (s : State) :
    stwPost p rd ra item s = stwGive p rd 2 s := if_pos h

theorem stwPost_reaches {s : State} {p : Nat} {ra : Word} (hra : fld ra 7 1 = 0 ∧ fld ra 17 15 = 0)
    (hbist : mapGet false s.chip.bistOpen (postTarget s p ra) = false) (hshelf : shelfOn s (postTarget s p ra / 17) = true)
    (rd : Nat) (item : Word) : stwPost p rd ra item s =
      stwGive p rd (BitVec.ofNat 32 (schedPost (postTarget s p ra) (fld ra 0 7) item s).1)
        (schedPost (postTarget s p ra) (fld ra 0 7) item s).2 := by
  unfold stwPost
  dsimp only
  rw [if_neg (by simp [hra]), if_neg (by simp [hbist]), if_pos hshelf]

namespace OnlyTrace

variable {s u : State} (h : OnlyTrace s u)
include h

theorem rdReg_physA (p o : Nat) : rdReg u (physA p o) = rdReg s (physA p o) :=
  h.regs _ (.inr (by unfold physA hstA; omega))

theorem flowLimit (p f : Nat) : flowLimit u p f = flowLimit s p f := congrArg (fld · 0 13) (h.rdReg_physA ..)

theorem postTarget (p : Nat) (ra : Word) : postTarget u p ra = postTarget s p ra := by
  unfold Machine.postTarget physOf
  rw [h.chip]

theorem shelfOn (k : Nat) : shelfOn u k = shelfOn s k := by
  rw [Machine.shelfOn, gateOf, h.noc]
  rfl

end OnlyTrace

section Post

variable {s u : State} (h : OnlyTrace s u) {p : Nat} {ra : Word} (hra : fld ra 7 1 = 0 ∧ fld ra 17 15 = 0)
  (hbist : mapGet false s.chip.bistOpen (postTarget s p ra) = false) (hshelf : shelfOn s (postTarget s p ra / 17) = true)
  (hactive : rdBit s (tskA (postTarget s p ra) 0) 0 = true)
include h hra hbist hshelf hactive

/-- POST to a flow with room gives 0, and the item stands at the end of the flow. -/
theorem stwPost_accepted
    (hroom : (flowOf (schedOf s (postTarget s p ra)) (fld ra 0 7)).items.length < flowLimit s (postTarget s p ra) (fld ra 0 7))
    (hpool : poolCount (schedOf s (postTarget s p ra)) < 4096) (rd : Nat) (item : Word) :
    gRead (coreOf (stwPost p rd ra item u) p) rd = 0 ∧ (coreOf (stwPost p rd ra item u) p).pc = (coreOf s p).pc + 4 ∧
      (flowOf (schedOf (stwPost p rd ra item u) (postTarget s p ra)) (fld ra 0 7)).items =
        (flowOf (schedOf s (postTarget s p ra)) (fld ra 0 7)).items ++ [{ value := item, flips := 0 }] := by
  rw [← h.chip, ← h.postTarget] at hbist
  rw [← h.shelfOn, ← h.postTarget] at hshelf
  rw [stwPost_reaches hra hbist hshelf, h.postTarget, schedPost_accepted (by rw [rdBit, tskA, h.rdReg_physA]; exact hactive)
    (by rw [h.schedOf, h.flowLimit]; exact hroom) (by rw [h.schedOf]; exact hpool), h.schedOf]
  dsimp only
  generalize hx : commitSched (postTarget s p ra) _ u = x
  have hcore : withoutLines (coreOf x p) = withoutLines (coreOf s p) := by
    rw [← hx, withoutLines_commitSched, h.coreOf]
  obtain ⟨-, -, hpc⟩ := fields_of_withoutLines hcore
  obtain ⟨hdone, honly⟩ := turns_stwGive (.refl x) p rd (BitVec.ofNat 32 0)
  rw [hdone, schedOf, honly.sched, ← schedOf, ← hx, schedOf_commitSched, flowOf_changeFlow, hx, ← hpc]
  refine ⟨?_, congrArg (· + 4) (gWrite_pc ..), rfl⟩
  refine (gRead_gWrite_same ..).trans ?_
  split
  · rfl
  · rfl

/-- POST to a flow at its limit gives 1. -/
theorem stwPost_full
    (hfull : flowLimit s (postTarget s p ra) (fld ra 0 7) ≤ (flowOf (schedOf s (postTarget s p ra)) (fld ra 0 7)).items.length)
    (rd : Nat) (item : Word) :
    (rd < 24 → gRead (coreOf (stwPost p rd ra item u) p) rd = 1) ∧ (coreOf (stwPost p rd ra item u) p).pc = (coreOf s p).pc + 4 ∧
      schedOf (stwPost p rd ra item u) (postTarget s p ra) = schedOf s (postTarget s p ra) := by
  rw [← h.chip, ← h.postTarget] at hbist
  rw [← h.shelfOn, ← h.postTarget] at hshelf
  rw [stwPost_reaches hra hbist hshelf, h.postTarget, schedPost_full (by rw [rdBit, tskA, h.rdReg_physA]; exact hactive)
    (by rw [h.schedOf, h.flowLimit]; exact hfull)]
  dsimp only
  generalize hx : postRefused (postTarget s p ra) (fld ra 0 7) u = x
  have hstw : x.stw = s.stw := by rw [← hx, postRefused_stw, h.stw]
  obtain ⟨hdone, honly⟩ := turns_stwGive (.refl x) p rd (BitVec.ofNat 32 1)
  rw [hdone, schedOf, honly.sched, hstw, coreOf_congr hstw]
  refine ⟨fun hrd => ?_, congrArg (· + 4) (gWrite_pc ..), rfl⟩
  exact (gRead_gWrite_same ..).trans (if_pos hrd)

end Post

end Sys2Proof.Machine
end

section
/-! PROOFS. AMB: a steward's request to the attic's mailbox (R470, R609). -/

namespace Sys2Proof.Machine

namespace OnlyTrace

variable {s u : State} (h : OnlyTrace s u)
include h

theorem localAt (p va : Nat) : localAt u p va = localAt s p va := by
  have hwindow : rdFld u (stwA p 0x14) 0 10 = rdFld s (stwA p 0x14) 0 10 := rdFld_congr (h.rdReg_physA ..) 0 10
  unfold Machine.localAt
  rw [hwindow]

theorem dataAllowed (p va : Nat) (write : Bool) : dataAllowed u p va write = dataAllowed s p va write := by
  have hwin (n : Nat) : winReg u p n = winReg s p n := h.rdReg_physA ..
  unfold Machine.dataAllowed
  simp only [h.coreOf, h.localAt, hwin]

theorem cacheLine (l : Nat) : cacheLine u l = cacheLine s l := by
  rw [Machine.cacheLine, h.stw]
  rfl

end OnlyTrace

theorem stwAmb_misaligned {va : Nat} (h : va % 64 ≠ 0) (p rd len : Nat) (s : State) :
    stwAmb p rd va len s = takeException p .align 0 0 va s := if_pos h

theorem stwAmb_length {va len : Nat} (h : va % 64 = 0) (hlen : len = 0 ∨ 4096 < len ∨ len % 64 ≠ 0) (p rd : Nat) (s : State) :
    stwAmb p rd va len s = stwGive p rd 0xFFFFFFFF s := by
  unfold stwAmb
  dsimp only
  rw [if_neg (not_not.2 h), if_pos hlen]

theorem cachedAt_fwa {s : State} {p off : Nat} (h : off < rdFld s (stwA p 0x30) 0 10 * 2 ^ 20) :
    cachedAt s p (.fwa off) = some (genBase * 2 ^ 20 + off) := if_pos h

/-- A request of one line that a cache holds. -/
theorem requestBytes_cached {s : State} {a : Nat} {x : CacheLine} (h : cacheLine s (a / 64) = some x) (p : Nat) :
    requestBytes p a 64 s = (0, lineNow x, s) := by
  have hone : List.range (64 / 64) = [0] := rfl
  unfold requestBytes
  rw [hone, List.foldl_cons, List.foldl_nil]
  simp [h]

section Line

variable {s : State} {p va off : Nat} {x : CacheLine} (haligned : va % 64 = 0) (hlocal : localAt s p va = .fwa off)
  (hallowed : dataAllowed s p va false = true) (hsize : off < rdFld s (stwA p 0x30) 0 10 * 2 ^ 20)
  (hline : cacheLine s ((genBase * 2 ^ 20 + off) / 64) = some x)
include haligned hlocal hallowed hsize hline

/-- AMB of one line of the firmware area gives the ticket of the request that it submits, or all ones. -/
theorem stwAmb_line (rd : Nat) : stwAmb p rd va 64 s =
    stwGive p rd ((submitMb (.steward p) (lineNow x) s).2.elim 0xFFFFFFFF (fun t => BitVec.ofNat 32 (t % 65536)))
      (submitMb (.steward p) (lineNow x) s).1 := by
  have hlast : va + 64 - 64 = va := by omega
  unfold stwAmb
  dsimp only
  rw [hlast, hlocal, hallowed, cachedAt_fwa hsize, if_neg (not_not.2 haligned), if_neg (by decide), if_neg (by simp)]
  dsimp only
  rw [if_neg (by omega), requestBytes_cached hline]
  rcases hq : submitMb (.steward p) (lineNow x) s with ⟨y, _ | t⟩
  · simp only [hq]
    rfl
  · simp only [hq]
    rfl

end Line

theorem submitMb_full {s : State} (h : 16 ≤ s.att.queue.length) (p : Nat) (bytes : List Byte) :
    submitMb (.steward p) bytes s = (s, none) := if_pos h

theorem submitMb_queued {s : State} (h : s.att.queue.length < 16) (p : Nat) (bytes : List Byte) :
    submitMb (.steward p) bytes s = (onAtt (fun a => { a with
      nextTicket := a.nextTicket + 1
      queue := a.queue ++ [{ ticket := s.att.nextTicket.toNat, who := .steward p, bytes := bytes }] }) s,
      some s.att.nextTicket.toNat) := by
  unfold submitMb
  dsimp only
  rw [if_neg (by omega), if_neg (by simp)]

end Sys2Proof.Machine
end

section
/-! PROOFS. Events of a steward: a filled line, an interrupt, the timeout of a GCALL and the release of a WFT (R467, R474, R484,
R487). -/

namespace Sys2Proof.Machine

/-! ### What caches give up (R475, R476) -/

/-- From `s` to `u` caches pass lines on: every steward keeps its state but for the lines that it latches. -/
structure CacheWorks (s u : State) : Prop where
  core : ∀ q, withoutLines (coreOf u q) = withoutLines (coreOf s q)
  entry : u.stw.entry = s.stw.entry

namespace CacheWorks

theorem refl (s : State) : CacheWorks s s := ⟨fun _ => rfl, rfl⟩

theorem trans {s u v : State} (h : CacheWorks s u) (k : CacheWorks u v) : CacheWorks s v :=
  ⟨fun q => (k.core q).trans (h.core q), k.entry.trans h.entry⟩

theorem of_stw {s u : State} (h : u.stw = s.stw) : CacheWorks s u := ⟨fun q => by rw [coreOf_congr h], by rw [h]⟩

theorem foldl {α : Type} {f : State → α → State} (hf : ∀ x a, CacheWorks x (f x a)) (l : List α) (s : State) :
    CacheWorks s (l.foldl f s) := by
  induction l generalizing s with
  | nil => exact .refl s
  | cons a l ih => exact (hf s a).trans (ih _)

end CacheWorks

theorem cacheWorks_putCache (l : Nat) (x : Option CacheLine) (s : State) : CacheWorks s (putCache l x s) := ⟨fun _ => rfl, rfl⟩

theorem raiseLine_stw (p line : Nat) (s : State) :
    (raiseLine p line s).stw = { s.stw with core := (raiseLine p line s).stw.core } := by
  unfold raiseLine
  rw [stw_wakeLine]
  rfl

theorem cacheWorks_raiseLine (p line : Nat) (s : State) : CacheWorks s (raiseLine p line s) :=
  ⟨withoutLines_raiseLine p line s, by rw [raiseLine_stw]⟩

theorem dirtyLost_stw (p : Nat) (s : State) : (dirtyLost p s).stw = s.stw := by
  unfold dirtyLost
  rw [report_stw, setBit_stw]

theorem CellarWorks.stw {s u : State} (h : CellarWorks s u) : u.stw = s.stw := by rw [h.frame]

theorem writeBackLine_stw (p l : Nat) (x : CacheLine) (s : State) :
    CacheWorks s (writeBackLine p l x s) ∧ (writeBackLine p l x s).stw.dcache = s.stw.dcache := by
  unfold writeBackLine
  split
  · have hlost := dirtyLost_stw p s
    generalize dirtyLost p s = y at hlost
    exact ⟨.trans (.of_stw hlost) (cacheWorks_raiseLine p 3 y), by rw [raiseLine_stw, ← hlost]⟩
  · have hwritten := (cellarWorks_lineWrite (.steward p false) l 0 (lineNow x) .pass s).stw
    exact ⟨.of_stw hwritten, by rw [hwritten]⟩

theorem cacheWorks_evictData (p l : Nat) (s : State) : CacheWorks s (evictData p l s) := by
  unfold evictData
  split
  · exact .refl s
  · exact cacheWorks_putCache ..

theorem cacheWorks_evictL2 (h l : Nat) (s : State) : CacheWorks s (evictL2 h l s) := by
  unfold evictL2
  split
  · exact .refl s
  extract_lets q mine z y
  split
  · refine .trans ?_ (cacheWorks_putCache ..)
    split
    · exact (writeBackLine_stw ..).1
    · exact .refl s
  · exact cacheWorks_putCache ..

theorem cacheWorks_makeRoom (p l : Nat) (s : State) : CacheWorks s (makeRoom p l s) := by
  have htake (x : State) : CacheWorks x (takeFree x).2 := .of_stw rfl
  unfold makeRoom
  extract_lets ds s1 ls
  have hdata : CacheWorks s s1 := by
    unfold s1
    split
    · exact .refl s
    · exact (htake s).trans (cacheWorks_evictData ..)
  split
  · exact hdata
  · exact (hdata.trans (htake s1)).trans (cacheWorks_evictL2 ..)

theorem cacheWorks_allocLine (p l : Nat) (data : List Byte) (s : State) : CacheWorks s (allocLine p l data s) :=
  (cacheWorks_makeRoom p l s).trans (cacheWorks_putCache ..)

theorem fillIc_fills (p l : Nat) (data : List Byte) (s : State) :
    coreOf (fillIc p l data s) = coreOf s ∧ icLine (fillIc p l data s) p l = some data := by
  have hput (x : State) : icLine (putIc p l (some data) x) p l = some data := by
    change mapGet none (mapSet none x.stw.icache (icKey p l) (some data)) (icKey p l) = some data
    exact mapGet_mapSet_same
  refine ⟨?_, hput _⟩
  unfold fillIc
  dsimp only
  split
  · rfl
  · rfl

/-! ### A line arrives (R474, R482) -/

theorem readLine_stw (p l : Nat) (chk : Verdict) (s : State) : (readLine (.steward p false) l chk s).2.2.stw = s.stw := by
  have hchecked (cause : Nat) := (cellarWorks_lineChecked l cause chk s).stw
  unfold readLine
  dsimp only [cipherView, speculative]
  simp only [Bool.and_false, Bool.false_eq_true, if_false]
  split
  · rfl
  split
  · exact hchecked _
  · exact hchecked _

/-- The steward waits for no line any more. -/
def unmissed (c : Steward) : Steward := { c with miss := none }

section Fill

variable {s x : State} {p : Nat} {m : Miss} {chk : Verdict} {d : List Byte} (hawake : stwAwake s p = true)
  (hmiss : (coreOf s p).miss = some m)
include hawake hmiss

/-- A line that verifies enters its cache. -/
theorem lineFill_arrives (alarm : Bool) (hread : readLine (.steward p false) m.line chk s = (0, d, x)) :
    lineFill p chk alarm s =
      let y := if m.instr then fillIc p m.line d x else allocLine p m.line d x
      putCore p (unmissed (coreOf y p)) y := by
  unfold lineFill
  rw [hmiss]
  dsimp only
  rw [hawake, hread]
  rfl

/-- A line that cannot be delivered raises IFETCH or BUS. -/
theorem lineFill_fails {st : Nat} (hst : st ≠ 0) (alarm : Bool) (hread : readLine (.steward p false) m.line chk s = (st, d, x)) :
    lineFill p chk alarm s =
      let y := putCore p (unmissed (coreOf x p)) x
      if m.instr then takeException p .ifetch 0 0 0 (traceBoundary p y)
      else takeException p .bus (if st = 1 then 0 else if alarm then 2 else 1) 0 m.addr y := by
  unfold lineFill
  rw [hmiss]
  dsimp only
  rw [hawake, hread]
  match st, hst with
  | 1, _ => rfl
  | n + 2, _ => rfl

end Fill

/-! ### The timeout of a GCALL (R487) -/

theorem coreOf_foldl {α : Type} {f : State → α → State} (hf : ∀ x a, coreOf (f x a) = coreOf x) (l : List α) (s : State) :
    coreOf (l.foldl f s) = coreOf s := by
  induction l generalizing s with
  | nil => rfl
  | cons a l ih => exact (ih _).trans (hf s a)

/-- Steward `c` after the end of its GCALL `g` by force. -/
def aborted (last : Nat) (g : GCall) (c : Steward) : Steward := { c with
  gpr := [], preds := 0, pc := c.gra, priv := 1, ie := g.ie, exl := g.exl, gLast := last, gcall := none
  miss := none, await := none, run := .executing }

theorem rdBit_report (kind cls unit detail : Nat) (s : State) (a i : Nat) :
    rdBit (report kind cls unit detail s) a i = rdBit s a i := rfl

theorem gcallAbort_clears {s : State} {p : Nat} {g : GCall} (hcall : (coreOf s p).gcall = some g)
    (hhalt : (coreOf s p).haltDue = false) (last : Nat) :
    coreOf (gcallAbort p last s) p = aborted last g (coreOf s p) ∧ rdBit (gcallAbort p last s) (stwA p 4) 5 = true := by
  unfold gcallAbort
  extract_lets s0 g0 s1 c call c1 s2 d
  have hgout : OnlyTrace s s0 := by
    refine .whenDo ?_ _
    split
    · exact onlyTrace_emitGout ..
    · exact .refl s
  have hkept : coreOf s1 = coreOf s0 := by
    refine coreOf_foldl (fun x q => ?_) _ s0
    split
    · split
      · rfl
      · rfl
    · rfl
  have hc : c = coreOf s p := (congrFun hkept p).trans (hgout.coreOf p)
  have hc1 : c1 = aborted last g (coreOf s p) := by
    unfold c1 call
    rw [hc, hcall]
    rfl
  rw [if_neg (by simp [hc, hhalt]), ← hc1]
  constructor
  · refine (coreOf_congr (report_stw ..) p).trans ((coreOf_congr (setBit_stw ..) p).trans ?_)
    exact coreOf_putCore_same ..
  · exact (rdBit_report ..).trans (rdBit_setBit_same _ _ (by decide))

end Sys2Proof.Machine
end

section
/-! PROOFS. The registers of a steward's window: HALT, RESTART, the doorbell and the debug registers (R489, R490, R494, R668). -/

namespace Sys2Proof.Machine

/-! ### Writes of the window (R35, R492) -/

theorem targetOf_stwA {p x : Nat} (hp : p < 272) (hx : x < 0x80000) : targetOf (stwA p x) = .cluster p (0x300000 + x) := by
  have hwindow : (stwA p x - 0x10000000) / 0x400000 = p := by unfold stwA physA; omega
  have hoffset : stwA p x % 0x400000 = 0x300000 + x := by unfold stwA physA; omega
  unfold targetOf
  rw [hwindow, hoffset]
  unfold stwA physA
  iterate 2 rw [if_neg (by omega)]
  rw [if_pos (by omega)]

/-- A write of a register of a steward's window. -/
theorem request_stwA {s : State} {who : Requester} {p x : Nat} {r : RegRow} (hp : p < 272) (hx : x < 0x80000)
    (hreach : Reaches s who (stwA p x)) (hrow : findRow stwRows x = some r) (hrule : r.rule = .plain) (v : Word) :
    request who (stwA p x) true v s = answer who true (stwWrite r p x v s).1 0 (stwWrite r p x v s).2 := by
  have hofs : 0x300000 + x - 0x300000 = x := by omega
  have hmodel : modelWord p (0x300000 + x) = none := by
    unfold modelWord
    iterate 5 rw [if_neg (by omega)]
  have hcluster : clusterRow (0x300000 + x) = some r := by
    unfold clusterRow
    iterate 3 rw [if_neg (by omega)]
    rw [if_pos (by omega), hofs, hrow]
  have hwrite : clusterWrite who r p (0x300000 + x) v s = stwWrite r p x v s := by
    unfold clusterWrite
    iterate 2 rw [if_neg (by omega)]
    rw [if_pos (by omega), hofs]
  rw [request_reaches hreach, landing, targetOf_stwA hp hx]
  dsimp only
  rw [perform_write]
  unfold performStore
  simp only [hmodel]
  rw [regWrite_physA hp (by omega) hcluster hrule, hwrite]

theorem request_stwCtrl {s : State} {who : Requester} {p : Nat} (hp : p < 272) (hreach : Reaches s who (stwA p 0)) (v : Word) :
    request who (stwA p 0) true v s = answer who true .ok 0 (stwCtrlWrite p v s) :=
  request_stwA hp (by decide) hreach rfl rfl v

/-! ### HALT (R490) -/

theorem onlyCore_haltCore (p : Nat) (s : State) : OnlyCore s (haltCore p s) p := by
  unfold haltCore
  dsimp only
  split
  · exact (OnlyTrace.refl s).onlyCore p
  · exact (OnlyTrace.refl s).onlyCore p
  · exact (onlyCore_putCore ..).trans (onlyCore_stopClock ..)
  split
  · exact onlyCore_putCore ..
  · exact (onlyCore_putCore ..).trans (onlyCore_stopClock ..)

theorem haltCore_stopped {p : Nat} {s : State} (h : (coreOf s p).run = .stopped) : haltCore p s = s := by
  unfold haltCore
  dsimp only
  rw [h]

/-- A steward that executes outside G halts. -/
theorem haltCore_executing {p : Nat} {s : State} (h : (coreOf s p).run = .executing) (hpriv : (coreOf s p).priv ≠ 2) :
    unclocked (coreOf (haltCore p s) p) = unclocked { coreOf s p with run := .halted } := by
  unfold haltCore
  dsimp only
  rw [h]
  dsimp only
  rw [if_neg (by simp [hpriv]), unclocked_stopClock, coreOf_putCore_same]

/-- In G without the grant, the halt waits for the return. -/
theorem haltCore_guarded {p : Nat} {s : State} (h : (coreOf s p).run = .executing) (hpriv : (coreOf s p).priv = 2)
    (hgrant : granted s 1 = false) : coreOf (haltCore p s) p = { coreOf s p with haltDue := true } := by
  unfold haltCore
  dsimp only
  rw [h]
  dsimp only
  rw [if_pos (by simp [hpriv, hgrant]), coreOf_putCore_same]

theorem onlyCore_resumeCore (p : Nat) (s : State) : OnlyCore s (resumeCore p s) p := by
  unfold resumeCore
  dsimp only
  split
  · exact (onlyCore_putCore ..).trans (onlyCore_startClock ..)
  · exact onlyCore_putCore ..

theorem resumeCore_halted {p : Nat} {s : State} (h : (coreOf s p).run = .halted) (hparked : (coreOf s p).parked = false) :
    unclocked (coreOf (resumeCore p s) p) = unclocked { coreOf s p with run := .executing } := by
  unfold resumeCore
  dsimp only
  rw [if_pos ⟨h, hparked⟩, unclocked_startClock, coreOf_putCore_same]

theorem resumeCore_other {p : Nat} {s : State} (h : (coreOf s p).run ≠ .halted) :
    resumeCore p s = putCore p { coreOf s p with haltDue := false } s := if_neg fun hhalted => h hhalted.1

theorem stwCtrlWrite_halt (p : Nat) (s : State) : stwCtrlWrite p 1 s = haltCore p (wrReg s (stwA p 0) 1) := rfl

theorem stwCtrlWrite_clear (p : Nat) (s : State) : stwCtrlWrite p 0 s =
    if rdBit s (stwA p 0) 0 then resumeCore p (wrReg s (stwA p 0) 0) else wrReg s (stwA p 0) 0 := rfl

theorem stwCtrlWrite_restart (p : Nat) (s : State) : stwCtrlWrite p 2 s =
    if rdBit s (stwA p 0) 0 then resumeCore p (restartCore p (wrReg s (stwA p 0) 0)) else restartCore p (wrReg s (stwA p 0) 0) := rfl

theorem rdBit_wrReg_same (s : State) (a : Nat) (v : Word) (i : Nat) : rdBit (wrReg s a v) a i = bit v i := by
  rw [rdBit, rdReg_wrReg_same]

theorem OnlyCore.rdBit_stwA {s u : State} {p : Nat} (h : OnlyCore s u p) (q o i : Nat) :
    rdBit u (stwA q o) i = rdBit s (stwA q o) i :=
  congrArg (bit · i) (h.regs _ (.inr (by unfold stwA physA hstA; omega)))

theorem granted_wrReg_stwA (s : State) (p o : Nat) (v : Word) (i : Nat) : granted (wrReg s (stwA p o) v) i = granted s i := by
  unfold granted rdBit
  rw [rdReg_wrReg_other s v (by unfold attA stwA physA; omega), wrReg_att]

/-- What HALT leaves. -/
theorem stwCtrlWrite_halts (p : Nat) (s : State) :
    let u := stwCtrlWrite p 1 s
    rdBit u (stwA p 0) 0 = true ∧
      ((coreOf s p).run = .executing → (coreOf s p).priv ≠ 2 → (coreOf u p).run = .halted ∧ (coreOf u p).pc = (coreOf s p).pc) ∧
      ((coreOf s p).run = .executing → (coreOf s p).priv = 2 → granted s 1 = false → (coreOf u p).run = .executing ∧
        (coreOf u p).haltDue = true) ∧
      ((coreOf s p).run = .stopped → (coreOf u p).run = .stopped) := by
  have hflag : rdBit (wrReg s (stwA p 0) 1) (stwA p 0) 0 = true := rdBit_wrReg_same ..
  rw [stwCtrlWrite_halt, ← coreOf_congr (wrReg_stw s (stwA p 0) 1) p, ← granted_wrReg_stwA s p 0 1 1]
  generalize wrReg s (stwA p 0) 1 = x at hflag
  refine ⟨by rw [(onlyCore_haltCore ..).rdBit_stwA, hflag], fun hrun hpriv => ?_, fun hrun hpriv hgrant => ?_, fun hrun => ?_⟩
  · obtain ⟨hhalted, -, hpc, -, -⟩ := fields_of_unclocked (haltCore_executing hrun hpriv)
    exact ⟨hhalted, hpc⟩
  · rw [haltCore_guarded hrun hpriv hgrant]
    exact ⟨hrun, rfl⟩
  · rw [haltCore_stopped hrun, hrun]

/-- What a HALT that is cleared leaves. -/
theorem stwCtrlWrite_clears (p : Nat) (s : State) :
    let u := stwCtrlWrite p 0 s
    rdBit u (stwA p 0) 0 = false ∧
      (rdBit s (stwA p 0) 0 = true → (coreOf s p).run = .halted → (coreOf s p).parked = false →
        (coreOf u p).run = .executing ∧ (coreOf u p).pc = (coreOf s p).pc) ∧
      ((coreOf s p).run = .stopped → (coreOf u p).run = .stopped) := by
  have hflag : rdBit (wrReg s (stwA p 0) 0) (stwA p 0) 0 = false := rdBit_wrReg_same ..
  rw [stwCtrlWrite_clear, ← coreOf_congr (wrReg_stw s (stwA p 0) 0) p]
  generalize wrReg s (stwA p 0) 0 = x at hflag
  refine ⟨?_, fun hwas hrun hparked => ?_, fun hrun => ?_⟩
  · split
    · rw [(onlyCore_resumeCore ..).rdBit_stwA, hflag]
    · exact hflag
  · rw [if_pos hwas]
    obtain ⟨hresumed, -, hpc, -, -⟩ := fields_of_unclocked (resumeCore_halted hrun hparked)
    exact ⟨hresumed, hpc⟩
  · split
    · rw [resumeCore_other (by rw [hrun]; decide), coreOf_putCore_same]
      exact hrun
    · exact hrun

/-! ### RESTART (R475, R489, R490) -/

/-- No line is dirty in the data cache of steward `p`. -/
def CleanOf (s : State) (p k : Nat) : Prop := ∀ x, cacheLine s k = some x → x.owner.map (fun q => q.1) ≠ some p

theorem cacheLine_congr {s u : State} (h : u.stw.dcache = s.stw.dcache) (k : Nat) : cacheLine u k = cacheLine s k := by
  rw [cacheLine, h]
  rfl

theorem CleanOf.congr {s u : State} {p k : Nat} (h : u.stw.dcache = s.stw.dcache) (hclean : CleanOf s p k) : CleanOf u p k := by
  unfold CleanOf
  rw [cacheLine_congr h]
  exact hclean

theorem cacheLine_putCache_same (l : Nat) (x : Option CacheLine) (s : State) : cacheLine (putCache l x s) l = x := by
  change mapGet none (mapSet none s.stw.dcache l x) l = x
  exact mapGet_mapSet_same

theorem cacheLine_putCache_other {l k : Nat} (h : k ≠ l) (x : Option CacheLine) (s : State) :
    cacheLine (putCache l x s) k = cacheLine s k := by
  change mapGet none (mapSet none s.stw.dcache l x) k = mapGet none s.stw.dcache k
  exact mapGet_mapSet_other h

/-- A line that is put back without `p` as its owner. -/
theorem cleanOf_putCache {l p k : Nat} {x : Option CacheLine} {s : State} (h : k ≠ l → CleanOf s p k)
    (hx : ∀ y, x = some y → y.owner.map (fun q => q.1) ≠ some p) : CleanOf (putCache l x s) p k := by
  intro y hy
  by_cases hk : k = l
  · rw [hk, cacheLine_putCache_same] at hy
    exact hx y hy
  · rw [cacheLine_putCache_other hk] at hy
    exact h hk y hy

/-- The owner gives up its bytes. -/
theorem pullOwner_owner (x : CacheLine) : (pullOwner x).owner = none := by
  unfold pullOwner
  split
  · rfl
  · assumption

/-- A line that `p` gives up where it holds it dirty. -/
theorem owner_given_up (p : Nat) (x : CacheLine) :
    ((if x.owner.map (fun q => q.1) = some p then pullOwner x else x).owner.map (fun q => q.1)) ≠ some p := by
  split
  · rw [pullOwner_owner]
    simp
  · assumption

/-- A clean of line `l` leaves it to nobody, and other lines as they were. -/
theorem cleanOf_cleanLine {p l k : Nat} {s : State} (h : k ≠ l → CleanOf s p k) : CleanOf (cleanLine p l s) p k := by
  unfold cleanLine
  split
  next hnone =>
    intro x hx
    by_cases hk : k = l
    · rw [hk, hnone] at hx
      cases hx
    · exact h hk x hx
  next x hsome =>
    extract_lets mine y
    have hgiven : y.owner.map (fun q => q.1) ≠ some p := owner_given_up p x
    split
    · refine cleanOf_putCache (fun hk => (h hk).congr (writeBackLine_stw ..).2) fun z hz => ?_
      split at hz
      · cases hz
      · cases hz
        exact hgiven
    · refine cleanOf_putCache h fun z hz => ?_
      cases hz
      exact hgiven

theorem cleanOf_evictData {p l k : Nat} {s : State} (h : CleanOf s p k) : CleanOf (evictData p l s) p k := by
  unfold evictData
  split
  · exact h
  next x hsome =>
    refine cleanOf_putCache (fun _ => h) fun z hz => ?_
    cases hz
    exact owner_given_up p x

/-- The lines of a list are cleaned one after another. -/
theorem cleanOf_cleanLines {p k : Nat} (l : List Nat) {s : State} (h : k ∉ l → CleanOf s p k) :
    CleanOf (l.foldl (fun acc q => cleanLine p q acc) s) p k := by
  induction l generalizing s with
  | nil => exact h List.not_mem_nil
  | cons q l ih => exact ih fun hl => cleanOf_cleanLine fun hq => h (by simp [hq, hl])

theorem mem_of_mapGet {α : Type} {m : SMap (Option α)} {k : Nat} {x : α} (h : mapGet none m k = some x) : (k, some x) ∈ m := by
  induction m with
  | nil => cases h
  | cons a m ih =>
    rw [mapGet] at h
    split at h
    next hk => exact List.mem_cons.2 (.inl (Prod.ext hk.symm h.symm))
    · exact List.mem_cons_of_mem _ (ih h)

theorem cleanOf_of_not_owned {s : State} {p k : Nat} (h : k ∉ ownedLines s p) : CleanOf s p k := by
  intro x hx howned
  refine h (List.mem_map.2 ⟨(k, some x), List.mem_filter.2 ⟨mem_of_mapGet hx, ?_⟩, rfl⟩)
  exact decide_eq_true howned

theorem cacheWorks_cleanLine (p l : Nat) (s : State) : CacheWorks s (cleanLine p l s) := by
  unfold cleanLine
  split
  · exact .refl s
  extract_lets mine y
  split
  · exact (writeBackLine_stw ..).1.trans (cacheWorks_putCache ..)
  · exact cacheWorks_putCache ..

/-- The caches of a steward after a flush: nothing is dirty in them, and the instruction cache is empty (R490). -/
theorem flushCore_flushes (p : Nat) (s : State) : (flushCore p s).stw.entry = s.stw.entry ∧
    (∀ k, k < 2 ^ 30 → icLine (flushCore p s) p k = none) ∧ ∀ k, CleanOf (flushCore p s) p k := by
  unfold flushCore
  extract_lets s1 s2
  have hcleaned : CacheWorks s s1 := .foldl (fun x l => cacheWorks_cleanLine p l x) _ s
  have hevicted : CacheWorks s1 s2 := by
    refine .foldl (fun x q => ?_) _ s1
    split
    · split
      · exact cacheWorks_evictData ..
      · exact .refl x
    · exact .refl x
  refine ⟨(hcleaned.trans hevicted).entry, fun k hk => ?_, fun k => ?_⟩
  · refine mapGet_of_not_listed fun q hq hkey => ?_
    have hother := List.of_mem_filter hq
    rw [hkey] at hother
    unfold icKey at hother
    simp only [ne_eq, decide_eq_true_eq] at hother
    omega
  · have hclean1 : CleanOf s1 p k := cleanOf_cleanLines _ cleanOf_of_not_owned
    have hclean2 : CleanOf s2 p k := by
      refine List.foldlRecOn (motive := fun x => CleanOf x p k) _ _ hclean1 fun x hx q _ => ?_
      split
      · split
        · exact cleanOf_evictData hx
        · exact hx
      · exact hx
    exact hclean2.congr rfl

/-- A steward that has just started, with its entry point `e` (R489). -/
structure Started (s : State) (p : Nat) (e : Word) : Prop where
  run : (coreOf s p).run = .executing
  pc : (coreOf s p).pc = e
  gpr : (coreOf s p).gpr = []
  priv : (coreOf s p).priv = 1
  evec : (coreOf s p).evec = 0
  irq : irqPendOf s p = 0

/-- A start leaves the caches as they were. -/
theorem startCore_starts (p : Nat) (s : State) : Started (startCore p s) p s.stw.entry ∧
    (startCore p s).stw.icache = s.stw.icache ∧ (startCore p s).stw.dcache = s.stw.dcache := by
  unfold startCore
  extract_lets d c s1 x s2
  have hcore : coreOf s2 p = c := coreOf_putCore_same p c (dropAccess p s)
  have hlines : irqPendOf s2 p = 0 := by
    have hcleared : mapGet 0#32 s2.stw.bcClr p = s2.stw.bcast := by
      change mapGet 0#32 (mapSet 0#32 s1.stw.bcClr p s1.stw.bcast) p = s1.stw.bcast
      exact mapGet_mapSet_same
    have hown : (coreOf s2 p).irqPend = 0 := by rw [hcore]; rfl
    unfold irqPendOf
    rw [hcleared, hown]
    refine BitVec.eq_of_getLsbD_eq fun j hj => ?_
    simp
  have hstarted : Started s2 p s.stw.entry := by
    refine ⟨?_, ?_, ?_, ?_, ?_, hlines⟩ <;> rw [hcore] <;> rfl
  split
  next k _ =>
    have htraced := onlyTrace_putSrc k { srcOf s2 k with needT := true, excl := none, cyc := 0 } s2
    have hsame := htraced.coreOf p
    refine ⟨⟨?_, ?_, ?_, ?_, ?_, (htraced.irqPendOf p).trans hlines⟩, rfl, rfl⟩
    · rw [hsame, hstarted.run]
    · rw [hsame, hstarted.pc]
    · rw [hsame, hstarted.gpr]
    · rw [hsame, hstarted.priv]
    · rw [hsame, hstarted.evec]
  · exact ⟨hstarted, rfl, rfl⟩

/-- What RESTART leaves of an active cluster's steward. -/
def Restarted (s u : State) (p : Nat) : Prop := Started u p s.stw.entry ∧ (∀ k, k < 2 ^ 30 → icLine u p k = none) ∧ ∀ k, CleanOf u p k

theorem restartCore_restarts {p : Nat} {s : State} (h : roleOf s p = .active) : Restarted s (restartCore p s) p := by
  have hrestart : restartCore p s = startCore p (schedRestart p (flushCore p (stopClock 1 p s))) := if_neg (by simp [h])
  have hclock := onlyCore_stopClock 1 p s
  obtain ⟨hentry, hic, hclean⟩ := flushCore_flushes p (stopClock 1 p s)
  obtain ⟨hstarted, hicache, hdcache⟩ := startCore_starts p (schedRestart p (flushCore p (stopClock 1 p s)))
  have hkept : (schedRestart p (flushCore p (stopClock 1 p s))).stw.entry = s.stw.entry := hentry.trans hclock.entry
  rw [hkept] at hstarted
  rw [hrestart]
  refine ⟨hstarted, fun k hk => ?_, fun k => (hclean k).congr hdcache⟩
  rw [icLine, hicache]
  exact hic k hk

/-- A HALT that was set before does not touch a steward that executes. -/
theorem Restarted.resume {s u : State} {p : Nat} (h : Restarted s u p) : Restarted s (resumeCore p u) p := by
  obtain ⟨hstarted, hic, hclean⟩ := h
  rw [resumeCore_other (by rw [hstarted.run]; decide)]
  refine ⟨⟨?_, ?_, ?_, ?_, ?_, ?_⟩, hic, fun k => (hclean k).congr rfl⟩
  · rw [coreOf_putCore_same]; exact hstarted.run
  · rw [coreOf_putCore_same]; exact hstarted.pc
  · rw [coreOf_putCore_same]; exact hstarted.gpr
  · rw [coreOf_putCore_same]; exact hstarted.priv
  · rw [coreOf_putCore_same]; exact hstarted.evec
  · exact (irqPendOf_putCore (c := { coreOf u p with haltDue := false }) rfl p).trans hstarted.irq

theorem stwCtrlWrite_restarts {p : Nat} {s : State} (h : roleOf s p = .active) : Restarted s (stwCtrlWrite p 2 s) p := by
  have hactive : roleOf (wrReg s (stwA p 0) 0) p = .active := by
    rw [roleOf, wrReg_chip]
    exact h
  obtain ⟨hstarted, hcaches⟩ := restartCore_restarts hactive
  rw [wrReg_stw] at hstarted
  have hrestarted : Restarted s (restartCore p (wrReg s (stwA p 0) 0)) p := ⟨hstarted, hcaches⟩
  rw [stwCtrlWrite_restart]
  split
  · exact hrestarted.resume
  · exact hrestarted

/-! ### The doorbell (R494) -/

theorem irqPendOf_raiseLine_same (p line : Nat) (s : State) :
    irqPendOf (raiseLine p line s) p = irqPendOf s p ||| (1#32 <<< line) := by
  unfold irqPendOf
  rw [coreOf_raiseLine_same, raiseLine_stw, BitVec.or_assoc, BitVec.or_comm (1#32 <<< line), ← BitVec.or_assoc]

theorem irqPendOf_raiseLine_other {p q : Nat} (h : q ≠ p) (line : Nat) (s : State) :
    irqPendOf (raiseLine p line s) q = irqPendOf s q := by
  unfold irqPendOf
  rw [coreOf_raiseLine_other h, raiseLine_stw]

/-- The doorbell after its first `n` bits. -/
abbrev doorbellUpTo (p n : Nat) (v : Word) (s : State) : State :=
  (List.range n).foldl (fun acc i => if v.getLsbD i then raiseLine p (16 + i) acc else acc) s

theorem irqPendOf_doorbell_bit (p : Nat) (v : Word) (s : State) {n : Nat} (hn : n ≤ 16) {j : Nat} (hj : j < 32) :
    (irqPendOf (doorbellUpTo p n v s) p).getLsbD j =
      ((irqPendOf s p).getLsbD j || decide (16 ≤ j ∧ j < 16 + n) && v.getLsbD (j - 16)) := by
  induction n with
  | zero =>
    have hnone : ¬ (16 ≤ j ∧ j < 16 + 0) := by omega
    rw [decide_eq_false hnone, Bool.false_and, Bool.or_false]
    rfl
  | succ n ih =>
    have hone : (1#32 <<< (16 + n)).getLsbD j = decide (j = 16 + n) := by
      rw [BitVec.getLsbD_shiftLeft, BitVec.getLsbD_one, Bool.eq_iff_iff]
      simp [hj]
      omega
    have hbefore := ih (by omega)
    unfold doorbellUpTo at hbefore ⊢
    rw [List.range_succ, List.foldl_append, List.foldl_cons, List.foldl_nil]
    by_cases hlast : j = 16 + n
    · have hbit : j - 16 = n := by omega
      split
      next hv => rw [irqPendOf_raiseLine_same, BitVec.getLsbD_or, hone, hbit, hv]; simp [hlast]
      next hv => rw [hbefore, hbit]; simp [hv]
    · have hrange : (16 ≤ j ∧ j < 16 + (n + 1)) ↔ (16 ≤ j ∧ j < 16 + n) := by omega
      simp only [hrange]
      split
      · rw [irqPendOf_raiseLine_same, BitVec.getLsbD_or, hone, hbefore]; simp [hlast]
      · exact hbefore

theorem irqPendOf_doorbellWrite (p : Nat) (v : Word) (s : State) :
    irqPendOf (doorbellWrite p v s) p = irqPendOf s p ||| ((v &&& 0xFFFF) <<< 16) := by
  have hmask : ∀ i < 32, (0xFFFF : Word).getLsbD i = decide (i < 16) := by decide
  refine BitVec.eq_of_getLsbD_eq fun j hj => ?_
  refine (irqPendOf_doorbell_bit p v s le_rfl hj).trans ?_
  rw [BitVec.getLsbD_or, BitVec.getLsbD_shiftLeft, BitVec.getLsbD_and, hmask _ (by omega)]
  by_cases hlow : j < 16
  · simp [hlow]
  · have hhigh : j - 16 < 16 := by omega
    simp [hj, hlow, hhigh, not_lt.1 hlow]

theorem irqPendOf_doorbellWrite_other {p q : Nat} (h : q ≠ p) (v : Word) (s : State) :
    irqPendOf (doorbellWrite p v s) q = irqPendOf s q := by
  unfold doorbellWrite
  refine List.foldlRecOn (motive := fun x => irqPendOf x q = irqPendOf s q) _ _ rfl fun x hx i _ => ?_
  split
  · rw [irqPendOf_raiseLine_other h, hx]
  · exact hx

/-! ### Debug registers (R668) -/

theorem stwRows_debug {r : Nat} (h : r < 24) : ∃ row, findRow stwRows (0x40100 + 4 * r) = some row ∧ row.rule = .plain := by
  have hrows : ∀ k < 24, (findRow stwRows (0x40100 + 4 * k)).map (fun row => row.rule) = some .plain := by decide
  exact Option.map_eq_some_iff.1 (hrows r h)

theorem request_stwDebug {s : State} {who : Requester} {p r : Nat} (hp : p < 272) (hr : r < 24)
    (hreach : Reaches s who (stwA p (0x40100 + 4 * r))) (v : Word) :
    request who (stwA p (0x40100 + 4 * r)) true v s =
      answer who true .ok 0 (if dbgOpen s p then putCore p (gWrite r v (coreOf s p)) s else s) := by
  obtain ⟨row, hrow, hrule⟩ := stwRows_debug hr
  have hindex : (0x40100 + 4 * r - 0x40100) / 4 = r := by omega
  have hwrite : stwWrite row p (0x40100 + 4 * r) v s =
      (.ok, if dbgOpen s p then putCore p (gWrite r v (coreOf s p)) s else s) := by
    unfold stwWrite stwDbgWrite
    rw [if_neg (by omega), if_neg (by omega), if_pos (by omega)]
    dsimp only
    by_cases hopen : dbgOpen s p = true
    · rw [if_neg (by simp [hopen]), if_pos (by omega), hindex, if_pos hopen]
      rfl
    · rw [if_pos (by simpa using hopen), if_neg hopen]
      rfl
  rw [request_stwA hp (by omega) hreach hrow hrule, hwrite]

end Sys2Proof.Machine
end

section
/-! PROOFS. What ties a steward to the units around it (R466 to R470, R474, R484, R487, R490, R494, R668). -/

namespace Sys2Proof.Machine

theorem pWrite_pc (d : Nat) (v : Bool) (c : Steward) : (pWrite d v c).pc = c.pc := rfl

/-! ### Instructions (R467 to R470) -/

/-- FCLAIM runs on past its instruction; what it gives is what the scheduler gives. -/
theorem fclaim_claims {s : State} {p : Nat} {i : StwIns} (h : StwRuns s p .fclaim i)
    (hra : fld (gRead (coreOf s p) i.ra) 7 25 = 0) :
    ∃ t, exec (.fclaim p) s = .next t ∧ (coreOf t p).pc = (coreOf s p).pc + 4 ∧
      coreOf t p = pcNext (match (schedClaim p (coreOf s p).thread (fld (gRead (coreOf s p) i.ra) 0 7) s).1 with
        | some v => pWrite i.pdQ true (gWrite i.rd v (coreOf s p))
        | none => pWrite i.pdQ false (coreOf s p)) := by
  obtain ⟨u, hu, hexec⟩ := h.exec (cmd := .fclaim p) rfl
  rw [stwDo_fclaim p u h.row_eq, hu.coreOf] at hexec
  have hclaims := stwFclaim_claims hu p i.rd i.pdQ hra
  refine ⟨_, hexec, ?_, hclaims⟩
  rw [hclaims]
  refine congrArg (· + 4) ?_
  split
  · rw [pWrite_pc, gWrite_pc]
  · rw [pWrite_pc]

section Amb

variable {s : State} {p off : Nat} {i : StwIns} {x : CacheLine} (h : StwRuns s p .amb i)
  (haligned : (gRead (coreOf s p) i.ra).toNat % 64 = 0) (hlen : (gRead (coreOf s p) i.rb).toNat = 64)
  (hlocal : localAt s p (gRead (coreOf s p) i.ra).toNat = .fwa off)
  (hallowed : dataAllowed s p (gRead (coreOf s p) i.ra).toNat false = true)
  (hsize : off < rdFld s (stwA p 0x30) 0 10 * 2 ^ 20)
  (hline : cacheLine s ((genBase * 2 ^ 20 + off) / 64) = some x)
include h haligned hlen hlocal hallowed hsize hline

/-- AMB of one line submits it to the mailbox. -/
theorem amb_submits : ∃ u, OnlyTrace s u ∧ exec (.amb p) s =
    .next (stwGive p i.rd ((submitMb (.steward p) (lineNow x) u).2.elim 0xFFFFFFFF (fun t => BitVec.ofNat 32 (t % 65536)))
      (submitMb (.steward p) (lineNow x) u).1) := by
  obtain ⟨u, hu, hexec⟩ := h.exec (cmd := .amb p) rfl
  have hbound : rdFld u (stwA p 0x30) 0 10 = rdFld s (stwA p 0x30) 0 10 := rdFld_congr (hu.rdReg_physA ..) 0 10
  rw [stwDo_amb p u h.row_eq, hu.coreOf, hlen,
    stwAmb_line haligned (by rw [hu.localAt, hlocal]) (by rw [hu.dataAllowed, hallowed]) (by rw [hbound]; exact hsize)
      (by rw [hu.cacheLine, hline])] at hexec
  exact ⟨u, hu, hexec⟩

theorem amb_full (hfull : 16 ≤ s.att.queue.length) :
    ∃ t, exec (.amb p) s = .next t ∧ coreOf t p = pcNext (gWrite i.rd 0xFFFFFFFF (coreOf s p)) := by
  obtain ⟨u, hu, hexec⟩ := amb_submits h haligned hlen hlocal hallowed hsize hline
  rw [submitMb_full (by rw [hu.att]; exact hfull)] at hexec
  exact ⟨_, hexec, (turns_stwGive hu p i.rd _).1⟩

theorem amb_queued (hroom : s.att.queue.length < 16) : ∃ t, exec (.amb p) s = .next t ∧
    coreOf t p = pcNext (gWrite i.rd (BitVec.ofNat 32 s.att.nextTicket.toNat) (coreOf s p)) ∧
    t.att.queue = s.att.queue ++ [{ ticket := s.att.nextTicket.toNat, who := .steward p, bytes := lineNow x }] := by
  obtain ⟨u, hu, hexec⟩ := amb_submits h haligned hlen hlocal hallowed hsize hline
  have hticket : s.att.nextTicket.toNat % 65536 = s.att.nextTicket.toNat := Nat.mod_eq_of_lt s.att.nextTicket.isLt
  rw [submitMb_queued (by rw [hu.att]; exact hroom), hu.att] at hexec
  dsimp only [Option.elim_some] at hexec
  rw [hticket] at hexec
  generalize hy : onAtt _ u = y at hexec
  have hatt : y.att.queue = s.att.queue ++ [{ ticket := s.att.nextTicket.toNat, who := .steward p, bytes := lineNow x }] := by
    rw [← hy, ← hu.att]
    rfl
  have hcore : coreOf y p = coreOf s p := by rw [← hy, ← hu.coreOf]; rfl
  obtain ⟨hgives, honly⟩ := turns_stwGive (.refl y) p i.rd (BitVec.ofNat 32 s.att.nextTicket.toNat)
  rw [hcore] at hgives
  exact ⟨_, hexec, hgives, by rw [honly.frame]; exact hatt⟩

end Amb

/-! ### Events (R467, R474, R484, R487) -/

theorem cacheLine_allocLine (p l : Nat) (data : List Byte) (s : State) : cacheLine (allocLine p l data s) l =
    some { data := data, dirty := false, shelves := [p / 17], hold := [p], owner := none, flips := 0 } :=
  cacheLine_putCache_same ..

theorem icLine_putCore (q : Nat) (c : Steward) (s : State) (p l : Nat) : icLine (putCore q c s) p l = icLine s p l := rfl

theorem cacheLine_putCore (q : Nat) (c : Steward) (s : State) (l : Nat) : cacheLine (putCore q c s) l = cacheLine s l := rfl

section Fill

variable {s x : State} {p : Nat} {m : Miss} {chk : Verdict} {d : List Byte} (hawake : stwAwake s p = true)
  (hmiss : (coreOf s p).miss = some m)
include hawake hmiss

/-- A steward whose line has arrived waits no more, and is otherwise as it was. -/
theorem lineFill_releases (alarm : Bool) (hread : readLine (.steward p false) m.line chk s = (0, d, x)) :
    let t := lineFill p chk alarm s
    (coreOf t p).miss = none ∧ (coreOf t p).gpr = (coreOf s p).gpr ∧ (coreOf t p).pc = (coreOf s p).pc ∧
      (coreOf t p).run = (coreOf s p).run ∧ (m.instr = true → icLine t p m.line = some d) ∧
      (m.instr = false → cacheLine t m.line =
        some { data := d, dirty := false, shelves := [p / 17], hold := [p], owner := none, flips := 0 }) := by
  have hstw : x.stw = s.stw := by rw [← readLine_stw p m.line chk s, hread]
  have hcore : coreOf x p = coreOf s p := coreOf_congr hstw p
  rw [lineFill_arrives hawake hmiss alarm hread]
  dsimp only
  by_cases hinstr : m.instr = true
  · obtain ⟨hsame, hic⟩ := fillIc_fills p m.line d x
    have hkept : coreOf (fillIc p m.line d x) p = coreOf s p := (congrFun hsame p).trans hcore
    rw [if_pos hinstr, coreOf_putCore_same, hkept, icLine_putCore]
    exact ⟨rfl, rfl, rfl, rfl, fun _ => hic, fun hdata => by rw [hinstr] at hdata; cases hdata⟩
  · have hworks := (cacheWorks_allocLine p m.line d x).core p
    rw [hcore] at hworks
    obtain ⟨hrun, hgpr, hpc⟩ := fields_of_withoutLines hworks
    rw [if_neg hinstr, coreOf_putCore_same, cacheLine_putCore]
    exact ⟨rfl, hgpr, hpc, hrun, fun hcode => absurd hcode hinstr, fun _ => cacheLine_allocLine ..⟩

/-- A steward whose line does not arrive takes IFETCH or BUS. -/
theorem lineFill_traps {st : Nat} (hst : st ≠ 0) (alarm : Bool) (hexl : (coreOf s p).exl = false)
    (hread : readLine (.steward p false) m.line chk s = (st, d, x)) : coreOf (lineFill p chk alarm s) p =
      if m.instr then trapped .ifetch 0 0 0 (unmissed (coreOf s p))
      else trapped .bus (if st = 1 then 0 else if alarm then 2 else 1) 0 m.addr (unmissed (coreOf s p)) := by
  have hstw : x.stw = s.stw := by rw [← readLine_stw p m.line chk s, hread]
  have hcore : coreOf x p = coreOf s p := coreOf_congr hstw p
  rw [lineFill_fails hawake hmiss hst alarm hread]
  dsimp only
  generalize hy : putCore p (unmissed (coreOf x p)) x = y
  have hcleared : coreOf y p = unmissed (coreOf s p) := by rw [← hy, coreOf_putCore_same, hcore]
  have hexl' : (coreOf y p).exl = false := by rw [hcleared]; exact hexl
  have htraced := onlyTrace_traceBoundary p y
  rw [← hcleared]
  split
  · rw [(turns_takeException (by rw [htraced.coreOf]; exact hexl') .ifetch 0 0 0).1, htraced.coreOf]
  · exact (turns_takeException hexl' .bus _ 0 m.addr).1

end Fill

theorem trapped_miss (k : Cause) (info line addr : Nat) (c : Steward) : (trapped k info line addr c).miss = none := by
  unfold trapped
  dsimp only
  split
  · rfl
  · rfl

/-- A line that is due is taken before the next instruction. -/
theorem interrupt_takes {s : State} {p line : Nat} (hawake : stwAwake s p = true) (hrun : (coreOf s p).run = .executing)
    (hmiss : (coreOf s p).miss = none) (haccess : inAccess s p = false) (hdue : dueLine s p = some line)
    (hclock : (coreOf s p).gated = false) : interrupt p s = takeException p .int 0 line 0 (traceBoundary p s) := by
  unfold interrupt
  dsimp only
  rw [hdue]
  dsimp only
  rw [if_neg (by simp [hawake, hrun, hmiss, haccess]), startClock_running hclock]

section Wft

variable {s : State} {p kind rd : Nat} {v : Word} (hrun : (coreOf s p).run = .waiting)
  (hawait : (coreOf s p).await = some (kind, v, rd))
include hawait

theorem wftRelease_early (hcount : wftReached s kind v = false) : wftRelease p s = s := by
  unfold wftRelease
  dsimp only
  rw [hawait]
  dsimp only
  rw [if_pos (.inr hcount)]

include hrun in
theorem wftRelease_releases (hclock : (coreOf s p).gated = false) (hshelf : shelfOn s (p / 17) = true)
    (hcount : wftReached s kind v = true) : coreOf (wftRelease p s) p =
      pcNext (gWrite rd (wftCount s kind) { coreOf s p with run := .executing, await := none }) := by
  unfold wftRelease
  dsimp only
  rw [hawait]
  dsimp only
  rw [if_neg (by simp [hrun, hcount]), if_neg (by simp [hshelf]), startClock_running hclock, (turns_stwGive (.refl _) p rd _).1,
    coreOf_putCore_same]

end Wft

theorem gcallTimeout_aborts {s : State} {p : Nat} {g : GCall} (hawake : stwAwake s p = true) (hcall : (coreOf s p).gcall = some g)
    (htime : g.cycle + 1000000 ≤ cyclesNow s p) : gcallTimeout p s = gcallAbort p 2 s := by
  unfold gcallTimeout
  rw [hcall]
  dsimp only
  rw [if_pos (by simp [hawake, htime])]

/-! ### Writes of the window (R490, R494, R668) -/

section Window

variable {s : State} {who : Requester} {p : Nat} (hp : p < 272)
include hp

theorem writeOk_stwCtrl {cmd : Instr} {v : Word} {P : State → Prop} (hreach : Reaches s who (stwA p 0))
    (hexec : exec cmd s = .next (if p < 272 then request who (stwA p 0) true v s else s)) (hP : P (stwCtrlWrite p v s)) :
    WriteOk s cmd who P := by
  rw [if_pos hp, request_stwCtrl hp hreach] at hexec
  exact ⟨_, hexec, hP⟩

theorem writeOk_stewardDoorbell {v : Word} {P : State → Prop} (hreach : Reaches s who (stwA p 0xC))
    (hP : P (doorbellWrite p v s)) : WriteOk s (.stewardDoorbell who p v) who P := by
  have hexec : exec (.stewardDoorbell who p v) s = .next (if p < 272 then request who (stwA p 0xC) true v s else s) := rfl
  rw [if_pos hp, request_stwA hp (by decide) hreach rfl rfl] at hexec
  exact ⟨_, hexec, hP⟩

theorem writeOk_stwDbgWrite {r : Nat} {v : Word} {P : State → Prop} (hr : r < 24) (hreach : Reaches s who (stwA p (0x40100 + 4 * r)))
    (hP : P (if dbgOpen s p then putCore p (gWrite r v (coreOf s p)) s else s)) :
    WriteOk s (.stwDbgWrite who p (0x40100 + 4 * r) v) who P := by
  have hexec : exec (.stwDbgWrite who p (0x40100 + 4 * r) v) s = .next
      (if p < 272 ∧ 0x40100 ≤ 0x40100 + 4 * r ∧ 0x40100 + 4 * r < 0x40168
        then request who (stwA p (0x40100 + 4 * r)) true v s else s) := rfl
  rw [if_pos (by omega), request_stwDebug hp hr hreach] at hexec
  exact ⟨_, hexec, hP⟩

end Window

end Sys2Proof.Machine

open Sys2Proof Sys2Proof.Machine

/-- Settles O50: the instructions that reach other units, the events of a steward, and the writes of its window. -/
theorem stewardServices : Obligations.StewardServices := by
  unfold Obligations.StewardServices
  refine ⟨fun s p i => ⟨fun h => ?wft, fun h => ⟨fun hra => ?postReserved, fun h7 h17 hbist hshelf hactive _ _ =>
      ⟨fun hroom hpool => ?postAccepted, fun hfull => ?postFull⟩⟩,
      fun h => ⟨fun hra => ?fclaimReserved, fun hra => ?fclaim⟩,
      fun h => ⟨fun hra => ?frelReserved, fun hra hholds => ?frel, fun hra hholds => ?frelForeign⟩,
      fun h => ⟨fun hmis => ?ambAlign, fun haligned hlen => ?ambLength, fun off x haligned hlen hlocal hallowed hsize hline =>
        ⟨amb_full h haligned hlen hlocal hallowed hsize hline, amb_queued h haligned hlen hlocal hallowed hsize hline⟩⟩⟩,
    fun s p m chk alarm hawake hmiss hexl => ?lineFill,
    fun s p line hawake hrun hmiss haccess hdue hclock => ?interrupt,
    fun s p g hawake hcall hhalt htime => ?gcallTimeout,
    fun s p kind rd v hp hrun hawait hclock hshelf => ?wftRelease,
    fun s who p hp hreach => ⟨?halt, ?haltClear, fun hactive => ?restart⟩,
    fun s who p v hp hreach => ?doorbell,
    fun s who p r v hp hr hreach => ⟨fun hopen => ?debugOpen, fun hclosed => ?debugClosed⟩⟩
  case wft =>
    have hruns {f : Steward → Steward} (hf : f (coreOf s p) = if wftReached s (i.imm12 % 4) (gRead (coreOf s p) i.ra)
        then pcNext (gWrite i.rd (wftCount s (i.imm12 % 4)) (coreOf s p))
        else { coreOf s p with run := .waiting, await := some (i.imm12 % 4, gRead (coreOf s p) i.ra, i.rd) }) : StwNext s (.wft p) p f := by
      refine h.stwNext rfl fun u hu => ?_
      rw [hf, stwDo_wft p u h.row_eq, hu.coreOf]
      exact turns_stwWft hu p (i.imm12 % 4) i.rd _
    refine ⟨fun hreached => hruns (if_pos (wftReached_iff.2 hreached)).symm, fun hearly => hruns (if_neg fun hreached => ?_).symm⟩
    obtain ⟨hrunning, hcome⟩ := wftReached_iff.1 hreached
    exact hearly.elim (fun hstopped => hstopped hrunning) (fun hless => absurd hcome (not_le.2 hless))
  case postReserved =>
    refine h.stwNext rfl fun u hu => ?_
    rw [stwDo_post p u h.row_eq, hu.coreOf, stwPost_reserved p i.rd hra]
    exact turns_stwGive hu p i.rd 2
  case postAccepted =>
    obtain ⟨u, hu, hexec⟩ := h.exec (cmd := .post p) rfl
    rw [stwDo_post p u h.row_eq, hu.coreOf] at hexec
    exact ⟨_, hexec, stwPost_accepted hu ⟨h7, h17⟩ hbist hshelf hactive hroom hpool i.rd _⟩
  case postFull =>
    obtain ⟨u, hu, hexec⟩ := h.exec (cmd := .post p) rfl
    rw [stwDo_post p u h.row_eq, hu.coreOf] at hexec
    obtain ⟨hstatus, hpc, hsched⟩ := stwPost_full hu ⟨h7, h17⟩ hbist hshelf hactive hfull i.rd (gRead (coreOf s p) i.rb)
    exact ⟨_, hexec, hstatus, hpc, by rw [hsched]⟩
  case fclaimReserved =>
    refine h.traps (k := .flow) (info := 0) (addr := 0) rfl fun u hu => ?_
    rw [stwDo_fclaim p u h.row_eq, hu.coreOf]
    exact if_pos hra
  case fclaim =>
    obtain ⟨t, hexec, hpc, hcore⟩ := fclaim_claims h hra
    refine ⟨t, hexec, hpc, ?_⟩
    split
    next v x hclaim => rw [hcore, hclaim]
    next x hclaim => rw [hcore, hclaim]
  case frelReserved =>
    refine h.traps (k := .flow) (info := 0) (addr := 0) rfl fun u hu => ?_
    rw [stwDo_frel p u h.row_eq, hu.coreOf]
    exact if_pos hra
  case frel =>
    obtain ⟨u, hu, hexec⟩ := h.exec (cmd := .frel p) rfl
    rw [stwDo_frel p u h.row_eq, hu.coreOf] at hexec
    obtain ⟨hpc, hgpr, hflow⟩ := stwFrel_releases hu p hra hholds
    exact ⟨_, hexec, hpc, hgpr, by rw [hflow], by rw [hflow]⟩
  case frelForeign =>
    refine h.traps (k := .flow) (info := 0) (addr := 0) rfl fun u hu => ?_
    rw [stwDo_frel p u h.row_eq, hu.coreOf]
    exact stwFrel_foreign hu p hra hholds
  case ambAlign =>
    refine h.traps (k := .align) rfl fun u hu => ?_
    rw [stwDo_amb p u h.row_eq, hu.coreOf, stwAmb_misaligned hmis]
  case ambLength =>
    obtain ⟨u, hu, hexec⟩ := h.exec (cmd := .amb p) rfl
    rw [stwDo_amb p u h.row_eq, hu.coreOf, stwAmb_length haligned hlen] at hexec
    exact ⟨_, hexec, (turns_stwGive hu p i.rd _).1⟩
  case lineFill =>
    refine ⟨_, rfl, ?_⟩
    split
    next d x hread =>
      exact lineFill_releases hawake hmiss alarm hread
    next st d x hst hread =>
      have htraps := lineFill_traps hawake hmiss hst alarm hexl hread
      rw [htraps]
      cases hinstr : m.instr with
      | true => exact ⟨trapped_miss .., takes_trapped .ifetch 0 0 0 (unmissed (coreOf s p))⟩
      | false =>
        simp only [Bool.false_eq_true, if_false, false_or]
        exact ⟨trapped_miss .., takes_trapped .bus _ 0 m.addr (unmissed (coreOf s p))⟩
  case interrupt =>
    have hexec : exec (.interrupt p) s = .next (interrupt p s) := rfl
    rw [interrupt_takes hawake hrun hmiss haccess hdue hclock] at hexec
    exact traps_takeException (k := .int) (onlyTrace_traceBoundary p s) hexec
  case gcallTimeout =>
    have hexec : exec (.gcallTimeout p) s = .next (gcallTimeout p s) := rfl
    rw [gcallTimeout_aborts hawake hcall htime] at hexec
    obtain ⟨hcore, hflag⟩ := gcallAbort_clears hcall hhalt 2
    refine ⟨_, hexec, ?_⟩
    rw [hcore]
    exact ⟨rfl, rfl, rfl, rfl, rfl, rfl, hflag⟩
  case wftRelease =>
    have hexec : exec (.wftRelease p) s = .next (if p < 272 then wftRelease p s else s) := rfl
    rw [if_pos hp] at hexec
    refine ⟨fun hearly => ?_, fun hreached => ⟨_, hexec, wftRelease_releases hrun hawait hclock hshelf hreached⟩⟩
    rw [hexec, wftRelease_early hawait hearly]
  case halt => exact writeOk_stwCtrl hp hreach rfl (stwCtrlWrite_halts p s)
  case haltClear => exact writeOk_stwCtrl hp hreach rfl (stwCtrlWrite_clears p s)
  case restart =>
    refine writeOk_stwCtrl hp hreach (v := 2) rfl ?_
    obtain ⟨hstarted, hic, hclean⟩ := stwCtrlWrite_restarts hactive
    exact ⟨hstarted.run, hstarted.pc, hstarted.gpr, hstarted.priv, hstarted.evec, hstarted.irq, hic, hclean⟩
  case doorbell =>
    exact writeOk_stewardDoorbell hp hreach ⟨irqPendOf_doorbellWrite p v s, fun q hq => irqPendOf_doorbellWrite_other hq v s⟩
  case debugOpen =>
    refine writeOk_stwDbgWrite hp hr hreach ?_
    rw [if_pos hopen, coreOf_putCore_same]
    exact ⟨(gRead_gWrite_same ..).trans (if_pos hr), gWrite_pc .., fun k _ hk => gRead_gWrite_other hk ..⟩
  case debugClosed =>
    refine writeOk_stwDbgWrite hp hr hreach ?_
    rw [hclosed]
    rfl

end
